-- ==== Sys2Proof/Word.lean ====
section
/-! DEFINITION. The word types of the MX-40 model and their plainest arithmetic. -/

namespace Sys2Proof

/-- A byte: the smallest addressable unit (R6). -/
abbrev Byte := BitVec 8

/-- A register, payload word or lane of 32 bits (R9). -/
abbrev Word := BitVec 32

/-- A 64-bit register or field. -/
abbrev DWord := BitVec 64

/-- One 64-byte line; byte `i` of the line is bits `8i+7 .. 8i` (R6). -/
abbrev Line := BitVec 512

end Sys2Proof
end

