-- ==== Sys2Proof/Config.lean ====
section
/-! DEFINITION. What an implementation fixes and what the spec leaves open: opaque constants, of which
nothing can be proved. Each is named in a row of the assumption log. -/

namespace Sys2Proof.Config

/-- The module serial (R330, R402 MCI_IDENTIFY). -/
opaque serial : DWord
/-- The minor version of the steward firmware (R1, R402). -/
opaque fwMinor : BitVec 16
/-- The patch version of the steward firmware (R402). -/
opaque fwPatch : BitVec 16
/-- The security version of the firmware image in the store (R446). -/
opaque fwSvn : Word

/-- A 32-bit value that the spec leaves undefined, one for each use of the state's counter. -/
opaque freeWord : Nat → Word
/-- A byte that the spec leaves undefined, one for each use of the state's counter. -/
opaque freeByte : Nat → Byte
/-- A bit that the spec leaves undefined, one for each use of the state's counter. -/
opaque freeBit : Nat → Bool
/-- What a core holds in a run whose pattern broke a rule that the loader cannot check (R117, R488): run, logical core,
cycle, kind of store, place in it. -/
opaque undefined : Nat → Nat → Nat → Nat → Nat → Word
/-- The steering that the clock tree takes after a dialog (FT_RATE), before its bound of R30. -/
opaque steering : Nat → Int

/-- AES-256 encryption and decryption of one 16-byte block (FIPS 197), which R439 uses: key, block. -/
opaque aesEncrypt : List Byte → List Byte → List Byte
/-- AES-256 decryption of one block. -/
opaque aesDecrypt : List Byte → List Byte → List Byte
/-- SHAKE256 of a message, to a number of bytes (FIPS 202). -/
opaque shake256 : List Byte → Nat → List Byte
/-- The number of a flash unit of a record, by the record's write sequence number and the unit's place in it (R436). -/
opaque unitNumber : Nat → Nat → Nat
/-- The device secret of 32 bytes, fused at manufacture (R431). -/
opaque deviceSecret : List Byte
/-- SLH-DSA-SHAKE-256s: whether a signature over a message verifies against the key of a ROM key record. -/
opaque slhVerify : DWord → List Byte → List Byte → Bool
/-- The SHA-384 digest. -/
opaque sha384 : List Byte → List Byte
/-- A signature by one of the module's own keys. -/
opaque sign : Nat → List Byte → List Byte
/-- A random string of a length, one for each use of the state's counter. -/
opaque random : Nat → Nat → List Byte
/-- The shared secret and the answering key of an ML-KEM or ECDHE exchange. -/
opaque kem : Nat → List Byte → List Byte × List Byte
/-- The fields of an SPDM response that the spec does not lay out, by request code and request (R450). -/
opaque spdmFields : Nat → List Byte → List Byte
/-- Whether the verify data of a FINISH agrees with the transcript of its handshake. -/
opaque finishOk : List Byte → List Byte → Bool
/-- A certificate chain of the module by slot (R449). -/
opaque certChain : Nat → List Byte
/-- The KEY_ID of each of the eight keys of the ROM (R443). -/
opaque romKeyId : Fin 8 → DWord
/-- The role of each: true for cartridges, false for firmware. -/
opaque romCartridge : Fin 8 → Bool
/-- COMMIT_SVN of the image in the store at manufacture, and the bytes of that image (R444). -/
opaque fwCommit : Bool
/-- The bytes of the image at manufacture. -/
opaque fwImage : List Byte
/-- The boot ROM's bytes (R451). -/
opaque bootRom : List Byte
/-- The capture delay of a byte lane after training (R257), by lane number in the module. -/
opaque trainedDelay : Nat → BitVec 8
/-- Whether the spare rank of a channel passes the start-up test (R263), by channel number. -/
opaque spareRankGood : Nat → Bool
/-- The fuse map at manufacture: spare rows and columns in use, by bank number of the module. -/
opaque fuseRows : Nat → List Nat
/-- Its columns: line offset and symbol. -/
opaque fuseCols : Nat → List (Nat × Nat)

/-- The Command Effects Log's effect bits of a command that the spec does not state, by opcode (R384). -/
opaque cmdEffect : Nat → BitVec 16

end Sys2Proof.Config
end

