-- ==== Sys2Proof/Syntax.lean ====
section
/-! DEFINITION. The commands of the block: one constructor of `Instr` for every row of the table of
operations and events, with the row's operands. An operand is what comes from outside the module's own
state: which unit acts, the bits of an instruction field, a payload, a reading of a sensor. -/

namespace Sys2Proof

/-- A data port, 0 to 7. -/
abbrev Port := Fin 8
/-- A context, 0 to 511 (R335). -/
abbrev Ctx := Fin 512
/-- A core: physical cluster × 128 + local core (R148). -/
abbrev CoreId := Fin 2560
/-- A physical cluster, and the stack bonded to it (R486). -/
abbrev Cluster := Fin 20
/-- A DRAM channel of a stack (R237). -/
abbrev Chan := Fin 32
/-- A cartridge bay (R298). -/
abbrev Bay := Fin 9
/-- A source identity (R336). -/
abbrev SrcId := BitVec 12

/-- A path on which an MCI command reaches the module (R379). -/
inductive Path where
  | mailbox (p : Port) (secondary : Bool)
  | sideband (n : Fin 2)
  | ring (c : Ctx)
  deriving DecidableEq, Repr

/-- A function of a port: its PF, or the VF to which a context is bound (R335). -/
inductive Fn where
  | pf (p : Port)
  | vf (c : Ctx)
  deriving DecidableEq, Repr

/-- The MetaValue of a host's request to a window line (R213). -/
inductive MetaValue where
  | i | s | a
  deriving DecidableEq, Repr

/-- TYPE of the S field (R108). -/
inductive LaneType where
  | fp32 | int32 | uint32 | w64
  deriving DecidableEq, Repr

/-- The address mode of a class 13 access: TYPE 0, 1 or 2 of R110. -/
inductive AddrMode where
  | direct | register | loop
  deriving DecidableEq, Repr

/-- The register and immediate fields of an S instruction (R108). -/
structure SField where
  mask : BitVec 2
  dest : BitVec 5
  srcA : BitVec 5
  srcB : BitVec 5
  srcC : BitVec 5
  imm  : BitVec 16
  deriving DecidableEq, Repr

/-- Where an SPDM or IDE_KM message arrives: a PF's DOE mailbox or a sideband port (R450). -/
inductive SpdmChan where
  | doe (p : Port)
  | sideband (n : Fin 2)
  deriving DecidableEq, Repr

/-- An SPDM message as received: its channel, the secured session it came in, if any, and its bytes. -/
structure SpdmMsg where
  chan    : SpdmChan
  session : Option Word
  body    : List Byte
  deriving DecidableEq, Repr

/-- The fields of an IDE_KM or CXL_IDE_KM message (R442): the port, whether it came inside a secured
session on the PF's DOE mailbox, the stream (0 the Link IDE or CXL IDE stream), the direction, the
sub-stream, the key set and the key. -/
structure IdeMsg where
  port    : Port
  secured : Bool
  stream  : Fin 6
  tx      : Bool
  sub     : Fin 3
  keySet  : Fin 2
  key     : BitVec 256
  deriving DecidableEq, Repr

/-- A register space that software writes (R332, R333, R382): the module register space through PF BAR 2 of a
port, the doorbell page of a context, the context decoder block of a context, and the registers of a port's primary or secondary
mailbox in PF BAR 0. -/
inductive RegSpace where
  | mailbox (p : Port) (secondary : Bool)
  | module (p : Port)
  | doorbell (c : Ctx)
  | decoder (c : Ctx)
  deriving DecidableEq, Repr

/-- A unit that a reset acts on (R420). -/
inductive ResetUnit where
  | engine (k : CoreId) (sEngine : Bool)
  | core (k : CoreId)
  | cluster (c : Cluster)
  | stack (s : Cluster)
  | baseDie (d : Fin 2)
  | hubDie
  deriving DecidableEq, Repr

/-- What a start-up stage ended with (R469, R470): done, or held with a cause. -/
inductive StageResult where
  | done
  | fwImage | dramTrain | flashArray | input | reference
  deriving DecidableEq, Repr

/-- The wear ledger of a cartridge (R304). -/
structure CartLedger where
  cartId   : DWord
  writer   : DWord
  lstate   : BitVec 8      -- 0 NEW, 1 GUSSET, 2 MEMBER, 3 RETIRED
  position : BitVec 8
  tb       : Word
  meanPe   : Word
  maxPe    : Word
  bad      : BitVec 16     -- grown bad blocks in tenths of a per cent
  hours    : Word
  deriving DecidableEq, Repr

/-- A copy of the wear ledger in the reserved blocks, with its CRC-32C (R304). -/
structure LedgerCopy where
  ledger : CartLedger
  crc    : Word
  deriving DecidableEq, Repr

/-- A copy of the rebuild journal in the reserved blocks (R316): the walk's position, the CART_IDs of its target and, for a copy, of
its source, the pointer and E, FT_FRAME, whether the walk has ended, and its CRC-32C. -/
structure JournalCopy where
  position : BitVec 8
  target   : DWord
  source   : DWord
  copy     : Bool
  next     : BitVec 48
  last     : BitVec 48
  frame    : DWord
  ended    : Bool
  crc      : Word
  deriving DecidableEq, Repr

/-- What the identity memory and the reserved blocks of a present cartridge hold (R302, R304, R309): bytes 0 to 255 of the identity
record, its signature, the copies of the ledger, the newest first, and its copy of the rebuild journal. -/
structure Cartridge where
  record  : List Byte
  sig     : List Byte
  ledgers : List LedgerCopy
  journal : Option JournalCopy
  deriving DecidableEq, Repr

/-- What waited for a lock under R233, kinds 1 and 2. -/
inductive LockWaiter where
  | mover (pid : Nat)
  | steward (via : Path) (opcode : BitVec 16) (tag : Word)
  deriving DecidableEq, Repr

/-- The commands: one constructor for each row of the table of operations and events. -/
inductive Instr where
  -- fabric time, frames and notches
  | frameBoundary
  | ptmDialogStart (p : Port)
  | ptmDialogResponse (p : Port) (master : DWord) (sub : BitVec 10)
  | ptmDialogTimeout (p : Port)
  | ptmLost (p : Port)
  | holdoverExpired
  | stackSetChangeTimeout (s : Cluster)
  | decoderCommitComplete (c : Ctx)
  -- slots and arbiters
  | dramSlot (s : Cluster) (h : Chan)
  | dramAdmissionDecision (s : Cluster) (h : Chan)
  | linkArbiterDecision (die : Fin 2) (toHub : Bool) (requests : BitVec 15)
  | flashArbiterDecision (b : Bay) (ch : Fin 8) (requests : BitVec 5)
  | masterMaskChange (m : Fin 15) (raised : Bool)
  -- T field
  | tnop (k : CoreId)
  | mac (k : CoreId) (start : Bool) (acc : BitVec 7) (rep : BitVec 10) (accStep : Bool)
      (advance : BitVec 6) (dpuEn : BitVec 8)
  -- S field
  | snop (k : CoreId)
  | fpAdd (k : CoreId) (f : SField)
  | fpSubtract (k : CoreId) (f : SField)
  | fpMultiply (k : CoreId) (f : SField)
  | fpFusedMultiplyAdd (k : CoreId) (f : SField)
  | fpDivide (k : CoreId) (f : SField)
  | fpSquareRoot (k : CoreId) (f : SField)
  | fpReciprocal (k : CoreId) (f : SField)
  | fpReciprocalSquareRoot (k : CoreId) (f : SField)
  | fpMinimum (k : CoreId) (f : SField)
  | fpMaximum (k : CoreId) (f : SField)
  | fpAbsoluteValue (k : CoreId) (f : SField)
  | fpNegate (k : CoreId) (f : SField)
  | fpCopySign (k : CoreId) (f : SField)
  | compareEqual (k : CoreId) (ty : LaneType) (f : SField)
  | compareLessThan (k : CoreId) (ty : LaneType) (f : SField)
  | compareLessOrEqual (k : CoreId) (ty : LaneType) (f : SField)
  | compareUnordered (k : CoreId) (ty : LaneType) (f : SField)
  | intAdd (k : CoreId) (ty : LaneType) (f : SField)
  | intSubtract (k : CoreId) (ty : LaneType) (f : SField)
  | intMultiplyLow (k : CoreId) (ty : LaneType) (f : SField)
  | intMultiplyHigh (k : CoreId) (ty : LaneType) (f : SField)
  | intMinimum (k : CoreId) (ty : LaneType) (f : SField)
  | intMaximum (k : CoreId) (ty : LaneType) (f : SField)
  | bitwiseAnd (k : CoreId) (f : SField)
  | bitwiseOr (k : CoreId) (f : SField)
  | bitwiseExclusiveOr (k : CoreId) (f : SField)
  | bitwiseNot (k : CoreId) (f : SField)
  | shiftLeft (k : CoreId) (f : SField)
  | shiftRightLogical (k : CoreId) (f : SField)
  | shiftRightArithmetic (k : CoreId) (f : SField)
  | rotateLeft (k : CoreId) (f : SField)
  | populationCount (k : CoreId) (f : SField)
  | select (k : CoreId) (f : SField)
  | convertFromFp32 (k : CoreId) (f : SField)
  | convertToFp32 (k : CoreId) (f : SField)
  | mxQuantise (k : CoreId) (f : SField)
  | reduceSum (k : CoreId) (ty : LaneType) (f : SField)
  | reduceMinimum (k : CoreId) (ty : LaneType) (f : SField)
  | reduceMaximum (k : CoreId) (ty : LaneType) (f : SField)
  | accumulatorRead (k : CoreId) (f : SField)
  | accumulatorWrite (k : CoreId) (f : SField)
  | atomicIntegerAdd (k : CoreId) (ty : LaneType) (f : SField)
  | atomicSignedMinimum (k : CoreId) (ty : LaneType) (f : SField)
  | atomicSignedMaximum (k : CoreId) (ty : LaneType) (f : SField)
  | atomicUnsignedMinimum (k : CoreId) (ty : LaneType) (f : SField)
  | atomicUnsignedMaximum (k : CoreId) (ty : LaneType) (f : SField)
  | atomicAnd (k : CoreId) (ty : LaneType) (f : SField)
  | atomicOr (k : CoreId) (ty : LaneType) (f : SField)
  | atomicExclusiveOr (k : CoreId) (ty : LaneType) (f : SField)
  | atomicExchange (k : CoreId) (ty : LaneType) (f : SField)
  | atomicCompareExchange (k : CoreId) (ty : LaneType) (f : SField)
  | atomicFp32Add (k : CoreId) (f : SField)
  | atomicFp32Minimum (k : CoreId) (f : SField)
  | atomicFp32Maximum (k : CoreId) (f : SField)
  | sld (k : CoreId) (mode : AddrMode) (f : SField)
  | sst (k : CoreId) (mode : AddrMode) (f : SField)
  | sldx (k : CoreId) (f : SField)
  | sstx (k : CoreId) (f : SField)
  -- X field
  | xnop (k : CoreId)
  | step (k : CoreId)
  | endPattern (k : CoreId)
  | lcnt (k : CoreId) (counter : BitVec 3) (limit : BitVec 23)
  | loop (k : CoreId) (counter : BitVec 3) (target : BitVec 12)
  | waitf (k : CoreId) (cycle : BitVec 11) (frames : BitVec 8)
  | waitfResume (k : CoreId)
  | acw (k : CoreId) (value : BitVec 19)
  | tsd (k : CoreId) (stream : BitVec 3) (addr16 : BitVec 14)
  | xsend (k : CoreId) (entry : BitVec 12)
  | xred (k : CoreId) (entry : BitVec 12)
  | xwait (k : CoreId) (count : BitVec 16)
  | xclr (k : CoreId)
  | exchangeMessageArrive (msg : Nat)
  -- CXL.mem
  | memRd (p : Port) (src : SrcId) (hpa : DWord) (mv : MetaValue) (tag : BitVec 16)
  | memRdData (p : Port) (src : SrcId) (hpa : DWord) (mv : MetaValue) (tag : BitVec 16)
  | memInv (p : Port) (src : SrcId) (hpa : DWord) (mv : MetaValue) (tag : BitVec 16)
  | memInvNt (p : Port) (src : SrcId) (hpa : DWord) (mv : MetaValue) (tag : BitVec 16)
  | memClnEvct (p : Port) (src : SrcId) (hpa : DWord) (tag : BitVec 16)
  | memSpecRd (p : Port) (src : SrcId) (hpa : DWord)
  | memWr (p : Port) (src : SrcId) (hpa : DWord) (mv : MetaValue) (tag : BitVec 16) (data : Line)
      (poison : Bool)
  | memWrPtl (p : Port) (src : SrcId) (hpa : DWord) (mv : MetaValue) (tag : BitVec 16) (data : Line)
      (be : DWord) (poison : Bool)
  | biRsp (p : Port) (src : SrcId) (dev : BitVec 47) (shared : Bool)
  | biConflict (p : Port) (src : SrcId) (dev : BitVec 47)
  | stallBudgetExpired (p : Port) (tag : BitVec 16)
  | recallWaitExpired (dev : BitVec 47)
  | lockWaitExpired (w : LockWaiter)
  -- tiering
  | pageMoveStart
  | referenceBitSweep
  | flashReadComplete (pid : Nat) (uncorrectable : BitVec 8)
  | stripeCloseTimeout
  | stripeProgramComplete (seq : BitVec 48)
  | moverMovesDone (obj : BitVec 24)
  | frameZeroFillDone (sliver : CoreId) (frame : Fin 8192)
  | cowCopyComplete (pid : Nat)
  | garbageCollection (seq : BitVec 48)
  | pieceDecode (chan : Word)
  | pieceEncode (chan : Word)
  -- rings, registers, interrupts
  | completionPost (c : Ctx) (tag : Word)
  | backgroundCommandComplete (p : Port) (secondary : Bool)
  | workRingDoorbell (c : Ctx) (value : Word)
  | eventRingHeadWrite (c : Ctx) (value : Word)
  | ringEnable (c : Ctx) (value : Word)
  | ringDisable (c : Ctx) (value : Word)
  | ringDrainComplete (c : Ctx)
  | eventRingInterruptTimer (c : Ctx)
  | decoderCommitWrite (c : Ctx) (value : Word)
  | intEnableWrite (p : Port) (block : Fin 14) (value : Word)
  | registerWrite (sp : RegSpace) (offset : BitVec 22) (bytes : BitVec 4) (value : DWord)
  | msixUnmask (f : Fn) (vector : Fin 8)
  -- work-ring entries
  | cue (c : Ctx) (entry : Line)
  | promote (c : Ctx) (entry : Line)
  | evict (c : Ctx) (entry : Line)
  | flush (c : Ctx) (entry : Line)
  | codecIn (c : Ctx) (entry : Line)
  | codecOut (c : Ctx) (entry : Line)
  | codecExchange (c : Ctx) (entry : Line)
  | nmFill (c : Ctx) (entry : Line)
  | nmCopy (c : Ctx) (entry : Line)
  | nmCompare (c : Ctx) (entry : Line)
  | nmReduce (c : Ctx) (entry : Line)
  | nmAtomic (c : Ctx) (entry : Line)
  | swapIn (c : Ctx) (entry : Line)
  | swapOut (c : Ctx) (entry : Line)
  | nop (c : Ctx) (entry : Line)
  | steward (c : Ctx) (entry : Line)
  | upstreamCompletion (c : Ctx) (tag : Word) (successful : Bool) (ep : Bool) (data : List Line)
  | upstreamCompletionTimeout (c : Ctx) (tag : Word)
  | poisonedTlpToBar (p : Port)
  -- MCI commands
  | mciIdentify (via : Path) (input : List Byte)
  | ctxSelect (via : Path) (input : List Byte)
  | patLoad (via : Path) (input : List Byte)
  | patUnload (via : Path) (input : List Byte)
  | patBind (via : Path) (input : List Byte)
  | patUnbind (via : Path) (input : List Byte)
  | objCreate (via : Path) (input : List Byte)
  | objDelete (via : Path) (input : List Byte)
  | objSetClass (via : Path) (input : List Byte)
  | objQuery (via : Path) (input : List Byte)
  | winCreate (via : Path) (input : List Byte)
  | winDelete (via : Path) (input : List Byte)
  | verInit (via : Path) (input : List Byte)
  | verDraft (via : Path) (input : List Byte)
  | verPublish (via : Path) (input : List Byte)
  | verRebase (via : Path) (input : List Byte)
  | verDiscard (via : Path) (input : List Byte)
  | verOpen (via : Path) (input : List Byte)
  | verClose (via : Path) (input : List Byte)
  | verQuery (via : Path) (input : List Byte)
  | leaseRenew (via : Path) (input : List Byte)
  | leaseSet (via : Path) (input : List Byte)
  | leaseExpiry (c : Ctx)
  | codecOpen (via : Path) (input : List Byte)
  | codecClose (via : Path) (input : List Byte)
  | dramOrderSet (via : Path) (input : List Byte)
  | dramSpare (via : Path) (input : List Byte)
  | cartQuery (via : Path) (input : List Byte)
  | cartRetire (via : Path) (input : List Byte)
  | ledgerSet (via : Path) (input : List Byte)
  | ledgerQuery (via : Path) (input : List Byte)
  | modeSet (via : Path) (input : List Byte)
  | modeQuery (via : Path) (input : List Byte)
  | srcidSet (via : Path) (input : List Byte)
  | portRoleSet (via : Path) (input : List Byte)
  | swapGrant (via : Path) (input : List Byte)
  | regRead (via : Path) (input : List Byte)
  | regWrite (via : Path) (input : List Byte)
  | keySet (via : Path) (input : List Byte)
  | keyClear (via : Path) (input : List Byte)
  | ctxUnpick (via : Path) (input : List Byte)
  | quarantineRelease (via : Path) (input : List Byte)
  | resetRequest (via : Path) (input : List Byte)
  -- CXL mailbox commands
  | identifyMemoryDevice (p : Port) (secondary : Bool) (input : List Byte)
  | getSupportedLogs (p : Port) (secondary : Bool) (input : List Byte)
  | getLog (p : Port) (secondary : Bool) (input : List Byte)
  | getEventRecords (p : Port) (secondary : Bool) (input : List Byte)
  | clearEventRecords (p : Port) (secondary : Bool) (input : List Byte)
  | getEventInterruptPolicy (p : Port) (secondary : Bool) (input : List Byte)
  | setEventInterruptPolicy (p : Port) (secondary : Bool) (input : List Byte)
  | getTimestamp (p : Port) (secondary : Bool) (input : List Byte)
  | setTimestamp (p : Port) (secondary : Bool) (input : List Byte)
  | getDcConfiguration (p : Port) (secondary : Bool) (input : List Byte)
  | getDcExtentList (p : Port) (secondary : Bool) (input : List Byte)
  | addDcResponse (p : Port) (secondary : Bool) (base : DWord) (length : DWord) (accept : Bool)
  | releaseDc (p : Port) (secondary : Bool) (base : DWord) (length : DWord)
  | fmDcAdd (n : Fin 2) (host : BitVec 16) (base : DWord) (length : DWord) (tag : BitVec 128)
      (shareable : Bool)
  | fmDcWithdraw (n : Fin 2) (host : BitVec 16) (base : DWord) (length : DWord)
  | fmDcForceRelease (n : Fin 2) (host : BitVec 16) (base : DWord) (length : DWord)
  | dcOfferTimeout (c : Ctx) (base : DWord)
  | grantReleaseComplete (c : Ctx) (base : DWord)
  | transferFw (via : Path) (action : BitVec 8) (slot : BitVec 8) (offset : Word) (data : List Byte)
  | activateFw (via : Path) (action : BitVec 8) (slot : BitVec 8)
  | fwStoreWriteDone
  -- SPDM and IDE key management
  | kekSet (m : SpdmMsg)
  | kekClear (m : SpdmMsg)
  | getVersion (m : SpdmMsg)
  | getCapabilities (m : SpdmMsg)
  | negotiateAlgorithms (m : SpdmMsg)
  | getDigests (m : SpdmMsg)
  | getCertificate (m : SpdmMsg)
  | challenge (m : SpdmMsg)
  | getMeasurements (m : SpdmMsg)
  | keyExchange (m : SpdmMsg)
  | finish (m : SpdmMsg)
  | heartbeat (m : SpdmMsg)
  | keyUpdate (m : SpdmMsg)
  | endSession (m : SpdmMsg)
  | chunkSend (m : SpdmMsg)
  | chunkGet (m : SpdmMsg)
  | spdmSignatureDone
  | ideKmQuery (m : IdeMsg)
  | ideKmKeyProg (m : IdeMsg)
  | ideKmKSetGo (m : IdeMsg)
  | ideKmKSetStop (m : IdeMsg)
  | cxlQuery (m : IdeMsg)
  | cxlKeyProg (m : IdeMsg)
  | cxlKSetGo (m : IdeMsg)
  | cxlKSetStop (m : IdeMsg)
  | cxlGetkey (m : IdeMsg)
  -- links and functions
  | linkUp (p : Port) (rate : BitVec 3) (width : BitVec 2) (flit256 : Bool) (pbr : Bool) (bi : Bool)
      (revasEcho : Bool)
  | linkDown (p : Port)
  | linkRecoveryEntry (p : Port) (equalisationFailed : Bool)
  | busMasterEnableClear (f : Fn)
  | vfFunctionLevelReset (c : Ctx)
  | vfEnableClear (p : Port) (numVfs : BitVec 7)
  | pfFunctionLevelReset (p : Port)
  | perstAssert (p : Port)
  | perstRelease (p : Port)
  -- sensors, calibration, sparing, scrubbing
  | stackSensorRead (s : Cluster) (tenths : List (Option Int))
  | thermalSensorRead (baseA : List (Option Int)) (baseB : List (Option Int)) (hub : List (Option Int))
  | calWindowClose (s : Cluster) (h : Chan) (lane : Fin 32) (early : BitVec 13) (late : BitVec 13)
  | rankRowCopy (s : Cluster) (h : Chan)
  | scrubInterval (s : Cluster) (h : Chan)
  | directedScrub (s : Cluster) (h : Chan)
  | bucketLeak
  | rowSpareCopyDone (s : Cluster) (h : Chan) (rank : Fin 17) (bank : Fin 16)
  | columnSpareWalkDone (s : Cluster) (h : Chan) (rank : Fin 17) (bank : Fin 16)
  -- cartridges
  | bayPresence (b : Bay) (cart : Cartridge)
  | bayPresenceLost (b : Bay)
  | bayLatchOpen (b : Bay)
  | latchPowerRemove (b : Bay)
  | cartVerifyComplete (b : Bay) (parameterPageAgrees : Bool) (rates : List (Option (BitVec 2)))
  | channelStatusTimeout (b : Bay)
  | codewordFailureLimit (b : Bay)
  | ledgerWrite (b : Bay)
  | eolRepeat (b : Bay)
  | rebuildStripe
  | rebuildJournalWrite
  | rebuildDone
  -- hangs and recovery
  | xwaitLimit (k : CoreId)
  | engineStuck (k : CoreId) (sEngine : Bool)
  | unpickStalled (k : CoreId)
  | clusterHeartbeatMiss (c : Cluster)
  | exchangeStuck (c : Cluster)
  | stackHeartbeatMiss (s : Cluster)
  | dieHeartbeatMiss (d : Fin 3)
  | hubBlockStall
  | commandProgressTimeout (c : Ctx) (tag : Word)
  | stewardWatchdog
  | unpickComplete (c : Ctx)
  | resetComplete (u : ResetUnit)
  | resetEscalate (u : ResetUnit)
  | replayArm
  | packageReset
  -- start-up, power, pins
  | startupStageComplete (r : StageResult) (ms : BitVec 16)
  | domainPowerUpDone (d : Fin 80)
  | inputReading (mv : BitVec 16) (deciamps : BitVec 16) (mean1s : BitVec 12) (mean10ms : BitVec 12)
  | inputPowerFault
  | mrefLoss
  | mrefStable
  | pwrEnRise
  | pwrEnFall
  | modRstFall
  | modRstRise
  | sidebandAlertRepeat (n : Fin 2)
  | vfEnableSet (p : Port) (numVfs : BitVec 7)
  | busMasterEnableSet (f : Fn)
  | ptmEnableWrite (p : Port) (enable : Bool)
  | linkRetrainComplete (p : Port) (rate : BitVec 3)
  | functionResetComplete (f : Fn)
  | endpointIdAssignment (n : Fin 2) (eid : BitVec 8)
  deriving DecidableEq, Repr

end Sys2Proof
end

