-- ==== Sys2Proof/Machine/State.lean ====
section
/-! DEFINITION. The state of the module as plain data, the reasons a step can stop, and the state after a
package reset. Every field's docstring names the rule that gives it. -/

namespace Sys2Proof.Machine

/-- A map from numbers, kept as pairs with rising keys. -/
abbrev AMap (α : Type) := List (Nat × α)

/-- The states of the anchoring machine, in the order of FT_STATUS.STATE (R33). -/
inductive Anchor where
  | unanchored | acquiring | anchored | holdover | reacquiring | expired
  deriving DecidableEq, Repr

/-- The PTM requester of one port (R28, R29). -/
structure PtmPort where
  /-- a dialog's request is outstanding -/
  active  : Bool := false
  /-- consecutive dialogs that were not valid -/
  invalid : Nat := 0
  /-- the port's PTM is not lost (FT_STATUS.PTM_VALID) -/
  valid   : Bool := false
  /-- FT_CTRL as the port's last dialog took it (R69) -/
  ctrl    : DWord := 0x515
  /-- d of its last valid dialog, whether or not the port is the source (R28) -/
  offset  : Int := 0
  deriving DecidableEq, Repr

/-- Fabric time (chapter 02). -/
structure FtState where
  /-- FT_TIME (R27); the model moves it at frame boundaries -/
  time      : DWord := 0
  /-- FT_TIME runs (R33, R469) -/
  running   : Bool := false
  /-- the model's own: boundaries since FT_TIME started, never renumbered -/
  run       : Nat := 0
  anchor    : Anchor := .unanchored
  /-- FT_STATUS.ACTIVE_PORT -/
  source    : Port := 0
  /-- consecutive qualifying dialogs (R33) -/
  qualify   : Nat := 0
  /-- d of the last valid source dialog (FT_OFFSET) -/
  offset    : Int := 0
  /-- the part of d still to be steered out, in units of 0.1 ps (R31) -/
  restTenth : Int := 0
  /-- the last rest in ns as measured (R68 payload) -/
  lastRest  : Int := 0
  /-- FT_RATE in parts per 10^9 (R30, R32) -/
  rate      : Int := 0
  /-- the renumbering due at the next boundary (R31, R487) -/
  renumber  : Int := 0
  /-- whether that renumbering raises EV_TIME_STEP (R33, R487) -/
  reportStep : Bool := false
  /-- the holdover timer in ns (R33) -/
  holdover  : Nat := 0
  deriving DecidableEq, Repr

/-- The CXL event logs of a PF, by severity (R353). -/
inductive LogKind where
  | informational | warning | failure | fatal | dynamicCapacity
  deriving DecidableEq, Repr

/-- What a CXL event record is (R353). -/
inductive RecordKind where
  | vendor | generalMedia | dynamicCapacity
  deriving DecidableEq, Repr

/-- A record of a CXL event log: its handle, the kind, the time and the event record's fields (R353, R400). -/
structure LogRecord where
  handle : Nat
  kind   : RecordKind
  time   : DWord
  code   : BitVec 16
  ctx    : BitVec 16
  words  : List Word
  deriving DecidableEq, Repr

/-- The five logs of a PF with their overflow counts (R353). -/
structure LogSet where
  records  : List (LogKind × LogRecord) := []
  /-- by log: records that found no room, and the times of the first and the last of them -/
  overflow : AMap (Nat × DWord × DWord) := []
  nextHandle : Nat := 1
  deriving DecidableEq, Repr

/-- A command that a mailbox runs in the background (R383). -/
structure Background where
  opcode : BitVec 16
  output : List Byte := []
  done   : Bool := false
  deriving DecidableEq, Repr

/-- A mailbox of a PF (R382, R383, R380). -/
structure Mailbox where
  /-- the current context, none for 0xFFFF -/
  ctx     : Option Ctx := none
  bg      : Option Background := none
  /-- an output discarded by a function-level reset (R385) -/
  discard : Bool := false
  /-- Mailbox Control: Doorbell Interrupt and Background Command Complete Interrupt (R334, R382) -/
  dbInt   : Bool := false
  bgInt   : Bool := false
  deriving DecidableEq, Repr

/-- A port: its link, its PF and its mailboxes (chapter 11). -/
structure PortState where
  up        : Bool := false
  /-- PT_PORT_STATUS.RATE: 0 down, 1 below 32 GT/s, 2 32, 3 64, 4 128 GT/s -/
  rate      : BitVec 3 := 0
  width     : BitVec 2 := 0
  flit256   : Bool := false
  pbr       : Bool := false
  bi        : Bool := false
  revasOk   : Bool := true
  /-- the link is retraining (R325, R461) -/
  retrain   : Bool := false
  /-- PTM Enable of the PF (R327) -/
  ptmEnable : Bool := false
  ptm       : PtmPort := {}
  vfEnable  : Bool := false
  numVfs    : Nat := 0
  /-- Bus Master Enable of the PF -/
  bme       : Bool := false
  /-- the PF is in reset and does not answer (R352) -/
  inReset   : Bool := false
  /-- Memory_Active of the CXL Device DVSEC (R471) -/
  memActive : Bool := false
  /-- PERST# of the port is asserted (R475) -/
  perst     : Bool := false
  /-- boundaries (never renumbered) at which the link entered Recovery in the last second (R325) -/
  recovery  : List Nat := []
  /-- DevLoad of the last response (R344) -/
  devLoad   : Fin 4 := 0
  msixMask  : BitVec 8 := 0xFF
  msixPend  : BitVec 8 := 0
  mbox0     : Mailbox := {}
  mbox1     : Mailbox := {}
  logs      : LogSet := {}
  /-- Event Interrupt Policy: one byte for each log (R353) -/
  policy    : List Byte := [0, 0, 0, 0, 0]
  /-- AER Poisoned TLP Received (R346) -/
  aerPoison : Bool := false
  /-- CXL.mem credits are withheld during a hub die reset (R422) -/
  noCredit  : Bool := false
  deriving DecidableEq, Repr

/-- One decoder of a context (R339). -/
structure Decoder where
  base : DWord := 0
  size : DWord := 0
  dpa  : DWord := 0
  ctrl : Word := 0
  deriving DecidableEq, Repr

/-- A work-ring command taken and not yet completed (R392). -/
structure Flight where
  tag     : Word
  opcode  : BitVec 16
  steward : Bool := false
  /-- a STEWARD entry: the MCI opcode, its input payload and where the output goes (R397), and whether it has begun -/
  mci     : BitVec 16 := 0
  input   : List Byte := []
  outAddr : Nat := 0
  outLen  : Nat := 0
  begun   : Bool := false
  /-- its end, if it has ended: status and completion words, to be posted by COMPLETION_POST -/
  ended   : Option (BitVec 16 × List Word) := none
  deriving DecidableEq, Repr

/-- The doorbell page of a context (R389 to R395). -/
structure Ring where
  /-- MB_RING_CTRL.EN as last written (R10) -/
  en       : Bool := false
  enabled  : Bool := false
  draining : Bool := false
  error    : Bool := false
  errCode  : BitVec 4 := 0
  wrOrder  : BitVec 4 := 8
  erOrder  : BitVec 4 := 8
  wrBase   : DWord := 0
  erBase   : DWord := 0
  wrHead   : BitVec 12 := 0
  wrTail   : BitVec 12 := 0
  erHead   : BitVec 12 := 0
  erTail   : BitVec 12 := 0
  phase    : Bool := true
  intEn    : Bool := false
  intCount : BitVec 12 := 1
  intTime  : BitVec 16 := 0
  /-- entries written since the last write of MB_ER_PTR.HEAD (R395) -/
  written  : Nat := 0
  dropped  : Word := 0
  /-- events dropped since the last overflow entry (R393) -/
  sinceOvf : Word := 0
  /-- the ring objects (R389) -/
  wrObj    : Option Nat := none
  erObj    : Option Nat := none
  /-- commands taken and not completed, in the order taken -/
  flights  : List Flight := []
  deriving DecidableEq, Repr

/-- A context (R335) with its VF, doorbell page, decoders, lease and recovery state. -/
structure CtxState where
  ring      : Ring := {}
  /-- Bus Master Enable of the VF -/
  bme       : Bool := false
  inReset   : Bool := false
  swapGrant : Bool := false
  msixMask  : BitVec 4 := 0xF
  msixPend  : BitVec 4 := 0
  staged    : AMap Decoder := []
  committed : AMap Decoder := []
  /-- a driver's or the module's commit is due (R341) -/
  decDue    : Bool := false
  /-- a commit took effect and older requests are still outstanding (R341) -/
  decBusy   : Bool := false
  decError  : Bool := false
  decCode   : BitVec 4 := 0
  decGen    : BitVec 16 := 0
  /-- lease (R208): length, the boundary count at which it started, running, EXPIRED -/
  leaseMs   : Nat := 30000
  leaseFrom : Nat := 0
  leaseRun  : Bool := false
  expired   : Bool := false
  /-- generation of R405 -/
  gen       : BitVec 16 := 0
  /-- FT_FRAME and boundary count of the charged hangs (R419) -/
  charges   : List (Nat × Nat) := []
  quarantined : Bool := false
  deriving DecidableEq, Repr

/-- An entry of the source-identity table (R337). -/
structure SrcEntry where
  valid : Bool := false
  ctx   : Ctx := 0
  mask  : BitVec 8 := 0
  deriving DecidableEq, Repr

/-- The states of a grant (R206). -/
inductive GrantState where
  | offered | active | releasing
  deriving DecidableEq, Repr

/-- A grant of an extent to a context (R206, R207). -/
structure Grant where
  ctx   : Ctx
  st    : GrantState
  /-- the grant takes part in decoding under the committed generation (R206, R341) -/
  live  : Bool := false
  /-- steps 3 and 4 of R207 have begun -/
  dropped : Bool := false
  /-- the decoder change of step 5 of R207 is staged -/
  leaving : Bool := false
  deriving DecidableEq, Repr

/-- An extent (R205), base and length in units of 256 MiB. -/
structure Extent where
  base   : Nat
  len    : Nat
  tag    : BitVec 128
  shareable : Bool
  grants : List Grant
  deriving DecidableEq, Repr

/-- The placement classes (R145). -/
inductive Class where
  | held | warm | cold | scratch
  deriving DecidableEq, Repr

/-- The layouts (R149). -/
inductive Layout where
  | interleaved | placed | replicated
  deriving DecidableEq, Repr

/-- The page states (R156). -/
inductive PState where
  | absent | home | fetching | clean | dirty | writing | redirtied
  deriving DecidableEq, Repr

/-- A page as it lies in flash (R201, R202): its page record, its units and write sequence number. -/
structure FlashPage where
  /-- the bytes of the page record before they are encrypted: the header and the 16 pieces (R201) -/
  record  : List Byte := []
  units   : Nat := 1
  seq     : DWord := 0
  /-- the key slot under which the record is encrypted (R433), and the key that it held then: none for slot 0 (R436) -/
  slot    : Nat := 0
  key     : Option (BitVec 512) := none
  /-- its stripe, and its first byte among the data bytes of the stripe (R306, R307) -/
  stripe  : Nat := 0
  at_     : Nat := 0
  deriving DecidableEq, Repr

/-- A page of an object (R156). -/
structure Page where
  st      : PState := .absent
  /-- its frames, one for each copy (R150): sliver × 8192 + frame -/
  frames  : List Nat := []
  /-- valid bytes while FETCHING or copied: one mask of 64 bits for each line (R156) -/
  valid   : AMap DWord := []
  lock    : Bool := false
  lost    : Bool := false
  /-- the writeback reservation held, in units (R154) -/
  resv    : Nat := 0
  home    : Option FlashPage := none
  /-- the page whose content a copy-on-write copy takes (R224) -/
  copyOf  : Option Nat := none
  /-- step pins (R160), one for each run that set one -/
  stepPins : List Nat := []
  /-- reference bit, and the boundary of the last access or of the last step pin's end (R163, R145) -/
  refBit  : Bool := false
  lastUse : Nat := 0
  /-- the record being written (WRITING): it becomes the home when its stripe is programmed (R153) -/
  newHome : Option FlashPage := none
  /-- the boundary count of the last sweep that found the reference bit set (R163) -/
  swept   : Nat := 0
  deriving DecidableEq, Repr

/-- A body of content: a version or a draft of an object, or an unversioned object's only content. Its private
pages are its own; every other page is that of its base (R224). -/
structure Content where
  obj     : Nat
  /-- version number; 0 for a draft or an unversioned object -/
  version : Nat := 0
  base    : Option Nat := none
  own     : List Nat := []
  /-- draft number, if a draft -/
  draft   : Option Nat := none
  deriving DecidableEq, Repr

/-- Kinds of page move in the precedence of R164. -/
inductive MoveKind where
  | miss | sample | sched | flush | evict
  deriving DecidableEq, Repr

/-- A page move asked of a mover (R161, R164). -/
structure Move where
  pid   : Nat
  kind  : MoveKind
  /-- start boundary of a scheduled promotion -/
  start : Nat := 0
  seq   : Nat := 0
  running : Bool := false
  /-- a retry waits for this boundary count (R156, R233) -/
  notBefore : Nat := 0
  deriving DecidableEq, Repr

/-- The states of a mover (R161). -/
inductive MoverSt where
  | idle | promoting | flushing | evictPending | evicting
  deriving DecidableEq, Repr

/-- A ring command that a mover carries (R165): tag, and counts to report. -/
structure MoverCmd where
  ctx    : Option Ctx
  tag    : Word
  opcode : BitVec 16
  first  : Nat := 0
  count  : Nat := 0
  notch  : Nat := 0
  need   : Option Nat := none
  n1     : Nat := 0
  n2     : Nat := 0
  deriving DecidableEq, Repr

/-- The mover of an object (R161). -/
structure Mover where
  st     : MoverSt := .idle
  moves  : List Move := []
  /-- promotions that report to a ring -/
  promos : List MoverCmd := []
  /-- the flush in progress and those queued -/
  flushes : List MoverCmd := []
  /-- the eviction in progress; none for a pressure eviction -/
  evict  : Option MoverCmd := none
  released : Nat := 0
  skipped  : Nat := 0
  /-- pages that the eviction in progress has still to handle, and the frame number of the boundary of its first batch: 0 for the
  next boundary (R162, R165) -/
  targets  : List Nat := []
  evictAt  : Nat := 0
  /-- promotions that an EVICT has ended, which complete with CANCELLED once the moves in flight have finished (R161) -/
  cancelled : List MoverCmd := []
  /-- EV_FRAME_SHORT has been raised for the promotion in progress (R156) -/
  short    : Bool := false
  deriving DecidableEq, Repr

/-- An object (R143). -/
structure Obj where
  base    : Nat
  pages   : Nat
  cls     : Class
  layout  : Layout
  owner   : Ctx
  pattern : Nat := 0
  region  : Nat := 0
  cmap    : List Nat := []
  /-- sliver of each share, for PLACED and REPLICATED: for each cluster copy (R149) -/
  shares  : List (List Nat) := []
  share   : Nat := 0
  slot    : Nat := 0
  mover   : Mover := {}
  /-- its content: the head of a versioned object (R221) -/
  head    : Nat
  versioned : Bool := false
  /-- the head published last, effective at the next boundary (R226) -/
  newHead : Option Nat := none
  ring    : Bool := false
  /-- the boundary count at which a pin was last removed (R145) -/
  lastPin : Nat := 0
  deriving DecidableEq, Repr

/-- What a DRAM frame is (R151). -/
inductive FrameUse where
  | used (pid : Nat)
  | dirtyFree
  deriving DecidableEq, Repr

/-- A reader handle or a draft with its view (R223). -/
structure View where
  obj     : Nat
  content : Nat
  ctx     : Ctx
  base    : Nat
  draft   : Bool
  /-- opened by CODEC_OPEN, with no view (R194) -/
  hidden  : Bool := false
  deriving DecidableEq, Repr

/-- States of a directory entry (R213). -/
inductive DirState where
  | shared | exclusive | recalling
  deriving DecidableEq, Repr

/-- A source of an open request (R243). -/
inductive ReqSource where
  | host (p : Port) (src : SrcId)
  | walker (c : Ctx)
  | codec (c : Ctx)
  | tier | scrubber | steward | copy | training | poison | spill (k : CoreId)
  deriving DecidableEq, Repr

/-- A device writer (R217): the context it acts for and its tag, its source and its master number at the arbiters (R357), and what
the last line of a carried granule adds to the granule's seal, so that the seal comes out as the carried one (R191, R274). -/
structure DevWriter where
  ctx    : Ctx
  tag    : Word
  src    : ReqSource
  master : Nat
  delta  : Word := 0
  deriving DecidableEq, Repr

/-- Who sent a host's request: its port, identity and tag, with the context and the decoder generation that it was accepted
under (R337, R341). -/
structure Sender where
  port : Port
  src  : SrcId
  ctx  : Ctx
  gen  : BitVec 16
  tag  : BitVec 16
  deriving DecidableEq, Repr

/-- Requests that a line's queue holds (R214). -/
inductive LineReq where
  | read (h : Sender) (mv : MetaValue) (inv : Bool)
  | write (h : Sender) (mv : MetaValue) (data : Line) (be : DWord) (poison : Bool)
  | evict (h : Sender)
  | device (w : DevWriter) (addr : Nat) (bytes : List Byte) (op : Nat) (cmp : List Byte) (poison : Bool)
  deriving DecidableEq, Repr

/-- A directory entry (R213, R214). -/
structure DirEntry where
  st      : DirState
  sharers : List SrcId
  broad   : Bool := false
  /-- order of allocation (R216) -/
  seq     : Nat := 0
  /-- recall: identities whose BIRsp is outstanding, and those that answered BIRspS -/
  targets : List SrcId := []
  kept    : List SrcId := []
  /-- recall: the line was in state E (R209) -/
  wasE    : Bool := false
  queue   : List LineReq := []
  deriving DecidableEq, Repr

/-- A coherent window (R211, R212). -/
structure Window where
  obj      : Nat
  live     : Bool := false
  deleting : Bool := false
  waiter   : Option (Path × Word) := none
  deriving DecidableEq, Repr

/-- Why a host request waits. -/
inductive WaitWhy where
  | page | stack | entry
  deriving DecidableEq, Repr

/-- A host request held in a port's request tracker (R59, R65, R216, R422). -/
structure Waiting where
  port  : Port
  src   : SrcId
  ctx   : Ctx
  tag   : BitVec 16
  dev   : Nat
  why   : WaitWhy
  mv    : MetaValue
  gen   : BitVec 16
  /-- the request asks for no data (MemInv, MemInvNT) -/
  noData : Bool := false
  /-- a store waits with its data, enables and poison -/
  store : Option (Line × DWord × Bool) := none
  deriving DecidableEq, Repr

/-- What leaves the module: responses, snoops, messages and results, in the order sent. -/
inductive Output where
  | drs (p : Port) (src : SrcId) (tag : BitVec 16) (data : Line) (poison : Bool) (mv : MetaValue) (devLoad : Fin 4)
  | ndr (p : Port) (src : SrcId) (tag : BitVec 16) (kind : MetaValue) (devLoad : Fin 4)
  | biSnp (p : Port) (dst : SrcId) (line : Nat) (data : Bool)
  | biConflictAck (p : Port) (dst : SrcId) (line : Nat)
  | msix (f : Fn) (vector : Nat)
  | alert (n : Fin 2)
  | mailbox (via : Path) (rc : BitVec 16) (payload : List Byte)
  | cxlMailbox (p : Port) (secondary : Bool) (rc : BitVec 16) (payload : List Byte)
  | fm (n : Fin 2) (rc : BitVec 16) (payload : List Byte)
  | fmReport (ctx : Ctx) (base : Nat) (outcome : Nat)
  | ptmRequest (p : Port)
  | upWrite (c : Ctx) (addr : DWord) (bytes : List Byte) (ep : Bool)
  | upRead (c : Ctx) (addr : DWord) (bytes : Nat) (tag : Word)
  | spdm (chan : SpdmChan) (session : Option Word) (body : List Byte)
  | ideKm (p : Port) (body : List Byte)
  | revasOffer (p : Port)
  deriving DecidableEq, Repr

/-- A claim stream of a pattern's core (R136). -/
structure ClaimStream where
  region : Nat
  indirect : Bool
  start  : Nat
  bobbin : Nat
  ring   : Nat
  index  : Nat
  count  : Nat
  limit  : Nat
  width  : Nat
  deriving DecidableEq, Repr

/-- A claim (R120, R136). -/
structure Claim where
  slot   : Nat
  loc    : Nat
  kind   : Nat
  stream : Nat
  step   : Nat
  first  : Nat
  last   : Nat
  period : Nat
  deriving DecidableEq, Repr

/-- A logical core of a pattern (R136). -/
structure PatCore where
  cluster : Nat
  loc     : Nat
  code    : List (BitVec 128)
  streams : List ClaimStream
  deriving DecidableEq, Repr

/-- A run of pages a step lists (R136). -/
structure PagesEntry where
  region : Nat
  count  : Nat
  first  : Nat
  deriving DecidableEq, Repr

/-- A step of a pattern (R136). -/
structure PatStep where
  first  : Nat
  frames : Nat
  pages  : List PagesEntry
  deriving DecidableEq, Repr

/-- A region of a pattern (R136). -/
structure Region where
  kind  : Nat
  double : Bool
  replicate : Bool
  light : Bool
  share : Nat
  size  : Nat
  deriving DecidableEq, Repr

/-- An exchange-table entry (R136). -/
structure XEntry where
  reduction : Bool
  op     : Nat
  order  : Nat
  dest   : Nat
  src    : Nat
  dst    : Nat
  len    : Nat
  first  : Nat
  deriving DecidableEq, Repr

/-- A loaded pattern (R135 to R137). -/
structure Pattern where
  loader   : Option Ctx
  tset     : Nat
  modeMask : BitVec 6
  clusters : Nat
  oneDie   : Bool
  sr       : Bool
  length   : Nat
  cores    : List PatCore
  steps    : List PatStep
  regions  : List Region
  claims   : List Claim
  xtable   : List XEntry
  deriving DecidableEq, Repr

/-- What a binding gives for a region: an object, a reader handle or a draft (R138, R221). -/
inductive Bound where
  | object (o : Nat)
  | view (v : Nat)
  deriving DecidableEq, Repr

/-- A binding (R138, R139). -/
structure Binding where
  pattern : Nat
  ctx     : Ctx
  cmap    : List Nat
  bound   : List Bound
  /-- run counters of DOUBLE regions (R122) -/
  runs    : AMap Nat := []
  quarantined : Bool := false
  deriving DecidableEq, Repr

/-- Phases of a cue: arming complete, latched by the sequencers, running (R49). -/
inductive CuePhase where
  | armed | latched | running
  deriving DecidableEq, Repr

/-- A cue, armed or running (R48 to R58). -/
structure Cue where
  ctx      : Ctx
  tag      : Word
  binding  : Nat
  grace    : Nat
  notch    : Nat
  seed     : Word
  late     : Bool
  gen      : BitVec 16
  phase    : CuePhase := .armed
  /-- start boundary S as an FT_FRAME number -/
  start    : Nat
  /-- boundary count at which a running cue started (never renumbered), and FT_FRAME then -/
  began    : Nat := 0
  beganFrame : Nat := 0
  epoch    : BitVec 16 := 0
  /-- the step to start next, and the boundary count at which it is due -/
  step     : Nat := 0
  due      : Nat := 0
  /-- the running step: index and the boundary count of its start -/
  cur      : Option Nat := none
  curStart : Nat := 0
  held     : Nat := 0
  /-- the frames by which holds before the first step have moved the start on from S (R52, R55) -/
  lead     : Nat := 0
  lateSteps : Nat := 0
  flags    : Word := 0
  /-- the next step has been sampled; what its last sample found missing: pages as region × 2^32 + page, and rows -/
  sampled  : Bool := false
  found    : List Nat := []
  foundRows : Nat := 0
  /-- the step after a next step of one frame has been sampled too, at the boundary at which that one starts (R54): what the
  sample found missing, and whether it held the run -/
  ahead    : Option (List Nat × Bool) := none
  /-- the running step runs under R56, with these pages read as poison -/
  lateNow  : Bool := false
  missing  : List Nat := []
  spills   : Nat := 0
  /-- a replay (R415) -/
  replay   : Bool := false
  /-- boundary counts at which the arming completed -/
  armedAt  : Nat := 0
  /-- its context is being unpicked (R410) -/
  gone     : Bool := false
  deriving DecidableEq, Repr

/-- An unpick of a context in progress (R409 to R411): the cause's row, and what it has ended so far. -/
structure UnpickJob where
  cause    : Nat
  /-- the boundary after its decision has passed: reservations have ended -/
  off      : Bool := false
  /-- cues taken out of service, by number, to be completed or replayed at the end -/
  cues     : AMap Cue := []
  /-- runs that are suspects (R413), and runs found guilty (R417) -/
  suspects : List Nat := []
  guilty   : List Nat := []
  /-- a hang of a module out of service unpicks without replay (R427) -/
  noReplay : Bool := false
  /-- CTX_UNPICK commands that wait for the end (R428) -/
  waiters  : List (Path × Word) := []
  deriving DecidableEq, Repr

/-- States of a core, in the order of SQ_CORE_STATE.STATE (R141). -/
inductive CoreSt where
  | idle | clearing | running | waitStep | waitFrame | xwait | unpicking | reset
  deriving DecidableEq, Repr

/-- A T-stream descriptor (R107). -/
structure TDesc where
  base   : BitVec 18 := 0
  step   : Word := 0
  stride : Word := 0
  wrap   : Word := 0
  offset : Int := 0
  deriving DecidableEq, Repr

/-- A 32-bit lane or accumulator entry with its poison bit (R100, R108). -/
structure Cell32 where
  val    : Word := 0
  poison : Bool := false
  deriving DecidableEq, Repr

/-- A MAC that occupies the T-engine (R105, R106). -/
structure TMac where
  start   : Bool
  acc     : BitVec 7
  steps   : Nat
  done    : Nat := 0
  accStep : Bool
  advance : BitVec 6
  dpuEn   : BitVec 8
  /-- the ACW in force at issue (R71) -/
  acw     : BitVec 19
  /-- what the first cycle of a 16-bit step read, for each DPU that takes part (R87): its number, its streams' bytes
  and whether a granule was marked -/
  held    : List (Nat × List (List Byte) × Bool) := []
  /-- entries that this instruction has updated (R105) -/
  seen    : List Nat := []
  /-- what entries held that the S-engine has written since this instruction issued: a MAC takes no S write of its own cycle or
  of a later one (R88) -/
  prior   : AMap Cell32 := []
  deriving DecidableEq, Repr

/-- A write that takes effect at a later cycle of the core (R87, R89, R112). -/
inductive PendAct where
  | lane (r l : Nat) (c : Cell32)
  | mask (m : Nat) (active value : Word)
  | acc (entry : Nat) (c : Cell32)
  /-- an S write of an entry: as MACs that issue from now on take it, and as the S-engine reads it (R88, R89) -/
  | accIn (entry : Nat) (c : Cell32)
  | accSet (entry : Nat) (c : Cell32)
  | bob (addr : Nat) (bytes : List Byte) (poison : List Bool)
  | desc (s : Nat) (d : TDesc)
  | sldx (r l : Nat) (addr : Nat)
  deriving DecidableEq, Repr

/-- A pending action with the cycle at whose start it takes effect. -/
structure Pend where
  due : Nat
  act : PendAct
  deriving DecidableEq, Repr

/-- A pending indirect claim stream (R124 to R126): rows left, in index order, with the transfers done. -/
structure IndRow where
  row  : Nat
  ix   : Nat
  done : Nat := 0
  deriving DecidableEq, Repr

/-- A run of bobbin bytes and the cycles in which something outside the core may touch it (R47, R117, R131). -/
structure Fill where
  first : Nat
  last  : Nat
  addr  : Nat
  len   : Nat
  deriving DecidableEq, Repr

/-- A message or a contribution in the cluster exchange (R127 to R133). -/
structure XMsg where
  from_   : CoreId
  dest    : CoreId
  ctx     : Ctx
  tag     : Word
  epoch   : BitVec 16
  addr    : Nat
  bytes   : List Byte
  marks   : List Bool
  /-- the entry of a contribution, its vector and its member's place -/
  red     : Option (Nat × Nat × Nat) := none
  run     : Nat := 0
  gen     : BitVec 16 := 0
  deriving DecidableEq, Repr

/-- An XSEND or XRED that reads its core's bobbin, one 32-byte beat in a cycle (R127, R131): the message or the vector's
contribution as far as it has been read, where it is read from, and the beats read of those to read. -/
structure SendJob where
  msg   : XMsg
  src   : Nat
  beats : Nat
  done  : Nat := 0
  deriving DecidableEq, Repr

/-- The fields of a bundle (R104). -/
inductive Part where
  | t | s | x
  deriving DecidableEq, Repr

/-- A core (chapters 03 and 04). -/
structure CoreState where
  st      : CoreSt := .idle
  pc      : BitVec 12 := 0
  /-- cycles since the start boundary of the run -/
  cyc     : Nat := 0
  run     : Option Nat := none
  ctx     : Option Ctx := none
  logical : Nat := 0
  epoch   : BitVec 16 := 0
  recv    : BitVec 16 := 0
  acw     : BitVec 19 := 0
  flags   : BitVec 9 := 0
  limits  : AMap Nat := []
  indexes : AMap Nat := []
  /-- V0 to V31, keyed register × 32 + lane -/
  v       : AMap Cell32 := []
  m1      : Word := 0
  m2      : Word := 0
  m3      : Word := 0
  /-- accumulator entries as the S-engine sees them, keyed DPU × 128 + entry -/
  acc     : AMap Cell32 := []
  /-- accumulator entries as MAC steps forward them (R87) -/
  accF    : AMap Cell32 := []
  tdesc   : AMap TDesc := []
  bob     : List Host.Cell := []
  bobMark : List Nat := []
  srCount : Word := 0
  tmac    : Option TMac := none
  pend    : List Pend := []
  /-- the cycle at which the next bundle issues in WAIT_FRAME, and XWAIT's count -/
  resume  : Nat := 0
  xcount  : BitVec 16 := 0
  /-- the steps of the pattern it has ended -/
  ended   : Nat := 0
  /-- claim positions by stream (R121), rows by indirect stream (R124) -/
  pos     : AMap Nat := []
  rows    : AMap (List IndRow) := []
  /-- consecutive boundaries seen in XWAIT (R407) -/
  xbounds : Nat := 0
  /-- the S-engine accepts the next instruction at this cycle (R89) -/
  sBusy   : Nat := 0
  /-- the cycle until which an XSEND or XRED reads the bobbin (R112) -/
  xBusy   : Nat := 0
  /-- the field of the bundle at `pc` that issues next: the commands of a bundle come as T, S, X (R104) -/
  turn    : Part := .t
  /-- the XSEND or XRED that reads the bobbin, and what has been read in whole and leaves the core (R131) -/
  send    : Option SendJob := none
  sent    : List XMsg := []
  /-- in its run a pattern broke a rule that the loader cannot check: what the cores of the run hold is undefined
  (R117, R488) -/
  undef   : Bool := false
  /-- when its bobbin may be filled, and when write claims read it, in the steps so far (R47, R117, R131) -/
  fills   : List Fill := []
  drains  : List Fill := []
  /-- the cycle of the engine port's last reads, and the words read in it (R115) -/
  port    : Nat × List Nat := (0, [])
  deriving DecidableEq, Repr

/-- A reduction being formed: key (run, entry, vector) and the contributions arrived (R129, R130). -/
structure RedState where
  run     : Nat
  entry   : Nat
  vec     : Nat
  parts   : AMap (List Word × Bool) := []
  deriving DecidableEq, Repr

/-- An open request of a channel's queue (R243). -/
structure OpenReq where
  /-- rank, bank and row, and the 256-byte column slot -/
  rank   : Nat
  bank   : Nat
  row    : Nat
  col    : Nat
  write  : Bool
  mask   : BitVec 4
  keep   : Bool
  source : ReqSource
  master : Nat := 9
  /-- a recall-class write in a reserved entry (R358) -/
  recallW : Bool := false
  /-- MX-12 class (R248) -/
  mx12   : Bool := false
  /-- cycle stamp of its presentation, in slots of the channel -/
  asOf   : Nat := 0
  /-- physical address of the block: frame × 65536 + offset -/
  block  : Nat := 0
  /-- what the access does: 0 traffic of an access whose effect is already taken, 1 scrub, 2 directed scrub,
  3 training, 4 spill transfer, 5 copy or walk of a fuse-map spare, 6 poison write -/
  job    : Nat := 0
  /-- a narrow write (R270): 1 its read is still to come, 2 its write follows, from the slot `hold` on -/
  narrow : Nat := 0
  hold   : Nat := 0
  arg    : Nat := 0
  deriving DecidableEq, Repr

/-- One arbiter (R359 to R370). -/
structure Arb where
  ptr    : AMap Nat := []
  age    : AMap Nat := []
  wait   : AMap Nat := []
  tokens : AMap Nat := []
  /-- guarantee slots used in this frame (R371) -/
  guar   : AMap Nat := []
  lat    : AMap Nat := []
  /-- urgency allowances used in this frame (R370) -/
  allow  : Nat := 0
  /-- decided one cycle ahead (R363) -/
  grant  : Option Nat := none
  last   : Nat := 0
  /-- whether a master requested in the previous cycle (R366) -/
  busy   : Bool := false
  deriving DecidableEq, Repr

/-- States of a channel's spare rank (R261). -/
inductive SpareSt where
  | free | migrating | spared | unavailable
  deriving DecidableEq, Repr

/-- A byte lane's calibration (R257). -/
structure Lane where
  delay  : BitVec 8 := 0
  /-- the channel's probed reads when the present window began, and its STEP_THRESH -/
  probes : Nat := 0
  thresh : Nat := 32
  deriving DecidableEq, Repr

/-- A spare in the fuse map or being made in a bank (R290 to R293). -/
inductive FuseJob where
  | row (row : Nat)
  | col (offset sym : Nat)
  deriving DecidableEq, Repr

/-- The fuse map and the spare jobs of one bank. -/
structure FuseBank where
  rows  : List Nat := []
  cols  : List (Nat × Nat) := []
  job   : Option FuseJob := none
  /-- transfers of the row copy that have issued, of eight, or rows that the column walk has written; and the lines of the row that
  its copy's writes leave out (R262, R291, R292) -/
  at_   : Nat := 0
  skip  : List Nat := []
  /-- the copy or walk is done and awaits its commit -/
  done  : Bool := false
  queue : List FuseJob := []
  deriving DecidableEq, Repr

/-- What a line's code finds (R269, R277): corrections at symbol positions, or a line that it cannot correct. -/
inductive LineErr where
  | corrected (syms : List Nat)
  | uncorrectable
  deriving DecidableEq, Repr

/-- One DRAM channel (chapters 08, 09 and 12). -/
structure ChanState where
  /-- the next slot of the frame -/
  slot    : Nat := 0
  /-- slots since the channel started, for gaps across frames -/
  abs     : Nat := 0
  queue   : List OpenReq := []
  /-- requests presented to the arbiter, by master in order (R357) -/
  present : List OpenReq := []
  /-- open row of each bank, keyed rank × 16 + bank -/
  rows    : AMap Nat := []
  /-- absolute slot of the last access to each bank, of the last read and write, and of recent row opens -/
  bankAt  : AMap Nat := []
  groupAt : AMap Nat := []
  readAt  : Option Nat := none
  writeAt : Option Nat := none
  opens   : List Nat := []
  passed  : Nat := 0
  /-- row-disturbance tables, keyed rank × 16 + bank (R252) -/
  disturb : AMap (AMap Nat) := []
  /-- victims queued: bank key and row (R253) -/
  victims : List (Nat × Nat) := []
  triggers : Nat := 0
  /-- the refresh counter of each rank, the spare rank 16 (R249) -/
  refs    : AMap Nat := []
  /-- what this frame's basted block holds: a refresh, tack refreshes, a calibration correction (R39, R42) -/
  refreshed : Bool := false
  tacked  : Bool := false
  calDone : Bool := false
  /-- open slots withheld for the copy in this frame so far (R261) -/
  withheld : Nat := 0
  spare   : SpareSt := .free
  spareRank : Nat := 0
  pointer : Nat := 0
  /-- transfers of the row at POINTER that have issued, of eight, and the lines of it that the copy's writes leave out (R262) -/
  copyAt  : Nat := 0
  skip    : List Nat := []
  copyPoison : Nat := 0
  spareFrom : Nat := 0
  /-- the boundary count of the frame in which the channel became SPARED: its withheld slots stay withheld (R261) -/
  sparedAt : Option Nat := none
  lanes   : AMap Lane := []
  /-- lanes marked and the step of each, and whether they form the pending correction (R258) -/
  marked  : AMap Bool := []
  corrections : BitVec 16 := 0
  marginLane  : Nat := 32
  /-- reads that the probes have seen (R257), and those of recent frames, by boundary count (R259) -/
  probed  : Nat := 0
  reads   : AMap Nat := []
  /-- the next block of a training read, and whether this frame's has been presented -/
  trainAt : Nat := 0
  trainNow : Bool := false
  /-- lines corrected most recently, newest first (R284) -/
  filter  : List Nat := []
  /-- bucket levels and overflows by rank, the spare rank 16 (R285) -/
  level   : AMap Nat := []
  overflows : AMap Nat := []
  /-- scrubber: position in blocks, the blocks of the reads owed, passes (R286) -/
  scrubAt : Nat := 0
  owed    : List Nat := []
  passes  : Nat := 0
  directed : List Nat := []
  /-- findings of this pass and the last: bank key and row; columns found: bank key, offset, symbol, row -/
  rowsNow : List (Nat × Nat) := []
  rowsLast : List (Nat × Nat) := []
  colsNow : List (Nat × Nat × Nat × Nat) := []
  fuse    : AMap FuseBank := []
  arb     : Arb := {}
  /-- covering ledger entries' effective values and the capacity (R372, R374) -/
  eff     : List Nat := []
  cap     : Nat := 0
  cut     : Nat := 0
  deriving DecidableEq, Repr

/-- One stack's controller (chapter 08). -/
structure StackState where
  tset    : Nat := 0
  selfRef : Bool := false
  /-- the boundary count at which self-refresh began (R251) -/
  selfFrom : Nat := 0
  doubled : Bool := false
  /-- doubled refresh begins or ends at the next boundary -/
  wantDoubled : Option Bool := none
  coolRun : Nat := 0
  tempMax : Int := 0
  sensorFail : BitVec 17 := 0
  /-- consecutive readings at or above the shutdown threshold (R464) -/
  hotRun  : Nat := 0
  /-- held in self-refresh after a set change that missed 19 µs (R256) -/
  stuck   : Bool := false
  deriving DecidableEq, Repr

/-- States of a bay (R312). -/
inductive BaySt where
  | empty | verifying | refused | gusset | active | target | retiring | failed | out
  deriving DecidableEq, Repr

/-- One bay (chapter 10). -/
structure BayState where
  st      : BaySt := .empty
  cart    : Option Cartridge := none
  position : Option Nat := none
  cause   : BitVec 8 := 0
  rates   : List (BitVec 2) := []
  powered : Bool := false
  latch   : Bool := false
  ledger  : Option CartLedger := none
  warned  : Bool := false
  eol     : Bool := false
  /-- bytes programmed (CT_BAY_WRITTEN) -/
  written : Nat := 0
  arbs    : AMap Arb := []
  deriving DecidableEq, Repr

/-- A rebuild or copy (R314, R316). -/
structure Walk where
  position : Nat
  target   : Bay
  source   : Option Bay
  copy     : Bool
  next     : Nat
  last     : Nat
  doneBytes : Nat := 0
  total    : Nat := 0
  began    : Nat := 0
  /-- the CART_ID of the target, as the journal names it -/
  cartId   : DWord
  srcId    : DWord := 0
  /-- ranges that could not be reconstructed -/
  unrec    : Nat := 0
  deriving DecidableEq, Repr

/-- A stripe (R306, R308): its records by page, and whether it is programmed. -/
structure Stripe where
  pids    : List Nat
  bytes   : Nat := 0
  first   : Nat := 0
  closed  : Bool := false
  programmed : Bool := false
  /-- positions whose shares are written -/
  shares  : BitVec 8 := 0
  /-- positions whose shares cannot be read (R300) -/
  bad     : BitVec 8 := 0
  deriving DecidableEq, Repr

/-- A command queued on a codec channel (R187, R197, R198). -/
structure CodecJob where
  tag      : Word
  opcode   : Nat
  offset   : Nat
  length   : Nat
  bufAddr  : Nat
  bufLen   : Nat
  /-- its sequence number on the channel (R181) -/
  seq      : Nat
  /-- the boundary count at which an exchange acts (R198) -/
  act      : Nat := 0
  /-- bytes of the range done, packed bytes used, pieces done and what they were -/
  pos      : Nat := 0
  packed   : Nat := 0
  pieces   : Nat := 0
  raw      : Nat := 0
  fill     : Nat := 0
  coded    : Nat := 0
  poisoned : Nat := 0
  fetched  : Nat := 0
  /-- a piece ran past the buffer: the rest are zeros (R189 row 2) -/
  past     : Bool := false
  deriving DecidableEq, Repr

/-- A codec channel (R193). -/
structure CodecChan where
  ctx      : Ctx
  object   : Nat
  out      : Bool
  xform    : Nat
  refKind  : Nat
  sr       : Bool
  /-- the reference object; the handle on its version (R194), or the history object -/
  refObj   : Nat := 0
  refView  : Option Nat := none
  seed     : Word := 0
  /-- commands taken on it (R181), and number of the next piece (R203) -/
  seq      : Nat := 0
  piece    : Nat := 0
  /-- table slots: generation and code lengths (R186), and the slots stored, latest first (R188) -/
  tables   : AMap (Nat × List Nat) := []
  stored   : List Nat := []
  /-- slots that unreleased pieces name, with the generation (R188) -/
  named    : List (Nat × Nat) := []
  jobs     : List CodecJob := []
  /-- CODEC_CLOSE waits for the queued commands (R196) -/
  closing  : Option (Path × Word) := none
  deriving DecidableEq, Repr

/-- A swap in progress that reads host memory (R347, R399): bytes moved so far. -/
structure Upstream where
  ctx    : Ctx
  tag    : Word
  host   : Nat
  dev    : Nat
  pages  : Nat
  moved  : Nat := 0
  deriving DecidableEq, Repr

/-- A key slot (R431, R432). -/
structure KeySlot where
  kind    : Nat
  ctx     : Option Ctx
  object  : Nat
  check   : Word
  /-- the key, none while AWAITING -/
  key     : Option (BitVec 512)
  deriving DecidableEq, Repr

/-- An IDE stream of a port in one direction: the keys, keyed sub-stream × 2 + key set, and the active key set of each
sub-stream (R442). -/
structure IdeStream where
  keys   : AMap (BitVec 256) := []
  active : AMap Nat := []
  deriving DecidableEq, Repr

/-- A firmware image: its versions, COMMIT_SVN and its bytes (R444). -/
structure FwImage where
  major  : Nat
  minor  : Nat
  patch  : Nat
  svn    : Nat
  commit : Bool
  bytes  : List Byte
  deriving DecidableEq, Repr

/-- An SPDM session or connection of a channel (R450). -/
structure SpdmConn where
  version  : Bool := false
  caps     : Bool := false
  algs     : Bool := false
  sessions : AMap Nat := []
  transcript : List Byte := []
  /-- the requester's data transfer size; a large request's parts, and the number of the next part of it and of the response -/
  size     : Nat := 0
  chunk    : List Byte := []
  chunkSeq : Nat := 0
  getSeq   : Nat := 0
  /-- a response that is given in chunks -/
  pend     : List Byte := []
  deriving DecidableEq, Repr

/-- A request in the signature queue (R452). -/
structure SignJob where
  chan    : SpdmChan
  session : Option Word
  body    : List Byte
  deriving DecidableEq, Repr

/-- A power domain's state (R457): off, powering up, powered up and usable from the next boundary, on. -/
inductive Dom where
  | off | rising | ready | on
  deriving DecidableEq, Repr

/-- A change of mode accepted and not yet done (R64, R66). -/
structure ModeJob where
  mode   : Nat
  /-- the boundary's FT_FRAME number, or the boundary count since which the set change runs -/
  frame  : Nat
  notch  : Nat
  setChange : Bool
  begun  : Option Nat := none
  beganFrame : Nat := 0
  old    : Nat := 0
  waiter : Option (Path × Word) := none
  deriving DecidableEq, Repr

/-- A reset in progress (R420): level code of EV_RESET, target, cause, start, the runs and the waiting command. -/
structure ResetJob where
  unit_   : ResetUnit
  cause   : Nat
  began   : Nat
  suspects : List Nat := []
  affected : List Nat := []
  answered : Nat := 0
  /-- cues whose start waits for the end of the reset (R423) -/
  lateCues : List Nat := []
  waiters  : List (Path × Word) := []
  deriving DecidableEq, Repr

/-- A ledger entry of guarantees (R371). -/
structure LedgerEntry where
  master   : Nat
  cls      : Nat
  value    : Nat
  clusters : BitVec 20
  deriving DecidableEq, Repr

/-- Power and start-up (chapter 16). -/
structure PwState where
  mode     : Nat := 0
  job      : Option ModeJob := none
  throttle : Nat := 0
  /-- consecutive readings, by level, that let the level be left (R464) -/
  coolRun  : AMap Nat := []
  thermalOff : Bool := false
  stage    : Nat := 1
  cause    : Nat := 0
  /-- start-up is held in its stage with that cause (R470) -/
  held     : Bool := false
  lastCause : Nat := 0
  readyMs  : Nat := 0xFFFF
  stageMs  : List Nat := []
  mv       : BitVec 16 := 0
  deciamps : BitVec 16 := 0
  mean1s   : BitVec 12 := 0
  mean10ms : BitVec 12 := 0
  /-- PW_LIMIT.WATTS as the last reading took it (R473) -/
  limit    : Nat := 1400
  outRun   : Nat := 0
  inRun    : Nat := 0
  outRange : Bool := false
  /-- input events due at the next boundary: whether in range (R455) -/
  inputDue : List Bool := []
  tempA    : Int := 0
  tempB    : Int := 0
  tempHub  : Int := 0
  /-- hottest logic reading, an invalid one counted at its level-1 threshold, and consecutive readings at or above the
  shutdown threshold (R464) -/
  logicMax : Int := 0
  hotLogic : Nat := 0
  /-- domains not off, by number (R456) -/
  doms     : AMap Dom := []
  /-- the input has power within range; PWR_EN is high; MOD_RST# is low (R478) -/
  power    : Bool := true
  pwrEn    : Bool := true
  modRst   : Bool := false
  refLost  : Bool := false
  /-- a package reset was asked for during a thermal shutdown (R478) -/
  rstAsked : Bool := false
  deriving DecidableEq, Repr

/-- Recovery (chapter 14). -/
structure RvState where
  suspects : List Nat := []
  testing  : Option Nat := none
  listFull : Bool := false
  outOfService : Bool := false
  /-- boundary counts at which cluster and stack resets, and die resets, began (R427) -/
  smallResets : List Nat := []
  dieResets   : List Nat := []
  resets   : AMap ResetJob := []
  /-- runs that ended and wait for a replay, by cue number (R415) -/
  replays  : AMap Cue := []
  /-- unpicks in progress, by context -/
  unpicks  : AMap UnpickJob := []
  /-- detections of this frame (R408): detector, unit, run + 1 -/
  fired    : List (Nat × Nat × Nat) := []
  lastHang : Word := 0
  lastHangFrame : DWord := 0
  deriving DecidableEq, Repr

/-- A command as the steward runs it: its path, the context it acts for, whether it came through the owner port's
mailboxes, and its input. -/
structure MciCall where
  via   : Path
  tag   : Word
  ctx   : Option Ctx
  owner : Bool
  input : List Byte
  deriving DecidableEq, Repr

/-- The whole machine. -/
structure State where
  /-- commands waiting, first in, first out (the block's own queue) -/
  pending  : List Instr := []
  /-- what has left the module, oldest first (the model's own field) -/
  out      : List Output := []
  /-- counter of free values taken (the model's own field) -/
  free     : Nat := 0
  /-- values written to registers, keyed offset + index × 2^32; an unlisted register holds its reset value -/
  regs     : AMap DWord := []
  /-- the same as they took effect at the last frame boundary -/
  eff      : AMap DWord := []
  /-- counter registers, keyed as `regs` -/
  counts   : AMap Nat := []
  /-- per-frame counts of events merged within a frame, keyed kind × 2^32 + subject: count, lowest address, payload -/
  merged   : AMap (Nat × Nat × List Word) := []
  ft       : FtState := {}
  ports    : AMap PortState := []
  ctxs     : AMap CtxState := []
  /-- PT_OWNER -/
  owner    : Option Port := none
  srcTab   : AMap SrcEntry := []
  srcStaged : AMap SrcEntry := []
  srcDue   : Bool := false
  srcGen   : BitVec 16 := 0
  /-- sideband ports: current context and endpoint ID -/
  sbCtx    : AMap Nat := []
  eids     : AMap (BitVec 8) := []
  extents  : AMap Extent := []
  objects  : AMap Obj := []
  contents : AMap Content := []
  nextContent : Nat := 0
  /-- pages that are not ABSENT without content, keyed content × 2^31 + page -/
  pages    : AMap Page := []
  /-- frames that are not zeroed free -/
  frames   : AMap FrameUse := []
  /-- frames whose code select is light (R268) -/
  light    : List Nat := []
  /-- flash units in use (R153), and page records' last sequence number (R201) -/
  unitsUsed : Nat := 0
  recSeq   : DWord := 0
  /-- EV_FLASH_LOW has been raised, and the value has not risen above the threshold since (R155) -/
  flashLow : Bool := false
  /-- slivers whose free frames have fallen to the pressure level and are not yet four above it (R163) -/
  pressed  : List Nat := []
  /-- pins: context × 2^24 + object -/
  pins     : List Nat := []
  /-- ring commands waiting for their act boundary (R165), with the object -/
  scheduled : List (Nat × Nat × MoverCmd) := []
  moveSeq  : Nat := 0
  views    : AMap View := []
  nextView : Nat := 1
  windows  : AMap Window := []
  nextWindow : Nat := 0
  directory : AMap DirEntry := []
  dirSeq   : Nat := 0
  /-- the directory recalls victims in advance (R216) -/
  eager    : Bool := false
  /-- dirty free frames that held pages of a deleted coherent window, with the device address of the page (R217) -/
  windowDirty : AMap Nat := []
  waits    : List Waiting := []
  /-- address orders: units set by DRAM_ORDER_SET (R240): order and KEEP -/
  orders   : AMap (BitVec 2 × Bool) := []
  /-- DRAM bytes by physical address: frame × 65536 + offset in the page; unlisted bytes read 0 (R295) -/
  dram     : List Host.Cell := []
  /-- lines whose tag has POISON, HINT, and whose CODE bit disagrees with the frame (R267, R268) -/
  poison   : List Nat := []
  hint     : List Nat := []
  badCode  : List Nat := []
  /-- seals that differ from the CRC-32C of 256 zero bytes (R271, R295) -/
  seals    : AMap Word := []
  /-- cells that read wrong, by stack, channel, rank, bank, row and line number: bit positions, 0 to 511 of the data and 512 to 575
  of the side field (R266, R269) -/
  cellErr  : AMap (List Nat) := []
  /-- lines, by the same number, whose STEER bit is not as the fuse map has it (R267, R292) -/
  steer    : AMap Bool := []
  chans    : AMap ChanState := []
  stackSt  : AMap StackState := []
  lastErr  : DWord := 0
  patterns : AMap Pattern := []
  nextPattern : Nat := 1
  bindings : AMap Binding := []
  nextBinding : Nat := 1
  cues     : AMap Cue := []
  nextCue  : Nat := 1
  epoch    : BitVec 16 := 0
  cores    : AMap CoreState := []
  msgs     : AMap XMsg := []
  nextMsg  : Nat := 0
  reds     : List RedState := []
  /-- vectors written of each reduction in progress, keyed run × 2^12 + entry (R128, R129) -/
  redDone  : AMap Nat := []
  /-- cross-cluster messages held in SQ counters: stale by cluster (SQ_CL_STALE) -/
  stale    : AMap Nat := []
  chanCodec : AMap CodecChan := []
  nextChan : Nat := 1
  upstream : List Upstream := []
  /-- near-memory commands taken that wait for pages (R398): context and entry -/
  nmWaits  : List (Ctx × Line) := []
  bays     : AMap BayState := []
  walk     : Option Walk := none
  /-- positions that lost their member and have not been taken again; such a cartridge is not taken back (R312) -/
  vacated  : BitVec 8 := 0
  stripes  : AMap Stripe := []
  nextStripe : Nat := 0
  /-- EV_ARRAY_BROKEN has been raised for the present BROKEN state (R311) -/
  broken   : Bool := false
  linkArbs : AMap Arb := []
  ledger   : List LedgerEntry := []
  ledgerNext : Option (List LedgerEntry) := none
  shrunk   : Bool := false
  /-- boundary count at which a channel became shrunk (R377) -/
  shrunkAt : Nat := 0
  /-- capacity is due to be computed again (R372), with the causes of EV_GUARANTEE_SHRUNK: 1 doubled refresh, 2 rank
  sparing, 4 timing set, 8 binding, 16 AQ_CTRL, 32 start-up -/
  recompute : Nat := 0
  keys     : AMap KeySlot := []
  keks     : AMap (BitVec 256) := []
  ide      : AMap IdeStream := []
  /-- the image of the firmware store, none for that of manufacture, and whether it is invalid (R444, R446) -/
  fwStore  : Option FwImage := none
  fwBad    : Bool := false
  /-- the image that runs, none for that of manufacture (R445) -/
  fwRun    : Option FwImage := none
  /-- the parts of a transfer in progress (R446) -/
  fwXfer   : Option (List Byte) := none
  /-- the accepted image that is being written over the store, and the path that waits for it -/
  fwWrite  : Option (FwImage × Path) := none
  svnFloor : Nat := 0
  revoked  : List Nat := []
  spdm     : AMap SpdmConn := []
  signQueue : List SignJob := []
  /-- the Alias certificate of this start is signed (R452) -/
  aliasReady : Bool := false
  pw       : PwState := {}
  rv       : RvState := {}
  /-- steward commands that wait for a lock (R387, R233), with their opcodes -/
  lockWaits : List (Nat × MciCall) := []
  /-- publications that wait for copies in flight (R226): object, content, path and tag -/
  pubs     : List (Nat × Nat × Path × Word) := []
  /-- output pins (R479): FAULT#, THERM_WARN# asserted, BAY_SAFE by bay -/
  faultPin : Bool := false
  thermPin : Bool := false
  baySafe  : BitVec 9 := 0x1FF
  deriving DecidableEq, Repr

/-- No command ends in a fault: every address that the spec leaves out is answered by the rule that gives its
answer (R9, R144, R338, R340). The type has one name that no meaning raises. -/
inductive Fault where
  /-- no meaning raises it: safe. -/
  | none_
  deriving DecidableEq, Repr

/-- The reasons a command is refused. -/
inductive Refusal where
  /-- raised by an arm of `exec` whose command has no meaning yet: safe. -/
  | notModelled (mnemonic : String)
  /-- raised by the engine and sequencer commands for an operand value that the spec calls a reserved encoding
  (R109, R111); the loader keeps such code out of a code store (R137): safe. -/
  | reservedEncoding (mnemonic : String)
  deriving DecidableEq, Repr

/-- The machine right after a package reset, at column 0 of R469. -/
def State.reset : State := {}

end Sys2Proof.Machine
end

