-- ==== Sys2Proof/Machine/Maps.lean ====
section
/-! DEFINITION. Finite maps kept as rising lists of pairs, the canonical byte memories over them, and the
byte-order helpers of R5 and R6. -/

namespace Sys2Proof.Machine

/-- The entry of a key, if any. -/
def mget? {α : Type} : AMap α → Nat → Option α
  | [], _ => none
  | (k, v) :: m, a => if a = k then some v else if a < k then none else mget? m a

/-- The entry of a key, or a default. -/
def mget {α : Type} (d : α) (m : AMap α) (a : Nat) : α := (mget? m a).getD d

/-- The map with a key's entry set. -/
def mput {α : Type} : AMap α → Nat → α → AMap α
  | [], a, x => [(a, x)]
  | (k, v) :: m, a, x =>
    if a = k then (a, x) :: m else if a < k then (a, x) :: (k, v) :: m else (k, v) :: mput m a x

/-- The map without a key. -/
def mdel {α : Type} : AMap α → Nat → AMap α
  | [], _ => []
  | (k, v) :: m, a => if a = k then m else if a < k then (k, v) :: m else (k, v) :: mdel m a

/-- The map with a key's entry changed by a function. -/
def mmod {α : Type} (d : α) (m : AMap α) (a : Nat) (f : α → α) : AMap α := mput m a (f (mget d m a))

/-- Whether a key has an entry. -/
def mhas {α : Type} (m : AMap α) (a : Nat) : Bool := (mget? m a).isSome

/-- A number added to a rising list without repeats. -/
def linsert (a : Nat) : List Nat → List Nat
  | [] => [a]
  | k :: l => if a = k then k :: l else if a < k then a :: k :: l else k :: linsert a l

/-- The keys of a map rise strictly from a lower bound. -/
def risesFrom {α : Type} : Nat → AMap α → Bool
  | _, [] => true
  | n, (k, _) :: m => decide (n ≤ k) && risesFrom (k + 1) m

/-- The canonical form of a memory: addresses strictly rising, and no entry equal to what an unlisted address
reads as, which is 0 (R295). -/
def Memory.wf (m : List Host.Cell) : Bool := risesFrom 0 m && m.all (fun c => c.2 != 0)

/-- One byte of a memory. -/
def cget (m : List Host.Cell) (a : Nat) : Byte := mget 0 m a

/-- A memory with one byte written, in canonical form. -/
def cput (m : List Host.Cell) (a : Nat) (b : Byte) : List Host.Cell :=
  if b = 0 then mdel m a else mput m a b

/-- Consecutive bytes of a memory. -/
def creads (m : List Host.Cell) (a n : Nat) : List Byte := (List.range n).map (fun i => cget m (a + i))

/-- A memory with consecutive bytes written. -/
def cwrites (m : List Host.Cell) : Nat → List Byte → List Host.Cell
  | _, [] => m
  | a, b :: bs => cwrites (cput m a b) (a + 1) bs

/-- The number that bytes spell, least significant first (R6). -/
def leNat : List Byte → Nat
  | [] => 0
  | b :: bs => b.toNat + 256 * leNat bs

/-- A number as `n` bytes, least significant first (R6). -/
def leBytes : Nat → Nat → List Byte
  | 0, _ => []
  | n + 1, x => BitVec.ofNat 8 x :: leBytes n (x / 256)

/-- The field of `n` bytes at an offset; bytes past the end read 0. -/
def bfield (bs : List Byte) (off n : Nat) : Nat := leNat ((bs.drop off).take n)

/-- Bits `lo` to `lo + len - 1` of a number (R5). -/
def bits (x lo len : Nat) : Nat := x / 2 ^ lo % 2 ^ len

/-- Bit `i` of a number. -/
def bit (x i : Nat) : Bool := x / 2 ^ i % 2 == 1

/-- A number with bits `lo` to `lo + len - 1` replaced. -/
def setBits (x lo len v : Nat) : Nat := x - bits x lo len * 2 ^ lo + v % 2 ^ len * 2 ^ lo

/-- 1 or 0. -/
def b2n (b : Bool) : Nat := if b then 1 else 0

/-- The 64 bytes of a line (R6). -/
def lineBytes (l : Line) : List Byte := leBytes 64 l.toNat

/-- The line of 64 bytes. -/
def bytesLine (bs : List Byte) : Line := BitVec.ofNat 512 (leNat bs)

/-- The bits of a mask. -/
def maskList (m n : Nat) : List Nat := (List.range n).filter (fun i => bit m i)

/-- A counter that stays at a limit (R68, R141, R236). -/
def satAdd (x n limit : Nat) : Nat := min (x + n) limit

/-- Division rounding up. -/
def ceilDiv (a b : Nat) : Nat := (a + b - 1) / b

/-- A list with the entry at a place changed. -/
def lmod {α : Type} (l : List α) (i : Nat) (f : α → α) : List α := l.modify i f

/-- Whether two runs of numbers meet. -/
def runsMeet (a n b m : Nat) : Bool := decide (a < b + m) && decide (b < a + n)

/-- A fold over the numbers below `n`. -/
def foldN {α : Type} (n : Nat) (f : Nat → α → α) (x : α) : α := (List.range n).foldl (fun y i => f i y) x

end Sys2Proof.Machine
end

