-- ==== Sys2Proof/Machine/Arith.lean ====
section
/-! DEFINITION. The arithmetic of both engines on exact values (chapter 03): the formats (R72 to R75), rounding
with its flags, the FP32 operations, conversions, MX quantise, stochastic rounding, the seam unit and the DPU
step. -/

namespace Sys2Proof.Machine

/-- The bits of the flag word (R101). -/
def fInvalid : Nat := 1
def fDivZero : Nat := 2
def fOverflow : Nat := 4
def fUnderflow : Nat := 8
def fInexact : Nat := 16
def fScaleNan : Nat := 32
def fSaturated : Nat := 64
def fPoison : Nat := 128
def fIntOvf : Nat := 256

/-- The OR of two sets of flags. -/
def orF (a b : Nat) : Nat := Nat.lor a b

/-- A floating-point value: NaN, an infinity, or ±m × 2^e. -/
inductive Fp where
  | nan
  | inf (neg : Bool)
  | fin (neg : Bool) (m : Nat) (e : Int)
  deriving DecidableEq, Repr

/-- What codes above the normal range mean (R72). -/
inductive Specials where
  | none_ | e4m3 | ieee
  deriving DecidableEq, Repr

/-- A format: exponent bits, bias, mantissa bits, special codes (R72). -/
structure Fmt where
  eb   : Nat
  bias : Nat
  mb   : Nat
  sp   : Specials
  deriving DecidableEq, Repr

def fmtE4M3 : Fmt := ⟨4, 7, 3, .e4m3⟩
def fmtE5M2 : Fmt := ⟨5, 15, 2, .ieee⟩
def fmtE3M2 : Fmt := ⟨3, 3, 2, .none_⟩
def fmtE2M3 : Fmt := ⟨2, 1, 3, .none_⟩
def fmtE2M1 : Fmt := ⟨2, 1, 1, .none_⟩
def fmtBF16 : Fmt := ⟨8, 127, 7, .ieee⟩
def fmtFP16 : Fmt := ⟨5, 15, 10, .ieee⟩
def fmtFP32 : Fmt := ⟨8, 127, 23, .ieee⟩

/-- The width of a format. -/
def Fmt.width (f : Fmt) : Nat := 1 + f.eb + f.mb

/-- The code of the largest finite value (R72). -/
def Fmt.maxCode (f : Fmt) : Nat :=
  match f.sp with
  | .none_ => 2 ^ (f.eb + f.mb) - 1
  | .e4m3 => 2 ^ (f.eb + f.mb) - 2
  | .ieee => (2 ^ f.eb - 1) * 2 ^ f.mb - 1

/-- The canonical NaN (R96); 0 for a format without one. -/
def Fmt.nanCode (f : Fmt) : Nat :=
  match f.sp with
  | .none_ => 0
  | .e4m3 => 2 ^ (f.eb + f.mb) - 1
  | .ieee => (2 ^ f.eb - 1) * 2 ^ f.mb + 2 ^ (f.mb - 1)

/-- The code of +∞; only for a format that has one. -/
def Fmt.infCode (f : Fmt) : Nat := (2 ^ f.eb - 1) * 2 ^ f.mb

/-- Adds the sign bit. -/
def Fmt.signed (f : Fmt) (neg : Bool) (mag : Nat) : Nat := if neg then mag + 2 ^ (f.eb + f.mb) else mag

/-- The value of a code (R72). -/
def Fmt.decode (f : Fmt) (code : Nat) : Fp :=
  let neg := bit code (f.eb + f.mb)
  let e := bits code f.mb f.eb
  let m := bits code 0 f.mb
  let special := match f.sp with
    | .none_ => none
    | .e4m3 => if e = 2 ^ f.eb - 1 ∧ m = 2 ^ f.mb - 1 then some Fp.nan else none
    | .ieee => if e = 2 ^ f.eb - 1 then some (if m = 0 then Fp.inf neg else Fp.nan) else none
  match special with
  | some v => v
  | none =>
    if e = 0 then .fin neg m (1 - f.bias - f.mb)
    else .fin neg (2 ^ f.mb + m) ((e : Int) - f.bias - f.mb)

/-- The rounding modes; SR carries its 16-bit random value (R98). -/
inductive Rnd where
  | rne | rtz | rdn | rup
  | sr (r : Nat)
  deriving DecidableEq, Repr

/-- Whether a magnitude `k` with discarded part `rem / den` (and a tail) rounds up. -/
def roundsUp (mode : Rnd) (neg : Bool) (k rem den : Nat) (tail : Bool) : Bool :=
  match mode with
  | .rtz => false
  | .rdn => neg && (decide (rem ≠ 0) || tail)
  | .rup => !neg && (decide (rem ≠ 0) || tail)
  | .rne => decide (den < 2 * rem) || (decide (2 * rem = den) && (tail || k % 2 == 1))
  | .sr r => decide (65536 ≤ rem * 65536 / den + r)

/-- A magnitude m × 2^e (with a nonzero tail below it, if `tail`) as a multiple of 2^q, and whether it changed. -/
def quantum (mode : Rnd) (neg : Bool) (m : Nat) (e q : Int) (tail : Bool) : Nat × Bool :=
  if q ≤ e then (m * 2 ^ (e - q).toNat, tail)
  else
    let den := 2 ^ (q - e).toNat
    let k := m / den
    let rem := m % den
    (if roundsUp mode neg k rem den tail then k + 1 else k, decide (rem ≠ 0) || tail)

/-- Whether k × 2^q is above m × 2^e. -/
def above (k : Nat) (q : Int) (m : Nat) (e : Int) : Bool :=
  if q ≤ e then decide (m * 2 ^ (e - q).toNat < k) else decide (m < k * 2 ^ (q - e).toNat)

/-- The code of a finite magnitude k × 2^q that the format holds. -/
def Fmt.encodeMag (f : Fmt) (k : Nat) (q : Int) : Nat :=
  if k < 2 ^ f.mb then k
  else
    let up := k.log2 - f.mb
    let k := k / 2 ^ up
    let e := q + up + f.mb + f.bias
    e.toNat * 2 ^ f.mb + (k - 2 ^ f.mb)

/-- A rounded result: code without sign or an overflow, whether inexact, whether tiny (R90). -/
structure Rounded where
  mag      : Nat
  ovf      : Bool
  inexact  : Bool
  tiny     : Bool
  deriving DecidableEq, Repr

/-- Rounds a nonzero magnitude to a format. -/
def Fmt.round (f : Fmt) (mode : Rnd) (neg : Bool) (m : Nat) (e : Int) (tail : Bool) : Rounded :=
  let x : Int := m.log2 + e
  let emin : Int := 1 - f.bias
  let q := max (x - f.mb) (emin - f.mb)
  let (k, inx) := quantum mode neg m e q tail
  let (k', _) := quantum mode neg m e (x - f.mb) tail
  let tiny := !(above k' (x - f.mb) 1 emin) && !(decide (k' * 2 ^ (x - f.mb + 200 - emin).toNat = 2 ^ 200))
  match f.decode f.maxCode with
  | .fin _ mm me =>
    if above k q mm me then ⟨0, true, true, false⟩ else ⟨f.encodeMag k q, false, inx, tiny⟩
  | _ => ⟨0, true, true, false⟩

/-- The FP32 result of a nonzero exact value under an IEEE mode, with its flags (R84, R90). -/
def fp32Of (mode : Rnd) (neg : Bool) (m : Nat) (e : Int) (tail : Bool := false) : Nat × Nat :=
  let r := fmtFP32.round mode neg m e tail
  if r.ovf then
    let toInf := match mode with
      | .rtz => false | .rdn => neg | .rup => !neg | _ => true
    (fmtFP32.signed neg (if toInf then fmtFP32.infCode else fmtFP32.maxCode), orF fOverflow fInexact)
  else (fmtFP32.signed neg r.mag,
    orF (if r.inexact then fInexact else 0) (if r.tiny && r.inexact then fUnderflow else 0))

/-- The canonical FP32 NaN (R96). -/
def nan32 : Nat := 0x7FC00000

/-- A signed FP32 zero. -/
def zero32 (neg : Bool) : Nat := if neg then 0x80000000 else 0

/-- An FP32 value as its code when it needs no rounding: NaN, infinities and zeros. -/
def fpCode (v : Fp) : Nat :=
  match v with
  | .nan => nan32
  | .inf neg => fmtFP32.signed neg fmtFP32.infCode
  | .fin neg m e => if m = 0 then zero32 neg else (fp32Of .rne neg m e).1

/-- The exact sum of two finite values as sign, magnitude and exponent. -/
def exactAdd (n1 : Bool) (m1 : Nat) (e1 : Int) (n2 : Bool) (m2 : Nat) (e2 : Int) : Int × Int :=
  let e := min e1 e2
  let a : Int := (m1 * 2 ^ (e1 - e).toNat : Nat)
  let b : Int := (m2 * 2 ^ (e2 - e).toNat : Nat)
  ((if n1 then -a else a) + (if n2 then -b else b), e)

/-- The sum of two values under a mode (R90). -/
def addVals (mode : Rnd) (a b : Fp) : Nat × Nat :=
  match a, b with
  | .nan, _ => (nan32, 0)
  | _, .nan => (nan32, 0)
  | .inf x, .inf y => if x = y then (fpCode (.inf x), 0) else (nan32, fInvalid)
  | .inf x, _ => (fpCode (.inf x), 0)
  | _, .inf y => (fpCode (.inf y), 0)
  | .fin n1 m1 e1, .fin n2 m2 e2 =>
    let (v, e) := exactAdd n1 m1 e1 n2 m2 e2
    if v = 0 then
      (zero32 (if m1 = 0 ∧ m2 = 0 ∧ n1 = n2 then n1 else decide (mode = .rdn)), 0)
    else fp32Of mode (decide (v < 0)) v.natAbs e

/-- The exact product of two values, and whether it is ∞ × 0. -/
def mulVals (a b : Fp) : Fp × Bool :=
  match a, b with
  | .nan, _ => (.nan, false)
  | _, .nan => (.nan, false)
  | .inf x, .inf y => (.inf (x != y), false)
  | .inf x, .fin n m _ => if m = 0 then (.nan, true) else (.inf (x != n), false)
  | .fin n m _, .inf y => if m = 0 then (.nan, true) else (.inf (n != y), false)
  | .fin n1 m1 e1, .fin n2 m2 e2 => (.fin (n1 != n2) (m1 * m2) (e1 + e2), false)

/-- A value rounded to FP32. -/
def roundVal (mode : Rnd) (v : Fp) : Nat × Nat :=
  match v with
  | .fin neg m e => if m = 0 then (zero32 neg, 0) else fp32Of mode neg m e
  | v => (fpCode v, 0)

/-- The square root of a number rounded down, by bits. -/
def isqrtGo : Nat → Nat → Nat → Nat
  | 0, _, r => r
  | n + 1, x, r =>
    let c := r + 2 ^ n
    isqrtGo n x (if c * c ≤ x then c else r)

/-- The square root of a number below 2^200 rounded down. -/
def isqrt (x : Nat) : Nat := isqrtGo 100 x 0

/-- The quotient of two values under a mode (R90). -/
def divVals (mode : Rnd) (a b : Fp) : Nat × Nat :=
  match a, b with
  | .nan, _ => (nan32, 0)
  | _, .nan => (nan32, 0)
  | .inf _, .inf _ => (nan32, fInvalid)
  | .inf x, .fin n _ _ => (fpCode (.inf (x != n)), 0)
  | .fin n _ _, .inf y => (zero32 (n != y), 0)
  | .fin n1 m1 e1, .fin n2 m2 e2 =>
    if m2 = 0 then
      if m1 = 0 then (nan32, fInvalid) else (fpCode (.inf (n1 != n2)), fDivZero)
    else if m1 = 0 then (zero32 (n1 != n2), 0)
    else
      let num := m1 * 2 ^ 60
      fp32Of mode (n1 != n2) (num / m2) (e1 - 60 - e2) (decide (num % m2 ≠ 0))

/-- A positive value with its exponent made even. -/
def evenExp (m : Nat) (e : Int) : Nat × Int := if e % 2 = 0 then (m, e) else (m * 2, e - 1)

/-- The square root of a value under a mode (R90). -/
def sqrtVal (mode : Rnd) (a : Fp) : Nat × Nat :=
  match a with
  | .nan => (nan32, 0)
  | .inf neg => if neg then (nan32, fInvalid) else (fpCode a, 0)
  | .fin neg m e =>
    if m = 0 then (zero32 neg, 0) else if neg then (nan32, fInvalid) else
    let (m, e) := evenExp m e
    let x := m * 2 ^ 60
    let r := isqrt x
    fp32Of mode false r (e / 2 - 30) (decide (r * r ≠ x))

/-- The reciprocal square root of a value under a mode (R90). -/
def rsqrtVal (mode : Rnd) (a : Fp) : Nat × Nat :=
  match a with
  | .nan => (nan32, 0)
  | .inf neg => if neg then (nan32, fInvalid) else (0, 0)
  | .fin neg m e =>
    if m = 0 then (fpCode (.inf neg), fDivZero) else if neg then (nan32, fInvalid) else
    let (m, e) := evenExp m e
    let r := isqrt (2 ^ 120 / m)
    fp32Of mode false r (-(e / 2) - 60) (decide (r * r * m ≠ 2 ^ 120))

/-- An FP32 code with a subnormal read as zero of its sign. -/
def ftzIn (ftz : Bool) (x : Nat) : Nat := if ftz && bits x 23 8 == 0 then zero32 (bit x 31) else x

/-- A subnormal FP32 result flushed to zero (R90). -/
def ftzOut (ftz : Bool) (r : Nat × Nat) : Nat × Nat :=
  if ftz && bits r.1 23 8 == 0 && decide (bits r.1 0 23 ≠ 0) then
    (zero32 (bit r.1 31), orF r.2 (orF fUnderflow fInexact))
  else r

/-- An FP32 operand. -/
def val32 (x : Nat) : Fp := fmtFP32.decode x

/-- Add, of FP32 codes, with FTZ (R90). -/
def fpAdd32 (mode : Rnd) (ftz : Bool) (a b : Nat) : Nat × Nat :=
  ftzOut ftz (addVals mode (val32 (ftzIn ftz a)) (val32 (ftzIn ftz b)))

/-- Negates an FP32 code. -/
def neg32 (x : Nat) : Nat := if bit x 31 then x - 0x80000000 else x + 0x80000000

def fpSub32 (mode : Rnd) (ftz : Bool) (a b : Nat) : Nat × Nat :=
  ftzOut ftz (addVals mode (val32 (ftzIn ftz a)) (val32 (neg32 (ftzIn ftz b))))

def fpMul32 (mode : Rnd) (ftz : Bool) (a b : Nat) : Nat × Nat :=
  let (v, bad) := mulVals (val32 (ftzIn ftz a)) (val32 (ftzIn ftz b))
  let r := roundVal mode v
  ftzOut ftz (r.1, orF r.2 (if bad then fInvalid else 0))

/-- Fused multiply-add a × b + c, one rounding (R89, R90). -/
def fpFma32 (mode : Rnd) (ftz : Bool) (a b c : Nat) : Nat × Nat :=
  let (v, bad) := mulVals (val32 (ftzIn ftz a)) (val32 (ftzIn ftz b))
  if bad then
    (nan32, if val32 c = .nan then 0 else fInvalid)
  else ftzOut ftz (addVals mode v (val32 (ftzIn ftz c)))

def fpDiv32 (mode : Rnd) (ftz : Bool) (a b : Nat) : Nat × Nat :=
  ftzOut ftz (divVals mode (val32 (ftzIn ftz a)) (val32 (ftzIn ftz b)))

def fpSqrt32 (mode : Rnd) (ftz : Bool) (a : Nat) : Nat × Nat := ftzOut ftz (sqrtVal mode (val32 (ftzIn ftz a)))

def fpRecip32 (mode : Rnd) (ftz : Bool) (a : Nat) : Nat × Nat :=
  ftzOut ftz (divVals mode (val32 0x3F800000) (val32 (ftzIn ftz a)))

def fpRsqrt32 (mode : Rnd) (ftz : Bool) (a : Nat) : Nat × Nat := ftzOut ftz (rsqrtVal mode (val32 (ftzIn ftz a)))

/-- An FP32 code as a number that orders as the values do, −0 below +0 (R91); not for NaN. -/
def orderKey (x : Nat) : Int := if bit x 31 then -((x : Int) - 0x80000000) - 1 else x

def isNan32 (x : Nat) : Bool := val32 x == .nan

/-- Minimum and maximum (R91). -/
def fpMin32 (a b : Nat) : Nat :=
  if isNan32 a then (if isNan32 b then nan32 else b) else if isNan32 b then a
  else if orderKey a ≤ orderKey b then a else b

def fpMax32 (a b : Nat) : Nat :=
  if isNan32 a then (if isNan32 b then nan32 else b) else if isNan32 b then a
  else if orderKey a ≤ orderKey b then b else a

/-- Whether two FP32 codes compare equal, less, less or equal (R91): −0 equals +0. -/
def fpEq32 (a b : Nat) : Bool :=
  !isNan32 a && !isNan32 b && (a == b || (bits a 0 31 == 0 && bits b 0 31 == 0))

def fpLt32 (a b : Nat) : Bool :=
  !isNan32 a && !isNan32 b && decide (orderKey a < orderKey b) && !(bits a 0 31 == 0 && bits b 0 31 == 0)

def fpLe32 (a b : Nat) : Bool := fpEq32 a b || fpLt32 a b

/-- A 32-bit code as a signed number. -/
def sgn32 (x : Nat) : Int := if x < 0x80000000 then x else (x : Int) - 0x100000000

/-- A 64-bit code as a signed number. -/
def sgn64 (x : Nat) : Int := if x < 0x8000000000000000 then x else (x : Int) - 0x10000000000000000

/-- A signed number modulo 2^n. -/
def wrapN (n : Nat) (v : Int) : Nat := (v % (2 ^ n : Nat)).toNat

/-- An integer result with saturation or wrap, and INT_OVF when it leaves its range (R85, R92, R93). -/
def intResult (signed isat : Bool) (v : Int) : Nat × Nat :=
  let lo : Int := if signed then -0x80000000 else 0
  let hi : Int := if signed then 0x7FFFFFFF else 0xFFFFFFFF
  if v < lo then (wrapN 32 (if isat then lo else v), fIntOvf)
  else if hi < v then (wrapN 32 (if isat then hi else v), fIntOvf)
  else (wrapN 32 v, 0)

/-- The number of ones in a 32-bit word. -/
def popCount (x : Nat) : Nat := (List.range 32).foldl (fun n i => n + b2n (bit x i)) 0

/-- The function of R99. -/
def mix (x : Word) : Word :=
  let x := x ^^^ (x >>> 16)
  let x := x * 0x7feb352d
  let x := x ^^^ (x >>> 15)
  let x := x * 0x846ca68b
  x ^^^ (x >>> 16)

/-- The random value of R99: seed, place and count. -/
def srValue (s : Word) (place : Nat) (n : Word) : Nat :=
  ((mix (mix (s ^^^ BitVec.ofNat 32 place) ^^^ n)) >>> 16).toNat

/-- A conversion of an exact finite value to a narrower format (R95, R98). -/
def convertFin (f : Fmt) (mode : Rnd) (sat : Bool) (neg : Bool) (m : Nat) (e : Int) : Nat × Nat :=
  if m = 0 then (f.signed neg 0, 0) else
  let r := f.round mode neg m e false
  if r.ovf then
    match f.sp with
    | .none_ => (f.signed neg f.maxCode, fSaturated)
    | sp =>
      if sat then (f.signed neg f.maxCode, fSaturated) else
      let toMax := match mode with
        | .rtz => true | .rdn => !neg | .rup => neg | _ => false
      (if toMax then f.signed neg f.maxCode
       else if sp = .ieee then f.signed neg f.infCode else f.nanCode, orF fOverflow fInexact)
  else (f.signed neg r.mag,
    orF (if r.inexact then fInexact else 0) (if r.tiny && r.inexact then fUnderflow else 0))

/-- A conversion of an FP32 code to a narrower format (R95). -/
def convertTo (f : Fmt) (mode : Rnd) (sat : Bool) (x : Nat) : Nat × Nat :=
  match val32 x with
  | .nan => match f.sp with
    | .none_ => (0, fInvalid)
    | _ => (f.nanCode, 0)
  | .inf neg => match f.sp with
    | .ieee => (f.signed neg f.infCode, 0)
    | .e4m3 => (if sat then f.signed neg f.maxCode else f.nanCode, fInvalid)
    | .none_ => (f.signed neg f.maxCode, fInvalid)
  | .fin neg m e => convertFin f mode sat neg m e

/-- A conversion of a narrower code to FP32, exact (R95). -/
def convertFrom (f : Fmt) (x : Nat) : Nat := fpCode (f.decode x)

/-- A conversion of an FP32 code to INT32 or UINT32 (R95). -/
def convertInt (mode : Rnd) (signed : Bool) (x : Nat) : Nat × Nat :=
  let lo : Int := if signed then -0x80000000 else 0
  let hi : Int := if signed then 0x7FFFFFFF else 0xFFFFFFFF
  match val32 x with
  | .nan => (0, fInvalid)
  | .inf neg => (wrapN 32 (if neg then lo else hi), fInvalid)
  | .fin neg m e =>
    let (k, inx) := quantum mode neg m e 0 false
    let v : Int := if neg then -(k : Int) else k
    if v < lo then (wrapN 32 lo, fInvalid)
    else if hi < v then (wrapN 32 hi, fInvalid)
    else (wrapN 32 v, if inx then fInexact else 0)

/-- A conversion of an INT32 or UINT32 code to FP32. -/
def intToFp (mode : Rnd) (signed : Bool) (x : Nat) : Nat × Nat :=
  let v : Int := if signed then sgn32 x else x
  if v = 0 then (0, 0) else fp32Of mode (decide (v < 0)) v.natAbs 0

/-- ⌊log2⌋ of a nonzero magnitude. -/
def flog2 (m : Nat) (e : Int) : Int := m.log2 + e

/-- MX quantise of a block (R97): the lanes with their enables, the rounding of each lane; the scale, the element
codes and the flags. DEDUCED: a NaN or an infinity in a lane that the mask disables does not count either; the rule says so of m,
and its pseudocode asks of any x_i (log entry 131). -/
def mxQuantise (f : Fmt) (emax : Int) (mode : Nat → Rnd) (xs : List (Nat × Bool)) : Nat × List Nat × Nat :=
  let act := xs.filter (·.2)
  let special := act.any (fun x => match val32 x.1 with | .fin _ _ _ => false | _ => true)
  if special then (0xFF, xs.map (fun _ => 0), fScaleNan) else
  let tops := act.filterMap (fun x => match val32 x.1 with
    | .fin _ m e => if m = 0 then none else some (flog2 m e)
    | _ => none)
  match tops with
  | [] => (0x7F, xs.map (fun x => if x.2 then f.signed (bit x.1 31) 0 else 0), 0)
  | t :: ts =>
    let e := max (-127) (min 127 (ts.foldl max t - emax))
    let rs := (List.range xs.length).map (fun i =>
      let x := xs.getD i (0, false)
      if x.2 then
        match val32 x.1 with
        | .fin neg m ex => convertFin f (mode i) true neg m (ex - e)
        | _ => (0, 0)
      else (0, 0))
    ((e + 127).toNat, rs.map (·.1), rs.foldl (fun a r => orF a r.2) 0)

/-- A weight format of the ACW (R76): a floating format with or without a block scale, or an integer width. -/
inductive EFmt where
  | float (f : Fmt) (scaled : Bool)
  | int (w : Nat)
  deriving DecidableEq, Repr

/-- The formats by WFMT and AFMT code (R76). -/
def efmt (code : Nat) : Option EFmt :=
  match code with
  | 0 => some (.float fmtE4M3 false)
  | 1 => some (.float fmtE5M2 false)
  | 2 => some (.float fmtE4M3 true)
  | 3 => some (.float fmtE5M2 true)
  | 4 => some (.float fmtE2M3 true)
  | 5 => some (.float fmtE3M2 true)
  | 6 => some (.float fmtE2M1 true)
  | 7 => some (.float fmtBF16 false)
  | 8 => some (.float fmtFP16 false)
  | 9 => some (.int 8)
  | 10 => some (.int 4)
  | _ => none

/-- The width of an element. -/
def EFmt.width : EFmt → Nat
  | .float f _ => f.width
  | .int w => w

/-- A value times 2^n. -/
def scaleFp (v : Fp) (n : Int) : Fp :=
  match v with
  | .fin neg m e => .fin neg m (e + n)
  | v => v

/-- The seam word of an element: base value, its scale if any, the delta and its scale if any (R80 to R82). -/
def seamWord (base : Fp) (sb : Option Nat) (delta : Option (Int × Nat)) : Fp × Nat :=
  let nanScale := sb == some 0xFF || (match delta with | some d => d.2 == 0xFF | none => false)
  if nanScale then (.nan, fScaleNan) else
  let b := match sb with | some s => scaleFp base ((s : Int) - 127) | none => base
  match b with
  | .nan => (.nan, 0)
  | .inf n => (.inf n, 0)
  | .fin n m e =>
    match delta with
    | none => (.fin n m e, 0)
    | some (d, sd) =>
      let (v, ex) := exactAdd n m e (decide (d < 0)) d.natAbs ((sd : Int) - 127)
      if v = 0 then (.fin false 0 0, 0) else
      let q := flog2 v.natAbs ex - 10
      let (k, inx) := quantum .rne (decide (v < 0)) v.natAbs ex q false
      (.fin (decide (v < 0)) k (max q (min ex q)), if inx then fInexact else 0)

/-- The result of a floating-point DPU step over its terms (R83, R84). -/
def dpuSum (rtz : Bool) (terms : List Fp) (badProduct : Bool) : Nat × Nat :=
  let posInf := terms.any (fun t => t == .inf false)
  let negInf := terms.any (fun t => t == .inf true)
  if terms.any (fun t => t == .nan) || (posInf && negInf) then
    (nan32, if badProduct || (posInf && negInf) then fInvalid else 0)
  else if posInf then (fpCode (.inf false), 0)
  else if negInf then (fpCode (.inf true), 0)
  else
    let logs := terms.filterMap (fun t => match t with
      | .fin _ m e => if m = 0 then none else some (flog2 m e)
      | _ => none)
    match logs with
    | [] => (zero32 (terms.all (fun t => match t with | .fin n _ _ => n | _ => false)), 0)
    | t :: ts =>
      let q := ts.foldl max t - 40
      let parts : List (Int × Bool) := terms.map (fun t => match t with
        | .fin n m e => let x := quantum .rtz n m e q false; ((if n then -(x.1 : Int) else (x.1 : Int)), x.2)
        | _ => (0, false))
      let sum := parts.foldl (fun (a : Int) p => a + p.1) 0
      let lost := parts.any (·.2)
      let r := if sum = 0 then (0, 0)
        else fp32Of (if rtz then .rtz else .rne) (decide (sum < 0)) sum.natAbs q
      let tiny := sum != 0 && (fmtFP32.round (if rtz then .rtz else .rne) (decide (sum < 0)) sum.natAbs q false).tiny
      (r.1, orF r.2 (if lost then orF fInexact (if tiny then fUnderflow else 0) else 0))

/-- The result of an integer DPU step (R85). -/
def dpuInt (isat : Bool) (acc : Nat) (ps : List Int) : Nat × Nat :=
  intResult true isat (sgn32 acc + ps.foldl (· + ·) 0)

/-- A signed field of `w` bits. -/
def sgnW (w x : Nat) : Int := if x < 2 ^ (w - 1) then x else (x : Int) - 2 ^ w

end Sys2Proof.Machine
end

