-- ==== Sys2Proof/Machine/Regs.lean ====
section
/-! DEFINITION. The register maps: for each register that holds written values, its fields with access,
reset and legal range (R9 to R13), and the reading of a field. -/

namespace Sys2Proof.Machine

/-- Access codes that keep or use a written value (R10). -/
inductive Acc where
  | rw | rws | w1c | wo
  deriving DecidableEq, Repr

/-- A field that software writes: bits `lo` to `lo + len - 1`, reset value and the values that are not reserved
encodings (R13). -/
structure RegField where
  lo    : Nat
  len   : Nat
  acc   : Acc
  reset : Nat
  min   : Nat
  max   : Nat
  deriving DecidableEq, Repr

/-- A register with written fields: its offset in its space, its width and fields. -/
structure RegDesc where
  off    : Nat
  wide   : Bool
  fields : List RegField
  deriving DecidableEq, Repr

/-- A field that takes every value of its width. -/
def fld (lo len : Nat) (acc : Acc) (reset : Nat) : RegField := ⟨lo, len, acc, reset, 0, 2 ^ len - 1⟩

/-- A field with a range. -/
def fldR (lo len : Nat) (acc : Acc) (reset min max : Nat) : RegField := ⟨lo, len, acc, reset, min, max⟩

/-- The width of INT_STATUS of each block, by block number of PT_MGMT_SUMMARY. -/
def intWidths : List Nat := [7, 8, 8, 2, 5, 6, 6, 8, 3, 4, 3, 6, 3, 5]

/-- The offset of INT_STATUS of each block; INT_ENABLE follows it. -/
def intOffsets : List Nat :=
  [0x10020, 0x20030, 0x30040, 0x40008, 0x5002C, 0x6000C, 0x70010, 0x8003C, 0x240004, 0x9003C, 0xA0008, 0xB0014,
   0xC0060, 0xD0028]

/-- INT_STATUS of a block. -/
def intStatusOff (b : Nat) : Nat := intOffsets.getD b 0

/-- INT_ENABLE of a block. -/
def intEnableOff (b : Nat) : Nat := intStatusOff b + 4

/-- The interrupt registers of every block. -/
def intRegs : List RegDesc :=
  (List.range 14).flatMap (fun b =>
    let w := intWidths.getD b 0
    [⟨intStatusOff b, false, [fld 0 w .w1c 0]⟩, ⟨intEnableOff b, false, [fld 0 w .rw 0]⟩])

/-- Registers with written fields of the module register space, the interrupt registers and those of stacks,
clusters and cores apart. -/
def blockRegs : List RegDesc := [
  ⟨0x1000C, false, [fld 0 3 .rw 0]⟩,
  ⟨0x10010, false, [fld 0 1 .rws 0, fld 1 1 .rws 0, fld 4 12 .rws 0]⟩,
  ⟨0x1001C, false, [fldR 0 7 .rws 25 1 98, fldR 8 7 .rws 60 2 99, fldR 16 7 .rws 85 3 100]⟩,
  ⟨0x10028, false, [fld 0 12 .rw 0]⟩,
  ⟨0x10034, false, [fld 0 9 .rw 0]⟩,
  ⟨0x20000, false, [fld 0 1 .rws 1, fld 1 1 .rws 1, fld 2 3 .rws 0, fld 8 2 .rws 1, fld 10 2 .rws 1]⟩,
  ⟨0x20020, false, [fldR 0 11 .rws 100 10 2000]⟩,
  ⟨0x20024, false, [fldR 0 11 .rws 64 0 1024]⟩,
  ⟨0x20028, false, [fldR 0 9 .rws 250 50 350]⟩,
  ⟨0x30000, false, [fld 0 1 .rws 1, fldR 8 8 .rws 4 0 64, fldR 16 12 .rws 64 8 1024]⟩,
  ⟨0x30018, true, [fld 0 36 .rws 205078125]⟩,
  ⟨0x30048, false, [fldR 0 12 .rw 0 0 2559]⟩,
  ⟨0x40000, false, [fld 0 1 .rws 1, fld 1 1 .rws 1]⟩,
  ⟨0x40018, false, [fld 0 3 .rw 0]⟩,
  ⟨0x50000, false, [fldR 0 8 .rws 32 8 128, fld 8 1 .rws 1, fldR 16 8 .rws 16 1 255]⟩,
  ⟨0x50034, false, [fld 0 9 .rw 0]⟩,
  ⟨0x60000, false, [fld 0 1 .rws 0, fld 1 1 .rws 1, fld 2 1 .rws 1, fldR 4 4 .rws 8 1 15, fldR 8 6 .rws 8 1 32]⟩,
  ⟨0x60004, false, [fldR 0 12 .rws 512 256 4095, fld 12 1 .rws 0]⟩,
  ⟨0x60008, false, [fldR 0 7 .rws 12 4 32, fldR 8 8 .rws 32 8 255]⟩,
  ⟨0x60014, false, [fld 0 19 .rw 0]⟩,
  ⟨0x70000, false, [fld 0 1 .rws 1, fld 1 1 .rws 1, fld 2 1 .rws 1, fld 3 1 .rws 1]⟩,
  ⟨0x70004, false, [fldR 0 13 .rws 64 1 4096]⟩,
  ⟨0x70008, false, [fldR 0 16 .rws 128 16 65535, fldR 16 16 .rws 60 1 65535]⟩,
  ⟨0x70028, false, [fldR 0 5 .rw 0 0 19, fld 5 5 .rw 0, fldR 10 5 .rw 0 0 16, fld 15 4 .rw 0]⟩,
  ⟨0x80000, false, [fldR 0 6 .rws 20 5 32, fldR 8 7 .rws 90 50 99, fld 15 1 .rws 1]⟩,
  ⟨0x80028, false, [fldR 0 4 .rw 0 0 8]⟩]

/-- The registers of the AQ_, MB_, RV_, KY_ and PW_ blocks with written fields. -/
def blockRegs2 : List RegDesc := [
  ⟨0x90000, false, [fld 0 1 .rws 0, fldR 8 6 .rws 10 0 50, fld 16 4 .rws 4]⟩,
  ⟨0x90008, false, [fldR 0 5 .rws 24 0 30, fldR 8 5 .rws 16 0 30, fldR 16 5 .rws 8 0 30, fldR 24 5 .rws 0 0 30]⟩,
  ⟨0x9000C, false, [fldR 0 5 .rws 7 0 30, fldR 8 12 .rws 512 16 4095]⟩,
  ⟨0x90010, false, [fldR 0 6 .rws 48 8 60, fldR 8 6 .rws 56 8 60]⟩,
  ⟨0x90014, false, [fldR 0 7 .rws 75 10 100, fldR 8 7 .rws 50 0 99, fldR 16 4 .rws 4 1 15]⟩,
  ⟨0x90018, false, [fldR 0 4 .rw 0 0 14]⟩,
  ⟨0x9001C, false, [fld 0 2 .rws 0, fld 2 1 .rws 0, fld 3 1 .rws 1, fld 4 12 .rws 0]⟩,
  ⟨0x90020, false, [fld 0 9 .rws 511, fldR 16 8 .rws 32 1 255]⟩,
  ⟨0x90028, false, [fldR 0 5 .rw 0 0 19, fld 5 5 .rw 0]⟩,
  ⟨0x90030, false, [fld 0 6 .rw 0]⟩,
  ⟨0x9004C, false, [fld 0 2 .rws 1, fld 2 2 .rws 2, fld 4 2 .rws 2, fld 6 2 .rws 3, fld 8 2 .rws 0]⟩,
  ⟨0xA0000, false, [fld 0 1 .rws 1, fld 1 1 .rws 1, fld 2 1 .rws 1, fld 3 1 .rws 1]⟩,
  ⟨0xA0010, false, [fld 0 9 .rw 0]⟩,
  ⟨0xB0000, false, [fld 0 1 .rws 1, fld 4 12 .rws 0, fldR 16 12 .rws 250 10 4000]⟩,
  ⟨0xB001C, false, [fld 0 9 .rw 0]⟩,
  ⟨0xC0010, false, [fld 0 10 .rw 0]⟩,
  ⟨0xD0000, false, [fld 0 8 .rws 0, fld 8 1 .rws 1]⟩,
  ⟨0xD0004, false, [fldR 0 11 .rws 1400 600 1400]⟩]

/-- The registers of a stack with written fields: channel and timing-set selection (DC_ST_CH_SEL, DC_ST_TSET_SEL). -/
def stackRegs : List RegDesc := [⟨4, false, [fld 0 5 .rw 0]⟩, ⟨0x14, false, [fldR 0 2 .rw 0 0 2]⟩]

/-- The register with written fields at an offset of the module register space. -/
def regAt (off : Nat) : Option RegDesc :=
  if 0x61000 ≤ off ∧ off < 0x66000 then
    (stackRegs.find? (fun r => r.off == (off - 0x61000) % 0x400)).map (fun r => { r with off := off })
  else (intRegs ++ blockRegs ++ blockRegs2).find? (fun r => r.off == off)

/-- The key of a register in the maps of written values: its offset and the index it is selected by. -/
def regKey (off ix : Nat) : Nat := off + ix * 0x100000000

/-- The reset value of AQ_MASTER_CFG for a master (R357): class, THROTTLE, URG_EN and LAT_TARGET. -/
def masterCfgReset (m : Nat) : Nat :=
  let row : Nat × Nat × Nat :=
    if m < 8 then (1, 0, 150) else
    [(2, 1, 400), (1, 0, 200), (2, 1, 1000), (0, 0, 200), (0, 0, 0), (3, 1, 0), (1, 0, 400)].getD (m - 8) (0, 0, 0)
  row.1 + 4 * row.2.1 + 8 + 16 * row.2.2

/-- The reset value of the written fields of a register (R12). -/
def regReset (d : RegDesc) (ix : Nat) : Nat :=
  if d.off = 0x9001C then masterCfgReset ix
  else d.fields.foldl (fun v f => v + f.reset * 2 ^ f.lo) 0

/-- The value of the written fields of a register in a map of written values. -/
def regIn (m : AMap DWord) (off ix : Nat) : Nat :=
  match mget? m (regKey off ix) with
  | some v => v.toNat
  | none => match regAt off with
    | some d => regReset d ix
    | none => 0

/-- The written value of a register as software reads it back. -/
def State.reg (s : State) (off : Nat) (ix : Nat := 0) : Nat := regIn s.regs off ix

/-- The written value of a register as it took effect at the last frame boundary. -/
def State.regEff (s : State) (off : Nat) (ix : Nat := 0) : Nat := regIn s.eff off ix

/-- A field of a register as read back. -/
def State.fieldOf (s : State) (off lo len : Nat) (ix : Nat := 0) : Nat := bits (s.reg off ix) lo len

/-- A field of a register as it took effect at the last frame boundary. -/
def State.fieldEff (s : State) (off lo len : Nat) (ix : Nat := 0) : Nat := bits (s.regEff off ix) lo len

/-- A field is accepted: its value is not a reserved encoding (R13), the encodings with holes by name. -/
def fieldLegal (off : Nat) (f : RegField) (v : Nat) : Bool :=
  decide (f.min ≤ v) && decide (v ≤ f.max)
    && (!(off == 0x90020 && f.lo == 0) || decide (v ≤ 168) || v == 511)

/-- Conditions between fields of one register (PT_DEVLOAD of R355, AQ_QUEUE and AQ_URG). -/
def crossLegal (off old new : Nat) (f : RegField) : Bool :=
  if off = 0x1001C then
    let l := bits new 0 7; let o := bits new 8 7; let m := bits new 16 7
    decide (1 ≤ l ∧ l < o ∧ o < m ∧ m ≤ 100)
  else if off = 0x90010 ∧ f.lo = 8 then decide ((if 8 ≤ bits new 0 6 ∧ bits new 0 6 ≤ 60 then bits new 0 6 else bits old 0 6) ≤ bits new 8 6)
  else if off = 0x90014 ∧ f.lo = 8 then decide (bits new 8 7 < (if 10 ≤ bits new 0 7 ∧ bits new 0 7 ≤ 100 then bits new 0 7 else bits old 0 7))
  else true

/-- The written value of a register after a write (R10, R13): each field on its own. -/
def regWritten (d : RegDesc) (old new : Nat) : Nat :=
  d.fields.foldl (fun v f =>
    let x := bits new f.lo f.len
    match f.acc with
    | .w1c => setBits v f.lo f.len ((BitVec.ofNat 64 (bits v f.lo f.len) &&& ~~~ BitVec.ofNat 64 x).toNat)
    | .wo => v
    | _ => if fieldLegal d.off f x && crossLegal d.off old new f then setBits v f.lo f.len x else v) old

/-- Adds to a counter register, by its offset, saturating at its width (R68, R141, R171, R204, R236, R265, R297, R321, R355). -/
def State.bump (s : State) (off n : Nat) (len : Nat := 32) (ix : Nat := 0) : State :=
  { s with counts := mmod 0 s.counts (regKey off ix) (fun c => satAdd c n (2 ^ len - 1)) }

/-- A counter register. -/
def State.count (s : State) (off : Nat) (ix : Nat := 0) : Nat := mget 0 s.counts (regKey off ix)

end Sys2Proof.Machine
end

