-- ==== Sys2Proof/Machine/Dram.lean ====
section
/-! DEFINITION. The DRAM array: where a byte lies (R237 to R239), the lines with their tags, the seals and their
CRC-32C (R271), and the whole-line and whole-granule writes. -/

namespace Sys2Proof.Machine

/-- One bit step of the reflected CRC-32C (polynomial 0x1EDC_6F41 of R271). -/
def crcBit (c : Nat) : Nat := if c % 2 = 1 then Nat.xor (c / 2) 0x82F63B78 else c / 2

/-- The CRC register after one byte. -/
def crcByte (c : Nat) (b : Byte) : Nat :=
  crcBit (crcBit (crcBit (crcBit (crcBit (crcBit (crcBit (crcBit (Nat.xor c b.toNat))))))))

/-- CRC-32C of bytes in ascending order (R271). -/
def crc32c (bs : List Byte) : Word := BitVec.ofNat 32 (Nat.xor (bs.foldl crcByte 0xFFFFFFFF) 0xFFFFFFFF)

/-- The seal of a granule of zeros (R295): crc32c of 256 zero bytes, as `seal_zero` in the tests shows. -/
def zeroSeal : Word := 0xB872B190

/-- Where a line lies: stack, channel, rank, bank of the rank (bank group × 4 + bank in group), row and line of
the row (R237, R238). -/
structure Loc where
  stack : Nat
  chan  : Nat
  rank  : Nat
  bank  : Nat
  row   : Nat
  line  : Nat
  deriving DecidableEq, Repr

/-- Rank, bank in group and column slot of byte `q` of a page in frame row `f`, by address order (R239). -/
def orderPlace (order : Nat) (f q : Nat) : Nat × Nat × Nat :=
  match order with
  | 0 => (bits q 12 4, bits q 10 2, bits q 8 2)
  | 1 => (bits q 10 4, bits q 8 2, bits q 14 2)
  | 2 => (bits q 11 4, bits q 9 2, 2 * bits q 15 1 + bits q 8 1)
  | _ => (Nat.xor (bits q 10 4) (bits f 2 4), Nat.xor (bits q 8 2) (bits f 0 2), bits q 14 2)

/-- Where byte `q` of the page in frame `fr` lies (R148, R237 to R239). -/
def locOf (order fr q : Nat) : Loc :=
  let sliver := fr / 8192
  let loc := sliver % 128
  let (r, b, c) := orderPlace order (fr % 8192) q
  { stack := sliver / 128, chan := loc / 4, rank := r, bank := loc % 4 * 4 + b, row := fr % 8192,
    line := c * 4 + bits q 6 2 }

/-- The key of a channel: stack × 32 + channel. -/
def chanKey (st ch : Nat) : Nat := st * 32 + ch

/-- The key of a bank of a channel: rank × 16 + bank. -/
def bankKey (rank bank : Nat) : Nat := rank * 16 + bank

/-- A channel's state. -/
def State.chan (s : State) (st ch : Nat) : ChanState := mget {} s.chans (chanKey st ch)

/-- Changes a channel's state. -/
def State.modChan (s : State) (st ch : Nat) (f : ChanState → ChanState) : State :=
  { s with chans := mmod {} s.chans (chanKey st ch) f }

/-- A stack's state. -/
def State.stackOf (s : State) (st : Nat) : StackState := mget {} s.stackSt st

/-- Changes a stack's state. -/
def State.modStack (s : State) (st : Nat) (f : StackState → StackState) : State :=
  { s with stackSt := mmod {} s.stackSt st f }

/-- The state of a channel's spare rank (R263): a free one is unavailable where it failed the start-up test. -/
def spareState (k : Nat) (c : ChanState) : SpareSt :=
  if c.spare = .free && !Config.spareRankGood k then .unavailable else c.spare

/-- The rank that answers for a line, by the spare's steering (R261, R262): 16 is the spare rank. -/
def steerRank (c : ChanState) (rank bank row : Nat) : Nat :=
  if c.spareRank = rank then
    match c.spare with
    | .spared => 16
    | .migrating => if bank + 16 * row < c.pointer then 16 else rank
    | _ => rank
  else rank

/-- The fuse map of a bank of a channel (R289, R290): that of manufacture until an entry is committed. -/
def fuseOf (ch : Nat) (c : ChanState) (bank : Nat) : FuseBank :=
  mget { rows := (Config.fuseRows (ch * 272 + bank)).take 4, cols := (Config.fuseCols (ch * 272 + bank)).take 2 } c.fuse bank

/-- The place of a row in a list of spared rows: the last, where a spare row has itself been spared. -/
def spareIx (rows : List Nat) (row : Nat) : Option Nat :=
  (List.range rows.length).foldl (fun m k => if rows[k]? == some row then some k else m) none

/-- The row that answers, by the fuse map: spare row k of a bank is row 8192 + k (R291). -/
def steerRow (ch : Nat) (c : ChanState) (rank bank row : Nat) : Nat :=
  match spareIx (fuseOf ch c (bankKey rank bank)).rows row with
  | some k => 8192 + k
  | none => row

/-- The number of a line's cells, by channel, physical rank, bank, physical row and line of the row. -/
def cellNo (k rank bank row line : Nat) : Nat := (((k * 17 + rank) * 16 + bank) * 8196 + row) * 16 + line

/-- The bank that answers for a place, by the spare's steering (R262). -/
def bankOf (c : ChanState) (l : Loc) : Nat := bankKey (steerRank c l.rank l.bank l.row) l.bank

/-- The cells that answer for a line, after steering. -/
def cellKey (s : State) (l : Loc) : Nat :=
  let c := s.chan l.stack l.chan
  let rank := steerRank c l.rank l.bank l.row
  cellNo (chanKey l.stack l.chan) rank l.bank (steerRow (chanKey l.stack l.chan) c rank l.bank l.row) l.line

/-- A line offset is covered by a committed column spare: the fuse map's STEER (R287, R292). -/
def mapSteers (b : FuseBank) (line : Nat) : Bool := b.cols.any (fun c => c.1 == line)

/-- A write of a line's tag sets STEER (R292): the fuse map covers the line's offset, or a column walk of it runs. -/
def writeSteers (b : FuseBank) (line : Nat) : Bool :=
  mapSteers b line || (match b.job with | some (.col o _) => o == line | _ => false)

/-- A line's STEER bit (R267). -/
def steerBit (s : State) (l : Loc) : Bool :=
  let c := s.chan l.stack l.chan
  (mget? s.steer (cellKey s l)).getD (mapSteers (fuseOf (chanKey l.stack l.chan) c (bankOf c l)) l.line)

/-- The symbols of a line offset that have a spare column: the committed ones, and the one that a walk is writing (R292). -/
def spareSyms (b : FuseBank) (line : Nat) : List Nat :=
  (b.cols.filter (fun c => c.1 == line)).map (·.2) ++ (match b.job with | some (.col o y) => if o = line then [y] else [] | _ => [])

/-- The bits of a line that its read finds wrong (R269): those of a symbol with a spare column are read from that column where STEER
is 1 (R292). -/
def cellBits (s : State) (l : Loc) : List Nat :=
  match mget? s.cellErr (cellKey s l) with
  | none => []
  | some bs =>
    let c := s.chan l.stack l.chan
    let away := if steerBit s l then spareSyms (fuseOf (chanKey l.stack l.chan) c (bankOf c l)) l.line else []
    bs.filter (fun b => !away.contains (b / 16))

/-- Symbol positions of bits, each once (R269). -/
def symbolsOf (bs : List Nat) : List Nat := bs.foldl (fun l b => if l.contains (b / 16) then l else l ++ [b / 16]) []

/-- The firm code (R269): it corrects one symbol. DESIGN CHOICE: three symbols or more, which it need not detect, are found
uncorrectable (log entry 143). -/
def firmErr (bs : List Nat) : Option LineErr :=
  match symbolsOf bs with
  | [] => none
  | [y] => some (.corrected [y])
  | _ => some .uncorrectable

/-- The part of a light line whose code covers a bit (R269): 16-byte granule 0 to 3, 4 for the tag; none for ignored bits. -/
def lightPart (b : Nat) : Option Nat :=
  if b < 512 then some (b / 128)
  else if b < 520 then some 4
  else if b < 556 then some ((b - 520) / 9)
  else if 557 ≤ b ∧ b < 562 then some 4
  else none

/-- The light codes of some parts of a line (R269): each corrects one bit. DESIGN CHOICE: three bits or more, which a code need not
detect, are found uncorrectable (log entry 143). -/
def lightErr (bs : List Nat) (parts : List Nat) : Option LineErr :=
  let of := fun (j : Nat) => bs.filter (fun b => lightPart b == some j)
  if parts.any (fun j => decide (2 ≤ (of j).length)) then some .uncorrectable
  else match parts.flatMap of with
    | [] => none
    | l => some (.corrected (symbolsOf l))

/-- Whether a frame's code select is light (R268). -/
def isLight (s : State) (fr : Nat) : Bool := s.light.contains fr

/-- What a line's code finds (R268, R269): an error of its cells, or a CODE bit that disagrees with the frame's code select. -/
def lineErr (s : State) (l : Loc) (pl : Nat) : Option LineErr :=
  if s.badCode.contains pl then some .uncorrectable
  else if isLight s (pl / 1024) then lightErr (cellBits s l) [0, 1, 2, 3, 4]
  else firmErr (cellBits s l)

/-- The sparing copy has begun to read the row of a place, and has not finished it (R262). -/
def copyingRow (c : ChanState) (l : Loc) : Bool :=
  c.spare == .migrating && c.spareRank == l.rank && decide (0 < c.copyAt) && l.bank + 16 * l.row == c.pointer

/-- A row spare's copy has begun to read the row of a place (R291). -/
def sparingRow (b : FuseBank) (row : Nat) : Bool := b.job == some (.row row) && decide (0 < b.at_)

/-- The cells that a write of a line reaches: those that answer for it, and those of a copy's destination (R262, R291). -/
def writtenCells (s : State) (l : Loc) : List (FuseBank × Nat) :=
  let k := chanKey l.stack l.chan
  let c := s.chan l.stack l.chan
  let b := fuseOf k c (bankOf c l)
  let rank := steerRank c l.rank l.bank l.row
  (b, cellNo k rank l.bank (steerRow k c rank l.bank l.row) l.line)
    :: ((if copyingRow c l then [(fuseOf k c (bankKey 16 l.bank), cellNo k 16 l.bank (steerRow k c 16 l.bank l.row) l.line)] else [])
      ++ (if sparingRow b l.row then [(b, cellNo k rank l.bank (8192 + b.rows.length) l.line)] else []))

/-- A line's cells are written with its tag: what they read wrong ends in the parts written, and STEER is set again (R292). -/
def State.freshCell (s : State) (line : Nat) (whole : Nat → Bool) (x : FuseBank × Nat) : State :=
  let left := (mget [] s.cellErr x.2).filter (fun b => !whole b)
  { s with cellErr := if left.isEmpty then mdel s.cellErr x.2 else mput s.cellErr x.2 left
           steer := if writeSteers x.1 line == mapSteers x.1 line then mdel s.steer x.2 else mput s.steer x.2 true }

/-- The line of a write joins the skip mask of a copy that has begun to read its row (R262, R291). -/
def State.noteSkip (s : State) (l : Loc) : State :=
  let c := s.chan l.stack l.chan
  let key := bankOf c l
  let b := fuseOf (chanKey l.stack l.chan) c key
  let s := if copyingRow c l then s.modChan l.stack l.chan (fun c => { c with skip := linsert l.line c.skip }) else s
  if sparingRow b l.row then
    s.modChan l.stack l.chan (fun c => { c with fuse := mput c.fuse key { b with skip := linsert l.line b.skip } })
  else s

/-- A write of a line reaches its cells, the bits for which `whole` holds at least (R262, R269, R292). -/
def State.writeCells (s : State) (l : Loc) (whole : Nat → Bool) : State :=
  ((writtenCells s l).foldl (fun s x => s.freshCell l.line whole x) s).noteSkip l

/-- The 64 data bytes of a physical line (physical address ÷ 64). -/
def lineData (s : State) (pl : Nat) : List Byte := creads s.dram (pl * 64) 64

/-- The 256 data bytes of a granule (physical address ÷ 256). -/
def granuleData (s : State) (g : Nat) : List Byte := creads s.dram (g * 256) 256

/-- Whether a line's tag has POISON. -/
def isPoison (s : State) (pl : Nat) : Bool := s.poison.contains pl

/-- The stored seal of a granule (R271). -/
def sealOf (s : State) (g : Nat) : Word := mget zeroSeal s.seals g

/-- Stores a granule's seal; the seal of zeros is the unlisted one. -/
def State.putSeal (s : State) (g : Nat) (v : Word) : State :=
  { s with seals := if v = zeroSeal then mdel s.seals g else mput s.seals g v }

/-- Sets or clears a number of a tag list. -/
def setTag (l : List Nat) (a : Nat) (on : Bool) : List Nat := if on then linsert a l else l.erase a

/-- Sets a line's POISON (R267). -/
def State.setPoison (s : State) (pl : Nat) (on : Bool) : State := { s with poison := setTag s.poison pl on }

/-- A write of a whole line with its tag (R268, R282): the code is made again, so a cell condition and a
disagreeing CODE bit end. -/
def State.putLine (s : State) (l : Loc) (pl : Nat) (bs : List Byte) (poison hint : Bool) : State :=
  State.writeCells { s with
           dram := cwrites s.dram (pl * 64) (bs.take 64)
           poison := setTag s.poison pl poison
           hint := setTag s.hint pl hint
           badCode := s.badCode.erase pl } l (fun _ => true)

/-- The tag of a line (R267). -/
def tagOf (s : State) (l : Loc) (pl : Nat) : BitVec 8 :=
  BitVec.ofNat 8 (b2n (isPoison s pl) + 2 * b2n (isLight s (pl / 1024) != s.badCode.contains pl) + 4 * b2n (s.hint.contains pl) + 8 * b2n (steerBit s l))

/-- The CRC-32C of a 256-byte string that holds bytes at a place and zeros elsewhere: the fragment of R272. -/
def fragment (at_ : Nat) (bs : List Byte) : Word :=
  crc32c (List.replicate at_ 0 ++ bs ++ List.replicate (256 - at_ - bs.length) 0)

/-- The bytes of a list at the places a mask enables, zeros elsewhere (R272, R273). -/
def maskedBytes (mask : Nat) (bs : List Byte) : List Byte :=
  (List.range bs.length).map (fun i => if bit mask i then bs.getD i 0 else 0)

/-- New bytes where a mask enables them, old bytes elsewhere. -/
def mergeBytes (mask : Nat) (old new : List Byte) : List Byte :=
  (List.range old.length).map (fun i => if bit mask i then new.getD i 0 else old.getD i 0)

/-- Every line of a frame is written: its cells, and STEER from the fuse map or a running walk (R292, R295). -/
def State.fillCells (s : State) (fr : Nat) : State :=
  if s.cellErr.isEmpty && s.steer.isEmpty && (s.chan (fr / 8192 / 128) (fr / 8192 % 128 / 4)).fuse.isEmpty then s
  else (List.range 1024).foldl (fun s i => s.writeCells (locOf 0 fr (i * 64)) (fun _ => true)) s

/-- Fills a frame with zeros, POISON 0, HINT 0 and valid seals (R151, R295), in one code. -/
def State.zeroFrame (s : State) (fr : Nat) (light : Bool) : State :=
  let s := s.fillCells fr
  let lo := fr * 65536; let hi := lo + 65536
  let out := fun (k a b : Nat) => decide (k < a) || decide (b ≤ k)
  { s with dram := s.dram.filter (fun c => out c.1 lo hi)
           poison := s.poison.filter (fun k => out k (lo / 64) (hi / 64))
           hint := s.hint.filter (fun k => out k (lo / 64) (hi / 64))
           badCode := s.badCode.filter (fun k => out k (lo / 64) (hi / 64))
           seals := s.seals.filter (fun c => out c.1 (lo / 256) (hi / 256))
           light := setTag s.light fr light }

end Sys2Proof.Machine
end

