-- ==== Sys2Proof/Machine/Codec.lean ====
section
/-! DEFINITION. The delta codec on bytes (chapter 06): pieces (R174 to R177), transforms (R178 to R182), the
canonical prefix code (R183 to R185), and the decoding of any piece to one definite result (R189 to R192). -/

namespace Sys2Proof.Machine

/-- The header of a piece (R175). -/
structure PieceHdr where
  form    : Nat
  xform   : Nat
  table   : Nat
  slot    : Nat
  gen     : Nat
  decl    : Nat
  symbols : Nat
  body    : Nat
  fill    : Nat
  poison  : Nat
  deriving DecidableEq, Repr

/-- Reads a header. -/
def parseHdr (bs : List Byte) : PieceHdr :=
  { form := bfield bs 0 1, xform := bfield bs 1 1, table := bfield bs 2 1, slot := bfield bs 3 1,
    gen := bfield bs 4 2, decl := bfield bs 6 2, symbols := bfield bs 8 2, body := bfield bs 10 2,
    fill := bfield bs 12 4, poison := bfield bs 16 8 }

/-- Writes a header (R175). -/
def hdrBytes (h : PieceHdr) : List Byte :=
  leBytes 1 h.form ++ leBytes 1 h.xform ++ leBytes 1 h.table ++ leBytes 1 h.slot ++ leBytes 2 h.gen
    ++ leBytes 2 h.decl ++ leBytes 2 h.symbols ++ leBytes 2 h.body ++ leBytes 4 h.fill ++ leBytes 8 h.poison
    ++ leBytes 8 0

/-- A size rounded up to a multiple of 16. -/
def pad16 (n : Nat) : Nat := ceilDiv n 16 * 16

/-- Bytes padded with zeros or cut to a length. -/
def fitBytes (bs : List Byte) (n : Nat) : List Byte := (bs ++ List.replicate (n - bs.length) 0).take n

/-- A piece has an inline table. -/
def PieceHdr.inline_ (h : PieceHdr) : Bool := h.form == 1 && (h.table == 0 || h.table == 2)

/-- The body bytes of a piece: a FILL piece has none. -/
def PieceHdr.bodyLen (h : PieceHdr) : Nat := if h.form = 2 then 0 else h.body

/-- The packed size of a piece (R176). -/
def PieceHdr.packed (h : PieceHdr) : Nat :=
  32 + (if h.inline_ then 128 else 0) + pad16 h.bodyLen + pad16 (4 * (h.decl / 256))

/-- zz of a w-bit value (R179). -/
def zz (w x : Nat) : Nat := if x < 2 ^ (w - 1) then 2 * x else 2 * (2 ^ w - x) - 1

/-- The inverse of zz (R179). -/
def unzz (w z : Nat) : Nat := if z % 2 = 0 then z / 2 else 2 ^ w - (z + 1) / 2

/-- The little-endian elements of `b` bytes. -/
def elems (b : Nat) (bs : List Byte) : List Nat := (List.range (bs.length / b)).map (fun i => bfield bs (b * i) b)

/-- The planes of elements: byte `b` of element `i` at `b × n + i` (R179). -/
def planes (b : Nat) (v : List Nat) : List Byte :=
  (List.range b).flatMap (fun j => v.map (fun x => BitVec.ofNat 8 (x / 256 ^ j)))

/-- The elements that planes spell. -/
def unplanes (b : Nat) (s : List Byte) : List Nat :=
  let n := s.length / b
  let arr := s.toArray
  (List.range n).map (fun i => (List.range b).foldl (fun a j => a + (arr.getD (j * n + i) 0).toNat * 256 ^ j) 0)

/-- Element bytes of a transform (R178). -/
def xformElem (x : Nat) : Nat := [1, 2, 4, 1, 2, 4, 2, 4, 2, 4].getD x 1

/-- Whether a transform takes a reference (R178). -/
def xformRef (x : Nat) : Bool := decide (3 ≤ x)

/-- An element as an FP32 code: BF16 is widened (R180). -/
def widen32 (b x : Nat) : Nat := if b = 2 then x * 65536 else x

/-- Blocks of 32 of a list. -/
def chunk (n : Nat) {α : Type} (l : List α) : List (List α) :=
  (List.range (l.length / n)).map (fun i => (l.drop (n * i)).take n)

/-- A code is NaN or infinite. -/
def isSpecial32 (x : Nat) : Bool := bits x 23 8 == 255

/-- The scale byte and the values k of one block (R180): `rs` gives the channel's rounding by element. -/
def quantBlock (b : Nat) (mode : Nat → Rnd) (xs rs : List Nat) : Nat × List Int :=
  let ds := List.zipWith (fun x r => (fpSub32 .rne false (widen32 b x) (widen32 b r)).1) xs rs
  if xs.any (fun x => isSpecial32 (widen32 b x)) || rs.any (fun r => isSpecial32 (widen32 b r)) || ds.any isSpecial32 then
    (0xFF, [])
  else
    let vals := ds.map val32
    let m := ds.foldl (fun a d => max a (bits d 0 31)) 0
    match val32 m with
    | .fin _ mm me =>
      if mm = 0 then (0x7F, xs.map (fun _ => 0)) else
      let e := max (-127) (min 127 (flog2 mm me - 6))
      let e := if above mm (me - e) 127 0 then e + 1 else e
      let ks := (List.range vals.length).map (fun i =>
        match vals.getD i .nan with
        | .fin neg m ex =>
          let k : Int := (quantum (mode i) neg m (ex - e) 0 false).1
          max (-127) (min 127 (if neg then -k else k))
        | _ => 0)
      ((e + 127).toNat, ks)
    | _ => (0xFF, [])

/-- The decoded elements of a plain block: y = r + k × 2^(scale − 127) (R180). -/
def unquantBlock (b scale : Nat) (ks : List Int) (rs : List Nat) : List Nat :=
  List.zipWith (fun (k : Int) r =>
    let y := (addVals .rne (val32 (widen32 b r)) (.fin (decide (k < 0)) k.natAbs ((scale : Int) - 127))).1
    if b = 2 then (convertTo fmtBF16 .rne false y).1 else y) ks rs

/-- Elements as bytes. -/
def elemBytes (b : Nat) (v : List Nat) : List Byte := v.flatMap (leBytes b)

/-- Blocks in a declared size for a quantised transform. -/
def quantBlocks (b d : Nat) : Nat := d / (32 * b)

/-- The forward transform (R178 to R180): the symbol string, and the bytes that a decoder forms. -/
def forward (x : Nat) (mode : Nat → Nat → Rnd) (xs rs : List Byte) : List Byte × List Byte :=
  let b := xformElem x
  if x = 0 then (xs, xs)
  else if x = 1 ∨ x = 2 then (planes b (elems b xs), xs)
  else if x < 6 then
    (planes b (List.zipWith (fun a r => zz (8 * b) ((a + 2 ^ (8 * b) - r) % 2 ^ (8 * b))) (elems b xs) (elems b rs)), xs)
  else if x < 8 then (planes b (List.zipWith Nat.xor (elems b xs) (elems b rs)), xs)
  else
    let bx := chunk 32 (elems b xs); let br := chunk 32 (elems b rs)
    let qs := (List.range bx.length).map (fun i => quantBlock b (mode i) (bx.getD i []) (br.getD i []))
    let esc := (List.range bx.length).flatMap (fun i => if (qs.getD i (0, [])).1 = 0xFF then elemBytes b (bx.getD i []) else [])
    let ys := (List.range bx.length).flatMap (fun i =>
      let q := qs.getD i (0, [])
      if q.1 = 0xFF then elemBytes b (bx.getD i []) else elemBytes b (unquantBlock b q.1 q.2 (br.getD i [])))
    (qs.map (fun q => BitVec.ofNat 8 q.1) ++ qs.flatMap (fun q => if q.1 = 0xFF then [] else q.2.map (BitVec.ofInt 8)) ++ esc, ys)

/-- The length of the symbol string that a transform expects (R178, R189). -/
def expectLen (x d : Nat) (s : List Byte) : Nat :=
  if x < 8 then d else
  let b := xformElem x
  let n := quantBlocks b d
  n + ((fitBytes s n).map (fun c => if c = 0xFF then 32 * b else 32)).sum

/-- The inverse transform of a symbol string of the expected length (R179, R180). -/
def inverse (x d : Nat) (s rs : List Byte) : List Byte :=
  let b := xformElem x
  let r := elems b (fitBytes rs d)
  if x = 0 then s
  else if x = 1 ∨ x = 2 then elemBytes b (unplanes b s)
  else if x < 6 then elemBytes b (List.zipWith (fun z r => (unzz (8 * b) z + r) % 2 ^ (8 * b)) (unplanes b s) r)
  else if x < 8 then elemBytes b (List.zipWith Nat.xor (unplanes b s) r)
  else
    let n := quantBlocks b d
    let scales := (s.take n).map BitVec.toNat
    let br := chunk 32 r
    let plain := (scales.filter (fun c => c != 0xFF)).length
    (List.range n).foldl (fun (a : List Byte × Nat × Nat) i =>
      let sc := scales.getD i 0
      if sc = 0xFF then (a.1 ++ (s.drop a.2.2).take (32 * b), a.2.1, a.2.2 + 32 * b)
      else (a.1 ++ elemBytes b (unquantBlock b sc (((s.drop a.2.1).take 32).map BitVec.toInt) (br.getD i [])),
        a.2.1 + 32, a.2.2)) ([], n, n + 32 * plain) |>.1

/-- The code lengths of an inline table: lengths 13 to 15 count as 0 (R183). -/
def tableLens (t : List Byte) : List Nat :=
  (t.take 128).flatMap (fun b =>
    [b.toNat % 16, b.toNat / 16].map (fun n => if n ≤ 12 then n else 0))

/-- The inline table of code lengths. -/
def lensTable (lens : List Nat) : List Byte :=
  (List.range 128).map (fun i => BitVec.ofNat 8 (lens.getD (2 * i) 0 + 16 * lens.getD (2 * i + 1) 0))

/-- The codewords of a table: symbol, length, code (R183). -/
def codewords (lens : List Nat) : List (Nat × Nat × Nat) :=
  let syms := (List.range lens.length).zip lens
  ((List.range 12).foldl (fun (a : List (Nat × Nat × Nat) × Nat) i =>
    let len := i + 1
    let r := (syms.filter (fun x => x.2 == len)).foldl (fun (a : List (Nat × Nat × Nat) × Nat) x =>
      (if a.2 < 2 ^ len then (x.1, len, a.2) :: a.1 else a.1, a.2 + 1)) a
    (r.1, r.2 * 2)) ([], 0)).1.reverse

/-- The body of symbols under a table: bits from bit 7 of byte 0, codewords most significant bit first (R184).
None where a symbol has no codeword. -/
def codeBits (cw : List (Nat × Nat × Nat)) (s : List Byte) : Option (Nat × Nat) :=
  let tab := (List.range 256).map (fun i => (cw.find? (fun c => c.1 == i)).map (fun c => c.2))
  let arr := tab.toArray
  s.foldl (fun a b => match a, arr.getD b.toNat none with
    | some (v, n), some (len, code) => some (v * 2 ^ len + code, n + len)
    | _, _ => none) (some (0, 0))

/-- Bits as body bytes, the last byte padded with zeros. -/
def bitBytes (v n : Nat) : List Byte :=
  let k := ceilDiv n 8
  (leBytes k (v * 2 ^ (8 * k - n))).reverse

/-- Decodes a body (R184): the symbols produced, at most `n`. -/
def decodeGo (cw : List (Nat × Nat × Nat)) (v total : Nat) : Nat → Nat → List Byte → List Byte
  | 0, _, out => out.reverse
  | fuel + 1, pos, out =>
    if total ≤ pos then out.reverse else
    let w := v / 2 ^ (total - pos) % 4096
    match cw.find? (fun c => w / 2 ^ (12 - c.2.1) == c.2.2) with
    | some c =>
      if total < pos + c.2.1 then out.reverse
      else decodeGo cw v total fuel (pos + c.2.1) (BitVec.ofNat 8 c.1 :: out)
    | none => decodeGo cw v total fuel (pos + 12) (0 :: out)

/-- Decodes `n` symbols from body bytes. -/
def decodeBody (cw : List (Nat × Nat × Nat)) (body : List Byte) (n : Nat) : List Byte :=
  decodeGo cw (leNat body.reverse * 4096) (8 * body.length) n 0 []

/-- Merges two lists sorted by weight. -/
def mergeW : Nat → List (Nat × List Nat) → List (Nat × List Nat) → List (Nat × List Nat)
  | 0, a, b => a ++ b
  | _, [], b => b
  | _, a, [] => a
  | n + 1, x :: a, y :: b => if x.1 ≤ y.1 then x :: mergeW n a (y :: b) else y :: mergeW n (x :: a) b

/-- Pairs of neighbours as packages. -/
def pairUp : List (Nat × List Nat) → List (Nat × List Nat)
  | x :: y :: l => (x.1 + y.1, x.2 ++ y.2) :: pairUp l
  | _ => []

/-- An item put into a list sorted by weight. -/
def insertW (x : Nat × List Nat) : List (Nat × List Nat) → List (Nat × List Nat)
  | [] => [x]
  | y :: l => if x.1 < y.1 then x :: y :: l else y :: insertW x l

/-- The counts of the 256 symbol values. -/
def symbolCounts (s : List Byte) : List Nat :=
  let arr := s.foldl (fun (a : Array Nat) b => a.modify b.toNat (· + 1)) (Array.replicate 256 0)
  arr.toList

/-- Code lengths limited to 12 by package-merge (R185); one value alone has length 1. -/
def buildLens (s : List Byte) : List Nat :=
  let cs := (List.range 256).zip (symbolCounts s)
  let items := cs.foldl (fun l c => if c.2 = 0 then l else insertW (c.2, [c.1]) l) []
  match items with
  | [] => List.replicate 256 0
  | [x] => (List.range 256).map (fun i => if x.2.contains i then 1 else 0)
  | _ =>
    let top := (List.range 11).foldl (fun l _ => mergeW 1024 items (pairUp l)) items
    let used := (top.take (2 * items.length - 2)).flatMap (·.2)
    let arr := used.foldl (fun (a : Array Nat) i => a.modify i (· + 1)) (Array.replicate 256 0)
    arr.toList

/-- A coded body with its size, or none where the table lacks a symbol. -/
def codedBody (lens : List Nat) (s : List Byte) : Option (List Byte) :=
  (codeBits (codewords lens) s).map (fun x => bitBytes x.1 x.2)

/-- A piece as the encoder sends it: header fields that are not the form's own, table, body and seals (R176). -/
def pieceBytes (h : PieceHdr) (table body : List Byte) (seals : List Word) : List Byte :=
  hdrBytes h ++ table ++ fitBytes body (pad16 body.length)
    ++ fitBytes (seals.flatMap (fun w => leBytes 4 w.toNat)) (pad16 (4 * seals.length))

/-- A word repeats over the bytes (R177). -/
def fillWord (bs : List Byte) : Option Nat :=
  let ws := elems 4 bs
  match ws with
  | w :: l => if l.all (· == w) then some w else none
  | [] => none

/-- What the encoder found for one piece: its bytes, and the table stored, if any (slot, generation, lengths). -/
structure Encoded where
  bytes  : List Byte
  form   : Nat
  store  : Option (Nat × Nat × List Nat)
  named  : Option (Nat × Nat)
  deriving DecidableEq, Repr

/-- The table choices an encoder has: the slot it stored most recently, with its generation and lengths, and the
slot with its new generation in which it may store (R188). -/
structure TableChoice where
  last  : Option (Nat × Nat × List Nat) := none
  store : Option (Nat × Nat) := none
  deriving DecidableEq, Repr

/-- A RAW or FILL piece (R177). -/
def encodePlain (x : List Byte) (poison : Nat) (seals : List Word) : Encoded :=
  match fillWord x with
  | some w => ⟨pieceBytes ⟨2, 0, 0, 0, 0, x.length, 0, 0, w, poison⟩ [] [] seals, 2, none, none⟩
  | none => ⟨pieceBytes ⟨0, 0, 0, 0, 0, x.length, 0, x.length, 0, poison⟩ [] x seals, 0, none, none⟩

/-- Encodes one piece (R177, R185, R188): `x` the decoded bytes that the forms RAW and FILL carry, `sym` the
symbol string of the transform. DESIGN CHOICE (log 140): the coded sizes that R188 compares are those of the padded bodies, as R177
takes them, and not BODY_SIZE. -/
def encodePiece (xf : Nat) (x sym : List Byte) (poison : Nat) (seals : List Word) (ch : TableChoice) : Encoded :=
  let plain := encodePlain x poison seals
  if plain.form = 2 then plain else
  let lens := buildLens sym
  let body := (codedBody lens sym).getD []
  let newSize := pad16 body.length + 128
  let old := match ch.last with
    | some (sl, g, l) => (codedBody l sym).map (fun b => (sl, g, b))
    | none => none
  let useOld := match old with
    | some (_, _, b) => decide (pad16 b.length ≤ newSize)
    | none => false
  match useOld, old with
  | true, some (sl, g, b) =>
    if pad16 b.length < x.length then
      ⟨pieceBytes ⟨1, xf, 1, sl, g, x.length, sym.length, b.length, 0, poison⟩ [] b seals, 1, none, some (sl, g)⟩
    else plain
  | _, _ =>
    if newSize < x.length then
      match ch.store with
      | some (sl, g) =>
        ⟨pieceBytes ⟨1, xf, 2, sl, g, x.length, sym.length, body.length, 0, poison⟩ (lensTable lens) body seals, 1,
          some (sl, g, lens), some (sl, g)⟩
      | none =>
        ⟨pieceBytes ⟨1, xf, 0, 0, 0, x.length, sym.length, body.length, 0, poison⟩ (lensTable lens) body seals, 1, none, none⟩
    else plain

/-- A piece as the storage codec packs it (R202): FILL, RAW, or the smallest of COPY, PLANE16 and PLANE32. -/
def storagePiece (coded : Bool) (x : List Byte) (poison : Nat) (seals : List Word) : Encoded :=
  let plain := encodePlain x poison seals
  if plain.form = 2 || !coded then plain else
  [0, 1, 2].foldl (fun (best : Encoded) xf =>
    let e := encodePiece xf x (forward xf (fun _ _ => .rne) x x).1 poison seals {}
    if e.bytes.length < best.bytes.length then e else best) plain

/-- What R189 makes of a piece. -/
structure Decoded where
  bytes  : List Byte
  poison : Nat
  seals  : List Word
  /-- row 1 of R189: the cause, or rows 3 to 5: the causes as a mask -/
  bad    : Option Nat := none
  size   : Nat := 0
  symbols : Nat := 0
  decl   : Nat := 0
  form   : Nat := 0
  packed : Nat
  store  : Option (Nat × Nat × List Nat) := none
  deriving DecidableEq, Repr

/-- The seals of bytes, granule by granule. -/
def sealsOf (bs : List Byte) : List Word := (chunk 256 bs).map crc32c

/-- A position written as zeros (R189, R191). -/
def zeroPiece (p : Nat) (cause packed : Nat) : Decoded :=
  let z := List.replicate p 0
  { bytes := z, poison := 2 ^ (p / 64) - 1, seals := sealsOf z, bad := some cause, packed := packed }

/-- What a decoder knows: whether it is a storage codec, its transform for a link channel, and its slots. -/
structure DecodeCtx where
  storage : Bool
  xform   : Nat
  slots   : AMap (Nat × List Nat) := []
  deriving DecidableEq, Repr

/-- The causes of row 1 of R189 for a header: 0 reserved encoding or slot, 1 empty slot or other generation,
2 transform not the channel's. -/
def headerCause (c : DecodeCtx) (h : PieceHdr) : Option Nat :=
  if 2 < h.form then some 0
  else if h.form ≠ 1 then none
  else if 9 < h.xform ∨ 2 < h.table ∨ (c.storage ∧ 2 < h.xform) then some 0
  else if h.table ≠ 0 ∧ (7 < h.slot ∨ h.gen = 0) then some 0
  else if c.storage ∧ h.table ≠ 0 then some 0
  else if h.table = 1 ∧ (match mget? c.slots h.slot with | some x => x.1 != h.gen | none => true) = true then some 1
  else if ¬c.storage ∧ h.xform ≠ c.xform then some 2
  else none

/-- Decodes the piece that starts a buffer, for a position of `p` bytes with reference `rs`; the caller has found
that the piece fits (R189 rows 1 and 3 to 6). -/
def decodePiece (c : DecodeCtx) (buf : List Byte) (p : Nat) (rs : List Byte) : Decoded :=
  let h := parseHdr buf
  match headerCause c h with
  | some cause => zeroPiece p cause h.packed
  | none =>
    let inl := h.inline_
    let lens := if h.form ≠ 1 then [] else if inl then tableLens (buf.drop 32)
      else match mget? c.slots h.slot with | some x => x.2 | none => []
    let body := fitBytes (buf.drop (32 + if inl then 128 else 0)) h.bodyLen
    let sealAt := h.packed - pad16 (4 * (h.decl / 256))
    let carried := (elems 4 (fitBytes (buf.drop sealAt) (4 * (h.decl / 256)))).map (BitVec.ofNat 32)
    let sym := if h.form = 1 then decodeBody (codewords lens) body h.symbols else []
    let exp := expectLen h.xform h.decl sym
    let cut := fitBytes sym exp
    let out := match h.form with
      | 0 => body
      | 2 => (List.range h.decl).map (fun i => BitVec.ofNat 8 (h.fill / 256 ^ (i % 4)))
      | _ => fitBytes (inverse h.xform h.decl cut rs) h.decl
    let short := h.form = 1 ∧ (sym.length < h.symbols ∨ sym.length < exp)
    let long := h.form = 1 ∧ ¬short ∧ exp < sym.length
    let decl := h.decl ≠ p
    let mask := (if short then 1 else 0) + (if long then 2 else 0) + (if decl then 4 else 0)
    let bytes := fitBytes out p
    let all := 2 ^ (p / 64) - 1
    let own := sealsOf bytes
    let seals := (List.range (p / 256)).map (fun g =>
      if short ∨ h.decl / 256 ≤ g ∨ out.length < 256 * (g + 1) then own.getD g 0 else carried.getD g 0)
    let poison := if decl then all else if short ∨ long then 2 ^ (ceilDiv (min h.decl p) 64) - 1 else h.poison % 2 ^ (p / 64)
    { bytes := bytes, poison := poison, seals := seals, size := mask, symbols := sym.length, decl := h.decl, form := h.form,
      packed := h.packed,
      store := if h.form = 1 ∧ h.table = 2 then some (h.slot, h.gen, lens) else none }

/-- The units of 4 KiB that a page record takes (R201). -/
def recordUnits (packed : List Nat) : Nat := ceilDiv (64 + packed.sum) 4096

end Sys2Proof.Machine
end

