-- ==== Sys2Proof/Machine/Access.lean ====
section
/-! DEFINITION. Reading and changing the parts of the state by name: ports, contexts, objects, contents, pages and
frames; and the look-up of a device address (R142 to R149, R206, R212, R223). -/

namespace Sys2Proof.Machine

/-- A port's state. -/
def State.port (s : State) (p : Port) : PortState := mget {} s.ports p.val

/-- Changes a port's state. -/
def State.modPort (s : State) (p : Port) (f : PortState → PortState) : State :=
  { s with ports := mmod {} s.ports p.val f }

/-- A context's state. -/
def State.ctx (s : State) (c : Ctx) : CtxState := mget {} s.ctxs c.val

/-- Changes a context's state. -/
def State.modCtx (s : State) (c : Ctx) (f : CtxState → CtxState) : State :=
  { s with ctxs := mmod {} s.ctxs c.val f }

/-- The port to whose VF a context is bound (R335). -/
def ctxPort (c : Ctx) : Port := ⟨c.val / 64, by omega⟩

/-- A number as a context. -/
def toCtx (n : Nat) : Ctx := Fin.ofNat 512 n

/-- A context is enabled: its port's VF Enable is 1 and its VF is below NumVFs (R335). -/
def ctxEnabled (s : State) (c : Ctx) : Bool :=
  let p := s.port (ctxPort c)
  p.vfEnable && decide (c.val % 64 < p.numVfs)

/-- The eight ports. -/
def allPorts : List Port := List.finRange 8

/-- The contexts that are enabled, ascending. -/
def enabledCtxs (s : State) : List Ctx :=
  allPorts.flatMap (fun p =>
    let ps := s.port p
    if ps.vfEnable then (List.range (min ps.numVfs 64)).map (fun i => toCtx (p.val * 64 + i)) else [])

/-- A core's state. -/
def State.core (s : State) (k : Nat) : CoreState := mget {} s.cores k

/-- Changes a core's state. -/
def State.modCore (s : State) (k : Nat) (f : CoreState → CoreState) : State :=
  { s with cores := mmod {} s.cores k f }

/-- A bay's state. -/
def State.bay (s : State) (b : Nat) : BayState := mget {} s.bays b

/-- Changes a bay's state. -/
def State.modBay (s : State) (b : Nat) (f : BayState → BayState) : State :=
  { s with bays := mmod {} s.bays b f }

/-- Changes the fabric-time state. -/
def State.modFt (s : State) (f : FtState → FtState) : State := { s with ft := f s.ft }

/-- Changes the power state. -/
def State.modPw (s : State) (f : PwState → PwState) : State := { s with pw := f s.pw }

/-- Changes the recovery state. -/
def State.modRv (s : State) (f : RvState → RvState) : State := { s with rv := f s.rv }

/-- Sends something from the module. -/
def State.emit (s : State) (o : Output) : State := { s with out := s.out ++ [o] }

/-- Takes a number for a free value. -/
def State.tick (s : State) : State := { s with free := s.free + 1 }

/-- FT_FRAME (R36). -/
def frameNo (s : State) : Nat := s.ft.time.toNat / 1024

/-- A domain is usable (R457). -/
def domOn (s : State) (d : Nat) : Bool := mget .off s.pw.doms d == .on

/-- The object of a number. -/
def objAt (s : State) (o : Nat) : Option Obj := mget? s.objects o

/-- Changes an object, if it exists. -/
def State.modObj (s : State) (o : Nat) (f : Obj → Obj) : State :=
  match mget? s.objects o with
  | some x => { s with objects := mput s.objects o (f x) }
  | none => s

/-- The object whose pages hold a device address (R143). -/
def objOf (s : State) (dev : Nat) : Option (Nat × Obj) :=
  s.objects.find? (fun x => decide (x.2.base ≤ dev) && decide (dev < x.2.base + x.2.pages * 65536))

/-- The view whose run holds a device address (R223). -/
def viewOf (s : State) (dev : Nat) : Option (Nat × View) :=
  s.views.find? (fun x =>
    let n := match objAt s x.2.obj with | some o => o.pages | none => 0
    !x.2.hidden && decide (x.2.base ≤ dev) && decide (dev < x.2.base + n * 65536))

/-- The key of a page of a content. -/
def pageKey (content ix : Nat) : Nat := content * 0x80000000 + ix

/-- The content a page of a content belongs to: its own if private, else its base's (R224). -/
def ownerOf (s : State) : Nat → Nat → Nat → Nat
  | 0, c, _ => c
  | n + 1, c, ix =>
    match mget? s.contents c with
    | some x =>
      if x.own.contains ix then c else
      match x.base with
      | some b => ownerOf s n b ix
      | none => c
    | none => c

/-- The key of the page that a content's page is (R224, R229). -/
def pidOf (s : State) (content ix : Nat) : Nat := pageKey (ownerOf s (s.contents.length + 1) content ix) ix

/-- The page of a key; a page without an entry is ABSENT with no frame and no home. -/
def pageAt (s : State) (pid : Nat) : Page := mget {} s.pages pid

/-- Changes a page. -/
def State.modPage (s : State) (pid : Nat) (f : Page → Page) : State :=
  { s with pages := mmod {} s.pages pid f }

/-- The page index of a page key. -/
def pidIx (pid : Nat) : Nat := pid % 0x80000000

/-- The content of a page key. -/
def pidContent (pid : Nat) : Nat := pid / 0x80000000

/-- The object of a page key, if its content is known. -/
def pidObj (s : State) (pid : Nat) : Option (Nat × Obj) :=
  match mget? s.contents (pidContent pid) with
  | some c => (objAt s c.obj).map (fun o => (c.obj, o))
  | none => none

/-- The address order of an object: that of the unit that holds its base (R240). -/
def orderOf (s : State) (o : Obj) : Nat := (mget (0, true) s.orders (o.base / 0x10000000)).1.toNat

/-- The KEEP bit of an object's order unit (R240, R245). -/
def keepOf (s : State) (o : Obj) : Bool := (mget (0, true) s.orders (o.base / 0x10000000)).2

/-- What a device address names: an object's page or a view's page. -/
structure Target where
  obj     : Nat
  o       : Obj
  content : Nat
  ix      : Nat
  pid     : Nat
  order   : Nat
  /-- stores are discarded: a versioned object's range or a handle's view (R221, R223) -/
  ro      : Bool
  /-- a draft's page -/
  draft   : Bool
  deriving DecidableEq, Repr

/-- The page that a store to a target goes to: a draft's own, once the draft has made its copy (R224). -/
def Target.storePid (t : Target) : Nat := if t.draft then pageKey t.content t.ix else t.pid

/-- Looks up a device address in the objects and the views (R143, R221, R223). -/
def targetOf (s : State) (dev : Nat) : Option Target :=
  match objOf s dev with
  | some (n, o) =>
    let ix := (dev - o.base) / 65536
    some { obj := n, o := o, content := o.head, ix := ix, pid := pidOf s o.head ix, order := orderOf s o,
           ro := o.versioned, draft := false }
  | none =>
    match viewOf s dev with
    | some (_, v) =>
      match objAt s v.obj with
      | some o =>
        let ix := (dev - v.base) / 65536
        some { obj := v.obj, o := o, content := v.content, ix := ix, pid := pidOf s v.content ix,
               order := orderOf s o, ro := !v.draft, draft := v.draft }
      | none => none
    | none => none

/-- The physical cluster of a frame. -/
def frameCluster (fr : Nat) : Nat := fr / 8192 / 128

/-- The copy that a load reads: the lowest-numbered physical cluster (R150). -/
def loadFrame (p : Page) : Option Nat :=
  match p.frames with
  | [] => none
  | f :: fs => some (fs.foldl (fun a b => if frameCluster b < frameCluster a then b else a) f)

/-- Frames of a sliver that are not zeroed free. -/
def sliverUsed (s : State) (sl : Nat) : Nat := (s.frames.filter (fun x => x.1 / 8192 == sl)).length

/-- Zeroed free frames of a sliver, reserve included (R151, R152). -/
def sliverFree (s : State) (sl : Nat) : Nat := 8192 - sliverUsed s sl

/-- The absorption reserve (R152). -/
def reserveOf (s : State) : Nat := s.fieldEff 0x30000 8 8

/-- The lowest-numbered zeroed free frame of a sliver, if any. -/
def firstFree (s : State) (sl : Nat) : Option Nat :=
  ((List.range 8192).find? (fun r => !mhas s.frames (sl * 8192 + r))).map (fun r => sl * 8192 + r)

/-- The grant of an extent to a context that holds it in a state that decodes (R340, R206). -/
def grantLive (s : State) (c : Ctx) (dev : Nat) : Bool :=
  s.extents.any (fun x => decide (x.2.base * 0x10000000 ≤ dev)
    && decide (dev < (x.2.base + x.2.len) * 0x10000000)
    && x.2.grants.any (fun g => g.ctx == c && g.live))

/-- A run of device addresses lies in extents of which a context holds an ACTIVE grant (R169, R143). -/
def grantedRun (s : State) (c : Ctx) (base n : Nat) : Bool :=
  let units := (List.range (ceilDiv (base % 0x10000000 + n) 0x10000000)).map (fun i => base / 0x10000000 + i)
  units.all (fun u => s.extents.any (fun x => decide (x.2.base ≤ u) && decide (u < x.2.base + x.2.len)
    && x.2.grants.any (fun g => g.ctx == c && g.st == .active)))

/-- An object has a page in an extent that the context's grant is releasing (R207 step 1). -/
def leavingObj (s : State) (c : Ctx) (o : Obj) : Bool :=
  s.extents.any (fun x => x.2.grants.any (fun g => g.ctx == c && g.st == .releasing)
    && runsMeet o.base (o.pages * 65536) (x.2.base * 0x10000000) (x.2.len * 0x10000000))

/-- A command of a context names an object that is being released from it (R207 step 1). -/
def leaving (s : State) (c : Option Ctx) (n : Nat) : Bool :=
  match c, objAt s n with
  | some c, some o => leavingObj s c o
  | _, _ => false

/-- A context reaches an object (R169). -/
def reaches (s : State) (c : Ctx) (o : Obj) : Bool := grantedRun s c o.base (o.pages * 65536)

/-- The window that covers a device address and has taken effect (R212). -/
def windowOf (s : State) (dev : Nat) : Option (Nat × Window) :=
  s.windows.find? (fun w => w.2.live && (match objAt s w.2.obj with
    | some o => decide (o.base ≤ dev) && decide (dev < o.base + o.pages * 65536)
    | none => false))

/-- A change of timing set is in progress: frames F to F + 19 (R64). -/
def inSetChange (s : State) : Bool :=
  match s.pw.job with
  | some j => j.setChange && j.begun.isSome
  | none => false

/-- A stack is not in self-refresh and its interface is on (R251, R357). -/
def stackAwake (s : State) (st : Nat) : Bool := !(s.stackOf st).selfRef && domOn s (40 + st)

/-- A stack has slots: it is awake, and no change of timing set is in progress (R64, R65, R422). -/
def stackReady (s : State) (st : Nat) : Bool := !inSetChange s && stackAwake s st

/-- The state of the anchoring machine accepts cues (R34). -/
def cuesAccepted (s : State) : Bool :=
  s.ft.anchor == .anchored || s.ft.anchor == .holdover || s.ft.anchor == .reacquiring

/-- The timing set of a mode (R459). -/
def modeSet (m : Nat) : Nat := [0, 0, 1, 0, 2, 2].getD m 0

/-- FT_STATUS.TIMING_SET: until boundary F + 20 of a change it is that of the old mode (R64). -/
def tsetNow (s : State) : Nat :=
  match s.pw.job with
  | some j => if j.setChange && j.begun.isSome then modeSet j.old else modeSet s.pw.mode
  | none => modeSet s.pw.mode

/-- A mode has a cluster half on (R459). -/
def modeHalf (m d : Nat) : Bool := decide (m < 4) || (m == 4 && d % 2 == 0)

/-- Slots per frame N (R38). -/
def slotsN (t : Nat) : Nat := [192, 153, 102].getD t 192

/-- Basted slots B (R39). -/
def bastedB (t : Nat) : Nat := [24, 20, 14].getD t 24

/-- The status codes of R403 that the ring and steward commands share. -/
def stOK : Nat := 0
def stReserved : Nat := 0x10
def stDenied : Nat := 0x11
def stRange : Nat := 0x12
def stBusy : Nat := 0x13
def stNoContext : Nat := 0x14
def stLeaseExpired : Nat := 0x15
def stQuarantined : Nat := 0x16
def stOutOfService : Nat := 0x17
def stPowerOff : Nat := 0x18
def stUnanchored : Nat := 0x19
def stUnpicked : Nat := 0x1A
def stLength : Nat := 0x1B
def stNoObject : Nat := 0x50
def stNotOwner : Nat := 0x51

end Sys2Proof.Machine
end

