-- ==== Sys2Proof/Machine/Events.lean ====
section
/-! DEFINITION. Interrupts, event-ring entries, CXL event logs and the raising of an event (R334, R353, R386,
R393, R395, R400, R401). -/

namespace Sys2Proof.Machine

/-- Sends or holds one MSI-X message (R334, R348, R395): masked, or with Bus Master Enable clear, it stays
pending. -/
def sendMsix (s : State) (f : Fn) (v : Nat) : State :=
  match f with
  | .pf p =>
    let ps := s.port p
    if bit ps.msixMask.toNat v || !ps.bme then
      s.modPort p (fun x => { x with msixPend := x.msixPend ||| BitVec.ofNat 8 (2 ^ v) })
    else s.emit (.msix f v)
  | .vf c =>
    let cs := s.ctx c
    if bit cs.msixMask.toNat v || !cs.bme then
      s.modCtx c (fun x => { x with msixPend := x.msixPend ||| BitVec.ofNat 4 (2 ^ v) })
    else s.emit (.msix f v)

/-- Answers an MCI command on its path with a return code and its output; a mailbox whose Doorbell Interrupt is enabled sends its
vector (R334, R382). -/
def State.reply (s : State) (via : Path) (rc : BitVec 16) (out : List Byte) : State :=
  let s := s.emit (.mailbox via rc out)
  match via with
  | .mailbox p b => if (if b then (s.port p).mbox1 else (s.port p).mbox0).dbInt then sendMsix s (.pf p) (b2n b) else s
  | _ => s

/-- The INT_STATUS bits of a block that are set with their enables (R334). -/
def intPending (s : State) (b : Nat) : Nat :=
  (BitVec.ofNat 64 (s.reg (intStatusOff b)) &&& BitVec.ofNat 64 (s.reg (intEnableOff b))).toNat

/-- PT_MGMT_SUMMARY.BLOCKS (R334). -/
def mgmtSummary (s : State) : Nat :=
  (List.range 14).foldl (fun v b => v + (if intPending s b != 0 then 2 ^ b else 0)) 0

/-- The message of the management interrupt (R334): vector 3 of the owner port's PF; a message still being the
last thing sent stands for bits set in one cycle. -/
def sendMgmt (s : State) : State :=
  match s.owner with
  | some p => if s.out.getLast? == some (.msix (.pf p) 3) then s else sendMsix s (.pf p) 3
  | none => s

/-- The sideband alert on each enabled port whose ALERT bit is 1 (R386). -/
def sendAlerts (s : State) : State :=
  [0, 1].foldl (fun (s : State) (n : Fin 2) =>
    if s.fieldOf 0xA0000 n.val 1 == 1 && s.fieldOf 0xA0000 (2 + n.val) 1 == 1 then s.emit (.alert n) else s) s

/-- Sets a bit of a block's INT_STATUS, and raises the management interrupt when an enabled bit becomes set
(R334). -/
def setInt (s : State) (b i : Nat) : State :=
  let old := s.reg (intStatusOff b)
  if bit old i then s else
  let was := mgmtSummary s
  let s := { s with regs := mput s.regs (intStatusOff b) (BitVec.ofNat 64 (old + 2 ^ i)) }
  if bit (s.reg (intEnableOff b)) i then
    let s := sendMgmt s
    if was == 0 then sendAlerts s else s
  else s

/-- Entries of a ring of an order. -/
def ringSize (order : BitVec 4) : Nat := 2 ^ order.toNat

/-- Entries of the event ring that hold something. -/
def erUsed (r : Ring) : Nat :=
  (r.erTail.toNat + ringSize r.erOrder - r.erHead.toNat % ringSize r.erOrder) % ringSize r.erOrder

/-- Free entries of the event ring that no command taken has reserved (R392, R393). -/
def erFree (r : Ring) : Nat := ringSize r.erOrder - 1 - erUsed r - r.flights.length

/-- The 64 bytes of an event-ring entry (R400). -/
def entryBytes (phase : Bool) (kind code : Nat) (ctx : Nat) (status : Nat) (time : DWord) (words : List Word) :
    List Byte :=
  leBytes 1 (b2n phase) ++ leBytes 1 kind ++ leBytes 2 code ++ leBytes 2 ctx ++ leBytes 2 status
    ++ leBytes 8 time.toNat ++ (List.range 12).flatMap (fun i => leBytes 4 (words.getD i 0).toNat)

/-- Writes one whole line of a context's own device memory, as the ring walkers do (R389, R393). -/
def putOwnLine (s : State) (dev : Nat) (bs : List Byte) : State :=
  match targetOf s dev with
  | some t =>
    (pageAt s t.pid).frames.foldl (fun s fr =>
      s.putLine (locOf t.order fr (dev % 65536)) ((fr * 65536 + dev % 65536) / 64) bs false false) s
  | none => s

/-- COUNT entries have been written since the last write of MB_ER_PTR.HEAD, and vector 0 is enabled (R395). -/
def entriesDue (r : Ring) : Bool := r.intEn && decide (r.intCount.toNat ≤ r.written)

/-- Writes an entry at TAIL and advances it; PHASE flips at the wrap; vector 0 fires when COUNT entries have been
written (R393, R395). -/
def ringEntry (s : State) (c : Ctx) (kind code status : Nat) (words : List Word) : State :=
  let r := (s.ctx c).ring
  let s := putOwnLine s (r.erBase.toNat + r.erTail.toNat * 64)
    (entryBytes r.phase kind code c.val status s.ft.time words)
  let t := (r.erTail.toNat + 1) % ringSize r.erOrder
  let s := s.modCtx c (fun x => { x with ring := { x.ring with
    erTail := BitVec.ofNat 12 t, phase := if t = 0 then !x.ring.phase else x.ring.phase,
    written := x.ring.written + 1 } })
  if r.intEn && r.written + 1 == r.intCount.toNat then sendMsix s (.vf c) 0 else s

/-- The overflow entry, when space allows (R393). -/
def flushOverflow (s : State) (c : Ctx) : State :=
  let r := (s.ctx c).ring
  if r.enabled && !r.draining && r.sinceOvf != 0 && decide (2 ≤ erFree r) then
    let s := s.modCtx c (fun x => { x with ring := { x.ring with sinceOvf := 0 } })
    ringEntry s c 3 0 0 [r.sinceOvf]
  else s

/-- A 32-bit counter that stays at its largest value. -/
def satWord (w : Word) : Word := if w = 0xFFFFFFFF then w else w + 1

/-- Posts an event on a context's event ring (R393). -/
def postEvent (s : State) (code : Nat) (words : List Word) (c : Ctx) : State :=
  let r := (s.ctx c).ring
  if !r.enabled || r.draining then s else
  let s := flushOverflow s c
  let r := (s.ctx c).ring
  if 2 ≤ erFree r then ringEntry s c 2 code 0 words
  else
    let s := s.modCtx c (fun x => { x with ring := { x.ring with
      dropped := satWord x.ring.dropped, sinceOvf := satWord x.ring.sinceOvf } })
    setInt s 10 1

/-- The index of a log in the Event Interrupt Policy. -/
def logIx : LogKind → Nat
  | .informational => 0 | .warning => 1 | .failure => 2 | .fatal => 3 | .dynamicCapacity => 4

/-- Adds a record to a log of a PF: 256 records, and later ones are counted as overflow; vector 2 follows the Event
Interrupt Policy (R334, R353). -/
def logRecord (s : State) (p : Port) (k : LogKind) (kind : RecordKind) (code : Nat) (ctx : BitVec 16)
    (words : List Word) : State :=
  let ls := (s.port p).logs
  if 256 ≤ (ls.records.filter (fun r => r.1 == k)).length then
    let o := mmod (0, s.ft.time, s.ft.time) ls.overflow (logIx k) (fun (o : Nat × DWord × DWord) => (o.1 + 1, o.2.1, s.ft.time))
    s.modPort p (fun x => { x with logs := { x.logs with overflow := o } })
  else
    let rec_ : LogRecord := ⟨ls.nextHandle, kind, s.ft.time, BitVec.ofNat 16 code, ctx, words⟩
    let s := s.modPort p (fun x => { x with logs := { x.logs with
      records := x.logs.records ++ [(k, rec_)],
      nextHandle := if ls.nextHandle = 65535 then 1 else ls.nextHandle + 1 } })
    if bits (((s.port p).policy.getD (logIx k) 0).toNat) 0 2 == 1 then sendMsix s (.pf p) 2 else s

/-- Logs an event in the logs of every PF (R353). -/
def logAll (s : State) (k : LogKind) (kind : RecordKind) (code : Nat) (ctx : BitVec 16) (words : List Word) :
    State :=
  allPorts.foldl (fun s p => logRecord s p k kind code ctx words) s

/-- What an event is: block and row (R401), the log that takes it, and its bit of INT_STATUS. -/
structure EvDef where
  block : Nat
  row   : Nat
  log   : Option LogKind
  bit   : Option Nat
  deriving DecidableEq, Repr

/-- The code of an event (R401). -/
def EvDef.code (e : EvDef) : Nat := e.block * 256 + e.row

/-- The CONTEXT field of a record (R400). -/
def ctxField (c : Option Ctx) : BitVec 16 := match c with | some c => BitVec.ofNat 16 c.val | none => 0xFFFF

/-- Raises an event: its INT_STATUS bit, its logs, and its entries on the rings of contexts. -/
def raise (s : State) (e : EvDef) (ctxs : List Ctx) (words : List Word) : State :=
  let s := match e.bit with | some i => setInt s e.block i | none => s
  let s := match e.log with
    | some k => logAll s k .vendor e.code (ctxField ctxs.head?) words
    | none => s
  ctxs.foldl (fun s c => postEvent s e.code words c) s

/-- Raises an event of the whole module: its records name no context, and every enabled context's ring takes it. -/
def raiseAll (s : State) (e : EvDef) (words : List Word) : State :=
  let ctxs := enabledCtxs s
  let s := match e.bit with | some i => setInt s e.block i | none => s
  let s := match e.log with
    | some k => logAll s k .vendor e.code 0xFFFF words
    | none => s
  ctxs.foldl (fun s c => postEvent s e.code words c) s

def evDecodeMiss : EvDef := ⟨0, 0, none, some 2⟩
def evSourceUnmapped : EvDef := ⟨0, 1, some .warning, some 3⟩
def evPortDown : EvDef := ⟨0, 2, some .warning, some 0⟩
def evPortUp : EvDef := ⟨0, 3, some .informational, some 1⟩
def evRevasFallback : EvDef := ⟨0, 4, some .warning, some 4⟩
def evFuncReset : EvDef := ⟨0, 5, some .informational, some 5⟩
def evTimeAnchored : EvDef := ⟨1, 0, some .informational, some 1⟩
def evTimeUnanchored : EvDef := ⟨1, 1, some .warning, some 0⟩
def evTimeExpired : EvDef := ⟨1, 2, some .warning, some 2⟩
def evTimeStep : EvDef := ⟨1, 3, some .warning, some 3⟩
def evNotchMissed : EvDef := ⟨1, 4, none, some 6⟩
def evLateFetch : EvDef := ⟨1, 5, none, some 5⟩
def evStallPoison : EvDef := ⟨1, 6, none, some 7⟩
def evTierMiss : EvDef := ⟨2, 0, none, some 0⟩
def evStoreDropped : EvDef := ⟨2, 1, none, some 1⟩
def evPageLost : EvDef := ⟨2, 2, none, some 2⟩
def evFrameShort : EvDef := ⟨2, 3, none, some 3⟩
def evPromoteLate : EvDef := ⟨2, 4, none, some 4⟩
def evFlashLow : EvDef := ⟨2, 5, some .warning, some 5⟩
def evFlashFull : EvDef := ⟨2, 6, some .warning, some 6⟩
def evSizeMismatch : EvDef := ⟨3, 0, none, some 0⟩
def evPieceUnusable : EvDef := ⟨3, 1, none, some 1⟩
def evPublishConflict : EvDef := ⟨4, 0, none, some 0⟩
def evLeaseExpired : EvDef := ⟨4, 1, some .failure, some 1⟩
def evWaitBroken : EvDef := ⟨4, 2, some .failure, some 2⟩
def evRefreshMode : EvDef := ⟨5, 0, some .informational, some 0⟩
def evCalMargin : EvDef := ⟨5, 1, some .warning, some 1⟩
def evSpareStart : EvDef := ⟨5, 2, some .warning, some 2⟩
def evSpared : EvDef := ⟨5, 3, some .informational, some 3⟩
def evNoSpare : EvDef := ⟨5, 4, some .failure, some 4⟩
def evSealFail : EvDef := ⟨6, 0, some .failure, some 0⟩
def evMemUncorr : EvDef := ⟨6, 1, some .failure, some 1⟩
def evBucketOverflow : EvDef := ⟨6, 2, some .warning, some 2⟩
def evFuseSpared : EvDef := ⟨6, 3, some .informational, some 3⟩
def evFuseNone : EvDef := ⟨6, 4, some .failure, some 4⟩
def evCartAdmitted : EvDef := ⟨7, 0, some .informational, some 0⟩
def evCartRefused : EvDef := ⟨7, 1, some .informational, some 1⟩
def evCartFailed : EvDef := ⟨7, 2, some .failure, some 2⟩
def evCartWear : EvDef := ⟨7, 3, some .warning, some 3⟩
def evCartEol : EvDef := ⟨7, 4, some .warning, some 4⟩
def evRebuildStart : EvDef := ⟨7, 5, some .informational, some 5⟩
def evRebuildDone : EvDef := ⟨7, 6, some .informational, some 6⟩
def evArrayBroken : EvDef := ⟨7, 7, some .failure, some 7⟩
def evRoleStale : EvDef := ⟨8, 0, none, some 0⟩
def evGuaranteeShrunk : EvDef := ⟨9, 0, some .informational, some 0⟩
def evGuaranteeRestored : EvDef := ⟨9, 1, some .informational, some 1⟩
def evHang : EvDef := ⟨11, 0, some .informational, some 0⟩
def evUnpicked : EvDef := ⟨11, 1, none, none⟩
def evVerdict : EvDef := ⟨11, 2, none, none⟩
def evQuarantine : EvDef := ⟨11, 3, some .informational, some 2⟩
def evReset : EvDef := ⟨11, 4, some .informational, some 3⟩
def evOutOfService : EvDef := ⟨11, 5, some .fatal, some 5⟩
def evModeChanged : EvDef := ⟨13, 0, some .informational, some 0⟩
def evThrottle : EvDef := ⟨13, 1, some .informational, some 1⟩
def evInputRange : EvDef := ⟨13, 2, some .informational, some 2⟩
def evThermalShutdown : EvDef := ⟨13, 3, some .informational, some 3⟩
def evStartupDone : EvDef := ⟨13, 4, some .informational, some 4⟩

/-- A value as one payload word. -/
def w1 (n : Nat) : List Word := [BitVec.ofNat 32 n]

/-- A value as one payload word that saturates at its largest value (R400). -/
def wSat (n : Nat) : List Word := [BitVec.ofNat 32 (min n 0xFFFFFFFF)]

/-- A value as two payload words, low word first (R400). -/
def w2 (n : Nat) : List Word := [BitVec.ofNat 32 n, BitVec.ofNat 32 (n / 0x100000000)]

/-- A signed value as one payload word that saturates at the 32-bit limits (R400). -/
def wInt (n : Int) : List Word := [BitVec.ofInt 32 (max (-2147483648) (min 2147483647 n))]

/-- Adds to an event that is raised once per frame for a kind and a subject: the count, the lowest address and the
payload of that lowest one (R134, R296, R354). -/
def mergeEvent (s : State) (kind subject count addr : Nat) (words : List Word) : State :=
  { s with merged := mmod (0, addr, words) s.merged (kind * 0x100000000 + subject) (fun m =>
      if m.1 = 0 then (count, addr, words)
      else if addr < m.2.1 then (m.1 + count, addr, words) else (m.1 + count, m.2.1, m.2.2)) }

end Sys2Proof.Machine
end

