-- ==== Sys2Proof/Machine/Seals.lean ====
section
/-! DEFINITION. Reads and writes of DRAM as the controller carries them out: the check at exit (R275 to R279),
poison writes (R280 to R283), narrow writes (R270, R273), counted corrections and leaky buckets (R284, R285), and
the spare request (R260, R261). -/

namespace Sys2Proof.Machine

/-- Who reads: the path of R296, the context that the events go to, the requester's two words, whether the read is
one of those that R275 checks, whether it is a host access, a claim or a copy, whose corrected lines are queued for a directed
scrub (R284), and the device address of the granule. -/
structure Reader where
  path : Nat
  ctx  : Option Ctx := none
  req  : List Word := [0, 0]
  checks : Bool := true
  directs : Bool := false
  dev  : Nat := 0
  deriving DecidableEq, Repr

/-- The subject of a merged event: the context, or none (R296). -/
def subjectOf (c : Option Ctx) : Nat := match c with | some c => c.val + 1 | none => 0

/-- A request presented to a channel's arbiter (R356, R357). -/
def presentReq (s : State) (l : Loc) (r : OpenReq) : State :=
  s.modChan l.stack l.chan (fun c =>
    let x : OpenReq := { r with rank := l.rank, bank := l.bank, row := l.row, col := l.line / 4, asOf := c.abs }
    { c with present := c.present ++ [x] })

/-- A block is the last of its 1 KiB row (R245). -/
def lastOfRow (l : Loc) : Bool := l.line / 4 == 3

/-- The traffic of the tiering engine with a whole frame (R357): one request for each block. -/
def pageTraffic (s : State) (order fr : Nat) (write : Bool) : State :=
  let l := locOf order fr 0
  s.modChan l.stack l.chan (fun c => { c with present := c.present ++ (List.range 256).map (fun i =>
    let l := locOf order fr (i * 256)
    ({ rank := l.rank, bank := l.bank, row := l.row, col := l.line / 4, write := write, mask := 15, keep := !lastOfRow l,
       source := .tier, master := 10, asOf := c.abs, block := fr * 65536 + i * 256 } : OpenReq)) })

/-- The traffic of a poison write: master POISON (R357). -/
def poisonTraffic (s : State) (l : Loc) (pa : Nat) : State :=
  presentReq s l { rank := 0, bank := 0, row := 0, col := 0, write := true,
                   mask := BitVec.ofNat 4 (2 ^ (l.line % 4)), keep := false, source := .poison, master := 12,
                   block := pa / 256 * 256, job := 6 }

/-- A poison write of a line whose data stays as stored (R281). -/
def poisonLine (s : State) (l : Loc) (pa : Nat) : State :=
  poisonTraffic ((s.setPoison (pa / 64) true).bump 0x70024 1) l pa

/-- A spare request for a rank (R260, R261), with its cause; the outcome says whether it was taken. -/
def spareRequest (s : State) (st ch rank cause : Nat) : State × Bool :=
  let c := s.chan st ch
  match spareState (chanKey st ch) c with
  | .free =>
    let s := s.modChan st ch (fun c => { c with
      spare := .migrating, spareRank := rank, pointer := 0, copyPoison := 0, spareFrom := s.ft.run })
    let s := { s with recompute := Nat.lor s.recompute 2 }
    (raise s evSpareStart [] (w1 st ++ w1 ch ++ w1 rank ++ w1 cause), true)
  | sp =>
    let n := match sp with | .migrating => 1 | .spared => 2 | .unavailable => 3 | .free => 0
    (raise s evNoSpare [] (w1 st ++ w1 ch ++ w1 rank ++ w1 n), false)

/-- The number of a block of a channel in scrub order: rank, bank, row, column slot (R286). -/
def blockNo (rank bank row col : Nat) : Nat := ((rank * 16 + bank) * 8192 + row) * 4 + col

/-- Queues a directed scrub of a line's block (R284, R288). -/
def queueDirected (s : State) (l : Loc) : State :=
  if s.fieldEff 0x70000 3 1 == 1 then
    let b := blockNo l.rank l.bank l.row (l.line / 4)
    s.modChan l.stack l.chan (fun c =>
      if c.directed.contains b || decide (16 ≤ c.directed.length) then c
      else { c with directed := c.directed ++ [b] })
  else s

/-- Counts a correction in a line's rank (R284, R285). -/
def countCorrection (s : State) (l : Loc) : State :=
  let c := s.chan l.stack l.chan
  let key := cellKey s l
  if c.filter.contains key then s else
  let rank := steerRank c l.rank l.bank l.row
  let s := s.bump 0x70020 1
  let lv := mget 0 c.level rank + 1
  let size := s.fieldEff 0x70008 0 16
  if lv < size then
    s.modChan l.stack l.chan (fun c => { c with filter := (key :: c.filter).take 16, level := mput c.level rank lv })
  else
    let s := s.modChan l.stack l.chan (fun c => { c with
      filter := (key :: c.filter).take 16, level := mput c.level rank 0, overflows := mmod 0 c.overflows rank (fun n => satAdd n 1 255) })
    let auto := s.fieldEff 0x60000 2 1 == 1
    let s := raise s evBucketOverflow [] (w1 l.stack ++ w1 l.chan ++ w1 rank ++ w1 size ++ w1 (b2n auto))
    if auto then (spareRequest s l.stack l.chan rank 0).1 else s

/-- The findings of one granule's decode: data and poison of each line, and whether a line was uncorrectable. -/
structure Granule where
  lines  : List (List Byte × Bool)
  uncorr : Bool
  deriving DecidableEq, Repr

/-- Reports an uncorrectable line (R277 step 2). -/
def reportUncorr (s : State) (r : Reader) (l : Loc) (pl dev : Nat) : State :=
  let s := s.bump 0x7001C 1
  mergeEvent s 2 (subjectOf r.ctx) 1 dev
    (w1 r.path ++ w2 dev ++ w1 0 ++ w1 l.stack ++ w1 l.chan ++ w1 l.rank ++ w1 l.bank ++ w1 l.row
      ++ w1 (b2n (isLight s (pl / 1024))) ++ w1 (b2n (s.hint.contains pl)))

/-- Reports a seal failure with the lines it poisons (R278, R279). -/
def reportSeal (s : State) (r : Reader) (dev lines : Nat) : State :=
  let s := s.bump 0x70018 1
  let s := mergeEvent s 5 (subjectOf r.ctx) lines 0 []
  mergeEvent s 1 (subjectOf r.ctx) 1 dev (w1 r.path ++ w2 dev ++ w1 0 ++ r.req)

/-- Decodes the four lines of a granule, poisoning and reporting uncorrectable ones and counting corrections
(R277 steps 1, 2 and 5). -/
def decodeGranule (s : State) (r : Reader) (order fr q : Nat) : State × Granule :=
  let q0 := q / 256 * 256
  (List.range 4).foldl (fun (x : State × Granule) i =>
    let s := x.1
    let qi := q0 + 64 * i
    let l := locOf order fr qi
    let pl := (fr * 65536 + qi) / 64
    match lineErr s l pl with
    | some .uncorrectable =>
      let s := reportUncorr s r l pl (r.dev / 256 * 256 + 64 * i)
      let s := s.putLine l pl (List.replicate 64 0) true (s.hint.contains pl)
      let s := s.putSeal (pl / 4) (crc32c (granuleData s (pl / 4)))
      let s := poisonTraffic (s.bump 0x70024 1) l (pl * 64)
      (s, { lines := x.2.lines ++ [(List.replicate 64 0, true)], uncorr := true })
    | some (.corrected _) =>
      let s := countCorrection s l
      let s := if r.directs then queueDirected s l else s
      (s, { x.2 with lines := x.2.lines ++ [(lineData s pl, isPoison s pl)] })
    | none => (s, { x.2 with lines := x.2.lines ++ [(lineData s pl, isPoison s pl)] }))
    (s, { lines := [], uncorr := false })

/-- Whether a granule's check at exit fails: firm, no line uncorrectable, not every line poisoned, and the
CRC-32C differs (R277 steps 3 and 4). -/
def sealFails (s : State) (r : Reader) (fr q : Nat) (g : Granule) : Bool :=
  r.checks && !isLight s fr && !g.uncorr && !(g.lines.all (·.2))
    && crc32c (g.lines.flatMap (·.1)) != sealOf s ((fr * 65536 + q) / 256)

/-- Reads the granule that holds byte `q` of the page in frame `fr`, with the check at exit (R277, R278). -/
def readGranule (s : State) (r : Reader) (order fr q : Nat) : State × List (List Byte × Bool) :=
  let (s, g) := decodeGranule s r order fr q
  if sealFails s r fr q g then
    let q0 := q / 256 * 256
    let s := (List.range 4).foldl (fun s i =>
      poisonLine s (locOf order fr (q0 + 64 * i)) (fr * 65536 + q0 + 64 * i)) s
    (reportSeal s r (r.dev / 256 * 256) 4, g.lines.map (fun x => (x.1, true)))
  else (s, g.lines)

/-- Reads one line (R283). -/
def readLine (s : State) (r : Reader) (order fr q : Nat) : State × List Byte × Bool :=
  let (s, ls) := readGranule s r order fr q
  let x := ls.getD (bits q 6 2) (List.replicate 64 0, true)
  (s, x.1, x.2)

/-- Writes a whole granule with the poison of its lines and its seal (R270, R274). -/
def putGranule (s : State) (order fr q : Nat) (bs : List Byte) (ps : List Bool) (sv : Word) (hint : Bool) : State :=
  let q0 := q / 256 * 256
  let s := (List.range 4).foldl (fun s i =>
    s.putLine (locOf order fr (q0 + 64 * i)) ((fr * 65536 + q0 + 64 * i) / 64) ((bs.drop (64 * i)).take 64)
      (ps.getD i false) hint) s
  if isLight s fr then s else s.putSeal ((fr * 65536 + q0) / 256) sv

/-- All 64 bytes of a line are enabled. -/
def fullMask : Nat := 0xFFFFFFFFFFFFFFFF

/-- The 16-byte granules of a line that a write touches (R270). -/
def touchedParts (be : Nat) : List Nat := (List.range 4).filter (fun j => bits be (16 * j) 16 != 0)

/-- The 16-byte granules of a line that a write covers in part (R270). -/
def partParts (be : Nat) : List Nat := (touchedParts be).filter (fun j => bits be (16 * j) 16 != 0xFFFF)

/-- A write takes a read first and two open slots (R270): to a firm frame all but that of a whole granule, to a light frame one that
covers part of a 16-byte granule. -/
def isNarrow (s : State) (fr be : Nat) : Bool := !isLight s fr || !(partParts be).isEmpty

/-- What the read of a narrow write to a light frame finds (R270): in the tag and in the granules that the write covers in part. -/
def partErr (s : State) (l : Loc) (pl be : Nat) : Option LineErr :=
  if (partParts be).isEmpty then none
  else if s.badCode.contains pl then some .uncorrectable
  else lightErr (cellBits s l) (partParts be ++ [4])

/-- A write to a line of a light frame (R270): 16-byte granules that it covers in part are read; a line found
uncorrectable there becomes zeros carrying poison first (R277, R279). The granules that it touches are written with the tag, and the
others stay as stored. -/
def writeLight (s : State) (r : Reader) (order fr q : Nat) (bs : List Byte) (be : Nat) (poison hint : Bool) : State :=
  let q0 := q / 64 * 64
  let l := locOf order fr q0
  let pl := (fr * 65536 + q0) / 64
  if be = fullMask then s.putLine l pl bs poison hint else
  match partErr s l pl be with
  | some .uncorrectable =>
    let s := reportUncorr s { r with path := 5 } l pl (r.dev / 64 * 64)
    let s := poisonTraffic (s.bump 0x70024 1) l (pl * 64)
    s.putLine l pl (maskedBytes be bs) true hint
  | e =>
    let s := match e with
      | some (.corrected _) => let s := countCorrection s l; if r.directs then queueDirected s l else s
      | _ => s
    State.writeCells { s with
             dram := cwrites s.dram (pl * 64) (mergeBytes be (lineData s pl) bs)
             poison := setTag s.poison pl (isPoison s pl || poison)
             hint := setTag s.hint pl hint
             badCode := s.badCode.erase pl } l (fun b => match lightPart b with
      | some j => j == 4 || (touchedParts be).contains j
      | none => true)

/-- A narrow write to a line of a firm frame (R270, R273, R279). -/
def writeFirm (s : State) (r : Reader) (order fr q : Nat) (bs : List Byte) (be : Nat) (poison hint : Bool) : State :=
  let q0 := q / 64 * 64
  let l := locOf order fr q0
  let pl := (fr * 65536 + q0) / 64
  let g := pl / 4
  let i := pl % 4
  let r := { r with path := 5, checks := true }
  let (s, gr) := decodeGranule s r order fr q0
  let old := (gr.lines.getD i ([], true))
  let new := mergeBytes be old.1 bs
  let p := if be = fullMask then poison else old.2 || poison
  if sealFails s r fr q0 gr then
    let s := s.putLine l pl new (if be = fullMask then poison else true) hint
    let s := (List.range 4).foldl (fun s j =>
      if j = i then s else (s.setPoison (g * 4 + j) true).bump 0x70024 1) s
    let s := s.putSeal g (crc32c (granuleData s g))
    reportSeal s r (r.dev / 256 * 256) (if be = fullMask then 3 else 4)
  else
    let sv := sealOf s g ^^^ fragment (64 * i) (maskedBytes be old.1) ^^^ fragment (64 * i) (maskedBytes be bs)
    (s.putLine l pl new p hint).putSeal g sv

/-- A write of the enabled bytes of one line (R270). A write that enables no byte and carries no poison changes
nothing. -/
def writeLine (s : State) (r : Reader) (order fr q : Nat) (bs : List Byte) (be : Nat) (poison hint : Bool) : State :=
  if be = 0 && !poison then s
  else if isLight s fr then writeLight s r order fr q bs be poison hint
  else writeFirm s r order fr q bs be poison hint

/-- Poisons a line where it lies in every copy (R280). -/
def poisonCopies (s : State) (order : Nat) (frames : List Nat) (q : Nat) : State :=
  frames.foldl (fun s fr => poisonLine s (locOf order fr (q / 64 * 64)) (fr * 65536 + q / 64 * 64)) s

end Sys2Proof.Machine
end

