-- ==== Sys2Proof/Machine/Tiering.lean ====
section
/-! DEFINITION. Objects and the tiering engine (chapter 05): flash space and reservations (R153 to R155), frames
(R149 to R152), the page state table (R156), the movers (R160 to R162), precedence (R164) and the acts of R165. -/

namespace Sys2Proof.Machine

/-- Units of 4 KiB of user capacity with eight active cartridges (R153). -/
def unitsCap : Nat := 20507812500

/-- Free units, before reservations. -/
def unitsFree (s : State) : Nat := unitsCap - s.unitsUsed

/-- Units held by writeback reservations (R154). -/
def unitsReserved (s : State) : Nat := (s.pages.map (fun p => p.2.resv)).sum

/-- Free units less all reservations, as R155 reports them. -/
def unitsNet (s : State) : Int := (unitsFree s : Int) - unitsReserved s

/-- The free units, less all reservations, lie below the threshold (R155): TR_STATUS.FLASH_LOW. -/
def flashIsLow (s : State) : Bool := decide (unitsNet s < (s.reg 0x30018 : Int))

/-- The flash-low condition is evaluated again (R155): the event is raised when the value falls below the threshold, and raised
again only after it has first risen above it. -/
def checkFlash (s : State) : State :=
  let low := flashIsLow s
  if low && !s.flashLow then raiseAll { s with flashLow := true } evFlashLow (wSat (unitsNet s).toNat)
  else if !low && decide ((s.reg 0x30018 : Int) < unitsNet s) then { s with flashLow := false }
  else s

/-- The contexts that hold a pin on an object, ascending (R160). -/
def pinHolders (s : State) (o : Nat) : List Ctx :=
  (s.pins.filter (fun p => p % 0x1000000 == o)).map (fun p => toCtx (p / 0x1000000))

/-- A context holds a pin on an object. -/
def hasPin (s : State) (c : Ctx) (o : Nat) : Bool := s.pins.contains (c.val * 0x1000000 + o)

/-- The rings that an object's events go to (R170): its pin holders, and its owner. -/
def objRings (s : State) (n : Nat) : List Ctx :=
  match objAt s n with
  | some o => let h := pinHolders s n; if h.contains o.owner then h else h ++ [o.owner]
  | none => pinHolders s n

/-- The page number that events report: the page of its object. -/
def evPage (pid : Nat) : List Word := w1 (pidIx pid)

/-- The object number of a page key. -/
def pidObjNo (s : State) (pid : Nat) : Nat := match pidObj s pid with | some (n, _) => n | none => 0

/-- Raises EV_FLASH_FULL for a page (R154, R170). -/
def flashFull (s : State) (pid : Nat) : State :=
  raiseAll s evFlashFull (w1 (pidObjNo s pid) ++ evPage pid ++ wSat (unitsNet s).toNat)

/-- Takes a writeback reservation of 17 units for a page if they are free (R154). -/
def reservePage (s : State) (pid : Nat) : State :=
  if (pageAt s pid).resv ≠ 0 then s
  else if 17 ≤ unitsNet s then checkFlash (s.modPage pid (fun p => { p with resv := 17 }))
  else flashFull s pid

/-- The key slot of an object holds a key (R431, R437). -/
def slotLoaded (s : State) (slot : Nat) : Bool :=
  slot == 0 || (match mget? s.keys slot with | some k => k.key.isSome | none => false)

/-- The free frames of a sliver that an allocation may draw on (R152). -/
def canAlloc (s : State) (sl : Nat) (draw : Bool) : Bool :=
  decide ((if draw then 0 else reserveOf s) < sliverFree s sl)

/-- The first sliver of an interleaved page's search with a frame (R149). -/
def searchSliver (s : State) (n ix : Nat) (draw : Bool) : Option Nat :=
  ((List.range 2560).map (fun i => (n * 7 + ix + i) % 2560)).find? (fun sl => canAlloc s sl draw)

/-- The slivers that the layout gives for a page, one for each copy (R149). -/
def layoutSlivers (o : Obj) (ix : Nat) : List Nat :=
  o.shares.map (fun l => l.getD (ix / max 1 o.share) 0)

/-- The sliver that EV_FRAME_SHORT names: the first that the layout gives. -/
def shortSliver (n : Nat) (o : Obj) (ix : Nat) : Nat :=
  match o.layout with
  | .interleaved => (n * 7 + ix) % 2560
  | _ => (layoutSlivers o ix).headD 0

/-- The frames for a page, one for each copy, if they are free (R149, R152). -/
def findFrames (s : State) (n : Nat) (o : Obj) (ix : Nat) (draw : Bool) : Option (List Nat) :=
  match o.layout with
  | .interleaved =>
    let sl := match searchSliver s n ix false with
      | some x => some x
      | none => if draw then searchSliver s n ix true else none
    match sl with
    | some x => (firstFree s x).map (fun f => [f])
    | none => none
  | _ =>
    let sls := layoutSlivers o ix
    if sls.all (fun sl => canAlloc s sl draw) then
      let fs := sls.filterMap (firstFree s)
      if fs.length = sls.length then some fs else none
    else none

/-- Gives zeroed frames to a page in a state (R151). Those of a Scratch object are filled in light code first (R295); the model lets
that fill be part of the allocation (log entry 142). -/
def allocFrames (s : State) (pid : Nat) (o : Obj) (fs : List Nat) (st : PState) (lock : Bool) : State :=
  let s := fs.foldl (fun s f =>
    let s : State := { s with frames := mput s.frames f (.used pid) }
    if o.cls == .scratch then (pageTraffic s 0 f true).zeroFrame f true else { s with light := setTag s.light f false }) s
  s.modPage pid (fun p => { p with st := st, frames := fs, valid := [], lock := lock, lastUse := s.ft.run, refBit := true })

/-- Frees the frames of a page: they join the dirty free frames (R151). -/
def freeFrames (s : State) (pid : Nat) : State :=
  let s := (pageAt s pid).frames.foldl (fun s f => { s with frames := mput s.frames f .dirtyFree }) s
  s.modPage pid (fun p => { p with frames := [], valid := [] })

/-- Frees the units of a page's home. -/
def freeHome (s : State) (pid : Nat) : State :=
  match (pageAt s pid).home with
  | some h => { s with unitsUsed := s.unitsUsed - h.units }.modPage pid (fun p => { p with home := none })
  | none => s

/-- Removes a page with all it holds (R156, R229): frames to the dirty free frames, units and reservation freed. -/
def dropPage (s : State) (pid : Nat) : State :=
  let s := freeHome (freeFrames s pid) pid
  checkFlash { s with pages := mdel s.pages pid
                      unitsUsed := s.unitsUsed - (match (pageAt s pid).newHome with | some h => h.units | none => 0)
                      stripes := s.stripes.map (fun x => (x.1, { x.2 with pids := x.2.pids.erase pid })) }

/-- Notes an access to a page (R145, R163). -/
def touchPage (s : State) (pid : Nat) : State :=
  if mhas s.pages pid then s.modPage pid (fun p => { p with refBit := true, lastUse := s.ft.run }) else s

/-- A line of a FETCHING page is valid: all 64 of its bytes are (R156). -/
def lineValid (p : Page) (line : Nat) : Bool := (mget (0 : DWord) p.valid line).toNat == fullMask

/-- The base die of a cluster or a stack (R486). -/
def dieOf (c : Nat) : Nat := c / 10

/-- Accesses to a stack wait (R65, R422): a change of timing set is in progress, it is in self-refresh, or it or its die is under
reset. -/
def stackWaits (s : State) (st : Nat) : Bool :=
  inSetChange s || (s.stackOf st).selfRef || mhas s.rv.resets (7700 + st) || mhas s.rv.resets (7720 + dieOf st)

/-- The stack of a frame. -/
def frameStack (fr : Nat) : Nat := fr / 8192 / 128

/-- A frame of a page lies in a stack whose accesses wait, so the page's moves wait (R65). -/
def pageWaits (s : State) (pid : Nat) : Bool := (pageAt s pid).frames.any (fun fr => stackWaits s (frameStack fr))

/-- A page is resident for a host load of a line (R157). -/
def lineResident (p : Page) (line : Nat) : Bool :=
  match p.st with
  | .home => false
  | .fetching => lineValid p line
  | _ => true

/-- A page is resident for the step sample (R157, R150). -/
def sampleResident (p : Page) : Bool :=
  match p.st with
  | .clean | .dirty | .writing | .redirtied => true
  | _ => false

/-- The number of a page state in the row order of R156. -/
def stateCode (st : PState) : Nat :=
  match st with
  | .absent => 0 | .home => 1 | .fetching => 2 | .clean => 3 | .dirty => 4 | .writing => 5 | .redirtied => 6

/-- Who makes an access, for the events of R170. -/
structure Who where
  ctx  : Option Ctx
  port : Nat := 0
  src  : Nat := 0
  deriving DecidableEq, Repr

/-- Raises EV_STORE_DROPPED (R156, R170). -/
def storeDropped (s : State) (w : Who) (dev n : Nat) : State :=
  raise s evStoreDropped w.ctx.toList (w2 (dev / 64 * 64) ++ w1 w.port ++ w1 w.src ++ w1 n)

/-- Writes the enabled bytes of a line into every copy of a page (R150). -/
def writeCopies (s : State) (r : Reader) (order pid dev : Nat) (bs : List Byte) (be : Nat) (poison hint : Bool) : State :=
  (pageAt s pid).frames.foldl (fun s fr => writeLine s { r with dev := dev } order fr (dev % 65536) bs be poison hint) s

/-- Marks bytes of a line valid (R156). -/
def markValid (s : State) (pid line be : Nat) : State :=
  s.modPage pid (fun p => { p with valid := mmod 0 p.valid line (fun m => m ||| BitVec.ofNat 64 be) })

/-- A read of one line of a resident page (R150, R283). -/
def readPage (s : State) (r : Reader) (order pid dev : Nat) : State × List Byte × Bool :=
  match (pageAt s pid).st, loadFrame (pageAt s pid) with
  | .absent, _ => (s, List.replicate 64 0, false)
  | _, some fr => readLine (touchPage s pid) { r with dev := dev } order fr (dev % 65536)
  | _, none => (s, List.replicate 64 0, true)

/-- Changes an object's mover. -/
def State.modMover (s : State) (n : Nat) (f : Mover → Mover) : State :=
  s.modObj n (fun o => { o with mover := f o.mover })

/-- Raises EV_FRAME_SHORT once for a promotion (R156). -/
def frameShort (s : State) (pid : Nat) : State :=
  match pidObj s pid with
  | some (n, o) =>
    if o.mover.short then s else
    let s := s.modMover n (fun m => { m with short := true })
    raise s evFrameShort (objRings s n) (w1 n ++ evPage pid ++ w1 (shortSliver n o (pidIx pid)))
  | none => s

/-- A page without content and without any mark needs no entry. -/
def tidyPage (s : State) (pid : Nat) : State :=
  if pageAt s pid = {} then { s with pages := mdel s.pages pid } else s

/-- The order of an object's pages in DRAM. -/
def pidOrder (s : State) (pid : Nat) : Nat := match pidObj s pid with | some (_, o) => orderOf s o | none => 0

/-- The device address of a page. -/
def devOfPid (s : State) (pid : Nat) : Nat := match pidObj s pid with | some (_, o) => o.base + pidIx pid * 65536 | none => 0

/-- A line of a page as the packer or a copy reads it: the data, zero where poisoned, and the poison. -/
def rawLine (s : State) (pid : Nat) (copy : Bool) (line : Nat) : State × List Byte × Bool :=
  match loadFrame (pageAt s pid) with
  | some fr => readLine s { path := 6, ctx := (pidObj s pid).map (fun o => o.2.owner), checks := false, directs := copy, dev := devOfPid s pid + line * 64 } (pidOrder s pid) fr (line * 64)
  | none => (s, List.replicate 64 0, false)

/-- A line as the packer and the page copy read it. -/
structure RawLine where
  line   : Nat
  data   : List Byte
  poison : Bool
  deriving DecidableEq, Repr

/-- Reads lines of a page without the check at exit. -/
def rawLines (s : State) (pid : Nat) (copy : Bool) : List Nat → State × List RawLine
  | [] => (s, [])
  | i :: is =>
    let r := rawLine s pid copy i
    let x := rawLines r.1 pid copy is
    (x.1, ⟨i, r.2.1, r.2.2⟩ :: x.2)

/-- The lines of a page that hold something, by number: those with a listed byte or poison or a condition. -/
def usedLines (s : State) (fr : Nat) (order : Nat) : List Nat :=
  let lo := fr * 65536
  let fromBytes := (s.dram.filter (fun c => decide (lo ≤ c.1) && decide (c.1 < lo + 65536))).map (fun c => c.1 % 65536 / 64)
  let fromPoison := (s.poison.filter (fun l => l / 1024 == fr)).map (· % 1024)
  let bad := (List.range 1024).filter (fun i => (lineErr s (locOf order fr (i * 64)) (fr * 1024 + i)).isSome)
  (fromBytes ++ fromPoison ++ (if s.cellErr.isEmpty && s.badCode.isEmpty then [] else bad)).foldl (fun l a => linsert a l) []

/-- The bytes of a run of a sparse page that are not zero, as cells. -/
def sparseCells (base : Nat) (bs : List Byte) : List Host.Cell :=
  (bs.zipIdx.filter (fun x => x.1 != 0)).map (fun x => (base + x.2, x.1))

/-- The header of a page record (R201): object and page, the write sequence number, the packed sizes of the 16 pieces, and bytes
48 to 63, reserved. -/
def recordHeader (n ix seq : Nat) (sizes : List Nat) : List Byte :=
  leBytes 4 n ++ leBytes 4 ix ++ leBytes 8 seq ++ sizes.flatMap (leBytes 2) ++ List.replicate 16 0

/-- The 16 pieces of a page (R201, R202): its bytes, the lines that carry poison, and the seals of its granules. -/
def recordPieces (coded : Bool) (bytes : List Host.Cell) (poison : List Nat) (sv : Nat → Word) : List (List Byte) :=
  (List.range 16).map (fun k =>
    let mask := (poison.filter (fun l => l / 64 == k)).foldl (fun m l => m + 2 ^ (l % 64)) 0
    (storagePiece coded (creads bytes (k * 4096) 4096) mask ((List.range 16).map (fun g => sv (16 * k + g)))).bytes)

/-- The key that an object's slot holds: none for slot 0, whose key is the module's (R431). -/
def slotKey (s : State) (slot : Nat) : Option (BitVec 512) := if slot = 0 then none else (mget? s.keys slot).bind (·.key)

/-- The page record that a pack of a page makes (R201, R202); none if every line is zero and carries no poison
(R153). The seals come from the seal region, and the POISON bits from the line tags. -/
def packPage (s : State) (pid slot : Nat) : State × Option FlashPage :=
  match loadFrame (pageAt s pid) with
  | none => (s, none)
  | some fr =>
    let order := pidOrder s pid
    let (s, ls) := rawLines (pageTraffic s order fr false) pid false (usedLines s fr order)
    let live := ls.filter (fun (x : RawLine) => x.poison || x.data.any (· != 0))
    if live.isEmpty then (s, none) else
    let bytes := live.foldl (fun (m : List Host.Cell) (x : RawLine) => if x.poison then m else cwrites m (x.line * 64) x.data) []
    let pieces := recordPieces (s.reg 0x40000 % 2 == 1) bytes ((live.filter (·.poison)).map (·.line))
      (fun g => if isLight s fr then crc32c (creads bytes (g * 256) 256) else sealOf s (fr * 256 + g))
    let sizes := pieces.map (·.length)
    let units := recordUnits sizes
    let seq := s.recSeq + 1
    let s := { s with recSeq := seq }
    let s := s.bump 0x40040 1 64
    let s := s.bump 0x40048 units 64
    (s, some { record := recordHeader (pidObjNo s pid) (pidIx pid) seq.toNat sizes ++ pieces.flatten,
               units := units, seq := seq, slot := slot, key := slotKey s slot })

/-- The 64-byte key pair of a slot (R431): the module key of slot 0 is derived from the device secret. -/
def keyBytes (key : Option (BitVec 512)) : List Byte :=
  match key with
  | some k => leBytes 64 k.toNat
  | none => Config.shake256 (Config.deviceSecret ++ [0x4D, 0x58, 0x34, 0x30, 0x2D, 0x4D, 0x45, 0x4D, 0x4B, 0x45, 0x59]) 64

/-- The tweak of block `j` of a data unit under AES-XTS (IEEE 1619): the encrypted tweak times x to the j. PRESUMED (log 136). -/
def xtsMask (key : List Byte) (tweak j : Nat) : Nat :=
  (List.range j).foldl (fun t _ => Nat.xor (t * 2 % 2 ^ 128) (if bit t 127 then 0x87 else 0))
    (leNat (Config.aesEncrypt (key.drop 32) (leBytes 16 tweak)))

/-- Bytes of a data unit under AES-256-XTS, block by block of 16 bytes: `f` is the cipher or its inverse. -/
def xtsUnit (f : List Byte → List Byte → List Byte) (key : List Byte) (tweak : Nat) (bs : List Byte) : List Byte :=
  (List.range (bs.length / 16)).flatMap (fun j =>
    let m := xtsMask key tweak j
    leBytes 16 (Nat.xor (leNat (f (key.take 32) (leBytes 16 (Nat.xor (leNat ((bs.drop (16 * j)).take 16)) m)))) m))

/-- A page record as units under a key (R436): 4 KiB units padded with zeros, the tweak the unit number with bit 127 set. The numbers
of a record's units are those of the module's allocation, which the spec does not lay out. -/
def recordUnder (f : List Byte → List Byte → List Byte) (key : Option (BitVec 512)) (seq : Nat) (record : List Byte) : List Byte :=
  (List.range (ceilDiv record.length 4096)).flatMap (fun i =>
    xtsUnit f (keyBytes key) (2 ^ 127 + Config.unitNumber seq i) (fitBytes ((record.drop (4096 * i)).take 4096) 4096))

/-- What the cartridges hold of a page record: the ciphertext of its units (R436). -/
def storedUnits (h : FlashPage) : List Byte := recordUnder Config.aesEncrypt h.key h.seq.toNat h.record

/-- The record as it is read back under the key that its slot holds now (R436). The key is the one it was written under, unless a
KEY_SET with the journalled check value loaded another (R440). -/
def openRecord (s : State) (h : FlashPage) : List Byte :=
  let key := slotKey s h.slot
  if key = h.key then h.record else recordUnder Config.aesDecrypt key h.seq.toNat (storedUnits h)

/-- The tweak of a 16-byte block of DRAM (R434): the block within its page, the page of the object, and the object. -/
def blockTweak (n ix blk : Nat) : Nat := blk % 4096 + ix % 2 ^ 31 * 4096 + n % 2 ^ 24 * 2 ^ 43

/-- What DRAM holds of a block of a page that a write stored: its ciphertext under the object's slot (R434). `State.dram` keeps the
plaintext; every access of the module passes the engines both ways. -/
def storedBlock (s : State) (pid blk : Nat) (plain : List Byte) : List Byte :=
  let slot := match pidObj s pid with | some (_, o) => o.slot | none => 0
  xtsUnit Config.aesEncrypt (keyBytes (slotKey s slot)) (blockTweak (pidObjNo s pid) (pidIx pid) blk) plain

/-- What the read path makes of a stored block (R434, R435): a block of zeros is not decrypted. -/
def openBlock (s : State) (pid blk : Nat) (stored : List Byte) : List Byte :=
  if stored.all (· == 0) then stored else
  let slot := match pidObj s pid with | some (_, o) => o.slot | none => 0
  xtsUnit Config.aesDecrypt (keyBytes (slotKey s slot)) (blockTweak (pidObjNo s pid) (pidIx pid) blk) stored

/-- The pieces of a page record as the storage codec expands them (R189, R190, R202), each with P = 4,096; one that runs past the end
of the record, and every later one, is written as zeros. -/
def expandPieces : Nat → List Byte → List Decoded
  | 0, _ => []
  | n + 1, buf =>
    let h := parseHdr buf
    let d : DecodeCtx := { storage := true, xform := 0 }
    if buf.length < 32 || ((headerCause d h).isNone && decide (buf.length < h.packed)) then
      List.replicate (n + 1) (zeroPiece 4096 3 0)
    else decodePiece d buf 4096 (List.replicate 4096 0) :: expandPieces n (buf.drop h.packed)

/-- The pieces of a page in flash. -/
def homePieces (s : State) (h : FlashPage) : List Decoded := expandPieces 16 ((openRecord s h).drop 64)

/-- The bytes, poisoned lines and seals of a page's pieces. -/
def pieceCells (ps : List Decoded) : List Host.Cell := ps.zipIdx.flatMap (fun x => sparseCells (x.2 * 4096) x.1.bytes)

/-- The poisoned lines of a page's pieces. -/
def piecePoison (ps : List Decoded) : List Nat := ps.zipIdx.flatMap (fun x => (maskList x.1.poison 64).map (fun l => x.2 * 64 + l))

/-- The seals of a page's granules, where they are not that of zeros. -/
def pieceSeals (ps : List Decoded) : AMap Word :=
  (ps.zipIdx.flatMap (fun x => x.1.seals.zipIdx.map (fun y => (x.2 * 16 + y.2, y.1)))).filter (fun x => x.2 != zeroSeal)

/-- The events of a storage codec for the pieces of a page (R189, R202, R203), on the rings of R202. -/
def pieceEvents (s : State) (pid : Nat) (ps : List Decoded) : State :=
  let n := pidObjNo s pid
  let head := fun (k : Nat) => w1 n ++ evPage pid ++ w1 k ++ w2 (devOfPid s pid + 4096 * k)
  let gone := (ps.filter (fun x => x.bad == some 3)).length
  ps.zipIdx.foldl (fun s x =>
    match x.1.bad with
    | some cause =>
      let s := s.bump 0x40014 1
      if cause = 3 && decide (x.2 ≠ 16 - gone) then s
      else raise s evPieceUnusable (objRings s n) (head x.2 ++ w1 cause ++ w1 (if cause = 3 then gone else 1))
    | none =>
      if x.1.size = 0 then s
      else raise (s.bump 0x40010 1) evSizeMismatch (objRings s n) (head x.2 ++ w1 x.1.size ++ w1 x.1.symbols ++ w1 x.1.decl)) s

/-- Writes the bytes of a line that are not valid, from a source line, into one frame (R156). A line none of whose bytes is valid is
written whole, with the poison of the source alone (R282). -/
def fillLine (s : State) (order fr : Nat) (i : Nat) (valid : Nat) (src : List Byte) (poison : Bool) : State :=
  if valid = fullMask then s else
  let pl := fr * 1024 + i
  s.putLine (locOf order fr (i * 64)) pl (mergeBytes valid src (lineData s pl))
    (if valid = 0 then poison else isPoison s pl || poison) (s.hint.contains pl)

/-- The seal of a granule after a fill (R156, R273): the source's seal, less the source's bytes at the places the
stores wrote, with the frame's present seal as the fragment of the stored bytes. -/
def fillSeal (present srcSeal : Word) (masks : List Nat) (src : List Byte) : Word :=
  if masks.all (· == 0) then srcSeal
  else if masks.all (· == fullMask) then present
  else
    let old := (List.range 4).flatMap (fun j => maskedBytes (masks.getD j 0) ((src.drop (64 * j)).take 64))
    srcSeal ^^^ crc32c old ^^^ present

/-- Fills every frame of a page from a source: the bytes and poison of its lines and its seals (R156, R224). -/
def fillPage (s : State) (pid : Nat) (src : List Host.Cell) (poison : List Nat) (seals : AMap Word) : State :=
  let p := pageAt s pid
  let order := pidOrder s pid
  p.frames.foldl (fun s fr =>
    let s := pageTraffic s order fr true
    let marked := (s.poison.filter (fun l => l / 1024 == fr)).map (· % 1024)
    let lines := ((src.map (fun (c : Host.Cell) => c.1 / 64)) ++ poison ++ marked).foldl (fun l a => linsert a l) []
    let grans := ((lines.map (· / 4)) ++ seals.map (fun (x : Nat × Word) => x.1)).foldl (fun l a => linsert a l) []
    let s := grans.foldl (fun s g =>
      let masks := (List.range 4).map (fun j => (mget (0 : DWord) p.valid (g * 4 + j)).toNat)
      let v := fillSeal (sealOf s (fr * 256 + g)) (mget zeroSeal seals g) masks (creads src (g * 256) 256)
      if isLight s fr then s else s.putSeal (fr * 256 + g) v) s
    lines.foldl (fun s i =>
      fillLine s order fr i (mget (0 : DWord) p.valid i).toNat (creads src (i * 64) 64) (poison.contains i)) s) s

/-- Completion of a read that cannot give the home, or of a LOST_STORE page (R156): every line not valid carries
poison. -/
def losePage (s : State) (pid cause : Nat) : State :=
  let p := pageAt s pid
  let order := pidOrder s pid
  let bad := (List.range 1024).filter (fun i => !lineValid p i)
  let s := p.frames.foldl (fun s fr => bad.foldl (fun s i => poisonLine s (locOf order fr (i * 64)) (fr * 65536 + i * 64)) s) s
  let s := s.modPage pid (fun p => { p with st := .dirty, lock := false, lost := false, valid := [] })
  let n := pidObjNo s pid
  let s := raise s evPageLost (objRings s n) (w1 n ++ evPage pid ++ w1 cause ++ w1 bad.length)
  reservePage s pid

/-- Completion of a flash read (R156): the page and whether it was lost. -/
def readComplete (s : State) (pid : Nat) (unrecoverable : Bool) : State × Bool :=
  let p := pageAt s pid
  let s := s.bump 0x30038 1
  match unrecoverable || p.lost, p.home with
  | true, _ => (losePage s pid (if unrecoverable then 0 else 1), true)
  | false, none => (losePage s pid 0, true)
  | false, some h =>
    let any := p.valid.any (fun v => v.2 != 0)
    let ps := homePieces s h
    let s := pieceEvents (fillPage s pid (pieceCells ps) (piecePoison ps) (pieceSeals ps)) pid ps
    let s := s.modPage pid (fun p => { p with st := if any then .dirty else .clean, lock := false, valid := [], lastUse := s.ft.run })
    (if any then reservePage s pid else s, false)

/-- Completion of a copy of a shared page into a draft's frame (R224, R229): the page becomes private. -/
def copyComplete (s : State) (pid : Nat) : State :=
  match (pageAt s pid).copyOf with
  | none => s
  | some b =>
    let s : State := match loadFrame (pageAt s b) with
      | some fr =>
        let order := pidOrder s b
        let (s, ls) := rawLines (pageTraffic s order fr false) b true (usedLines s fr order)
        let bytes := ls.foldl (fun (m : List Host.Cell) (x : RawLine) => cwrites m (x.line * 64) x.data) []
        let seals : AMap Word := (s.seals.filter (fun (x : Nat × Word) => x.1 / 256 == fr)).map (fun (x : Nat × Word) => (x.1 % 256, x.2))
        fillPage s pid bytes ((ls.filter (fun (x : RawLine) => x.poison)).map (fun (x : RawLine) => x.line)) seals
      | none => s
    let s := s.modPage pid (fun p => { p with st := .dirty, lock := false, valid := [], copyOf := none, lastUse := s.ft.run })
    reservePage s pid

/-- Completion of a writeback (R153, R156): the new units are the home, the old ones and the rest of the
reservation are free. -/
def writeComplete (s : State) (pid : Nat) : State :=
  let p := pageAt s pid
  let s := freeHome s pid
  let s := s.modPage pid (fun x => { x with
    home := x.newHome, newHome := none, resv := 0, lock := false, st := if x.st = .redirtied then .dirty else .clean })
  let s := s.bump 0x3003C 1
  let s := checkFlash s
  if p.st = .redirtied then reservePage s pid else s

/-- The open stripe, if any: the newest that is not closed (R308). -/
def openStripe (s : State) : Option (Nat × Stripe) := (s.stripes.filter (fun x => !x.2.closed)).getLast?

/-- Bytes of data in a stripe: six units of 1 MiB (R306). -/
def stripeBytes : Nat := 6 * 1048576

/-- Puts a record into the open stripe, or into a new one where it does not fit (R306, R308). -/
def gatherRecord (s : State) (pid bytes : Nat) : State × Nat × Nat :=
  match openStripe s with
  | some (n, x) =>
    if x.bytes + bytes ≤ stripeBytes then
      let x := { x with pids := x.pids ++ [pid], bytes := x.bytes + bytes, closed := decide (x.bytes + bytes = stripeBytes) }
      ({ s with stripes := mput s.stripes n x }, n, x.bytes - bytes)
    else
      ({ s with stripes := mput (mput s.stripes n { x with closed := true }) s.nextStripe { pids := [pid], bytes := bytes, first := s.ft.run }
                nextStripe := s.nextStripe + 1 }, s.nextStripe, 0)
  | none =>
    ({ s with stripes := mput s.stripes s.nextStripe { pids := [pid], bytes := bytes, first := s.ft.run }
              nextStripe := s.nextStripe + 1 }, s.nextStripe, 0)

/-- Positions without an ACTIVE or RETIRING member: those that count as vacant or FAILED for the array (R306, R311). -/
def lostPositions (s : State) : List Nat :=
  (List.range 8).filter (fun p => !s.bays.any (fun b =>
    b.2.position == some p && (b.2.st == .active || b.2.st == .retiring)))

/-- Positions without an ACTIVE, RETIRING or TARGET cartridge (R312). -/
def vacantPositions (s : State) : List Nat :=
  (List.range 8).filter (fun p => !s.bays.any (fun b =>
    b.2.position == some p && (b.2.st == .active || b.2.st == .retiring || b.2.st == .target)))

/-- The array is BROKEN (R311): three or more positions vacant or FAILED. -/
def arrayBroken (s : State) : Bool := decide (3 ≤ (lostPositions s).length)

/-- A page of a Scratch object: no event of R156 applies to it, and it is never written back (R145, R156). -/
def isScratch (s : State) (pid : Nat) : Bool := match pidObj s pid with | some (_, o) => o.cls == .scratch | none => false

/-- A writeback request (R156): the page is packed into the open stripe, or stays dirty. The outcome says whether a
write is in flight. -/
def writeback (s : State) (pid : Nat) : State × Bool :=
  if isScratch s pid then (s, false) else
  let s := reservePage s pid
  let p := pageAt s pid
  match p.st, pidObj s pid with
  | .dirty, some (_, o) =>
    if p.resv = 0 || arrayBroken s || p.lock || !slotLoaded s o.slot then (s, false) else
    let (s, h) := packPage s pid o.slot
    let s := s.modPage pid (fun p => { p with st := .writing, lock := true, newHome := none })
    match h with
    | none => (writeComplete s pid, false)
    | some h =>
      let (s, n, at_) := gatherRecord s pid (h.units * 4096)
      ({ s with unitsUsed := s.unitsUsed + h.units }.modPage pid (fun p => { p with
        newHome := some { h with stripe := n, at_ := at_ }, resv := p.resv - h.units }), true)
  | _, _ => (s, false)

/-- A release request for a clean page (R156). -/
def releasePage (s : State) (pid : Nat) : State :=
  let s := freeFrames s pid
  let s := s.modPage pid (fun p => { p with st := if p.home.isSome then .home else .absent, refBit := false })
  tidyPage s pid

/-- A fetch request to a page (R156). The outcome: whether a read is now in flight, and whether it must retry. -/
def fetchPage (s : State) (pid : Nat) : State × Bool × Bool :=
  match pidObj s pid with
  | none => (s, false, false)
  | some (n, o) =>
    let p := pageAt s pid
    match p.st with
    | .absent =>
      match findFrames s n o (pidIx pid) false with
      | some fs => (allocFrames s pid o fs .clean false, false, false)
      | none => (frameShort s pid, false, true)
    | .home =>
      if !slotLoaded s o.slot then (s, false, true) else
      match findFrames s n o (pidIx pid) false with
      | some fs => (allocFrames s pid o fs .fetching true, true, false)
      | none => (frameShort s pid, false, true)
    | _ => (s, false, false)

/-- Ends a command taken from a work ring: its completion is due, behind those of the commands that ended before it (R392). The
ended ones stand in the list in the order in which they ended. -/
def endFlight (s : State) (c : Ctx) (tag : Word) (opcode : BitVec 16) (status : Nat) (words : List Word) : State :=
  let fs := (s.ctx c).ring.flights
  match fs.findIdx? (fun f => f.tag == tag && f.opcode == opcode && f.ended.isNone) with
  | some i => s.modCtx c (fun x => { x with ring := { x.ring with
      flights := x.ring.flights.eraseIdx i ++ (x.ring.flights[i]?).toList.map (fun f => { f with ended := some (BitVec.ofNat 16 status, words) }) } })
  | none => s

/-- Ends a mover's command, if it came from a ring. -/
def endMoverCmd (s : State) (m : MoverCmd) (status : Nat) (words : List Word) : State :=
  match m.ctx with
  | some c => endFlight s c m.tag m.opcode status words
  | none => s

/-- The page keys of a run of an object's pages. -/
def objPids (s : State) (o : Obj) (first count : Nat) : List Nat :=
  (List.range count).map (fun i => pidOf s o.head (first + i))

/-- The pages a command covers: COUNT 0 names all of them (R169). -/
def cmdRange (o : Obj) (m : MoverCmd) : Nat × Nat := if m.count = 0 then (0, o.pages) else (m.first, m.count)

/-- The moves of a mover that are fetches. -/
def isFetch (k : MoveKind) : Bool := k == .miss || k == .sample || k == .sched

/-- The precedence of a move (R164). -/
def moveRank (k : MoveKind) : Nat :=
  match k with
  | .miss => 0 | .sample => 1 | .sched => 2 | .flush => 3 | .evict => 4

/-- Adds a move to a mover unless the page has one that is as urgent. -/
def addMove (s : State) (n pid : Nat) (k : MoveKind) (start : Nat) : State :=
  match objAt s n with
  | none => s
  | some o =>
    match o.mover.moves.find? (fun m => m.pid == pid && isFetch m.kind == isFetch k) with
    | some m =>
      if m.running || decide (moveRank m.kind ≤ moveRank k) then s
      else s.modMover n (fun v => { v with moves := v.moves.map (fun x => if x = m then { x with kind := k, start := start } else x) })
    | none =>
      let x : Move := { pid := pid, kind := k, start := start, seq := s.moveSeq }
      { s with moveSeq := s.moveSeq + 1 }.modMover n (fun v => { v with moves := v.moves ++ [x] })

/-- The eviction in progress ends (R161). -/
def endEvict (s : State) (n : Nat) (status : Nat) : State :=
  match objAt s n with
  | none => s
  | some o =>
    let m := o.mover
    let s := match m.evict with
      | some e => endMoverCmd s e status (w1 m.released ++ w1 m.skipped)
      | none => s
    s.modMover n (fun m => { m with evict := none, released := 0, skipped := 0, targets := [], evictAt := 0,
                                    moves := m.moves.filter (fun x => x.kind != .evict || x.running) })

/-- A promotion event on a mover (R161): an eviction ends, a flush pauses, and a promotion begins where none is in progress. -/
def promotionEvent (s : State) (n : Nat) : State :=
  match objAt s n with
  | none => s
  | some o =>
    let s := match o.mover.st with
      | .evictPending | .evicting => endEvict s n 2
      | _ => s
    s.modMover n (fun m => { m with st := .promoting, short := m.short && m.st == .promoting })

/-- A fetch request sent through a mover by a tier miss or a step sample (R161, R167). -/
def requestFetch (s : State) (pid : Nat) (k : MoveKind) : State :=
  match pidObj s pid with
  | none => s
  | some (n, _) => addMove (promotionEvent s n) n pid k s.ft.run

/-- Makes a draft's own copy of a shared page begin, if a frame is free (R224); `draw` lets it take one of the absorption reserve,
as only a host store may (R152). -/
def startCopy (s : State) (t : Target) (draw : Bool) : Option State :=
  match findFrames s t.obj t.o t.ix draw with
  | some fs =>
    let key := pageKey t.content t.ix
    let s := { s with contents := mmod ⟨t.obj, 0, none, [], none⟩ s.contents t.content (fun c => { c with own := linsert t.ix c.own }) }
    let s := allocFrames s key t.o fs .fetching true
    let s := s.modPage key (fun p => { p with copyOf := some t.pid })
    some (if (pageAt s t.pid).st == .home then requestFetch s t.pid .miss else s)
  | none => none

/-- A store of the enabled bytes of one line to a page of an object or a draft (R156, R224). The outcome is the
state; a discarded store raises EV_STORE_DROPPED. Only a host's store (`draw`) may take a frame of the absorption reserve (R152). -/
def storePage (s : State) (r : Reader) (w : Who) (t : Target) (dev : Nat) (bs : List Byte) (be : Nat)
    (poison hint draw : Bool) : State :=
  let line := dev % 65536 / 64
  let shared := t.draft && t.pid != pageKey t.content t.ix
  if shared then
    match startCopy s t draw with
    | some s =>
      let key := pageKey t.content t.ix
      markValid (writeCopies s r t.order key dev bs be poison hint) key line be
    | none => storeDropped s w dev t.obj
  else
    let p := pageAt s t.pid
    let put := fun (s : State) => touchPage (writeCopies s r t.order t.pid dev bs be poison hint) t.pid
    match p.st with
    | .absent =>
      match findFrames s t.obj t.o t.ix draw with
      | some fs => reservePage (put (allocFrames s t.pid t.o fs .dirty false)) t.pid
      | none => storeDropped s w dev t.obj
    | .home =>
      match (if slotLoaded s t.o.slot && domOn s 78 then findFrames s t.obj t.o t.ix draw else none) with
      | some fs => markValid (put (allocFrames s t.pid t.o fs .fetching true)) t.pid line be
      | none => storeDropped (s.modPage t.pid (fun p => { p with lost := true })) w dev t.obj
    | .fetching => markValid (put s) t.pid line be
    | .clean => reservePage ((put s).modPage t.pid (fun p => { p with st := .dirty })) t.pid
    | .dirty => put s
    | .writing => (put s).modPage t.pid (fun p => { p with st := .redirtied })
    | .redirtied => put s

/-- A promotion of pages on behalf of a command or of a class change (R147, R161, R165). -/
def promotePages (s : State) (n : Nat) (cmd : Option MoverCmd) (first count : Nat) : State :=
  match objAt s n with
  | none => s
  | some o =>
    let s := promotionEvent s n
    let s := match cmd with
      | some c => s.modMover n (fun m => { m with promos := m.promos ++ [c] })
      | none => s
    let s := s.modMover n (fun m => { m with short := false })
    ((objPids s o first count).filter (fun p => !sampleResident (pageAt s p))).foldl (fun s p => addMove s n p .sched s.ft.run) s

/-- Takes a pin (R160). -/
def takePin (s : State) (c : Ctx) (n : Nat) : State := { s with pins := linsert (c.val * 0x1000000 + n) s.pins }

/-- Removes a pin. -/
def dropPin (s : State) (c : Ctx) (n : Nat) : State :=
  { s with pins := s.pins.erase (c.val * 0x1000000 + n) }.modObj n (fun o => { o with lastPin := s.ft.run })

/-- The pages of an object that hold frames. -/
def residentPids (s : State) (n : Nat) : List Nat :=
  (s.pages.filter (fun p => !p.2.frames.isEmpty && (match mget? s.contents (pidContent p.1) with
    | some c => c.obj == n
    | none => false))).map (·.1)

/-- Starts an eviction (R161): the pages it handles and the frame number of its first batch. -/
def startEvict (s : State) (n : Nat) (cmd : Option MoverCmd) (targets : List Nat) (at_ : Nat) : State :=
  s.modMover n (fun m => { m with st := .evicting, evict := cmd, targets := targets, evictAt := at_, released := 0, skipped := 0 })

/-- Completes the promotions of a mover (R161). -/
def endPromos (s : State) (n : Nat) : State :=
  match objAt s n with
  | none => s
  | some o =>
    let s := o.mover.promos.foldl (fun s c => endMoverCmd s c (if c.n2 ≠ 0 then 1 else 0) (w1 c.n1 ++ w1 c.n2)) s
    s.modMover n (fun m => { m with promos := [], short := false })

/-- The promotions that an EVICT has ended complete with CANCELLED when no fetch of theirs is in flight (R161). -/
def endCancelled (s : State) (n : Nat) : State :=
  match objAt s n with
  | none => s
  | some o =>
    if o.mover.moves.any (fun x => isFetch x.kind && x.running) then s else
    let s := o.mover.cancelled.foldl (fun s c => endMoverCmd s c 2 (w1 c.n1 ++ w1 c.n2)) s
    s.modMover n (fun m => { m with cancelled := [] })

/-- EVICT as the ring walker takes it (R161, R165): `later` says that the notch boundary lies after the take; its first batch
goes at the boundary that FT_FRAME numbers `at_`, or at the first after it. From PROMOTING and FLUSHING the moves that have not
started go, the promotions complete with CANCELLED once those in flight have finished, and the flush is queued again. -/
def evictEvent (s : State) (c : Ctx) (n : Nat) (cmd : MoverCmd) (later : Bool) (at_ : Nat) : State :=
  match objAt s n with
  | none => endMoverCmd s cmd stNoObject [0, 0]
  | some o =>
    if !hasPin s c n then endMoverCmd s cmd 0x58 [0, 0] else
    let s := dropPin s c n
    if !(pinHolders s n).isEmpty then endMoverCmd s cmd 3 [0, 0]
    else if o.cls == .held || o.cls == .scratch then endMoverCmd s cmd 4 [0, 0]
    else match o.mover.st with
      | .idle =>
        if later then s.modMover n (fun m => { m with st := .evictPending, evict := some cmd, evictAt := at_ })
        else startEvict s n (some cmd) (residentPids s n) at_
      | _ =>
        let s := s.modMover n (fun m => { m with
          moves := m.moves.filter (·.running), cancelled := m.cancelled ++ m.promos, promos := [] })
        endCancelled (startEvict s n (some cmd) (residentPids s n) at_) n

/-- Starts the first queued flush of a mover (R161): its writebacks become moves. -/
def startFlush (s : State) (n : Nat) : State :=
  match objAt s n with
  | none => s
  | some o =>
    match o.mover.flushes with
    | [] => s
    | f :: _ =>
      let r := cmdRange o f
      let s := s.modMover n (fun m => { m with st := .flushing })
      if o.cls = .scratch then s else
      ((objPids s o r.1 r.2).filter (fun p => (pageAt s p).st == .dirty || (pageAt s p).st == .redirtied)).foldl
        (fun s p => addMove s n p .flush s.ft.run) s

/-- FLUSH on a mover (R161). -/
def flushEvent (s : State) (n : Nat) (cmd : MoverCmd) : State :=
  match objAt s n with
  | none => endMoverCmd s cmd stNoObject [0, 0]
  | some o =>
    let s := s.modMover n (fun m => { m with flushes := m.flushes ++ [cmd] })
    if o.mover.st = .idle then startFlush s n else s

/-- What a mover does when its present work has ended (R161). -/
def moverIdle (s : State) (n : Nat) : State :=
  match objAt s n with
  | none => s
  | some o =>
    match o.mover.flushes with
    | [] => s.modMover n (fun m => { m with st := .idle })
    | _ => startFlush s n

/-- "All moves done" for a mover (R161): the conditions of the three rows, and their actions. -/
def movesDone (s : State) (n : Nat) : State :=
  match objAt s n with
  | none => s
  | some o =>
    let m := o.mover
    match m.st with
    | .promoting => if m.moves.any (fun x => isFetch x.kind) then s else moverIdle (endPromos s n) n
    | .flushing =>
      if m.moves.any (fun x => x.kind == .flush) then s else
      match m.flushes with
      | [] => moverIdle s n
      | f :: fs => moverIdle ((endMoverCmd s f 0 (w1 f.n1 ++ w1 f.n2)).modMover n (fun m => { m with flushes := fs })) n
    | .evicting =>
      if m.targets.isEmpty && !m.moves.any (fun x => x.kind == .evict) then moverIdle (endEvict s n 0) n else s
    | _ => s

/-- Removes a move of a page from its mover, counts it for the commands whose range holds the page, and completes the promotions
that waited for the last move in flight (R161). -/
def endMove (s : State) (pid : Nat) (fetch lost done : Bool) : State :=
  match pidObj s pid with
  | none => s
  | some (n, o) =>
    let mine := o.mover.moves.filter (fun m => m.pid == pid && isFetch m.kind == fetch)
    let ix := pidIx pid
    let count := fun (c : MoverCmd) =>
      let r := cmdRange o c
      if decide (r.1 ≤ ix) && decide (ix < r.1 + r.2) && !mine.isEmpty then
        { c with n1 := c.n1 + b2n done, n2 := c.n2 + b2n lost } else c
    endCancelled (s.modMover n (fun m => { m with
      moves := m.moves.filter (fun x => !(x.pid == pid && isFetch x.kind == fetch))
      promos := if fetch then m.promos.map count else m.promos
      cancelled := if fetch then m.cancelled.map count else m.cancelled
      flushes := if mine.any (fun x => x.kind == .flush) then (match m.flushes with
        | f :: fs => count f :: fs
        | [] => []) else m.flushes })) n

/-- A move is waiting to start (R162): its retry boundary has come and its mover's state lets it. -/
def moveWaits (s : State) (m : Mover) (x : Move) : Bool :=
  !x.running && decide (x.notBefore ≤ s.ft.run) && (x.kind != .flush || m.st == .flushing)

/-- A move may start (R65, R158, R162): its mover has fewer than 64 in flight, its page carries no lock and lies in no stack whose
accesses wait, and no move of the mover on a lower page waits for a lock, so that the mover never waits for a lock while it
holds one on a higher address. -/
def startable (s : State) (m : Mover) (x : Move) : Bool :=
  moveWaits s m x && decide ((m.moves.filter (·.running)).length < 64) && !(pageAt s x.pid).lock && !pageWaits s x.pid
    && !m.moves.any (fun y => moveWaits s m y && (pageAt s y.pid).lock && decide (pidIx y.pid < pidIx x.pid))

/-- Whether a move comes before another (R162, R164). -/
def moveBefore (a b : Nat × Move) : Bool :=
  let x := a.2; let y := b.2
  if moveRank x.kind ≠ moveRank y.kind then decide (moveRank x.kind < moveRank y.kind)
  else if x.kind = .sched && x.start ≠ y.start then decide (x.start < y.start)
  else if a.1 = b.1 then decide (pidIx x.pid < pidIx y.pid)
  else decide (x.seq < y.seq)

/-- The page move that the engine starts next (R164): the object and the move. -/
def nextMove (s : State) : Option (Nat × Move) :=
  (s.objects.flatMap (fun o => (o.2.mover.moves.filter (startable s o.2.mover)).map (fun m => (o.1, m)))).foldl
    (fun b x => match b with
      | some y => if moveBefore x y then some x else b
      | none => some x) none

/-- Marks a move as running, or for a retry. -/
def setMove (s : State) (n : Nat) (x : Move) (running : Bool) (notBefore : Nat) : State :=
  s.modMover n (fun m => { m with moves := m.moves.map (fun y => if y = x then { y with running := running, notBefore := notBefore } else y) })

/-- Starts one page move (R164). -/
def startMove (s : State) (n : Nat) (x : Move) : State :=
  if isFetch x.kind then
    let was := sampleResident (pageAt s x.pid)
    let (s, inFlight, retry) := fetchPage s x.pid
    if inFlight then setMove s n x true 0
    else if retry then setMove s n x false (s.ft.run + 1)
    else endMove s x.pid true false !was
  else
    let had := (pageAt s x.pid).st == .dirty
    let (s, inFlight) := writeback s x.pid
    if inFlight then setMove s n x true 0
    else
      let clean := (pageAt s x.pid).st == .clean || (pageAt s x.pid).st == .absent
      endMove s x.pid false (!clean) (had && clean)

/-- A page that an eviction leaves resident (R162, R311): one with a step pin, and a dirty one without a reservation or while the
array is BROKEN. -/
def evictSkips (s : State) (p : Page) : Bool :=
  !p.stepPins.isEmpty || (p.st == .dirty && (p.resv == 0 || arrayBroken s))

/-- A move of higher precedence than an eviction could start now (R164): releases wait for it. -/
def higherWaits (s : State) : Bool :=
  s.objects.any (fun (o : Nat × Obj) => o.2.mover.moves.any (fun m => startable s o.2.mover m && decide (moveRank m.kind < 4)
    && (!isFetch m.kind || (match pidObj s m.pid with
      | some (n, q) => (slotLoaded s q.slot || (pageAt s m.pid).st == .absent) && (findFrames s n q (pidIx m.pid) false).isSome
      | none => false))))

/-- One batch of releases of an evicting mover at a frame boundary (R162): at most 64 pages, with the moves in flight; a dirty
page is written back first. -/
def evictBatch (s : State) (n : Nat) : State :=
  match objAt s n with
  | none => s
  | some o =>
    if o.mover.st ≠ .evicting ∨ frameNo s < o.mover.evictAt then s else
    let room := 64 - (o.mover.moves.filter (·.running)).length
    (o.mover.targets.foldl (fun (x : State × Nat) pid =>
      let s := x.1
      let p := pageAt s pid
      let drop := fun (s : State) (rel skip : Nat) => s.modMover n (fun m => { m with
        targets := m.targets.erase pid, released := m.released + rel, skipped := m.skipped + skip })
      if p.frames.isEmpty then (drop s 0 0, x.2)
      else if evictSkips s p then (drop s 0 1, x.2)
      else match p.st with
        | .clean =>
          if p.lock then x
          else if x.2 < room then (drop (releasePage s pid) 1 0, x.2 + 1) else x
        | .dirty => (addMove s n pid .evict s.ft.run, x.2)
        | _ => x) (s, 0)).1

/-- Pressure level of a sliver (R163). -/
def pressureLevel (s : State) : Nat := s.fieldEff 0x30000 16 12 + reserveOf s

/-- The objects that pressure may evict, of a class: mover IDLE and no pin (R163). -/
def evictable (s : State) (cls : Class) : List Nat :=
  (s.objects.filter (fun o => o.2.cls == cls && o.2.mover.st == .idle && (pinHolders s o.1).isEmpty)).map (·.1)

/-- A page comes before another in the least-recently-used order of R163. DESIGN CHOICE: pages of equal history come in the order
of their page keys; the rule orders them no further (log entry 135). -/
def lruBefore (a b : Nat × Page) : Bool :=
  let ka := (b2n a.2.refBit, a.2.swept, a.1); let kb := (b2n b.2.refBit, b.2.swept, b.1)
  decide (ka.1 < kb.1) || (ka.1 == kb.1 && (decide (ka.2.1 < kb.2.1) || (ka.2.1 == kb.2.1 && decide (ka.2.2 < kb.2.2))))

/-- An item put into a list by an order. -/
def insertBy {α : Type} (before : α → α → Bool) (x : α) : List α → List α
  | [] => [x]
  | y :: l => if before x y then x :: y :: l else y :: insertBy before x l

/-- Frames of a sliver that are on their way to the zeroed free frames: freed ones that await their zero fill, and those of pages
that a pressure eviction has still to handle (R151, R163). -/
def framesComing (s : State) (sl : Nat) : Nat :=
  (s.frames.filter (fun (f : Nat × FrameUse) => f.1 / 8192 == sl && f.2 == .dirtyFree)).length
    + (s.objects.map (fun (o : Nat × Obj) => if o.2.mover.st = .evicting ∧ o.2.mover.evict.isNone then
        (o.2.mover.targets.flatMap (fun pid => (pageAt s pid).frames.filter (fun f => f / 8192 == sl))).length else 0)).sum

/-- The pages of a class that pressure may evict from a sliver, in least-recently-used order (R162, R163). -/
def pressurePages (s : State) (sl : Nat) (cls : Class) : List (Nat × Page) :=
  let os := evictable s cls
  (s.pages.filter (fun (p : Nat × Page) => p.2.frames.any (fun f => f / 8192 == sl) && !evictSkips s p.2
    && (match mget? s.contents (pidContent p.1) with | some c => os.contains c.obj | none => false))).foldl
    (fun l x => insertBy lruBefore x l) []

/-- Pressure on one sliver (R163): once its free frames have fallen to the level, pages of Cold objects and then of Warm ones, in
least-recently-used order, are evicted until the frames are four above it. -/
def pressureSliver (s : State) (sl : Nat) : State :=
  let free := sliverFree s sl
  let level := pressureLevel s
  let on := decide (free ≤ level) || (s.pressed.contains sl && decide (free < level + 4))
  let s := { s with pressed := setTag s.pressed sl on }
  if !on then s else
  let want := level + 4 - (free + framesComing s sl)
  ((pressurePages s sl .cold ++ pressurePages s sl .warm).take want).foldl (fun s x =>
    match mget? s.contents (pidContent x.1) with
    | some c => match objAt s c.obj with
      | some o =>
        if o.mover.st = .evicting then
          if o.mover.evict.isNone then s.modMover c.obj (fun m => { m with targets := linsert x.1 m.targets }) else s
        else startEvict s c.obj none [x.1] 0
      | none => s
    | none => s) s

/-- Pressure on every sliver that holds frames (R163). -/
def pressureAll (s : State) : State :=
  if s.fieldEff 0x30000 0 1 = 0 then { s with pressed := [] } else
  ((s.frames.map (fun x => x.1 / 8192)).foldl (fun l a => linsert a l) []).foldl pressureSliver s

/-- A Cold object has met the condition of R145 for 1,024 frames (R163). -/
def coldIdle (s : State) (n : Nat) (o : Obj) : Bool :=
  o.cls == .cold && o.mover.st == .idle && (pinHolders s n).isEmpty && decide (o.lastPin + 1024 ≤ s.ft.run)
    && !(residentPids s n).isEmpty
    && (residentPids s n).all (fun p => let x := pageAt s p; x.stepPins.isEmpty && decide (x.lastUse + 1024 ≤ s.ft.run))

/-- Evictions of idle Cold objects (R163). -/
def coldAll (s : State) : State :=
  if s.fieldEff 0x30000 0 1 = 0 then s else
  s.objects.foldl (fun s o => if coldIdle s o.1 o.2 then startEvict s o.1 none (residentPids s o.1) 0 else s) s

/-- The need notch of a PROMOTE (R165): at its boundary, or at the first after it, EV_PROMOTE_LATE is raised if a page is not
resident. It is looked at once. -/
def needNotch (s : State) (n : Nat) (c : MoverCmd) : State × MoverCmd :=
  match objAt s n, c.need with
  | some o, some b =>
    if frameNo s < b then (s, c) else
    let r := cmdRange o c
    let miss := (objPids s o r.1 r.2).filter (fun p => !sampleResident (pageAt s p))
    (if miss.isEmpty || c.ctx.isNone then s
     else raise s evPromoteLate (objRings s n) (w1 c.tag.toNat ++ w1 n ++ wSat miss.length ++ w2 c.notch), { c with need := none })
  | _, _ => (s, c)

/-- The need notches of the promotions that wait and of those in progress. -/
def needNotches (s : State) : State :=
  let s := s.scheduled.foldl (fun s x => (needNotch s x.2.1 x.2.2).1) s
  let s : State := { s with scheduled := s.scheduled.map (fun x => (x.1, x.2.1, (needNotch s x.2.1 x.2.2).2)) }
  s.objects.foldl (fun s o =>
    let s := o.2.mover.promos.foldl (fun s c => (needNotch s o.1 c).1) s
    s.modMover o.1 (fun m => { m with promos := m.promos.map (fun c => (needNotch s o.1 c).2) })) s

/-- A scheduled command acts (R161, R165). -/
def actScheduled (s : State) (n : Nat) (c : MoverCmd) : State :=
  match objAt s n with
  | none => endMoverCmd s c stNoObject [0, 0]
  | some o =>
    if c.opcode = 4 then flushEvent s n c
    else
      let s := match c.ctx with | some k => takePin s k n | none => s
      let r := cmdRange o c
      promotePages s n (some c) r.1 r.2

/-- The acts of a frame boundary on the movers (R161, R165): scheduled commands whose boundary has come, need notches, evictions
at their notch boundary, pressure, and one batch of releases each, once no move of higher precedence waits to start (R164). -/
def tieringBoundary (s : State) : State :=
  let due := s.scheduled.filter (fun x => decide (x.1 ≤ frameNo s))
  let s := { s with scheduled := s.scheduled.filter (fun x => decide (frameNo s < x.1)) }
  let s := needNotches (due.foldl (fun s x => actScheduled s x.2.1 x.2.2) s)
  let s := s.objects.foldl (fun s o =>
    if o.2.mover.st = .evictPending ∧ o.2.mover.evictAt ≤ frameNo s then
      startEvict s o.1 o.2.mover.evict (residentPids s o.1) o.2.mover.evictAt
    else s) s
  let s := coldAll (pressureAll s)
  if higherWaits s then s else s.objects.foldl (fun s o => evictBatch s o.1) s

end Sys2Proof.Machine
end

