-- ==== Sys2Proof/Machine/Directory.lean ====
section
/-! DEFINITION. Host requests from identity to device address (R336 to R340), responses and DevLoad (R343, R344),
loads and stores with their waits (R59 to R61, R65, R144, R156), and the directory of the coherent windows
(R213 to R217, R233). -/

namespace Sys2Proof.Machine

/-- The key of an IDE stream: port, whether it is a CXL IDE stream, stream number and direction (R328, R442). -/
def ideKey (p : Port) (cxl : Bool) (stream : Nat) (tx : Bool) : Nat := ((p.val * 2 + b2n cxl) * 6 + stream) * 2 + b2n tx

/-- The sub-streams of an IDE stream: three of a CXL.io stream, one of the CXL IDE stream. -/
def ideSubs (cxl : Bool) : List Nat := if cxl then [0] else [0, 1, 2]

/-- An IDE stream is active: every sub-stream has a key set in use in both directions. -/
def ideActive (s : State) (p : Port) (cxl : Bool) (stream : Nat) : Bool :=
  [false, true].all (fun tx => (ideSubs cxl).all (fun u => mhas (mget {} s.ide (ideKey p cxl stream tx)).active u))

/-- CXL.mem is enabled on a port: its link is up at 32 GT/s or more, x16 or x8 (R323). -/
def memEnabled (ps : PortState) : Bool := ps.up && decide (2 ≤ ps.rate.toNat) && decide (ps.width.toNat ≤ 1)

/-- The unreserved entries of a request tracker (R232, R343). -/
def trackerSize (s : State) : Nat := 8192 - s.fieldEff 0x50000 0 8

/-- The sender of a queued request, if a host made it. -/
def LineReq.sender? : LineReq → Option Sender
  | .read h .. => some h
  | .write h .. => some h
  | .evict h => some h
  | .device .. => none

/-- The sender of a request that waits. -/
def Waiting.sender (w : Waiting) : Sender := { port := w.port, src := w.src, ctx := w.ctx, gen := w.gen, tag := w.tag }

/-- A sender's request for a device address, as it waits. -/
def Sender.asks (h : Sender) (dev : Nat) (why : WaitWhy) (mv : MetaValue) (noData : Bool) : Waiting :=
  { port := h.port, src := h.src, ctx := h.ctx, tag := h.tag, gen := h.gen, dev := dev, why := why, mv := mv, noData := noData }

/-- Requests of a port that its tracker holds. -/
def trackerUsed (s : State) (p : Port) : Nat :=
  (s.waits.filter (fun w => w.port == p)).length
    + (s.directory.map (fun d => (d.2.queue.filter (fun q => q.sender?.any (fun h => h.port == p))).length)).sum

/-- Loads of a port that wait under R59 and R65 (R61). A request that waits for a directory entry (R216) is none of them. -/
def waitingLoads (s : State) (p : Port) : Nat :=
  (s.waits.filter (fun w => w.port == p && w.store.isNone && (w.why == .page || w.why == .stack))).length

/-- A port's link carries CXL.mem requests, and the module gives credits (R343, R422). -/
def portOpen (s : State) (p : Port) : Bool :=
  let ps := s.port p
  memEnabled ps && !ps.retrain && !ps.noCredit

/-- A port takes CXL.mem requests: it is open, and an unreserved entry of its tracker is free (R232). -/
def portTakes (s : State) (p : Port) : Bool := portOpen s p && decide (trackerUsed s p < trackerSize s)

/-- A recall is outstanding toward an identity behind a port (R232). -/
def recallToward (s : State) (p : Port) : Bool :=
  s.directory.any (fun d => d.2.st == .recalling && d.2.targets.any (fun id => match mget? s.srcTab id.toNat with
    | some e => e.valid && bit e.mask.toNat p.val
    | none => false))

/-- RwD credits that a port gives (R232): as many as RECALL_CREDITS are withheld but while a recall is outstanding toward it. -/
def rwdCredits (s : State) (p : Port) : Nat := if recallToward s p then 8192 else trackerSize s

/-- A port takes a write of recall class: it may take a reserved entry (R231, R232). -/
def portTakesRecall (s : State) (p : Port) : Bool := portOpen s p && decide (trackerUsed s p < rwdCredits s p)

/-- DevLoad of a response (R344). -/
def devLoadOf (s : State) (p : Port) : Fin 4 :=
  let n := trackerUsed s p * 100
  let t := trackerSize s
  let lvl := fun (lo : Nat) => s.fieldEff 0x1001C lo 7
  let occ : Fin 4 := if n < lvl 0 * t then 0 else if n < lvl 8 * t then 1 else if n < lvl 16 * t then 2 else 3
  let a : Fin 4 := if inSetChange s then max occ 2 else occ
  if s.shrunk then 3 else a

/-- Sends data (a DRS) with DevLoad; responses on a link that is down are discarded (R351). -/
def sendData (s : State) (p : Port) (src : SrcId) (tag : BitVec 16) (bs : List Byte) (poison : Bool) (mv : MetaValue) : State :=
  let d := devLoadOf s p
  if (s.port p).up then
    (s.modPort p (fun x => { x with devLoad := d })).emit (.drs p src tag (bytesLine bs) poison mv d)
  else s

/-- Sends a completion without data (an NDR). -/
def sendDone (s : State) (p : Port) (src : SrcId) (tag : BitVec 16) (mv : MetaValue) : State :=
  let d := devLoadOf s p
  if (s.port p).up then (s.modPort p (fun x => { x with devLoad := d })).emit (.ndr p src tag mv d) else s

/-- Answers a read: data, or no data for MemInv. -/
def sendRead (s : State) (p : Port) (src : SrcId) (tag : BitVec 16) (noData : Bool) (bs : List Byte) (poison : Bool)
    (mv : MetaValue) : State :=
  if noData then sendDone s p src tag mv else sendData s p src tag bs poison mv

/-- 64 zero bytes. -/
def zeroLine : List Byte := List.replicate 64 0

/-- The source identity of a request (R336). -/
def srcOf (s : State) (p : Port) (src : SrcId) : SrcId :=
  if (s.port p).pbr then src else BitVec.ofNat 12 (s.fieldEff 0x10010 4 12 p.val)

/-- The context of an identity at a port, or the cause of EV_SOURCE_UNMAPPED (R329, R337, R338). -/
def mapSource (s : State) (p : Port) (id : SrcId) : Except Nat Ctx :=
  if s.fieldEff 0x10010 1 1 p.val = 1 ∧ ideActive s p true 0 = false then .error 2
  else
    match mget? s.srcTab id.toNat with
    | some e =>
      if id = 0 ∨ e.valid = false then .error 0
      else if bit e.mask.toNat p.val = false then .error 1
      else .ok e.ctx
    | none => .error 0

/-- The ways of a decoder (R339). -/
def decWays (d : Decoder) : Nat := 2 ^ bits d.ctrl.toNat 1 3

/-- The granularity of a decoder in bytes (R339). -/
def decGran (d : Decoder) : Nat := 256 * 2 ^ bits d.ctrl.toNat 4 4

/-- The position of a decoder. -/
def decPos (d : Decoder) : Nat := bits d.ctrl.toNat 8 4

/-- A decoder is enabled. -/
def decOn (d : Decoder) : Bool := bit d.ctrl.toNat 0

/-- The device address that a decoder gives (R339). -/
def decAddr (d : Decoder) (hpa : Nat) : Nat :=
  let o := hpa - d.base.toNat
  d.dpa.toNat + o / (decGran d * decWays d) * decGran d + o % decGran d

/-- A decoder's range holds an HPA. -/
def decHolds (d : Decoder) (hpa : Nat) : Bool :=
  decOn d && decide (d.base.toNat ≤ hpa) && decide (hpa < d.base.toNat + d.size.toNat)

/-- The position matches (R339). -/
def decPosOk (d : Decoder) (hpa : Nat) : Bool :=
  (hpa - d.base.toNat) / decGran d % decWays d == decPos d

/-- Steps 2 and 3 of R340: the device address, or the cause of EV_DECODE_MISS. -/
def decodeHpa (s : State) (c : Ctx) (hpa : Nat) : Except Nat Nat :=
  let ds := ((s.ctx c).committed.map (·.2)).filter (fun d => decHolds d hpa)
  match ds.find? (fun d => decPosOk d hpa) with
  | some d => if grantLive s c (decAddr d hpa) then .ok (decAddr d hpa) else .error 2
  | none => .error (if ds.isEmpty then 0 else 1)

/-- The key of a reset in progress (R420). -/
def resetKey : ResetUnit → Nat
  | .engine k b => k.val * 2 + b2n b
  | .core k => 5120 + k.val
  | .cluster c => 7680 + c.val
  | .stack t => 7700 + t.val
  | .baseDie d => 7720 + d.val
  | .hubDie => 7722

/-- Presents an access of a master to the arbiter of its channel (R357). `mx12` says that it is of MX-12 class if DC_CTRL.MX12 is 1
when it arrives at the controller (R248). A write of the bytes `be` that takes a read first is a narrow write, of the whole granule in
a firm frame (R270). -/
def accessTraffic (s : State) (order fr q : Nat) (write keep : Bool) (src : ReqSource) (master : Nat) (rec_ : Bool) (dev : Nat)
    (be : Nat := fullMask) : State :=
  let l := locOf order fr q
  let mx := match src with
    | .host .. => (windowOf s dev).isNone
    | _ => false
  let narrow := write && isNarrow s fr be
  presentReq s l { rank := 0, bank := 0, row := 0, col := 0, write := write,
                   mask := if narrow && !isLight s fr then 15 else BitVec.ofNat 4 (2 ^ (l.line % 4)),
                   keep := keep, source := src, master := master, recallW := rec_, mx12 := mx,
                   block := (fr * 65536 + q) / 256 * 256, narrow := b2n narrow }

/-- The reader of a host access (R296). -/
def hostReader (c : Ctx) (p : Port) (src : SrcId) : Reader :=
  { path := 0, ctx := some c, req := w1 p.val ++ w1 src.toNat, directs := true }

/-- Sets the status bit of an access that meets no object (R144). -/
def unmapped (s : State) : State := setInt s 2 7

/-- Answers a load whose wait has ended without residency (R59, R61): poisoned data and EV_TIER_MISS, and the fetch
request of R167 unless a promotion of that page is in progress. -/
def tierMiss (s : State) (w : Waiting) (t : Target) (full : Bool) : State :=
  let s := sendRead s w.port w.src w.tag w.noData zeroLine true w.mv
  let p := pageAt s t.pid
  let s := s.bump 0x30034 1
  let s := raise s evTierMiss [w.ctx] (w2 (w.dev / 64 * 64) ++ w1 w.port.val ++ w1 w.src.toNat ++ w1 t.obj
    ++ w1 (stateCode p.st) ++ w1 (b2n full))
  let busy := p.st == .fetching || !p.frames.isEmpty || t.o.mover.moves.any (fun m => m.pid == t.pid && isFetch m.kind)
  if busy then s else requestFetch s t.pid .miss

/-- Serves a load at a device address, or holds it (R59, R61, R65, R144). A load of a context that has EXPIRED returns poisoned data,
one that was already waiting too (R210). -/
def serveLoad (s : State) (w : Waiting) : State :=
  if (s.ctx w.ctx).expired then sendRead s w.port w.src w.tag w.noData zeroLine true .i else
  match targetOf s w.dev with
  | none => sendRead (unmapped s) w.port w.src w.tag w.noData zeroLine false w.mv
  | some t =>
    let p := pageAt s t.pid
    if lineResident p (w.dev % 65536 / 64) then
      match loadFrame p with
      | some fr =>
        if stackWaits s (frameStack fr) then
          (if 1024 ≤ waitingLoads s w.port then tierMiss s w t true else { s with waits := s.waits ++ [{ w with why := .stack }] })
        else
        let s := accessTraffic s t.order fr (w.dev % 65536) false (keepOf s t.o) (.host w.port w.src) w.port.val false w.dev
        let (s, bs, poison) := readPage s (hostReader w.ctx w.port w.src) t.order t.pid w.dev
        sendRead s w.port w.src w.tag w.noData bs poison w.mv
      | none => sendRead s w.port w.src w.tag w.noData zeroLine false w.mv
    else if 1024 ≤ waitingLoads s w.port then tierMiss s w t true
    else { s with waits := s.waits ++ [{ w with why := .page }] }

/-- Serves a store at a device address, or holds it (R65, R144, R156, R221, R223); `hint` says that it was decoded
as HDM-DB (R267), `recall_` that it is of recall class (R231). A store of a context that has EXPIRED is discarded (R210). -/
def serveStore (s : State) (w : Waiting) (data : Line) (be : DWord) (poison hint recall_ : Bool) : State :=
  if (s.ctx w.ctx).expired then sendDone s w.port w.src w.tag .i else
  match targetOf s w.dev with
  | none => sendDone (unmapped s) w.port w.src w.tag w.mv
  | some t =>
    if t.ro then sendDone (setInt s 4 3) w.port w.src w.tag w.mv
    else
      let p := pageAt s t.pid
      if p.frames.any (fun fr => stackWaits s (frameStack fr)) then
        { s with waits := s.waits ++ [{ w with why := .stack, store := some (data, be, poison) }] }
      else
        let s := storePage s (hostReader w.ctx w.port w.src) ⟨some w.ctx, w.port.val, w.src.toNat⟩ t w.dev (lineBytes data)
          be.toNat poison hint true
        let s := (pageAt s t.storePid).frames.foldl (fun s fr =>
          accessTraffic s t.order fr (w.dev % 65536) true (keepOf s t.o) (.host w.port w.src) w.port.val recall_ w.dev be.toNat) s
        sendDone s w.port w.src w.tag w.mv

/-- Whether an identity's port is up, and the lowest such port of its mask (R337). -/
def srcPort (s : State) (id : SrcId) : Option Port :=
  match mget? s.srcTab id.toNat with
  | some e => if e.valid then allPorts.find? (fun p => bit e.mask.toNat p.val && (s.port p).up) else none
  | none => none

/-- The sharers of an entry (R213): with BROAD, every identity of a context with a grant of the extent, on a port
with HDM-DB enabled. -/
def sharersOf (s : State) (dev : Nat) (e : DirEntry) : List SrcId :=
  if e.broad then
    (s.srcTab.filter (fun x => x.2.valid && grantLive s x.2.ctx dev
      && allPorts.any (fun p => bit x.2.mask.toNat p.val && (s.port p).bi))).map (fun x => BitVec.ofNat 12 x.1)
  else e.sharers

/-- The entry of a line. -/
def dirAt (s : State) (dev : Nat) : Option DirEntry := mget? s.directory (dev / 64)

/-- Sets or frees the entry of a line. -/
def putDir (s : State) (dev : Nat) (e : Option DirEntry) : State :=
  match e with
  | some e => { s with directory := mput s.directory (dev / 64) e }
  | none => { s with directory := mdel s.directory (dev / 64) }

/-- Entries of the directory (R213). -/
def dirSize : Nat := 16777216

/-- The writers of R217 and R357: a work-ring operation, the steward, and a codec. -/
def walkerOf (c : Ctx) (tag : Word) : DevWriter := { ctx := c, tag := tag, src := .walker c, master := 9 }

/-- The steward's writes on a context's behalf. -/
def stewardOf (c : Ctx) (tag : Word) : DevWriter := { ctx := c, tag := tag, src := .steward, master := 14 }

/-- A link codec's writes. -/
def codecOf (c : Ctx) (tag : Word) : DevWriter := { ctx := c, tag := tag, src := .codec c, master := 8 }

/-- A device writer as the findings of its accesses name it (R296): the requester of a command is its tag, that of the steward 0. -/
def DevWriter.reader (w : DevWriter) : Reader :=
  { path := 6, ctx := some w.ctx, req := (if w.master = 14 then w1 0 else w1 w.tag.toNat) ++ w1 0, checks := false }

/-- KEEP of an access (R245): a codec keeps a row open but for the row's last block; otherwise the order unit's KEEP. -/
def writerKeep (s : State) (w : DevWriter) (t : Target) (l : Loc) : Bool := if w.master = 8 then !lastOfRow l else keepOf s t.o

/-- The traffic of a device access to one line in every copy, or in the one that a load reads (R357). -/
def deviceTraffic (s : State) (w : DevWriter) (t : Target) (frames : List Nat) (addr : Nat) (write : Bool) (be : Nat := fullMask) : State :=
  frames.foldl (fun s fr =>
    accessTraffic s t.order fr (addr % 65536) write (writerKeep s w t (locOf t.order fr (addr % 65536))) w.src w.master false addr be) s

/-- The last line of a carried granule brings the granule's seal to the carried one (R191, R274). -/
def addDelta (s : State) (frames : List Nat) (q : Nat) (delta : Word) : State :=
  if delta = 0 then s else
  frames.foldl (fun s fr => let g := (fr * 65536 + q) / 256; if isLight s fr then s else s.putSeal g (sealOf s g ^^^ delta)) s

/-- Writes a device writer's bytes within one line (R217). A store to an address range that reads a version is discarded and sets
SH_INT_STATUS.RO_STORE (R221, R223). -/
def deviceWrite (s : State) (w : DevWriter) (addr : Nat) (bs : List Byte) (poison : Bool) : State :=
  match targetOf s addr with
  | none => s
  | some t =>
    if t.ro then setInt s 4 3 else
    let off := addr % 64
    let line := List.replicate off 0 ++ bs
    let be := (2 ^ bs.length - 1) * 2 ^ off
    let s := storePage s w.reader ⟨some w.ctx, 0, 0⟩ t (addr / 64 * 64) (fitBytes line 64) be poison false false
    let frames := (pageAt s t.storePid).frames
    addDelta (deviceTraffic s w t frames addr true be) frames (addr % 65536) w.delta

/-- Writes a whole granule with its seal and the poison of its lines (R270, R274): the page takes the store as R156 and R224 give, and
the lines count as written. -/
def storeGranule (s : State) (r : Reader) (who : Who) (dev : Nat) (bs : List Byte) (ps : List Bool) (sv : Word) : State :=
  match targetOf s dev with
  | none => s
  | some t =>
    if t.ro then setInt s 4 3 else
    let s := storePage s r who t dev zeroLine 0 false false false
    let pid := t.storePid
    let s := if (pageAt s pid).st == .fetching then foldN 4 (fun i s => markValid s pid (dev % 65536 / 64 + i) fullMask) s else s
    (pageAt s pid).frames.foldl (fun s fr => putGranule s t.order fr (dev % 65536) bs ps sv false) s

/-- A device writer's whole granule, with its traffic (R357). -/
def writeGranule (s : State) (w : DevWriter) (dev : Nat) (bs : List Byte) (ps : List Bool) (sv : Word) : State :=
  let s := storeGranule s w.reader ⟨some w.ctx, 0, 0⟩ dev bs ps sv
  match targetOf s dev with
  | none => s
  | some t =>
    if t.ro then s else
    (pageAt s t.storePid).frames.foldl (fun s fr =>
      let l := locOf t.order fr (dev % 65536)
      presentReq s l { rank := 0, bank := 0, row := 0, col := 0, write := true, mask := 15, keep := writerKeep s w t l,
                       source := w.src, master := w.master, block := (fr * 65536 + dev % 65536) / 256 * 256 }) s

/-- Poisons the line of a device address (R209, R214, R280). Where no frame holds the page, the line is stored as zeros that carry
poison, as a store of the device would be (R156); a line still to be fetched counts as written. -/
def poisonDev (s : State) (dev : Nat) : State :=
  match targetOf s dev with
  | some t =>
    let p := pageAt s t.pid
    if p.frames.isEmpty then
      storePage s { path := 6, checks := false } ⟨none, 0, 0⟩ t (dev / 64 * 64) zeroLine fullMask true false false
    else
      let s := poisonCopies s t.order p.frames (dev % 65536)
      if p.st == .fetching then markValid s t.pid (dev % 65536 / 64) fullMask else s
  | none => s

/-- The result of an atomic operation on a word of `w` bits: the new word, and its flags (R94). -/
def atomicOp (op w old x cmp : Nat) : Nat × Nat :=
  let sg := fun (a : Nat) => sgnW w a
  match op with
  | 0 => (wrapN w (sg old + sg x), 0)
  | 1 => (if sg x < sg old then x else old, 0)
  | 2 => (if sg old < sg x then x else old, 0)
  | 3 => (min old x, 0)
  | 4 => (max old x, 0)
  | 5 => (Nat.land old x, 0)
  | 6 => (Nat.lor old x, 0)
  | 7 => (Nat.xor old x, 0)
  | 8 => (x, 0)
  | 9 => (if old = cmp then x else old, 0)
  | 10 => fpAdd32 .rne false old x
  | 11 => (fpMin32 old x, 0)
  | _ => (fpMax32 old x, 0)

/-- A near-memory atomic on a line that no host holds (R217, R398): the write, and the completion with the old
value. The S-engine reads a poisoned line as zeros, and what it writes carries the poison (R100). -/
def deviceAtomic (s : State) (w : DevWriter) (addr op : Nat) (opd cmp : List Byte) : State :=
  match targetOf s addr with
  | none => endFlight s w.ctx w.tag 0xC 0 [0, 0]
  | some t =>
    let s := deviceTraffic s w t (loadFrame (pageAt s t.pid)).toList addr false
    let (s, bs, poison) := readPage s w.reader t.order t.pid (addr / 64 * 64)
    let old := if poison then 0 else leNat ((bs.drop (addr % 64)).take opd.length)
    let (new, _) := atomicOp op (8 * opd.length) old (leNat opd) (leNat cmp)
    let s := deviceWrite s w addr (leBytes opd.length new) poison
    endFlight s w.ctx w.tag 0xC (if poison then 1 else 0) (w2 old)

/-- A host's request on a line whose context has EXPIRED since it was taken (R210): the load returns poisoned data, the store is
discarded, and nothing is recorded. -/
def expiredReq (s : State) (r : LineReq) : Option State :=
  match r with
  | .read h _ inv => if (s.ctx h.ctx).expired then some (sendRead s h.port h.src h.tag inv zeroLine true .i) else none
  | .write h .. => if (s.ctx h.ctx).expired then some (sendDone s h.port h.src h.tag .i) else none
  | _ => none

/-- Carries out a request that the table of R214 lets be served. -/
def applyReq (s : State) (dev : Nat) (r : LineReq) (mv : MetaValue) (recall_ : Bool) : State :=
  match r with
  | .read h _ inv => serveLoad s (h.asks dev .page mv inv)
  | .write h _ data be poison => serveStore s (h.asks dev .page mv false) data be poison true recall_
  | .evict h => sendDone s h.port h.src h.tag .i
  | .device w addr bytes op cmp poison =>
    if op = 255 then deviceWrite s w addr bytes poison else deviceAtomic s w addr op bytes cmp

/-- Starts a recall of a line (R214, R219): the BISnps leave, and the request is queued. -/
def startRecall (s : State) (dev : Nat) (e : DirEntry) (targets : List SrcId) (data : Bool) (r : Option LineReq) : State :=
  let e := { e with st := .recalling, sharers := (sharersOf s dev e).filter (fun x => !targets.contains x), broad := false,
                    targets := targets, kept := [], wasE := e.st == .exclusive, queue := r.toList }
  targets.foldl (fun s t => match srcPort s t with
    | some p => (s.emit (.biSnp p t (dev / 64 * 64) data)).bump 0x50020 1
    | none => s) (putDir s dev (some e))

/-- A victim for the directory (R216): S before E, and the oldest first. -/
def victim (s : State) : Option (Nat × DirEntry) :=
  let oldest := fun (st : DirState) => (s.directory.filter (fun d => d.2.st == st)).foldl (fun (b : Option (Nat × DirEntry)) d =>
    match b with
    | some x => if d.2.seq < x.2.seq then some d else b
    | none => some d) none
  match oldest .shared with
  | some v => some v
  | none => oldest .exclusive

/-- Recalls victims (R216). -/
def recallVictims (s : State) : Nat → State
  | 0 => s
  | n + 1 =>
    match victim s with
    | some (l, e) =>
      let ts := sharersOf s (l * 64) e
      recallVictims (if ts.isEmpty then putDir s (l * 64) none else startRecall s (l * 64) e ts false none) n
    | none => s

/-- The eager recalls of R216: from a level of free entries below DIR_LOW × 4,096 on until they reach twice that level, the entries
that recalls in progress will free counted among them. -/
def eagerRecall (s : State) : State :=
  let low := s.fieldEff 0x50000 16 8 * 4096
  let left := dirSize - s.directory.length
  let going := (s.directory.filter (fun d => d.2.st == .recalling)).length
  let on := s.fieldEff 0x50000 8 1 == 1 && (decide (left < low) || (s.eager && decide (left < 2 * low)))
  let s : State := { s with eager := on }
  if on then recallVictims s (2 * low - left - going) else s

/-- Allocates an entry with one holder (R214). -/
def allocDir (s : State) (dev : Nat) (st : DirState) (h : SrcId) : State :=
  eagerRecall { putDir s dev (some { st := st, sharers := [h], seq := s.dirSeq }) with dirSeq := s.dirSeq + 1 }

/-- A read that needs an entry when none is free (R216): it waits, and unless the recalls in progress will free an entry for it too,
one more victim is recalled. -/
def waitEntry (s : State) (h : Sender) (dev : Nat) (mv : MetaValue) (inv : Bool) : State :=
  let s := setInt s 4 4
  let s := { s with waits := s.waits ++ [h.asks dev .entry mv inv] }
  let waiting := (s.waits.filter (fun w => w.why == .entry)).length
  let going := (s.directory.filter (fun d => d.2.st == .recalling)).length
  recallVictims s (waiting - going)

/-- A sharer or holder drops its clean copy (R214). -/
def dropCopy (s : State) (dev : Nat) (h : SrcId) : State :=
  match dirAt s dev with
  | none => s
  | some e =>
    match e.st with
    | .recalling => s
    | .exclusive => if e.sharers.contains h then putDir s dev none else s
    | .shared =>
      let left := e.sharers.filter (fun x => x != h)
      if left.isEmpty && !e.broad then putDir s dev none else putDir s dev (some { e with sharers := left })

/-- One request on one line of a window (R214). -/
def dirRequest (s : State) (dev : Nat) (r : LineReq) : State :=
  match expiredReq s r with
  | some s => s
  | none =>
  match dirAt s dev with
  | none =>
    match r with
    | .read h mv inv =>
      match mv with
      | .i => applyReq s dev r .i false
      | .s => if dirSize ≤ s.directory.length then waitEntry s h dev mv inv
              else applyReq (allocDir s dev .shared h.src) dev r .s false
      | .a => if dirSize ≤ s.directory.length then waitEntry s h dev mv inv
              else applyReq (allocDir s dev .exclusive h.src) dev r .a false
    | _ => applyReq s dev r .i false
  | some e =>
    match e.st with
    | .recalling =>
      match r with
      | .write h .. =>
        if e.targets.contains h.src then applyReq s dev r .i true
        else putDir s dev (some { e with queue := e.queue ++ [r] })
      | _ => putDir s dev (some { e with queue := e.queue ++ [r] })
    | .shared =>
      match r with
      | .read h mv _ =>
        match mv with
        | .i => applyReq s dev r .i false
        | .s =>
          let e' := if e.sharers.contains h.src || e.broad then e
            else if e.sharers.length < 4 then { e with sharers := e.sharers ++ [h.src] } else { e with broad := true }
          applyReq (putDir s dev (some e')) dev r .s false
        | .a =>
          let others := (sharersOf s dev e).filter (fun x => x != h.src)
          if others.isEmpty then
            applyReq (putDir s dev (some { e with st := .exclusive, sharers := [h.src], broad := false })) dev r .a false
          else startRecall s dev e others false (some r)
      | .write h mv _ _ _ =>
        let others := (sharersOf s dev e).filter (fun x => x != h.src)
        if others.isEmpty then
          applyReq (putDir s dev (if mv = .s then some { e with sharers := [h.src], broad := false } else none)) dev r .i false
        else startRecall s dev e others false (some r)
      | .evict h => applyReq (dropCopy s dev h.src) dev r .i false
      | .device .. =>
        let ts := sharersOf s dev e
        if ts.isEmpty then applyReq (putDir s dev none) dev r .i false else startRecall s dev e ts false (some r)
    | .exclusive =>
      match r with
      | .read h mv inv =>
        if e.sharers.contains h.src then applyReq s dev r mv false
        else startRecall s dev e e.sharers (!inv && mv != .a) (some r)
      | .write h mv _ _ _ =>
        if e.sharers.contains h.src then
          applyReq (putDir s dev (if mv = .s then some { e with st := .shared } else none)) dev r .i false
        else startRecall s dev e e.sharers false (some r)
      | .evict h => applyReq (dropCopy s dev h.src) dev r .i false
      | .device .. => startRecall s dev e e.sharers false (some r)

/-- Requests that wait for a directory entry try again (R216). -/
def retryEntries (s : State) : State :=
  let ws := s.waits.filter (fun w => w.why == .entry)
  ws.foldl (fun s w => dirRequest s w.dev (.read w.sender w.mv w.noData)) { s with waits := s.waits.filter (fun w => w.why != .entry) }

/-- More holders of a line in RECALLING are recalled (R207 step 4): each is sent BISnpInv and its BIRsp is outstanding. -/
def extendRecall (s : State) (dev : Nat) (e : DirEntry) (ts : List SrcId) : State :=
  let s := putDir s dev (some { e with sharers := e.sharers.filter (fun x => !ts.contains x), kept := e.kept.filter (fun x => !ts.contains x),
                                       targets := e.targets ++ ts })
  ts.foldl (fun s t => match srcPort s t with
    | some p => (s.emit (.biSnp p t (dev / 64 * 64) false)).bump 0x50020 1
    | none => s) s

/-- A recall ends (R214): the entry keeps the sharers that remain, and the queue is taken in its order. -/
def endRecall (s : State) (dev : Nat) (e : DirEntry) : State :=
  let left := e.sharers ++ e.kept
  let s := putDir s dev (if left.isEmpty then none
    else some { st := .shared, sharers := left.take 4, broad := decide (4 < left.length), seq := e.seq })
  eagerRecall (retryEntries (e.queue.foldl (fun s r => dirRequest s dev r) s))

/-- The waiter that EV_WAIT_BROKEN names for a recall: the port and identity of the first queued request. -/
def waiterWords (e : DirEntry) : List Word :=
  match e.queue with
  | .read h .. :: _ => w1 h.port.val ++ w1 h.src.toNat
  | .write h .. :: _ => w1 h.port.val ++ w1 h.src.toNat
  | .evict h :: _ => w1 h.port.val ++ w1 h.src.toNat
  | .device w .. :: _ => w1 w.tag.toNat ++ w1 0
  | [] => [0, 0]

/-- The rings that EV_WAIT_BROKEN goes to: the waiting context and the holder's (R235). -/
def recallRings (s : State) (e : DirEntry) : List Ctx :=
  let of := fun (src : SrcId) => (mget? s.srcTab src.toNat).map (·.ctx)
  let a := match e.queue with
    | .read h .. :: _ => some h.ctx
    | .write h .. :: _ => some h.ctx
    | .evict h :: _ => some h.ctx
    | .device w .. :: _ => some w.ctx
    | [] => none
  let b := (e.targets.head?).bind of
  a.toList ++ (if a = b then [] else b.toList)

/-- The wait timer of a recall expires (R214, R233 kind 0): the line is poisoned and the entry freed, and the queue is
taken. -/
def recallExpired (s : State) (dev : Nat) (e : DirEntry) : State :=
  let s := poisonDev s dev
  let s := putDir s dev none
  let s := s.bump 0x50028 1
  let s := raise s evWaitBroken (recallRings s e) (w1 0 ++ w2 (dev / 64 * 64) ++ waiterWords e
    ++ w1 (match e.targets.head? with | some t => t.toNat | none => 0) ++ w1 1)
  retryEntries (e.queue.foldl (fun s r => dirRequest s dev r) s)

/-- Serves again every waiting request that may now go on (R59, R65, R216). -/
def serveWaits (s : State) : State :=
  let ws := s.waits.filter (fun w => w.why != .entry)
  let s := { s with waits := s.waits.filter (fun w => w.why == .entry) }
  retryEntries (ws.foldl (fun s w =>
    match w.store with
    | some (d, be, poison) => serveStore s w d be poison (windowOf s w.dev).isSome false
    | none => serveLoad s w) s)

/-- A device writer's access to a line: through the directory where the line lies in a window (R217). -/
def deviceReq (s : State) (w : DevWriter) (addr : Nat) (bytes : List Byte) (op : Nat) (cmp : List Byte) (poison : Bool) : State :=
  let r := LineReq.device w addr bytes op cmp poison
  if (windowOf s addr).isSome then dirRequest s (addr / 64 * 64) r else applyReq s addr r .i false

/-- A context's device accesses that a line's queue still holds. -/
def deviceQueued (s : State) (c : Ctx) (tag : Word) : Bool :=
  s.directory.any (fun d => d.2.queue.any (fun q => match q with
    | .device w .. => w.ctx == c && w.tag == tag
    | _ => false))

/-- A device writer's whole granule with its carried or made seal (R217, R274). While no host holds any of its lines it is written as
a granule; otherwise line by line through the directory, the last line bringing the seal to the one given. -/
def deviceGranule (s : State) (w : DevWriter) (dev : Nat) (bs : List Byte) (ps : List Bool) (sv : Word) : State :=
  if (List.range 4).all (fun i => (dirAt s (dev + 64 * i)).isNone) then writeGranule s w dev bs ps sv
  else foldN 4 (fun i s =>
    deviceReq s { w with delta := if i = 3 then sv ^^^ crc32c bs else 0 } (dev + 64 * i) ((bs.drop (64 * i)).take 64) 255 []
      (ps.getD i false)) s

end Sys2Proof.Machine
end

