-- ==== Sys2Proof/Machine/Ops.lean ====
section
/-! DEFINITION. The outcome of a command, and the shared front of every command that a host port takes. -/

namespace Sys2Proof.Machine

/-- The outcome of a command. -/
abbrev Out := Host.Outcome State Fault Refusal

/-- A command that takes effect only where it applies; elsewhere it changes nothing (R15). -/
def ifApplies (b : Bool) (s t : State) : Out := .next (if b then t else s)

/-- Counts and reports a request whose identity does not map (R338, R354). -/
def missSource (s : State) (p : Port) (id : SrcId) (cause : Nat) : State :=
  mergeEvent (s.bump 0x1003C 1) 4 p.val 1 0 (w1 p.val ++ w1 id.toNat ++ w1 cause ++ w1 0)

/-- Counts and reports a request that no decoder or grant serves (R340, R354). -/
def missDecode (s : State) (c : Ctx) (p : Port) (id : SrcId) (hpa cause : Nat) : State :=
  mergeEvent (s.bump 0x1003C 1) 3 (c.val + 1) 1 0 (w1 p.val ++ w1 id.toNat ++ w2 (hpa / 64 * 64) ++ w1 cause
    ++ w1 (s.ctx c).decGen.toNat ++ w1 0)

/-- What a host request comes to (R329, R338, R340, R210, R458): refused at the front, or decoded. -/
inductive Front where
  | notTaken
  | turnedAway (s : State)
  | decoded (c : Ctx) (id : SrcId) (dev : Nat)
  deriving DecidableEq, Repr

/-- The front of a CXL.mem request that a port has accepted. -/
def frontTaken (s : State) (p : Port) (src : SrcId) (hpa : DWord) : Front :=
  if !(s.port p).memActive then .turnedAway s
  else
    let id := srcOf s p src
    match mapSource s p id with
    | .error cause => .turnedAway (missSource s p id cause)
    | .ok c =>
      if (s.ctx c).expired then .turnedAway s
      else match decodeHpa s c (hpa.toNat / 64 * 64) with
        | .error cause => .turnedAway (missDecode s c p id hpa.toNat cause)
        | .ok dev => .decoded c id dev

/-- The front of every CXL.mem request. -/
def front (s : State) (p : Port) (src : SrcId) (hpa : DWord) : Front :=
  if !portTakes s p then .notTaken else frontTaken s p src hpa

/-- A decoded write is of recall class (R231, R232): its line is in RECALLING, and its sender is one of the line's targets. -/
def recallClass (s : State) (f : Front) : Bool :=
  match f with
  | .decoded _ id dev => (windowOf s dev).isSome && (match dirAt s dev with
    | some e => e.st == .recalling && e.targets.contains id
    | none => false)
  | _ => false

/-- The front of a write: one of recall class may take a reserved entry, ahead of the requests that wait (R231, R232). -/
def writeFront (s : State) (p : Port) (src : SrcId) (hpa : DWord) : Front :=
  if portTakesRecall s p && recallClass s (frontTaken s p src hpa) then frontTaken s p src hpa else front s p src hpa

end Sys2Proof.Machine
end

