-- ==== Sys2Proof/Machine/HostMem.lean ====
section
/-! DEFINITION. The commands of CXL.mem (R322, R340), of Back-Invalidate (R214, R215), and the timers of host waits
(R59, R233). -/

namespace Sys2Proof.Machine

/-- The sender of a request that is accepted now (R337, R341). -/
def senderOf (s : State) (p : Port) (id : SrcId) (c : Ctx) (tag : BitVec 16) : Sender :=
  { port := p, src := id, ctx := c, gen := (s.ctx c).decGen, tag := tag }

/-- A read of a line, with or without data (R213, R340). -/
def hostRead (s : State) (p : Port) (src : SrcId) (hpa : DWord) (mv : MetaValue) (tag : BitVec 16) (noData : Bool) : State :=
  match front s p src hpa with
  | .notTaken => s
  | .turnedAway s => sendRead s p src tag noData zeroLine true .i
  | .decoded c id dev =>
    if (windowOf s dev).isSome then dirRequest s dev (.read (senderOf s p id c tag) mv noData)
    else if noData then sendDone s p id tag .i
    else serveLoad s ((senderOf s p id c tag).asks dev .page .i false)

/-- A write of the enabled bytes of a line (R213, R340, R346). -/
def hostWrite (s : State) (p : Port) (src : SrcId) (hpa : DWord) (mv : MetaValue) (tag : BitVec 16) (data : Line) (be : DWord)
    (poison : Bool) : State :=
  match writeFront s p src hpa with
  | .notTaken => s
  | .turnedAway s => sendDone s p src tag .i
  | .decoded c id dev =>
    if (windowOf s dev).isSome then dirRequest s dev (.write (senderOf s p id c tag) mv data be poison)
    else serveWaits (serveStore s ((senderOf s p id c tag).asks dev .page .i false) data be poison false false)

/-- MemRd (R340): answered, waiting, or queued for a recall. -/
def execMemRd (p : Port) (src : SrcId) (hpa : DWord) (mv : MetaValue) (tag : BitVec 16) (s : State) : Out :=
  .next (hostRead s p src hpa mv tag false)

/-- MemRdData (R213, R322): as MemRd. -/
def execMemRdData (p : Port) (src : SrcId) (hpa : DWord) (mv : MetaValue) (tag : BitVec 16) (s : State) : Out :=
  .next (hostRead s p src hpa mv tag false)

/-- MemInv (R214, R322): a request for a line without data. -/
def execMemInv (p : Port) (src : SrcId) (hpa : DWord) (mv : MetaValue) (tag : BitVec 16) (s : State) : Out :=
  .next (hostRead s p src hpa mv tag true)

/-- MemInvNT (R214, R322): as MemInv. -/
def execMemInvNt (p : Port) (src : SrcId) (hpa : DWord) (mv : MetaValue) (tag : BitVec 16) (s : State) : Out :=
  .next (hostRead s p src hpa mv tag true)

/-- MemClnEvct (R214). -/
def execMemClnEvct (p : Port) (src : SrcId) (hpa : DWord) (tag : BitVec 16) (s : State) : Out :=
  .next (match front s p src hpa with
    | .notTaken => s
    | .turnedAway s => sendDone s p src tag .i
    | .decoded c id dev =>
      if (windowOf s dev).isSome then retryEntries (dirRequest s dev (.evict (senderOf s p id c tag))) else sendDone s p id tag .i)

/-- MemSpecRd is a hint and is never answered (R322). -/
def execMemSpecRd (_p : Port) (_src : SrcId) (_hpa : DWord) (s : State) : Out := .next s

/-- MemWr (R340): a write of a whole line. -/
def execMemWr (p : Port) (src : SrcId) (hpa : DWord) (mv : MetaValue) (tag : BitVec 16) (data : Line) (poison : Bool)
    (s : State) : Out :=
  .next (hostWrite s p src hpa mv tag data (BitVec.ofNat 64 fullMask) poison)

/-- MemWrPtl (R340): a write of the enabled bytes. -/
def execMemWrPtl (p : Port) (src : SrcId) (hpa : DWord) (mv : MetaValue) (tag : BitVec 16) (data : Line) (be : DWord)
    (poison : Bool) (s : State) : Out :=
  .next (hostWrite s p src hpa mv tag data be poison)

/-- A BIRsp (R214, R338): recorded, and the last one ends the recall. -/
def recordRsp (s : State) (dev : Nat) (id : SrcId) (shared : Bool) : State :=
  match dirAt s dev with
  | some e =>
    if e.st = .recalling ∧ e.targets.contains id then
      let e := { e with targets := e.targets.filter (fun x => x != id), kept := if shared then e.kept ++ [id] else e.kept }
      if e.targets.isEmpty then endRecall s dev e else putDir s dev (some e)
    else s
  | none => s

/-- BIRspI or BIRspS (R214). -/
def execBiRsp (p : Port) (src : SrcId) (dev : BitVec 47) (shared : Bool) (s : State) : Out :=
  .next (match mapSource s p (srcOf s p src) with
    | .error _ => s
    | .ok _ => recordRsp s dev.toNat (srcOf s p src) shared)

/-- BIConflict (R215): acknowledged once the BISnp has been sent. -/
def execBiConflict (p : Port) (src : SrcId) (dev : BitVec 47) (s : State) : Out :=
  .next (match dirAt s dev.toNat with
    | some e =>
      let id := srcOf s p src
      if e.st = .recalling ∧ e.targets.contains id then s.emit (.biConflictAck p id (dev.toNat / 64 * 64)) else s
    | none => s)

/-- The stall budget of a waiting load runs out (R59, R65). -/
def execStallBudgetExpired (p : Port) (tag : BitVec 16) (s : State) : Out :=
  .next (match s.waits.find? (fun w => w.port == p && w.tag == tag && w.store.isNone && w.why != .entry) with
    | none => s
    | some w =>
      let s := { s with waits := s.waits.erase w }
      match w.why, targetOf s w.dev with
      | .page, some t => tierMiss s w t false
      | .page, none => sendRead s w.port w.src w.tag w.noData zeroLine true w.mv
      | _, _ =>
        raise (sendRead s w.port w.src w.tag w.noData zeroLine true w.mv) evStallPoison [w.ctx]
          (w2 (w.dev / 64 * 64) ++ w1 w.port.val ++ w1 w.src.toNat))

/-- The wait timer of a recall runs out (R214, R233 kind 0). -/
def execRecallWaitExpired (dev : BitVec 47) (s : State) : Out :=
  .next (match dirAt s dev.toNat with
    | some e => if e.st = .recalling then recallExpired s dev.toNat e else s
    | none => s)

end Sys2Proof.Machine
end

