-- ==== Sys2Proof/Machine/Rings.lean ====
section
/-! DEFINITION. Creating and deleting objects as data (R143, R149, R156), the rings of a context (R389 to R396), and
the taking of a work-ring entry with its common statuses (R392, R403). -/

namespace Sys2Proof.Machine

/-- The lowest number that no key of a map uses. -/
def freeKey {α : Type} (m : AMap α) : Nat → Nat → Nat
  | 0, n => n
  | k + 1, n => if mhas m n then freeKey m k (n + 1) else n

/-- A run of device addresses overlaps an object or a view (R143, R223). -/
def overlaps (s : State) (base n : Nat) : Bool :=
  s.objects.any (fun o => runsMeet base n o.2.base (o.2.pages * 65536))
    || s.views.any (fun v => !v.2.hidden && runsMeet base n v.2.base
      ((match objAt s v.2.obj with | some o => o.pages | none => 0) * 65536))

/-- The key slot of a context's context key, if LOADED; slot 0 otherwise (R433). -/
def ctxSlot (s : State) (c : Ctx) : Nat :=
  match s.keys.find? (fun k => k.2.kind == 0 && k.2.ctx == some c && k.2.key.isSome) with
  | some k => k.1
  | none => 0

/-- Adds an object with its one content; the outcome is its number. -/
def addObject (s : State) (o : Obj) : State × Nat :=
  let n := freeKey s.objects s.objects.length 0
  let k := s.nextContent
  ({ s with objects := mput s.objects n { o with head := k, slot := ctxSlot s o.owner },
            contents := mput s.contents k { obj := n }, nextContent := k + 1 }, n)

/-- Frames for every page of a Scratch object, above the absorption reserves (R152, R168); none if they are not
free. -/
def allocScratch (s : State) (n : Nat) (o : Obj) : Nat → Nat → Option State
  | 0, _ => some s
  | k + 1, ix =>
    match findFrames s n o ix false with
    | some fs => allocScratch (allocFrames s (pageKey o.head ix) o fs .dirty false) n o k (ix + 1)
    | none => none

/-- Creates an object; a Scratch object takes all its frames. None where they are not free. -/
def createObject (s : State) (o : Obj) : Option (State × Nat) :=
  let (s, n) := addObject s o
  if o.cls = .scratch then
    match objAt s n with
    | some o => (allocScratch s n o o.pages 0).map (fun s => (s, n))
    | none => none
  else some (s, n)

/-- The contents of an object. -/
def contentsOf (s : State) (n : Nat) : List Nat := (s.contents.filter (fun c => c.2.obj == n)).map (·.1)

/-- Answers the loads that wait for a run of device addresses with poisoned data, and no event (R156). -/
def answerWaits (s : State) (p : Waiting → Bool) : State :=
  let ws := s.waits.filter p
  ws.foldl (fun s w => match w.store with
    | none => sendRead s w.port w.src w.tag w.noData zeroLine true w.mv
    | some _ => sendDone s w.port w.src w.tag w.mv) { s with waits := s.waits.filter (fun w => !p w) }

/-- Recalls every line of a run of device addresses that a host holds (R207, R220). -/
def recallRun (s : State) (base n : Nat) : State :=
  (s.directory.filter (fun d => decide (base ≤ d.1 * 64) && decide (d.1 * 64 < base + n) && d.2.st != .recalling)).foldl
    (fun s d =>
      let ts := sharersOf s (d.1 * 64) d.2
      if ts.isEmpty then putDir s (d.1 * 64) none else startRecall s (d.1 * 64) d.2 ts false none) s

/-- The ring commands on an object that is deleted end with NO_OBJECT (R161, R403). -/
def endObjectCmds (s : State) (n : Nat) : State :=
  let waiting := (s.scheduled.filter (fun (x : Nat × Nat × MoverCmd) => x.2.1 == n)).map (fun x => x.2.2)
  let mine := match objAt s n with
    | some o => o.mover.promos ++ o.mover.cancelled ++ o.mover.flushes ++ o.mover.evict.toList
    | none => []
  (waiting ++ mine).foldl (fun s c => endMoverCmd s c stNoObject [0, 0]) s

/-- Notes the frames of a deleted window's pages: their zero fill goes through the directory (R217). -/
def noteWindowFrames (s : State) (o : Obj) (pids : List Nat) : State :=
  pids.foldl (fun s pid => (pageAt s pid).frames.foldl (fun s fr =>
    { s with windowDirty := mput s.windowDirty fr (o.base + pidIx pid * 65536) }) s) s

/-- Deletes an object with its contents, views, pins and window (R156, R207). -/
def deleteObject (s : State) (n : Nat) : State :=
  match objAt s n with
  | none => s
  | some o =>
    let cs := contentsOf s n
    let mine := fun (w : Waiting) => match targetOf s w.dev with | some t => t.obj == n | none => false
    let s := if s.windows.any (fun w => w.2.obj == n) then recallRun s o.base (o.pages * 65536) else s
    let s := answerWaits s (fun w => w.why != .entry && w.store.isNone && mine w)
    let pids := (s.pages.filter (fun p => cs.contains (pidContent p.1))).map (·.1)
    let s := if s.windows.any (fun w => w.2.obj == n) then noteWindowFrames s o pids else s
    let s := endObjectCmds (pids.foldl dropPage s) n
    { s with objects := mdel s.objects n
             contents := s.contents.filter (fun c => c.2.obj != n)
             views := s.views.filter (fun v => v.2.obj != n)
             windows := s.windows.filter (fun w => w.2.obj != n)
             pins := s.pins.filter (fun p => p % 0x1000000 != n)
             scheduled := s.scheduled.filter (fun x => x.2.1 != n) }

/-- A ring error (R391, R395, R396). -/
def ringError (s : State) (c : Ctx) (code : Nat) : State :=
  let s := s.modCtx c (fun x => { x with ring := { x.ring with error := true, errCode := BitVec.ofNat 4 code } })
  sendMsix (setInt s 10 0) (.vf c) 1

/-- Creates one ring object (R389): the outcome, or the error code. -/
def ringObject (s : State) (c : Ctx) (base : Nat) (order : BitVec 4) : Except Nat (State × Nat) :=
  let pages := ceilDiv (ringSize order * 64) 65536
  if !grantedRun s c base (pages * 65536) || base % 65536 != 0 then .error 1
  else if overlaps s base (pages * 65536) then .error 2
  else if 16777216 ≤ s.objects.length then .error 3
  else match createObject s { base := base, pages := pages, cls := .scratch, layout := .interleaved, owner := c, head := 0, ring := true } with
    | some r => .ok r
    | none => .error 3

/-- Fields of MB_RING_CTRL other than EN (R404). -/
def setOrders (s : State) (c : Ctx) (value : Word) : State :=
  let r := (s.ctx c).ring
  if r.enabled || r.draining then s else
  let f := fun (lo : Nat) (old : BitVec 4) => let v := bits value.toNat lo 4; if 4 ≤ v ∧ v ≤ 12 then BitVec.ofNat 4 v else old
  s.modCtx c (fun x => { x with ring := { x.ring with wrOrder := f 4 x.ring.wrOrder, erOrder := f 8 x.ring.erOrder } })

/-- Both ring objects stand: ENABLED is set, and both rings are empty in their first pass (R389). -/
def ringsOn (s : State) (c : Ctx) (a b : Nat) : State :=
  s.modCtx c (fun x => { x with ring := { x.ring with
    en := true, enabled := true, error := false, errCode := 0, wrHead := 0, wrTail := 0, erHead := 0, erTail := 0, phase := true,
    written := 0, dropped := 0, sinceOvf := 0, wrObj := some a, erObj := some b, flights := [] } })

/-- What follows the making of a ring object: an error code, or the state with the object's number. -/
def ringOutcome (x : Except Nat (State × Nat)) (bad : Nat → State) (good : State → Nat → State) : State :=
  match x with
  | .error e => bad e
  | .ok (s, a) => good s a

/-- Both ring objects (R389). -/
def makeRings (s : State) (c : Ctx) : State :=
  ringOutcome (ringObject s c (s.ctx c).ring.wrBase.toNat (s.ctx c).ring.wrOrder) (ringError s c) (fun s1 a =>
    ringOutcome (ringObject s1 c (s.ctx c).ring.erBase.toNat (s.ctx c).ring.erOrder) (ringError s c) (fun s2 b =>
      ringsOn s2 c a b))

/-- A write of 1 to MB_RING_CTRL.EN (R389, R404). -/
def enableRings (s : State) (c : Ctx) : State :=
  if (s.ctx c).ring.draining then s
  else if (s.ctx c).ring.enabled then s.modCtx c (fun x => { x with ring := { x.ring with error := false, errCode := 0 } })
  else makeRings s c

/-- A write of 0 to MB_RING_CTRL.EN (R390). -/
def disableRings (s : State) (c : Ctx) : State :=
  if (s.ctx c).ring.enabled then s.modCtx c (fun x => { x with ring := { x.ring with en := false, draining := true } }) else s

/-- Deletes the ring objects of a context. -/
def deleteRings (s : State) (c : Ctx) : State :=
  let r := (s.ctx c).ring
  let s := (r.wrObj.toList ++ r.erObj.toList).foldl deleteObject s
  s.modCtx c (fun x => { x with ring := { x.ring with wrObj := none, erObj := none, enabled := false, draining := false } })

/-- The doorbell page returns to its reset values (R349, R390). -/
def resetRing (s : State) (c : Ctx) : State := (deleteRings s c).modCtx c (fun x => { x with ring := {} })

/-- A write of MB_WR_PTR.TAIL (R391). -/
def doorbell (s : State) (c : Ctx) (value : Word) : State :=
  let r := (s.ctx c).ring
  if !r.enabled then s else
  let n := ringSize r.wrOrder
  let t := bits value.toNat 0 12
  let dist := fun (x : Nat) => (x + n - r.wrHead.toNat) % n
  if t < n ∧ dist r.wrTail.toNat ≤ dist t then
    s.modCtx c (fun x => { x with ring := { x.ring with wrTail := BitVec.ofNat 12 t } })
  else ringError s c 4

/-- A write of MB_ER_PTR.HEAD (R393, R395), which reads back as written (R10). DESIGN CHOICE (log 129): the spec gives no rule for a
value at or above the ring's size; `erUsed` counts with it modulo the size. -/
def headWrite (s : State) (c : Ctx) (value : Word) : State :=
  flushOverflow (s.modCtx c (fun x => { x with ring := { x.ring with
    erHead := BitVec.ofNat 12 (bits value.toNat 0 12), written := 0 } })) c

/-- The opcode of a work-ring entry (R396). -/
def entryOp (e : Line) : Nat := bits e.toNat 0 16

/-- A field of an entry, by its byte offset and size. -/
def entryField (e : Line) (off n : Nat) : Nat := bits e.toNat (8 * off) (8 * n)

/-- The bytes of an entry that are used by its command: the parameter fields of R397 as offsets and sizes. -/
def entryLayout (op : Nat) : List (Nat × Nat) :=
  match op with
  | 1 => [(8, 4), (12, 2), (16, 8), (24, 4)]
  | 2 => [(8, 4), (12, 4), (16, 4), (24, 8), (32, 8)]
  | 3 => [(8, 4), (16, 8)]
  | 4 => [(8, 4), (12, 4), (16, 4)]
  | 5 => [(8, 4), (16, 8), (24, 8), (32, 8), (40, 8)]
  | 6 => [(8, 4), (16, 8), (24, 8), (32, 8), (40, 8)]
  | 7 => [(8, 4), (16, 8), (24, 8), (32, 8), (40, 8), (48, 8)]
  | 8 => [(8, 8), (16, 8), (24, 8)]
  | 9 => [(8, 8), (16, 8), (24, 8)]
  | 10 => [(8, 8), (16, 8), (24, 8)]
  | 11 => [(8, 8), (16, 8), (24, 1), (25, 1)]
  | 12 => [(8, 8), (16, 1), (17, 1), (24, 8), (32, 8)]
  | 13 => [(8, 8), (16, 8), (24, 4)]
  | 14 => [(8, 8), (16, 8), (24, 4)]
  | 16 => [(8, 2), (12, 4), (16, 8), (24, 8), (32, 4)]
  | _ => []

/-- An entry has a reserved field or encoding (R14, R396, R397). -/
def entryReserved (e : Line) : Bool :=
  let op := entryOp e
  let f := entryField e
  let used := entryLayout op
  let unused := (List.range 56).any (fun i =>
    let b := i + 8
    !used.any (fun u => decide (u.1 ≤ b) && decide (b < u.1 + u.2)) && f b 1 != 0)
  decide (op = 0) || decide (16 < op) || f 3 1 != 0 || decide ((if op = 1 then 3 else 1) < f 2 1) || unused
    || (op == 1 && decide (1024 < f 12 2) && f 12 2 != 0xFFFF)
    || (op == 11 && (decide (1 < f 24 1) || decide (2 < f 25 1)))
    || (op == 12 && (decide (12 < f 16 1) || decide (1 < f 17 1) || (decide (10 ≤ f 16 1) && f 17 1 == 1)))

/-- What taking an entry comes to. -/
inductive Taken where
  | notTaken
  | ended (s : State)
  | taken (s : State) (tag : Word)

/-- The conditions under which the walker takes the next entry (R392, R410). -/
def walkerReady (s : State) (c : Ctx) (e : Line) : Bool :=
  let r := (s.ctx c).ring
  let st := entryOp e == 16
  r.enabled && !r.draining && r.wrHead != r.wrTail && !mhas s.rv.unpicks c.val
    && !(bit (entryField e 2 1) 0 && !r.flights.isEmpty)
    && decide ((r.flights.filter (fun f => !f.steward)).length < 64)
    && !(st && decide (4 ≤ (r.flights.filter (·.steward)).length))
    && decide (1 ≤ erFree r)

/-- Restarts a lease at its full length (R208). -/
def restartLease (s : State) (c : Ctx) : State :=
  s.modCtx c (fun x => if x.expired then x else { x with leaseFrom := s.ft.run })

/-- The line of a work ring at HEAD as the walker reads it. -/
def ringLine (s : State) (c : Ctx) : State × List Byte × Bool :=
  let r := (s.ctx c).ring
  let dev := r.wrBase.toNat + r.wrHead.toNat * 64
  match targetOf s dev with
  | some t => readPage s { path := 6, ctx := some c, checks := false } t.order t.pid dev
  | none => (s, zeroLine, true)

/-- The walker takes the entry at HEAD (R391, R392, R396), which is `e`: HEAD advances, an event-ring entry is
reserved, the lease restarts, and the common statuses are judged. `op` is the command that takes it. -/
def takeEntry (s : State) (c : Ctx) (e : Line) (op : Nat) : Taken :=
  if !walkerReady s c e || (entryOp e != op && decide (1 ≤ entryOp e) && decide (entryOp e ≤ 16)) then .notTaken else
  let (s, bs, poison) := ringLine s c
  if poison then
    .ended (ringError (s.modCtx c (fun x => { x with ring := { x.ring with
      wrHead := BitVec.ofNat 12 ((x.ring.wrHead.toNat + 1) % ringSize x.ring.wrOrder) } })) c 5)
  else if bytesLine bs != e then .notTaken else
  let tag : Word := BitVec.ofNat 32 (entryField e 4 4)
  let f : Flight := { tag := tag, opcode := BitVec.ofNat 16 (entryOp e), steward := entryOp e == 16 }
  let s := s.modCtx c (fun x => { x with ring := { x.ring with
    wrHead := BitVec.ofNat 12 ((x.ring.wrHead.toNat + 1) % ringSize x.ring.wrOrder), flights := x.ring.flights ++ [f] } })
  let s := restartLease s c
  let x := s.ctx c
  let st := if entryReserved e then stReserved else if s.rv.outOfService then stOutOfService
    else if x.expired then stLeaseExpired else if x.quarantined && entryOp e != 16 then stQuarantined else stOK
  if st = stOK then .taken s tag else .ended (endFlight s c tag (BitVec.ofNat 16 (entryOp e)) st [])

/-- A work-ring command: the taking of its entry, and its effect. -/
def ringCmd (s : State) (c : Ctx) (e : Line) (op : Nat) (f : State → Word → State) : State :=
  match takeEntry s c e op with
  | .notTaken => s
  | .ended s => s
  | .taken s tag => f s tag

/-- The doorbell (R391). -/
def execWorkRingDoorbell (c : Ctx) (value : Word) (s : State) : Out := .next (doorbell s c value)

/-- A write of MB_ER_PTR.HEAD (R395). -/
def execEventRingHeadWrite (c : Ctx) (value : Word) (s : State) : Out := .next (headWrite s c value)

/-- A write of MB_RING_CTRL with EN 1 (R389). -/
def execRingEnable (c : Ctx) (value : Word) (s : State) : Out :=
  ifApplies (ctxEnabled s c) s (enableRings (setOrders s c value) c)

/-- A write of MB_RING_CTRL with EN 0 (R390). -/
def execRingDisable (c : Ctx) (value : Word) (s : State) : Out :=
  ifApplies (ctxEnabled s c) s (disableRings (setOrders s c value) c)

/-- The drain of the rings ends (R390). -/
def execRingDrainComplete (c : Ctx) (s : State) : Out :=
  let r := (s.ctx c).ring
  ifApplies (r.draining && r.flights.isEmpty) s (deleteRings s c)

/-- The TIME condition of MB_ER_INT (R395). -/
def execEventRingInterruptTimer (c : Ctx) (s : State) : Out :=
  let r := (s.ctx c).ring
  ifApplies (r.enabled && r.intEn && r.intTime != 0 && decide (0 < r.written)) s (sendMsix s (.vf c) 0)

/-- The completion of a command that has ended (R392 to R394): the first to have ended of those whose writes have all taken effect. -/
def postCompletion (s : State) (c : Ctx) (tag : Word) : State :=
  let r := (s.ctx c).ring
  match r.flights.findIdx? (fun f => f.ended.isSome && !deviceQueued s c f.tag) with
  | none => s
  | some i =>
    if !r.enabled then s else
    match r.flights[i]? with
    | some f =>
      if f.tag ≠ tag then s else
      match f.ended with
      | some (st, words) =>
        let s := ringEntry s c 1 f.opcode.toNat st.toNat (tag :: words)
        s.modCtx c (fun x => { x with ring := { x.ring with flights := x.ring.flights.eraseIdx i } })
      | none => s
    | none => s

/-- COMPLETION_POST (R394). -/
def execCompletionPost (c : Ctx) (tag : Word) (s : State) : Out := .next (postCompletion s c tag)

/-- NOP completes with OK (R397). -/
def execNop (c : Ctx) (entry : Line) (s : State) : Out :=
  .next (ringCmd s c entry 15 (fun s tag => endFlight s c tag 15 stOK []))

end Sys2Proof.Machine
end

