-- ==== Sys2Proof/Machine/NearMem.lean ====
section
/-! DEFINITION. The near-memory operations of the work ring (R398), with the atomic operations of R94, and the pages
that a device command waits for (R195). -/

namespace Sys2Proof.Machine

/-- A device command's own pin on the pages it touches (R195, R398), kept among the step pins. -/
def cmdPin (c : Ctx) (tag : Word) : Nat := (c.val + 1) * 0x100000000 + tag.toNat

/-- The pages that runs of device addresses touch, each once. -/
def runPids (s : State) (runs : List (Nat × Nat)) : List Nat :=
  (runs.flatMap (fun (r : Nat × Nat) =>
    if r.2 = 0 then [] else
    (List.range ((r.1 + r.2 - 1) / 65536 + 1 - r.1 / 65536)).filterMap (fun i =>
      (targetOf s ((r.1 / 65536 + i) * 65536)).map (fun t => t.pid)))).foldl (fun l a => linsert a l) []

/-- A device command waits for a page: its home is still to be read, or its fetch or copy is in progress (R157). -/
def pageMissing (s : State) (pid : Nat) : Bool :=
  match (pageAt s pid).st with
  | .home | .fetching => true
  | _ => false

/-- Sets a run's or a device command's pins on pages (R160, R195). -/
def pinPages (s : State) (key : Nat) (pids : List Nat) : State :=
  pids.foldl (fun s p => s.modPage p (fun x => { x with stepPins := linsert key x.stepPins })) s

/-- A page loses the step pins of some keys at a boundary count; that counts as its last use (R145). -/
def Page.unpin (p : Page) (run : Nat) (gone : Nat → Bool) : Page :=
  if p.stepPins.any gone then
    { p with stepPins := p.stepPins.filter (fun k => !gone k), lastUse := if p.frames.isEmpty then p.lastUse else run }
  else p

/-- Clears pins on every page; a page that nothing is then known of needs no entry. -/
def unpinAll (s : State) (gone : Nat → Bool) : State :=
  { s with pages := (s.pages.map (fun (x : Nat × Page) => (x.1, x.2.unpin s.ft.run gone))).filter (fun (x : Nat × Page) => x.2 != {}) }

/-- Clears a run's or a command's pins on every page. -/
def unpinPages (s : State) (key : Nat) : State := unpinAll s (fun k => k == key)

/-- Requests the pages that are not resident, as a tier miss does (R167, R195). -/
def fetchMissing (s : State) (pids : List Nat) : State :=
  (pids.filter (fun p => (pageAt s p).st == .home)).foldl (fun s p => requestFetch s p .miss) s

/-- The runs of device addresses of a near-memory entry. -/
def nmRuns (e : Line) : List (Nat × Nat) :=
  let f := entryField e
  match entryOp e with
  | 8 => [(f 8 8, f 16 8)]
  | 9 => [(f 8 8, f 24 8), (f 16 8, f 24 8)]
  | 10 => [(f 8 8, f 24 8), (f 16 8, f 24 8)]
  | 11 => [(f 8 8, f 16 8)]
  | 14 => [(f 16 8, f 24 4 * 65536)]
  | 16 => [(f 16 8, f 12 4), (f 24 8, f 32 4)]
  | _ => [(f 8 8, 8)]

/-- A near-memory entry completes with RANGE (R398). -/
def nmRange (e : Line) : Bool :=
  let k := match entryOp e with | 11 => 128 | 12 => 8 | _ => 64
  (nmRuns e).any (fun r => r.1 % k != 0 || r.2 % k != 0)
    || (entryOp e == 9 && runsMeet (entryField e 8 8) (entryField e 24 8) (entryField e 16 8) (entryField e 24 8))

/-- How the findings of a device read name it (R296): a read by the steward has no context, and a swap out is checked at the
module's exit (R275). -/
def DevWriter.readBy (w : DevWriter) (swap : Bool) : Reader :=
  if swap then { w.reader with path := 3, checks := true }
  else if w.master = 14 then { w.reader with ctx := none } else w.reader

/-- The read of one line by a device command. -/
def devRead (s : State) (w : DevWriter) (swap : Bool) (dev : Nat) : State × List Byte × Bool :=
  match targetOf s dev with
  | some t =>
    let s := deviceTraffic s w t (loadFrame (pageAt s t.pid)).toList dev false
    readPage s (w.readBy swap) t.order t.pid dev
  | none => (s, zeroLine, false)

/-- The read of one line by a near-memory operation. -/
def nmRead (s : State) (c : Ctx) (tag : Word) (dev : Nat) : State × List Byte × Bool := devRead s (walkerOf c tag) false dev

/-- The seal that a copy or an encoder takes for a granule with its bytes (R192, R274, R276): the one stored of a firm frame; the
CRC-32C of the bytes as read of a light frame, or of a page without content. -/
def takenSeal (s : State) (pid dev : Nat) (bs : List Byte) : Word :=
  match (pageAt s pid).st, loadFrame (pageAt s pid) with
  | .absent, _ => crc32c bs
  | _, some fr => if isLight s fr then crc32c bs else sealOf s ((fr * 65536 + dev % 65536) / 256)
  | _, none => crc32c bs

/-- A run of lines in pieces that lie in one granule each: the number of lines before an address's granule ends, at most those left. -/
def granuleLines (dest left : Nat) : Nat := min left (4 - dest / 64 % 4)

/-- Walks a run of lines granule by granule of its destination: offset and lines of each piece. -/
def granuleWalk {α : Type} (dest : Nat) (f : Nat → Nat → α → α) : Nat → Nat → Nat → α → α
  | 0, _, _, s => s
  | _, _, 0, s => s
  | fuel + 1, i, left, s =>
    let n := granuleLines (dest + 64 * i) left
    granuleWalk dest f fuel (i + n) (left - n) (f i n s)

/-- NM_FILL: PATTERN repeatedly (R398); a whole granule is written with the seal that the fill makes (R270, R274). -/
def nmFillRun (s : State) (c : Ctx) (tag : Word) (dest len pat : Nat) : State :=
  let line := (List.range 8).flatMap (fun _ => leBytes 8 pat)
  let gran := line ++ line ++ line ++ line
  let w := walkerOf c tag
  let s := granuleWalk dest (fun i n s =>
    if n = 4 then deviceGranule s w (dest + 64 * i) gran [] (crc32c gran)
    else foldN n (fun j s => deviceReq s w (dest + 64 * (i + j)) line 255 [] false) s) (len / 64) 0 (len / 64) s
  endFlight s c tag 8 stOK (w2 len)

/-- The reads of the lines of a copy: their bytes, and the poison of each. -/
def nmReadLines (s : State) (c : Ctx) (tag : Word) (src n : Nat) : State × List (List Byte × Bool) :=
  foldN n (fun j (x : State × List (List Byte × Bool)) =>
    let (s, bs, p) := nmRead x.1 c tag (src + 64 * j)
    (s, x.2 ++ [(bs, p)])) (s, [])

/-- A granule's worth of a copy: a whole granule of the destination that is a whole granule of the source is copied with its seal
(R270, R274); other lines are narrow writes. The outcome adds the poisoned lines to a count. -/
def nmCopyPart (c : Ctx) (tag : Word) (src dest i n : Nat) (x : State × Nat) : State × Nat :=
  let w := walkerOf c tag
  let a := src + 64 * i
  let (s, ls) := nmReadLines x.1 c tag a n
  let bad := (ls.filter (·.2)).length
  if n = 4 && a % 256 == 0 then
    let bs := ls.flatMap (·.1)
    let sv := match targetOf s a with | some t => takenSeal s t.pid a bs | none => crc32c bs
    (deviceGranule s w (dest + 64 * i) bs (ls.map (·.2)) sv, x.2 + bad)
  else
    (foldN n (fun j s => let y := ls.getD j ([], false); deviceReq s w (dest + 64 * (i + j)) y.1 255 [] y.2) s, x.2 + bad)

/-- NM_COPY: line by line, with its poison (R398). -/
def nmCopyRun (s : State) (c : Ctx) (tag : Word) (src dest len : Nat) : State :=
  let (s, n) := granuleWalk dest (nmCopyPart c tag src dest) (len / 64) 0 (len / 64) (s, 0)
  endFlight s c tag 9 (if n = 0 then 0 else 1) (w2 len ++ w1 n)

/-- The first differing byte of two lines. -/
def firstDiff (a b : List Byte) : Option Nat := (List.range 64).find? (fun i => a.getD i 0 != b.getD i 0)

/-- NM_COMPARE from a line on: the status and the offset (R398). -/
def nmCompareGo (s : State) (c : Ctx) (tag : Word) (a b : Nat) : Nat → Nat → State × Nat × Nat
  | 0, _ => (s, 0, 0xFFFFFFFFFFFFFFFF)
  | n + 1, off =>
    let (s, x, p) := nmRead s c tag (a + off)
    let (s, y, q) := nmRead s c tag (b + off)
    if p || q then (s, 1, off)
    else match firstDiff x y with
      | some i => (s, 0, off + i)
      | none => nmCompareGo s c tag a b n (off + 64)

/-- The combination of two values by NM_REDUCE: TYPE 0 FP32 or 1 INT32, OP sum, minimum, maximum (R93, R398). -/
def reduce2 (ty op : Nat) (a b : Nat) : Nat :=
  match ty, op with
  | 0, 0 => (fpAdd32 .rne false a b).1
  | 0, 1 => fpMin32 a b
  | 0, _ => fpMax32 a b
  | _, 0 => wrapN 32 (sgn32 a + sgn32 b)
  | _, 1 => if sgn32 b < sgn32 a then b else a
  | _, _ => if sgn32 a < sgn32 b then b else a

/-- One level of the lane tree (R93). -/
def treeLevel (f : Nat → Nat → Nat) : List Nat → List Nat
  | a :: b :: l => f a b :: treeLevel f l
  | l => l

/-- The lane tree of R93 over 32 lanes. -/
def laneTree (f : Nat → Nat → Nat) (l : List Nat) : Nat :=
  (treeLevel f (treeLevel f (treeLevel f (treeLevel f (treeLevel f l))))).headD 0

/-- NM_REDUCE (R398): each vector under R93, the vector results in ascending address order; a poisoned line enters as zeros
(R100). A run of no vector has no result that the spec gives: the value is free. -/
def nmReduceRun (s : State) (c : Ctx) (tag : Word) (src len ty op : Nat) : State :=
  let f := reduce2 ty op
  let (s, r, bad) := foldN (len / 128) (fun i (x : State × Option Nat × Bool) =>
    let (s, a, p) := nmRead x.1 c tag (src + 128 * i)
    let (s, b, q) := nmRead s c tag (src + 128 * i + 64)
    let v := laneTree f (elems 4 ((if p then zeroLine else a) ++ (if q then zeroLine else b)))
    (s, some (match x.2.1 with | some y => f y v | none => v), x.2.2 || p || q)) (s, none, false)
  match r with
  | some v => endFlight s c tag 11 (if bad then 1 else 0) (w1 v)
  | none => endFlight s.tick c tag 11 0 [Config.freeWord s.free]

/-- The bytes of a run of device addresses, and whether a line of it is poisoned. -/
def devBytes (s : State) (w : DevWriter) (addr len : Nat) : State × List Byte × Bool :=
  if len = 0 then (s, [], false) else
  let first := addr / 64
  let (s, bs, bad) := foldN ((addr + len - 1) / 64 + 1 - first) (fun i (x : State × List Byte × Bool) =>
    let (s, b, p) := devRead x.1 w false ((first + i) * 64)
    (s, x.2.1 ++ b, x.2.2 || p)) (s, [], false)
  (s, (bs.drop (addr % 64)).take len, bad)

/-- A STEWARD entry whose buffers are resident is handed to the steward (R397): its input payload is read. -/
def handSteward (s : State) (c : Ctx) (e : Line) (tag : Word) : State :=
  let f := entryField e
  let (s, bs, _) := devBytes s (stewardOf c tag) (f 16 8) (f 12 4)
  s.modCtx c (fun x => { x with ring := { x.ring with
    flights := x.ring.flights.map (fun (g : Flight) =>
      if g.steward && g.tag == tag && g.mci == 0 && g.ended.isNone then
        { g with mci := BitVec.ofNat 16 (f 8 2), input := bs, outAddr := f 24 8, outLen := f 32 4 }
      else g) } })

/-- SWAP_OUT (R399): device-mastered writes of the Max Payload Size, 512 bytes; one that carries a poisoned line is sent with EP (R346). -/
def swapOutRun (s : State) (c : Ctx) (tag : Word) (host dev pages : Nat) : State :=
  let s := foldN (pages * 128) (fun i s =>
    let (s, ls, bad) := foldN 8 (fun j (x : State × List Byte × Bool) =>
      let (s, bs, p) := devRead x.1 (walkerOf c tag) true (dev + 512 * i + 64 * j)
      (s, x.2.1 ++ bs, x.2.2 || p)) (s, [], false)
    s.emit (.upWrite c (BitVec.ofNat 64 (host + 512 * i)) ls bad)) s
  endFlight s c tag 14 stOK (w1 pages)

/-- Carries out a near-memory command whose pages are resident. -/
def nmAct (s : State) (c : Ctx) (e : Line) : State :=
  let f := entryField e
  let tag : Word := BitVec.ofNat 32 (f 4 4)
  match entryOp e with
  | 8 => nmFillRun s c tag (f 8 8) (f 16 8) (f 24 8)
  | 9 => nmCopyRun s c tag (f 8 8) (f 16 8) (f 24 8)
  | 10 =>
    let (s, st, off) := nmCompareGo s c tag (f 8 8) (f 16 8) (f 24 8 / 64) 0
    endFlight s c tag 10 st (w2 off)
  | 11 => nmReduceRun s c tag (f 8 8) (f 16 8) (f 24 1) (f 25 1)
  | 14 => swapOutRun s c tag (f 8 8) (f 16 8) (f 24 4)
  | 16 => handSteward s c e tag
  | _ =>
    let n := if f 17 1 = 0 then 4 else 8
    deviceReq s (walkerOf c tag) (f 8 8) (leBytes n (f 24 8)) (f 16 1) (leBytes n (f 32 8)) false

/-- Runs a near-memory command, or holds it until its pages are resident, with its pins (R195, R398), and accesses to their stacks do
not wait (R65). -/
def nmRun (s : State) (c : Ctx) (e : Line) : State :=
  let tag : Word := BitVec.ofNat 32 (entryField e 4 4)
  let pids := runPids s (nmRuns e)
  if pids.any (fun p => pageMissing s p || pageWaits s p) then
    let s := pinPages (fetchMissing s pids) (cmdPin c tag) pids
    { s with nmWaits := s.nmWaits ++ [(c, e)] }
  else unpinPages (nmAct s c e) (cmdPin c tag)

/-- A near-memory command as the walker takes it (R397, R398). -/
def nmCmd (s : State) (c : Ctx) (e : Line) (op : Nat) : State :=
  ringCmd s c e op (fun s tag =>
    if nmRange e then endFlight s c tag (BitVec.ofNat 16 op) stRange []
    else if !(nmRuns e).all (fun r => r.2 == 0 || grantedRun s c r.1 r.2) then endFlight s c tag (BitVec.ofNat 16 op) stDenied []
    else nmRun s c e)

/-- Near-memory commands that wait for pages try again. -/
def resumeNm (s : State) : State :=
  s.nmWaits.foldl (fun s w => nmRun s w.1 w.2) { s with nmWaits := [] }

/-- NM_FILL (R398). -/
def execNmFill (c : Ctx) (entry : Line) (s : State) : Out := .next (nmCmd s c entry 8)

/-- NM_COPY (R398). -/
def execNmCopy (c : Ctx) (entry : Line) (s : State) : Out := .next (nmCmd s c entry 9)

/-- NM_COMPARE (R398). -/
def execNmCompare (c : Ctx) (entry : Line) (s : State) : Out := .next (nmCmd s c entry 10)

/-- NM_REDUCE (R398). -/
def execNmReduce (c : Ctx) (entry : Line) (s : State) : Out := .next (nmCmd s c entry 11)

/-- NM_ATOMIC (R398). -/
def execNmAtomic (c : Ctx) (entry : Line) (s : State) : Out := .next (nmCmd s c entry 12)

/-- A run of device addresses lies in objects that a context can reach (R169, R397). -/
def reachesRun (s : State) (c : Ctx) (addr len : Nat) : Bool :=
  (List.range (if len = 0 then 0 else (addr + len - 1) / 65536 + 1 - addr / 65536)).all (fun i =>
    match targetOf s ((addr / 65536 + i) * 65536) with
    | some t => reaches s c t.o
    | none => false)

/-- STEWARD (R397): the entry is handed to the steward once its buffers are resident. -/
def execSteward (c : Ctx) (entry : Line) (s : State) : Out :=
  .next (ringCmd s c entry 16 (fun s tag =>
    if !(nmRuns entry).all (fun r => reachesRun s c r.1 r.2) then endFlight s c tag 16 stDenied []
    else nmRun s c entry))

end Sys2Proof.Machine
end

