-- ==== Sys2Proof/Machine/Swaps.lean ====
section
/-! DEFINITION. Swaps and the completions of device-mastered reads (R347, R348, R399). -/

namespace Sys2Proof.Machine

/-- A run of device addresses lies in objects of a context, outside every coherent window (R399). -/
def swapRange (s : State) (c : Ctx) (dev pages : Nat) : Bool :=
  (List.range pages).all (fun i => match objOf s (dev + 65536 * i) with
    | some (n, o) => o.owner == c && !s.windows.any (fun (w : Nat × Window) => w.2.obj == n)
    | none => false)

/-- The status that refuses a swap at its taking, or OK. -/
def swapStatus (s : State) (c : Ctx) (e : Line) : Nat :=
  let f := entryField e
  if !(s.ctx c).swapGrant then 0x73
  else if !(s.ctx c).bme then 0x90
  else if f 8 8 % 4096 != 0 || f 16 8 % 65536 != 0 || !swapRange s c (f 16 8) (f 24 4) then stRange
  else stOK

/-- The next 4,096 bytes of a SWAP_IN are requested of the host (R347): a request of the Max Read Request Size. -/
def swapRead (s : State) (u : Upstream) : State :=
  s.emit (.upRead u.ctx (BitVec.ofNat 64 (u.host + u.moved)) 4096 u.tag)

/-- SWAP_IN starts with its first read. -/
def swapInRun (s : State) (c : Ctx) (e : Line) (tag : Word) : State :=
  let f := entryField e
  let u : Upstream := { ctx := c, tag := tag, host := f 8 8, dev := f 16 8, pages := f 24 4 }
  if u.pages = 0 then endFlight s c tag 13 stOK (w1 0)
  else swapRead { s with upstream := s.upstream ++ [u] } u

/-- SWAP_IN (R399). -/
def execSwapIn (c : Ctx) (entry : Line) (s : State) : Out :=
  .next (ringCmd s c entry 13 (fun s tag =>
    let st := swapStatus s c entry
    if st = stOK then swapInRun s c entry tag else endFlight s c tag 13 st (w1 0)))

/-- SWAP_OUT (R399). -/
def execSwapOut (c : Ctx) (entry : Line) (s : State) : Out :=
  .next (ringCmd s c entry 14 (fun s tag =>
    let st := swapStatus s c entry
    if st = stOK then nmRun s c entry else endFlight s c tag 14 st (w1 0)))

/-- A swap that reads ends with a status: it reports the whole pages that it moved. -/
def endSwap (s : State) (u : Upstream) (status : Nat) : State :=
  endFlight { s with upstream := s.upstream.erase u } u.ctx u.tag 13 status (w1 (u.moved / 65536))

/-- The data of a completion is written, with poison under EP (R346). -/
def swapData (s : State) (u : Upstream) (ep : Bool) (data : List Line) : State :=
  let n := min data.length ((4096 - u.moved % 4096) / 64)
  let s := foldN n (fun i s => deviceWrite s (walkerOf u.ctx u.tag) (u.dev + u.moved + 64 * i) (lineBytes (data.getD i 0)) ep) s
  let v := { u with moved := u.moved + 64 * n }
  let s := { s with upstream := s.upstream.map (fun x => if x == u then v else x) }
  if v.moved = v.pages * 65536 then endSwap s v stOK
  else if v.moved % 4096 = 0 then swapRead s v else s

/-- The swap that a completion belongs to. -/
def swapOf (s : State) (c : Ctx) (tag : Word) : Option Upstream := s.upstream.find? (fun u => u.ctx == c && u.tag == tag)

/-- UPSTREAM_COMPLETION (R347); a completion that no swap waits for is discarded (R348). -/
def execUpstreamCompletion (c : Ctx) (tag : Word) (successful : Bool) (ep : Bool) (data : List Line) (s : State) : Out :=
  match swapOf s c tag with
  | none => .next s
  | some u => .next (if successful then swapData s u ep data else endSwap s u 0x91)

/-- UPSTREAM_COMPLETION_TIMEOUT (R347). -/
def execUpstreamCompletionTimeout (c : Ctx) (tag : Word) (s : State) : Out :=
  match swapOf s c tag with
  | none => .next s
  | some u => .next (endSwap s u 0x92)

/-- Bus Master Enable of a context's function is clear: its swaps end (R348). -/
def endSwaps (s : State) (c : Ctx) (status : Nat) : State :=
  (s.upstream.filter (fun u => u.ctx == c)).foldl (fun s u => endSwap s u status) s

end Sys2Proof.Machine
end

