-- ==== Sys2Proof/Machine/Operands.lean ====
section
/-! DEFINITION. The operand forms of a core's instructions: the fields of the ACW (R76), vector registers and lane
masks (R108), the bobbin with its poison marks (R114, R118) and the addresses of class 13 (R110). -/

namespace Sys2Proof.Machine

/-- The bytes of a bobbin (R114). -/
def bobSize : Nat := 262144

/-- WFMT of an ACW (R76). -/
def acwW (a : BitVec 19) : Nat := bits a.toNat 0 4
/-- AFMT. -/
def acwA (a : BitVec 19) : Nat := bits a.toNat 4 4
/-- DFMT. -/
def acwD (a : BitVec 19) : Nat := bits a.toNat 8 2
/-- ACC_RND is RTZ. -/
def acwAccRtz (a : BitVec 19) : Bool := bit a.toNat 10
/-- CVT_RND. -/
def acwCvt (a : BitVec 19) : Nat := bits a.toNat 11 3
/-- S_RND. -/
def acwRnd (a : BitVec 19) : Rnd := match bits a.toNat 14 2 with | 0 => .rne | 1 => .rtz | 2 => .rdn | _ => .rup
/-- SAT. -/
def acwSat (a : BitVec 19) : Bool := bit a.toNat 16
/-- FTZ. -/
def acwFtz (a : BitVec 19) : Bool := bit a.toNat 17
/-- ISAT. -/
def acwIsat (a : BitVec 19) : Bool := bit a.toNat 18

/-- A value of the ACW uses no reserved encoding and combines its formats as R78 allows (R77). -/
def acwValid (a : BitVec 19) : Bool :=
  let w := acwW a
  let x := acwA a
  let d := acwD a
  let f8 := decide (x ≤ 3) || x == 6
  let fa := f8 || x == 7 || x == 8
  decide (d ≤ 2) && decide (acwCvt a ≤ 4)
    && (if w ≤ 3 || w = 6 then fa
        else if w = 4 || w = 5 || w = 7 || w = 8 then fa && d == 0
        else if w = 9 then x == 9 && d == 0
        else w == 10 && (x == 9 || x == 10) && d == 0)

/-- The rate classes of R78. -/
inductive Rate where
  | r4 | r8 | r16
  deriving DecidableEq, Repr

/-- The rate of an ACW (R78). -/
def acwRate (a : BitVec 19) : Rate :=
  let w := acwW a
  let x := acwA a
  if w = 7 || w = 8 then .r16
  else if w = 10 || (w = 6 && x ≠ 7 && x ≠ 8) then .r4
  else .r8

/-- The conversion rounding for a lane: CVT_RND, with the random value of R99 under SR. -/
def cvtRnd (a : BitVec 19) (r : Nat) : Rnd :=
  match acwCvt a with | 0 => .rne | 1 => .rtz | 2 => .rdn | 3 => .rup | _ => .sr r

/-- A word of a core whose run broke a rule that the loader cannot check (R117, R488): nothing is known of it. The kind
tells the stores of a core apart: 0 and 1 vector lanes and their poison, 2 masks, 3 and 4 bobbin bytes and marks, 5 and 6
accumulator entries and their poison, 7 the flag word. -/
def undefWord (k : CoreState) (kind ix : Nat) : Word := Config.undefined (k.run.getD 0) k.logical k.cyc kind ix

/-- A lane of a vector register. -/
def lane (k : CoreState) (r l : Nat) : Cell32 :=
  if k.undef then ⟨undefWord k 0 (r * 32 + l), (undefWord k 1 (r * 32 + l)).getLsbD 0⟩ else mget {} k.v (r * 32 + l)

/-- An accumulator entry as the S-engine reads it, keyed DPU × 128 + entry. -/
def accCell (k : CoreState) (e : Nat) : Cell32 :=
  if k.undef then ⟨undefWord k 5 e, (undefWord k 6 e).getLsbD 0⟩ else mget {} k.acc e

/-- An accumulator entry as a MAC step takes it (R87). -/
def accIn (k : CoreState) (e : Nat) : Cell32 :=
  if k.undef then ⟨undefWord k 5 e, (undefWord k 6 e).getLsbD 0⟩ else mget {} k.accF e

/-- The flag word of a core. -/
def flagWord (k : CoreState) : BitVec 9 := if k.undef then (undefWord k 7 0).setWidth 9 else k.flags

/-- A lane mask; M0 reads as all ones (R108). -/
def laneMask (k : CoreState) (m : Nat) : Nat :=
  match m with
  | 0 => 0xFFFFFFFF
  | m + 1 => (if k.undef then undefWord k 2 m else match m with | 0 => k.m1 | 1 => k.m2 | _ => k.m3).toNat

/-- The lanes that an instruction's mask enables, ascending. -/
def activeLanes (k : CoreState) (f : SField) : List Nat := maskList (laneMask k f.mask.toNat) 32

/-- A granule of the bobbin carries a poison mark (R118). -/
def bobMarked (k : CoreState) (addr : Nat) : Bool :=
  if k.undef then (undefWord k 4 (addr % bobSize / 64)).getLsbD 0 else k.bobMark.contains (addr % bobSize / 64)

/-- A byte of the bobbin, modulo its size. -/
def bobByte (k : CoreState) (addr : Nat) : Byte :=
  if k.undef then (undefWord k 3 (addr % bobSize)).setWidth 8 else cget k.bob (addr % bobSize)

/-- Bytes of the bobbin as an engine reads them, modulo its size: those of a marked granule are zero (R100). The
second part says whether a granule of them is marked. -/
def bobRead (k : CoreState) (addr n : Nat) : List Byte × Bool :=
  ((List.range n).map (fun i => if bobMarked k (addr + i) then 0 else bobByte k (addr + i)),
   (List.range n).any (fun i => bobMarked k (addr + i)))

/-- Bytes of the bobbin as stored. -/
def bobRaw (k : CoreState) (addr n : Nat) : List Byte := (List.range n).map (fun i => bobByte k (addr + i))

/-- Puts bytes into the bobbin, modulo its size. -/
def bobPut (k : CoreState) (addr : Nat) (bs : List Byte) : CoreState :=
  { k with bob := (List.range bs.length).foldl (fun m i => cput m ((addr + i) % bobSize) (bs.getD i 0)) k.bob }

/-- Sets or clears the mark of a granule. -/
def bobMark1 (k : CoreState) (g : Nat) (p : Bool) : CoreState := { k with bobMark := setTag k.bobMark (g % (bobSize / 64)) p }

/-- An engine's write of bytes with a poison bit each: a write of a whole granule sets its mark, a write of part of one
adds poison to it (R118). -/
def bobWrite (k : CoreState) (addr : Nat) (bs : List Byte) (ps : List Bool) : CoreState :=
  let k' := bobPut k addr bs
  (List.range ((addr + bs.length + 63) / 64 - addr / 64)).foldl (fun k i =>
    let g := addr / 64 + i
    let lo := max addr (g * 64) - addr
    let hi := min (addr + bs.length) (g * 64 + 64) - addr
    let p := (List.range (hi - lo)).any (fun j => ps.getD (lo + j) false)
    if hi - lo = 64 || p then bobMark1 k g p else k) k'

/-- A fill of the bobbin by claim data or an exchange receive: each granule takes the poison of the line that it
writes (R118). A fill of part of a granule adds its poison. -/
def bobFill (k : CoreState) (addr : Nat) (bs : List Byte) (marks : List Bool) : CoreState :=
  bobWrite k addr bs ((List.range bs.length).map (fun i => marks.getD (i / 64) false))

/-- The poison of each 64 bytes that leave the bobbin from an address (R118). -/
def bobMarks (k : CoreState) (addr n : Nat) : List Bool :=
  (List.range (ceilDiv n 64)).map (fun i => (List.range (min 64 (n - 64 * i))).any (fun j => bobMarked k (addr + 64 * i + j)))

/-! ### The rules that the loader cannot check (R115, R117, R488) -/

/-- Runs of bytes of the bobbin meet, modulo its size. -/
def bobMeet (a n b m : Nat) : Bool :=
  decide ((b + bobSize - a) % bobSize < n) || decide ((a + bobSize - b) % bobSize < m)

/-- Bytes of the bobbin lie in one of a list of intervals at a cycle (R117). -/
def inWindow (l : List Fill) (cyc addr n : Nat) : Bool :=
  decide (0 < n) && l.any (fun w => decide (w.first ≤ cyc) && decide (cyc ≤ w.last) && bobMeet (addr % bobSize) n w.addr w.len)

/-- An engine touches bytes of the bobbin at a cycle: no fill may write them in that interval (R117), and an engine's
write may not meet a claim's read (R47). -/
def engineTouch (k : CoreState) (cyc addr n : Nat) (write : Bool) : CoreState :=
  { k with undef := k.undef || inWindow k.fills cyc addr n || (write && inWindow k.drains cyc addr n) }

/-- The 32-byte words of a run of bytes; word w lies in bank w mod 64 (R114). -/
def portWords (addr n : Nat) : List Nat :=
  if n = 0 then [] else (List.range ((addr % 32 + n + 31) / 32)).map (fun i => (addr / 32 + i) % (bobSize / 32))

/-- Reads of the engine port in the present cycle, each of a run of bytes: no bank may be asked for more than two words
(R115), and no fill may write the bytes then (R117). -/
def engineReads (k : CoreState) (l : List (Nat × Nat)) : CoreState :=
  let old := if k.port.1 = k.cyc then k.port.2 else []
  let ws := l.foldl (fun m x => (portWords x.1 x.2).foldl (fun m w => linsert w m) m) old
  let crowded := ws.any (fun w => decide (2 < (ws.filter (fun x => x % 64 == w % 64)).length))
  { k with port := (k.cyc, ws), undef := k.undef || crowded || l.any (fun x => inWindow k.fills k.cyc x.1 x.2) }

/-- A run of cores in which one broke such a rule: what each of them holds is undefined. -/
def shareUndef (r : Option Nat) (c : CoreState) : CoreState := if r.isSome && c.run == r then { c with undef := true } else c

/-- The cores with core `k` changed; if its run then turns out to break a rule that the loader cannot check, the other
cores of the run are undefined with it. -/
def runCores (m : AMap CoreState) (k : Nat) (f : CoreState → CoreState) : AMap CoreState :=
  let old := mget {} m k
  let c := f old
  let m' := mput m k c
  if c.undef && !old.undef then m'.map (fun x => (x.1, shareUndef c.run x.2)) else m'

/-- Changes a core's state as one of its instructions does. -/
def State.runCore (s : State) (k : Nat) (f : CoreState → CoreState) : State :=
  { s with cores := runCores s.cores k f }

/-- The address of an SLD or SST (R110). -/
def lineAddr (k : CoreState) (mode : AddrMode) (f : SField) : Nat :=
  let base := f.imm.toNat * 4
  let a := match mode with
    | .direct => base
    | .register => base + (lane k f.srcA.toNat 0).val.toNat
    | .loop => base + 128 * mget 0 k.indexes (f.srcA.toNat % 8)
  a % bobSize / 128 * 128

/-- The address of a lane's word of an SLDX or SSTX (R110). -/
def wordAddr (k : CoreState) (f : SField) (l : Nat) : Nat :=
  (f.imm.toNat * 4 + (lane k f.srcA.toNat l).val.toNat) % bobSize / 4 * 4

end Sys2Proof.Machine
end

