-- ==== Sys2Proof/Machine/Flags.lean ====
section
/-! DEFINITION. The flag word of a core (R101, R102) and the results of the S-engine's lanes with their flags (R90 to
R96, R100). -/

namespace Sys2Proof.Machine

/-- Sets flags; they are sticky (R101). -/
def setFlags (k : CoreState) (f : Nat) : CoreState := { k with flags := k.flags ||| BitVec.ofNat 9 f }

/-- The POISON flag, if an operand was poisoned (R100). -/
def poisonFlag (p : Bool) : Nat := if p then fPoison else 0

/-- A result and its flags: FP arithmetic, by OP (R90). -/
def fpArith (a : BitVec 19) (op : Nat) (x y z : Nat) : Nat × Nat :=
  match op with
  | 0 => fpAdd32 (acwRnd a) (acwFtz a) x y
  | 1 => fpSub32 (acwRnd a) (acwFtz a) x y
  | 2 => fpMul32 (acwRnd a) (acwFtz a) x y
  | _ => fpFma32 (acwRnd a) (acwFtz a) x y z

/-- FP divide and roots, by OP (R90). -/
def fpRoot (a : BitVec 19) (op : Nat) (x y : Nat) : Nat × Nat :=
  match op with
  | 0 => fpDiv32 (acwRnd a) (acwFtz a) x y
  | 1 => fpSqrt32 (acwRnd a) (acwFtz a) x
  | 2 => fpRecip32 (acwRnd a) (acwFtz a) x
  | _ => fpRsqrt32 (acwRnd a) (acwFtz a) x

/-- The value of a lane for an integer type. -/
def intVal (ty : LaneType) (x : Nat) : Int := match ty with | .uint32 => x | _ => sgn32 x

/-- Integer operations, by OP (R92). -/
def intOp (a : BitVec 19) (ty : LaneType) (op : Nat) (x y : Nat) : Nat × Nat :=
  let u := intVal ty x
  let v := intVal ty y
  let sg := ty != .uint32
  match op with
  | 0 => intResult sg (acwIsat a) (u + v)
  | 1 => intResult sg (acwIsat a) (u - v)
  | 2 => (wrapN 32 (u * v), 0)
  | 3 => (wrapN 32 (u * v / 0x100000000), 0)
  | 4 => (if v < u then y else x, 0)
  | _ => (if u < v then y else x, 0)

/-- Bitwise operations, by OP (R92, R109). -/
def bitOp (op : Nat) (x y : Word) : Word :=
  let n := y.toNat % 32
  match op with
  | 0 => x &&& y
  | 1 => x ||| y
  | 2 => x ^^^ y
  | 3 => ~~~ x
  | 4 => x <<< n
  | 5 => x >>> n
  | 6 => x.sshiftRight n
  | 7 => x.rotateLeft n
  | _ => BitVec.ofNat 32 (popCount x.toNat)

/-- Compares, by OP (R91): equal, less than, less or equal, unordered. -/
def cmpOp (ty : LaneType) (op : Nat) (x y : Nat) : Bool :=
  match ty with
  | .fp32 => match op with
    | 0 => fpEq32 x y
    | 1 => fpLt32 x y
    | 2 => fpLe32 x y
    | _ => isNan32 x || isNan32 y
  | ty => match op with
    | 0 => x == y
    | 1 => decide (intVal ty x < intVal ty y)
    | 2 => decide (intVal ty x ≤ intVal ty y)
    | _ => false

/-- The formats of the conversion codes (R109). -/
def cvtFmt (code : Nat) : Option Fmt :=
  match code with
  | 0 => some fmtE4M3
  | 1 => some fmtE5M2
  | 2 => some fmtE2M3
  | 3 => some fmtE3M2
  | 4 => some fmtE2M1
  | 7 => some fmtBF16
  | 8 => some fmtFP16
  | _ => none

/-- A conversion from FP32 (R95); none for a reserved code. -/
def cvtFrom (a : BitVec 19) (code x r : Nat) : Option (Nat × Nat) :=
  match cvtFmt code with
  | some f => some (convertTo f (cvtRnd a r) (acwSat a) x)
  | none => if code = 11 then some (convertInt (cvtRnd a r) true x)
    else if code = 12 then some (convertInt (cvtRnd a r) false x) else none

/-- A conversion to FP32, or to INT32 (R95, R109); none for a reserved code. -/
def cvtTo (a : BitVec 19) (code x r : Nat) : Option (Nat × Nat) :=
  match cvtFmt code with
  | some f => some (convertFrom f (x % 2 ^ f.width), 0)
  | none =>
    if code = 9 then some (wrapN 32 (sgnW 8 (x % 256)), 0)
    else if code = 10 then some (wrapN 32 (sgnW 4 (x % 16)), 0)
    else if code = 11 then some (intToFp (cvtRnd a r) true x)
    else if code = 12 then some (intToFp (cvtRnd a r) false x) else none

/-- The MX element formats by their WFMT codes 2 to 6, with their largest exponents (R97, R109). -/
def mxFmt (code : Nat) : Option (Fmt × Int) :=
  match code with
  | 2 => some (fmtE4M3, 8)
  | 3 => some (fmtE5M2, 15)
  | 4 => some (fmtE2M3, 2)
  | 5 => some (fmtE3M2, 4)
  | 6 => some (fmtE2M1, 2)
  | _ => none

/-- The flags of an atomic of a pattern (R94): those that an S-engine add of its type sets. DESIGN CHOICE: an integer add whose
TYPE is FP32 or 64-bit sets none, since the S-engine has no integer add of that type (log entry 132). -/
def atomicFlags (ty : LaneType) (op : Nat) (old x : Nat) : Nat :=
  match op, ty with
  | 0, .int32 => (intResult true false (sgn32 old + sgn32 x)).2
  | 0, .uint32 => (intResult false false ((old : Int) + x)).2
  | 10, _ => (fpAdd32 .rne false old x).2
  | _, _ => 0

/-- An FP32 absolute value; a NaN gives the canonical NaN (R90). -/
def fpAbs32 (x : Nat) : Nat := if isNan32 x then nan32 else bits x 0 31

/-- An FP32 negation. -/
def fpNeg32 (x : Nat) : Nat := if isNan32 x then nan32 else neg32 x

/-- The first operand with the sign of the second. -/
def fpCopySign32 (x y : Nat) : Nat := if isNan32 x then nan32 else bits x 0 31 + (if bit y 31 then 0x80000000 else 0)

/-- The low word of a number. -/
def lowWord (x : Nat) : Word := BitVec.ofNat 32 x

end Sys2Proof.Machine
end

