-- ==== Sys2Proof/Machine/Bundle.lean ====
section
/-! DEFINITION. A core's code: the commands that the three fields of a bundle encode (R104, R105, R108 to R111), and the bundle at
which a core of a run stands (R103). -/

namespace Sys2Proof.Machine

/-- The T field of a bundle (R104). -/
def fieldT (w : BitVec 128) : Nat := bits w.toNat 0 48

/-- The S field. -/
def fieldS (w : BitVec 128) : Nat := bits w.toNat 48 48

/-- The X field. -/
def fieldX (w : BitVec 128) : Nat := bits w.toNat 96 32

/-- Whether a field's bits outside its first `n` are zero. -/
def noneAbove (x n : Nat) : Bool := x / 2 ^ n == 0

/-- The command that a T field encodes for a core (R105); none where the encoding is reserved. -/
def decodeT (k : CoreId) (w : Nat) : Option Instr :=
  match bits w 0 4 with
  | 0 => if w = 0 then some (.tnop k) else none
  | 1 => if noneAbove w 37 then
      some (.mac k (bit w 4) (BitVec.ofNat 7 (bits w 5 7)) (BitVec.ofNat 10 (bits w 12 10)) (bit w 22)
        (BitVec.ofNat 6 (bits w 23 6)) (BitVec.ofNat 8 (bits w 29 8)))
    else none
  | _ => none

/-- The fields of an S instruction (R108). -/
def sFieldOf (w : Nat) : SField :=
  { mask := BitVec.ofNat 2 (bits w 10 2), dest := BitVec.ofNat 5 (bits w 12 5), srcA := BitVec.ofNat 5 (bits w 17 5),
    srcB := BitVec.ofNat 5 (bits w 22 5), srcC := BitVec.ofNat 5 (bits w 27 5), imm := BitVec.ofNat 16 (bits w 32 16) }

/-- TYPE as a lane type (R108). -/
def laneTypeOf (ty : Nat) : LaneType := match ty with | 0 => .fp32 | 1 => .int32 | 2 => .uint32 | _ => .w64

/-- TYPE as the address mode of class 13 (R110). -/
def addrModeOf (ty : Nat) : AddrMode := match ty with | 0 => .direct | 1 => .register | _ => .loop

/-- The commands of an S class, in the order of OP (R109). -/
def sClass (k : CoreId) (cls : Nat) (ty : LaneType) (mode : AddrMode) (f : SField) : List Instr :=
  match cls with
  | 1 => [.fpAdd k f, .fpSubtract k f, .fpMultiply k f, .fpFusedMultiplyAdd k f]
  | 2 => [.fpDivide k f, .fpSquareRoot k f, .fpReciprocal k f, .fpReciprocalSquareRoot k f]
  | 3 => [.fpMinimum k f, .fpMaximum k f, .fpAbsoluteValue k f, .fpNegate k f, .fpCopySign k f]
  | 4 => [.compareEqual k ty f, .compareLessThan k ty f, .compareLessOrEqual k ty f, .compareUnordered k ty f]
  | 5 => [.intAdd k ty f, .intSubtract k ty f, .intMultiplyLow k ty f, .intMultiplyHigh k ty f, .intMinimum k ty f,
      .intMaximum k ty f]
  | 6 => [.bitwiseAnd k f, .bitwiseOr k f, .bitwiseExclusiveOr k f, .bitwiseNot k f, .shiftLeft k f, .shiftRightLogical k f,
      .shiftRightArithmetic k f, .rotateLeft k f, .populationCount k f]
  | 7 => [.select k f]
  | 8 => [.convertFromFp32 k f, .convertToFp32 k f]
  | 9 => [.mxQuantise k f]
  | 10 => [.reduceSum k ty f, .reduceMinimum k ty f, .reduceMaximum k ty f]
  | 11 => [.accumulatorRead k f, .accumulatorWrite k f]
  | 12 => [.atomicIntegerAdd k ty f, .atomicSignedMinimum k ty f, .atomicSignedMaximum k ty f, .atomicUnsignedMinimum k ty f,
      .atomicUnsignedMaximum k ty f, .atomicAnd k ty f, .atomicOr k ty f, .atomicExclusiveOr k ty f, .atomicExchange k ty f,
      .atomicCompareExchange k ty f] ++ (if ty = .w64 then [] else [.atomicFp32Add k f, .atomicFp32Minimum k f, .atomicFp32Maximum k f])
  | 13 => [.sld k mode f, .sst k mode f, .sldx k f, .sstx k f]
  | _ => []

/-- The values of TYPE that a class takes (R89, R108, R110): the classes of one type take its code, and the others none that is
reserved. -/
def sTypeOk (cls ty : Nat) : Bool :=
  match cls with
  | 1 => ty == 0
  | 2 => ty == 0
  | 3 => ty == 0
  | 5 => ty == 1 || ty == 2
  | 10 => decide (ty ≤ 1)
  | 12 => true
  | _ => decide (ty ≤ 2)

/-- SRCC where it is a code is no reserved one (R109): the choosing mask of a select and the formats of classes 8 and 9. -/
def sCodeOk (cls op c : Nat) : Bool :=
  match cls with
  | 7 => decide (c < 4)
  | 8 => if op = 0 then (cvtFrom 0 c 0 0).isSome else (cvtTo 0 c 0 0).isSome
  | 9 => (mxFmt c).isSome
  | _ => true

/-- The command that an S field encodes for a core (R108 to R110); none where the encoding is reserved. -/
def decodeS (k : CoreId) (w : Nat) : Option Instr :=
  let cls := bits w 4 4
  let op := bits w 0 4
  let ty := bits w 8 2
  if w = 0 then some (.snop k)
  else if sTypeOk cls ty && sCodeOk cls op (bits w 27 5) then (sClass k cls (laneTypeOf ty) (addrModeOf ty) (sFieldOf w))[op]?
  else none

/-- The command that an X field encodes for a core (R111); none where the encoding is reserved. -/
def decodeX (k : CoreId) (x : Nat) : Option Instr :=
  let only := fun (n : Nat) (ok : Bool) (i : Instr) => if noneAbove x n && ok then some i else none
  match bits x 0 6 with
  | 0 => only 6 true (.xnop k)
  | 1 => only 6 true (.step k)
  | 2 => only 6 true (.endPattern k)
  | 3 => only 32 (bits x 9 23 != 0) (.lcnt k (BitVec.ofNat 3 (bits x 6 3)) (BitVec.ofNat 23 (bits x 9 23)))
  | 4 => only 21 true (.loop k (BitVec.ofNat 3 (bits x 6 3)) (BitVec.ofNat 12 (bits x 9 12)))
  | 5 => only 25 (decide (bits x 6 11 ≤ 1279)) (.waitf k (BitVec.ofNat 11 (bits x 6 11)) (BitVec.ofNat 8 (bits x 17 8)))
  | 6 => only 25 true (.acw k (BitVec.ofNat 19 (bits x 6 19)))
  | 7 => only 23 (decide (bits x 6 3 ≤ 5)) (.tsd k (BitVec.ofNat 3 (bits x 6 3)) (BitVec.ofNat 14 (bits x 9 14)))
  | 8 => only 18 true (.xsend k (BitVec.ofNat 12 (bits x 6 12)))
  | 9 => only 18 true (.xred k (BitVec.ofNat 12 (bits x 6 12)))
  | 10 => only 22 true (.xwait k (BitVec.ofNat 16 (bits x 6 16)))
  | 11 => only 6 true (.xclr k)
  | _ => none

/-- The pattern, binding and cue of a run. -/
def runOf (s : State) (r : Nat) : Option (Cue × Binding × Pattern) :=
  match mget? s.cues r with
  | none => none
  | some q => match mget? s.bindings q.binding with
    | none => none
    | some b => match mget? s.patterns b.pattern with
      | none => none
      | some p => some (q, b, p)

/-- The core of a logical core of a binding (R138, R139). -/
def coreOf (b : Binding) (p : Pattern) (i : Nat) : Option Nat :=
  match p.cores[i]? with
  | some c => some (b.cmap.getD c.cluster 0 * 128 + c.loc)
  | none => none

/-- The cores of a binding's placement, in logical order. -/
def placement (b : Binding) (p : Pattern) : List Nat := p.cores.map (fun (c : PatCore) => b.cmap.getD c.cluster 0 * 128 + c.loc)

/-- The command of one field of a bundle. -/
def fieldCommand (k : CoreId) (p : Part) (b : BitVec 128) : Option Instr :=
  match p with
  | .t => decodeT k (fieldT b)
  | .s => decodeS k (fieldS b)
  | .x => decodeX k (fieldX b)

/-- A bundle issues as the commands of its three fields (R104). -/
def bundleCommands (k : CoreId) (b : BitVec 128) : List Instr := [Part.t, Part.s, Part.x].filterMap (fun p => fieldCommand k p b)

/-- The code that a core of a run has in its store: that of its logical core (R103, R136). -/
def storedCode (s : State) (c : CoreState) : Option (List (BitVec 128)) :=
  match c.run with
  | none => none
  | some r => match runOf s r with
    | some (_, _, p) => match p.cores[c.logical]? with
      | some x => some x.code
      | none => some []
    | none => some []

/-- A core issues instructions: it is RUNNING, or has cleared its state and issues its first bundle (R112, R113, R141). -/
def issuing (k : CoreState) : Bool := k.st == .running || k.st == .clearing

/-- The sequencer of a core issues a command (R103): the core runs, and the command is what the field whose turn it is encodes in
the bundle at `pc`. No bundle is skipped, reordered or repeated, so every other T, S or X command finds the core issuing
something else. A core that no run holds has no code, and issues what it is sent. -/
def mayIssue (s : State) (k : CoreId) (i : Instr) : Bool :=
  let c := s.core k.val
  issuing c && (match storedCode s c with
    | none => true
    | some code => match code[c.pc.toNat]? with
      | some b => fieldCommand k c.turn b == some i
      | none => false)

end Sys2Proof.Machine
end

