-- ==== Sys2Proof/Machine/Engines.lean ====
section
/-! DEFINITION. A core's cycles: the actions that take effect at a cycle (R87, R89, R112), the steps of a MAC on the
T-engine (R83 to R88, R105 to R107), and the issue of S instructions. -/

namespace Sys2Proof.Machine

/-- Adds an action that takes effect at a cycle. -/
def later (k : CoreState) (due : Nat) (a : PendAct) : CoreState := { k with pend := k.pend ++ [⟨due, a⟩] }

/-- Sets a vector lane. -/
def putLane (k : CoreState) (r l : Nat) (c : Cell32) : CoreState := { k with v := mput k.v (r * 32 + l) c }

/-- Sets bits of a lane mask; writes to M0 are ignored (R108). -/
def putMask (k : CoreState) (m : Nat) (active value : Word) : CoreState :=
  let f := fun (w : Word) => (w &&& ~~~ active) ||| (value &&& active)
  match m with
  | 0 => k
  | 1 => { k with m1 := f k.m1 }
  | 2 => { k with m2 := f k.m2 }
  | _ => { k with m3 := f k.m3 }

/-- Whether a T-engine update of an entry is still to come. -/
def accPending (p : List Pend) (entry : Nat) : Bool :=
  p.any (fun x => match x.act with | .acc e _ => e == entry | _ => false)

/-- One action takes effect. -/
def applyPend (k : CoreState) (a : PendAct) : CoreState :=
  match a with
  | .lane r l c => putLane k r l c
  | .mask m act v => putMask k m act v
  | .acc e c =>
    { k with acc := mput k.acc e c, accF := if accPending k.pend e then k.accF else mput k.accF e c }
  | .accIn e c =>
    { k with
      accF := mput k.accF e c
      tmac := k.tmac.map (fun m => if mhas m.prior e then m else { m with prior := mput m.prior e (mget {} k.accF e) }) }
  | .accSet e c => { k with acc := mput k.acc e c }
  | .bob addr bs ps => bobWrite k addr bs ps
  | .desc s d => { k with tdesc := mput k.tdesc s d }
  | .sldx r l addr =>
    let (bs, p) := bobRead k addr 4
    later (setFlags k (poisonFlag p)) (k.cyc + 19 - l / 2) (.lane r l ⟨BitVec.ofNat 32 (leNat bs), p⟩)

/-- An S write of an accumulator entry reaches it. -/
def isAccSet (a : PendAct) : Bool := match a with | .accSet .. => true | _ => false

/-- The actions due at the present cycle take effect, in the order in which they were issued, but that an S write of an
accumulator entry comes before a T-engine update, which reached the entry later (R88). -/
def land (k : CoreState) : CoreState :=
  let now := k.pend.filter (fun p => decide (p.due ≤ k.cyc))
  (now.filter (fun p => isAccSet p.act) ++ now.filter (fun p => !isAccSet p.act)).foldl (fun k p => applyPend k p.act)
    { k with pend := k.pend.filter (fun p => decide (k.cyc < p.due)) }

/-- The 32-byte beat of the present cycle of an XSEND or XRED (R127, R131). A message carries the bytes as they stand and the
mark of each of its granules (R118); a reduction takes those of a marked granule as zeros, with poison (R100), and its
vector leaves with its fourth beat. -/
def sendBeat (k : CoreState) : CoreState :=
  match k.send with
  | none => k
  | some j =>
    let a := j.src + 32 * j.done
    let p := bobMarked k a
    let last := j.done + 1 == j.beats
    match j.msg.red with
    | none =>
      let m := { j.msg with
        bytes := j.msg.bytes ++ bobRaw k a 32
        marks := if j.done % 2 = 0 then j.msg.marks ++ [p] else j.msg.marks.modify (j.done / 2) (fun q => q || p) }
      if last then { k with send := none, sent := k.sent ++ [m] }
      else { k with send := some { j with msg := m, done := j.done + 1 } }
    | some (ix, v, place) =>
      let m := { j.msg with bytes := j.msg.bytes ++ (bobRead k a 32).1, marks := j.msg.marks.map (fun q => q || p) }
      if j.done % 4 = 3 then
        let next : XMsg := { m with addr := m.addr + 128, bytes := [], marks := [false, false], red := some (ix, v + 1, place) }
        { k with send := if last then none else some { j with msg := next, done := j.done + 1 }, sent := k.sent ++ [m] }
      else { k with send := some { j with msg := m, done := j.done + 1 } }

/-- The next cycle begins. -/
def tick (k : CoreState) : CoreState := sendBeat (land { k with cyc := k.cyc + 1 })

/-- Elements of a step (R79). -/
def stepElems (a : BitVec 19) : Nat := if acwRate a = .r4 then 64 else 32

/-- The bytes of a step's elements, and of its scales, in each stream: W, WS, D, DS, A, AS (R75, R79). -/
def streamSizes (a : BitVec 19) : List Nat :=
  let n := stepElems a
  let w := fun (c : Nat) => match efmt c with | some f => n * f.width / 8 | none => 0
  let sc := fun (c : Nat) => match efmt c with | some (.float _ true) => n / 32 | _ => 0
  let d := if acwD a = 1 then n / 2 else if acwD a = 2 then n / 4 else 0
  [w (acwW a), sc (acwW a), d, (if acwD a = 0 then 0 else n / 32), w (acwA a), sc (acwA a)]

/-- The bytes that a DPU's engine port reads from each stream in a step (R107): of W 32, and 64 at the 16-bit rate; of A 64; of
D4 and D2 16 and 8, and 32 and 16 at the 4-bit rate; one scale byte for each block. Nothing of a stream that the ACW does not
use. -/
def readSizes (a : BitVec 19) : List Nat :=
  (List.range 6).map (fun s =>
    let n := (streamSizes a).getD s 0
    if n = 0 then 0
    else match s with
      | 0 => if acwRate a = .r16 then 64 else 32
      | 4 => 64
      | _ => n)

/-- The address that the descriptor of stream `s` gives for DPU `j` (R107). -/
def streamAddr (k : CoreState) (s j : Nat) : Nat :=
  let d := mget {} k.tdesc s
  (((d.base.toNat : Int) + j * sgn32 d.stride.toNat + d.offset) % (bobSize : Int)).toNat

/-- An address aligned down. -/
def alignDown (a n : Nat) : Nat := if n = 0 then a else a / n * n

/-- Where the elements of a step of `n` bytes begin in the aligned block that a DPU reads (R107): at the address formed, aligned
to their own size (a 24-byte block of MXFP6 to 32 bytes). -/
def elemStart (a n : Nat) : Nat := alignDown a (if n = 24 then 32 else n)

/-- What DPU `j` reads in a cycle: `part` 0 the first half of each stream and every scale byte, 1 the second half
(R87), 2 the whole step. -/
def dpuRead (k : CoreState) (a : BitVec 19) (j part : Nat) : List (List Byte) × Bool :=
  let sizes := streamSizes a
  let rs := (List.range 6).map (fun s =>
    let n := sizes.getD s 0
    let (lo, m) := if part = 2 then (0, n) else if s % 2 = 1 then (0, if part = 0 then n else 0)
      else if part = 0 then (0, n / 2) else (n / 2, n - n / 2)
    bobRead k (elemStart (streamAddr k s j) n + lo) m)
  (rs.map (·.1), rs.any (·.2))

/-- The runs of bytes that the DPUs of a mask read in a cycle: each aligned to its size (R107). -/
def macReads (k : CoreState) (m : TMac) (part : Nat) : List (Nat × Nat) :=
  let sizes := readSizes m.acw
  (maskList m.dpuEn.toNat 8).flatMap (fun j => (List.range 6).map (fun s =>
    let n := sizes.getD s 0
    let a := alignDown (streamAddr k s j) n
    if part = 2 then (a, n) else if s % 2 = 1 then (a, if part = 0 then n else 0)
    else if part = 0 then (a, n / 2) else (a + n / 2, n - n / 2)))

/-- Element `i` of a stream of width `w` (R75). -/
def elemAt (bs : List Byte) (w i : Nat) : Nat := bits (leNat bs) (w * i) w

/-- One step of a DPU (R83 to R85): the operands of its streams and the incoming value give the entry and flags. -/
def dpuStep (a : BitVec 19) (ops : List (List Byte)) (acc : Nat) : Nat × Nat :=
  let st := fun (s : Nat) => ops.getD s []
  let n := stepElems a
  let scale := fun (s i : Nat) => ((st s).getD (i / 32) 0).toNat
  match efmt (acwW a), efmt (acwA a) with
  | some (.int w), some (.int x) =>
    dpuInt (acwIsat a) acc ((List.range n).map (fun i => sgnW w (elemAt (st 0) w i) * sgnW x (elemAt (st 4) x i)))
  | some (.float wf ws), some (.float xf xs) =>
    let dw := if acwD a = 1 then 4 else 2
    let terms := (List.range n).map (fun i =>
      let (sw, fl) := seamWord (wf.decode (elemAt (st 0) wf.width i)) (if ws then some (scale 1 i) else none)
        (if acwD a = 0 then none else some (sgnW dw (elemAt (st 2) dw i), scale 3 i))
      let x := xf.decode (elemAt (st 4) xf.width i)
      let nanScale := xs && scale 5 i == 0xFF
      let x := if nanScale then Fp.nan else if xs then scaleFp x ((scale 5 i : Int) - 127) else x
      let (t, bad) := mulVals sw x
      (t, bad, orF fl (if nanScale then fScaleNan else 0)))
    let r := dpuSum (acwAccRtz a) (val32 acc :: terms.map (·.1)) (terms.any (·.2.1))
    (r.1, terms.foldl (fun f t => orF f t.2.2) r.2)
  | _, _ => (acc, 0)

/-- The entry that a step updates (R105). -/
def macEntry (m : TMac) : Nat := if m.accStep then (m.acc.toNat + m.done) % 128 else m.acc.toNat

/-- A stream advances after a step (R107). DESIGN CHOICE: with a STEP below 0, (offset + STEP) mod WRAP is the remainder that is
not negative; the rule names no sign (log entry 130). -/
def advanceStream (k : CoreState) (s : Nat) : CoreState :=
  let d := mget {} k.tdesc s
  let o := d.offset + sgn32 d.step.toNat
  { k with tdesc := mput k.tdesc s { d with offset := if d.wrap = 0 then o else o % (d.wrap.toNat : Int) } }

/-- The accumulators of a step are updated: forwarded at once, and seen by the S-engine ten cycles after the step's
first cycle (R87); the streams advance. -/
def macUpdate (k : CoreState) (m : TMac) (reads : List (Nat × List (List Byte) × Bool)) (land_ : Nat) : CoreState :=
  let e := macEntry m
  let fresh := m.start && !m.seen.contains e
  let k := reads.foldl (fun (k : CoreState) (r : Nat × List (List Byte) × Bool) =>
    let key := r.1 * 128 + e
    let inc : Cell32 := if fresh then {} else match mget? m.prior key with
      | some c => if k.undef then accIn k key else c
      | none => accIn k key
    let (v, fl) := dpuStep m.acw r.2.1 inc.val.toNat
    let p := inc.poison || r.2.2
    let c : Cell32 := ⟨BitVec.ofNat 32 v, p⟩
    later (setFlags { k with accF := mput k.accF key c } (orF fl (poisonFlag p))) land_ (.acc key c)) k
  let k := (List.range 6).foldl (fun k s => if bit m.advance.toNat s then advanceStream k s else k) k
  let m := { m with done := m.done + 1, seen := linsert e m.seen, held := [],
                    prior := reads.foldl (fun (q : AMap Cell32) (r : Nat × List (List Byte) × Bool) => mdel q (r.1 * 128 + e)) m.prior }
  { k with tmac := if m.done < m.steps then some m else none }

/-- The T-engine's work in one cycle (R87, R106). -/
def tStep (k : CoreState) : CoreState :=
  match k.tmac with
  | none => k
  | some m =>
    let dpus := maskList m.dpuEn.toNat 8
    match acwRate m.acw with
    | .r16 =>
      let k := engineReads k (macReads k m (if m.held.isEmpty then 0 else 1))
      if m.held.isEmpty then
        { k with tmac := some { m with held := ((List.range 8).map (fun j =>
          if dpus.contains j then let r := dpuRead k m.acw j 0; (j, r.1, r.2) else (j, [], false))) } }
      else
        macUpdate k m (m.held.filterMap (fun h =>
          if dpus.contains h.1 then
            let r := dpuRead k m.acw h.1 1
            some (h.1, (List.range 6).map (fun s => h.2.1.getD s [] ++ r.1.getD s []), h.2.2 || r.2)
          else none)) (k.cyc + 10)
    | _ =>
      let k := engineReads k (macReads k m 2)
      macUpdate k m (dpus.map (fun j => let r := dpuRead k m.acw j 2; (j, r.1, r.2))) (k.cyc + 10)

/-- Cycles in which the core issues nothing: the T-engine goes on, until nothing is in progress. -/
def coastN : Nat → CoreState → CoreState
  | 0, k => k
  | n + 1, k => if k.tmac.isNone && k.pend.isEmpty && k.send.isNone then k else coastN n (tick (tStep k))

/-- The core waits until a cycle: everything in progress goes on, and after 4,096 cycles nothing is left. -/
def coast (k : CoreState) (upTo : Nat) : CoreState :=
  if upTo ≤ k.cyc then k else { coastN (min (upTo - k.cyc) 4096) k with cyc := upTo }

/-- The T field issues: the MAC that occupies the T-engine does this cycle's work, and the S field is next. -/
def issueT (k : CoreState) : CoreState := { tStep k with st := .running, turn := .s }

/-- The T field's MAC is issued (R105, R106). -/
def issueMac (k : CoreState) (m : TMac) : CoreState :=
  if k.tmac.isSome then issueT k else issueT { k with tmac := some m }

/-- An S instruction is issued, unless the S-engine has not passed the issue interval of the one before (R89, R112);
code that breaks the interval is refused at load. The X field is next. -/
def issueS (k : CoreState) (interval : Nat) (f : CoreState → CoreState) : CoreState :=
  if k.sBusy ≤ k.cyc then { f k with sBusy := k.cyc + interval, turn := .x } else k

/-- A lane-by-lane operation: its sources, its latency, and the result and flags of a lane (R89, R100). -/
def laneOp (f : SField) (srcs : List (BitVec 5)) (lat : Nat) (g : Nat → List Nat → Nat × Nat) (k : CoreState) : CoreState :=
  (activeLanes k f).foldl (fun k' l =>
    let xs := srcs.map (fun r => lane k r.toNat l)
    let p := xs.any (·.poison)
    let (v, fl) := g l (xs.map (fun x => x.val.toNat))
    later (setFlags k' (orF fl (poisonFlag p))) (k.cyc + lat) (.lane f.dest.toNat l ⟨BitVec.ofNat 32 v, p⟩)) k

/-- Select (R109): each lane takes SRCA or SRCB by the choosing mask, with its poison; latency 1. -/
def selectOp (f : SField) (k : CoreState) : CoreState :=
  (activeLanes k f).foldl (fun k' l =>
    let c := if bit (laneMask k (f.srcC.toNat % 4)) l then lane k f.srcA.toNat l else lane k f.srcB.toNat l
    later (setFlags k' (poisonFlag c.poison)) (k.cyc + 1) (.lane f.dest.toNat l c)) k

/-- A compare: it writes bits of a lane mask (R91, R108). -/
def compareOp (f : SField) (ty : LaneType) (op : Nat) (k : CoreState) : CoreState :=
  let ls := activeLanes k f
  let p := ls.any (fun l => (lane k f.srcA.toNat l).poison || (lane k f.srcB.toNat l).poison)
  let v := ls.foldl (fun v l => if cmpOp ty op (lane k f.srcA.toNat l).val.toNat (lane k f.srcB.toNat l).val.toNat
    then v + 2 ^ l else v) 0
  later (setFlags k (poisonFlag p)) (k.cyc + 2)
    (.mask (f.dest.toNat % 4) (BitVec.ofNat 32 (laneMask k f.mask.toNat)) (BitVec.ofNat 32 v))

/-- The rounding seed of a core's run (R99). -/
def seedOf (s : State) (k : CoreState) : Word :=
  match k.run with
  | some r => match mget? s.cues r with | some q => q.seed | none => 0
  | none => 0

/-- The random value of a lane (R99). -/
def laneRandom (s : State) (k : CoreState) (l : Nat) : Nat := srValue (seedOf s k) (k.logical * 32 + l) k.srCount

/-- A conversion or MX quantise under SR counts (R99). -/
def countSr (k : CoreState) : CoreState := if acwCvt k.acw = 4 then { k with srCount := k.srCount + 1 } else k

/-- MX quantise (R97, R109): the lanes of the destination that the mask enables take the block's words (R108). -/
def quantiseOp (s : State) (f : SField) (fmt : Fmt × Int) (k : CoreState) : CoreState :=
  let ls := activeLanes k f
  let xs := (List.range 32).map (fun l => ((lane k f.srcA.toNat l).val.toNat, ls.contains l))
  let p := ls.any (fun l => (lane k f.srcA.toNat l).poison)
  let (sc, es, fl) := mxQuantise fmt.1 fmt.2 (fun l => cvtRnd k.acw (laneRandom s k l)) xs
  let blk := (List.range 32).foldl (fun v i => v + es.getD i 0 * 2 ^ (fmt.1.width * i)) 0
  ls.foldl (fun k' l =>
    later k' (k.cyc + 8) (.lane f.dest.toNat l ⟨BitVec.ofNat 32 (bits blk (32 * l) 32 + (if l = 31 then sc else 0)), p⟩))
    (countSr (setFlags k (orF fl (poisonFlag p))))

/-- What an inactive lane enters a reduction as (R93): sum, minimum, maximum. -/
def reduceFill (ty : LaneType) (op : Nat) : Nat :=
  match op with
  | 0 => 0
  | 1 => if ty = .fp32 then 0x7F800000 else 0x7FFFFFFF
  | _ => if ty = .fp32 then 0xFF800000 else 0x80000000

/-- One combination of a reduction with its flags (R93). -/
def reduceStep (a : BitVec 19) (ty : LaneType) (op : Nat) (x y : Nat × Nat) : Nat × Nat :=
  let r : Nat × Nat := match ty, op with
    | .fp32, 0 => fpAdd32 (acwRnd a) (acwFtz a) x.1 y.1
    | .fp32, 1 => (fpMin32 x.1 y.1, 0)
    | .fp32, _ => (fpMax32 x.1 y.1, 0)
    | _, 0 => intResult true (acwIsat a) (sgn32 x.1 + sgn32 y.1)
    | _, 1 => (if sgn32 y.1 < sgn32 x.1 then y.1 else x.1, 0)
    | _, _ => (if sgn32 x.1 < sgn32 y.1 then y.1 else x.1, 0)
  (r.1, orF (orF x.2 y.2) r.2)

/-- One level of a tree of pairs. -/
def pairLevel {α : Type} (f : α → α → α) : List α → List α
  | a :: b :: l => f a b :: pairLevel f l
  | l => l

/-- A lane reduction (R93): its result goes to lane 0, where the mask enables that lane (R108, R109). -/
def reduceOp (f : SField) (ty : LaneType) (op : Nat) (k : CoreState) : CoreState :=
  let ls := activeLanes k f
  let xs : List (Nat × Nat) := (List.range 32).map (fun l =>
    if ls.contains l then
      let x := (lane k f.srcA.toNat l).val.toNat
      ((if ty = .fp32 then ftzIn (acwFtz k.acw) x else x), 0)
    else (reduceFill ty op, 0))
  let g := pairLevel (reduceStep k.acw ty op)
  let r := (g (g (g (g (g xs))))).headD (0, 0)
  let p := ls.any (fun l => (lane k f.srcA.toNat l).poison)
  let k := setFlags k (orF r.2 (poisonFlag p))
  if ls.contains 0 then later k (k.cyc + 12) (.lane f.dest.toNat 0 ⟨BitVec.ofNat 32 r.1, p⟩) else k

/-- An accumulator read: lane j takes the entry of DPU j (R88, R109). -/
def accReadOp (f : SField) (k : CoreState) : CoreState :=
  ((activeLanes k f).filter (fun l => decide (l < 8))).foldl (fun k' l =>
    let c := accCell k (l * 128 + f.imm.toNat % 128)
    later (setFlags k' (poisonFlag c.poison)) (k.cyc + 2) (.lane f.dest.toNat l c)) k

/-- A T-engine update of an entry reaches it in the present cycle (R88). -/
def accNow (k : CoreState) (entry : Nat) : Bool :=
  k.pend.any (fun x => x.due == k.cyc + 1 && (match x.act with | .acc e _ => e == entry | _ => false))

/-- An accumulator write (R88, R89, R100, R109): MACs that issue from the next cycle on take it, and S reads from the cycle after
that on (log entry 35). -/
def accWriteOp (f : SField) (k : CoreState) : CoreState :=
  ((activeLanes k f).filter (fun l => decide (l < 8))).foldl (fun k' l =>
    let c := lane k f.srcA.toNat l
    let e := l * 128 + f.imm.toNat % 128
    let k' := setFlags k' (poisonFlag c.poison)
    if accNow k e then k' else later (later k' (k.cyc + 1) (.accIn e c)) (k.cyc + 2) (.accSet e c)) k

/-- One atomic on a word of `n` bytes of the bobbin (R94, R109): lane `l` and, for 64 bits, the one after it. -/
def atomicLane (f : SField) (ty : LaneType) (op : Nat) (k0 : CoreState) (k : CoreState) (l : Nat) : CoreState :=
  let n := if ty = .w64 then 8 else 4
  let a := (lane k0 f.srcA.toNat l).val.toNat % bobSize / n * n
  let word := fun (r : BitVec 5) =>
    (lane k0 r.toNat l).val.toNat + (if n = 8 then (lane k0 r.toNat (l + 1)).val.toNat * 0x100000000 else 0)
  let pois := fun (r : BitVec 5) => (lane k0 r.toNat l).poison || (n == 8 && (lane k0 r.toNat (l + 1)).poison)
  let (bs, mk) := bobRead k a n
  let p := mk || (lane k0 f.srcA.toNat l).poison || pois f.srcB || (op == 9 && pois f.srcC)
  let old := leNat bs
  let (new, _) := atomicOp op (8 * n) old (word f.srcB) (word f.srcC)
  let k := setFlags (bobWrite (engineTouch k (k0.cyc + l) a n true) a (leBytes n new) (List.replicate n p)) (orF (atomicFlags ty op old (word f.srcB)) (poisonFlag p))
  let put := fun (k : CoreState) (i v : Nat) => later k (k0.cyc + 36) (.lane f.dest.toNat (l + i) ⟨BitVec.ofNat 32 v, p⟩)
  if n = 8 then put (put k 0 old) 1 (old / 0x100000000) else put k 0 old

/-- An atomic instruction (R94, R109): active lanes, or lane pairs, in ascending order. -/
def atomicS (f : SField) (ty : LaneType) (op : Nat) (k : CoreState) : CoreState :=
  let ls := (activeLanes k f).filter (fun l => ty != .w64 || l % 2 == 0)
  ls.foldl (fun k' l => atomicLane f ty op k k' l) k

/-- An SLD or SST reaches its line; with a register's address it is data-addressed and holds the engine port itself
(R110, R115). -/
def lineTouch (k : CoreState) (mode : AddrMode) (f : SField) (write : Bool) : CoreState :=
  let a := lineAddr k mode f
  if mode = .register || write then engineTouch k k.cyc a 128 write else engineReads k [(a, 128)]

/-- An SLDX or SSTX reaches the words of its lanes, two in a cycle (R110, R112). -/
def wordsTouch (k : CoreState) (f : SField) (write : Bool) : CoreState :=
  (activeLanes k f).foldl (fun k' l => engineTouch k' (k.cyc + l / 2) (wordAddr k f l) 4 write) k

/-- SLD (R110). -/
def sldOp (mode : AddrMode) (f : SField) (k : CoreState) : CoreState :=
  let a := lineAddr k mode f
  (activeLanes k f).foldl (fun k' l =>
    let (bs, p) := bobRead k (a + 4 * l) 4
    later (setFlags k' (poisonFlag p)) (k.cyc + 3) (.lane f.dest.toNat l ⟨BitVec.ofNat 32 (leNat bs), p⟩))
    (lineTouch k mode f false)

/-- SST (R110): words of the lanes that the mask enables. -/
def sstOp (mode : AddrMode) (f : SField) (k : CoreState) : CoreState :=
  let a := lineAddr k mode f
  let ls := activeLanes k f
  if ls.length = 32 then
    later (lineTouch k mode f true) (k.cyc + 2) (.bob a ((List.range 32).flatMap (fun l => leBytes 4 (lane k f.srcB.toNat l).val.toNat))
      ((List.range 128).map (fun i => (lane k f.srcB.toNat (i / 4)).poison)))
  else ls.foldl (fun k' l =>
    let c := lane k f.srcB.toNat l
    later k' (k.cyc + 2) (.bob (a + 4 * l) (leBytes 4 c.val.toNat) (List.replicate 4 c.poison))) (lineTouch k mode f true)

/-- SLDX (R110): lanes 2i and 2i + 1 in the i-th cycle. -/
def sldxOp (f : SField) (k : CoreState) : CoreState :=
  (activeLanes k f).foldl (fun k' l =>
    if l / 2 = 0 then applyPend k' (.sldx f.dest.toNat l (wordAddr k f l))
    else later k' (k.cyc + l / 2) (.sldx f.dest.toNat l (wordAddr k f l))) (wordsTouch k f false)

/-- SSTX (R110). -/
def sstxOp (f : SField) (k : CoreState) : CoreState :=
  (activeLanes k f).foldl (fun k' l =>
    let c := lane k f.srcB.toNat l
    later k' (k.cyc + l / 2 + 1) (.bob (wordAddr k f l) (leBytes 4 c.val.toNat) (List.replicate 4 c.poison)))
    (wordsTouch k f true)

/-- A core's sequencer issues one of its T, S or X commands, which acts on the core; where it issues another, nothing happens
(R103). -/
def State.issue (s : State) (k : CoreId) (i : Instr) (f : CoreState → CoreState) : State :=
  if mayIssue s k i then s.runCore k.val f else s

end Sys2Proof.Machine
end

