-- ==== Sys2Proof/Machine/XField.lean ====
section
/-! DEFINITION. The commands of a bundle's X field (R111, R112), which end the bundle's cycle, and the cluster exchange
(R127 to R134). -/

namespace Sys2Proof.Machine

/-- The bundle ends: the next one is at `pc` and issues in the next cycle. -/
def nextBundle (k : CoreState) (pc : BitVec 12) : CoreState := tick { k with pc := pc, turn := .t }

/-- The bundle ends and the next one follows in order. -/
def advance (k : CoreState) : CoreState := nextBundle k (k.pc + 1)

/-- A message or contribution leaves a core. -/
def postMsg (s : State) (m : XMsg) : State :=
  { s with msgs := mput s.msgs s.nextMsg m, nextMsg := s.nextMsg + 1 }

/-- What a core's XSEND or XRED has read in whole leaves it (R127, R129, R131). -/
def State.collect (s : State) (k : Nat) : State :=
  (s.core k).sent.foldl postMsg (s.modCore k (fun c => { c with sent := [] }))

/-- An X instruction of a core that issues it; the bundle's cycle ends with it. -/
def onX (i : Instr) (k : CoreId) (f : CoreState → CoreState) (s : State) : Out :=
  .next (if mayIssue s k i then (s.runCore k.val f).collect k.val else s)

/-- XNOP. -/
def execXnop (k : CoreId) (s : State) : Out := onX (.xnop k) k advance s

/-- STEP: the core waits for the start boundary of the next step. -/
def execStep (k : CoreId) (s : State) : Out :=
  onX (.step k) k (fun c => { advance c with st := .waitStep, ended := c.ended + 1 }) s

/-- The part of a core ends (R111, R132): what it has in progress completes, and its epoch becomes 0. -/
def endPart (c : CoreState) : CoreState :=
  { coast c (c.cyc + 4096) with st := .idle, epoch := 0, ended := c.ended + 1 }

/-- END. -/
def execEndPattern (k : CoreId) (s : State) : Out := onX (.endPattern k) k (fun c => endPart (tick c)) s

/-- LCNT: limit 0 is no encoding that R111 gives. -/
def execLcnt (k : CoreId) (counter : BitVec 3) (limit : BitVec 23) (s : State) : Out :=
  if limit = 0 then .refused (.reservedEncoding "LCNT")
  else onX (.lcnt k counter limit) k (fun c =>
    advance { c with limits := mput c.limits counter.toNat limit.toNat, indexes := mput c.indexes counter.toNat 0 }) s

/-- LOOP: after the index is raised, the next bundle is the target while the index is below the limit. -/
def execLoop (k : CoreId) (counter : BitVec 3) (target : BitVec 12) (s : State) : Out :=
  onX (.loop k counter target) k (fun c =>
    let i := mget 0 c.indexes counter.toNat + 1
    nextBundle { c with indexes := mput c.indexes counter.toNat i }
      (if i < mget 0 c.limits counter.toNat then target else c.pc + 1)) s

/-- The cycle of the core, counted from the run's start, that a WAITF names. -/
def waitfTarget (cyc cycle frames : Nat) : Nat := (cyc / 1280 + frames) * 1280 + cycle

/-- WAITF: a cycle above 1,279 is no encoding that R111 gives; a cycle that has passed is the next one (R112). -/
def execWaitf (k : CoreId) (cycle : BitVec 11) (frames : BitVec 8) (s : State) : Out :=
  if 1279 < cycle.toNat then .refused (.reservedEncoding "WAITF")
  else onX (.waitf k cycle frames) k (fun c =>
    let t := waitfTarget c.cyc cycle.toNat frames.toNat
    if t ≤ c.cyc + 1 then advance c else { advance c with st := .waitFrame, resume := t }) s

/-- The cycle that a WAITF named is reached. -/
def execWaitfResume (k : CoreId) (s : State) : Out :=
  .next (if (s.core k.val).st = .waitFrame then
    (s.runCore k.val (fun c => { coast c c.resume with st := .running })).collect k.val else s)

/-- ACW (R76, R77). -/
def execAcw (k : CoreId) (value : BitVec 19) (s : State) : Out :=
  if acwValid value then onX (.acw k value) k (fun c => advance { c with acw := value }) s
  else .refused (.reservedEncoding "ACW")

/-- The descriptor that TSD reads (R107): its offset is 0. -/
def descOf (bs : List Byte) : TDesc :=
  { base := BitVec.ofNat 18 (bfield bs 0 4), step := BitVec.ofNat 32 (bfield bs 4 4),
    stride := BitVec.ofNat 32 (bfield bs 8 4), wrap := BitVec.ofNat 32 (bfield bs 12 4), offset := 0 }

/-- TSD: streams 6 and 7 do not exist (R107). A MAC sees the descriptor two cycles later (R112). -/
def execTsd (k : CoreId) (stream : BitVec 3) (addr16 : BitVec 14) (s : State) : Out :=
  if 5 < stream.toNat then .refused (.reservedEncoding "TSD")
  else onX (.tsd k stream addr16) k (fun c =>
    let (bs, p) := bobRead c (addr16.toNat * 16) 16
    advance (later (setFlags (engineReads c [(addr16.toNat * 16, 16)]) (poisonFlag p)) (c.cyc + 2) (.desc stream.toNat (descOf bs)))) s

/-- The 32-byte beats of an exchange entry. -/
def beats (e : XEntry) : Nat := ceilDiv e.len 32

/-- The members of a reduction: an aligned group of 2^g local cores of one cluster (R129), or, at order 0, the core of
the same local index in each logical cluster, in ascending order (R130). -/
def members (b : Binding) (p : Pattern) (e : XEntry) : List Nat :=
  match p.cores[e.first]? with
  | none => []
  | some c =>
    if e.order = 0 then (List.range p.clusters).map (fun k => b.cmap.getD k 0 * 128 + c.loc)
    else (List.range (2 ^ e.order)).map (fun i => b.cmap.getD c.cluster 0 * 128 + c.loc / 2 ^ e.order * 2 ^ e.order + i)

/-- What an XSEND or XRED of an entry begins to read (R127, R129, R133): a message, or, given the place of the core among the
members, the contributions of a reduction, one for each vector of 128 bytes. It carries the run's epoch. -/
def sendJob (k : Nat) (c : CoreState) (r : Nat) (q : Cue) (ix : Nat) (e : XEntry) (dest : Nat) (place : Option Nat) : SendJob :=
  { msg := { from_ := Fin.ofNat 2560 k, dest := Fin.ofNat 2560 dest, ctx := q.ctx, tag := q.tag, epoch := c.epoch, addr := e.dst,
             bytes := [], marks := if place.isSome then [false, false] else [], red := place.map (fun m => (ix, 0, m)),
             run := r, gen := q.gen },
    src := e.src, beats := if place.isSome then e.len / 128 * 4 else beats e }

/-- What an entry of the exchange table gives a core that issues an XSEND (R127, R130) or an XRED of which it is a member (R129,
R130). -/
def entryJob (s : State) (k entry : Nat) (reduction : Bool) : Option SendJob :=
  let c := s.core k
  match c.run.bind (fun r => (runOf s r).map (fun x => (r, x))) with
  | none => none
  | some (r, q, b, p) => match p.xtable[entry]? with
    | none => none
    | some e =>
      if e.reduction != reduction then none
      else match coreOf b p e.dest with
        | none => none
        | some d =>
          if !reduction then some (sendJob k c r q entry e d none)
          else match (members b p e).findIdx? (· == k) with
            | some place => some (sendJob k c r q entry e d (some place))
            | none => none

/-- A core begins to read its bobbin for an XSEND or XRED: the first beat in the cycle of issue (R131). A second one while it
reads is invalid code (R112), and reads nothing. -/
def beginSend (c : CoreState) (j : Option SendJob) : CoreState :=
  match j with
  | none => c
  | some j => if c.cyc < c.xBusy || j.beats == 0 then c else sendBeat { c with send := some j, xBusy := c.cyc + j.beats }

/-- An XSEND or XRED of a core that issues. -/
def onExchange (i : Instr) (k : CoreId) (entry : Nat) (reduction : Bool) (s : State) : Out :=
  onX i k (fun c => advance (beginSend c (entryJob s k.val entry reduction))) s

/-- XSEND (R127, R130). -/
def execXsend (k : CoreId) (entry : BitVec 12) (s : State) : Out := onExchange (.xsend k entry) k entry.toNat false s

/-- XRED (R129, R130). -/
def execXred (k : CoreId) (entry : BitVec 12) (s : State) : Out := onExchange (.xred k entry) k entry.toNat true s

/-- XWAIT (R128): a count already met takes one cycle (R112). -/
def execXwait (k : CoreId) (count : BitVec 16) (s : State) : Out :=
  onX (.xwait k count) k (fun c =>
    if count.toNat ≤ c.recv.toNat then advance c
    else { advance c with st := .xwait, xcount := count, xbounds := 0 }) s

/-- XCLR. -/
def execXclr (k : CoreId) (s : State) : Out := onX (.xclr k) k (fun c => advance { c with recv := 0 }) s

/-- The frames since a run started, in cycles. -/
def runCycles (s : State) (r : Nat) : Nat :=
  match mget? s.cues r with
  | some q => (s.ft.run - q.began) * 1280
  | none => 0

/-- A receive counter rises, and an XWAIT that it meets ends (R128). -/
def received (s : State) (k : Nat) : State :=
  (s.runCore k (fun c =>
    let c := { c with recv := c.recv + 1 }
    if c.st = .xwait && decide (c.xcount.toNat ≤ c.recv.toNat) then
      { coast c (max c.cyc (match c.run with | some r => runCycles s r | none => 0)) with st := .running, xbounds := 0 }
    else c)).collect k

/-- The words of a vector. -/
def vecWords (bs : List Byte) : List Word := (List.range 32).map (fun i => BitVec.ofNat 32 (bfield bs (4 * i) 4))

/-- One combination of the exchange's reduction tree (R129, R93, R136): RNE without FTZ; INT32 sums wrap. -/
def redStep (op : Nat) (x y : Word) : Word :=
  let a := x.toNat
  let b := y.toNat
  match op with
  | 0 => BitVec.ofNat 32 (fpAdd32 .rne false a b).1
  | 1 => x + y
  | 2 => BitVec.ofNat 32 (fpMax32 a b)
  | 3 => if sgn32 a < sgn32 b then y else x
  | 4 => BitVec.ofNat 32 (fpMin32 a b)
  | _ => if sgn32 b < sgn32 a then y else x

/-- Levels of a tree of pairs until one value is left. -/
def pairTree {α : Type} (f : α → α → α) : Nat → List α → List α
  | 0, l => l
  | n + 1, l => pairTree f n (pairLevel f l)

/-- The result of a vector: pairs in the tree (R129), or one after another across clusters (R130). -/
def redResult (e : XEntry) (vs : List (List Word)) : List Word :=
  let f := fun (x y : List Word) => List.zipWith (redStep e.op) x y
  if e.order = 0 then (match vs with | [] => [] | v :: l => l.foldl f v)
  else (pairTree f e.order vs).headD []

/-- The reduction of a run, entry and vector that this member has not joined yet. -/
def redSlot (reds : List RedState) (r ix v place : Nat) : Option Nat :=
  reds.findIdx? (fun x => x.run == r && x.entry == ix && x.vec == v && !mhas x.parts place)

/-- A contribution arrives: the vector's result is written when every member has contributed it, and the receive
counter rises after the last vector (R128, R129). -/
def contribute (s : State) (m : XMsg) (ix v place : Nat) : State :=
  match runOf s m.run with
  | none => s
  | some (_, b, p) => match p.xtable[ix]? with
    | none => s
    | some e =>
      let part := (vecWords m.bytes, m.marks.any id)
      let at_ := redSlot s.reds m.run ix v place
      let red : RedState := match at_ with
        | some i => s.reds.getD i { run := m.run, entry := ix, vec := v }
        | none => { run := m.run, entry := ix, vec := v }
      let red := { red with parts := mput red.parts place part }
      let n := (members b p e).length
      if red.parts.length < n then
        { s with reds := match at_ with | some i => s.reds.set i red | none => s.reds ++ [red] }
      else
        let res := redResult e (red.parts.map (fun x => x.2.1))
        let mark := red.parts.any (fun x => x.2.2)
        let s := { s with reds := match at_ with | some i => s.reds.eraseIdx i | none => s.reds }
        let s := s.modCore m.dest.val (fun c => bobFill c m.addr (res.flatMap (fun w => leBytes 4 w.toNat)) [mark, mark])
        let key := m.run * 4096 + ix
        let done := mget 0 s.redDone key + 1
        if done < e.len / 128 then { s with redDone := mput s.redDone key done }
        else received { s with redDone := mdel s.redDone key } m.dest.val

/-- A message or contribution with a stale epoch is dropped (R133, R134). -/
def dropStale (s : State) (m : XMsg) : State :=
  let k := m.dest.val
  let s := { s with stale := mmod 0 s.stale (k / 128) (fun n => satAdd n 1 0xFFFFFFFF) }
  mergeEvent s 6 m.run 1 0 (w1 m.ctx.val ++ [m.tag] ++ w1 m.epoch.toNat ++ w1 (s.core k).epoch.toNat
    ++ w1 (k / 128) ++ w1 (k % 128) ++ w1 0)

/-- A message or contribution reaches its destination (R131, R133). -/
def execExchangeMessageArrive (msg : Nat) (s : State) : Out :=
  match mget? s.msgs msg with
  | none => .next s
  | some m =>
    let s := { s with msgs := mdel s.msgs msg }
    let k := m.dest.val
    .next (if (s.core k).epoch != m.epoch then dropStale s m
      else match m.red with
        | none => received (s.modCore k (fun c => bobFill c m.addr m.bytes m.marks)) k
        | some (ix, v, place) => contribute s m ix v place)

end Sys2Proof.Machine
end

