-- ==== Sys2Proof/Machine/Container.lean ====
section
/-! DEFINITION. Pattern containers: their layout and the checks that read it (R135, R136), and the control flow of one
core's code as the loader follows it (R137). -/

namespace Sys2Proof.Machine

/-- A field of a container. -/
abbrev Bytes := List Byte

/-- Offset of section `i` (R135). -/
def secOff (bs : Bytes) (i : Nat) : Nat := bfield bs (32 + 8 * i) 4

/-- Size of section `i`. -/
def secSize (bs : Bytes) (i : Nat) : Nat := bfield bs (36 + 8 * i) 4

/-- Bytes of an entry of each section (R136). -/
def secEntry (i : Nat) : Nat := [16, 16, 8, 32, 32, 8, 32, 16].getD i 16

/-- Entries of section `i`. -/
def secCount (bs : Bytes) (i : Nat) : Nat := secSize bs i / secEntry i

/-- A field of entry `n` of section `i`. -/
def ent (bs : Bytes) (i n off len : Nat) : Nat := bfield bs (secOff bs i + secEntry i * n + off) len

/-- A condition holds of every entry of a section. -/
def allEnt (bs : Bytes) (i : Nat) (f : Nat → Bool) : Bool := (List.range (secCount bs i)).all f

/-- MAGIC, VERSION, HDR_SIZE, sizes, alignment, reserved fields and encodings (R137, PAT_FORMAT). -/
def formatOk (bs : Bytes) : Bool :=
  decide (128 ≤ bs.length) && bfield bs 0 4 == 0x31445247 && bfield bs 4 2 == 2 && bfield bs 6 2 == 128
  && bfield bs 8 4 == bs.length && decide (bfield bs 16 1 ≤ 2) && decide (bfield bs 17 1 < 64)
  && decide (bfield bs 19 1 < 4) && bfield bs 29 3 == 0 && bfield bs 112 16 == 0
  && (List.range 8).all (fun i => secOff bs i % 16 == 0 && secSize bs i % secEntry i == 0
      && decide (128 ≤ secOff bs i) && decide (secOff bs i + secSize bs i ≤ bs.length))
  && secCount bs 0 == bfield bs 20 2 && secCount bs 1 == bfield bs 22 2 && secCount bs 3 == bfield bs 28 1
  && allEnt bs 0 (fun n => ent bs 0 n 2 2 == 0 && ent bs 0 n 13 3 == 0 && ent bs 0 n 4 4 % 16 == 0
      && decide (ent bs 0 n 4 4 + 16 * ent bs 0 n 8 2 ≤ secSize bs 7))
  && allEnt bs 1 (fun n => ent bs 1 n 6 2 == 0)
  && allEnt bs 2 (fun n => ent bs 2 n 1 1 == 0)
  && allEnt bs 3 (fun n => decide (ent bs 3 n 0 1 ≤ 4) && decide (ent bs 3 n 1 1 < 8) && ent bs 3 n 2 2 == 0
      && ent bs 3 n 16 16 == 0)
  && allEnt bs 4 (fun n => decide (ent bs 4 n 1 1 ≤ 1) && ent bs 4 n 2 2 == 0 && ent bs 4 n 29 3 == 0)
  && allEnt bs 5 (fun n => let w := ent bs 5 n 0 8; !bit w 15 && decide (bits w 16 2 ≤ 2) && bits w 60 4 == 0)
  && allEnt bs 6 (fun n => decide (ent bs 6 n 0 1 ≤ 1) && decide (ent bs 6 n 1 1 ≤ 5) && decide (ent bs 6 n 2 1 ≤ 7)
      && ent bs 6 n 3 1 == 0 && ent bs 6 n 24 8 == 0)

/-- The container's CRC (R135). -/
def crcOk (bs : Bytes) : Bool :=
  (crc32c (bs.take 12 ++ [0, 0, 0, 0] ++ bs.drop 16)).toNat == bfield bs 12 4

/-- The claims of a container (R136). -/
def readClaims (bs : Bytes) : List Claim :=
  (List.range (secCount bs 5)).map (fun n =>
    let w := ent bs 5 n 0 8
    { slot := bits w 0 8, loc := bits w 8 7, kind := bits w 16 2, stream := bits w 18 6, step := bits w 24 8,
      first := bits w 32 12, last := bits w 44 12, period := bits w 56 4 })

/-- A claim-stream entry. -/
def readStream (bs : Bytes) (n : Nat) : ClaimStream :=
  let e := ent bs 4 n
  { region := e 0 1, indirect := e 1 1 == 1, start := e 4 4, bobbin := e 8 4, ring := e 12 4, index := e 16 4,
    count := e 20 4, limit := e 24 4, width := e 28 1 }

/-- A core-table entry with its code and streams. -/
def readCore (bs : Bytes) (n : Nat) : PatCore :=
  let e := ent bs 0 n
  { cluster := e 0 1, loc := e 1 1,
    code := (List.range (e 8 2)).map (fun j => BitVec.ofNat 128 (bfield bs (secOff bs 7 + e 4 4 + 16 * j) 16)),
    streams := (List.range (e 12 1)).map (fun j => readStream bs (e 10 2 + j)) }

/-- The pattern that a well-formed container describes. -/
def readPattern (bs : Bytes) (loader : Option Ctx) : Pattern :=
  { loader := loader, tset := bfield bs 16 1, modeMask := BitVec.ofNat 6 (bfield bs 17 1), clusters := bfield bs 18 1,
    oneDie := bit (bfield bs 19 1) 0, sr := bit (bfield bs 19 1) 1, length := bfield bs 24 4,
    cores := (List.range (secCount bs 0)).map (readCore bs),
    steps := (List.range (secCount bs 1)).map (fun n =>
      { first := ent bs 1 n 0 4, frames := ent bs 1 n 4 2,
        pages := (List.range (ent bs 1 n 12 4)).map (fun j =>
          let e := ent bs 2 (ent bs 1 n 8 4 + j)
          { region := e 0 1, count := e 2 2, first := e 4 4 }) }),
    regions := (List.range (secCount bs 3)).map (fun n =>
      let f := ent bs 3 n 1 1
      { kind := ent bs 3 n 0 1, double := bit f 0, replicate := bit f 1, light := bit f 2, share := ent bs 3 n 4 4,
        size := ent bs 3 n 8 8 }),
    claims := readClaims bs,
    xtable := (List.range (secCount bs 6)).map (fun n =>
      let e := ent bs 6 n
      { reduction := e 0 1 == 1, op := e 1 1, order := e 2 1, dest := e 4 4, src := e 8 4, dst := e 12 4, len := e 16 4,
        first := e 20 4 }) }

/-- The sizes of an indirect row (R124). -/
def rowSizes : List Nat := [64, 128, 256, 512, 1024, 2048, 4096]

/-- Counts and limits of R135 and R136, with the loader rows of R460 (R137, PAT_LIMIT). -/
def limitsOk (bs : Bytes) : Bool :=
  let steps := secCount bs 1
  let cores := secCount bs 0
  let regions := secCount bs 3
  let mm := bfield bs 17 1
  decide (bs.length ≤ 67108864) && decide (1 ≤ bfield bs 18 1) && decide (bfield bs 18 1 ≤ 20)
  && decide (1 ≤ cores) && decide (cores ≤ 2560) && decide (1 ≤ steps) && decide (steps ≤ 256)
  && decide (1 ≤ regions) && decide (regions ≤ 64) && decide (bfield bs 24 4 ≤ 1048576)
  && bfield bs 24 4 == (List.range steps).foldl (fun n i => n + ent bs 1 i 4 2) 0
  && allEnt bs 0 (fun n => decide (ent bs 0 n 0 1 < bfield bs 18 1) && decide (ent bs 0 n 1 1 ≤ 127)
      && decide (1 ≤ ent bs 0 n 8 2) && decide (ent bs 0 n 8 2 ≤ 4096) && decide (ent bs 0 n 12 1 ≤ 64)
      && decide (ent bs 0 n 10 2 + ent bs 0 n 12 1 ≤ secCount bs 4))
  && decide ((List.range cores).map (fun n => ent bs 0 n 0 2)).Nodup
  && allEnt bs 1 (fun n => ent bs 1 n 0 4 == (List.range n).foldl (fun k i => k + ent bs 1 i 4 2) 0
      && decide (1 ≤ ent bs 1 n 4 2) && decide (ent bs 1 n 4 2 ≤ 4096) && decide (ent bs 1 n 12 4 ≤ 65536)
      && decide (ent bs 1 n 8 4 + ent bs 1 n 12 4 ≤ secCount bs 2))
  && allEnt bs 2 (fun n => decide (ent bs 2 n 0 1 < regions) && decide (1 ≤ ent bs 2 n 2 2))
  && allEnt bs 4 (fun n =>
      let s := readStream bs n
      decide (s.region < regions) && decide (s.bobbin < bobSize) && s.bobbin % 32 == 0
      && (if s.indirect then s.start % 64 == 0 && rowSizes.contains s.ring && decide (1 ≤ s.width) && decide (s.width ≤ 32)
          else s.ring % 256 == 0 && decide (0 < s.ring) && decide (s.ring ≤ bobSize)))
  && (readClaims bs).all (fun c => decide (c.step < steps) && decide (c.first ≤ c.last)
      && decide (c.last < ent bs 1 c.step 4 2)
      && (List.range cores).all (fun n => ent bs 0 n 1 1 != c.loc || decide (c.stream < ent bs 0 n 12 1)))
  && allEnt bs 6 (fun n => decide (ent bs 6 n 4 4 < cores) && decide (ent bs 6 n 8 4 < bobSize)
      && decide (ent bs 6 n 12 4 < bobSize) && (ent bs 6 n 0 1 == 0 || decide (ent bs 6 n 20 4 < cores)))
  && (List.range 6).all (fun m => !bit mm m || modeSet m == bfield bs 16 1)
  && !bit mm 5 && (!bit mm 4 || allEnt bs 0 (fun n => decide (ent bs 0 n 1 1 < 64)))

/-- An X field is an encoding of R111, and a LOOP's target lies in the code. -/
def xEncodingOk (x len : Nat) : Bool := match decodeX 0 x with
  | some (.loop _ _ target) => decide (target.toNat < len)
  | r => r.isSome

/-- What the loader knows of one core's run: T-engine reads and data-addressed accesses as intervals of cycles, static
accesses as cycle, address, size and write; sends; XWAITs with the cycle of the XCLR before them. -/
structure Trace where
  tReads : List (Nat × Nat) := []
  held   : List (Nat × Nat) := []
  acc    : List (Nat × Nat × Nat × Bool) := []
  sends  : List (Nat × Nat × Bool) := []
  waits  : List (Nat × Nat × Nat) := []
  issueOk  : Bool := true
  timingOk : Bool := true
  deriving DecidableEq, Repr

/-- Where the loader stands in a core's control flow. -/
structure Walk1 where
  pc     : Nat := 0
  cyc    : Nat := 128
  step   : Nat := 0
  loops  : AMap (Nat × Nat) := []
  acw    : BitVec 19 := 0
  tBusy  : Nat := 0
  sBusy  : Nat := 0
  xBusy  : Nat := 0
  clear  : Nat := 0
  trace  : Trace := {}
  halted : Bool := false
  deriving DecidableEq, Repr

/-- The issue interval of an S class (R89, R112). -/
def sInterval (cls : Nat) : Nat := match cls with | 2 => 8 | 9 => 2 | 10 => 2 | 12 => 32 | _ => 1

/-- The walk stops with code that cannot issue. -/
def Walk1.bad (w : Walk1) : Walk1 := { w with halted := true, trace := { w.trace with issueOk := false } }

/-- The T field issues (R106). -/
def walkT (w : Walk1) (t : Nat) : Walk1 :=
  if t = 0 then w
  else if w.cyc < w.tBusy then w.bad
  else
    let busy := w.cyc + (bits t 12 10 + 1) * (if acwRate w.acw = .r16 then 2 else 1)
    { w with tBusy := busy,
             trace := if bits t 29 8 = 0 then w.trace else { w.trace with tReads := (w.cyc, busy) :: w.trace.tReads } }

/-- The S field issues (R89, R110, R112, R115). -/
def walkS (w : Walk1) (f : Nat) : Walk1 :=
  let cls := bits f 4 4
  let op := bits f 0 4
  if cls = 0 then w
  else if w.cyc < w.sBusy then w.bad
  else
    let w := { w with sBusy := w.cyc + sInterval cls }
    let hold := fun (n : Nat) => { w with trace := { w.trace with held := (w.cyc, w.cyc + n) :: w.trace.held } }
    if cls = 12 then hold 32
    else if cls = 13 then
      if 2 ≤ op then hold 16
      else if bits f 8 2 = 1 then hold 1
      else
        let base := bits f 32 16 * 4 + (if bits f 8 2 = 2 then 128 * (mget (0, 0) w.loops (bits f 17 3)).2 else 0)
        { w with trace := { w.trace with acc := (w.cyc, base % bobSize / 128 * 128, 128, op == 1) :: w.trace.acc } }
    else w

/-- The X field issues, and the walk goes to the next bundle (R111, R112). -/
def walkX (xt : List XEntry) (starts : List Nat) (w : Walk1) (x : Nat) : Walk1 :=
  let go := fun (w : Walk1) => { w with pc := w.pc + 1, cyc := w.cyc + 1 }
  match bits x 0 6 with
  | 1 =>
    match starts[w.step + 1]? with
    | some f => { w with pc := w.pc + 1, step := w.step + 1, cyc := f * 1280 + 2 }
    | none => { w with halted := true }
  | 2 => { w with halted := true }
  | 3 => go { w with loops := mput w.loops (bits x 6 3) (bits x 9 23, 0) }
  | 4 =>
    let l := mget (0, 0) w.loops (bits x 6 3)
    let w := { w with loops := mput w.loops (bits x 6 3) (l.1, l.2 + 1) }
    if l.2 + 1 < l.1 then { w with pc := bits x 9 12, cyc := w.cyc + 1 } else go w
  | 5 =>
    let t := waitfTarget w.cyc (bits x 6 11) (bits x 17 8)
    if t ≤ w.cyc then w.bad else { w with pc := w.pc + 1, cyc := t }
  | 6 => go { w with acw := BitVec.ofNat 19 (bits x 6 19) }
  | 7 => go { w with trace := { w.trace with acc := (w.cyc, bits x 9 14 * 16, 16, false) :: w.trace.acc } }
  | 10 => go { w with trace := { w.trace with waits := (w.cyc, bits x 6 16, w.clear) :: w.trace.waits } }
  | 11 => go { w with clear := w.cyc }
  | 0 => go w
  | c =>
    match xt[bits x 6 12]? with
    | none => w.bad
    | some e =>
      if e.reduction != (c == 9) || decide (w.cyc < w.xBusy) then w.bad
      else go { w with xBusy := w.cyc + beats e,
                       trace := { w.trace with sends := (w.cyc, bits x 6 12, e.reduction) :: w.trace.sends } }

/-- The walk of one core's code; every bundle takes a cycle, so it ends within the pattern's length. -/
def walkCore (code : List (BitVec 128)) (xt : List XEntry) (starts ends : List Nat) : Nat → Walk1 → Walk1
  | 0, w => w
  | n + 1, w =>
    if w.halted then w else
    match code[w.pc]? with
    | none => { w with halted := true, trace := { w.trace with timingOk := false } }
    | some b =>
      if ends.getD w.step 0 * 1280 ≤ w.cyc then { w with halted := true, trace := { w.trace with timingOk := false } }
      else
        let w := walkT w (fieldT b)
        let w := if w.halted then w else walkS w (fieldS b)
        walkCore code xt starts ends n (if w.halted then w else walkX xt starts w (fieldX b))

/-- The encodings of a core's code. -/
def codeOk (code : List (BitVec 128)) : Bool :=
  code.all (fun b => (decodeT 0 (fieldT b)).isSome && (decodeS 0 (fieldS b)).isSome && xEncodingOk (fieldX b) code.length)

/-- The trace of a core of a pattern. -/
def traceOf (p : Pattern) (c : PatCore) : Trace :=
  (walkCore c.code p.xtable (p.steps.map (fun (s : PatStep) => s.first)) (p.steps.map (fun (s : PatStep) => s.first + s.frames))
    (p.length * 1280 + 1) {}).trace

end Sys2Proof.Machine
end

