-- ==== Sys2Proof/Machine/Control.lean ====
section
/-! DEFINITION. The running of an MCI command on any path: its layout (R402), authority (R379, R380), common statuses
(R403, R208, R210, R419, R427), its answer (R383, R397), and the commands of the paths themselves. -/

namespace Sys2Proof.Machine

/-- Authority classes (R379). -/
inductive MciClass where
  | any | anyNotRing | context | device | fabric
  deriving DecidableEq, Repr

/-- A row of the MCI command table (R402): its class, the fields of its input as offset and size, and the size of the
whole. Counted arrays add to both. -/
structure MciRow where
  cls    : MciClass
  fields : List (Nat × Nat)
  len    : Nat
  deriving DecidableEq, Repr

/-- The rows of R402 without counted arrays. -/
def mciRow (op : Nat) : Option MciRow :=
  match op with
  | 0xC000 => some ⟨.any, [], 0⟩
  | 0xC001 => some ⟨.anyNotRing, [(0, 2)], 2⟩
  | 0xC010 => some ⟨.context, [(0, 8), (8, 4)], 12⟩
  | 0xC011 => some ⟨.context, [(0, 4)], 4⟩
  | 0xC012 => some ⟨.context, [(0, 4), (4, 1), (8, 20)], 32⟩
  | 0xC013 => some ⟨.context, [(0, 4)], 4⟩
  | 0xC020 => some ⟨.context, [(0, 8), (8, 4), (12, 1), (13, 1), (14, 1), (16, 4), (24, 20)], 44⟩
  | 0xC021 => some ⟨.context, [(0, 4)], 4⟩
  | 0xC022 => some ⟨.context, [(0, 4), (4, 1)], 5⟩
  | 0xC023 => some ⟨.context, [(0, 4)], 4⟩
  | 0xC030 => some ⟨.context, [(0, 4)], 4⟩
  | 0xC031 => some ⟨.context, [(0, 4)], 4⟩
  | 0xC040 => some ⟨.context, [(0, 4)], 4⟩
  | 0xC041 => some ⟨.context, [(0, 4), (4, 4), (8, 8)], 16⟩
  | 0xC042 => some ⟨.context, [(0, 4)], 4⟩
  | 0xC043 => some ⟨.context, [(0, 4)], 4⟩
  | 0xC044 => some ⟨.context, [(0, 4)], 4⟩
  | 0xC045 => some ⟨.context, [(0, 4), (4, 4), (8, 8)], 16⟩
  | 0xC046 => some ⟨.context, [(0, 4)], 4⟩
  | 0xC047 => some ⟨.context, [(0, 4)], 4⟩
  | 0xC050 => some ⟨.context, [], 0⟩
  | 0xC051 => some ⟨.fabric, [(0, 2), (2, 1), (4, 4)], 8⟩
  | 0xC060 => some ⟨.context, [(0, 4), (4, 1), (5, 1), (6, 1), (7, 1), (8, 4), (12, 4), (16, 4), (20, 4)], 24⟩
  | 0xC061 => some ⟨.context, [(0, 4)], 4⟩
  | 0xC070 => some ⟨.context, [(0, 8), (8, 4), (12, 1), (13, 1)], 14⟩
  | 0xC071 => some ⟨.device, [(0, 1), (1, 1), (2, 1)], 3⟩
  | 0xC080 => some ⟨.device, [(0, 1)], 1⟩
  | 0xC081 => some ⟨.device, [(0, 1)], 1⟩
  | 0xC090 => some ⟨.device, [(0, 1)], 8⟩
  | 0xC091 => some ⟨.device, [], 0⟩
  | 0xC0A0 => some ⟨.device, [(0, 1), (8, 8)], 16⟩
  | 0xC0A1 => some ⟨.any, [], 0⟩
  | 0xC0B0 => some ⟨.fabric, [(0, 2)], 4⟩
  | 0xC0B1 => some ⟨.fabric, [(0, 1)], 1⟩
  | 0xC0B2 => some ⟨.fabric, [(0, 2), (2, 1)], 3⟩
  | 0xC0B3 => some ⟨.fabric, [(0, 4), (4, 1)], 5⟩
  | 0xC0B4 => some ⟨.fabric, [(0, 4), (4, 1), (8, 8)], 16⟩
  | 0xC0C0 => some ⟨.context, [(0, 2), (2, 1), (4, 4), (8, 64)], 72⟩
  | 0xC0C1 => some ⟨.context, [(0, 2)], 2⟩
  | 0xC0D0 => some ⟨.device, [(0, 2)], 2⟩
  | 0xC0D1 => some ⟨.fabric, [(0, 2)], 2⟩
  | 0xC0D2 => some ⟨.device, [(0, 1), (1, 1)], 2⟩
  | _ => none

/-- The bytes that the counted array of an input adds (R402). -/
def mciArray (op : Nat) (input : List Byte) : Nat :=
  match op with
  | 0xC012 => 4 * bfield input 4 1
  | 0xC090 => 8 * bfield input 0 1
  | 0xC0B0 => 4 * bfield input 0 2
  | _ => 0

/-- Bytes of an input that no field holds (R14). -/
def unusedZero (fields : List (Nat × Nat)) (len : Nat) (input : List Byte) : Bool :=
  (List.range len).all (fun i => fields.any (fun f => decide (f.1 ≤ i) && decide (i < f.1 + f.2)) || input.getD i 0 == 0)

/-- The encodings of an input are not reserved (R14, R402). -/
def mciEncodings (op : Nat) (input : List Byte) : Bool :=
  let b := fun i => bfield input i 1
  match op with
  | 0xC020 => decide (b 12 ≤ 3) && decide (b 13 ≤ 2)
  | 0xC022 => decide (b 4 ≤ 3)
  | 0xC051 => decide (b 2 ≤ 1)
  | 0xC060 => decide (b 4 ≤ 1) && decide (b 6 ≤ 2) && decide (b 7 ≤ 1)
  | 0xC070 => decide (b 12 ≤ 3) && decide (b 13 ≤ 1)
  | 0xC090 => (List.range (b 0)).all (fun i =>
      b (11 + 8 * i) == 0 && decide (bfield input (12 + 8 * i) 4 < 0x100000))
  | 0xC0A0 => decide (b 0 ≤ 5)
  | 0xC0B0 => (List.range (bfield input 0 2)).all (fun i => decide (bfield input (4 + 4 * i) 4 < 0x40000000))
  | 0xC0B2 => decide (b 2 ≤ 1)
  | 0xC0B3 => b 4 == 4 || b 4 == 8
  | 0xC0B4 => b 4 == 4 || b 4 == 8
  | 0xC0C0 => decide (b 2 ≤ 1)
  | 0xC0D2 => decide (b 0 ≤ 2)
  | _ => true

/-- A field of the input. -/
def MciCall.f (m : MciCall) (off n : Nat) : Nat := bfield m.input off n

/-- The answer of a handler: ended with a status and output, or it waits and ends later. -/
inductive Answer where
  | done (status : Nat) (out : List Byte)
  | waits
  deriving DecidableEq, Repr

/-- A handler: the effect of a command and its answer. -/
abbrev Handler := State → MciCall → State × Answer

/-- A mailbox of a port. -/
def mbox (s : State) (p : Port) (secondary : Bool) : Mailbox := if secondary then (s.port p).mbox1 else (s.port p).mbox0

/-- Changes a mailbox. -/
def State.modMbox (s : State) (p : Port) (secondary : Bool) (f : Mailbox → Mailbox) : State :=
  s.modPort p (fun x => if secondary then { x with mbox1 := f x.mbox1 } else { x with mbox0 := f x.mbox0 })

/-- The context that a path's class C commands act for (R379, R380). -/
def pathCtx (s : State) (via : Path) : Option Ctx :=
  match via with
  | .ring c => some c
  | .mailbox p b => (mbox s p b).ctx
  | .sideband n => (mget? s.sbCtx n.val).map toCtx

/-- A path comes through the owner port's mailboxes. -/
def viaOwner (s : State) (via : Path) : Bool :=
  match via with
  | .mailbox p _ => s.owner == some p
  | _ => false

/-- A class accepts a path (R379). -/
def classAccepts (s : State) (cls : MciClass) (via : Path) : Bool :=
  match cls, via with
  | .any, _ => true
  | .anyNotRing, .ring _ => false
  | .anyNotRing, _ => true
  | .context, _ => true
  | .device, .mailbox p _ => s.owner == some p
  | .device, .sideband _ => true
  | .device, .ring _ => false
  | .fabric, .sideband _ => true
  | .fabric, _ => false

/-- The commands that complete with OUT_OF_SERVICE (R427). -/
def outOfServiceOps : List Nat := [0xC010, 0xC012, 0xC020, 0xC022, 0xC030, 0xC040, 0xC041, 0xC045, 0xC060, 0xC0C0]

/-- The commands that a quarantined context may still give (R419). -/
def quarantineOps : List Nat := [0xC013, 0xC011, 0xC021, 0xC044, 0xC046, 0xC061, 0xC031, 0xC0C1, 0xC050, 0xC023]

/-- A path is that of a tenant: its work ring or a mailbox of a port other than the owner's (R210). -/
def tenantPath (s : State) (via : Path) : Bool :=
  match via with
  | .ring _ => true
  | .mailbox p _ => s.owner != some p
  | .sideband _ => false

/-- The common statuses that come before a command's own, in their order. -/
def commonStatus (s : State) (op : Nat) (row : MciRow) (via : Path) : Nat :=
  let c := pathCtx s via
  if !classAccepts s row.cls via then stDenied
  else if row.cls == .context && c.isNone then stNoContext
  else if s.rv.outOfService && outOfServiceOps.contains op then stOutOfService
  else match c with
    | some c =>
      if row.cls == .context && tenantPath s via && (s.ctx c).expired then stLeaseExpired
      else if row.cls == .context && (s.ctx c).quarantined && !quarantineOps.contains op then stQuarantined
      else stOK
    | none => stOK

/-- The CXL return code of an input (R383): 0, or Unsupported, Invalid Payload Length or Invalid Input. -/
def returnCode (op : Nat) (input : List Byte) : Nat :=
  match mciRow op with
  | none => 3
  | some r =>
    if input.length ≠ r.len + mciArray op input then 0x16
    else if !unusedZero r.fields r.len input || !mciEncodings op input then 2
    else 0

/-- The commands that a mailbox runs in the background (R383). -/
def backgroundOps : List Nat := [0xC010, 0xC031, 0xC042, 0xC0A0]

/-- Writes bytes to device memory on a context's behalf, line by line. -/
def writeBytes (s : State) (w : DevWriter) (addr : Nat) (bs : List Byte) : State :=
  foldN (if bs.isEmpty then 0 else (addr + bs.length - 1) / 64 + 1 - addr / 64) (fun i s =>
    let lo := max addr ((addr / 64 + i) * 64)
    let hi := min (addr + bs.length) ((addr / 64 + i + 1) * 64)
    deviceWrite s w lo ((bs.drop (lo - addr)).take (hi - lo)) false) s

/-- The output payload of a status (R383). -/
def answerBytes (status : Nat) (out : List Byte) : List Byte :=
  leBytes 2 status ++ [0, 0] ++ (if status = stOK then out else [])

/-- Ends a STEWARD command on a ring (R397): output to OUT if it fits, and the completion. -/
def endSteward (s : State) (c : Ctx) (tag : Word) (status : Nat) (out : List Byte) : State :=
  match (s.ctx c).ring.flights.find? (fun f => f.steward && f.tag == tag && f.begun && f.ended.isNone) with
  | none => s
  | some f =>
    let s := s.bump 0xA0018 1
    let bs := answerBytes status out
    if f.outLen < bs.length then endFlight s c tag 16 stLength [0]
    else endFlight (writeBytes s (stewardOf c tag) f.outAddr bs) c tag 16 status (w1 bs.length)

/-- Ends an MCI command whose return code is Success, with its status and output. A background command's result stands
in its mailbox until the Background Command Status Register shows completion. A mailbox's command has tag 0, and tag 1
once a function-level reset has taken its result away (R385). -/
def answer (s : State) (via : Path) (tag : Word) (op status : Nat) (out : List Byte) : State :=
  match via with
  | .ring c => endSteward s c tag status out
  | .sideband _ => (s.bump 0xA0018 1).reply via 0 (answerBytes status out)
  | .mailbox p b =>
    let s := s.bump 0xA0018 1
    if backgroundOps.contains op then
      s.modMbox p b (fun m => { m with bg := m.bg.map (fun g => { g with output := answerBytes status out, done := true }) })
    else if tag != 0 then s
    else s.reply via 0 (answerBytes status out)

/-- The steward is running and hears a path (R386, R469, R470, R385). -/
def stewardHears (s : State) (via : Path) : Bool :=
  let up := decide (3 ≤ s.pw.stage)
  match via with
  | .sideband n => s.fieldOf 0xA0000 n.val 1 == 1 && (up || (s.pw.held && s.pw.cause != 1))
  | .mailbox p _ => up && (s.port p).up && !(s.port p).inReset
  | .ring _ => up

/-- The oldest STEWARD entry of a context that has been handed over and not begun is this command. -/
def handed (s : State) (c : Ctx) (op : Nat) (input : List Byte) : Option Flight :=
  match (s.ctx c).ring.flights.find? (fun f => f.steward && !f.begun && f.ended.isNone) with
  | some f => if f.mci.toNat = op && f.mci ≠ 0 && f.input == input then some f else none
  | none => none

/-- Marks a handed entry as begun. -/
def beginFlight (s : State) (c : Ctx) (tag : Word) : State :=
  s.modCtx c (fun x => { x with ring := { x.ring with
    flights := x.ring.flights.map (fun (g : Flight) =>
      if g.steward && g.tag == tag && !g.begun && g.ended.isNone then { g with begun := true } else g) } })

/-- Runs an accepted command: the common statuses, then its handler. -/
def runHandler (s : State) (via : Path) (tag : Word) (op : Nat) (row : MciRow) (input : List Byte) (h : Handler) : State :=
  let st := commonStatus s op row via
  if st = stDenied then answer (setInt s 10 2) via tag op st []
  else if st ≠ stOK then answer s via tag op st []
  else
    let (s, a) := h s { via := via, tag := tag, ctx := pathCtx s via, owner := viaOwner s via, input := input }
    match a with
    | .done st out => answer s via tag op st out
    | .waits => s

/-- One MCI command on its path (R379 to R387). -/
def mci (s : State) (via : Path) (op : Nat) (input : List Byte) (h : Handler) : State :=
  if !stewardHears s via then s else
  let rc := returnCode op input
  match via, mciRow op with
  | .ring c, row =>
    match handed s c op input with
    | none => s
    | some f =>
      let s := beginFlight s c f.tag
      match row with
      | none => endSteward s c f.tag stReserved []
      | some row =>
        if rc = 0x16 then endSteward s c f.tag stLength []
        else if rc ≠ 0 then endSteward s c f.tag stReserved []
        else runHandler s via f.tag op row input h
  | .sideband _, some row =>
    if rc ≠ 0 then s.reply via (BitVec.ofNat 16 rc) [] else runHandler s via 0 op row input h
  | .mailbox p b, some row =>
    if rc ≠ 0 then s.reply via (BitVec.ofNat 16 rc) []
    else if backgroundOps.contains op then
      if (mbox s p b).bg.isSome then s.reply via 6 []
      else
        let s := (s.modMbox p b (fun m => { m with bg := some { opcode := BitVec.ofNat 16 op } })).reply via 1 []
        runHandler s via 0 op row input h
    else runHandler s via 0 op row input h
  | _, none => s.reply via 3 []

/-- The Background Command Status Register shows completion (R383): the result is read, or discarded after a
function-level reset (R385). -/
def backgroundDone (s : State) (p : Port) (b : Bool) : State :=
  match (mbox s p b).bg with
  | some g =>
    if !g.done then s else
    let gone := (mbox s p b).discard
    let s := s.modMbox p b (fun m => { m with bg := none, discard := false })
    if gone then s else
    let s := s.emit (.mailbox (.mailbox p b) 0 g.output)
    if (mbox s p b).bgInt then sendMsix s (.pf p) (b2n b) else s
  | none => s

/-- BACKGROUND_COMMAND_COMPLETE (R383). -/
def execBackgroundCommandComplete (p : Port) (secondary : Bool) (s : State) : Out := .next (backgroundDone s p secondary)

/-- The PATH byte of MCI_IDENTIFY. -/
def pathCode (s : State) (via : Path) : Nat :=
  match via with
  | .mailbox p _ => if s.owner = some p then 1 else 0
  | .sideband _ => 2
  | .ring _ => 3

/-- The port of a path: its PF's, or that of the ring's VF; a sideband port has none. -/
def pathPort (via : Path) : Nat :=
  match via with
  | .mailbox p _ => p.val
  | .sideband _ => 0xFF
  | .ring c => (ctxPort c).val

/-- MAJOR, MINOR, PATCH, SVN and COMMIT_SVN of the image that runs (R444, R454): that of manufacture where no other image has
been accepted. -/
def runningFw (s : State) : Nat × Nat × Nat × Nat × Bool :=
  match s.fwRun with
  | some i => (i.major, i.minor, i.patch, i.svn, i.commit)
  | none => (2, Config.fwMinor.toNat, Config.fwPatch.toNat, Config.fwSvn.toNat, Config.fwCommit)

/-- MCI_IDENTIFY (R402). -/
def identify : Handler := fun s m =>
  (s, .done stOK (([0xB1, 0] : List Byte) ++ leBytes 2 (runningFw s).1 ++ leBytes 2 (runningFw s).2.1 ++ leBytes 2 (runningFw s).2.2.1
    ++ leBytes 1 (pathCode s m.via) ++ leBytes 1 (pathPort m.via)
    ++ leBytes 2 (match m.ctx with | some c => c.val | none => 0xFFFF) ++ leBytes 8 Config.serial.toNat))

/-- MCI_IDENTIFY. -/
def execMciIdentify (via : Path) (input : List Byte) (s : State) : Out := .next (mci s via 0xC000 input identify)

/-- CTX_SELECT (R380): a tenant port's mailbox selects none but the port's own contexts. -/
def selectCtx : Handler := fun s m =>
  let n := m.f 0 2
  match m.via with
    | .mailbox p b =>
      if !m.owner && n / 64 != p.val then (s, .done stDenied [])
      else if 512 ≤ n then (s, .done stRange [])
      else (s.modMbox p b (fun x => { x with ctx := some (toCtx n) }), .done stOK [])
    | .sideband k => if 512 ≤ n then (s, .done stRange []) else ({ s with sbCtx := mput s.sbCtx k.val n }, .done stOK [])
    | .ring _ => (s, .done stDenied [])

/-- CTX_SELECT. -/
def execCtxSelect (via : Path) (input : List Byte) (s : State) : Out := .next (mci s via 0xC001 input selectCtx)

/-- PORT_ROLE_SET (R331, R380): the owner port. -/
def setRole : Handler := fun s m =>
  let n := m.f 0 1
  if 8 ≤ n && n ≠ 0xFF then (s, .done stRange []) else
  let o : Option Port := if n = 0xFF then none else some (Fin.ofNat 8 n)
  if o = s.owner then (s, .done stOK []) else
  (allPorts.foldl (fun s p => s.modPort p (fun x => { x with
      mbox0 := { x.mbox0 with ctx := none }, mbox1 := { x.mbox1 with ctx := none } })) { s with owner := o }, .done stOK [])

/-- PORT_ROLE_SET. -/
def execPortRoleSet (via : Path) (input : List Byte) (s : State) : Out := .next (mci s via 0xC0B1 input setRole)

/-- SWAP_GRANT (R347, R402). -/
def swapGrantSet : Handler := fun s m =>
  let n := m.f 0 2
  if 512 ≤ n then (s, .done stRange [])
  else if !ctxEnabled s (toCtx n) then (s, .done stNoContext [])
  else (s.modCtx (toCtx n) (fun x => { x with swapGrant := m.f 2 1 == 1 }), .done stOK [])

/-- SWAP_GRANT. -/
def execSwapGrant (via : Path) (input : List Byte) (s : State) : Out := .next (mci s via 0xC0B2 input swapGrantSet)

/-- SRCID_SET (R337): entries are staged, and the table commits at a frame boundary. -/
def setSources : Handler := fun s m =>
  let es := (List.range (m.f 0 2)).map (fun i => m.f (4 + 4 * i) 4)
  if es.any (fun e => bits e 0 12 == 0) then (s, .done stRange []) else
  let t := es.foldl (fun (t : AMap SrcEntry) e => mput t (bits e 0 12)
    { valid := bit e 12, ctx := toCtx (bits e 13 9), mask := BitVec.ofNat 8 (bits e 22 8) }) s.srcStaged
  ({ s with srcStaged := t, srcDue := true }, .done stOK [])

/-- SRCID_SET. -/
def execSrcidSet (via : Path) (input : List Byte) (s : State) : Out := .next (mci s via 0xC0B0 input setSources)

end Sys2Proof.Machine
end

