-- ==== Sys2Proof/Machine/Objects.lean ====
section
/-! DEFINITION. The object commands (R146 to R149, R168), the order of the range (R240, R241), and the coherent
windows (R211, R212, R220). -/

namespace Sys2Proof.Machine

/-- The caller owns an object, or is the owner port (R168). -/
def ownsObj (m : MciCall) (o : Obj) : Bool := m.owner || m.ctx == some o.owner

/-- The context a class C command acts for. -/
def MciCall.c (m : MciCall) : Ctx := m.ctx.getD 0

/-- A pattern that a caller may name: its loader's, or any for the owner port (R402 PAT_LOAD). -/
def patternFor (s : State) (m : MciCall) (n : Nat) : Option Pattern :=
  match mget? s.patterns n with
  | some p => if m.owner || p.loader == m.ctx then some p else none
  | none => none

/-- A cluster map names C distinct physical clusters, on one base die where ONE_DIE is set (R149, R138). -/
def mapOk (p : Pattern) (cmap : List Nat) : Bool :=
  decide (cmap.length = p.clusters) && cmap.all (fun k => decide (k < 20)) && decide cmap.Nodup
    && (!p.oneDie || (cmap.all (fun k => decide (k < 10)) || cmap.all (fun k => decide (10 ≤ k))))

/-- The local indices of the cores of a logical cluster, in core-table order. -/
def clusterLocals (p : Pattern) (k : Nat) : List Nat := (p.cores.filter (fun (c : PatCore) => c.cluster == k)).map (·.loc)

/-- A list in rising order. -/
def sorted (l : List Nat) : List Nat := l.foldl (fun m a => linsert a m) []

/-- The slivers of the shares of a PLACED or REPLICATED object, for each copy (R149); none where the layout refuses. -/
def layoutShares (p : Pattern) (r : Region) (replicated : Bool) (pages : Nat) (cmap : List Nat) : Option (List (List Nat)) :=
  if !mapOk p cmap then none
  else if replicated then
    let ls := clusterLocals p 0
    if r.replicate && pages == ls.length * r.share
        && (List.range p.clusters).all (fun k => sorted (clusterLocals p k) == sorted ls) then
      some ((List.range p.clusters).map (fun k => ls.map (fun l => cmap.getD k 0 * 128 + l)))
    else none
  else if pages = p.cores.length * r.share then
    some [p.cores.map (fun (c : PatCore) => cmap.getD c.cluster 0 * 128 + c.loc)]
  else none

/-- The cluster map of an input: the entries of the pattern's clusters. -/
def inputMap (m : MciCall) (off n : Nat) : List Nat := (List.range n).map (fun i => m.f (off + i) 1)

/-- The object of OBJ_CREATE, or the status that refuses it (R168, checks 1 and 4 to 5). -/
def newObject (s : State) (m : MciCall) : Except Nat Obj :=
  let base := m.f 0 8
  let pages := m.f 8 4
  let cls : Class := match m.f 12 1 with | 0 => .held | 1 => .warm | 2 => .cold | _ => .scratch
  let o : Obj := { base := base, pages := pages, cls := cls, layout := .interleaved, owner := m.c, head := 0 }
  if base % 65536 != 0 || pages == 0 || decide (2 ^ 47 < base + pages * 65536)
      || !grantedRun s m.c base (pages * 65536) then .error stRange
  else if overlaps s base (pages * 65536) then .error 0x52
  else if 16777216 ≤ s.objects.length then .error 0x53
  else if m.f 13 1 = 0 then .ok o
  else match patternFor s m (m.f 16 4) with
    | none => .error 0x54
    | some p =>
      match p.regions[m.f 14 1]? with
      | none => .error 0x54
      | some r =>
        let cmap := inputMap m 24 p.clusters
        match layoutShares p r (m.f 13 1 == 2) pages cmap with
        | none => .error 0x54
        | some sh =>
          if cls = .scratch && !r.light then .error 0x56
          else .ok { o with layout := if m.f 13 1 = 1 then .placed else .replicated, pattern := m.f 16 4, region := m.f 14 1,
                            cmap := cmap, shares := sh, share := r.share }

/-- OBJ_CREATE (R168). -/
def objCreateH : Handler := fun s m =>
  match newObject s m with
  | .error e => (s, .done e [])
  | .ok o =>
    match createObject s o with
    | some (s, n) => (s, .done stOK (leBytes 4 n))
    | none => (s, .done 0x55 [])

/-- OBJ_CREATE. -/
def execObjCreate (via : Path) (input : List Byte) (s : State) : Out := .next (mci s via 0xC020 input objCreateH)

/-- The views of an object. -/
def objViews (s : State) (n : Nat) : List Nat := (s.views.filter (fun (v : Nat × View) => v.2.obj == n)).map (·.1)

/-- A binding gives an object, or a view of it. -/
def bindsObj (s : State) (n : Nat) (b : Binding) : Bool :=
  b.bound.any (fun x => match x with
    | .object o => o == n
    | .view v => (objViews s n).contains v)

/-- An object is bound (R139, R168). -/
def objBound (s : State) (n : Nat) : Bool := s.bindings.any (fun b => bindsObj s n b.2)

/-- An object under its common checks: NO_OBJECT, NOT_OWNER, and DENIED while it is being released from the context (R207). -/
def ownObject (s : State) (m : MciCall) (n : Nat) : Except Nat Obj :=
  match objAt s n with
  | none => .error stNoObject
  | some o => if !ownsObj m o then .error stNotOwner else if leaving s m.ctx n then .error stDenied else .ok o

/-- OBJ_DELETE (R168). -/
def objDeleteH : Handler := fun s m =>
  match ownObject s m (m.f 0 4) with
  | .error e => (s, .done e [])
  | .ok o =>
    if o.mover.st ≠ .idle || objBound s (m.f 0 4) then (s, .done stBusy [])
    else (serveWaits (deleteObject s (m.f 0 4)), .done stOK [])

/-- OBJ_DELETE. -/
def execObjDelete (via : Path) (input : List Byte) (s : State) : Out := .next (mci s via 0xC021 input objDeleteH)

/-- Zeroed free frames of a sliver above its absorption reserve (R152). -/
def freeAbove (s : State) (sl : Nat) : Nat := sliverFree s sl - reserveOf s

/-- The frames that the pages not resident of an object need are free (R147). -/
def framesFor (s : State) (o : Obj) : Bool :=
  let miss := (List.range o.pages).filter (fun i => !sampleResident (pageAt s (pidOf s o.head i)) && (pageAt s (pidOf s o.head i)).frames.isEmpty)
  match o.layout with
  | .interleaved => decide (miss.length ≤ ((List.range 2560).map (freeAbove s)).sum)
  | _ =>
    let need := miss.flatMap (layoutSlivers o)
    (sorted need).all (fun sl => decide (need.count sl ≤ freeAbove s sl))

/-- OBJ_SET_CLASS (R147, R168, R211). DESIGN CHOICE: Scratch to Scratch is no change and completes with OK; the rule speaks of
changes to or from Scratch (log entry 134). -/
def objSetClassH : Handler := fun s m =>
  let n := m.f 0 4
  match ownObject s m n with
  | .error e => (s, .done e [])
  | .ok o =>
    let new : Class := match m.f 4 1 with | 0 => .held | 1 => .warm | 2 => .cold | _ => .scratch
    if o.mover.st ≠ .idle then (s, .done stBusy [])
    else if o.cls == .scratch || new == .scratch || s.windows.any (fun w => w.2.obj == n) then
      (s, .done (if o.cls == .scratch && new == .scratch then stOK else 0x56) [])
    else if new == .held && o.cls != .held && !framesFor s o then (s, .done 0x55 [])
    else
      let s := s.modObj n (fun o => { o with cls := new })
      (if new == .held && o.cls != .held then promotePages s n none 0 o.pages else s, .done stOK [])

/-- OBJ_SET_CLASS. -/
def execObjSetClass (via : Path) (input : List Byte) (s : State) : Out := .next (mci s via 0xC022 input objSetClassH)

/-- The number of a mover state (R402 OBJ_QUERY). -/
def moverCode (m : MoverSt) : Nat :=
  match m with | .idle => 0 | .promoting => 1 | .flushing => 2 | .evictPending => 3 | .evicting => 4

/-- The number of a class. -/
def classCode (c : Class) : Nat := match c with | .held => 0 | .warm => 1 | .cold => 2 | .scratch => 3

/-- The number of a layout. -/
def layoutCode (l : Layout) : Nat := match l with | .interleaved => 0 | .placed => 1 | .replicated => 2

/-- The entries of the page table that are pages of an object's head. -/
def headPages (s : State) (o : Obj) : List Page :=
  (s.pages.filter (fun (p : Nat × Page) => pidOf s o.head (pidIx p.1) == p.1 && decide (pidIx p.1 < o.pages))).map (·.2)

/-- A page is dirty. -/
def isDirty (p : Page) : Bool := p.st == .dirty || p.st == .writing || p.st == .redirtied

/-- OBJ_QUERY (R168, R402). -/
def objQueryH : Handler := fun s m =>
  let n := m.f 0 4
  match ownObject s m n with
  | .error e => (s, .done e [])
  | .ok o =>
    let ps := headPages s o
    let un := if o.cls == .scratch then 0 else (ps.filter (fun p => p.st == .dirty && p.resv == 0)).length
    let units := (ps.map (fun p => match p.home with | some h => h.units | none => 0)).sum
    (s, .done stOK (leBytes 1 (classCode o.cls) ++ leBytes 1 (layoutCode o.layout) ++ leBytes 1 (moverCode o.mover.st) ++ [0]
      ++ leBytes 8 o.base ++ leBytes 4 o.pages ++ leBytes 4 (ps.filter sampleResident).length
      ++ leBytes 4 (ps.filter isDirty).length ++ leBytes 4 un ++ leBytes 8 units ++ leBytes 4 (pinHolders s n).length))

/-- OBJ_QUERY. -/
def execObjQuery (via : Path) (input : List Byte) (s : State) : Out := .next (mci s via 0xC023 input objQueryH)

/-- DRAM_ORDER_SET (R240, R241). -/
def orderSetH : Handler := fun s m =>
  let base := m.f 0 8
  let count := m.f 8 4
  let u := base / 0x10000000
  let mine := s.objects.filter (fun (o : Nat × Obj) => decide (u ≤ o.2.base / 0x10000000) && decide (o.2.base / 0x10000000 < u + count))
  if base % 0x10000000 != 0 || decide (524288 < u + count) then (s, .done stRange [])
  else if !m.owner && !grantedRun s m.c base (count * 0x10000000) then (s, .done stDenied [])
  else if mine.any (fun (o : Nat × Obj) => objBound s o.1 || !(residentPids s o.1).isEmpty) then (s, .done stBusy [])
  else ({ s with orders := (List.range count).foldl (fun t i => mput t (u + i) (BitVec.ofNat 2 (m.f 12 1), m.f 13 1 == 1)) s.orders },
        .done stOK [])

/-- DRAM_ORDER_SET. -/
def execDramOrderSet (via : Path) (input : List Byte) (s : State) : Out := .next (mci s via 0xC070 input orderSetH)

/-- The size of the windows in bytes (R211). -/
def windowBytes (s : State) : Nat :=
  (s.windows.map (fun w => match objAt s w.2.obj with | some o => o.pages * 65536 | none => 0)).sum

/-- An object is bound to a region of kind 2, 3 or 4 (R211). -/
def boundForWriting (s : State) (n : Nat) : Bool :=
  s.bindings.any (fun (b : Nat × Binding) => match mget? s.patterns b.2.pattern with
    | some p => (b.2.bound.zip p.regions).any (fun (x : Bound × Region) => x.1 == .object n && decide (2 ≤ x.2.kind))
    | none => false)

/-- Stages a change of a context's decoding: a commit is due at the next boundary (R341). -/
def stageCommit (s : State) (c : Ctx) : State := s.modCtx c (fun x => { x with decDue := true })

/-- WIN_CREATE (R211, R212). -/
def winCreateH : Handler := fun s m =>
  let n := m.f 0 4
  match ownObject s m n with
  | .error e => (s, .done e [])
  | .ok o =>
    if o.cls != .held then (s, .done 0x56 [])
    else if o.versioned then (s, .done 0x60 [])
    else if boundForWriting s n || o.mover.st != .idle || s.windows.any (fun w => w.2.obj == n) then (s, .done stBusy [])
    else if decide (4096 ≤ s.windows.length) || decide (0x4000000000 < windowBytes s + o.pages * 65536) then (s, .done 0x61 [])
    else
      let w := s.nextWindow
      (stageCommit { s with windows := mput s.windows w { obj := n }, nextWindow := w + 1 } o.owner, .done stOK (leBytes 4 w))

/-- WIN_CREATE. -/
def execWinCreate (via : Path) (input : List Byte) (s : State) : Out := .next (mci s via 0xC030 input winCreateH)

/-- WIN_DELETE (R220): its recalls start; it ends at a decoder commit after they have ended. -/
def winDeleteH : Handler := fun s m =>
  let n := m.f 0 4
  match mget? s.windows n with
  | none => (s, .done 0x62 [])
  | some w =>
    match objAt s w.obj with
    | none => (s, .done 0x62 [])
    | some o =>
      if !ownsObj m o then (s, .done stNotOwner [])
      else if leaving s m.ctx w.obj then (s, .done stDenied [])
      else if w.deleting then (s, .done stBusy [])
      else
        let s := { s with windows := mput s.windows n { w with deleting := true, waiter := some (m.via, m.tag) } }
        (stageCommit (recallRun s o.base (o.pages * 65536)) o.owner, .waits)

/-- WIN_DELETE. -/
def execWinDelete (via : Path) (input : List Byte) (s : State) : Out := .next (mci s via 0xC031 input winDeleteH)

/-- No line of a window is in the directory. -/
def windowClean (s : State) (w : Window) : Bool :=
  match objAt s w.obj with
  | some o => !s.directory.any (fun d => decide (o.base ≤ d.1 * 64) && decide (d.1 * 64 < o.base + o.pages * 65536))
  | none => true

/-- What a good commit of a context does to its windows (R212, R220): a new window takes effect; a deleted one whose
lines are all recalled is removed, and its command completes. -/
def commitWindows (s : State) (c : Ctx) : State :=
  s.windows.foldl (fun s w =>
    match objAt s w.2.obj with
    | some o =>
      if o.owner ≠ c then s
      else if w.2.deleting then
        if windowClean s w.2 then
          let s := { s with windows := mdel s.windows w.1 }
          match w.2.waiter with
          | some (via, tag) => answer s via tag 0xC031 stOK []
          | none => s
        else stageCommit (recallRun s o.base (o.pages * 65536)) c
      else { s with windows := mput s.windows w.1 { w.2 with live := true } }
    | none => s) s

end Sys2Proof.Machine
end

