-- ==== Sys2Proof/Machine/Loader.lean ====
section
/-! DEFINITION. The loader's checks (R137, R44, R45, R47, R115, R117, R120, R121, R127 to R131, R488), and the pattern
commands (R138, R139). -/

namespace Sys2Proof.Machine

/-- What R44 gives for a timing set: first and last slot of a claim, new-row gap, read-after-write gap, window of four
row opens. -/
structure SlotRules where
  lo : Nat
  hi : Nat
  rowGap : Nat
  readGap : Nat
  window : Nat
  deriving DecidableEq, Repr

/-- The rules of each timing set (R44). -/
def slotRules (tset : Nat) : SlotRules :=
  match tset with
  | 0 => ⟨27, 191, 8, 2, 8⟩
  | 1 => ⟨23, 152, 7, 2, 7⟩
  | _ => ⟨16, 101, 4, 1, 5⟩

/-- Six times the slot period in cycles (R38). -/
def sixP (tset : Nat) : Nat := match tset with | 0 => 40 | 1 => 50 | _ => 75

/-- The first cycle of a slot, ⌊P·k⌋ (R47). -/
def slotFloor (tset k : Nat) : Nat := sixP tset * k / 6

/-- The cycle ⌈P·k⌉ + 100 by which a claim's data is in the bobbin (R47). -/
def slotBound (tset k : Nat) : Nat := ceilDiv (sixP tset * k) 6 + 100

/-- A claim on a channel in a frame: slot, local core, kind, bank and row. -/
structure Item where
  chan : Nat
  slot : Nat
  loc  : Nat
  kind : Nat
  bank : Nat
  row  : Nat
  deriving DecidableEq, Repr

/-- What R44 needs of the claims before. -/
structure ChanWalk where
  prev   : Option Nat := none
  locals_ : AMap Nat := []
  rd     : Option Nat := none
  wr     : Option Nat := none
  banks  : AMap (Nat × Nat) := []
  opens  : List Nat := []
  ok     : Bool := true
  deriving DecidableEq, Repr

/-- A gap of `n` slots lies between an earlier slot, if any, and this one. -/
def gapOk (before : Option Nat) (slot n : Nat) : Bool := match before with | some b => decide (b + n < slot) | none => true

/-- One claim of a channel against R44 and R45. An indirect claim's row is the controller's choice (R125). -/
def stepItem (r : SlotRules) (w : ChanWalk) (i : Item) : ChanWalk :=
  let ok := w.ok && w.prev != some i.slot && gapOk (mget? w.locals_ i.loc) i.slot 1
    && (if i.kind = 1 then gapOk w.rd i.slot 1 else gapOk w.wr i.slot r.readGap)
  let key := i.loc * 64 + i.bank
  let old := mget? w.banks key
  let fresh := i.kind != 2 && (match old with | some b => b.2 != i.row | none => true)
  let ok := ok && (!fresh || gapOk (old.map (·.1)) i.slot r.rowGap)
  { prev := some i.slot, locals_ := mput w.locals_ i.loc i.slot, rd := if i.kind = 1 then w.rd else some i.slot,
    wr := if i.kind = 1 then some i.slot else w.wr,
    banks := if i.kind = 2 then w.banks else mput w.banks key (i.slot, i.row),
    opens := if fresh then w.opens ++ [i.slot] else w.opens, ok := ok }

/-- At most four row opens in any window (R44). -/
def opensOk (r : SlotRules) (l : List Nat) : Bool :=
  (List.range l.length).all (fun i => match l[i + 4]? with
    | some b => decide (l.getD i 0 + r.window ≤ b)
    | none => true)

/-- The claims of a frame against R44, channel by channel; the claims come in slot order. -/
def frameOk (r : SlotRules) (items : List Item) : Bool :=
  ((items.map (·.chan)).foldl (fun l a => linsert a l) []).all (fun ch =>
    let w := (items.filter (fun i => i.chan == ch)).foldl (stepItem r) {}
    w.ok && opensOk r w.opens)

/-- What the loader gathers of the claims of a pattern. -/
structure ClaimWalk where
  /-- bytes moved by each core's stream, keyed core × 64 + stream -/
  moved : AMap Nat := []
  /-- kind of claim that each stream is used by -/
  use   : AMap Nat := []
  /-- fills of each core by read claims, and reads by write claims -/
  fills : AMap (List Fill) := []
  reads : AMap (List Fill) := []
  /-- slots of each indirect stream's claims in the step: first cycle and bound -/
  ind   : AMap (List (Nat × Nat)) := []
  items0 : List Item := []
  items1 : List Item := []
  ok    : Bool := true
  deriving DecidableEq, Repr

/-- The logical cores of a claim's local index (R148): it serves that core of every logical cluster. -/
def claimCores (p : Pattern) (c : Claim) : List Nat :=
  (List.range p.cores.length).filter (fun i => match p.cores[i]? with | some k => k.loc == c.loc | none => false)

/-- One claim serves one core in a frame whose first cycle is `base`. -/
def serveClaim (p : Pattern) (base : Nat) (c : Claim) (w : ClaimWalk) (i : Nat) : ClaimWalk :=
  match p.cores[i]? with
  | none => w
  | some k => match k.streams[c.stream]? with
    | none => { w with ok := false }
    | some sd =>
      let key := i * 64 + c.stream
      let chan := k.cluster * 32 + k.loc / 4
      let w := { w with use := mput w.use key c.kind,
                        ok := w.ok && mget c.kind w.use key == c.kind && sd.indirect == (c.kind == 2) }
      if c.kind = 2 || sd.indirect then
        let it : Item := ⟨chan, c.slot, k.loc, 2, 0, 0⟩
        { w with ind := mmod [] w.ind key (fun l => l ++ [(base + slotFloor p.tset c.slot, base + slotBound p.tset c.slot)]),
                 items0 := w.items0 ++ [it], items1 := w.items1 ++ [it] }
      else
        let r := p.regions.getD sd.region ⟨0, false, false, false, 0, 0⟩
        let half := r.share * 65536 / (if r.double then 2 else 1)
        let m := mget 0 w.moved key
        let o := sd.start * 256 + m
        let item := fun (par : Nat) =>
          let a := o + (if r.double then (if c.kind = 1 then par else 1 - par) * half else 0)
          (⟨chan, c.slot, k.loc, c.kind, bits a 10 6, sd.region * 0x100000000 + a / 65536⟩ : Item)
        let b := sd.bobbin + m % sd.ring
        let w := { w with moved := mput w.moved key (m + 256), ok := w.ok && decide (o + 256 ≤ half),
                          items0 := w.items0 ++ [item 0], items1 := w.items1 ++ [item 1] }
        let f := slotFloor p.tset c.slot
        let z := base + slotBound p.tset c.slot
        if c.kind = 1 then { w with reads := mmod [] w.reads i (fun l => l ++ [⟨base + f - 40, z, b % bobSize, 256⟩]) }
        else { w with fills := mmod [] w.fills i (fun l => l ++ [⟨base + f, z, b % bobSize, 256⟩]) }

/-- A claim recurs in a frame of its step (R136). -/
def claimIn (c : Claim) (frame : Nat) : Bool :=
  decide (c.first ≤ frame) && decide (frame ≤ c.last) && (frame - c.first) % (c.period + 1) == 0

/-- The claims of a step in a frame, in slot order. -/
def frameClaims (p : Pattern) (st frame : Nat) : List Claim :=
  let cs := p.claims.filter (fun (c : Claim) => c.step == st && claimIn c frame)
  (List.range 256).flatMap (fun k => cs.filter (fun (c : Claim) => c.slot == k))

/-- The rows that an indirect stream may write in a step (R124 to R126): a row is pending from the claim at which it
is among the 16 first rows left, if each row before took its least transfers, to the claim by which R125 has it
fetched; a row that may spill is written before the next step. -/
def indFills (tset : Nat) (sd : ClaimStream) (cs : List (Nat × Nat)) (stepEnd : Nat) : List Fill :=
  let r := ceilDiv sd.ring 256
  let worst := r + (match tset with | 0 => 9 | 1 => 8 | _ => 5)
  ((List.range (ceilDiv cs.length r + 15)).filter (fun i => decide ((i - 15) * r < cs.length))).map (fun i =>
    { first := (cs.getD ((i - 15) * r) (0, 0)).1,
      last := (match cs[(i + 1) * worst - 1]? with | some x => x.2 | none => stepEnd),
      addr := (sd.bobbin + i * sd.ring) % bobSize, len := sd.ring })

/-- The claims of a step: its frames one after another, then the rows of its indirect streams. -/
def walkStep (p : Pattern) (r : SlotRules) (w : ClaimWalk) (st : Nat) : ClaimWalk :=
  match p.steps[st]? with
  | none => w
  | some s =>
    let w := foldN s.frames (fun f (w : ClaimWalk) =>
      let cs := frameClaims p st f
      let w := cs.foldl (fun (w : ClaimWalk) c =>
        let ks := claimCores p c
        let w := { w with ok := w.ok && !ks.isEmpty && decide (r.lo ≤ c.slot) && decide (c.slot ≤ r.hi) }
        ks.foldl (serveClaim p ((s.first + f) * 1280) c) w) { w with items0 := [], items1 := [] }
      { w with ok := w.ok && frameOk r w.items0 && frameOk r w.items1 }) w
    w.ind.foldl (fun (w : ClaimWalk) (x : Nat × List (Nat × Nat)) =>
      match (p.cores[x.1 / 64]?).bind (fun k => k.streams[x.1 % 64]?) with
      | some sd => { w with fills := mmod [] w.fills (x.1 / 64) (fun l =>
          l ++ indFills p.tset sd x.2 ((s.first + s.frames) * 1280)) }
      | none => w) { w with ind := [] } |> fun w => { w with ind := [] }

/-- The walk over every claim of a pattern. -/
def walkClaims (p : Pattern) : ClaimWalk :=
  (List.range p.steps.length).foldl (walkStep p (slotRules p.tset)) {}

/-- Something that reaches a core through the exchange: what it comes from, when, and by when it has come (R131). -/
structure Arrival where
  dest  : Nat
  sender : Nat
  issue : Nat
  /-- the cycle by which the receive counter has risen, and whether it rises with it -/
  bound : Nat
  counts : Bool
  /-- the bytes written, and the last cycle in which they may be -/
  fill  : Fill
  /-- it stays in a cluster and is a message of this many cycles -/
  busy  : Nat
  deriving DecidableEq, Repr

/-- The logical cluster of a logical core. -/
def clusterOf (p : Pattern) (i : Nat) : Nat := match p.cores[i]? with | some c => c.cluster | none => 0

/-- The boundary before which traffic between clusters that issues at a cycle is written (R131). -/
def crossBound (p : Pattern) (c : Nat) : Nat := (c / 1280 + (if p.oneDie then 2 else 3)) * 1280

/-- The logical cores that are members of a reduction (R129, R130, R136). -/
def redMembers (p : Pattern) (e : XEntry) : List (Option Nat) :=
  match p.cores[e.first]? with
  | none => []
  | some c =>
    let find := fun (k l : Nat) => p.cores.findIdx? (fun x => x.cluster == k && x.loc == l)
    if e.order = 0 then (List.range p.clusters).map (fun k => find k c.loc)
    else (List.range (2 ^ e.order)).map (fun i => find c.cluster (c.loc / 2 ^ e.order * 2 ^ e.order + i))

/-- The cycles at which a core issues an entry, in order. -/
def issues (ts : List Trace) (i ix : Nat) : List Nat :=
  match ts[i]? with
  | some t => (t.sends.reverse.filter (fun x => x.2.1 == ix)).map (·.1)
  | none => []

/-- The arrivals of an entry. -/
def arrivals (p : Pattern) (ts : List Trace) (ix : Nat) (e : XEntry) : List Arrival :=
  if !e.reduction then
    (List.range p.cores.length).flatMap (fun i => (issues ts i ix).map (fun c =>
      let near := clusterOf p i == clusterOf p e.dest
      let n := beats e
      { dest := e.dest, sender := i, issue := c, bound := if near then c + n + 26 else crossBound p c, counts := true,
        fill := ⟨c, if near then c + n + 24 else crossBound p c - 1, e.dst, e.len⟩,
        busy := if near then beats e else 0 }))
  else
    let ms := (redMembers p e).filterMap id
    let near := e.order != 0 && clusterOf p e.first == clusterOf p e.dest
    match ms with
    | [] => []
    | m :: _ => (List.range (issues ts m ix).length).flatMap (fun k =>
        let c := (ms.map (fun i => (issues ts i ix).getD k 0)).foldl max 0
        (List.range (e.len / 128)).map (fun v =>
          let z := c + 4 * (v + 1) + 48
          { dest := e.dest, sender := m, issue := c, bound := if near then z else crossBound p c, counts := v + 1 == e.len / 128,
            fill := ⟨c, if near then z else crossBound p c - 1, (e.dst + 128 * v) % bobSize, 128⟩, busy := 0 }))

/-- Every arrival of a pattern. -/
def allArrivals (p : Pattern) (ts : List Trace) : List Arrival :=
  (List.range p.xtable.length).flatMap (fun ix => match p.xtable[ix]? with | some e => arrivals p ts ix e | none => [])

/-- An exchange entry has the sizes of R127 and R129. -/
def entrySizeOk (e : XEntry) : Bool :=
  decide (0 < e.len) && decide (e.len ≤ 65536) && e.len % (if e.reduction then 128 else 32) == 0

/-- No destination receives from two senders in a cycle (R127). -/
def receiversOk (l : List Arrival) : Bool :=
  l.all (fun a => l.all (fun b =>
    a.busy == 0 || b.busy == 0 || a.dest != b.dest || (a.sender == b.sender && a.issue == b.issue)
      || !runsMeet a.issue a.busy b.issue b.busy))

/-- Every member of a reduction exists, and each contributes as often as the others (R129). -/
def membersOk (p : Pattern) (ts : List Trace) (ix : Nat) (e : XEntry) : Bool :=
  !e.reduction || (
    let ms := redMembers p e
    ms.all (·.isSome) && (List.range p.cores.length).all (fun i => (issues ts i ix).isEmpty || ms.contains (some i))
      && (match ms.filterMap id with
          | [] => true
          | m :: l => l.all (fun i => (issues ts i ix).length == (issues ts m ix).length)))

/-- Every XWAIT of a core is met by what has come since the XCLR before it (R128, R131). Each wait then rests on
earlier cycles only, so no circle of waits is left. -/
def waitsMet (l : List Arrival) (i : Nat) (t : Trace) : Bool :=
  t.waits.all (fun w => decide (w.2.1 ≤ (l.filter (fun a =>
    a.counts && a.dest == i && decide (w.2.2 ≤ a.issue) && decide (a.bound ≤ w.1))).length))

/-- The results of an in-cluster reduction whose destination lies in another cluster: one for each time that its members have all
contributed, as clusters from and to, frame of issue and bytes (R130). -/
def resultCrossings (p : Pattern) (ts : List Trace) : List (Nat × Nat × Nat × Nat) :=
  (List.range p.xtable.length).flatMap (fun ix => match p.xtable[ix]? with
    | none => []
    | some e =>
      let a := clusterOf p e.first
      let b := clusterOf p e.dest
      if !e.reduction || e.order == 0 || a == b then []
      else (((arrivals p ts ix e).filter (·.counts)).map (fun x => (a, b, x.issue / 1280, e.len))))

/-- Bytes that cross into and out of clusters, as cluster, frame of issue and bytes, sent first (R130). -/
def crossings (p : Pattern) (ts : List Trace) : List (Nat × Nat × Nat) × List (Nat × Nat × Nat) :=
  let xs := (List.range p.cores.length).flatMap (fun i => match ts[i]? with
    | none => []
    | some t => t.sends.filterMap (fun x => match p.xtable[x.2.1]? with
      | none => none
      | some e =>
        let a := clusterOf p i
        let b := clusterOf p e.dest
        if a ≠ b && (!e.reduction || e.order == 0) then some (a, b, x.1 / 1280, e.len) else none)) ++ resultCrossings p ts
  (xs.map (fun x => (x.1, x.2.2.1, x.2.2.2)), xs.map (fun x => (x.2.1, x.2.2.1, x.2.2.2)))

/-- The quota of a cluster in each frame (R130). -/
def quotaOk (p : Pattern) (l : List (Nat × Nat × Nat)) : Bool :=
  l.all (fun x => decide ((l.filter (fun y => y.1 == x.1 && y.2.1 == x.2.1)).foldl (fun n y => n + y.2.2) 0
    ≤ (if p.oneDie then 65536 else 32768)))

/-- A core's engine-port use (R115), its fill intervals (R117, R47) and the check of R488. -/
def bankOk (t : Trace) (fills reads : List Fill) : Bool :=
  let meet := fun (x y : Nat × Nat) => decide (x.1 < y.2) && decide (y.1 < x.2)
  (List.range t.held.length).all (fun i => (List.range i).all (fun j => !meet (t.held.getD i (0, 0)) (t.held.getD j (0, 0))))
  && t.held.all (fun h => t.tReads.all (fun r => !meet h r) && t.acc.all (fun a => !meet h (a.1, a.1 + 1)))
  && t.acc.all (fun a =>
      fills.all (fun f => !(decide (f.first ≤ a.1) && decide (a.1 ≤ f.last) && bobMeet a.2.1 a.2.2.1 f.addr f.len))
      && (!a.2.2.2 || reads.all (fun f => !(decide (f.first ≤ a.1) && decide (a.1 ≤ f.last)
        && bobMeet a.2.1 a.2.2.1 f.addr f.len))))

/-- When the bobbin of a logical core may be filled, and when claims read it, in cycles of a run without holds (R47,
R117, R131). -/
def windowsOf (w : ClaimWalk) (arr : List Arrival) (i : Nat) : List Fill × List Fill :=
  (mget [] w.fills i ++ (arr.filter (fun a => a.dest == i)).map (·.fill), mget [] w.reads i)

/-- The checks of R137 from PAT_ACW on: the first status that applies, or 0. -/
def loadStatus (p : Pattern) : Nat :=
  let code := p.cores.flatMap (fun (c : PatCore) => c.code)
  let ts := p.cores.map (traceOf p)
  let arr := allArrivals p ts
  let w := walkClaims p
  let ix := List.range p.cores.length
  let xs := List.range p.xtable.length
  let entry := fun (f : Nat → XEntry → Bool) => xs.all (fun i => match p.xtable[i]? with | some e => f i e | none => true)
  if code.any (fun b => bits (fieldX b) 0 6 == 6 && !acwValid (BitVec.ofNat 19 (bits (fieldX b) 6 19))) then 0x33
  else if p.cores.any (fun (c : PatCore) => !codeOk c.code) || ts.any (fun t => !t.issueOk)
      || !entry (fun _ e => entrySizeOk e) || !receiversOk arr
      || (bit p.modeMask.toNat 1 && code.any (fun b => bits (fieldT b) 0 4 == 1 && bits (fieldT b) 33 4 != 0)) then 0x34
  else if ix.any (fun i => !bankOk (ts.getD i {}) (windowsOf w arr i).1 (windowsOf w arr i).2) then 0x35
  else if !w.ok then 0x36
  else if !entry (membersOk p ts) || ix.any (fun i => !waitsMet arr i (ts.getD i {}))
      || !quotaOk p (crossings p ts).1 || !quotaOk p (crossings p ts).2 then 0x37
  else if ts.any (fun t => !t.timingOk) then 0x38
  else stOK

/-- The status of a container, and the pattern that it gives (R137). -/
def loadContainer (bs : Bytes) (loader : Option Ctx) : Except Nat Pattern :=
  if !formatOk bs then .error 0x30
  else if !crcOk bs then .error 0x31
  else if !limitsOk bs then .error 0x32
  else
    let p := readPattern bs loader
    let st := loadStatus p
    if st = stOK then .ok p else .error st

/-- A change of timing set has been accepted, and its boundary F + 20 has not come: this set is the one that it leaves (R64). -/
def leavesSet (s : State) (t : Nat) : Bool := match s.pw.job with | some j => j.setChange && modeSet j.old == t | none => false

/-- A container that passes the checks and is compiled for a timing set that is being left is refused with TIMING_SET (R64). -/
def refuseOld (s : State) (x : Except Nat Pattern) : Except Nat Pattern :=
  match x with
  | .ok p => if leavesSet s p.tset then .error 0x20 else .ok p
  | .error st => .error st

/-- A container's checks passed, or the status that refuses it; the pattern store takes 1,024 (R137). -/
def storePattern (s : State) (x : Except Nat Pattern) : State × Answer :=
  match x with
  | .error st => (s, .done st [])
  | .ok p =>
    if 1024 ≤ s.patterns.length then (s, .done 0x39 [])
    else ({ s with patterns := mput s.patterns s.nextPattern p, nextPattern := s.nextPattern + 1 },
          .done stOK (leBytes 4 s.nextPattern))

/-- PAT_LOAD (R137, R402). A poisoned line of the container gives PAT_CRC; pages that are not resident are fetched
first. -/
def patLoadH : Handler := fun s m =>
  let addr := m.f 0 8
  let n := m.f 8 4
  if !grantedRun s m.c addr n then (s, .done stRange []) else
  let pids := runPids s [(addr, n)]
  if pids.any (fun p => pageMissing s p || pageWaits s p) then
    ({ fetchMissing s pids with lockWaits := s.lockWaits ++ [(0xC010, m)] }, .waits)
  else
    let (s, bs, bad) := devBytes s (stewardOf m.c m.tag) addr n
    if bad then (s, .done 0x31 [])
    else storePattern s (refuseOld s (loadContainer bs m.ctx))

/-- PAT_LOAD. -/
def execPatLoad (via : Path) (input : List Byte) (s : State) : Out := .next (mci s via 0xC010 input patLoadH)

/-- PAT_UNLOAD (R402). -/
def patUnloadH : Handler := fun s m =>
  let n := m.f 0 4
  match patternFor s m n with
  | none => (s, .done 0x3A [])
  | some _ =>
    if s.bindings.any (fun (b : Nat × Binding) => b.2.pattern == n) then (s, .done stBusy [])
    else ({ s with patterns := mdel s.patterns n }, .done stOK [])

/-- PAT_UNLOAD. -/
def execPatUnload (via : Path) (input : List Byte) (s : State) : Out := .next (mci s via 0xC011 input patUnloadH)

end Sys2Proof.Machine
end

