-- ==== Sys2Proof/Machine/Versions.lean ====
section
/-! DEFINITION. Versioned objects (R221 to R230): drafts, handles, publication, retirement, and the locks that their
commands wait for (R387, R233). -/

namespace Sys2Proof.Machine

/-- The content that commands call the head: the one published last (R226). -/
def currentHead (o : Obj) : Nat := o.newHead.getD o.head

/-- A content, or an empty one. -/
def contentAt (s : State) (k : Nat) : Content := mget { obj := 0 } s.contents k

/-- The version number of a content. -/
def versionOf (s : State) (k : Nat) : Nat := (contentAt s k).version

/-- The contents that are live (R222): the head, what a handle or a draft reads, and the base of every draft. -/
def liveContents (s : State) (n : Nat) : List Nat :=
  match objAt s n with
  | none => []
  | some o =>
    let vs := s.views.filter (fun (v : Nat × View) => v.2.obj == n)
    let ks := [o.head] ++ o.newHead.toList ++ vs.map (fun (v : Nat × View) => v.2.content)
      ++ vs.filterMap (fun (v : Nat × View) => if v.2.draft then (contentAt s v.2.content).base else none)
    sorted ks

/-- Live versions of the whole module (R222). -/
def liveTotal (s : State) : Nat :=
  ((s.objects.filter (fun (o : Nat × Obj) => o.2.versioned)).map (fun o => (liveContents s o.1).length)).sum

/-- The contents that a content's pages may come from: itself and its bases. -/
def chainOf (s : State) : Nat → Nat → List Nat
  | 0, k => [k]
  | f + 1, k => match (contentAt s k).base with
    | some b => k :: chainOf s f b
    | none => [k]

/-- Retirement (R229): pages that no live content shares are freed, and contents that no live one is built on go. -/
def retire (s : State) (n : Nat) : State :=
  let live := liveContents s n
  let keep := live.flatMap (chainOf s s.contents.length)
  let mine := contentsOf s n
  let dead := (s.pages.filter (fun (p : Nat × Page) => mine.contains (pidContent p.1)
    && !live.any (fun l => pidOf s l (pidIx p.1) == p.1))).map (·.1)
  let s := dead.foldl dropPage s
  { s with contents := s.contents.filter (fun (c : Nat × Content) => c.2.obj != n || keep.contains c.1) }

/-- A page of an object carries a page lock. -/
def objLocked (s : State) (n : Nat) : Bool :=
  let mine := contentsOf s n
  s.pages.any (fun (p : Nat × Page) => p.2.lock && mine.contains (pidContent p.1))

/-- A cue bound to a view is armed or running (R226, R234). -/
def viewBusy (s : State) (v : Nat) : Bool :=
  s.cues.any (fun (q : Nat × Cue) => match mget? s.bindings q.2.binding with
    | some b => b.bound.contains (.view v)
    | none => false)

/-- VER_INIT (R221). -/
def verInitH : Handler := fun s m =>
  let n := m.f 0 4
  match ownObject s m n with
  | .error e => (s, .done e [])
  | .ok o =>
    if o.cls == .scratch then (s, .done 0x56 [])
    else if s.windows.any (fun w => w.2.obj == n) then (s, .done 0x63 [])
    else if objBound s n || o.mover.st != .idle || o.versioned then (s, .done stBusy [])
    else if 262144 ≤ liveTotal s then (s, .done 0x64 [])
    else
      let s := s.modObj n (fun o => { o with versioned := true })
      ({ s with contents := mmod { obj := n } s.contents o.head (fun c => { c with version := 1 }) }, .done stOK (leBytes 4 1))

/-- VER_INIT. -/
def execVerInit (via : Path) (input : List Byte) (s : State) : Out := .next (mci s via 0xC040 input verInitH)

/-- The live content of a version of an object; 0 names the head (R234). -/
def findVersion (s : State) (n : Nat) (o : Obj) (v : Nat) : Option Nat :=
  if !o.versioned then none
  else if v = 0 then some (currentHead o)
  else (liveContents s n).find? (fun k => versionOf s k == v && (contentAt s k).draft.isNone)

/-- The status of a view's base (R223): RANGE or OVERLAP. -/
def viewStatus (s : State) (c : Ctx) (o : Obj) (base : Nat) : Nat :=
  let n := o.pages * 65536
  if base % 65536 != 0 || decide (2 ^ 47 < base + n) || !grantedRun s c base n then stRange
  else if overlaps s base n then 0x52
  else stOK

/-- An object that a context can reach: NO_OBJECT, DENIED. -/
def reachObject (s : State) (m : MciCall) (n : Nat) : Except Nat Obj :=
  match objAt s n with
  | none => .error stNoObject
  | some o => if reaches s m.c o then .ok o else .error stDenied

/-- VER_DRAFT (R223, R224). -/
def verDraftH : Handler := fun s m =>
  let n := m.f 0 4
  match reachObject s m n with
  | .error e => (s, .done e [])
  | .ok o =>
    match findVersion s n o (m.f 4 4) with
    | none => (s, .done 0x65 [])
    | some b =>
      let st := viewStatus s m.c o (m.f 8 8)
      if decide (64 ≤ (liveContents s n).length) || decide (262144 ≤ liveTotal s) then (s, .done 0x64 [])
      else if st ≠ stOK then (s, .done st [])
      else
        let k := s.nextContent
        let v := s.nextView
        ({ s with
          contents := mput s.contents k { obj := n, base := some b, draft := some v }, nextContent := k + 1,
          views := mput s.views v { obj := n, content := k, ctx := m.c, base := m.f 8 8, draft := true }, nextView := v + 1 },
         .done stOK (leBytes 4 v ++ leBytes 4 (versionOf s b)))

/-- VER_DRAFT. -/
def execVerDraft (via : Path) (input : List Byte) (s : State) : Out := .next (mci s via 0xC041 input verDraftH)

/-- A context's draft. -/
def draftOf (s : State) (m : MciCall) (v : Nat) : Option View :=
  match mget? s.views v with
  | some x => if x.draft && m.ctx == some x.ctx then some x else none
  | none => none

/-- Copies into a content's pages are in flight (R226). -/
def copying (s : State) (k : Nat) : Bool :=
  s.pages.any (fun (p : Nat × Page) => p.2.copyOf.isSome && pidContent p.1 == k)

/-- VER_PUBLISH (R226, R227). -/
def verPublishH : Handler := fun s m =>
  let v := m.f 0 4
  match draftOf s m v with
  | none => (s, .done 0x66 [])
  | some x =>
    match objAt s x.obj with
    | none => (s, .done 0x66 [])
    | some o =>
      let h := currentHead o
      let k := contentAt s x.content
      if leaving s m.ctx x.obj then (s, .done stDenied [])
      else if viewBusy s v then (s, .done stBusy [])
      else if k.base ≠ some h then
        let s := s.bump 0x50024 1
        (raise s evPublishConflict [x.ctx] (w1 x.obj ++ w1 v ++ w1 (match k.base with | some b => versionOf s b | none => 0)
          ++ w1 (versionOf s h) ++ w1 k.own.length), .done 0x67 [])
      else if versionOf s h = 0xFFFFFFFF then (s, .done 0x64 [])
      else
        let n := versionOf s h + 1
        let s : State := { s with
          contents := mput s.contents x.content { k with version := n, draft := none }, views := mdel s.views v }
        let s := serveWaits (s.modObj x.obj (fun o => { o with newHead := some x.content }))
        if copying s x.content then ({ s with pubs := s.pubs ++ [(x.obj, x.content, m.via, m.tag)] }, .waits)
        else (s, .done stOK (leBytes 4 n))

/-- VER_PUBLISH. -/
def execVerPublish (via : Path) (input : List Byte) (s : State) : Out := .next (mci s via 0xC042 input verPublishH)

/-- Publications whose copies have ended complete (R226). -/
def endPublications (s : State) : State :=
  s.pubs.foldl (fun s x =>
    if copying s x.2.1 then s
    else answer { s with pubs := s.pubs.erase x } x.2.2.1 x.2.2.2 0xC042 stOK (leBytes 4 (versionOf s x.2.1))) s

/-- New heads take effect at a frame boundary, once no copy is in flight (R226). -/
def newHeads (s : State) : State :=
  s.objects.foldl (fun s o =>
    match o.2.newHead with
    | some k =>
      if (chainOf s s.contents.length k).any (fun k => (contentAt s k).draft.isNone && copying s k) then s
      else retire (s.modObj o.1 (fun o => { o with head := k, newHead := none })) o.1
    | none => s) s

/-- The bytes and the poisoned lines of a page, wherever they lie (R156): its home, if any, with the valid bytes of a frame over them
while it is FETCHING; otherwise its frame. -/
def pageContent (s : State) (pid : Nat) : List Host.Cell × List Nat :=
  let p := pageAt s pid
  let ofHome := match p.home with
    | some h => let ps := homePieces s h; (pieceCells ps, piecePoison ps)
    | none => ([], [])
  match p.st, loadFrame p with
  | .absent, _ => ([], [])
  | .home, _ => ofHome
  | .fetching, some fr =>
    (sparseCells 0 ((List.range 1024).flatMap (fun i =>
      mergeBytes (mget (0 : DWord) p.valid i).toNat (creads ofHome.1 (i * 64) 64) (lineData s (fr * 1024 + i)))),
     (List.range 1024).filter (fun i => isPoison s (fr * 1024 + i) || (ofHome.2.contains i && (mget (0 : DWord) p.valid i).toNat != fullMask)))
  | _, some fr =>
    (sparseCells 0 (creads s.dram (fr * 65536) 65536), (List.range 1024).filter (fun i => isPoison s (fr * 1024 + i)))
  | _, none => ofHome

/-- Two pages have one content (R228): they are one page, or their bytes and poison agree. -/
def sameContent (s : State) (a b : Nat) : Bool := a == b || pageContent s a == pageContent s b

/-- VER_REBASE (R228). -/
def verRebaseH : Handler := fun s m =>
  let v := m.f 0 4
  match draftOf s m v with
  | none => (s, .done 0x66 [])
  | some x =>
    match objAt s x.obj with
    | none => (s, .done 0x66 [])
    | some o =>
      if leaving s m.ctx x.obj then (s, .done stDenied [])
      else if viewBusy s v then (s, .done stBusy [])
      else if objLocked s x.obj then ({ s with lockWaits := s.lockWaits ++ [(0xC043, m)] }, .waits)
      else
        let h := currentHead o
        let k := contentAt s x.content
        let n := match k.base with
          | some b => (k.own.filter (fun ix => !sameContent s (pidOf s b ix) (pidOf s h ix))).length
          | none => 0
        (retire { s with contents := mput s.contents x.content { k with base := some h } } x.obj,
         .done stOK (leBytes 4 (versionOf s h) ++ leBytes 4 n))

/-- VER_REBASE. -/
def execVerRebase (via : Path) (input : List Byte) (s : State) : Out := .next (mci s via 0xC043 input verRebaseH)

/-- Ends a view: a handle closes or a draft is discarded (R223, R229, R234). -/
def endView (s : State) (v : Nat) : State :=
  match mget? s.views v with
  | some x => serveWaits (retire { s with views := mdel s.views v } x.obj)
  | none => s

/-- VER_DISCARD (R234). -/
def verDiscardH : Handler := fun s m =>
  let v := m.f 0 4
  match draftOf s m v with
  | none => (s, .done 0x66 [])
  | some x =>
    if leaving s m.ctx x.obj then (s, .done stDenied [])
    else if viewBusy s v then (s, .done stBusy [])
    else if objLocked s x.obj then ({ s with lockWaits := s.lockWaits ++ [(0xC044, m)] }, .waits)
    else (endView s v, .done stOK [])

/-- VER_DISCARD. -/
def execVerDiscard (via : Path) (input : List Byte) (s : State) : Out := .next (mci s via 0xC044 input verDiscardH)

/-- Open reader handles (R222). -/
def handleCount (s : State) : Nat := (s.views.filter (fun (v : Nat × View) => !v.2.draft)).length

/-- VER_OPEN (R223). -/
def verOpenH : Handler := fun s m =>
  let n := m.f 0 4
  match reachObject s m n with
  | .error e => (s, .done e [])
  | .ok o =>
    match findVersion s n o (m.f 4 4) with
    | none => (s, .done 0x65 [])
    | some k =>
      let st := viewStatus s m.c o (m.f 8 8)
      if 65536 ≤ handleCount s then (s, .done 0x68 [])
      else if st ≠ stOK then (s, .done st [])
      else
        let v := s.nextView
        ({ s with views := mput s.views v { obj := n, content := k, ctx := m.c, base := m.f 8 8, draft := false }, nextView := v + 1 },
         .done stOK (leBytes 4 v ++ leBytes 4 (versionOf s k)))

/-- VER_OPEN. -/
def execVerOpen (via : Path) (input : List Byte) (s : State) : Out := .next (mci s via 0xC045 input verOpenH)

/-- VER_CLOSE (R234). -/
def verCloseH : Handler := fun s m =>
  let v := m.f 0 4
  match mget? s.views v with
  | some x =>
    if x.draft || x.hidden || m.ctx != some x.ctx then (s, .done 0x69 [])
    else if leaving s m.ctx x.obj then (s, .done stDenied [])
    else if viewBusy s v then (s, .done stBusy [])
    else if objLocked s x.obj then ({ s with lockWaits := s.lockWaits ++ [(0xC046, m)] }, .waits)
    else (endView s v, .done stOK [])
  | none => (s, .done 0x69 [])

/-- VER_CLOSE. -/
def execVerClose (via : Path) (input : List Byte) (s : State) : Out := .next (mci s via 0xC046 input verCloseH)

/-- VER_QUERY (R234, R402): the live versions, then the drafts. -/
def verQueryH : Handler := fun s m =>
  let n := m.f 0 4
  match reachObject s m n with
  | .error e => (s, .done e [])
  | .ok o =>
    let vs := s.views.filter (fun (v : Nat × View) => v.2.obj == n)
    let live := if o.versioned then liveContents s n else []
    let row := fun (id k priv : Nat) =>
      leBytes 4 id ++ leBytes 4 (vs.filter (fun (v : Nat × View) => !v.2.draft && v.2.content == k)).length
        ++ leBytes 4 (vs.filter (fun (v : Nat × View) => v.2.draft && (contentAt s v.2.content).base == some k)).length ++ leBytes 4 priv
    let vers := (live.filter (fun k => (contentAt s k).draft.isNone)).map (fun k => row (versionOf s k) k 0)
    let drs := live.filterMap (fun k => (contentAt s k).draft.map (fun d => row (d + 0x80000000) k (contentAt s k).own.length))
    (s, .done stOK (leBytes 4 (versionOf s (currentHead o)) ++ leBytes 4 live.length ++ leBytes 4 0 ++ (vers ++ drs).flatten))

/-- VER_QUERY. -/
def execVerQuery (via : Path) (input : List Byte) (s : State) : Out := .next (mci s via 0xC047 input verQueryH)

/-- The handler of a command that can wait, for a lock or, for PAT_LOAD, for the pages of its container. -/
def lockHandler (op : Nat) : Handler :=
  match op with
  | 0xC043 => verRebaseH
  | 0xC044 => verDiscardH
  | 0xC010 => patLoadH
  | _ => verCloseH

/-- Commands that wait for a lock try again (R387). -/
def resumeLocks (s : State) : State :=
  s.lockWaits.foldl (fun s w =>
    let (s, a) := lockHandler w.1 s w.2
    match a with
    | .done st out => answer s w.2.via w.2.tag w.1 st out
    | .waits => s) { s with lockWaits := [] }

/-- What goes on when pages change state: host requests, device commands, steward commands and publications that
wait (R59, R195, R226, R387). -/
def pagesChanged (s : State) : State := endPublications (resumeLocks (resumeNm (serveWaits s)))

/-- The object that a waiting steward command has to lock. -/
def lockObject (s : State) (m : MciCall) : Nat := match mget? s.views (m.f 0 4) with | some v => v.obj | none => 0

/-- The wait timer of a lock expires (R233): a mover's page move is put off to the next boundary; a steward command
completes with BUSY. -/
def lockExpired (s : State) (w : LockWaiter) : State :=
  match w with
  | .mover pid =>
    match pidObj s pid with
    | some (n, o) =>
      match o.mover.moves.find? (fun m => m.pid == pid && !m.running) with
      | some x =>
        if !(pageAt s pid).lock then s else
        let s := (setMove s n x false (s.ft.run + 1)).bump 0x50028 1
        raise s evWaitBroken [o.owner] (w1 1 ++ w2 (o.base + pidIx pid * 65536) ++ w2 n ++ w1 0 ++ w1 0)
      | none => s
    | none => s
  | .steward via op tag =>
    match s.lockWaits.find? (fun x => x.1 != 0xC010 && x.1 == op.toNat && x.2.via == via && x.2.tag == tag) with
    | some x =>
      let s := { s with lockWaits := s.lockWaits.erase x }.bump 0x50028 1
      let s := raise s evWaitBroken x.2.ctx.toList (w1 2 ++ w2 (lockObject s x.2) ++ w2 tag.toNat ++ w1 0 ++ w1 0)
      answer s via tag x.1 stBusy []
    | none => s

/-- LOCK_WAIT_EXPIRED (R233 kinds 1 and 2). -/
def execLockWaitExpired (w : LockWaiter) (s : State) : Out := .next (lockExpired s w)

end Sys2Proof.Machine
end

