-- ==== Sys2Proof/Machine/TierCmds.lean ====
section
/-! DEFINITION. The ring commands of the tiering engine (R165, R169), the page moves and their ends (R156, R161 to
R164, R224), the zero fill (R151) and the stripes of flash (R306 to R310). -/

namespace Sys2Proof.Machine

/-- The frame boundary at or after a notch (R165). -/
def notchFrame (t : Nat) : Nat := ceilDiv t 1024

/-- The page range of an entry lies in the object (R169). -/
def pagesOk (o : Obj) (first count : Nat) : Bool := count == 0 || decide (first + count ≤ o.pages)

/-- The pins that the PROMOTE commands waiting for their boundary will take, besides those held (R160). -/
def pinsComing (s : State) : List Nat :=
  ((s.scheduled.filter (fun x => x.2.2.opcode == 2)).filterMap (fun x => x.2.2.ctx.map (fun (c : Ctx) => c.val * 0x1000000 + x.2.1))).foldl
    (fun l a => if s.pins.contains a then l else linsert a l) []

/-- The checks of R169, in their order, for a command on an object. The pin table has room for the pins held and for those that
waiting commands will take. -/
def tierCheck (s : State) (c : Ctx) (n : Nat) (range pin : Bool) (first count : Nat) : Nat :=
  if !cuesAccepted s then stUnanchored
  else match objAt s n with
    | none => stNoObject
    | some o =>
      if !reaches s c o then stDenied
      else if range && !pagesOk o first count then stRange
      else if pin && !hasPin s c n && !(pinsComing s).contains (c.val * 0x1000000 + n)
        && decide (1048576 ≤ s.pins.length + (pinsComing s).length) then 0x57
      else stOK

/-- PROMOTE (R165, R169, R397): its event acts at the boundary of its notch, or at the first after the take. DESIGN CHOICE: a need
notch whose boundary has passed when the command is taken raises no event (log entry 133). -/
def promoteTaken (s : State) (c : Ctx) (e : Line) (tag : Word) : State :=
  let f := entryField e
  let n := f 8 4
  let st := tierCheck s c n true true (f 16 4) (f 12 4)
  if st ≠ stOK then endFlight s c tag 2 st [] else
  let need := notchFrame (f 32 8)
  let m : MoverCmd := { ctx := some c, tag := tag, opcode := 2, first := f 16 4, count := f 12 4, notch := f 32 8,
                        need := if f 32 8 = 0 ∨ need ≤ frameNo s then none else some need }
  { s with scheduled := s.scheduled ++ [(notchFrame (f 24 8), n, m)] }

/-- EVICT (R165, R169): applied to the mover in the cycle of the take. -/
def evictTaken (s : State) (c : Ctx) (e : Line) (tag : Word) : State :=
  let f := entryField e
  let n := f 8 4
  let st := tierCheck s c n false false 0 0
  if st ≠ stOK then endFlight s c tag 3 st [] else
  let b := notchFrame (f 16 8)
  let m : MoverCmd := { ctx := some c, tag := tag, opcode := 3, notch := f 16 8 }
  evictEvent s c n m (decide (frameNo s < b)) b

/-- FLUSH (R165, R169, R397): it acts at the next boundary, whatever its number. -/
def flushTaken (s : State) (c : Ctx) (e : Line) (tag : Word) : State :=
  let f := entryField e
  let n := f 8 4
  let st := tierCheck s c n true false (f 16 4) (f 12 4)
  if st ≠ stOK then endFlight s c tag 4 st [] else
  let m : MoverCmd := { ctx := some c, tag := tag, opcode := 4, first := f 16 4, count := f 12 4 }
  { s with scheduled := s.scheduled ++ [(0, n, m)] }

/-- PROMOTE (R165). -/
def execPromote (c : Ctx) (entry : Line) (s : State) : Out := .next (ringCmd s c entry 2 (fun s t => promoteTaken s c entry t))

/-- EVICT (R165). -/
def execEvict (c : Ctx) (entry : Line) (s : State) : Out := .next (ringCmd s c entry 3 (fun s t => evictTaken s c entry t))

/-- FLUSH (R165). -/
def execFlush (c : Ctx) (entry : Line) (s : State) : Out := .next (ringCmd s c entry 4 (fun s t => flushTaken s c entry t))

/-- The engine starts its next page move (R164). -/
def execPageMoveStart (s : State) : Out :=
  .next (if domOn s 78 then
    match nextMove s with
    | some (n, x) => pagesChanged (startMove s n x)
    | none => s
  else s)

/-- The sweep of the reference bits (R163): a page found referenced is noted and its bit cleared; then pressure. -/
def sweep (s : State) : State :=
  pressureAll { s with pages := s.pages.map (fun (x : Nat × Page) =>
    (x.1, if x.2.refBit then { x.2 with refBit := false, swept := s.ft.run } else x.2)) }

/-- REFERENCE_BIT_SWEEP (R163). -/
def execReferenceBitSweep (s : State) : Out := .next (if domOn s 78 then sweep s else s)

/-- The position of data unit `j` of stripe `n`; units 6 and 7 are P and Q (R306). -/
def unitPosition (n j : Nat) : Nat := (n + j) % 8

/-- Twice a byte in GF(2^8), with polynomial 0x11D (R306). -/
def gfDouble (b : Byte) : Byte := (b <<< 1) ^^^ (if b.msb then 0x1D else 0)

/-- g^j times a byte, with g = 0x02 (R306). -/
def gfScale : Nat → Byte → Byte
  | 0, b => b
  | j + 1, b => gfDouble (gfScale j b)

/-- P of the bytes at one place of six data units (R306). -/
def parityP (d : List Byte) : Byte := d.foldl (· ^^^ ·) 0

/-- Q of the bytes at one place of six data units (R306). -/
def parityQ (d : List Byte) : Byte := (d.zipIdx.map (fun x => gfScale x.2 x.1)).foldl (· ^^^ ·) 0

/-- A byte of a stripe's data (R306, R307): the ciphertext of its page records. DESIGN CHOICE: what lies between them reads as zeros
(log entry 149). -/
def stripeByte (s : State) (n o : Nat) : Byte :=
  ((s.pages.findSome? (fun (p : Nat × Page) => p.2.home.bind (fun h =>
    if h.stripe = n ∧ h.at_ ≤ o then (storedUnits h)[o - h.at_]? else none))).getD 0)

/-- Byte `i` of the eight units of stripe `n`: data units 0 to 5, P and Q (R306). -/
def stripeColumn (s : State) (n i : Nat) : List Byte :=
  let d := (List.range 6).map (fun j => stripeByte s n (j * 1048576 + i))
  d ++ [parityP d, parityQ d]

/-- The positions whose shares of a stripe are lost (R310), with those that a read finds uncorrectable. -/
def lostShares (x : Stripe) (unc : BitVec 8) : List Nat :=
  (List.range 8).filter (fun p => !bit x.shares.toNat p || bit x.bad.toNat p || bit unc.toNat p)

/-- The positions that a record's bytes lie on (R306, R307). -/
def recordPositions (h : FlashPage) : List Nat :=
  (List.range 6).filter (fun j => runsMeet h.at_ (h.units * 4096) (j * 1048576) 1048576) |>.map (unitPosition h.stripe)

/-- The reconstructions that a read of a record takes, and whether it cannot be rebuilt (R310). -/
def degraded (s : State) (h : FlashPage) (unc : BitVec 8) : Nat × Bool :=
  match mget? s.stripes h.stripe with
  | none => (0, false)
  | some x =>
    let lost := lostShares x unc
    let hit := ((recordPositions h).filter (fun p => lost.contains p)).length
    (if 2 < lost.length then 0 else hit, decide (0 < hit) && decide (2 < lost.length))

/-- The end of a flash read (R156, R310). The page is not written to a stack whose accesses wait (R65). -/
def flashRead (s : State) (pid : Nat) (unc : BitVec 8) : State :=
  let p := pageAt s pid
  if p.st ≠ .fetching ∨ p.copyOf.isSome ∨ pageWaits s pid then s else
  let (n, gone) := match p.home with | some h => degraded s h unc | none => (0, true)
  let s := s.bump 0x80038 n
  let s : State := match p.home with
    | some h => if unc = 0 || gone then s else { s with stripes := mmod { pids := [] } s.stripes h.stripe (fun x => { x with bad := x.bad ||| unc }) }
    | none => s
  let (s, lost) := readComplete s pid gone
  pagesChanged (endMove s pid true lost true)

/-- FLASH_READ_COMPLETE (R156). -/
def execFlashReadComplete (pid : Nat) (uncorrectable : BitVec 8) (s : State) : Out := .next (flashRead s pid uncorrectable)

/-- The open stripe closes 16 frames after its first record (R308). -/
def execStripeCloseTimeout (s : State) : Out :=
  .next (match openStripe s with
    | some (n, x) => { s with stripes := mput s.stripes n { x with closed := true } }
    | none => s)

/-- The positions with an ACTIVE, RETIRING or TARGET cartridge, as a mask (R308, R314). -/
def programMask (s : State) : BitVec 8 :=
  BitVec.ofNat 8 ((List.range 8).foldl (fun v p => if (vacantPositions s).contains p then v else v + 2 ^ p) 0)

/-- A stripe's shares are programmed on every array cartridge (R304, R308, R314). -/
def countShares (s : State) : State :=
  { s with bays := s.bays.map (fun (b : Nat × BayState) =>
      (b.1, if b.2.position.isSome then { b.2 with written := b.2.written + 1048576 } else b.2)) }

/-- A writeback whose record's stripe is programmed ends (R156, R161, R162). -/
def writeEnds (s : State) (n : Nat) (pid : Nat) : State :=
  match (pageAt s pid).newHome with
  | some h =>
    if h.stripe ≠ n then s else
    let redirtied := (pageAt s pid).st == .redirtied
    let s := writeComplete s pid
    let s := endMove s pid false (redirtied && (pageAt s pid).resv == 0) true
    match pidObj s pid with
    | some (k, o) =>
      if redirtied && o.mover.targets.contains pid then
        s.modMover k (fun m => { m with targets := m.targets.erase pid, skipped := m.skipped + 1 })
      else s
    | none => s
  | none => s

/-- A stripe is programmed (R308): every writeback in it ends. -/
def stripeProgrammed (s : State) (n : Nat) : State :=
  match mget? s.stripes n with
  | some x =>
    if !x.closed || x.programmed || arrayBroken s then s else
    let s := countShares { s with stripes := mput s.stripes n { x with programmed := true, shares := programMask s } }
    pagesChanged (x.pids.foldl (fun s p => writeEnds s n p) s)
  | none => s

/-- STRIPE_PROGRAM_COMPLETE (R308). -/
def execStripeProgramComplete (seq : BitVec 48) (s : State) : Out := .next (stripeProgrammed s seq.toNat)

/-- MOVER_MOVES_DONE (R161). -/
def execMoverMovesDone (obj : BitVec 24) (s : State) : Out := .next (movesDone s obj.toNat)

/-- The lines of a page at a device address that a host still holds (R213). -/
def heldLines (s : State) (dev : Nat) : AMap DirEntry :=
  s.directory.filter (fun d => decide (dev ≤ d.1 * 64) && decide (d.1 * 64 < dev + 65536))

/-- The zero fill of a frame of a deleted window is an event of R214 on each of its lines: those that hosts hold are recalled, and the
fill waits until none is (R217). -/
def recallFill (s : State) (dev : Nat) : State :=
  (heldLines s dev).foldl (fun s d => if d.2.st == .recalling then s else
    let ts := sharersOf s (d.1 * 64) d.2
    if ts.isEmpty then putDir s (d.1 * 64) none else startRecall s (d.1 * 64) d.2 ts false none) s

/-- The zero fill of a dirty free frame ends (R151): the frame joins the zeroed free frames. It does not end while accesses to the
stack wait (R65), nor while a host holds a line of a deleted window's page (R217). -/
def zeroFillDone (s : State) (fr : Nat) : State :=
  match mget? s.frames fr with
  | some .dirtyFree =>
    if stackWaits s (frameStack fr) then s else
    let s := match mget? s.windowDirty fr with | some dev => recallFill s dev | none => s
    if (match mget? s.windowDirty fr with | some dev => !(heldLines s dev).isEmpty | none => false) then s
    else (pageTraffic { s with frames := mdel s.frames fr, windowDirty := mdel s.windowDirty fr } 0 fr true).zeroFrame fr false
  | _ => s

/-- FRAME_ZERO_FILL_DONE (R151). -/
def execFrameZeroFillDone (sliver : CoreId) (frame : Fin 8192) (s : State) : Out :=
  .next (zeroFillDone s (sliver.val * 8192 + frame.val))

/-- The copy of a shared page into a draft's frame ends, if its base is resident (R224) and accesses to the stacks of both do not
wait (R65). -/
def cowDone (s : State) (pid : Nat) : State :=
  match (pageAt s pid).copyOf with
  | some b => if pageMissing s b || pageWaits s b || pageWaits s pid then s else pagesChanged (copyComplete s pid)
  | none => s

/-- COW_COPY_COMPLETE (R224). -/
def execCowCopyComplete (pid : Nat) (s : State) : Out := .next (cowDone s pid)

/-- The pages whose home lies in a stripe: the live records of that stripe. -/
def livePids (s : State) (n : Nat) : List Nat :=
  (s.pages.filter (fun (p : Nat × Page) => match p.2.home with | some h => h.stripe == n | none => false)).map (·.1)

/-- Garbage collection of a stripe (R307, R310): its live records move into a new stripe, and its blocks are free. -/
def collect (s : State) (n : Nat) : State :=
  match mget? s.stripes n with
  | some x =>
    if !x.programmed || arrayBroken s then s else
    if (x.pids.any (fun p => match (pageAt s p).newHome with | some h => h.stripe == n | none => false)) then s else
    let live := (livePids s n).filter (fun p => match (pageAt s p).home with
      | some h => !(degraded s h 0).2
      | none => false)
    if live.length ≠ (livePids s n).length then s else
    let rebuilt := (live.map (fun p => match (pageAt s p).home with | some h => (degraded s h 0).1 | none => 0)).sum
    let k := s.nextStripe
    let size := (live.map (fun p => match (pageAt s p).home with | some h => h.units * 4096 | none => 0)).sum
    let s := s.bump 0x80038 rebuilt
    let (s, _) := live.foldl (fun (y : State × Nat) p =>
      match (pageAt y.1 p).home with
      | some h => (y.1.modPage p (fun q => { q with home := some { h with stripe := k, at_ := y.2 } }), y.2 + h.units * 4096)
      | none => y) (s, 0)
    let old := mdel s.stripes n
    if live.isEmpty then { s with stripes := old }
    else
      let x : Stripe := { pids := live, bytes := size, first := s.ft.run, closed := true, programmed := true, shares := programMask s }
      countShares { s with stripes := mput old k x, nextStripe := k + 1 }
  | none => s

/-- GARBAGE_COLLECTION (R307). -/
def execGarbageCollection (seq : BitVec 48) (s : State) : Out := .next (collect s seq.toNat)

end Sys2Proof.Machine
end

