-- ==== Sys2Proof/Machine/CodecCmds.lean ====
section
/-! DEFINITION. The channels of the link codecs and the commands on them (R173, R186 to R200). -/

namespace Sys2Proof.Machine

/-- The link codecs take commands (R173, R204). -/
def codecOn (s : State) : Bool := domOn s 77 && s.fieldOf 0x40000 1 1 == 1

/-- A channel. -/
def chanOf (s : State) (k : Nat) : Option CodecChan := mget? s.chanCodec k

/-- Changes a channel, if it is open. -/
def State.modCodec (s : State) (k : Nat) (f : CodecChan → CodecChan) : State :=
  match mget? s.chanCodec k with
  | some x => { s with chanCodec := mput s.chanCodec k (f x) }
  | none => s

/-- Open channels that satisfy a condition. -/
def chansWhere (s : State) (p : CodecChan → Bool) : Nat := (s.chanCodec.filter (fun (x : Nat × CodecChan) => p x.2)).length

/-- The reference that CODEC_OPEN names (R193, R194): the reference object and the content of a version whose handle
is to be opened, or the status that refuses it. -/
def openRef (s : State) (m : MciCall) (o : Obj) : Except Nat (Nat × Option Nat) :=
  let out := m.f 4 1 == 1
  match m.f 6 1 with
  | 0 => .ok (0, none)
  | 1 =>
    match reachObject s m (m.f 8 4) with
    | .error _ => .error 0x75
    | .ok r =>
      if r.versioned then
        match findVersion s (m.f 8 4) r (m.f 12 4) with
        | some k => .ok (m.f 8 4, some k)
        | none => .error 0x75
      else if m.f 12 4 = 0 then .ok (m.f 8 4, none) else .error 0x75
  | _ =>
    if !out then .ok (m.f 0 4, none)
    else match reachObject s m (m.f 16 4) with
      | .ok h => if o.pages ≤ h.pages then .ok (m.f 16 4, none) else .error 0x75
      | .error _ => .error 0x75

/-- The transform of CODEC_OPEN is a reserved one, or a parameter does not fit the transform and the direction (R193). -/
def xformBad (m : MciCall) : Bool :=
  decide (9 < m.f 5 1) || (decide (m.f 5 1 ≤ 2) && m.f 6 1 != 0)
    || ((m.f 7 1 != 0 || m.f 20 4 != 0) && !(m.f 4 1 == 1 && decide (8 ≤ m.f 5 1)))

/-- CODEC_OPEN (R193). -/
def codecOpenH : Handler := fun s m =>
  if !codecOn s then (s, .done stPowerOff []) else
  match reachObject s m (m.f 0 4) with
  | .error e => (s, .done e [])
  | .ok o =>
    if xformBad m then (s, .done 0x74 []) else
    match openRef s m o with
    | .error e => (s, .done e [])
    | .ok (r, k) =>
      if decide (16 ≤ chansWhere s (fun x => x.ctx == m.c)) || decide (256 ≤ chansWhere s (fun x => ctxPort x.ctx == ctxPort m.c))
          || (k.isSome && decide (65536 ≤ handleCount s)) then (s, .done 0x76 []) else
      let v := s.nextView
      let s : State := match k with
        | some k => { s with views := mput s.views v { obj := r, content := k, ctx := m.c, base := 0, draft := false, hidden := true }, nextView := v + 1 }
        | none => s
      let n := s.nextChan
      let x : CodecChan := { ctx := m.c, object := m.f 0 4, out := m.f 4 1 == 1, xform := m.f 5 1, refKind := m.f 6 1,
                             sr := m.f 7 1 == 1, refObj := r, refView := k.map (fun _ => v), seed := BitVec.ofNat 32 (m.f 20 4) }
      ({ s with chanCodec := mput s.chanCodec n x, nextChan := n + 1 }, .done stOK (leBytes 4 n))

/-- CODEC_OPEN. -/
def execCodecOpen (via : Path) (input : List Byte) (s : State) : Out := .next (mci s via 0xC060 input codecOpenH)

/-- A channel is freed: its handle closes (R194, R196). -/
def freeChan (s : State) (k : Nat) : State :=
  match chanOf s k with
  | none => s
  | some x =>
    let s : State := { s with chanCodec := mdel s.chanCodec k }
    match x.refView with
    | some v => endView s v
    | none => s

/-- CODEC_CLOSE (R196). -/
def codecCloseH : Handler := fun s m =>
  let k := m.f 0 4
  match chanOf s k with
  | none => (s, .done 0x70 [])
  | some x =>
    if x.ctx != m.c || x.closing.isSome then (s, .done 0x70 [])
    else if leaving s (some m.c) x.object then (s, .done stDenied [])
    else if x.jobs.isEmpty then (freeChan s k, .done stOK [])
    else (s.modCodec k (fun x => { x with closing := some (m.via, m.tag) }), .waits)

/-- CODEC_CLOSE. -/
def execCodecClose (via : Path) (input : List Byte) (s : State) : Out := .next (mci s via 0xC061 input codecCloseH)

/-- A channel whose closing waits, and whose commands have all ended, closes. -/
def closeIfDone (s : State) (k : Nat) : State :=
  match chanOf s k with
  | some x =>
    match x.closing with
    | some (via, tag) => if x.jobs.isEmpty then answer (freeChan s k) via tag 0xC061 stOK [] else s
    | none => s
  | none => s

/-- The words that a codec command's completion reports (R197). -/
def jobWords (j : CodecJob) : List Word :=
  if j.opcode = 5 then w1 j.raw ++ w1 j.fill ++ w1 j.coded ++ w1 j.poisoned ++ w2 j.packed ++ w1 j.fetched
  else w1 j.pieces ++ w2 j.packed ++ w1 j.fetched

/-- The oldest command of a channel ends. -/
def endJob (s : State) (k : Nat) (status : Nat) : State :=
  match chanOf s k with
  | none => s
  | some x =>
    match x.jobs with
    | [] => s
    | j :: _ =>
      let s := s.modCodec k (fun x => { x with jobs := x.jobs.drop 1 })
      closeIfDone (endFlight (unpinPages s (cmdPin x.ctx j.tag)) x.ctx j.tag (BitVec.ofNat 16 j.opcode) status (jobWords j)) k

/-- An unpick or a teardown drops a channel's commands and closes it (R196, R410). -/
def dropChan (s : State) (k : Nat) : State :=
  match chanOf s k with
  | none => s
  | some x =>
    let s := x.jobs.foldl (fun s j =>
      endFlight (unpinPages s (cmdPin x.ctx j.tag)) x.ctx j.tag (BitVec.ofNat 16 j.opcode) stUnpicked (jobWords j)) s
    let s := freeChan s k
    match x.closing with
    | some (via, tag) => answer s via tag 0xC061 stOK []
    | none => s

/-- Drops the channels of a context. -/
def dropChans (s : State) (c : Ctx) : State :=
  (s.chanCodec.filter (fun (x : Nat × CodecChan) => x.2.ctx == c)).foldl (fun s (x : Nat × CodecChan) => dropChan s x.1) s

/-- The status that refuses a codec ring command, or OK (R173, R197, R198). DESIGN CHOICE (log 137): the spec gives the statuses
no order; they are judged POWER_OFF, NO_CHANNEL, DIRECTION, RANGE, then NO_GRANT, TIME_UNANCHORED and BME_OFF for an exchange or DENIED.
DESIGN CHOICE (log 138): the offset of an exchange must be a multiple of 4,096 too, as those of CODEC_IN and CODEC_OUT must. -/
def codecStatus (s : State) (c : Ctx) (e : Line) : Nat :=
  let f := entryField e
  let op := entryOp e
  if !codecOn s then stPowerOff else
  match chanOf s (f 8 4) with
  | none => 0x70
  | some x =>
    if x.ctx != c || x.closing.isSome then 0x70
    else if leaving s (some c) x.object then stDenied
    else if x.out != (op != 5) then 0x71
    else if f 16 8 % 4096 != 0 || f 24 8 % 256 != 0
        || decide ((match objAt s x.object with | some o => o.pages | none => 0) * 65536 < f 16 8 + f 24 8) then stRange
    else if op = 7 then
      if !(s.ctx c).swapGrant then 0x73
      else if !cuesAccepted s then stUnanchored
      else if !(s.ctx c).bme then 0x90
      else stOK
    else if f 40 8 != 0 && !grantedRun s c (f 32 8) (f 40 8) then stDenied
    else stOK

/-- A codec command is queued on its channel (R181, R188, R197, R198). DESIGN CHOICE (log 139): a command of length 0 takes a sequence
number and completes at once with OK; a refused command takes none, and releases no pieces. -/
def queueCodec (s : State) (c : Ctx) (e : Line) (tag : Word) : State :=
  let f := entryField e
  let op := entryOp e
  match chanOf s (f 8 4) with
  | none => s
  | some x =>
    let j : CodecJob := { tag := tag, opcode := op, offset := f 16 8, length := f 24 8, bufAddr := f 32 8, bufLen := f 40 8,
                          seq := x.seq, act := if op = 7 then max (notchFrame (f 48 8)) (frameNo s + 1) else 0 }
    let s := s.modCodec (f 8 4) (fun x => { x with seq := x.seq + 1, named := if op = 5 then x.named else [] })
    if j.length = 0 then endFlight s c tag (BitVec.ofNat 16 op) stOK (jobWords j)
    else s.modCodec (f 8 4) (fun x => { x with jobs := x.jobs ++ [j] })

/-- A codec ring command as the walker takes it. -/
def codecCmd (s : State) (c : Ctx) (e : Line) (op : Nat) : State :=
  ringCmd s c e op (fun s tag =>
    let st := codecStatus s c e
    if st = stOK then queueCodec s c e tag else endFlight s c tag (BitVec.ofNat 16 op) st [])

/-- CODEC_IN (R197). -/
def execCodecIn (c : Ctx) (entry : Line) (s : State) : Out := .next (codecCmd s c entry 5)

/-- CODEC_OUT (R197). -/
def execCodecOut (c : Ctx) (entry : Line) (s : State) : Out := .next (codecCmd s c entry 6)

/-- CODEC_EXCHANGE (R198). -/
def execCodecExchange (c : Ctx) (entry : Line) (s : State) : Out := .next (codecCmd s c entry 7)

/-- The content and the object of a channel's reference (R194): that of its handle, or the object's own. -/
def refContent (s : State) (x : CodecChan) : Option (Nat × Obj) :=
  if x.refKind = 0 then none else
  match objAt s x.refObj with
  | none => none
  | some o =>
    match x.refView with
    | some v => (mget? s.views v).map (fun (w : View) => (w.content, o))
    | none => some (o.head, o)

/-- The pages that a piece touches (R195): its object's, its reference's, and those of the buffer. -/
def piecePids (s : State) (x : CodecChan) (j : CodecJob) : List Nat :=
  let off := j.offset + j.pos
  let own := match objAt s x.object with | some o => [pidOf s o.head (off / 65536)] | none => []
  let ref := match refContent s x with
    | some (k, o) => if off / 65536 < o.pages then [pidOf s k (off / 65536)] else []
    | none => []
  let buf := if j.opcode = 7 then [] else
    let n := min 4192 (j.bufLen - j.packed)
    runPids s [(j.bufAddr + j.packed, n)]
  (own ++ ref ++ buf).foldl (fun l a => linsert a l) []

/-- Asks for a piece's missing pages, pins them, and counts those it had to fetch (R195). -/
def fetchPiece (s : State) (k : Nat) (x : CodecChan) (j : CodecJob) (pids : List Nat) : State :=
  let key := cmdPin x.ctx j.tag
  let new := pids.filter (fun p => (pageAt s p).st == .home && !(pageAt s p).stepPins.contains key)
  let s := pinPages (fetchMissing s pids) key pids
  s.modCodec k (fun x => { x with jobs := lmod x.jobs 0 (fun (j : CodecJob) => { j with fetched := j.fetched + new.length }) })

/-- The traffic of a codec's read of a granule of a page: master CODEC (R195, R357), KEEP as R245 gives. -/
def codecTraffic (s : State) (c : Ctx) (order pid dev : Nat) : State :=
  (loadFrame (pageAt s pid)).toList.foldl (fun s fr =>
    let l := locOf order fr (dev % 65536 / 256 * 256)
    presentReq s l { rank := 0, bank := 0, row := 0, col := 0, write := false, mask := 15, keep := !lastOfRow l, source := .codec c,
                     master := 8, block := (fr * 65536 + dev % 65536) / 256 * 256 }) s

/-- Reads `n` lines of a page of a content, from a granule of an object on, in open slots: data, with poisoned lines as zeros, and the
mask of the poisoned lines (R192, R195). -/
def readLines (s : State) (c : Ctx) (tag : Word) (order pid dev n : Nat) : State × List Byte × Nat :=
  foldN n (fun i (x : State × List Byte × Nat) =>
    let s := if i % 4 = 0 then codecTraffic x.1 c order pid (dev + 64 * i) else x.1
    let (s, bs, p) := readPage s (codecOf c tag).reader order pid (dev + 64 * i)
    (s, x.2.1 ++ (if p then zeroLine else bs), if p then x.2.2 + 2 ^ i else x.2.2)) (s, [], 0)

/-- Bytes of which the spec gives no value. -/
def freeBytes (s : State) (n : Nat) : List Byte := (List.range n).map (fun i => Config.freeByte (s.free * 4096 + i))

/-- The reference of a position (R194): the bytes and the mask of the poisoned lines. A channel without a reference
has zeros (chapter 06, Transforms); past the end of the reference the spec gives no bytes. -/
def readRef (s : State) (x : CodecChan) (j : CodecJob) (n : Nat) : State × List Byte × Nat :=
  let off := j.offset + j.pos
  match refContent s x with
  | none => (s, List.replicate n 0, 0)
  | some (k, o) =>
    if off / 65536 < o.pages then readLines s x.ctx j.tag (orderOf s o) (pidOf s k (off / 65536)) (o.base + off) (n / 64)
    else (s.tick, freeBytes s n, 0)

/-- Writes a position of a channel's object or history: granule by granule, with the carried seals (R191, R217, R274). -/
def writePosition (s : State) (x : CodecChan) (j : CodecJob) (base : Nat) (bs : List Byte) (poison : Nat) (seals : List Word) : State :=
  foldN (bs.length / 256) (fun g s =>
    deviceGranule s (codecOf x.ctx j.tag) (base + j.offset + j.pos + 256 * g) ((bs.drop (256 * g)).take 256)
      ((List.range 4).map (fun i => bit poison (4 * g + i))) (seals.getD g 0)) s

/-- Lines of a mask. -/
def maskCount (m n : Nat) : Nat := (maskList m n).length

/-- The payload head of a codec event (R203). -/
def pieceWords (k : Nat) (j : CodecJob) (x : CodecChan) (dev : Nat) : List Word :=
  w1 k ++ w1 j.tag.toNat ++ w1 x.piece ++ w2 dev

/-- Decodes one piece of a command (R187, R189 to R191): the effect, and what the piece was. -/
def decodeAt (s : State) (k : Nat) (x : CodecChan) (j : CodecJob) (o : Obj) : State × CodecJob :=
  let p := min 4096 (j.length - j.pos)
  let dev := o.base + j.offset + j.pos
  let left := j.bufLen - j.packed
  let (s, hd, _) := devBytes s (codecOf x.ctx j.tag) (j.bufAddr + j.packed) (min 32 left)
  let h := parseHdr hd
  let d : DecodeCtx := { storage := false, xform := x.xform, slots := x.tables }
  let reserved := decide (32 ≤ left) && (headerCause d h).isSome
  let gone := j.past || decide (left < 32) || (!reserved && decide (left < h.packed))
  let (s, buf, bad) := if gone then (s, [], false) else devBytes s (codecOf x.ctx j.tag) (j.bufAddr + j.packed) (min h.packed left)
  let (s, rs, rp) := if gone || h.form ≠ 1 || h.xform < 3 then (s, List.replicate p 0, 0) else readRef s x j p
  let r := if gone then zeroPiece p 3 0 else decodePiece d buf p rs
  let all := 2 ^ (p / 64) - 1
  let poison := if bad then all else (BitVec.ofNat 64 r.poison ||| BitVec.ofNat 64 rp).toNat
  let s := writePosition s x j o.base r.bytes poison r.seals
  let s : State := match r.bad with
    | some cause =>
      let s := s.bump 0x40014 1
      if j.past then s
      else raise s evPieceUnusable [x.ctx] (pieceWords k j x dev ++ w1 cause ++ w1 (if gone then ceilDiv (j.length - j.pos) 4096 else 1))
    | none =>
      if r.size = 0 then s
      else raise (s.bump 0x40010 1) evSizeMismatch [x.ctx] (pieceWords k j x dev ++ w1 r.size ++ w1 r.symbols ++ w1 h.decl)
  let s := (s.bump 0x40020 p 64 (ctxPort x.ctx).val).bump 0x40028 (if gone then 0 else h.packed) 64 (ctxPort x.ctx).val
  let s := s.modCodec k (fun x => { x with
    tables := match r.store with | some (sl, g, l) => mput x.tables sl (g, l) | none => x.tables })
  let fine := r.bad.isNone
  (s, { j with pos := j.pos + p, packed := if gone then j.packed else j.packed + h.packed, past := gone, pieces := j.pieces + 1,
               raw := j.raw + b2n (fine && r.form == 0), fill := j.fill + b2n (fine && r.form == 2),
               coded := j.coded + b2n (fine && r.form == 1), poisoned := j.poisoned + b2n (poison != 0) })

/-- The command that a channel's lane works on: its oldest, once an exchange's boundary has come (R198). -/
def readyJob (s : State) (k : Nat) : Option (CodecChan × CodecJob) :=
  if !domOn s 77 then none else
  match chanOf s k with
  | some x =>
    match x.jobs with
    | j :: _ => if j.opcode == 7 && decide (frameNo s < j.act) then none else some (x, j)
    | [] => none
  | none => none

/-- Puts back a command after a piece, and ends it after its last. -/
def nextPiece (s : State) (k : Nat) (j : CodecJob) : State :=
  let s := s.modCodec k (fun x => { x with piece := x.piece + 1, jobs := lmod x.jobs 0 (fun _ => j) })
  if j.length ≤ j.pos then endJob s k (if j.poisoned != 0 then 1 else stOK)
  else match chanOf s k with
    | some x => unpinPages s (cmdPin x.ctx j.tag)
    | none => s

/-- PIECE_DECODE: the next piece of a channel's command, once its pages are resident (R189, R195). -/
def pieceDecode (s : State) (k : Nat) : State :=
  match readyJob s k with
  | none => s
  | some (x, j) =>
    if j.opcode ≠ 5 then s else
    match objAt s x.object with
    | none => endJob s k stNoObject
    | some o =>
      let pids := piecePids s x j
      if pids.any (fun p => pageMissing s p || pageWaits s p) then fetchPiece s k x j pids
      else
        let (s, j) := decodeAt s k x j o
        nextPiece s k j

/-- PIECE_DECODE. -/
def execPieceDecode (chan : Word) (s : State) : Out := .next (pieceDecode s chan.toNat)

/-- The seals of a position as an encoder takes them (R192, R276). -/
def takenSeals (s : State) (pid dev : Nat) (bs : List Byte) : List Word :=
  (chunk 256 bs).zipIdx.map (fun x => takenSeal s pid (dev + 256 * x.2) x.1)

/-- The tables that the encoder of a channel may use for the next piece (R188). -/
def tableChoice (x : CodecChan) : TableChoice :=
  let held := fun (sl : Nat) => match mget? x.tables sl with | some t => x.named.contains (sl, t.1) | none => false
  let slot := match (List.range 8).find? (fun sl => !mhas x.tables sl) with
    | some sl => some sl
    | none => (x.stored.filter (fun sl => !held sl)).getLast?
  { last := match x.stored.head? with
      | some sl => (mget? x.tables sl).map (fun t => (sl, t.1, t.2))
      | none => none
    store := slot.map (fun sl => (sl, match mget? x.tables sl with | some t => if t.1 = 65535 then 1 else t.1 + 1 | none => 1)) }

/-- The channel's rounding of element `i` of block `b` of a command (R180, R181). -/
def pieceRound (x : CodecChan) (j : CodecJob) (b i : Nat) : Rnd :=
  if x.sr then .sr (srValue x.seed (((j.pos / (32 * xformElem x.xform)) + b) * 32 + i) (BitVec.ofNat 32 j.seq)) else .rne

/-- What the encoder makes of a position: the piece, and the bytes and seals that a decoder will form. -/
structure EncodedAt where
  piece : Encoded
  bytes : List Byte
  seals : List Word

/-- Encodes the bytes of a position (R177, R182, R185, R188, R191, R192). -/
def encodeAt (x : CodecChan) (j : CodecJob) (xs rs : List Byte) (poison : Nat) (seals : List Word) : EncodedAt :=
  let (sym, ys) := forward x.xform (pieceRound x j) xs rs
  let own := if x.xform < 8 then seals else sealsOf ys
  let e := encodePiece x.xform xs sym poison own (tableChoice x)
  if e.form = 1 then ⟨e, ys, own⟩ else ⟨encodePlain xs poison seals, xs, seals⟩

/-- Sends the bytes of a piece: to the buffer, or to the peer by device-mastered writes of at most 512 bytes
(R197, R198, R347). -/
def sendPiece (s : State) (x : CodecChan) (j : CodecJob) (bs : List Byte) : State :=
  if j.opcode = 7 then
    foldN (ceilDiv bs.length 512) (fun i s =>
      s.emit (.upWrite x.ctx (BitVec.ofNat 64 (j.bufAddr + j.packed + 512 * i)) ((bs.drop (512 * i)).take 512) false)) s
  else writeBytes s (codecOf x.ctx j.tag) (j.bufAddr + j.packed) bs

/-- Takes up what a piece did to the channel's tables (R188): a command that a later one has followed releases its
pieces at once. -/
def noteTables (s : State) (k : Nat) (e : Encoded) : State :=
  s.modCodec k (fun x => { x with
    tables := match e.store with | some (sl, g, l) => mput x.tables sl (g, l) | none => x.tables
    stored := match e.store with | some (sl, _, _) => sl :: x.stored.filter (fun y => y != sl) | none => x.stored
    named := match e.named with | some n => if x.jobs.length ≤ 1 then x.named ++ [n] else x.named | none => x.named })

/-- PIECE_ENCODE: the next piece of a channel's command, once its pages are resident (R188, R195, R197). -/
def pieceEncode (s : State) (k : Nat) : State :=
  match readyJob s k with
  | none => s
  | some (x, j) =>
    if j.opcode = 5 then s else
    match objAt s x.object with
    | none => endJob s k stNoObject
    | some o =>
      let pids := piecePids s x j
      if pids.any (fun p => pageMissing s p || pageWaits s p) then fetchPiece s k x j pids
      else
        let n := min 4096 (j.length - j.pos)
        let off := j.offset + j.pos
        let pid := pidOf s o.head (off / 65536)
        let (s, xs, xp) := readLines s x.ctx j.tag (orderOf s o) pid (o.base + off) (n / 64)
        let (s, rs, rp) := if xformRef x.xform then readRef s x j n else (s, List.replicate n 0, 0)
        let poison := (BitVec.ofNat 64 xp ||| BitVec.ofNat 64 rp).toNat
        let e := encodeAt x j xs rs poison (takenSeals s pid (o.base + off) xs)
        let size := e.piece.bytes.length
        if j.bufLen < j.packed + size then endJob s k 0x72
        else
          let s := sendPiece s x j e.piece.bytes
          let s := match x.refKind, objAt s x.refObj with
            | 2, some h => writePosition s x j h.base e.bytes poison e.seals
            | _, _ => s
          let s := (s.bump 0x40030 n 64 (ctxPort x.ctx).val).bump 0x40038 size 64 (ctxPort x.ctx).val
          nextPiece (noteTables s k e.piece) k { j with pos := j.pos + n, packed := j.packed + size, pieces := j.pieces + 1 }

/-- PIECE_ENCODE. -/
def execPieceEncode (chan : Word) (s : State) : Out := .next (pieceEncode s chan.toNat)

end Sys2Proof.Machine
end

