-- ==== Sys2Proof/Machine/Bindings.lean ====
section
/-! DEFINITION. Bindings of loaded patterns (R138, R139). -/

namespace Sys2Proof.Machine

/-- The code bundles that bindings hold in a core's code store. -/
def codeUsed (s : State) (k : Nat) : Nat :=
  (s.bindings.map (fun (x : Nat × Binding) => match mget? s.patterns x.2.pattern with
    | none => 0
    | some p => ((p.cores.filter (fun (c : PatCore) => x.2.cmap.getD c.cluster 0 * 128 + c.loc == k)).map
        (fun (c : PatCore) => c.code.length)).sum)).sum

/-- The claim-store entries that a pattern takes in a logical cluster: its claims on local cores that it has there. -/
def claimsIn (p : Pattern) (cl : Nat) : Nat :=
  let ls := clusterLocals p cl
  (p.claims.filter (fun (c : Claim) => ls.contains c.loc)).length

/-- The claim-store entries in use in a physical cluster. -/
def claimsUsed (s : State) (k : Nat) : Nat :=
  (s.bindings.map (fun (x : Nat × Binding) => match mget? s.patterns x.2.pattern with
    | none => 0
    | some p => match x.2.cmap.findIdx? (· == k) with
      | some cl => claimsIn p cl
      | none => 0)).sum

/-- Bindings in a physical cluster. -/
def bindingsIn (s : State) (k : Nat) : Nat := (s.bindings.filter (fun (x : Nat × Binding) => x.2.cmap.contains k)).length

/-- A sequential claim stream of a pattern names a region (R242). -/
def seqNames (p : Pattern) (r : Nat) : Bool :=
  p.cores.any (fun (c : PatCore) => c.streams.any (fun (x : ClaimStream) => !x.indirect && x.region == r))

/-- An object suits a region of a pattern under a placement (R138, R146, R149, R242). -/
def objFits (s : State) (pn : Nat) (p : Pattern) (cmap : List Nat) (i : Nat) (r : Region) (o : Obj) : Bool :=
  o.layout != .interleaved && o.pattern == pn && o.region == i && o.cmap == cmap
    && decide (r.size ≤ o.pages * 65536) && (o.cls != .scratch || r.light) && (r.kind != 4 || o.cls == .scratch)
    && (orderOf s o == 0 || !seqNames p i)

/-- What an OBJECT entry of PAT_BIND names: an object, or, with bit 31 set, a handle or draft of the caller (R221). -/
def boundOf (s : State) (m : MciCall) (pn : Nat) (p : Pattern) (cmap : List Nat) (i : Nat) (r : Region) (v : Nat) :
    Except Nat Bound :=
  if bit v 31 then
    match mget? s.views (v % 0x80000000) with
    | none => .error 0x50
    | some x =>
      if x.hidden || m.ctx != some x.ctx then .error 0x50
      else match objAt s x.obj with
        | none => .error 0x50
        | some o => if objFits s pn p cmap i r o && (x.draft || decide (r.kind ≤ 1)) then .ok (.view (v % 0x80000000)) else .error 0x44
  else match reachObject s m v with
    | .error e => .error e
    | .ok o =>
      if objFits s pn p cmap i r o && !o.versioned
          && (decide (r.kind ≤ 1) || !s.windows.any (fun (w : Nat × Window) => w.2.obj == v)) then .ok (.object v)
      else .error 0x44

/-- A cluster half is on, and no mode change that has been accepted switches it off (R138). The second part keeps what R21 and R460
demand of the change until it is made; DESIGN CHOICE (log 128). -/
def halfStays (s : State) (d : Nat) : Bool :=
  domOn s d && (match s.pw.job with | some j => modeHalf j.mode d | none => true)

/-- PAT_BIND (R138, R402). -/
def patBindH : Handler := fun s m =>
  let pn := m.f 0 4
  match patternFor s m pn with
  | none => (s, .done 0x3A [])
  | some p =>
    let cmap := inputMap m 8 p.clusters
    let b : Binding := { pattern := pn, ctx := m.c, cmap := cmap, bound := [] }
    let ks := placement b p
    if !mapOk p cmap || (List.range 20).any (fun k => decide (p.clusters ≤ k) && m.f (8 + k) 1 != 0xFF) then (s, .done 0x40 [])
    else if ks.any (fun k => !halfStays s (k / 64)) then (s, .done 0x41 [])
    else if (List.range p.cores.length).any (fun i =>
        match p.cores[i]? with | some c => decide (4096 < codeUsed s (ks.getD i 0) + c.code.length) | none => false) then
      (s, .done 0x42 [])
    else if (List.range p.clusters).any (fun cl => decide (65536 < claimsUsed s (cmap.getD cl 0) + claimsIn p cl)) then
      (s, .done 0x43 [])
    else if m.f 4 1 != p.regions.length then (s, .done 0x44 [])
    else
      let bs := (List.range p.regions.length).map (fun i =>
        boundOf s m pn p cmap i (p.regions.getD i ⟨0, false, false, false, 0, 0⟩) (m.f (32 + 4 * i) 4))
      match bs.findSome? (fun x => match x with | .error e => some e | .ok _ => none) with
      | some e => (s, .done e [])
      | none =>
        if 4096 ≤ s.bindings.length || cmap.any (fun k => decide (64 ≤ bindingsIn s k)) then (s, .done 0x45 [])
        else
          let bd := bs.filterMap (fun x => match x with | .ok y => some y | .error _ => none)
          ({ s with bindings := mput s.bindings s.nextBinding { b with bound := bd }, nextBinding := s.nextBinding + 1, recompute := Nat.lor s.recompute 8 },
           .done stOK (leBytes 4 s.nextBinding))

/-- PAT_BIND. -/
def execPatBind (via : Path) (input : List Byte) (s : State) : Out := .next (mci s via 0xC012 input patBindH)

/-- A cue that has not completed names a binding: armed, running, being unpicked or waiting for a replay. -/
def cueNames (s : State) (n : Nat) : Bool :=
  (s.cues ++ s.rv.replays ++ s.rv.unpicks.flatMap (fun (j : Nat × UnpickJob) => j.2.cues)).any (fun (q : Nat × Cue) => q.2.binding == n)

/-- PAT_UNBIND (R139). -/
def patUnbindH : Handler := fun s m =>
  let n := m.f 0 4
  match mget? s.bindings n with
  | none => (s, .done 0x26 [])
  | some b =>
    if !m.owner && m.ctx != some b.ctx then (s, .done 0x26 [])
    else if cueNames s n then (s, .done stBusy [])
    else ({ s with bindings := mdel s.bindings n, recompute := Nat.lor s.recompute 8 }, .done stOK [])

/-- PAT_UNBIND. -/
def execPatUnbind (via : Path) (input : List Byte) (s : State) : Out := .next (mci s via 0xC013 input patUnbindH)

end Sys2Proof.Machine
end

