-- ==== Sys2Proof/Machine/Cues.lean ====
section
/-! DEFINITION. Cues: arming (R48 to R52), renumbering (R53), samples, holds and starts of steps (R54 to R57, R113,
R124, R132, R225), and the end of a pattern (R58, R102, R122). -/

namespace Sys2Proof.Machine

/-- The start boundary of a notch, ⌈T ÷ 1,024⌉ (R48). -/
def startOf (notch : Nat) : Nat := ceilDiv notch 1024

/-- The operating mode in force at a boundary (R64, R66). -/
def modeAt (s : State) (frame : Nat) : Nat :=
  match s.pw.job with
  | some j => if (if j.setChange then j.frame + 20 else j.frame) ≤ frame then j.mode else if j.begun.isSome then j.old else s.pw.mode
  | none => s.pw.mode

/-- A boundary lies within a timing-set change (R64). -/
def startInChange (s : State) (frame : Nat) : Bool :=
  match s.pw.job with
  | some j => j.setChange && decide (j.frame ≤ frame) && decide (frame < j.frame + 20)
  | none => false

/-- The least start boundary that a set change leaves to a pattern of the new set (R64). -/
def setFloor (s : State) (p : Pattern) : Nat :=
  match s.pw.job with
  | some j => if j.setChange && modeSet j.mode == p.tset then j.frame + 20 else 0
  | none => 0

/-- The earliest start boundary of a cue armed in this frame (R49). A set change does not move it: a new cue that would start
before F + 20 is refused (R64). -/
def earliestStart (s : State) : Nat := frameNo s + 2

/-- A boundary's count on the module's own scale, which no renumbering moves. -/
def runAt (s : State) (frame : Nat) : Nat := s.ft.run + frame - frameNo s

/-- The boundary counts that a cue's reservation covers, the first and the one after the last: frames S to S + L + G − 1 (R52),
whatever holds have moved its steps by. -/
def reserved (s : State) (q : Cue) (p : Pattern) : Nat × Nat :=
  let a := (if q.phase = .running then q.began else runAt s q.start) - q.lead
  (a, a + p.length + q.grace)

/-- The slot claims of a binding by physical cluster, channel and slot (R52). -/
def claimSlots (b : Binding) (p : Pattern) : List Nat :=
  p.claims.flatMap (fun (c : Claim) => (claimCores p c).map (fun i =>
    (b.cmap.getD (clusterOf p i) 0 * 32 + c.loc / 4) * 256 + c.slot))

/-- Two placements share a core or a slot claim. -/
def sharesWork (a : Binding × Pattern) (b : Binding × Pattern) : Bool :=
  (placement a.1 a.2).any (fun k => (placement b.1 b.2).contains k)
    || (claimSlots a.1 a.2).any (fun x => (claimSlots b.1 b.2).contains x)

/-- A reservation overlaps that of an armed or running cue (R52). -/
def slotConflict (s : State) (b : Binding) (p : Pattern) (lo hi : Nat) : Bool :=
  s.cues.any (fun (x : Nat × Cue) => match runOf s x.1 with
    | some (q, b', p') =>
      let r := reserved s q p'
      decide (lo < r.2) && decide (r.1 < hi) && sharesWork (b, p) (b', p')
    | none => false)

/-- Armed cues that a cluster holds (R51). -/
def armedIn (s : State) (k : Nat) : Nat :=
  (s.cues.filter (fun (x : Nat × Cue) => x.2.phase != .running && (match mget? s.bindings x.2.binding with
    | some b => b.cmap.contains k
    | none => false))).length

/-- The next role epoch (R132). -/
def nextEpoch (s : State) : Nat → BitVec 16 → BitVec 16
  | 0, e => e
  | n + 1, e =>
    let e := e + 1
    if e = 0 || s.cues.any (fun (x : Nat × Cue) => x.2.epoch == e) then nextEpoch s n e else e

/-- Raises EV_NOTCH_MISSED (R50, R68). -/
def notchMissed (s : State) (q : Cue) (S earliest start : Nat) : State :=
  raise s evNotchMissed [q.ctx] ([q.tag] ++ w2 q.notch ++ w2 S ++ w2 earliest ++ w1 (b2n q.late) ++ w2 start)

/-- A cue ends with a status and no words of a run (R51). -/
def refuseCue (s : State) (c : Ctx) (tag : Word) (status : Nat) : State := endFlight s c tag 1 status []

/-- Adds an armed cue with its epoch (R132). -/
def armCue (s : State) (q : Cue) : State :=
  let e := nextEpoch s 65536 s.epoch
  { s with cues := mput s.cues s.nextCue { q with epoch := e, gen := (s.ctx q.ctx).gen, armedAt := s.ft.run },
           nextCue := s.nextCue + 1, epoch := e }

/-- The checks of R51 and R52 on a cue, in their order, and its arming. -/
def cueTaken (s : State) (c : Ctx) (e : Line) (tag : Word) : State :=
  let f := entryField e
  let refuse := refuseCue s c tag
  if !cuesAccepted s then refuse stUnanchored
  else match mget? s.bindings (f 8 4) with
    | none => refuse 0x26
    | some b =>
      if b.ctx != c then refuse 0x26
      else if b.quarantined then refuse stQuarantined
      else match mget? s.patterns b.pattern with
        | none => refuse 0x26
        | some p =>
          let grace := if f 12 2 = 0xFFFF then s.fieldOf 0x20024 0 11 else f 12 2
          let late := bit (f 2 1) 1
          let S := startOf (f 16 8)
          let E := earliestStart s
          let isLate := decide (S < E)
          let start := if isLate && late then E else S
          let q : Cue := { ctx := c, tag := tag, binding := f 8 4, grace := grace, notch := f 16 8,
                           seed := BitVec.ofNat 32 (f 24 4), late := late, gen := 0, start := start }
          if modeSet (modeAt s start) != p.tset then refuse 0x20
          else if !bit p.modeMask.toNat (modeAt s start) then refuse 0x21
          else if s.ft.time.toNat + 60000000000 < f 16 8 then refuse 0x22
          else if startInChange s start then refuse 0x20
          else if b.cmap.any (fun k => decide (32 ≤ armedIn s k)) then refuse 0x23
          else if slotConflict s b p (runAt s start) (runAt s start + p.length + grace) then refuse 0x24
          else if isLate && !late then refuseCue (notchMissed s q S E 0) c tag 0x25
          else armCue (if isLate then notchMissed s q S E E else s) q

/-- CUE (R397). -/
def execCue (c : Ctx) (entry : Line) (s : State) : Out := .next (ringCmd s c entry 1 (fun s tag => cueTaken s c entry tag))

/-- Takes an armed cue out of service. -/
def dropCue (s : State) (r : Nat) : State := { s with cues := mdel s.cues r }

/-- A renumbering by `frames` has taken effect: the start of an armed cue is computed again (R53, R64). A replay names
no notch and moves with the frames (R415). -/
def renumberCue (s : State) (frames : Int) (r : Nat) : State :=
  match runOf s r with
  | none => s
  | some (q, _, p) =>
    if q.phase = .running then s
    else if q.replay then
      { s with cues := mput s.cues r { q with start := ((q.start : Int) + frames).toNat } }
    else
      let S := startOf q.notch
      let E := max (max (q.armedAt + 2 + frameNo s - s.ft.run) (frameNo s)) (setFloor s p)
      if E ≤ S then { s with cues := mput s.cues r { q with start := S + q.held } }
      else if q.late then notchMissed { s with cues := mput s.cues r { q with start := E + q.held } } q S E E
      else refuseCue (notchMissed (dropCue s r) q S E 0) q.ctx q.tag 0x25

/-- What a binding gives for a region: the object, its content, and whether it is a draft. -/
def regionObj (s : State) (b : Binding) (i : Nat) : Option (Nat × Obj × Nat × Option View) :=
  match b.bound[i]? with
  | some (.object n) => (objAt s n).map (fun o => (n, o, o.head, none))
  | some (.view v) => match mget? s.views v with
    | some x => (objAt s x.obj).map (fun o => (x.obj, o, x.content, some x))
    | none => none
  | none => none

/-- The page that a run reads at page `ix` of a region. -/
def regionPid (s : State) (b : Binding) (i ix : Nat) : Option Nat :=
  (regionObj s b i).map (fun x => pidOf s x.2.2.1 ix)

/-- The device address of a page of a region: that of its object, or of the view that is bound. -/
def regionDev (s : State) (b : Binding) (i ix : Nat) : Nat :=
  match regionObj s b i with
  | some (_, o, _, v) => (match v with | some x => x.base | none => o.base) + 65536 * ix
  | none => 0

/-- The pages that a step lists, as region × 2^32 + page (R136). -/
def stepPages (p : Pattern) (i : Nat) : List Nat :=
  match p.steps[i]? with
  | some st => (st.pages.flatMap (fun (e : PagesEntry) =>
      (List.range e.count).map (fun j => e.region * 0x100000000 + e.first + j))).foldl (fun l a => linsert a l) []
  | none => []

/-- The step pin of a run on the pages of a step (R160). -/
def stepPin (r i : Nat) : Nat := 0x1000000000000 + r * 256 + i

/-- A draft's page of a region of kind 2 or 3 that is still shared with its base (R225). -/
def stillShared (s : State) (b : Binding) (p : Pattern) (key : Nat) : Bool :=
  let i := key / 0x100000000
  match regionObj s b i, p.regions[i]? with
  | some (_, _, k, some v), some r => v.draft && (r.kind == 2 || r.kind == 3)
      && pidOf s k (key % 0x100000000) != pageKey k (key % 0x100000000)
  | _, _ => false

/-- A listed page counts as resident at a sample (R157, R225). -/
def pageReady (s : State) (b : Binding) (p : Pattern) (key : Nat) : Bool :=
  !stillShared s b p key && (match regionPid s b (key / 0x100000000) (key % 0x100000000) with
    | some pid => sampleResident (pageAt s pid)
    | none => false)

/-- A sample asks for a page that is not resident: a fetch, or the copy of a draft's shared page (R156, R157, R225). -/
def askPage (s : State) (b : Binding) (p : Pattern) (key : Nat) : State :=
  let i := key / 0x100000000
  let ix := key % 0x100000000
  if stillShared s b p key then
    match targetOf s (regionDev s b i ix) with
    | some t => (startCopy s t false).getD s
    | none => s
  else match regionPid s b i ix with
    | some pid => match (pageAt s pid).st with
      | .home | .absent => requestFetch s pid .sample
      | _ => s
    | none => s

/-- Rows that indirect streams of a run have not written (R126). -/
def rowsLeft (s : State) (b : Binding) (p : Pattern) : Nat :=
  ((placement b p).map (fun k => ((s.core k).rows.map (fun (x : Nat × List IndRow) => x.2.length)).sum)).sum

/-- The boundary count at which the next step of a cue is due (R54). -/
def dueRun (s : State) (q : Cue) : Nat := if q.phase = .running then q.due else runAt s q.start

/-- The pages of a step that are not resident at a sample (R54). -/
def missingPages (s : State) (b : Binding) (p : Pattern) (i : Nat) : List Nat := (stepPages p i).filter (fun k => !pageReady s b p k)

/-- What a sample of step `i` asks for and pins (R54, R157, R160). -/
def samplePages (s : State) (r : Nat) (b : Binding) (p : Pattern) (i : Nat) : State :=
  pinPages ((missingPages s b p i).foldl (fun s k => askPage s b p k) s) (stepPin r i)
    ((stepPages p i).filterMap (fun k => regionPid s b (k / 0x100000000) (k % 0x100000000)))

/-- The last indirect claim of a run's present step has passed, so the rows that it has left are spill rows (R126). -/
def spillsBegun (s : State) (q : Cue) (p : Pattern) : Bool :=
  match q.cur with
  | none => true
  | some i => p.claims.all (fun (c : Claim) => c.step != i || c.kind != 2 || decide (q.curStart + c.last < s.ft.run))

/-- The sample of a run's next step (R54, R55, R157, R160), in which spill rows not yet written count as pages (R126). -/
def sampleStep (s : State) (r : Nat) : State :=
  match runOf s r with
  | none => s
  | some (q, b, p) =>
    let miss := missingPages s b p q.step
    let s := samplePages s r b p q.step
    let rows := if spillsBegun s q p then rowsLeft s b p else 0
    let q := { q with sampled := true, found := miss, foundRows := rows }
    if (!miss.isEmpty || rows != 0) && decide (q.held < q.grace) then
      let q := if q.phase = .running then { q with held := q.held + 1, due := q.due + 1 }
        else { q with held := q.held + 1, lead := q.lead + 1, start := q.start + 1 }
      { s with cues := mput s.cues r q }.bump 0x2003C 1
    else { s with cues := mput s.cues r q }

/-- The sample of the step after the next one, where the next one starts at this boundary and lasts one frame (R54, R136): the
step after it is due one frame later, and at this sample no claim of the step between has passed. -/
def sampleAhead (s : State) (r : Nat) : State :=
  match runOf s r with
  | none => s
  | some (q, b, p) =>
    let miss := missingPages s b p (q.step + 1)
    let s := samplePages s r b p (q.step + 1)
    let hold := !miss.isEmpty && decide (q.held < q.grace)
    let s : State := { s with cues := mput s.cues r { q with ahead := some (miss, hold), held := q.held + b2n hold } }
    if hold then s.bump 0x2003C 1 else s

/-- A core begins a run (R99, R113, R132): it clears its state in cycles 0 to 127 (R141), and its first bundle issues in cycle 128
(R112). -/
def freshCore (r : Nat) (q : Cue) (i : Nat) : CoreState :=
  { st := .clearing, cyc := 128, run := some r, ctx := some q.ctx, logical := i, epoch := q.epoch }

/-- The indirect streams of a core that a step's claims name. -/
def stepStreams (p : Pattern) (i st : Nat) : List (Nat × ClaimStream) :=
  match p.cores[i]? with
  | none => []
  | some c => (List.range c.streams.length).filterMap (fun j => match c.streams[j]? with
    | some x => if x.indirect && p.claims.any (fun (k : Claim) => k.loc == c.loc && k.stream == j && k.step == st && k.kind == 2)
        then some (j, x) else none
    | none => none)

/-- The rows of an indirect stream at the start of its step (R124): a row at or beyond the limit is written as zeros
with poison. -/
def loadRows (s : State) (k j : Nat) (x : ClaimStream) : State :=
  let c := s.core k
  let n := leNat (bobRead c x.count 4).1
  let rows := (List.range n).map (fun i => (⟨bits (leNat (bobRead c (x.index + 4 * i) 4).1) 0 x.width, i, 0⟩ : IndRow))
  let bad := rows.filter (fun y => decide (x.limit ≤ y.row))
  let s := if bad.isEmpty then s else setInt s 8 2
  s.modCore k (fun c =>
    let c := bad.foldl (fun c y => bobFill c (x.bobbin + y.ix * x.ring) (List.replicate x.ring 0)
      (List.replicate (ceilDiv x.ring 64) true)) c
    { c with rows := mput c.rows j (rows.filter (fun y => decide (y.row < x.limit))) })

/-- Rows left when a step starts under R56 are read as poison (R126). -/
def poisonRows (s : State) (p : Pattern) (k i : Nat) : State :=
  match p.cores[i]? with
  | none => s
  | some pc => s.modCore k (fun c =>
      let c := c.rows.foldl (fun (c : CoreState) (x : Nat × List IndRow) => match pc.streams[x.1]? with
        | some y => x.2.foldl (fun c w => bobFill c (y.bobbin + w.ix * y.ring) (List.replicate y.ring 0)
            (List.replicate (ceilDiv y.ring 64) true)) c
        | none => c) c
      { c with rows := [] })

/-- The share of a region that a logical core works on (R149): its own number, or for a REPLICATED object the position of its
local index among the cores of logical cluster 0. -/
def shareOf (s : State) (b : Binding) (p : Pattern) (region i : Nat) : Nat :=
  match regionObj s b region, p.cores[i]? with
  | some (_, o, _, _), some c =>
    if o.layout = .replicated then
      ((p.cores.filter (fun (x : PatCore) => x.cluster == 0)).findIdx? (fun (x : PatCore) => x.loc == c.loc)).getD i
    else i
  | _, _ => i

/-- The device addresses of the rows that a run has left (R126). -/
def rowDevs (s : State) (b : Binding) (p : Pattern) : List Nat :=
  (List.range p.cores.length).flatMap (fun i => match p.cores[i]? with
    | none => []
    | some pc => (s.core (b.cmap.getD pc.cluster 0 * 128 + pc.loc)).rows.flatMap (fun (x : Nat × List IndRow) =>
      match pc.streams[x.1]? with
      | some y => x.2.map (fun w =>
          let off := shareOf s b p y.region i * (p.regions.getD y.region ⟨0, false, false, false, 0, 0⟩).share * 65536 + w.row * y.start
          regionDev s b y.region 0 + off)
      | none => []))

/-- Raises EV_LATE_FETCH for a step that starts under R56 (R68, R126): its missing pages are those that the sample found, and
the spill rows still outstanding now. -/
def lateFetch (s : State) (b : Binding) (p : Pattern) (q : Cue) : State :=
  let devs := q.found.map (fun k => regionDev s b (k / 0x100000000) (k % 0x100000000)) ++ rowDevs s b p
  let low := match devs with | [] => 0 | d :: l => l.foldl min d
  raise (s.bump 0x20038 1) evLateFetch [q.ctx]
    ([q.tag] ++ w1 q.step ++ w2 (frameNo s) ++ wSat (q.found.length + rowsLeft s b p) ++ w2 low)

/-- The intervals of a step for a core, moved by the frames for which the run has held; those that have passed go. -/
def addWindows (l : List Fill × List Fill) (st : PatStep) (now : Nat) (c : CoreState) : CoreState :=
  let lo := st.first * 1280
  let sel := fun (old new : List Fill) => old.filter (fun w => decide (now ≤ w.last))
    ++ (new.filter (fun w => decide (lo ≤ w.first) && decide (w.first < lo + st.frames * 1280))).map
      (fun w => { w with first := w.first - lo + now, last := w.last - lo + now })
  { c with fills := sel c.fills l.1, drains := sel c.drains l.2 }

/-- The cores of a run take the intervals of a step that starts (R47, R117, R131). -/
def takeWindows (s : State) (p : Pattern) (ks : List Nat) (st now : Nat) : State :=
  match p.steps[st]? with
  | none => s
  | some x =>
    let w := walkClaims p
    let arr := allArrivals p (p.cores.map (traceOf p))
    (List.range ks.length).foldl (fun s i => s.modCore (ks.getD i 0) (addWindows (windowsOf w arr i) x now)) s

/-- The next step of a run starts at this boundary (R48, R56, R112, R113). -/
def startStep (s : State) (r : Nat) : State :=
  match runOf s r with
  | none => s
  | some (q, b, p) =>
    let ks := placement b p
    let late := !q.found.isEmpty || q.foundRows != 0
    let s := if late then lateFetch s b p q else s
    let ix := List.range ks.length
    let s := if q.phase = .running then
        let s := if late then ix.foldl (fun s i => poisonRows s p (ks.getD i 0) i) s else s
        ks.foldl (fun s k => (s.runCore k (fun c => if c.st = .waitStep then
          { coast c ((s.ft.run - q.began) * 1280 + 2) with st := .running } else c)).collect k) s
      else ix.foldl (fun s i => s.modCore (ks.getD i 0) (fun _ => freshCore r q i)) s
    let s := takeWindows s p ks q.step (if q.phase = .running then (s.ft.run - q.began) * 1280 else 0)
    let s := ix.foldl (fun s i => (stepStreams p i q.step).foldl (fun s x => loadRows s (ks.getD i 0) x.1 x.2) s) s
    let first := q.phase != .running
    let q := { q with
      phase := .running
      began := if first then s.ft.run else q.began
      beganFrame := if first then frameNo s else q.beganFrame
      cur := some q.step
      curStart := s.ft.run
      step := q.step + 1
      due := s.ft.run + (match p.steps[q.step]? with | some x => x.frames | none => 0)
        + (match q.ahead with | some (_, hold) => b2n hold | none => 0)
      sampled := q.ahead.isSome
      lateNow := late
      missing := q.found
      found := match q.ahead with | some (miss, _) => miss | none => []
      foundRows := 0
      ahead := none
      lateSteps := q.lateSteps + b2n late }
    { s with cues := mput s.cues r q }

/-- The halves that a run of a binding writes: bit k the half of DOUBLE region k (R122, R397). -/
def halvesMask (b : Binding) (p : Pattern) : Nat :=
  (List.range p.regions.length).foldl (fun m i =>
    if (p.regions.getD i ⟨0, false, false, false, 0, 0⟩).double && mget 0 b.runs i % 2 == 1 then m + 2 ^ i else m) 0

/-- The OR of the flag words of a placement (R102). -/
def flagsOf (s : State) (ks : List Nat) : Nat := ks.foldl (fun f k => Nat.lor f (flagWord (s.core k)).toNat) 0

/-- Frees the cores of a run: each is idle with its flag word (R141), and its messages can no longer be taken. -/
def freeCores (s : State) (r : Nat) (ks : List Nat) : State :=
  let s := ks.foldl (fun s k => s.modCore k (fun c => { c with st := .idle, epoch := 0, run := none, send := none })) s
  { s with reds := s.reds.filter (fun x => x.run != r),
           redDone := s.redDone.filter (fun (x : Nat × Nat) => x.1 / 4096 != r) }

/-- The completion words of a run (R397). -/
def cueWords (s : State) (q : Cue) (b : Binding) (p : Pattern) : List Word :=
  w2 q.beganFrame ++ w1 q.held ++ w1 q.lateSteps ++ w1 (flagsOf s (placement b p)) ++ w2 (halvesMask b p)
    ++ wSat q.spills ++ w1 q.epoch.toNat

/-- A pattern has run to its end: its reservation ends, its halves change over, and its completion is due (R52, R58,
R122, R132). -/
def completeRun (s : State) (r : Nat) : State :=
  match runOf s r with
  | none => s
  | some (q, b, p) =>
    let s := endFlight s q.ctx q.tag 1 (if q.lateSteps = 0 then stOK else 1) (cueWords s q b p)
    let runs := (List.range p.regions.length).foldl (fun (m : AMap Nat) i =>
      if (p.regions.getD i ⟨0, false, false, false, 0, 0⟩).double then mmod 0 m i (· + 1) else m) b.runs
    dropCue (freeCores { s with bindings := mput s.bindings q.binding { b with runs := runs } } r (placement b p)) r

/-- Cores of a run that have not ended their part of the present step (R407 detector 0). -/
def overrunCores (s : State) (r : Nat) : List Nat :=
  match runOf s r with
  | none => []
  | some (_, b, p) => (placement b p).filter (fun k =>
      let c := s.core k
      c.run == some r && c.st != .waitStep && c.st != .idle)

/-- Spill rows are counted once the last indirect claim of a running step has passed (R126). -/
def countSpills (s : State) (r : Nat) : State :=
  match runOf s r with
  | none => s
  | some (q, b, p) =>
    match q.cur with
    | none => s
    | some i =>
      let lasts := (p.claims.filter (fun (c : Claim) => c.step == i && c.kind == 2)).map (fun (c : Claim) => c.last)
      if lasts.isEmpty || s.ft.run != q.curStart + lasts.foldl max 0 + 1 then s
      else
        let n := rowsLeft s b p
        if n = 0 then s
        else setInt ({ s with cues := mput s.cues r { q with spills := q.spills + n } }.bump 0x24000C n) 8 1

/-- A running step ends at this boundary. -/
def stepEnds (s : State) (q : Cue) (p : Pattern) : Bool :=
  match q.cur with
  | some i => match p.steps[i]? with
    | some st => s.ft.run == q.curStart + st.frames
    | none => false
  | none => false

end Sys2Proof.Machine
end

