-- ==== Sys2Proof/Machine/Time.lean ====
section
/-! DEFINITION. Fabric time: PTM dialogs, the choice of a source, and anchoring (R27 to R33, R487). -/

namespace Sys2Proof.Machine

/-- The contexts that a time event goes to (R68). -/
def timeEvent (s : State) (e : EvDef) (words : List Word) : State := raiseAll s e words

/-- Changes the PTM requester of a port. -/
def State.modPtm (s : State) (p : Port) (f : PtmPort → PtmPort) : State := s.modPort p (fun x => { x with ptm := f x.ptm })

/-- PTM_EN of an FT_CTRL value. -/
def ctrlEn (c : DWord) : Bool := bit c.toNat 0
/-- AUTO_SOURCE. -/
def ctrlAuto (c : DWord) : Bool := bit c.toNat 1
/-- SOURCE_PORT. -/
def ctrlSource (c : DWord) : Nat := bits c.toNat 2 3
/-- The dialogs of LOSS_COUNT. -/
def ctrlLoss (c : DWord) : Nat := match bits c.toNat 10 2 with | 0 => 2 | 1 => 3 | 2 => 4 | _ => 8

/-- A port's PTM is not lost. -/
def ptmValid (s : State) (p : Port) : Bool := (s.port p).ptm.valid

/-- The lowest-numbered port whose PTM is not lost. -/
def firstValid (s : State) : Option Port := allPorts.find? (fun p => ptmValid s p)

/-- The source is lost (R29): the source port has lost PTM, and no other port can take its place. The port that could is the
lowest-numbered one whose PTM is not lost, while AUTO_SOURCE is 1 as its last dialog took it (R69). -/
def sourceLost (s : State) : Bool :=
  !ptmValid s s.ft.source && !(firstValid s).any (fun p => ctrlAuto (s.port p).ptm.ctrl)

/-- The words of EV_TIME_UNANCHORED. -/
def unanchoredWords (s : State) : List Word := w1 s.ft.source.val ++ wInt s.ft.lastRest ++ w2 (frameNo s)

/-- What the loss of the source does to the anchoring state (R33). -/
def onSourceLost (s : State) : State :=
  if !sourceLost s then s else
  match s.ft.anchor with
  | .acquiring => s.modFt (fun t => { t with anchor := .unanchored, qualify := 0 })
  | .anchored | .reacquiring =>
    timeEvent (s.modFt (fun t => { t with anchor := .holdover, qualify := 0 })) evTimeUnanchored (unanchoredWords s)
  | _ => s

/-- A port's PTM is lost (R29). -/
def losePtm (s : State) (p : Port) : State :=
  onSourceLost (s.modPtm p (fun x => { x with valid := false, active := false, invalid := 0 }))

/-- A dialog of a port begins (R28): the port takes FT_CTRL as it stands (R69). A port whose PTM_EN is then 0 runs no
dialog, and its PTM is lost. The value taken can also leave the source with no port to take its place (R29). -/
def dialogStart (s : State) (p : Port) : State :=
  let x := s.port p
  if !x.up || !x.ptmEnable || !s.ft.running || x.ptm.active then s else
  let c := BitVec.ofNat 64 (s.reg 0x20000)
  let s := s.modPtm p (fun y => { y with ctrl := c })
  if ctrlEn c then onSourceLost ((s.modPtm p (fun y => { y with active := true })).emit (.ptmRequest p)) else losePtm s p

/-- A change of source (R29). -/
def setSource (s : State) (p : Port) : State :=
  if s.ft.source = p then s else setInt (s.modFt (fun t => { t with source := p, qualify := 0 })) 1 4

/-- The source after a valid dialog of a port (R29): the preferred port takes its place, and the lowest-numbered port
whose PTM is not lost replaces a source that has lost it. -/
def chooseSource (s : State) (p : Port) : State :=
  let c := (s.port p).ptm.ctrl
  if ctrlSource c = p.val then setSource s p
  else if !ptmValid s s.ft.source && ctrlAuto c && firstValid s == some p then setSource s p
  else s

/-- The split of an offset into frames and rest (R31). -/
def splitOffset (d : Int) : Int × Int := let f := (d + 512) / 1024; (f, d - f * 1024)

/-- FT_TIME is corrected by an offset: the frames part renumbers at the next boundary, the rest is steered out (R31).
The steering rate is a free value within its bound (R30). -/
def correct (s : State) (d : Int) (report : Bool) : State :=
  let (f, r) := splitOffset d
  s.tick.modFt (fun t => { t with offset := d, renumber := f, reportStep := report && f != 0, restTenth := r * 10000, lastRest := r,
                                  rate := max (-100000) (min 100000 (Config.steering s.free)) })

/-- A valid dialog of the source (R33, R487). -/
def sourceDialog (s : State) (d : Int) : State :=
  let (f, r) := splitOffset d
  let good := f == 0 && decide (-20 ≤ r) && decide (r ≤ 20)
  let q := if good then s.ft.qualify + 1 else 0
  let s' := correct s d (s.ft.anchor != .unanchored)
  let goTo := fun (a : Anchor) (x : State) => x.modFt (fun t => { t with anchor := a, qualify := 0 })
  match s.ft.anchor with
  | .unanchored => goTo .acquiring s'
  | .acquiring | .reacquiring =>
    if 3 ≤ q then
      timeEvent (goTo .anchored (s'.modFt (fun t => { t with holdover := 0 }))) evTimeAnchored
        (w1 s.ft.source.val ++ w2 (frameNo s))
    else s'.modFt (fun t => { t with qualify := q })
  | .anchored => if f = 0 then s'.modFt (fun t => { t with qualify := q }) else goTo .reacquiring s'
  | .holdover => goTo .reacquiring s'
  | .expired => goTo .acquiring s'

/-- A response arrives in time (R29): the dialog is valid, and the port's offset is measured (R28). `sub` is FT_TIME within
the frame. -/
def dialogResponse (s : State) (p : Port) (master : DWord) (sub : BitVec 10) : State :=
  if !(s.port p).ptm.active || !(s.port p).up then s else
  let d := (master - s.ft.time - sub.setWidth 64).toInt
  let s := chooseSource (s.modPtm p (fun x => { x with active := false, invalid := 0, valid := true, offset := d })) p
  if s.ft.source = p then sourceDialog s d else s

/-- A dialog's response does not arrive within 10 µs (R29). -/
def dialogTimeout (s : State) (p : Port) : State :=
  if (s.port p).ptm.active then s.modPtm p (fun x => { x with active := false, invalid := x.invalid + 1 }) else s

/-- PTM_DIALOG_START. -/
def execPtmDialogStart (p : Port) (s : State) : Out := .next (dialogStart s p)

/-- PTM_DIALOG_RESPONSE. -/
def execPtmDialogResponse (p : Port) (master : DWord) (sub : BitVec 10) (s : State) : Out :=
  .next (dialogResponse s p master sub)

/-- PTM_DIALOG_TIMEOUT. -/
def execPtmDialogTimeout (p : Port) (s : State) : Out := .next (dialogTimeout s p)

/-- PTM_LOST: LOSS_COUNT consecutive dialogs were not valid. -/
def execPtmLost (p : Port) (s : State) : Out :=
  let x := (s.port p).ptm
  ifApplies (x.valid && decide (ctrlLoss x.ctrl ≤ x.invalid)) s (losePtm s p)

/-- HOLDOVER_EXPIRED: the holdover timer reaches its limit (R33), or stands above a limit written since (R69). -/
def execHoldoverExpired (s : State) : Out :=
  let limit := s.fieldOf 0x20020 0 11
  ifApplies (s.ft.anchor == .holdover) s
    (timeEvent (s.modFt (fun t => { t with anchor := .expired, qualify := 0, holdover := max t.holdover (limit * 1000000) })) evTimeExpired
      (w1 limit ++ w2 (frameNo s)))

/-- A write of a port's PTM Enable (R28, R29). -/
def execPtmEnableWrite (p : Port) (enable : Bool) (s : State) : Out :=
  let s := s.modPort p (fun x => { x with ptmEnable := enable })
  .next (if enable then s else losePtm s p)

/-- A renumbering due at a boundary takes effect (R31, R487). -/
def renumberNow (s : State) : State :=
  if s.ft.renumber = 0 then s else
  let n := s.ft.renumber
  let s := s.modFt (fun t => { t with time := t.time + BitVec.ofInt 64 (n * 1024), renumber := 0, reportStep := false })
  s

/-- EV_TIME_STEP after a renumbering by `n` frames. -/
def timeStep (s : State) (n : Int) : State := timeEvent s evTimeStep (wInt n ++ w2 (frameNo s))

/-- The rest is steered out at 100 ppm: 0.1024 ns in a frame (R31). -/
def steer (rest : Int) : Int :=
  if 1024 < rest then rest - 1024 else if rest < -1024 then rest + 1024 else 0

/-- FT_TIME reaches the next multiple of 1,024 ns (R36); the holdover timer runs in HOLDOVER (R33). -/
def advanceTime (s : State) : State :=
  s.modFt (fun t => { t with
    time := BitVec.ofNat 64 ((t.time.toNat / 1024 + 1) * 1024)
    run := t.run + 1
    restTenth := steer t.restTenth
    holdover := if t.anchor = .holdover then t.holdover + 1024 else t.holdover })

end Sys2Proof.Machine
end

