-- ==== Sys2Proof/Machine/PackageReset.lean ====
section
/-! DEFINITION. The package reset (R424) with what the journal keeps (R159, R230, R263, R316, R419, R432), and the output
pins (R479). -/

namespace Sys2Proof.Machine

/-- The output pins follow the state (R479): FAULT#, THERM_WARN# and BAY_SAFE. -/
def drivePins (s : State) : State :=
  let safe := fun (b : Nat) => match (s.bay b).st with
    | .empty | .refused | .failed | .out => true
    | _ => false
  { s with faultPin := s.pw.held || s.rv.outOfService || s.pw.thermalOff
           thermPin := decide (2 ≤ s.pw.throttle)
           baySafe := BitVec.ofNat 9 ((List.range 9).foldl (fun v b => if safe b then v + 2 ^ b else v) 0) }

/-- A page of the journalled page map after the loss of DRAM (R159): HOME as last written back, or ABSENT; a page of a
Scratch object keeps its frames. -/
def pageKept (s : State) (x : Nat × Page) : Option (Nat × Page) :=
  match pidObj s x.1 with
  | none => none
  | some (_, o) =>
    if o.ring then none
    else if o.cls = .scratch then some (x.1, { x.2 with lock := false, stepPins := [], valid := [], refBit := false, copyOf := none })
    else match x.2.home with
      | some h => some (x.1, { st := .home, home := some h, lost := x.2.lost })
      | none => if x.2.lost then some (x.1, { lost := true }) else none

/-- The journalled tables of objects, versions and pages after a package reset (R159, R230). -/
def keepTables (s : State) : State :=
  let s : State := { s with
    contents := s.contents.filter (fun (c : Nat × Content) => c.2.draft.isNone)
    objects := s.objects.map (fun (o : Nat × Obj) => (o.1, { o.2 with mover := {}, head := o.2.newHead.getD o.2.head, newHead := none }))
    views := [], pubs := [] }
  let pages := s.pages.filterMap (pageKept s)
  let live := fun (p : Nat × Page) => mhas s.contents (pidContent p.1)
  let pages := pages.filter live
  let rings := (s.objects.filter (fun (o : Nat × Obj) => o.2.ring)).map (·.1)
  let s : State := { s with
    pages := pages
    objects := s.objects.filter (fun (o : Nat × Obj) => !o.2.ring)
    contents := s.contents.filter (fun (c : Nat × Content) => !rings.contains c.2.obj)
    frames := s.frames.filter (fun (f : Nat × FrameUse) => match f.2 with
      | .used p => pages.any (fun q => q.1 == p && q.2.frames.contains f.1)
      | .dirtyFree => false)
    stripes := (s.stripes.filter (fun (x : Nat × Stripe) => x.2.programmed)).map (fun (x : Nat × Stripe) =>
      (x.1, { x.2 with pids := x.2.pids.filter (fun p => pages.any (fun q => q.1 == p &&
        (match q.2.home with | some h => h.stripe == x.1 | none => false))) }))
    unitsUsed := (pages.map (fun (q : Nat × Page) => match q.2.home with | some h => h.units | none => 0)).sum }
  let s : State := { s with light := s.light.filter (fun f => mhas s.frames f) }
  s.objects.foldl (fun s (o : Nat × Obj) => retire s o.1) s

/-- A channel after a package reset (R263, R294): the journalled spare and the committed fuse map. -/
def chanKept (c : ChanState) : ChanState :=
  { spare := match c.spare with
      | .migrating | .spared => .spared
      | _ => .free
    spareRank := match c.spare with | .migrating | .spared => c.spareRank | _ => 0
    fuse := c.fuse.map (fun (f : Nat × FuseBank) => (f.1, { rows := f.2.rows, cols := f.2.cols })) }

/-- The grant table survives (SH_EXTENTS of R236 is loaded at start-up); a grant takes part in decoding again at a
commit, and a release goes through its steps again. -/
def keptExtents (s : State) : AMap Extent :=
  s.extents.map (fun (x : Nat × Extent) => (x.1, { x.2 with grants := x.2.grants.map (fun g => { g with live := false, leaving := false }) }))

/-- A package reset (R424): the state of reset with what survives. `stage` is 1, or 0 while the module is held in reset
or has no power. It drops every writeback reservation, so the flash-low condition is evaluated again (R155). -/
def doPackageReset (s : State) (cause stage : Nat) : State :=
  let s := keepTables s
  let s := checkFlash { State.reset with
    pending := s.pending, out := s.out, free := s.free
    ft := { run := s.ft.run }
    ctxs := s.ctxs.filterMap (fun (x : Nat × CtxState) =>
      if x.2.charges.isEmpty && !x.2.quarantined && !x.2.expired then none
      else some (x.1, { charges := x.2.charges, quarantined := x.2.quarantined, expired := x.2.expired }))
    extents := keptExtents s
    objects := s.objects, contents := s.contents, nextContent := s.nextContent, pages := s.pages, frames := s.frames
    light := s.light, unitsUsed := s.unitsUsed, recSeq := s.recSeq, flashLow := s.flashLow
    orders := s.orders
    chans := s.chans.map (fun (c : Nat × ChanState) => (c.1, chanKept c.2))
    bays := s.bays.map (fun (b : Nat × BayState) => (b.1, { cart := b.2.cart, written := b.2.written }))
    vacated := s.vacated, stripes := s.stripes, nextStripe := s.nextStripe
    keys := s.keys.map (fun (k : Nat × KeySlot) => (k.1, { k.2 with key := none }))
    fwStore := s.fwStore, fwBad := s.fwBad || s.fwWrite.isSome, svnFloor := s.svnFloor, revoked := s.revoked
    pw := { stage := stage, cause := cause, lastCause := s.pw.cause, power := s.pw.power, pwrEn := s.pw.pwrEn,
            modRst := s.pw.modRst, refLost := false, tempA := s.pw.tempA, tempB := s.pw.tempB, tempHub := s.pw.tempHub } }
  drivePins s

/-- The hub main domain is on (R457, R478): the input is in range and PWR_EN is high. -/
def hubOn (s : State) : Bool := s.pw.power && s.pw.pwrEn

/-- Every sensor reads at least 15 °C below its level-2 threshold (R466): 85 °C on logic, 77.0 °C on stacks. -/
def coolEnough (s : State) : Bool :=
  decide (s.pw.logicMax ≤ 85) && (List.range 20).all (fun t => (s.stackOf t).sensorFail == 0 && decide ((s.stackOf t).tempMax ≤ 770))

/-- The module refuses a package reset: it has no power, or it is in thermal shutdown and not yet cool (R466). -/
def resetRefused (s : State) : Bool := !hubOn s || (s.pw.thermalOff && !coolEnough s)

/-- A package reset begins; while MOD_RST# is low the module is held in it (R478). -/
def packageReset (s : State) (cause : Nat) : State := doPackageReset s cause (if s.pw.modRst then 0 else 1)

/-- PACKAGE_RESET (R424, R466). -/
def execPackageReset (s : State) : Out := .next (if resetRefused s then s else packageReset s 0)

end Sys2Proof.Machine
end

