-- ==== Sys2Proof/Machine/Cartridges.lean ====
section
/-! DEFINITION. The cartridge bays (R298 to R305), their states (R311 to R313), rebuilds and copies (R314 to R317), and the
two commands of R319. -/

namespace Sys2Proof.Machine

/-- A bay is powered: its domain powers up (R312, R457). -/
def powerBay (s : State) (b : Nat) : State :=
  let s := s.modBay b (fun x => { x with powered := true })
  { s with pw := { s.pw with doms := mput s.pw.doms (68 + b) .rising } }

/-- A bay is powered down. -/
def unpowerBay (s : State) (b : Nat) : State :=
  let s := s.modBay b (fun x => { x with powered := false, latch := false })
  { s with pw := { s.pw with doms := mdel s.pw.doms (68 + b) } }

/-- A field of the identity record of the cartridge in a bay (R302). -/
def recordField (s : State) (b off n : Nat) : Nat :=
  match (s.bay b).cart with
  | some c => bfield c.record off n
  | none => 0

/-- CART_ID of the cartridge in a bay. -/
def cartId (s : State) (b : Nat) : DWord := BitVec.ofNat 64 (recordField s b 40 8)

/-- The bytes of a wear ledger, as CART_QUERY gives them (R402). -/
def ledgerBytes (l : CartLedger) : List Byte :=
  leBytes 8 l.cartId.toNat ++ leBytes 8 l.writer.toNat ++ leBytes 1 l.lstate.toNat ++ leBytes 1 l.position.toNat ++ [0, 0]
    ++ leBytes 4 l.tb.toNat ++ leBytes 4 l.meanPe.toNat ++ leBytes 4 l.maxPe.toNat ++ leBytes 2 l.bad.toNat ++ [0, 0]
    ++ leBytes 4 l.hours.toNat

/-- A copy of the wear ledger, sealed over its bytes (R304). -/
def ledgerCopy (l : CartLedger) : LedgerCopy := ⟨l, crc32c (ledgerBytes l)⟩

/-- The wear ledger of a cartridge (R304): the newest copy with a valid seal. -/
def newestLedger (c : Cartridge) : Option CartLedger :=
  (c.ledgers.find? (fun x => x.crc == crc32c (ledgerBytes x.ledger))).map (·.ledger)

/-- Writes the wear ledger of the cartridge in a bay (R304). DESIGN CHOICE: it keeps the copy before the new one, and no others (log
entry 146). -/
def writeLedger (s : State) (b : Nat) (f : CartLedger → CartLedger) : State :=
  s.modBay b (fun x =>
    match x.ledger with
    | some l =>
      let l := f { l with writer := Config.serial, tb := BitVec.ofNat 32 (x.written / 1000000000000) }
      { x with ledger := some l, cart := x.cart.map (fun c => { c with ledgers := (ledgerCopy l :: c.ledgers).take 2 }) }
    | none => x)

/-- The three shares of wear in per cent (R305): volume programmed, mean erase count, grown bad blocks; a rated value of 0 gives
the largest share that CT_BAY_INFO reports. -/
def wearShares (record : List Byte) (l : CartLedger) : List Nat :=
  let share := fun (x rated : Nat) => if rated = 0 then 127 else x * 100 / rated
  [share l.tb.toNat (bfield record 60 4), share l.meanPe.toNat (bfield record 64 4), l.bad.toNat * 5]

/-- A cartridge's wear in per cent, and the share that decides it (R305). -/
def wearOf (record : List Byte) (l : CartLedger) : Nat × Nat :=
  let ws := wearShares record l
  let w := ws.foldl max 0
  (w, (ws.findIdx? (· == w)).getD 0)

/-- The wear of the cartridge in a bay. -/
def bayWear (s : State) (b : Nat) : Nat × Nat :=
  match (s.bay b).cart, (s.bay b).ledger with
  | some c, some l => wearOf c.record l
  | _, _ => (0, 0)

/-- The array state's code (R311): 0 NORMAL, 1 DEGRADED, 2 BROKEN. -/
def arrayCode (s : State) : Nat :=
  let n := (lostPositions s).length
  if n = 0 then 0 else if n ≤ 2 then 1 else 2

/-- The array enters or leaves BROKEN (R311), once it has been assembled at start-up. -/
def checkArray (s : State) : State :=
  if s.pw.stage < 5 then s
  else if arrayBroken s && !s.broken then raise { s with broken := true } evArrayBroken [] (w1 (lostPositions s).length)
  else { s with broken := arrayBroken s }

/-- Changes which of a position's shares are written, stripe by stripe (R306). -/
def keepShares (s : State) (p : Nat) (keep : Nat → Bool) : State :=
  { s with stripes := s.stripes.map (fun (x : Nat × Stripe) =>
      (x.1, if keep x.1 then x.2 else { x.2 with shares := x.2.shares &&& ~~~ BitVec.ofNat 8 (2 ^ p), bad := x.2.bad &&& ~~~ BitVec.ofNat 8 (2 ^ p) })) }

/-- A bay's state is one of an array cartridge. -/
def inArray (st : BaySt) : Bool := st == .active || st == .retiring || st == .target

/-- The fields of a journal copy, for its seal: one 64-bit word each. -/
def journalBytes (j : JournalCopy) : List Byte :=
  [j.position.toNat, j.target.toNat, j.source.toNat, b2n j.copy, j.next.toNat, j.last.toNat, j.frame.toNat, b2n j.ended].flatMap (leBytes 8)

/-- The journal's copy of a walk (R316). -/
def journalCopy (s : State) (w : Walk) (ended : Bool) : JournalCopy :=
  let j : JournalCopy := {
    position := BitVec.ofNat 8 w.position, target := w.cartId, source := w.srcId, copy := w.copy, next := BitVec.ofNat 48 w.next
    last := BitVec.ofNat 48 w.last, frame := BitVec.ofNat 64 (frameNo s), ended := ended, crc := 0 }
  { j with crc := crc32c (journalBytes j) }

/-- The rebuild journal is written to every ACTIVE, RETIRING and TARGET cartridge (R316). -/
def putJournal (s : State) (w : Walk) (ended : Bool) : State :=
  { s with bays := s.bays.map (fun (b : Nat × BayState) =>
      (b.1, if inArray b.2.st then { b.2 with cart := b.2.cart.map (fun c => { c with journal := some (journalCopy s w ended) }) } else b.2)) }

/-- The walk in progress is journalled (R316). -/
def writeJournal (s : State) : State := match s.walk with | some w => putJournal s w false | none => s

/-- The journal copy of a bay that the steward can read (R303, R317): its seal is valid, the cartridge is not refused or out of
service, and, DESIGN CHOICE, its ledger names this module (log entry 147). -/
def journalIn (x : BayState) : Option JournalCopy :=
  match x.cart with
  | some c =>
    if x.st == .refused || x.st == .failed || x.st == .out || (newestLedger c).map (·.writer) != some Config.serial then none
    else c.journal.filter (fun j => j.crc == crc32c (journalBytes j))
  | none => none

/-- The rebuild journal (R317): the copy with the highest FT_FRAME and a valid seal, if it names a walk not ended. -/
def journalOf (s : State) : Option JournalCopy :=
  (s.bays.foldl (fun (m : Option JournalCopy) (b : Nat × BayState) => match m, journalIn b.2 with
    | some a, some c => some (if a.frame.toNat < c.frame.toNat then c else a)
    | none, x => x
    | x, none => x) none).filter (fun j => !j.ended)

/-- A walk ends without a result: its target is gone (R312). A copy's source returns to ACTIVE with its shares. -/
def stopWalk (s : State) (w : Walk) : State :=
  let s := putJournal { s with walk := none } w true
  match w.source with
  | some b =>
    if (s.bay b).st = .retiring then
      writeLedger (s.modBay b (fun x => { x with st := .active })) b (fun l => { l with lstate := 2 })
    else s
  | none => s

/-- A position loses its ACTIVE or RETIRING cartridge (R312): its shares are lost; those that a copy has written on the target
stay, and the copy goes on as a rebuild from its pointer. -/
def vacate (s : State) (p : Nat) : State :=
  let s : State := { s with vacated := s.vacated ||| BitVec.ofNat 8 (2 ^ p) }
  match s.walk with
  | some w =>
    if w.position = p && w.copy then
      let s := keepShares s p (fun n => decide (n < w.next) || decide (w.last < n))
      writeJournal { s with walk := some { w with copy := false, source := none } }
    else keepShares s p (fun _ => false)
  | none => keepShares s p (fun _ => false)

/-- The target of a walk is gone (R312): a rebuild's shares are lost with it. -/
def loseTarget (s : State) (p : Nat) : State :=
  match s.walk with
  | some w => stopWalk (if w.copy then s else keepShares s p (fun _ => false)) w
  | none => s

/-- A failure of an ACTIVE, RETIRING or TARGET cartridge, or its loss of presence (R312, R320). -/
def failCart (s : State) (b cause : Nat) : State :=
  let x := s.bay b
  let p := x.position.getD 0
  let target := x.st == .target
  let s := s.modBay b (fun y => { y with st := if cause = 0 then .empty else if target then .out else .failed, position := none })
  let s := if cause = 0 then s else writeLedger s b id
  let s := if cause = 1 then s.modBay b (fun y => { y with latch := true }) else unpowerBay s b
  let s := if target then loseTarget s p else vacate s p
  checkArray (raise s evCartFailed [] (w1 b ++ w1 p ++ w1 cause ++ w1 (arrayCode s)))

/-- The bay's cartridge is verified from here on (R303, R312). -/
def startVerify (s : State) (b : Nat) : State := powerBay (s.modBay b (fun x => { x with st := .verifying, cause := 0, rates := [] })) b

/-- Bays may be powered: the FLASH stage has begun, and neither a thermal shutdown nor a reference loss holds (R466, R468, R469). -/
def baysPowered (s : State) : Bool := decide (4 ≤ s.pw.stage) && !s.pw.thermalOff && !s.pw.refLost

/-- BAY_PRESENCE (R312, R481). -/
def execBayPresence (b : Bay) (cart : Cartridge) (s : State) : Out :=
  .next (if (s.bay b.val).st = .empty && (s.bay b.val).cart.isNone then
    let s := s.modBay b.val (fun x => { x with cart := some cart, ledger := none, warned := false, eol := false })
    drivePins (if baysPowered s then startVerify s b.val else s)
  else s)

/-- Presence is lost (R312). -/
def presenceLost (s : State) (b : Nat) : State :=
  let st := (s.bay b).st
  let s := if inArray st then failCart s b 0 else if st = .verifying || st = .gusset then unpowerBay s b else s
  s.modBay b (fun x => { x with st := .empty, cart := none, ledger := none, rates := [], position := none, latch := false, powered := false, warned := false, eol := false, written := 0 })

/-- BAY_PRESENCE_LOST (R312, R313). -/
def execBayPresenceLost (b : Bay) (s : State) : Out :=
  .next (if (s.bay b.val).cart.isSome then drivePins (presenceLost s b.val) else s)

/-- BAY_LATCH_OPEN (R313). -/
def execBayLatchOpen (b : Bay) (s : State) : Out :=
  .next (match (s.bay b.val).st with
    | .gusset => drivePins (unpowerBay (writeLedger (s.modBay b.val (fun x => { x with st := .out })) b.val id) b.val)
    | .active | .retiring | .target => drivePins (failCart s b.val 1)
    | _ => s)

/-- LATCH_POWER_REMOVE (R313): 200 ms after the latch of a member opened. -/
def execLatchPowerRemove (b : Bay) (s : State) : Out :=
  .next (if (s.bay b.val).latch then drivePins (unpowerBay s b.val) else s)

/-- CHANNEL_STATUS_TIMEOUT (R312). -/
def execChannelStatusTimeout (b : Bay) (s : State) : Out :=
  .next (if inArray (s.bay b.val).st then drivePins (failCart s b.val 2) else s)

/-- CODEWORD_FAILURE_LIMIT (R312). -/
def execCodewordFailureLimit (b : Bay) (s : State) : Out :=
  .next (if inArray (s.bay b.val).st then drivePins (failCart s b.val 3) else s)

/-- A signature verifies under a ROM key of a role that is not revoked (R443). -/
def romVerifies (s : State) (cartridge : Bool) (keyId : DWord) (msg sig : List Byte) : Bool :=
  (List.finRange 8).any (fun i => Config.romKeyId i == keyId && Config.romCartridge i == cartridge && !s.revoked.contains i.val)
    && Config.slhVerify keyId msg sig

/-- ORDER_CODE as R302 gives it: CGN-TC16 in ASCII. -/
def orderCode : List Byte := [0x43, 0x47, 0x4E, 0x2D, 0x54, 0x43, 0x31, 0x36, 0, 0, 0, 0, 0, 0, 0, 0]

/-- The refusal cause of a cartridge (R303), 0 when every check passes. -/
def verifyCause (s : State) (c : Cartridge) (pages : Bool) (rates : List (Option (BitVec 2))) : Nat :=
  let f := bfield c.record
  if !romVerifies s true (BitVec.ofNat 64 (f 68 8)) (c.record.take 256) c.sig then 1
  else if f 0 4 ≠ 0x36314354 || f 4 2 ≠ 1 || f 6 2 ≠ 30048 || (c.record.drop 8).take 16 != orderCode || f 76 180 ≠ 0 then 2
  else if f 56 1 ≠ 8 || f 57 1 ≠ 8 || f 58 2 ≠ 3600 || !pages then 3
  else if rates.length ≠ 8 || rates.any (·.isNone) then 6
  else match newestLedger c with
    | none => 4
    | some l =>
      if l.cartId.toNat ≠ f 40 8 then 4
      else if 100 ≤ (wearOf c.record l).1 then 5
      else 0

/-- The journalled walk whose target or source a verified cartridge is at start-up (R312, R317). -/
def journalRow (s : State) (b : Nat) (l : CartLedger) : Option (BaySt × Nat) :=
  match journalOf s with
  | some w =>
    if w.target == cartId s b && !s.bays.any (fun x => x.2.st == .target) then some (.target, w.position.toNat)
    else if w.copy && w.source == cartId s b && l.writer == Config.serial && l.position == w.position
      && !s.bays.any (fun x => x.2.st == .retiring) then some (.retiring, w.position.toNat)
    else none
  | none => none

/-- The state that a verified cartridge's bay takes, with its position (R312). -/
def passedRow (s : State) (b : Nat) (l : CartLedger) : BaySt × Option Nat :=
  if s.pw.stage < 7 then
    match journalRow s b l with
    | some (st, p) => (st, some p)
    | none =>
      let p := l.position.toNat
      if l.writer == Config.serial && l.lstate == 2 && (vacantPositions s).contains p && !bit s.vacated.toNat p then (.active, some p)
      else (.gusset, none)
  else (.gusset, none)

/-- A verification that passes (R303, R312). -/
def takeIn (s : State) (b : Nat) (c : Cartridge) (l : CartLedger) (rates : List (Option (BitVec 2))) : State :=
  let row := passedRow s b l
  let w := wearOf c.record l
  let s := s.modBay b (fun x => { x with
    st := row.1, position := row.2, ledger := some l, rates := rates.map (·.getD 0)
    written := max x.written (l.tb.toNat * 1000000000000), warned := decide (s.fieldEff 0x80000 8 7 ≤ w.1) })
  match row.1 with
  | .gusset => raise (writeLedger s b (fun l => { l with lstate := 1 })) evCartAdmitted [] (w1 b ++ w2 (cartId s b).toNat ++ w1 w.1)
  | _ => writeLedger s b id

/-- CART_VERIFY_COMPLETE (R303, R312). -/
def execCartVerifyComplete (b : Bay) (parameterPageAgrees : Bool) (rates : List (Option (BitVec 2))) (s : State) : Out :=
  .next (match (s.bay b.val).st, (s.bay b.val).cart with
    | .verifying, some c =>
      match verifyCause s c parameterPageAgrees rates, newestLedger c with
      | 0, some l => drivePins (takeIn s b.val c l rates)
      | cause, _ =>
        let s := unpowerBay (s.modBay b.val (fun x => { x with
          st := .refused, cause := BitVec.ofNat 8 cause, ledger := if cause = 4 || cause = 5 then newestLedger c else none })) b.val
        drivePins (raise s evCartRefused [] (w1 b.val ++ w1 cause ++ w2 (cartId s b.val).toNat))
    | _, _ => s)

/-- The lowest-numbered bay in a state. -/
def bayIn (s : State) (st : BaySt) : Option Nat := (List.range 9).find? (fun b => (s.bay b).st == st)

/-- The stripe holds a live unit (R314). -/
def stripeLive (s : State) (n : Nat) : Bool := !(livePids s n).isEmpty

/-- The stripes that a walk up to `last` has still to handle, from `next` on (R314). -/
def walkStripes (s : State) (next last : Nat) : List Nat :=
  (s.stripes.filter (fun (x : Nat × Stripe) => decide (next ≤ x.1) && decide (x.1 ≤ last) && x.2.programmed && stripeLive s x.1)).map (·.1)

/-- CT_REBUILD_DONE and CT_REBUILD_TOTAL (R321). -/
def setWalkCounts (s : State) (w : Walk) : State :=
  { s with counts := mput (mput s.counts 0x80018 (min w.doneBytes 0xFFFFFFFFFFFF)) 0x80020 (min w.total 0xFFFFFFFFFFFF) }

/-- A walk starts on the gusset (R312, R314, R316). -/
def startWalk (s : State) (g p : Nat) (source : Option Nat) : State :=
  let last := (s.stripes.filter (fun (x : Nat × Stripe) => x.2.programmed)).foldl (fun m x => max m x.1) 0
  let todo := walkStripes s 0 last
  let w : Walk := {
    position := p, target := Fin.ofNat 9 g, source := source.map (Fin.ofNat 9), copy := source.isSome
    next := todo.headD 0, last := last, total := todo.length * 1048576, began := s.ft.run
    cartId := cartId s g, srcId := match source with | some b => cartId s b | none => 0 }
  let s := s.modBay g (fun x => { x with st := .target, position := some p })
  let s := writeJournal (setWalkCounts { s with walk := some w } w)
  raise (writeLedger s g id) evRebuildStart [] (w1 p ++ w1 (b2n w.copy) ++ w1 g ++ w2 w.total)

/-- At a boundary a gusset becomes the target of the lowest vacant position, if no walk runs (R312, R317). -/
def startWalks (s : State) : State :=
  if s.pw.stage < 7 || s.walk.isSome then s else
  match bayIn s .gusset, (vacantPositions s).head? with
  | some g, some p => drivePins (startWalk s g p none)
  | _, _ => s

/-- A retirement starts if a gusset exists and no walk runs (R312). -/
def startRetire (s : State) (b : Nat) : Option State :=
  match bayIn s .gusset, (s.bay b).position with
  | some g, some p =>
    if s.walk.isSome then none
    else some (startWalk (writeLedger (s.modBay b (fun x => { x with st := .retiring })) b id) g p (some b))
  | _, _ => none

/-- The wear thresholds (R305). -/
def checkWear (s : State) (b : Nat) : State :=
  let x := s.bay b
  let w := bayWear s b
  let s := if !x.warned && decide (s.fieldEff 0x80000 8 7 ≤ w.1) then
      raise (s.modBay b (fun y => { y with warned := true })) evCartWear [] (w1 b ++ w1 w.1 ++ w1 w.2)
    else s
  if x.eol || w.1 < 100 then s else
  let s := s.modBay b (fun y => { y with eol := true })
  let go := if x.st == .active && s.fieldEff 0x80000 15 1 == 1 then startRetire s b else none
  raise (go.getD s) evCartEol [] (w1 b ++ w1 w.1 ++ w1 (b2n go.isSome))

/-- The erase counts, bad blocks and hours that a ledger write records grow by amounts that the spec leaves open. -/
def growLedger (n : Nat) (l : CartLedger) : CartLedger :=
  let grow := fun (old : Word) (k : Nat) => if old.toNat ≤ (Config.freeWord k).toNat then Config.freeWord k else old
  let bad : BitVec 16 := (Config.freeWord (n + 2)).setWidth 16
  { l with meanPe := grow l.meanPe n, maxPe := grow l.maxPe (n + 1), bad := if l.bad.toNat ≤ bad.toNat then bad else l.bad
           hours := grow l.hours (n + 3) }

/-- LEDGER_WRITE (R304, R305). -/
def execLedgerWrite (b : Bay) (s : State) : Out :=
  .next (if (s.bay b.val).powered && (s.bay b.val).ledger.isSome && (inArray (s.bay b.val).st || (s.bay b.val).st == .gusset) then
    let n := s.free
    drivePins (checkWear (writeLedger { s with free := s.free + 4 } b.val (growLedger n)) b.val)
  else s)

/-- EOL_REPEAT (R305). -/
def execEolRepeat (b : Bay) (s : State) : Out :=
  .next (if (s.bay b.val).st == .active && (s.bay b.val).eol then
    raise s evCartEol [] (w1 b.val ++ w1 (bayWear s b.val).1 ++ w1 0)
  else s)

/-- One share is programmed on a bay's cartridge (R304, R321). -/
def countProgrammed (s : State) (b n : Nat) : State := s.modBay b (fun x => { x with written := x.written + n })

/-- A walk goes on: the tiering engine's domain is on, the module is not in a reset, start-up is over (R317, R462). -/
def walkRuns (s : State) : Bool := domOn s 78 && s.rv.resets.isEmpty && decide (7 ≤ s.pw.stage)

/-- One stripe of a walk (R314): the target's share is reconstructed or copied and written; with more than two shares lost it
cannot be. -/
def walkStripe (s : State) (w : Walk) (n : Nat) : State :=
  match mget? s.stripes n with
  | none => s
  | some x =>
    let p := w.position
    let lost := (lostShares x 0).length
    let direct := w.copy && !bit x.bad.toNat p && bit x.shares.toNat p
    let ok := direct || decide (lost ≤ 2)
    let s : State := if ok then
        countProgrammed { s with stripes := mput s.stripes n { x with
          shares := x.shares ||| BitVec.ofNat 8 (2 ^ p), bad := x.bad &&& ~~~ BitVec.ofNat 8 (2 ^ p) } } w.target.val 1048576
      else s
    let w : Walk := { w with next := n + 1, doneBytes := w.doneBytes + (if ok then 1048576 else 0), unrec := w.unrec + b2n (!ok) }
    setWalkCounts { s with walk := some w } w

/-- REBUILD_STRIPE (R314). -/
def execRebuildStripe (s : State) : Out :=
  .next (match s.walk with
    | some w =>
      match walkRuns s, walkStripes s w.next w.last with
      | true, n :: _ => walkStripe s w n
      | _, _ => s
    | none => s)

/-- REBUILD_JOURNAL_WRITE (R316). -/
def execRebuildJournalWrite (s : State) : Out := .next (if s.walk.isSome then writeJournal s else s)

/-- A walk reaches E (R312): the target takes the position; a copy's source is retired. -/
def endWalk (s : State) (w : Walk) : State :=
  let t := w.target.val
  let s := s.modBay t (fun x => { x with st := .active })
  let s := writeLedger s t (fun l => { l with lstate := 2, position := BitVec.ofNat 8 w.position })
  let s := putJournal { s with walk := none, vacated := s.vacated &&& ~~~ BitVec.ofNat 8 (2 ^ w.position) } w true
  let s := match w.copy, w.source with
    | true, some b =>
      unpowerBay (writeLedger (s.modBay b.val (fun x => { x with st := .out, position := none })) b.val (fun l => { l with lstate := 3 })) b.val
    | _, _ => s
  let secs := (s.ft.run - w.began) * 1024 / 1000000000
  checkArray (raise s evRebuildDone [] (w1 w.position ++ w1 (b2n w.copy) ++ w2 w.doneBytes ++ wSat secs ++ wSat w.unrec))

/-- REBUILD_DONE (R312). -/
def execRebuildDone (s : State) : Out :=
  .next (match s.walk with
    | some w => if walkRuns s && (walkStripes s w.next w.last).isEmpty then drivePins (endWalk s w) else s
    | none => s)

/-- The array is assembled at the end of FLASH (R312, R317, R318): a vacant position's shares are lost, and a target without its
source holds those that its walk has handled. -/
def assembleArray (s : State) : State :=
  let s := (List.range 8).foldl (fun (s : State) p =>
    let has := fun (st : BaySt) => s.bays.any (fun x => x.2.position == some p && x.2.st == st)
    if has .active || has .retiring then s else
    let s : State := { s with vacated := s.vacated ||| BitVec.ofNat 8 (2 ^ p) }
    match has .target, journalOf s with
    | true, some w => keepShares s p (fun n => decide (n < w.next.toNat) || decide (w.last.toNat < n))
    | _, _ => keepShares s p (fun _ => false)) s
  { s with broken := arrayBroken s }

/-- The walk that a journal copy names, resumed on the target in a bay (R317). DEDUCED: the journal keeps no count of bytes and no
start time, so those count from the resumption on (log entry 148). -/
def resumedWalk (s : State) (w : JournalCopy) (t : Nat) (src : Option Nat) : Walk :=
  { position := w.position.toNat, target := Fin.ofNat 9 t, copy := w.copy && src.isSome
    source := if w.copy then src.map (Fin.ofNat 9) else none
    next := w.next.toNat, last := w.last.toNat, total := (walkStripes s w.next.toNat w.last.toNat).length * 1048576, began := s.ft.run
    cartId := w.target, srcId := w.source }

/-- The journalled walk resumes on its target at the end of RELEASE (R317); without that target its source returns to ACTIVE,
and a copy starts anew on the present gusset. -/
def resumeWalk (s : State) : State :=
  match journalOf s with
  | none => s
  | some w =>
    let src := bayIn s .retiring
    match bayIn s .target with
    | some t =>
      let w := resumedWalk s w t src
      setWalkCounts { s with walk := some w } w
    | none =>
      match src, bayIn s .gusset with
      | some b, some g => startWalk s g w.position.toNat (some b)
      | some b, none => writeLedger (s.modBay b (fun x => { x with st := .active })) b id
      | none, _ => s

/-- The code of a bay's state in CT_BAY_STATE (R321). -/
def bayCode (st : BaySt) : Nat :=
  match st with
  | .empty => 0 | .verifying => 1 | .refused => 2 | .gusset => 3 | .active => 4 | .target => 5 | .retiring => 6 | .failed => 7
  | .out => 8

/-- CART_QUERY (R319, R402); a field that the bay has nothing for is left open. -/
def cartQuery : Handler := fun s m =>
  let b := m.f 0 1
  if 9 ≤ b then (s, .done stRange []) else
  let x := s.bay b
  let open_ := fun (n off : Nat) => (List.range n).map (fun i => Config.freeByte (s.free * 4096 + off + i))
  let record := match x.cart with
    | some c => (List.range 256).map (fun i => c.record.getD i 0)
    | none => open_ 256 8
  let ledger := match x.ledger with
    | some l => ledgerBytes l
    | none => open_ 18 264 ++ [0, 0] ++ open_ 14 284 ++ [0, 0] ++ open_ 4 300
  (s.tick, .done stOK (leBytes 1 (bayCode x.st) ++ (match x.position with | some p => leBytes 1 p | none => open_ 1 5)
    ++ leBytes 1 x.cause.toNat ++ [0] ++ record ++ ledger))

/-- CART_QUERY. -/
def execCartQuery (via : Path) (input : List Byte) (s : State) : Out := .next (mci s via 0xC080 input cartQuery)

/-- CART_RETIRE (R312, R319). -/
def cartRetire : Handler := fun s m =>
  let b := m.f 0 1
  if 9 ≤ b then (s, .done stRange [])
  else if (s.bay b).st ≠ .active then (s, .done 0x81 [])
  else if s.walk.isSome then (s, .done stBusy [])
  else match startRetire s b with
    | some s => (drivePins s, .done stOK [])
    | none => (s, .done 0x82 [])

/-- CART_RETIRE. -/
def execCartRetire (via : Path) (input : List Byte) (s : State) : Out := .next (mci s via 0xC081 input cartRetire)

end Sys2Proof.Machine
end

