-- ==== Sys2Proof/Machine/Recovery.lean ====
section
/-! DEFINITION. Hangs, unpicking, replays, verdicts, resets and their escalation (chapter 14). -/

namespace Sys2Proof.Machine

/-- The binding and the pattern of a cue. -/
def cueRun (s : State) (q : Cue) : Option (Binding × Pattern) :=
  match mget? s.bindings q.binding with
  | some b => (mget? s.patterns b.pattern).map (fun p => (b, p))
  | none => none

/-- Every cue that has not completed and is armed or running, those of an unpick in progress among them. -/
def allCues (s : State) : List (Nat × Cue) :=
  s.cues ++ s.rv.unpicks.flatMap (fun (j : Nat × UnpickJob) => j.2.cues)

/-- A cue by its number, wherever it stands. -/
def findCue (s : State) (r : Nat) : Option Cue :=
  ((allCues s ++ s.rv.replays).find? (fun (x : Nat × Cue) => x.1 == r)).map (·.2)

/-- The order of R414: ascending context, then ascending start. -/
def suspectBefore (a b : Nat × Cue) : Bool :=
  decide (a.2.ctx.val < b.2.ctx.val) || (a.2.ctx == b.2.ctx && (decide (a.2.began < b.2.began) || (a.2.began == b.2.began && decide (a.1 < b.1))))

/-- The runs that have started and not ended and hold a core of a domain (R413), in the order of R414. -/
def runsIn (s : State) (dom : Nat → Bool) : List (Nat × Cue) :=
  ((allCues s).filter (fun (x : Nat × Cue) => x.2.phase == .running && (match cueRun s x.2 with
    | some (b, p) => (placement b p).any dom
    | none => false))).foldl (fun l x => insertBy suspectBefore x l) []

/-- The contexts of runs, each once. -/
def runCtxs (l : List (Nat × Cue)) : List Ctx := l.foldl (fun a x => if a.contains x.2.ctx then a else a ++ [x.2.ctx]) []

/-- Hangs charged to a context within the last 600 s (R419). -/
def chargedIn (s : State) (c : Ctx) : Nat :=
  ((s.ctx c).charges.filter (fun (x : Nat × Nat) => decide (s.ft.run < x.2 + 585937500))).length

/-- Raises EV_VERDICT (R417, R429). -/
def giveVerdict (s : State) (q : Cue) (v : Nat) : State :=
  let s := if v = 1 then setInt s 11 1 else s
  raise s evVerdict [q.ctx] (w1 q.ctx.val ++ [q.tag] ++ w1 v ++ w2 (if q.phase = .running then q.beganFrame else q.start) ++ w1 (chargedIn s q.ctx))

/-- A run can be replayed: no region of kind 2, 3 or 4 without DOUBLE (R416). -/
def replayable (s : State) (q : Cue) : Bool :=
  match cueRun s q with
  | some (_, p) => p.regions.all (fun r => r.double || !(r.kind == 2 || r.kind == 3 || r.kind == 4))
  | none => false

/-- Adds runs to the suspect list (R414): at most 1,024. -/
def addSuspects (s : State) (rs : List Nat) : State :=
  rs.foldl (fun s r =>
    if s.rv.suspects.contains r then s
    else if 1024 ≤ s.rv.suspects.length then s.modRv (fun v => { v with listFull := true })
    else s.modRv (fun v => { v with suspects := v.suspects ++ [r] })) s

/-- Removes a run from the suspect list; LIST_FULL ends with an empty list (R430). -/
def dropSuspect (s : State) (r : Nat) : State :=
  s.modRv (fun v => { v with suspects := v.suspects.erase r, listFull := v.listFull && !(v.suspects.erase r).isEmpty })

/-- The rows of R409, by the cause codes of EV_UNPICKED. -/
def causeRow (n : Nat) : Nat := if n = 0 then 0 else if n = 1 then 1 else if n = 7 then 3 else 2

/-- RV_CTRL.REPLAY_EN (R418). -/
def replayEn (s : State) : Bool := s.fieldEff 0xB0000 0 1 == 1

/-- The test in progress ends with a verdict, which is not given while REPLAY_EN is 0 (R417, R418). -/
def endTest (s : State) (q : Cue) (v : Nat) : State :=
  let s := s.modRv (fun x => { x with testing := none })
  if replayEn s then giveVerdict s q v else s

/-- The test in progress is of a run of a context that is unpicked for another reason (R417): it joins the list again, or
ends as R409 gives. -/
def requeueTest (s : State) (c : Ctx) (cause : Nat) (named : List Nat) : State :=
  match s.rv.testing with
  | none => s
  | some r =>
    match findCue s r with
    | none => s
    | some q =>
      if q.ctx != c || named.contains r then s else
      if 2 ≤ causeRow cause then s.modRv (fun v => { v with testing := none })
      else endTest (if replayEn s then addSuspects s [r] else s) q 3

/-- The cores of a context's runs stop (R410). -/
def stopCores (s : State) (c : Ctx) : State :=
  { s with cores := s.cores.map (fun (k : Nat × CoreState) =>
      if k.2.ctx = some c ∧ k.2.run.isSome ∧ k.2.st ≠ .reset then (k.1, { k.2 with st := .unpicking, epoch := 0 }) else k) }

/-- The steward decides an unpick of a context (R405, R409 to R411). -/
def decideUnpick (s : State) (c : Ctx) (cause : Nat) (suspects guilty : List Nat) : State :=
  let s := requeueTest s c cause (suspects ++ guilty)
  match mget? s.rv.unpicks c.val with
  | some j =>
    let j := { j with
      cause := if causeRow j.cause < causeRow cause then cause else j.cause
      suspects := j.suspects ++ suspects.filter (fun r => !j.suspects.contains r)
      guilty := j.guilty ++ guilty.filter (fun r => !j.guilty.contains r) }
    s.modRv (fun v => { v with unpicks := mput v.unpicks c.val j })
  | none =>
    let s := stopCores (s.modCtx c (fun x => { x with gen := x.gen + 1 })) c
    let s : State := { s with cues := s.cues.map (fun (x : Nat × Cue) => if x.2.ctx = c then (x.1, { x.2 with gone := true }) else x) }
    let j : UnpickJob := { cause := cause, suspects := suspects, guilty := guilty }
    s.modRv (fun v => { v with unpicks := mput v.unpicks c.val j })

/-- The boundary after the decision (R410): reservations end and the claims cease. -/
def unpickBoundary (s : State) : State :=
  s.rv.unpicks.foldl (fun s (x : Nat × UnpickJob) =>
    if x.2.off then s else
    let mine := s.cues.filter (fun (q : Nat × Cue) => q.2.gone && q.2.ctx.val == x.1)
    let s : State := { s with cues := s.cues.filter (fun (q : Nat × Cue) => !(q.2.gone && q.2.ctx.val == x.1)) }
    s.modRv (fun v => { v with unpicks := mput v.unpicks x.1 { x.2 with off := true, cues := mine } })) s

/-- Queued device writes and atomics of a context are dropped (R406), and what it presents to the arbiters is withdrawn (R363). -/
def dropDeviceReqs (s : State) (c : Ctx) : State :=
  { s with
           chans := s.chans.map (fun (k : Nat × ChanState) => (k.1, { k.2 with present := k.2.present.filter (fun x => x.source != .walker c && x.source != .codec c) }))
           directory := s.directory.map (fun (d : Nat × DirEntry) => (d.1, { d.2 with queue := d.2.queue.filter (fun q => match q with
      | .device w .. => w.ctx != c
      | _ => true) })) }

/-- A mover's command no longer reports to a context's ring. -/
def MoverCmd.forget (c : Ctx) (m : MoverCmd) : MoverCmd := if m.ctx = some c then { m with ctx := none } else m

/-- Commands of a ring in flight, cues and begun steward commands apart. -/
def liveFlights (s : State) (c : Ctx) : List Flight :=
  (s.ctx c).ring.flights.filter (fun f => f.ended.isNone && f.opcode != 1 && !(f.steward && f.begun))

/-- A hub die reset ends a channel's commands with UNPICKED and empties its slots, which the link codecs hold; the channel and the
handle it holds stay (R230, R420, R422). -/
def resetChan (s : State) (k : Nat) : State :=
  match chanOf s k with
  | none => s
  | some x =>
    let s := x.jobs.foldl (fun s j =>
      endFlight (unpinPages s (cmdPin x.ctx j.tag)) x.ctx j.tag (BitVec.ofNat 16 j.opcode) stUnpicked (jobWords j)) s
    let s := s.modCodec k (fun x => { x with jobs := [], tables := [], stored := [], named := [], closing := none })
    match x.closing with
    | some (via, tag) => answer s via tag 0xC061 stUnpicked []
    | none => s

/-- The channels of a context at a hub die reset. -/
def resetChans (s : State) (c : Ctx) : State :=
  (s.chanCodec.filter (fun (x : Nat × CodecChan) => x.2.ctx == c)).foldl (fun s (x : Nat × CodecChan) => resetChan s x.1) s

/-- Walker commands, codec commands and swaps of a context end with UNPICKED (R410, R422); page moves already started go
on. A hub die reset (`hub`) leaves its channels open. The outcome counts the commands. -/
def endWalker (s : State) (c : Ctx) (hub : Bool := false) : State × Nat :=
  let n := (liveFlights s c).length
  let s := endSwaps (if hub then resetChans s c else dropChans s c) c stUnpicked
  let s := (liveFlights s c).foldl (fun s f => endFlight s c f.tag f.opcode stUnpicked []) s
  let s := dropDeviceReqs s c
  let pinned := fun (k : Nat) => decide ((c.val + 1) * 0x100000000 ≤ k) && decide (k < (c.val + 2) * 0x100000000)
  (unpinAll { s with
    nmWaits := s.nmWaits.filter (fun w => w.1 != c)
    scheduled := s.scheduled.filter (fun (x : Nat × Nat × MoverCmd) => x.2.2.ctx != some c)
    objects := s.objects.map (fun (o : Nat × Obj) => (o.1, { o.2 with mover := { o.2.mover with
      promos := o.2.mover.promos.map (MoverCmd.forget c), cancelled := o.2.mover.cancelled.map (MoverCmd.forget c), flushes := o.2.mover.flushes.map (MoverCmd.forget c), evict := o.2.mover.evict.map (MoverCmd.forget c) } })) } pinned, n)

/-- Step pins of a run are cleared (R160). -/
def unpinRun (s : State) (r : Nat) : State :=
  let mine := fun (k : Nat) => decide (stepPin r 0 ≤ k) && decide (k < stepPin r 0 + 256)
  unpinAll s mine

/-- A cue completes with a status after an unpick (R409); a run that started reports its words. -/
def endCue (s : State) (q : Cue) (status : Nat) : State :=
  endFlight s q.ctx q.tag 1 status (match q.phase, cueRun s q with
    | .running, some (b, p) => cueWords s q b p
    | _, _ => [])

/-- What an unpick makes of one of its cues: none if it is deferred for a replay, or the status with which it
completes (R409, R414 to R418, R427). -/
def cueOutcome (s : State) (j : UnpickJob) (r : Nat) (q : Cue) : Option Nat :=
  if j.guilty.contains r || causeRow j.cause == 3 then some stQuarantined
  else if causeRow j.cause == 2 || j.noReplay then some stUnpicked
  else if q.phase != .running then (if q.replay then none else some stUnpicked)
  else if s.rv.suspects.contains r then none
  else if j.suspects.contains r || !replayable s q then some stUnpicked
  else none

/-- Ends or defers the cues of an unpick; the outcome counts those ended and those deferred. -/
def settleCues (s : State) (j : UnpickJob) : State × Nat × Nat :=
  j.cues.foldl (fun (a : State × Nat × Nat) (x : Nat × Cue) =>
    let s := unpinRun a.1 x.1
    match cueOutcome s j x.1 x.2 with
    | none => (s.modRv (fun v => { v with replays := mput v.replays x.1 x.2 }), a.2.1, a.2.2 + 1)
    | some st => (endCue (dropSuspect s x.1) x.2 st, a.2.1 + 1, a.2.2)) (s, 0, 0)

/-- Cues of a context that wait for a replay end with its unpick under the later rows of R409. -/
def settleDeferred (s : State) (c : Ctx) (j : UnpickJob) : State × Nat :=
  if causeRow j.cause < 2 then (s, 0) else
  let mine := s.rv.replays.filter (fun (x : Nat × Cue) => x.2.ctx == c)
  let st := if causeRow j.cause = 3 then stQuarantined else stUnpicked
  (mine.foldl (fun s (x : Nat × Cue) =>
    endCue ((dropSuspect s x.1).modRv (fun v => { v with replays := mdel v.replays x.1 })) x.2 st) s, mine.length)

/-- The spill rows that the unpicked cores of a context present are dropped (R410). -/
def dropSpills (s : State) (c : Ctx) : State :=
  let mine := fun (x : OpenReq) => match x.source with
    | .spill k => (s.core k.val).ctx == some c && (s.core k.val).st == .unpicking
    | _ => false
  { s with chans := s.chans.map (fun (h : Nat × ChanState) => (h.1, { h.2 with present := h.2.present.filter (fun x => !mine x) })) }

/-- The cores of the unpicked runs become idle, and their spill rows are dropped (R410). -/
def idleCores (s : State) (c : Ctx) (runs : List Nat) : State :=
  { dropSpills s c with
    cores := s.cores.map (fun (k : Nat × CoreState) =>
      if k.2.ctx = some c ∧ k.2.st = .unpicking then (k.1, { k.2 with st := .idle, epoch := 0, run := none, rows := [], pend := [], tmac := none, send := none, xbounds := 0 }) else k)
    reds := s.reds.filter (fun x => !runs.contains x.run)
    redDone := s.redDone.filter (fun (x : Nat × Nat) => !runs.contains (x.1 / 4096)) }

/-- An unpick completes (R410). -/
def completeUnpick (s : State) (c : Ctx) (j : UnpickJob) : State :=
  let (s, n) := endWalker s c
  let s := idleCores s c (j.cues.map (·.1))
  let (s, ended, deferred) := settleCues s j
  let (s, more) := settleDeferred s c j
  let s := (s.modRv (fun v => { v with unpicks := mdel v.unpicks c.val })).bump 0xB0010 1
  let s := raise s evUnpicked [c] (w1 c.val ++ w1 j.cause ++ w1 (s.ctx c).gen.toNat ++ w1 (ended + more) ++ w1 deferred ++ w1 n)
  j.waiters.foldl (fun s (w : Path × Word) => answer s w.1 w.2 0xC0D0 stOK []) s

/-- The unpicks of some contexts are without replay (R427). -/
def withoutReplay (s : State) (cs : List Ctx) : State :=
  s.modRv (fun v => { v with unpicks := v.unpicks.map (fun (j : Nat × UnpickJob) =>
    if cs.any (fun c => c.val == j.1) then (j.1, { j.2 with noReplay := true }) else j) })

/-- UNPICK_COMPLETE (R410). -/
def execUnpickComplete (c : Ctx) (s : State) : Out :=
  .next (match mget? s.rv.unpicks c.val with
    | some j => if j.off then completeUnpick s c j else s
    | none => s)

/-- A context is quarantined (R419). -/
def quarantine (s : State) (c : Ctx) : State :=
  let fs := ((s.ctx c).charges.reverse.take 3).reverse
  let s := s.modCtx c (fun x => { x with quarantined := true })
  let s := raise s evQuarantine [c] (w1 c.val ++ fs.flatMap (fun (x : Nat × Nat) => w2 x.1))
  decideUnpick s c 7 [] []

/-- Charges one hang to a context (R417, R419). -/
def charge (s : State) (c : Ctx) : State :=
  s.modCtx c (fun x => { x with charges := x.charges ++ [(frameNo s, s.ft.run)] })

/-- The run under test is found guilty (R417): its binding is quarantined, one hang is charged. -/
def findGuilty (s : State) (r : Nat) : State :=
  match findCue s r with
  | none => s
  | some q =>
    let s : State := { s with bindings := s.bindings.map (fun (b : Nat × Binding) => if b.1 = q.binding then (b.1, { b.2 with quarantined := true }) else b) }
    giveVerdict ((charge s q.ctx).modRv (fun v => { v with testing := none })) q 1

/-- The module takes itself out of service (R427). -/
def checkService (s : State) : State :=
  let small := (s.rv.smallResets.filter (fun b => decide (s.ft.run < b + 878906250))).length
  let die := (s.rv.dieResets.filter (fun b => decide (s.ft.run < b + 878906250))).length
  if s.rv.outOfService || (decide (small < 6) && decide (die < 2)) then s
  else
    let s := s.modRv (fun v => { v with outOfService := true })
    drivePins (raiseAll s evOutOfService (w1 small ++ w1 die ++ w2 (frameNo s)))

/-- A stack enters self-refresh, from this frame on (R251). Every master of its channels' arbiters is masked (R357, R361, R362, R368). -/
def State.startSelfRef (s : State) (t : Nat) : State :=
  foldN 32 (fun h s => s.modChan t h (fun c => { c with arb := { c.arb with age := [], wait := [], lat := [] } }))
    (s.modStack t (fun x => if x.selfRef then x else { x with selfRef := true, selfFrom := s.ft.run }))

/-- A fuse-map copy or walk that a reset interrupts starts again from its first row (R294). -/
def FuseBank.again (b : FuseBank) : FuseBank := if b.done then b else { b with at_ := 0, skip := [] }

/-- A stack's controller is reset and the stack is held in self-refresh (R420): its queues are lost, and the copies that it ran start
their row again (R263, R294). -/
def holdStack (s : State) (t : Nat) : State :=
  foldN 32 (fun h s => s.modChan t h (fun c => { c with
    queue := [], present := [], rows := [], bankAt := [], groupAt := [], readAt := none, writeAt := none, opens := [], passed := 0
    copyAt := 0, skip := [], fuse := c.fuse.map (fun (f : Nat × FuseBank) => (f.1, f.2.again)) }))
    (s.startSelfRef t)

/-- A core is reset with its engines and bobbin (R420). -/
def resetCore (s : State) (k : Nat) : State := s.modCore k (fun _ => { st := .reset })

/-- A cluster is reset with its exchange (R420). -/
def resetCluster (s : State) (c : Nat) : State :=
  let s : State := { s with msgs := s.msgs.filter (fun (m : Nat × XMsg) => m.2.from_.val / 128 != c && m.2.dest.val / 128 != c) }
  foldN 128 (fun i s => resetCore s (c * 128 + i)) s

/-- The CXL.mem requests that the ports hold are answered at a hub die reset (R422); the outcome counts them. -/
def answerHeld (s : State) : State × Nat :=
  let n := s.waits.length
  let s := answerWaits s (fun _ => true)
  s.directory.foldl (fun (a : State × Nat) (d : Nat × DirEntry) =>
    let (s, k) := d.2.queue.foldl (fun (a : State × Nat) q => match q with
      | .read h mv inv => (sendRead a.1 h.port h.src h.tag inv zeroLine true mv, a.2 + 1)
      | .write h mv .. => (sendDone a.1 h.port h.src h.tag mv, a.2 + 1)
      | .evict h => (sendDone a.1 h.port h.src h.tag .i, a.2 + 1)
      | .device .. => a) (a.1, a.2)
    ({ s with directory := mmod d.2 s.directory d.1 (fun e => { e with queue := [] }) }, k)) (s, n)

/-- Steward commands in flight complete with UNPICKED at a hub die reset (R422). -/
def endSteward2 (s : State) : State :=
  let ws := s.lockWaits
  let ps := s.pubs
  let s : State := { s with lockWaits := [], pubs := [] }
  let s := ws.foldl (fun s (w : Nat × MciCall) => answer s w.2.via w.2.tag w.1 stUnpicked []) s
  let s := ps.foldl (fun s (p : Nat × Nat × Path × Word) => answer s p.2.2.1 p.2.2.2 0xC042 stUnpicked []) s
  s.windows.foldl (fun s (w : Nat × Window) => match w.2.waiter with
    | some (via, tag) =>
      answer { s with windows := mput s.windows w.1 { w.2 with waiter := none } } via tag 0xC031 stUnpicked []
    | none => s) s

/-- What a reset does to the blocks it acts on (R420, R422); the outcome counts the requests answered. -/
def resetEffect (s : State) (u : ResetUnit) : State × Nat :=
  match u with
  | .engine k false => (s.modCore k.val (fun c => { c with tmac := none, acc := [], accF := [] }), 0)
  | .engine k true => (s.modCore k.val (fun c => { c with v := [], m1 := 0, m2 := 0, m3 := 0, pend := [] }), 0)
  | .core k => (resetCore s k.val, 0)
  | .cluster c => (resetCluster s c.val, 0)
  | .stack t => (holdStack s t.val, 0)
  | .baseDie d => (foldN 10 (fun i s => holdStack (resetCluster s (d.val * 10 + i)) (d.val * 10 + i)) s, 0)
  | .hubDie =>
    let (s, n) := answerHeld s
    let s := allPorts.foldl (fun s p => s.modPort p (fun x => { x with noCredit := true })) s
    let s := (List.finRange 512).foldl (fun s c => if mhas s.ctxs c.val then (endWalker s c true).1 else s) s
    (endSteward2 s, n)

/-- Counts a reset that begins (R427). -/
def countReset (s : State) (u : ResetUnit) : State :=
  match u with
  | .cluster _ | .stack _ => s.modRv (fun v => { v with smallResets := v.smallResets ++ [s.ft.run] })
  | .baseDie _ | .hubDie => s.modRv (fun v => { v with dieResets := v.dieResets ++ [s.ft.run] })
  | _ => s

/-- A reset begins, or joins the one in progress on its unit (R420). `cause` is that of EV_RESET. -/
def startReset (s : State) (u : ResetUnit) (cause : Nat) (suspects affected : List Nat) (waiters : List (Path × Word)) (late : List Nat) : State :=
  match mget? s.rv.resets (resetKey u) with
  | some j =>
    let j := { j with suspects := j.suspects ++ suspects, affected := j.affected ++ affected, waiters := j.waiters ++ waiters, lateCues := j.lateCues ++ late }
    s.modRv (fun v => { v with resets := mput v.resets (resetKey u) j })
  | none =>
    let (s, n) := resetEffect s u
    let j : ResetJob := { unit_ := u, cause := cause, began := s.ft.run, suspects := suspects, affected := affected, answered := n, lateCues := late, waiters := waiters }
    checkService (countReset (s.modRv (fun v => { v with resets := mput v.resets (resetKey u) j })) u)

/-- A core lies in a reset unit's domain (R413). -/
def inUnit (u : ResetUnit) (k : Nat) : Bool :=
  match u with
  | .engine e _ => k == e.val
  | .core e => k == e.val
  | .cluster c => k / 128 == c.val
  | .stack t => k / 128 == t.val
  | .baseDie d => dieOf (k / 128) == d.val
  | .hubDie => false

/-- What a detector found (R407): its number, the domain kind and number of EV_HANG, the lowest local core. -/
structure HangInfo where
  det  : Nat
  kind : Nat
  num  : Nat
  core : Nat := 0
  deriving DecidableEq, Repr

/-- Notes a hang in its registers and raises EV_HANG (R429, R430). -/
def noteHang (s : State) (h : HangInfo) (sus aff : Nat) (ctxs : List Ctx) : State :=
  let s := (s.bump 0xB0008 1).modRv (fun v => { v with
    lastHang := BitVec.ofNat 32 (h.det + 16 * h.kind + 128 * h.num + 4096 * h.core + 524288 * min sus 1023)
    lastHangFrame := BitVec.ofNat 64 (frameNo s) })
  raise s evHang ctxs (w1 h.det ++ w1 h.kind ++ w1 h.num ++ w1 h.core ++ w1 sus ++ w1 aff ++ w2 (frameNo s))

/-- The run under test is one of several suspects (R417): RETESTED. -/
def retest (s : State) (keys : List Nat) : State :=
  match s.rv.testing with
  | some x =>
    if keys.contains x then
      match findCue s x with
      | some q => endTest s q 2
      | none => s
    else s
  | none => s

/-- The verdict that a hang gives on the run under test (R417): the guilty run, if any. None is given while REPLAY_EN is 0 (R418). -/
def judge (s : State) (keys : List Nat) : State × List Nat :=
  match s.rv.testing with
  | some x => if keys = [x] && replayEn s then (findGuilty s x, [x]) else (retest s keys, [])
  | none => (s, [])

/-- A hang (R407, R413, R414): suspects or affected runs are found, resets begin, and their contexts are unpicked. -/
def hang (s : State) (h : HangInfo) (dom : Nat → Bool) (units : List ResetUnit) : State :=
  let runs := runsIn s dom
  let keys := runs.map (·.1)
  let isSus := decide (h.det ≤ 5)
  let ctxs := runCtxs runs
  let out := s.rv.outOfService
  let s := noteHang s h (if isSus then keys.length else 0) (if isSus then 0 else keys.length) ctxs
  let (s, guilty) := if isSus then judge s keys else (s, [])
  let old := s.rv.unpicks.flatMap (fun (j : Nat × UnpickJob) => j.2.guilty)
  let listed := (runs.filter (fun (x : Nat × Cue) => !guilty.contains x.1 && !old.contains x.1 && replayable s x.2)).map (·.1)
  let s := if isSus && replayEn s && !out then addSuspects s listed else s
  let s := units.foldl (fun s u => startReset s u 0 (if isSus then keys else []) (if isSus then [] else keys) [] []) s
  let s := ctxs.foldl (fun s c =>
    let mine := (runs.filter (fun (x : Nat × Cue) => x.2.ctx == c)).map (·.1)
    decideUnpick s c (if isSus then 0 else 1) (if isSus then mine else []) (guilty.filter (fun r => mine.contains r))) s
  let s := if out then withoutReplay s ctxs else s
  ctxs.foldl (fun s c => if guilty.isEmpty || (s.ctx c).quarantined || decide (chargedIn s c < 3) then s else quarantine s c) s

/-- A detection that R408 lets fire once in a frame for its domain, or merges with a hang of the same run and cluster. -/
def fireOnce (s : State) (cls unit sub : Nat) (f : State → State) (merged : State → State) : State :=
  if s.rv.fired.contains (cls, unit, sub) then merged s
  else f (s.modRv (fun v => { v with fired := v.fired ++ [(cls, unit, sub)] }))

/-- Detectors 0 to 3 on cores of one run in one cluster (R408): one hang, with the first resets of each. -/
def coreHang (s : State) (h : HangInfo) (r : Nat) (ks : List Nat) (units : List ResetUnit) : State :=
  fireOnce s 0 h.num (r + 1) (fun s => hang s h (fun k => ks.contains k) units)
    (fun s => units.foldl (fun s u => startReset s u 0 [r] [] [] []) s)

/-- Both engines of a core, as reset units. -/
def engineUnits (k : Nat) : List ResetUnit := [.engine (Fin.ofNat 2560 k) false, .engine (Fin.ofNat 2560 k) true]

/-- Detector 1 (R407): a core at its limit of boundaries in XWAIT. -/
def execXwaitLimit (k : CoreId) (s : State) : Out :=
  .next (
    let c := s.core k.val
    let lim := s.fieldEff 0xB0000 4 12
    match c.run with
    | some r =>
      if c.st == .xwait && lim != 0 && decide (lim ≤ c.xbounds) then
        coreHang s { det := 1, kind := 1, num := k.val / 128, core := k.val % 128 } r [k.val] (engineUnits k.val)
      else s
    | none => s)

/-- Detector 2 (R407): an engine that does not retire its instruction. -/
def execEngineStuck (k : CoreId) (sEngine : Bool) (s : State) : Out :=
  .next (match (s.core k.val).run with
    | some r => coreHang s { det := 2, kind := 0, num := k.val / 128, core := k.val % 128 } r [k.val] [.engine k sEngine]
    | none => s)

/-- Detector 3 (R407): a core that an unpick does not free. -/
def execUnpickStalled (k : CoreId) (s : State) : Out :=
  .next (match (s.core k.val).run with
    | some r =>
      if (s.core k.val).st == .unpicking then
        coreHang s { det := 3, kind := 1, num := k.val / 128, core := k.val % 128 } r [k.val] (engineUnits k.val)
      else s
    | none => s)

/-- Detectors 4 and 5 (R407): a cluster. -/
def clusterHang (s : State) (det : Nat) (c : Cluster) : State :=
  if !domOn s (2 * c.val) then s else
  fireOnce s 4 c.val 0 (fun s => hang s { det := det, kind := 2, num := c.val } (inUnit (.cluster c)) [.cluster c]) (fun s => s)

/-- Detector 4 (R407). -/
def execClusterHeartbeatMiss (c : Cluster) (s : State) : Out := .next (clusterHang s 4 c)

/-- Detector 5 (R407). -/
def execExchangeStuck (c : Cluster) (s : State) : Out := .next (clusterHang s 5 c)

/-- Detector 6 (R407): outside self-refresh. -/
def execStackHeartbeatMiss (t : Cluster) (s : State) : Out :=
  .next (if (s.stackOf t.val).selfRef || !domOn s (40 + t.val) then s
    else fireOnce s 6 t.val 0 (fun s => hang s { det := 6, kind := 3, num := t.val } (inUnit (.stack t)) [.stack t]) (fun s => s))

/-- A hang of the hub die (R407). -/
def hubHang (s : State) (det : Nat) : State :=
  fireOnce s 8 2 0 (fun s => hang s { det := det, kind := 5, num := 2 } (inUnit .hubDie) [.hubDie]) (fun s => s)

/-- Detector 7 (R407): base die A or B, or the hub die. -/
def execDieHeartbeatMiss (d : Fin 3) (s : State) : Out :=
  .next (if h : d.val < 2 then
      fireOnce s 7 d.val 0 (fun s => hang s { det := 7, kind := 4, num := d.val } (inUnit (.baseDie ⟨d.val, h⟩)) [.baseDie ⟨d.val, h⟩]) (fun s => s)
    else hubHang s 7)

/-- Detector 8 (R407). -/
def execHubBlockStall (s : State) : Out := .next (hubHang s 8)

/-- Detector 9 (R407): an NM_, SWAP_ or CODEC_ command without progress; its context is unpicked. -/
def execCommandProgressTimeout (c : Ctx) (tag : Word) (s : State) : Out :=
  .next (
    let live := (s.ctx c).ring.flights.any (fun f => f.tag == tag && f.ended.isNone && decide (5 ≤ f.opcode.toNat) && decide (f.opcode.toNat ≤ 14))
    if live then
      fireOnce s 9 c.val 0 (fun s => decideUnpick (noteHang s { det := 9, kind := 7, num := 0 } 0 0 []) c 6 [] []) (fun s => s)
    else s)

/-- Detector 10 (R407): the package is reset. -/
def execStewardWatchdog (s : State) : Out :=
  .next (doPackageReset (noteHang s { det := 10, kind := 6, num := 0 } 0 0 []) 0 (if s.pw.modRst then 0 else 1))

/-- Detector 0 at a boundary (R407, R408): the cores of runs whose step has ended and that have not ended their part. -/
def overrunHangs (s : State) (found : List (Nat × List Nat)) : State :=
  (List.range 20).foldl (fun s c =>
    let here := (found.map (fun (x : Nat × List Nat) => (x.1, x.2.filter (fun k => k / 128 == c)))).filter (fun x => !x.2.isEmpty)
    match here with
    | [] => s
    | [(r, ks)] =>
      coreHang s { det := 0, kind := 1, num := c, core := ks.foldl (fun m k => min m (k % 128)) 127 } r ks (ks.flatMap engineUnits)
    | _ => fireOnce s 4 c 0 (fun s => hang s { det := 0, kind := 2, num := c } (fun k => k / 128 == c) [.cluster (Fin.ofNat 20 c)]) (fun s => s)) s

/-- The level of a reset in EV_RESET: the domain-kind codes of R429. -/
def levelOf (u : ResetUnit) : Nat :=
  match u with
  | .engine .. => 0 | .core _ => 1 | .cluster _ => 2 | .stack _ => 3 | .baseDie _ => 4 | .hubDie => 5

/-- The target of a reset in EV_RESET. -/
def targetNo (u : ResetUnit) : Nat :=
  match u with
  | .engine k _ => k.val | .core k => k.val | .cluster c => c.val | .stack t => t.val | .baseDie d => d.val | .hubDie => 2

/-- Raises EV_RESET (R429). -/
def resetEvent (s : State) (j : ResetJob) (escalated : Bool) : State :=
  raise s evReset [] (w1 (levelOf j.unit_) ++ w1 (targetNo j.unit_) ++ w1 j.cause ++ w1 (b2n escalated)
    ++ wSat ((s.ft.run - j.began) * 1024 / 1000) ++ w1 j.answered)

/-- The refresh counters of some ranks of a channel advance; a rank whose counter wraps has its row-disturbance tables cleared (R249,
R252). -/
def advanceRefs (c : ChanState) (ranks : List Nat) (by_ : Nat → Nat) : ChanState :=
  { c with
    refs := ranks.foldl (fun m r => mput m r ((mget 0 c.refs r + by_ r) % 8192)) c.refs
    disturb := c.disturb.filter (fun (d : Nat × AMap Nat) => !(ranks.contains (d.1 / 16) && decide (8192 ≤ mget 0 c.refs (d.1 / 16) + by_ (d.1 / 16)))) }

/-- A stack leaves self-refresh (R251): each layer has refreshed its ranks once in every frame of it, the doubled rate, and as often
more as the layer chose, a count that the spec leaves open. The masks of its arbiters' masters fall, and their buckets fill (R365). -/
def leaveSelfRef (s : State) (t : Nat) : State :=
  let n := s.ft.run - (s.stackOf t).selfFrom
  let free := s.free
  let s : State := { s.modStack t (fun x => { x with selfRef := false, stuck := false }) with free := free + 17 }
  foldN 32 (fun h s => s.modChan t h (fun c =>
    advanceRefs { c with arb := { c.arb with tokens := [] } } (List.range 17) (fun r => n + (Config.freeWord (free + r)).toNat))) s

/-- A change of timing set is in progress whose exit from self-refresh is still to come (R256): DESIGN CHOICE, boundary F + 18, the last
before 19.0 µs (log entry 144). -/
def setExitDue (s : State) : Bool :=
  match s.pw.job with
  | some j => j.setChange && (match j.begun with | some b => decide (s.ft.run < b + 18) | none => false)
  | none => false

/-- A stack's reset ends: it leaves self-refresh unless something else holds it there. -/
def freeStack (s : State) (t : Nat) : State :=
  if s.pw.thermalOff || setExitDue s then s.modStack t (fun x => { x with stuck := false })
  else if (s.stackOf t).selfRef then leaveSelfRef s t else s

/-- Cores of a finished reset are idle. -/
def freeReset (s : State) (p : Nat → Bool) : State :=
  { s with cores := s.cores.map (fun (k : Nat × CoreState) => if p k.1 ∧ k.2.st = .reset then (k.1, { k.2 with st := .idle }) else k) }

/-- What the end of a reset gives back. -/
def resetDone (s : State) (u : ResetUnit) : State :=
  match u with
  | .engine .. => s
  | .core k => freeReset s (fun x => x == k.val)
  | .cluster c => freeReset s (fun x => x / 128 == c.val)
  | .stack t => pagesChanged (freeStack s t.val)
  | .baseDie d => pagesChanged (foldN 10 (fun i s => freeStack s (d.val * 10 + i)) (freeReset s (fun x => dieOf (x / 128) == d.val)))
  | .hubDie => allPorts.foldl (fun s p => s.modPort p (fun x => { x with noCredit := false })) s

/-- A cue whose start fell in a reset is late (R423): its earliest start is the second boundary after the reset. -/
def lateCue (s : State) (r : Nat) : State :=
  match mget? s.cues r with
  | none => s
  | some q =>
    let E := frameNo s + 2
    let t : State := { s with cues := mput s.cues r { q with start := E, lead := 0, sampled := false, found := [], foundRows := 0 } }
    if q.replay then t
    else if q.late then notchMissed t q (startOf q.notch) E E
    else refuseCue (notchMissed (dropCue s r) q (startOf q.notch) E 0) q.ctx q.tag 0x25

/-- RESET_COMPLETE (R420, R428). -/
def execResetComplete (u : ResetUnit) (s : State) : Out :=
  .next (match mget? s.rv.resets (resetKey u) with
    | none => s
    | some j =>
      let s := s.modRv (fun v => { v with resets := mdel v.resets (resetKey u) })
      let s := resetDone (resetEvent s j false) u
      let s := j.lateCues.foldl lateCue s
      j.waiters.foldl (fun s (w : Path × Word) => answer s w.1 w.2 0xC0D2 stOK []) s)

/-- The next level of a reset (R421); none is the package. -/
def nextLevel (u : ResetUnit) : Option ResetUnit :=
  match u with
  | .engine k _ => some (.core k)
  | .core k => some (.cluster (Fin.ofNat 20 (k.val / 128)))
  | .cluster c => some (.baseDie (Fin.ofNat 2 (dieOf c.val)))
  | .stack t => some (.baseDie (Fin.ofNat 2 (dieOf t.val)))
  | .baseDie _ => none
  | .hubDie => none

/-- The runs that a reset without a detection of its own takes in (R413, R421): suspects, or affected runs. -/
def takeRuns (s : State) (u : ResetUnit) (isSus : Bool) : State :=
  let runs := runsIn s (inUnit u)
  let s := if isSus then retest s (runs.map (·.1)) else s
  let s := if isSus && replayEn s && !s.rv.outOfService then
    addSuspects s ((runs.filter (fun (x : Nat × Cue) => replayable s x.2)).map (·.1)) else s
  (runCtxs runs).foldl (fun s c => decideUnpick s c (if isSus then 0 else 1)
    (if isSus then (runs.filter (fun (x : Nat × Cue) => x.2.ctx == c)).map (·.1) else []) []) s

/-- A reset is abandoned and the next level begins (R421). -/
def escalate (s : State) (j : ResetJob) : State :=
  let s := s.modRv (fun v => { v with resets := mdel v.resets (resetKey j.unit_) })
  let s := setInt ((resetEvent s j true).bump 0xB000C 1 16) 11 4
  let s := j.waiters.foldl (fun s (w : Path × Word) => answer s w.1 w.2 0xC0D2 stOK []) s
  match nextLevel j.unit_ with
  | none => if resetRefused s then s else packageReset s 0
  | some u =>
    let isSus := !j.suspects.isEmpty
    let runs := (runsIn s (inUnit u)).map (·.1)
    let s := startReset s u 1 (if isSus then j.suspects ++ runs else []) (if isSus then j.affected else j.affected ++ runs) [] j.lateCues
    takeRuns s u isSus

/-- RESET_ESCALATE (R421). -/
def execResetEscalate (u : ResetUnit) (s : State) : Out :=
  .next (match mget? s.rv.resets (resetKey u) with
    | none => s
    | some j => escalate s j)

/-- A deferred cue is armed as a replay, if its reservation meets R52 (R415). A binding that has been quarantined or
removed meanwhile ends it. -/
def armReplay (s : State) (r : Nat) (q : Cue) : Option State :=
  let gone := fun (st : Nat) => endCue ((dropSuspect s r).modRv (fun v => { v with replays := mdel v.replays r })) q st
  match cueRun s q with
  | none => some (gone stUnpicked)
  | some (b, p) =>
    if b.quarantined then some (gone stQuarantined) else
    let start := frameNo s + 2
    let lo := runAt s start
    if slotConflict s b p lo (lo + p.length + q.grace) || mhas s.rv.unpicks q.ctx.val then none else
    let e := nextEpoch s 65536 s.epoch
    let n : Cue := { ctx := q.ctx, tag := q.tag, binding := q.binding, grace := q.grace, notch := q.notch, seed := q.seed, late := q.late,
                     gen := (s.ctx q.ctx).gen, start := start, epoch := e, replay := true, armedAt := s.ft.run }
    some ({ s with cues := mput s.cues r n, epoch := e }.modRv (fun v => { v with replays := mdel v.replays r }))

/-- Affected runs that may be replayed: no reset lists them (R415). -/
def readyReplays (s : State) : List (Nat × Cue) :=
  s.rv.replays.filter (fun (x : Nat × Cue) => !s.rv.suspects.contains x.1
    && !s.rv.resets.any (fun (j : Nat × ResetJob) => j.2.affected.contains x.1))

/-- The next run to be tested (R414): none while a test runs or a reset of a hang with suspects is in progress. -/
def nextTest (s : State) : Option (Nat × Cue) :=
  if s.rv.testing.isSome || s.rv.resets.any (fun (j : Nat × ResetJob) => !j.2.suspects.isEmpty) then none else
  match s.rv.suspects with
  | r :: _ => (mget? s.rv.replays r).map (fun q => (r, q))
  | [] => none

/-- While REPLAY_EN is 0 the suspects that wait for their tests complete with UNPICKED (R418). -/
def endSuspects (s : State) : State :=
  if replayEn s then s else
  (s.rv.replays.filter (fun (x : Nat × Cue) => s.rv.suspects.contains x.1)).foldl (fun s (x : Nat × Cue) =>
    endCue ((dropSuspect s x.1).modRv (fun v => { v with replays := mdel v.replays x.1 })) x.2 stUnpicked) s

/-- REPLAY_ARM (R414, R415): affected runs together, and the next suspect on its own. -/
def execReplayArm (s : State) : Out :=
  .next (
    let s := endSuspects s
    let s := (readyReplays s).foldl (fun s (x : Nat × Cue) => (armReplay s x.1 x.2).getD s) s
    match nextTest s with
    | none => s
    | some (r, q) =>
      match armReplay s r q with
      | none => s
      | some t => if mhas t.cues r then (dropSuspect t r).modRv (fun v => { v with testing := some r }) else t)

/-- A run completes: a test of it ends with CLEARED (R417). -/
def testEnds (s : State) (r : Nat) (q : Cue) : State :=
  if s.rv.testing = some r then endTest s q 0 else s

/-- CTX_UNPICK (R428). -/
def ctxUnpickH : Handler := fun s m =>
  let n := m.f 0 2
  if 512 ≤ n then (s, .done stNoContext [])
  else
    let s := decideUnpick s (toCtx n) 2 [] []
    (s.modRv (fun v => { v with unpicks := mmod { cause := 2 } v.unpicks n (fun j => { j with waiters := j.waiters ++ [(m.via, m.tag)] }) }), .waits)

/-- CTX_UNPICK. -/
def execCtxUnpick (via : Path) (input : List Byte) (s : State) : Out := .next (mci s via 0xC0D0 input ctxUnpickH)

/-- QUARANTINE_RELEASE (R418, R419): refused where neither the context nor a binding of it is quarantined. -/
def quarantineReleaseH : Handler := fun s m =>
  let n := m.f 0 2
  if 512 ≤ n then (s, .done stNoContext [])
  else if !(s.ctx (toCtx n)).quarantined && !s.bindings.any (fun (b : Nat × Binding) => b.2.ctx.val == n && b.2.quarantined) then
    (s, .done 0x27 [])
  else
  let s := s.modCtx (toCtx n) (fun x => { x with quarantined := false, charges := [] })
  ({ s with bindings := s.bindings.map (fun (b : Nat × Binding) => if b.2.ctx.val = n then (b.1, { b.2 with quarantined := false }) else b) }, .done stOK [])

/-- QUARANTINE_RELEASE. -/
def execQuarantineRelease (via : Path) (input : List Byte) (s : State) : Out := .next (mci s via 0xC0D1 input quarantineReleaseH)

/-- A requested reset (R413, R428). -/
def requestReset (s : State) (m : MciCall) (u : ResetUnit) : State × Answer :=
  let runs := (runsIn s (inUnit u)).map (·.1)
  (takeRuns (startReset s u 2 [] runs [(m.via, m.tag)] []) u false, .waits)

/-- RESET_REQUEST (R428). A requested package reset is the command PACKAGE_RESET 1 ms later. -/
def resetRequestH : Handler := fun s m =>
  let t := m.f 1 1
  match m.f 0 1 with
  | 0 => if h : t < 20 then requestReset s m (.cluster ⟨t, h⟩) else (s, .done stRange [])
  | 1 => if h : t < 2 then requestReset s m (.baseDie ⟨t, h⟩) else if t = 2 then requestReset s m .hubDie else (s, .done stRange [])
  | _ => (s, .done stOK [])

/-- RESET_REQUEST. -/
def execResetRequest (via : Path) (input : List Byte) (s : State) : Out := .next (mci s via 0xC0D2 input resetRequestH)

end Sys2Proof.Machine
end

