-- ==== Sys2Proof/Machine/Extents.lean ====
section
/-! DEFINITION. Extents and their grants (R205 to R207), the Dynamic Capacity commands (R206, R381), and leases (R208 to
R210). -/

namespace Sys2Proof.Machine

/-- Bytes of a unit of 256 MiB. -/
def unitBytes : Nat := 0x10000000

/-- The extent that starts at a device address with a length, both in bytes. -/
def extentAt (s : State) (base length : Nat) : Option Extent :=
  if base % unitBytes ≠ 0 then none else
  match mget? s.extents (base / unitBytes) with
  | some x => if x.len * unitBytes = length then some x else none
  | none => none

/-- The grant of an extent to a context. -/
def grantOf (x : Extent) (c : Ctx) : Option Grant := x.grants.find? (fun g => g.ctx == c)

/-- Changes one grant of an extent. -/
def State.modGrant (s : State) (base : Nat) (c : Ctx) (f : Grant → Grant) : State :=
  match mget? s.extents base with
  | some x => { s with extents := mput s.extents base { x with grants := x.grants.map (fun g => if g.ctx = c then f g else g) } }
  | none => s

/-- Takes a grant out of an extent, and the extent with its last grant. -/
def State.dropGrant (s : State) (base : Nat) (c : Ctx) : State :=
  match mget? s.extents base with
  | some x =>
    let gs := x.grants.filter (fun g => g.ctx != c)
    { s with extents := if gs.isEmpty then mdel s.extents base else mput s.extents base { x with grants := gs } }
  | none => s

/-- A Dynamic Capacity event record of a grant change, in the Dynamic Capacity log of the PF of the context's port
(R206, R353): event type 0 Add Capacity or 1 Release Capacity. -/
def dcRecord (s : State) (c : Ctx) (type : Nat) (x : Extent) : State :=
  logRecord s (ctxPort c) .dynamicCapacity .dynamicCapacity type (BitVec.ofNat 16 c.val)
    (w2 (x.base * unitBytes) ++ w2 (x.len * unitBytes) ++ (List.range 4).flatMap (fun i => w1 (x.tag.toNat / 2 ^ (32 * i))))

/-- Grants that a context holds. -/
def grantCount (s : State) (c : Ctx) : Nat :=
  (s.extents.filter (fun (x : Nat × Extent) => (grantOf x.2 c).isSome)).length

/-- An answer to an FM API command (R381). -/
def fmAnswer (s : State) (n : Fin 2) (rc : Nat) : State := s.emit (.fm n (BitVec.ofNat 16 rc) [])

/-- The extent table after an add for a context, or none where R205 and R206 let the command fail. -/
def addGrant (s : State) (c : Ctx) (base length : Nat) (tag : BitVec 128) (shareable : Bool) : Option State :=
  if base % unitBytes ≠ 0 ∨ length % unitBytes ≠ 0 ∨ length = 0 ∨ 2 ^ 47 < base + length ∨ 256 ≤ grantCount s c then none else
  let b := base / unitBytes
  let n := length / unitBytes
  let g : Grant := { ctx := c, st := .offered }
  match mget? s.extents b with
  | some x =>
    if x.len = n ∧ x.shareable ∧ shareable ∧ x.tag = tag ∧ x.grants.length < 512 ∧ grantOf x c = none then
      some { s with extents := mput s.extents b { x with grants := x.grants ++ [g] } }
    else none
  | none =>
    if s.extents.any (fun (x : Nat × Extent) => runsMeet b n x.2.base x.2.len) || decide (16384 ≤ s.extents.length) then none
    else some { s with extents := mput s.extents b { base := b, len := n, tag := tag, shareable := shareable, grants := [g] } }

/-- The fabric manager's command, for the context that the host identifier names (R381, R386, R427). -/
def fmCommand (s : State) (n : Fin 2) (host : BitVec 16) (f : Ctx → Option State) : State :=
  if !stewardHears s (.sideband n) then s
  else if h : host.toNat < 512 then
    match f ⟨host.toNat, h⟩ with
    | some t => fmAnswer t n 0
    | none => fmAnswer s n 2
  else fmAnswer s n 2

/-- FM_DC_ADD (R206): the offer is made and recorded. -/
def execFmDcAdd (n : Fin 2) (host : BitVec 16) (base : DWord) (length : DWord) (tag : BitVec 128) (shareable : Bool) (s : State) : Out :=
  .next (if s.rv.outOfService && stewardHears s (.sideband n) then fmAnswer s n 4
    else fmCommand s n host (fun c => (addGrant s c base.toNat length.toNat tag shareable).map (fun t =>
      match mget? t.extents (base.toNat / unitBytes) with
      | some x => dcRecord t c 0 x
      | none => t)))

/-- FM_DC_WITHDRAW (R206). -/
def execFmDcWithdraw (n : Fin 2) (host : BitVec 16) (base : DWord) (length : DWord) (s : State) : Out :=
  .next (fmCommand s n host (fun c =>
    match extentAt s base.toNat length.toNat with
    | some x => match grantOf x c with
      | some g => if g.st = .offered then some (s.dropGrant x.base c) else none
      | none => none
    | none => none))

/-- An object has a page in an extent. -/
def objInExtent (x : Extent) (o : Obj) : Bool := runsMeet o.base (o.pages * 65536) (x.base * unitBytes) (x.len * unitBytes)

/-- The objects with a page in an extent. -/
def extentObjs (s : State) (x : Extent) : List Nat := (s.objects.filter (fun (o : Nat × Obj) => objInExtent x o.2)).map (·.1)

/-- A source identity maps to a context (R337). -/
def idOfCtx (s : State) (c : Ctx) (id : SrcId) : Bool :=
  match mget? s.srcTab id.toNat with
  | some e => e.valid && e.ctx == c
  | none => false

/-- Step 3 of R207: a context's drafts, handles, pins and codec channels on objects go. The outcome counts the drafts
and the handles. -/
def dropHolds (s : State) (c : Ctx) (p : Nat → Bool) : State × Nat × Nat :=
  let chans := s.chanCodec.filter (fun (x : Nat × CodecChan) => x.2.ctx == c && p x.2.object)
  let s := chans.foldl (fun s (x : Nat × CodecChan) => dropChan s x.1) s
  let mine := s.views.filter (fun (v : Nat × View) => v.2.ctx == c && !v.2.hidden && p v.2.obj)
  let s := mine.foldl (fun s (v : Nat × View) => endView s v.1) s
  let s := (s.pins.filter (fun k => k / 0x1000000 == c.val && p (k % 0x1000000))).foldl (fun s k => dropPin s c (k % 0x1000000)) s
  (s, (mine.filter (fun (v : Nat × View) => v.2.draft)).length, (mine.filter (fun (v : Nat × View) => !v.2.draft)).length)

/-- Step 4 of R207: the lines of an extent that a context's identities hold are recalled, those of a line already in RECALLING too. -/
def recallOf (s : State) (c : Ctx) (x : Extent) : State :=
  (s.directory.filter (fun (d : Nat × DirEntry) =>
      decide (x.base * unitBytes ≤ d.1 * 64) && decide (d.1 * 64 < (x.base + x.len) * unitBytes))).foldl (fun s (d : Nat × DirEntry) =>
    let going := d.2.st == .recalling
    let ts := ((if going then d.2.sharers ++ d.2.kept else sharersOf s (d.1 * 64) d.2)).filter (idOfCtx s c)
    if ts.isEmpty then s
    else if going then extendRecall s (d.1 * 64) d.2 ts
    else startRecall s (d.1 * 64) d.2 ts false none) s

/-- Cues of a context, armed, running or deferred, whose bindings name an object of a list. -/
def cuesNaming (s : State) (c : Ctx) (os : List Nat) : Bool :=
  (allCues s ++ s.rv.replays).any (fun (q : Nat × Cue) => q.2.ctx == c && (match mget? s.bindings q.2.binding with
    | some b => os.any (fun o => bindsObj s o b)
    | none => false))

/-- Steps 3 and 4 of R207, once the unpick of step 2 has ended. -/
def releaseHolds (s : State) (x : Extent) (c : Ctx) : State :=
  if mhas s.rv.unpicks c.val then s else
  let os := extentObjs s x
  let s := s.modGrant x.base c (fun g => { g with dropped := true })
  recallOf (dropHolds s c (fun o => os.contains o)).1 c x

/-- The release actions of a grant begin (R206, R207): new commands are refused, and the cues are unpicked; without any, the next steps
follow at once. -/
def startRelease (s : State) (x : Extent) (c : Ctx) : State :=
  let s := s.modGrant x.base c (fun g => { g with st := .releasing })
  releaseHolds (if cuesNaming s c (extentObjs s x) then decideUnpick s c 3 [] [] else s) x c

/-- The fabric manager's or the host's release of an ACTIVE grant, or none where there is none. -/
def releaseGrant (s : State) (c : Ctx) (base length : Nat) : Option State :=
  match extentAt s base length with
  | some x => match grantOf x c with
    | some g => if g.st = .active then some (startRelease s x c) else none
    | none => none
  | none => none

/-- FM_DC_FORCE_RELEASE (R206). -/
def execFmDcForceRelease (n : Fin 2) (host : BitVec 16) (base : DWord) (length : DWord) (s : State) : Out :=
  .next (fmCommand s n host (fun c => releaseGrant s c base.toNat length.toNat))

/-- A CXL command on a PF mailbox, answered with a return code and payload (R384), and with its Doorbell Interrupt where that is
enabled (R334, R382). -/
def cxlAnswer (s : State) (p : Port) (b : Bool) (rc : Nat) (out : List Byte) : State :=
  let s := s.emit (.cxlMailbox p b (BitVec.ofNat 16 rc) out)
  if (mbox s p b).dbInt then sendMsix s (.pf p) (b2n b) else s

/-- A CXL command that acts for the current context of its mailbox (R381); return code Invalid Input without one. -/
def cxlForCtx (s : State) (p : Port) (b : Bool) (f : Ctx → State) : State :=
  if !stewardHears s (.mailbox p b) then s else
  match (mbox s p b).ctx with
  | some c => f c
  | none => cxlAnswer s p b 2 []

/-- The host's answer to an offer (R206): accepted, the grant is ACTIVE and decodes from the next commit; rejected, it
ends and the fabric manager hears of it. -/
def respondOffer (s : State) (p : Port) (b : Bool) (c : Ctx) (base length : Nat) (accept : Bool) : State :=
  match extentAt s base length with
  | none => cxlAnswer s p b 0xF []
  | some x =>
    match grantOf x c with
    | some g =>
      if g.st ≠ .offered then cxlAnswer s p b 0xF []
      else if accept then cxlAnswer (stageCommit (s.modGrant x.base c (fun g => { g with st := .active })) c) p b 0 []
      else cxlAnswer ((s.dropGrant x.base c).emit (.fmReport c x.base 0)) p b 0 []
    | none => cxlAnswer s p b 0xF []

/-- Add Dynamic Capacity Response (R206, R381). -/
def execAddDcResponse (p : Port) (secondary : Bool) (base : DWord) (length : DWord) (accept : Bool) (s : State) : Out :=
  .next (cxlForCtx s p secondary (fun c => respondOffer s p secondary c base.toNat length.toNat accept))

/-- Release Dynamic Capacity (R206, R381). -/
def execReleaseDc (p : Port) (secondary : Bool) (base : DWord) (length : DWord) (s : State) : Out :=
  .next (cxlForCtx s p secondary (fun c => match releaseGrant s c base.toNat length.toNat with
    | some t => cxlAnswer t p secondary 0 []
    | none => cxlAnswer s p secondary 0xF []))

/-- DC_OFFER_TIMEOUT (R206): the offer lapses, and the fabric manager hears of it. -/
def execDcOfferTimeout (c : Ctx) (base : DWord) (s : State) : Out :=
  .next (match mget? s.extents (base.toNat / unitBytes) with
    | some x => match grantOf x c with
      | some g => if g.st = .offered ∧ base.toNat % unitBytes = 0 then (s.dropGrant x.base c).emit (.fmReport c x.base 1) else s
      | none => s
    | none => s)

/-- Steps 1 to 4 of R207 are done for a grant: the context's unpick has ended, and no line of the extent waits for an
identity of the context. -/
def releaseReady (s : State) (x : Extent) (c : Ctx) : Bool :=
  !mhas s.rv.unpicks c.val && !s.directory.any (fun (d : Nat × DirEntry) =>
    decide (x.base * unitBytes ≤ d.1 * 64) && decide (d.1 * 64 < (x.base + x.len) * unitBytes) && d.2.st == .recalling
      && d.2.targets.any (idOfCtx s c))

/-- Steps 3 to 5 of R207, at a frame boundary: steps 3 and 4 of releases whose unpick has ended, and the decoder changes of those that
are ready are staged. -/
def stageReleases (s : State) : State :=
  s.extents.foldl (fun s (x : Nat × Extent) => x.2.grants.foldl (fun s g =>
    if g.st = .releasing ∧ g.dropped = false then releaseHolds s x.2 g.ctx
    else if g.st = .releasing ∧ g.leaving = false ∧ releaseReady s x.2 g.ctx then
      stageCommit (s.modGrant x.1 g.ctx (fun g => { g with leaving := true })) g.ctx
    else s) s) s

/-- The grant changes of a good commit of a context take effect (R206, R207, R341). -/
def commitGrants (s : State) (c : Ctx) : State :=
  { s with extents := s.extents.map (fun (x : Nat × Extent) => (x.1, { x.2 with grants := x.2.grants.map (fun g =>
      if g.ctx = c then { g with live := g.st == .active || (g.st == .releasing && !g.leaving && g.live) } else g) })) }

/-- An object is unbound and deleted (R207 step 6). -/
def unbindDelete (s : State) (o : Nat) : State :=
  deleteObject { s with bindings := s.bindings.filter (fun (b : Nat × Binding) => !bindsObj s o b.2), recompute := Nat.lor s.recompute 8 } o

/-- Step 6 of R207: the objects of an extent without another grant go; else the context's own pass to the lowest-numbered
context that holds one. -/
def releaseObjects (s : State) (x : Extent) (c : Ctx) : State :=
  let os := extentObjs s x
  match (x.grants.filter (fun g => g.ctx != c && g.st != .offered)).foldl (fun (m : Option Ctx) g => match m with
      | some a => if g.ctx.val < a.val then some g.ctx else some a
      | none => some g.ctx) none with
  | none => os.foldl unbindDelete s
  | some d => os.foldl (fun s o => s.modObj o (fun o => if o.owner = c then { o with owner := d } else o)) s

/-- A context leaves EXPIRED by the release of its last grant (R210). -/
def leaveExpired (s : State) (c : Ctx) : State :=
  if (s.ctx c).expired && grantCount s c == 0 then
    s.modCtx c (fun x => { x with expired := false, leaseRun := ctxEnabled s c, leaseFrom := s.ft.run })
  else s

/-- GRANT_RELEASE_COMPLETE (R206, R207): the release is reported and recorded. -/
def execGrantReleaseComplete (c : Ctx) (base : DWord) (s : State) : Out :=
  .next (match mget? s.extents (base.toNat / unitBytes) with
    | some x => match grantOf x c with
      | some g =>
        if g.st = .releasing ∧ g.leaving ∧ g.live = false ∧ (s.ctx c).decBusy = false ∧ base.toNat % unitBytes = 0 then
          leaveExpired (dcRecord (((releaseObjects s x c).dropGrant x.base c).emit (.fmReport c x.base 2)) c 1 x) c
        else s
      | none => s
    | none => s)

/-- LEASE_RENEW (R208, R234). -/
def leaseRenewH : Handler := fun s m =>
  if (s.ctx m.c).expired then (s, .done stLeaseExpired [])
  else (restartLease s m.c, .done stOK (leBytes 4 (s.ctx m.c).leaseMs))

/-- LEASE_RENEW. -/
def execLeaseRenew (via : Path) (input : List Byte) (s : State) : Out := .next (mci s via 0xC050 input leaseRenewH)

/-- LEASE_SET (R208, R210): with REARM the lease restarts at once; without, the length counts from the next start. -/
def leaseSetH : Handler := fun s m =>
  let n := m.f 0 2
  let len := m.f 4 4
  if 512 ≤ n then (s, .done stNoContext [])
  else if len < 1000 ∨ 3600000 < len then (s, .done stRange [])
  else
    let c := toCtx n
    let s := s.modCtx c (fun x => { x with leaseMs := len })
    if m.f 2 1 = 1 then
      (s.modCtx c (fun x => { x with expired := false, leaseRun := ctxEnabled s c, leaseFrom := s.ft.run }), .done stOK [])
    else (s, .done stOK [])

/-- LEASE_SET. -/
def execLeaseSet (via : Path) (input : List Byte) (s : State) : Out := .next (mci s via 0xC051 input leaseSetH)

/-- One entry of the walk of R209: it loses the context's identities. The counts are of identities removed and lines
poisoned. -/
def walkEntry (c : Ctx) (a : State × Nat × Nat) (d : Nat × DirEntry) : State × Nat × Nat :=
  let s := a.1
  let dev := d.1 * 64
  let mine := idOfCtx s c
  let here := (d.2.sharers ++ d.2.targets).filter mine
  if here.isEmpty then a else
  let n := a.2.1 + here.length
  match d.2.st with
  | .exclusive => (putDir (poisonDev s dev) dev none, n, a.2.2 + 1)
  | .shared =>
    let left := d.2.sharers.filter (fun x => !mine x)
    (putDir s dev (if left.isEmpty && !d.2.broad then none else some { d.2 with sharers := left }), n, a.2.2)
  | .recalling =>
    let e := { d.2 with sharers := d.2.sharers.filter (fun x => !mine x), targets := d.2.targets.filter (fun x => !mine x),
                        kept := d.2.kept.filter (fun x => !mine x) }
    let held := d.2.wasE && d.2.targets.any mine
    let s := if held then poisonDev s dev else s
    (if e.targets.isEmpty then endRecall s dev e else putDir s dev (some e), n, a.2.2 + b2n held)

/-- The walk of the directory for an expired context (R209 step 4). -/
def leaseWalk (s : State) (c : Ctx) : State × Nat × Nat := s.directory.foldl (walkEntry c) (s, 0, 0)

/-- Steps 2 to 4 of R209, with the drafts and handles that go, the identities removed and the lines poisoned. -/
def leaseActions (s : State) (c : Ctx) : State × List Nat :=
  let (s, drafts, handles) := dropHolds (decideUnpick s c 4 [] []) c (fun _ => true)
  let (s, ids, lines) := leaseWalk s c
  (retryEntries s, [drafts, handles, ids, lines])

/-- A lease reaches zero (R209): the event, then the steps. The event carries the counts of the steps that follow it. -/
def expireLease (s : State) (c : Ctx) : State :=
  let cues := ((allCues s).filter (fun (q : Nat × Cue) => q.2.ctx == c)).length
  let s := s.modCtx c (fun x => { x with expired := true, leaseRun := false })
  let counts := (leaseActions s c).2.flatMap w1
  (leaseActions (raise s evLeaseExpired [c] (w1 c.val ++ w1 (s.ctx c).leaseMs ++ w1 cues ++ counts)) c).1

/-- LEASE_EXPIRY (R209). -/
def execLeaseExpiry (c : Ctx) (s : State) : Out :=
  ifApplies ((s.ctx c).leaseRun && !(s.ctx c).expired) s (expireLease s c)

end Sys2Proof.Machine
end

