-- ==== Sys2Proof/Machine/Links.lean ====
section
/-! DEFINITION. Links, functions and their resets (R322 to R325, R335, R348 to R352, R471, R475), MSI-X (R334), the sideband
ports' alert and endpoint ID (R386), and the decoder commit (R341). -/

namespace Sys2Proof.Machine

/-- The highest link rate of a mode, as PT_PORT_STATUS.RATE codes it (R459). -/
def modeRate (m : Nat) : Nat := [4, 4, 3, 4, 2, 2].getD m 4

/-- A port may run in Revas mode (R324): REVAS_EN and REVAS_OK, x16 only. -/
def revasAllowed (s : State) (p : Port) (width : Nat) : Bool :=
  s.fieldEff 0x10010 0 1 p.val == 1 && (s.port p).revasOk && width == 0

/-- The rate a link takes when it and its partner reach `rate` (R322 to R324, R459): 68-byte flits stop at 32 GT/s. -/
def cappedRate (s : State) (p : Port) (rate width : Nat) (flit256 partner : Bool) : Nat :=
  let r := min rate (modeRate s.pw.mode)
  let r := if r = 4 ∧ !(revasAllowed s p width && partner && flit256) then 3 else r
  if flit256 then r else min r 2

/-- The fused SVN floor rises when an image that commits has brought every port's Memory_Active to 1 (R447). -/
def raiseFloor (s : State) : State :=
  let v := (runningFw s).2.2.2
  if v.2 && allPorts.all (fun p => (s.port p).memActive) then { s with svnFloor := max s.svnFloor v.1 } else s

/-- Memory_Active of a port (R471): set at the later of the end of RELEASE and the enabling of CXL.mem. -/
def setActive (s : State) (p : Port) : State :=
  raiseFloor (s.modPort p (fun x => { x with memActive := x.memActive || (memEnabled x && decide (7 ≤ s.pw.stage)) }))

/-- A port can train (R457, R469, R475). -/
def canTrain (s : State) (p : Port) : Bool :=
  let x := s.port p
  !x.up && !x.perst && domOn s (60 + p.val) && decide (3 ≤ s.pw.stage) && !s.pw.thermalOff

/-- A link comes up (R323, R324, R354). -/
def linkUp (s : State) (p : Port) (rate : BitVec 3) (width : BitVec 2) (flit256 pbr bi echo : Bool) : State :=
  if !canTrain s p || rate = 0 || decide (4 < rate.toNat) || width = 3 then s else
  let s := if revasAllowed s p 0 then s.emit (.revasOffer p) else s
  let r := cappedRate s p rate.toNat width.toNat flit256 echo
  let s := s.modPort p (fun x => { x with
    up := true, rate := BitVec.ofNat 3 r, width := width, flit256 := flit256, pbr := flit256 && pbr, bi := flit256 && bi,
    retrain := false, recovery := [] })
  raise (setActive s p) evPortUp [] (w1 p.val ++ w1 r ++ w1 width.toNat ++ w1 (if flit256 then 256 else 68)
    ++ w1 (b2n (flit256 && pbr)) ++ w1 (b2n (r == 4)))

/-- LINK_UP. -/
def execLinkUp (p : Port) (rate : BitVec 3) (width : BitVec 2) (flit256 : Bool) (pbr : Bool) (bi : Bool) (revasEcho : Bool)
    (s : State) : Out := .next (linkUp s p rate width flit256 pbr bi revasEcho)

/-- The exchanges of a context end with a status (R348). -/
def endExchanges (s : State) (c : Ctx) (status : Nat) : State :=
  (s.chanCodec.filter (fun (x : Nat × CodecChan) => x.2.ctx == c)).foldl (fun s (x : Nat × CodecChan) =>
    let s := (x.2.jobs.filter (fun j => j.opcode == 7)).foldl (fun s j =>
      endFlight (unpinPages s (cmdPin c j.tag)) c j.tag 7 status (jobWords j)) s
    closeIfDone (s.modCodec x.1 (fun x => { x with jobs := x.jobs.filter (fun j => j.opcode != 7) })) x.1) s

/-- Bus Master Enable of a context's function ends its upstream traffic (R348). -/
def stopUpstream (s : State) (c : Ctx) : State := endExchanges (endSwaps s c 0x90) c 0x90

/-- Swaps and exchanges of a context in progress. -/
def swapCount (s : State) (c : Ctx) : Nat :=
  (s.upstream.filter (fun u => u.ctx == c)).length
    + (s.chanCodec.map (fun (x : Nat × CodecChan) => if x.2.ctx = c then (x.2.jobs.filter (fun j => j.opcode == 7)).length else 0)).sum

/-- Cues of a context, armed or running, that an unpick takes. -/
def cueCount (s : State) (c : Ctx) : Nat := ((allCues s).filter (fun (x : Nat × Cue) => x.2.ctx == c)).length

/-- The handling of R349 for one context, with the cause of EV_FUNC_RESET. -/
def vfReset (s : State) (c : Ctx) (cause : Nat) : State :=
  let cues := cueCount s c
  let swaps := swapCount s c
  let s := decideUnpick (stopUpstream s c) c 5 [] []
  let s := (resetRing s c).modCtx c (fun x => { x with bme := false, msixMask := 0xF, msixPend := 0, inReset := true })
  raise s evFuncReset [] (w1 (ctxPort c).val ++ w1 (c.val % 64 + 1) ++ w1 c.val ++ w1 cause ++ w1 cues ++ w1 swaps)

/-- VF_FUNCTION_LEVEL_RESET (R349). -/
def execVfFunctionLevelReset (c : Ctx) (s : State) : Out := ifApplies (ctxEnabled s c) s (vfReset s c 0)

/-- The contexts of a port's VFs from number `lo` up to `hi`, less one. -/
def portCtxs (p : Port) (lo hi : Nat) : List Ctx := (List.range (min hi 64)).filterMap (fun i => if lo ≤ i then some (toCtx (p.val * 64 + i)) else none)

/-- The number of VFs that a port has enabled. -/
def vfsOn (s : State) (p : Port) : Nat := if (s.port p).vfEnable then min (s.port p).numVfs 64 else 0

/-- A clear of VF Enable (a count of 0), or a reduction of NumVFs (R349): a context that is not enabled has no lease (R208). -/
def removeVfs (s : State) (p : Port) (n cause : Nat) : State :=
  let gone := portCtxs p n (vfsOn s p)
  gone.foldl (fun s c => (vfReset s c cause).modCtx c (fun x => { x with leaseRun := false })) (s.modPort p (fun x => { x with vfEnable := x.vfEnable && decide (0 < n), numVfs := n }))

/-- VF_ENABLE_CLEAR. -/
def execVfEnableClear (p : Port) (numVfs : BitVec 7) (s : State) : Out :=
  ifApplies (decide (numVfs.toNat < vfsOn s p)) s (removeVfs s p numVfs.toNat 1)

/-- VF Enable is set, or NumVFs raised (R335): each new context's lease starts at its full length (R208). -/
def addVfs (s : State) (p : Port) (n : Nat) : State :=
  let new := portCtxs p (vfsOn s p) n
  new.foldl (fun s c => s.modCtx c (fun x => if x.expired then x else { x with leaseRun := true, leaseFrom := s.ft.run }))
    (s.modPort p (fun x => { x with vfEnable := true, numVfs := n }))

/-- VF_ENABLE_SET. -/
def execVfEnableSet (p : Port) (numVfs : BitVec 7) (s : State) : Out :=
  ifApplies ((s.port p).up && decide (vfsOn s p < numVfs.toNat) && decide (numVfs.toNat ≤ 64)) s (addVfs s p numVfs.toNat)

/-- The results of a port's mailbox commands that still wait are taken away (R385). -/
def voidPath (p : Port) (w : Path × Word) : Path × Word :=
  match w.1 with
  | .mailbox q _ => if q = p then (w.1, 1) else w
  | _ => w

/-- Every waiting command of a port's mailboxes loses its result (R385). -/
def voidWaiters (s : State) (p : Port) : State :=
  let v := voidPath p
  let s : State := { s with
    lockWaits := s.lockWaits.map (fun (x : Nat × MciCall) => (x.1, { x.2 with tag := (v (x.2.via, x.2.tag)).2 }))
    pubs := s.pubs.map (fun (x : Nat × Nat × Path × Word) => (x.1, x.2.1, v x.2.2))
    windows := s.windows.map (fun (x : Nat × Window) => (x.1, { x.2 with waiter := x.2.waiter.map v }))
    chanCodec := s.chanCodec.map (fun (x : Nat × CodecChan) => (x.1, { x.2 with closing := x.2.closing.map v })) }
  let s := s.modRv (fun r => { r with
    unpicks := r.unpicks.map (fun (x : Nat × UnpickJob) => (x.1, { x.2 with waiters := x.2.waiters.map v }))
    resets := r.resets.map (fun (x : Nat × ResetJob) => (x.1, { x.2 with waiters := x.2.waiters.map v })) })
  s.modPw (fun w => { w with job := w.job.map (fun (j : ModeJob) => { j with waiter := j.waiter.map v }) })

/-- The handling of R350 for a port, with the cause that its contexts' events carry. -/
def pfReset (s : State) (p : Port) (cause : Nat) : State :=
  let s := removeVfs s p 0 cause
  let s := losePtm (s.modPort p (fun x => { x with ptmEnable := false })) p
  let box := fun (m : Mailbox) => { m with ctx := none, discard := m.discard || m.bg.isSome, dbInt := false, bgInt := false }
  voidWaiters (s.modPort p (fun x => { x with
    bme := false, msixMask := 0xFF, msixPend := 0, mbox0 := box x.mbox0, mbox1 := box x.mbox1, inReset := true })) p

/-- PF_FUNCTION_LEVEL_RESET. -/
def execPfFunctionLevelReset (p : Port) (s : State) : Out := ifApplies (s.port p).up s (pfReset s p 2)

/-- Loads of a port that wait for a page or a stack (R59, R65) are dropped (R351); the outcome counts them. -/
def dropLoads (s : State) (p : Port) : State × Nat :=
  let mine := fun (w : Waiting) => w.port == p && w.store.isNone && w.why != .entry
  ({ s with waits := s.waits.filter (fun w => !mine w) }, (s.waits.filter mine).length)

/-- Recalls outstanding toward an identity of the port that has no port up end at once (R351); the outcome counts them. -/
def endPortRecalls (s : State) (p : Port) : State × Nat :=
  let stuck := fun (t : SrcId) => (srcPort s t).isNone && (match mget? s.srcTab t.toNat with
    | some e => bit e.mask.toNat p.val
    | none => false)
  let es := s.directory.filter (fun (d : Nat × DirEntry) => d.2.st == .recalling && d.2.targets.any stuck)
  (es.foldl (fun s (d : Nat × DirEntry) => match dirAt s (d.1 * 64) with
    | some e => if e.st = .recalling then recallExpired s (d.1 * 64) e else s
    | none => s) s, es.length)

/-- A link goes down (R325, R351, R354, R471). -/
def linkDown (s : State) (p : Port) : State :=
  if !(s.port p).up then s else
  let n := vfsOn s p
  let s := s.modPort p (fun x => { x with
    up := false, rate := 0, width := 0, flit256 := false, pbr := false, bi := false, retrain := false, recovery := [],
    revasOk := true, memActive := false })
  let s := pfReset s p 3
  let (s, loads) := dropLoads s p
  let (s, recalls) := endPortRecalls s p
  raise s evPortDown [] (w1 p.val ++ w1 n ++ w1 loads ++ w1 recalls)

/-- LINK_DOWN. -/
def execLinkDown (p : Port) (s : State) : Out := .next (linkDown s p)

/-- PERST_ASSERT (R475). -/
def execPerstAssert (p : Port) (s : State) : Out := .next ((linkDown s p).modPort p (fun x => { x with perst := true }))

/-- PERST_RELEASE (R475). -/
def execPerstRelease (p : Port) (s : State) : Out := .next (s.modPort p (fun x => { x with perst := false }))

/-- Frames in one second. -/
def framesPerSecond : Nat := 976563

/-- A link enters Recovery (R325): Revas mode ends at a failed equalisation, or at more than four entries in a second. -/
def recoveryEntry (s : State) (p : Port) (failed : Bool) : State :=
  if !(s.port p).up then s else
  let rs := ((s.port p).recovery.filter (fun b => decide (s.ft.run < b + framesPerSecond))) ++ [s.ft.run]
  let s := s.modPort p (fun x => { x with retrain := true, recovery := rs })
  if (s.port p).rate = 4 ∧ (failed ∨ 4 < rs.length) then
    raise (s.modPort p (fun x => { x with revasOk := false })) evRevasFallback [] (w1 p.val ++ w1 (if failed then 0 else 1))
  else s

/-- LINK_RECOVERY_ENTRY. -/
def execLinkRecoveryEntry (p : Port) (equalisationFailed : Bool) (s : State) : Out := .next (recoveryEntry s p equalisationFailed)

/-- LINK_RETRAIN_COMPLETE (R325, R461): the link leaves Recovery at its new rate, and requests that waited are served. A directed
change to a higher rate needs no retrain asked for before. -/
def execLinkRetrainComplete (p : Port) (rate : BitVec 3) (s : State) : Out :=
  let x := s.port p
  ifApplies (x.up && (x.retrain || decide (x.rate.toNat < rate.toNat)) && rate != 0 && decide (rate.toNat ≤ 4)) s
    (serveWaits (setActive (s.modPort p (fun x => { x with
      retrain := false, rate := BitVec.ofNat 3 (cappedRate s p rate.toNat x.width.toNat x.flit256 true) })) p))

/-- MSI-X messages of a function that are pending and unmasked are sent once its Bus Master Enable is 1 (R334, R348). -/
def sendPending (s : State) (f : Fn) : State :=
  match f with
  | .pf p =>
    (List.range 8).foldl (fun s v =>
      let x := s.port p
      if x.bme && bit x.msixPend.toNat v && !bit x.msixMask.toNat v then
        (s.modPort p (fun x => { x with msixPend := BitVec.ofNat 8 (setBits x.msixPend.toNat v 1 0) })).emit (.msix f v)
      else s) s
  | .vf c =>
    (List.range 4).foldl (fun s v =>
      let x := s.ctx c
      if x.bme && bit x.msixPend.toNat v && !bit x.msixMask.toNat v then
        (s.modCtx c (fun x => { x with msixPend := BitVec.ofNat 4 (setBits x.msixPend.toNat v 1 0) })).emit (.msix f v)
      else s) s

/-- A function is present: its port's link is up, and a VF is enabled. -/
def fnPresent (s : State) (f : Fn) : Bool :=
  match f with
  | .pf p => (s.port p).up
  | .vf c => (s.port (ctxPort c)).up && ctxEnabled s c

/-- BUS_MASTER_ENABLE_SET (R348). -/
def execBusMasterEnableSet (f : Fn) (s : State) : Out :=
  ifApplies (fnPresent s f) s (match f with
    | .pf p => sendPending (s.modPort p (fun x => { x with bme := true })) f
    | .vf c => sendPending (s.modCtx c (fun x => { x with bme := true })) f)

/-- BUS_MASTER_ENABLE_CLEAR (R348). -/
def execBusMasterEnableClear (f : Fn) (s : State) : Out :=
  ifApplies (fnPresent s f) s (match f with
    | .pf p => s.modPort p (fun x => { x with bme := false })
    | .vf c => stopUpstream (s.modCtx c (fun x => { x with bme := false })) c)

/-- MSIX_UNMASK (R334). -/
def execMsixUnmask (f : Fn) (vector : Fin 8) (s : State) : Out :=
  ifApplies (fnPresent s f) s (match f with
    | .pf p => sendPending (s.modPort p (fun x => { x with msixMask := BitVec.ofNat 8 (setBits x.msixMask.toNat vector.val 1 0) })) f
    | .vf c =>
      if vector.val < 4 then sendPending (s.modCtx c (fun x => { x with msixMask := BitVec.ofNat 4 (setBits x.msixMask.toNat vector.val 1 0) })) f
      else s)

/-- FUNCTION_RESET_COMPLETE (R352). -/
def execFunctionResetComplete (f : Fn) (s : State) : Out :=
  .next (match f with
    | .pf p => s.modPort p (fun x => { x with inReset := false })
    | .vf c => s.modCtx c (fun x => { x with inReset := false }))

/-- POISONED_TLP_TO_BAR (R346). -/
def execPoisonedTlpToBar (p : Port) (s : State) : Out :=
  ifApplies (s.port p).up s (setInt (s.modPort p (fun x => { x with aerPoison := true })) 0 6)

/-- ENDPOINT_ID_ASSIGNMENT (R386); the null endpoint ID takes the port's away. -/
def execEndpointIdAssignment (n : Fin 2) (eid : BitVec 8) (s : State) : Out :=
  ifApplies (stewardHears s (.sideband n)) s
    { s with eids := if eid = 0 then mdel s.eids n.val else mput s.eids n.val eid }

/-- SIDEBAND_ALERT_REPEAT (R386). -/
def execSidebandAlertRepeat (n : Fin 2) (s : State) : Out :=
  ifApplies (mgmtSummary s != 0 && s.fieldOf 0xA0000 n.val 1 == 1 && s.fieldOf 0xA0000 (2 + n.val) 1 == 1) s (s.emit (.alert n))

/-- DECODER_COMMIT_WRITE (R341). -/
def execDecoderCommitWrite (c : Ctx) (value : Word) (s : State) : Out :=
  ifApplies (ctxEnabled s c && bit value.toNat 0) s (stageCommit s c)

/-- Whether a decoder's own checks hold (R341): 0, or its error code. -/
def decCheck (d : Decoder) : Nat :=
  let w := decWays d
  if d.base.toNat % (unitBytes * w) ≠ 0 ∨ d.size.toNat % (unitBytes * w) ≠ 0 ∨ d.dpa.toNat % unitBytes ≠ 0 then 1
  else if 0x800000000000 < d.dpa.toNat + d.size.toNat / w then 3
  else if w ≤ decPos d then 4
  else 0

/-- Two decoders of a list overlap in HPA. -/
def decOverlap : List Decoder → Bool
  | [] => false
  | d :: ds => ds.any (fun e => runsMeet d.base.toNat d.size.toNat e.base.toNat e.size.toNat) || decOverlap ds

/-- The check of a staged set (R341): 0, or the error code of the first check that fails. -/
def stagedCheck (m : AMap Decoder) : Nat :=
  let ds := (m.map (·.2)).filter decOn
  match (ds.map decCheck).find? (fun n => n != 0) with
  | some n => n
  | none => if decOverlap ds then 2 else 0

/-- A decoder commit of a context (R341). -/
def commitDecoders (s : State) (c : Ctx) : State :=
  let e := stagedCheck (s.ctx c).staged
  if e ≠ 0 then s.modCtx c (fun x => { x with decDue := false, decError := true, decCode := BitVec.ofNat 4 e })
  else
    let s := s.modCtx c (fun x => { x with
      decDue := false, decError := false, decCode := 0, committed := x.staged, decGen := x.decGen + 1, decBusy := true })
    commitWindows (commitGrants s c) c

/-- The commits that fall due at a boundary: one that waits for the previous one is put off. -/
def boundaryCommits (s : State) : State :=
  s.ctxs.foldl (fun s (x : Nat × CtxState) =>
    let y := s.ctx (toCtx x.1)
    if y.decDue && !y.decBusy then commitDecoders s (toCtx x.1) else s) s

/-- A request of a context accepted under an earlier generation is outstanding. -/
def olderRequests (s : State) (c : Ctx) : Bool :=
  let old := fun (h : Sender) => h.ctx == c && h.gen != (s.ctx c).decGen
  s.waits.any (fun w => old w.sender)
    || s.directory.any (fun (d : Nat × DirEntry) => d.2.queue.any (fun q => q.sender?.any old))

/-- DECODER_COMMIT_COMPLETE (R341). -/
def execDecoderCommitComplete (c : Ctx) (s : State) : Out :=
  ifApplies ((s.ctx c).decBusy && !olderRequests s c) s (s.modCtx c (fun x => { x with decBusy := false }))

/-- The commit of the source-identity table (R337). -/
def commitSources (s : State) : State :=
  if s.srcDue then { s with srcTab := s.srcStaged, srcDue := false, srcGen := s.srcGen + 1 } else s

end Sys2Proof.Machine
end

