-- ==== Sys2Proof/Machine/Keys.lean ====
section
/-! DEFINITION. Key slots and their commands (R431 to R433, R437 to R441), the IDE keys (R442) and the firmware store (R443 to
R447). -/

namespace Sys2Proof.Machine

def evKeyAwaiting : EvDef := ⟨12, 0, some .informational, some 0⟩
def evKeyMismatch : EvDef := ⟨12, 1, none, some 1⟩
def evFwRejected : EvDef := ⟨12, 2, some .informational, some 2⟩

/-- Objects that use a slot (R433, KY_SLOT_USERS). -/
def slotUsers (s : State) (n : Nat) : Nat := (s.objects.filter (fun (o : Nat × Obj) => o.2.slot == n)).length

/-- MX40-WRAP in ASCII. -/
def wrapLabel : List Byte := [0x4D, 0x58, 0x34, 0x30, 0x2D, 0x57, 0x52, 0x41, 0x50]

/-- The key of a WRAPPED field (R439). -/
def unwrapKey (kek : List Byte) (c : Ctx) (slot kind obj : Nat) (wrapped : List Byte) : List Byte :=
  let wk := Config.shake256 (kek ++ wrapLabel ++ leBytes 2 c.val ++ leBytes 2 slot ++ leBytes 1 kind ++ leBytes 4 obj) 32
  (List.range 4).flatMap (fun i => Config.aesDecrypt wk ((wrapped.drop (16 * i)).take 16))

/-- The check value of a key (R439). -/
def keyCheck (key : List Byte) : Word := BitVec.ofNat 32 (leNat ((Config.aesEncrypt (key.take 32) (List.replicate 16 0)).take 4))

/-- A slot that is not EMPTY is AWAITING. -/
def slotAwaiting (x : KeySlot) : Bool := x.key.isNone

/-- The promotion of Held objects whose slots are LOADED, in ascending object order (R159, R437). -/
def promoteHeld (s : State) (which : Obj → Bool) : State :=
  s.objects.foldl (fun s (o : Nat × Obj) =>
    if o.2.cls == .held && which o.2 && slotLoaded s o.2.slot then promotePages s o.1 none 0 o.2.pages else s) s

/-- A slot becomes LOADED from AWAITING and releases what R437 kept. -/
def loadAwaiting (s : State) (n : Nat) (x : KeySlot) (key : BitVec 512) : State :=
  promoteHeld { s with keys := mput s.keys n { x with key := some key } } (fun o => o.slot == n)

/-- An object holds a frame or a flash unit, for a page of any of its contents (R440). -/
def holdsStorage (s : State) (n : Nat) : Bool :=
  s.pages.any (fun (p : Nat × Page) => (contentsOf s n).contains (pidContent p.1)
    && (!p.2.frames.isEmpty || p.2.home.isSome || p.2.newHome.isSome))

/-- The rows of R440 for a slot that is EMPTY or LOADED for this context. -/
def keyChecks (s : State) (c : Ctx) (n kind obj : Nat) (key : List Byte) (check : Word) : Nat :=
  let x := mget? s.keys n
  let o := objAt s obj
  let owned := fun (f : KeySlot → Bool) => s.keys.any (fun (k : Nat × KeySlot) => k.1 != n && f k.2)
  if kind = 1 && o.isNone then stNoObject
  else if kind = 1 && (o.map (·.owner)) != some c then stNotOwner
  else if key.take 32 == key.drop 32 then stRange
  else if (x.map (·.check)) == some check then stOK
  else if x.isSome && slotUsers s n != 0 then stBusy
  else if kind = 0 && owned (fun k => k.kind == 0 && k.ctx == some c) then stBusy
  else if kind = 1 && (holdsStorage s obj || owned (fun k => k.kind == 1 && k.object == obj)) then stBusy
  else stOK

/-- KEY_SET (R440): the rows in their order. -/
def keySet : Handler := fun s m =>
  match m.ctx with
  | none => (s, .done stNoContext [])
  | some c =>
    let n := m.f 0 2
    let kind := m.f 2 1
    let obj := if kind = 0 then 0 else m.f 4 4
    if n = 0 || 1023 < n then (s, .done stRange []) else
    match mget? s.keks c.val with
    | none => (s, .done stDenied [])
    | some kek =>
      let key := unwrapKey (leBytes 32 kek.toNat) c n kind obj ((m.input.drop 8).take 64)
      let check := keyCheck key
      let k := BitVec.ofNat 512 (leNat key)
      match mget? s.keys n with
      | some x =>
        if x.ctx ≠ some c || (slotAwaiting x && (x.kind != kind || x.object != obj)) then (s, .done stDenied [])
        else if slotAwaiting x then
          if x.check ≠ check then
            (raise s evKeyMismatch [c] (w1 c.val ++ w1 n ++ w1 kind ++ w1 obj), .done stDenied [])
          else (loadAwaiting s n x k, .done stOK [])
        else
          let st := keyChecks s c n kind obj key check
          if st ≠ stOK || x.check = check then (s, .done st []) else
          let s : State := { s with keys := mput s.keys n ⟨kind, some c, obj, check, some k⟩ }
          (if kind = 1 then s.modObj obj (fun o => { o with slot := n }) else s, .done stOK [])
      | none =>
        let st := keyChecks s c n kind obj key check
        if st ≠ stOK then (s, .done st []) else
        let s : State := { s with keys := mput s.keys n ⟨kind, some c, obj, check, some k⟩ }
        (if kind = 1 then s.modObj obj (fun o => { o with slot := n }) else s, .done stOK [])

/-- KEY_SET. -/
def execKeySet (via : Path) (input : List Byte) (s : State) : Out := .next (mci s via 0xC0C0 input keySet)

/-- KEY_CLEAR (R441). -/
def keyClear : Handler := fun s m =>
  let n := m.f 0 2
  if n = 0 || 1023 < n then (s, .done stRange []) else
  match mget? s.keys n with
  | some x =>
    if x.ctx ≠ m.ctx then (s, .done stDenied [])
    else if slotUsers s n ≠ 0 then (s, .done stBusy [])
    else ({ s with keys := mdel s.keys n }, .done stOK [])
  | none => (s, .done stOK [])

/-- KEY_CLEAR. -/
def execKeyClear (via : Path) (input : List Byte) (s : State) : Out := .next (mci s via 0xC0C1 input keyClear)

/-- Start-up ends with slots AWAITING (R453). -/
def reportAwaiting (s : State) : State :=
  let waiting := s.keys.filter (fun (k : Nat × KeySlot) => slotAwaiting k.2)
  match waiting.head? with
  | none => s
  | some k =>
    let ctxs := (List.range 512).map toCtx |>.filter (fun c => waiting.any (fun (k : Nat × KeySlot) => k.2.ctx == some c))
    let kept := s.objects.filter (fun (o : Nat × Obj) => o.2.slot != 0 && !slotLoaded s o.2.slot)
    let words := w1 waiting.length ++ w1 k.1 ++ wSat kept.length
    let s := setInt s 12 0
    let s := logAll s .informational .vendor evKeyAwaiting.code 0xFFFF words
    ctxs.foldl (fun s c => postEvent s evKeyAwaiting.code words c) s

/-- An IDE_KM or CXL_IDE_KM message is heard (R442): only in a secured session on the PF's DOE mailbox, for a stream and
sub-stream of R328. -/
def ideHeard (s : State) (m : IdeMsg) (cxl : Bool) : Bool :=
  m.secured && (s.port m.port).up && !(s.port m.port).inReset && decide (3 ≤ s.pw.stage) && s.aliasReady
    && (if cxl then m.stream.val == 0 else decide (m.stream.val ≤ 4)) && (ideSubs cxl).contains m.sub.val

/-- The stream of a message. -/
def ideOf (s : State) (m : IdeMsg) (cxl : Bool) : IdeStream := mget {} s.ide (ideKey m.port cxl m.stream.val m.tx)

/-- Changes the stream of a message. -/
def State.modIde (s : State) (m : IdeMsg) (cxl : Bool) (f : IdeStream → IdeStream) : State :=
  { s with ide := mmod {} s.ide (ideKey m.port cxl m.stream.val m.tx) f }

/-- The key number of a message: sub-stream and key set. -/
def ideKeyNo (m : IdeMsg) : Nat := m.sub.val * 2 + m.keySet.val

/-- An answer of the key management protocols: object, stream, status, and direction, sub-stream and key set. -/
def ideAnswer (s : State) (m : IdeMsg) (obj status : Nat) : State :=
  s.emit (.ideKm m.port (leBytes 1 obj ++ leBytes 1 m.stream.val ++ leBytes 1 status
    ++ leBytes 1 (m.keySet.val + 2 * b2n m.tx + 16 * m.sub.val)))

/-- KEY_PROG and CXL_KEY_PROG (R442): refused for the active key set. -/
def ideProg (s : State) (m : IdeMsg) (cxl : Bool) : State :=
  if !ideHeard s m cxl then s
  else if mget? (ideOf s m cxl).active m.sub.val == some m.keySet.val then ideAnswer s m 3 4
  else ideAnswer (s.modIde m cxl (fun x => { x with keys := mput x.keys (ideKeyNo m) m.key })) m 3 0

/-- K_SET_GO and CXL_K_SET_GO (R328, R442): the sub-stream uses a key set that has been programmed. -/
def ideGo (s : State) (m : IdeMsg) (cxl : Bool) : State :=
  if !ideHeard s m cxl then s
  else if !mhas (ideOf s m cxl).keys (ideKeyNo m) then ideAnswer s m 6 4
  else ideAnswer (s.modIde m cxl (fun x => { x with active := mput x.active m.sub.val m.keySet.val })) m 6 0

/-- K_SET_STOP and CXL_K_SET_STOP (R442): the key set is used no longer. -/
def ideStop (s : State) (m : IdeMsg) (cxl : Bool) : State :=
  if !ideHeard s m cxl then s
  else ideAnswer (s.modIde m cxl (fun x =>
    if mget? x.active m.sub.val == some m.keySet.val then { x with active := mdel x.active m.sub.val } else x)) m 6 0

/-- QUERY and CXL_QUERY (R442). -/
def ideQuery (s : State) (m : IdeMsg) (cxl : Bool) : State := if ideHeard s m cxl then ideAnswer s m 1 0 else s

/-- IDE_KM QUERY. -/
def execIdeKmQuery (m : IdeMsg) (s : State) : Out := .next (ideQuery s m false)
/-- IDE_KM KEY_PROG. -/
def execIdeKmKeyProg (m : IdeMsg) (s : State) : Out := .next (ideProg s m false)
/-- IDE_KM K_SET_GO. -/
def execIdeKmKSetGo (m : IdeMsg) (s : State) : Out := .next (ideGo s m false)
/-- IDE_KM K_SET_STOP. -/
def execIdeKmKSetStop (m : IdeMsg) (s : State) : Out := .next (ideStop s m false)
/-- CXL_QUERY. -/
def execCxlQuery (m : IdeMsg) (s : State) : Out := .next (ideQuery s m true)
/-- CXL_KEY_PROG. -/
def execCxlKeyProg (m : IdeMsg) (s : State) : Out := .next (ideProg s m true)
/-- CXL_K_SET_GO. -/
def execCxlKSetGo (m : IdeMsg) (s : State) : Out := .next (ideGo s m true)
/-- CXL_K_SET_STOP. -/
def execCxlKSetStop (m : IdeMsg) (s : State) : Out := .next (ideStop s m true)

/-- CXL_GETKEY (R442): a locally generated key, for the receive direction only. -/
def getKey (s : State) (m : IdeMsg) : State :=
  if !ideHeard s m true then s
  else if m.tx then ideAnswer s m 8 4
  else
    let key := Config.random 32 s.free
    s.tick.emit (.ideKm m.port (leBytes 1 8 ++ leBytes 1 m.stream.val ++ leBytes 1 0 ++ leBytes 1 (m.keySet.val + 16 * m.sub.val)
      ++ (List.range 32).map (fun i => key.getD i 0)))

/-- CXL_GETKEY. -/
def execCxlGetkey (m : IdeMsg) (s : State) : Out := .next (getKey s m)

/-- A ROM key of a KEY_ID and role that is not revoked exists (R443). -/
def romKeyGood (s : State) (cartridge : Bool) (keyId : DWord) : Bool :=
  (List.finRange 8).any (fun i => Config.romKeyId i == keyId && Config.romCartridge i == cartridge && !s.revoked.contains i.val)

/-- The cause with which an image fails R445 (R453), none when it is accepted. -/
def imageCause (s : State) (img : List Byte) : Option Nat :=
  let f := bfield img
  let size := f 16 4
  let keyId := BitVec.ofNat 64 (f 24 8)
  if f 0 4 ≠ 0x57464C4D || f 4 2 ≠ 1 || f 6 2 ≠ 64 || 2 ≤ f 15 1 || f 21 3 ≠ 0 || f 32 32 ≠ 0
    || size < 65536 || 16777216 < size || size % 4096 ≠ 0 || img.length ≠ 64 + size + 29792 then some 0
  else if f 20 1 ≠ 0xB1 then some 1
  else if f 14 1 < s.svnFloor || 63 < f 14 1 then some 2
  else if !romKeyGood s false keyId then some 3
  else if !Config.slhVerify keyId (img.take (64 + size)) (img.drop (64 + size)) then some 4
  else none

/-- The image that bytes spell (R444). -/
def imageOf (img : List Byte) : FwImage :=
  let f := bfield img
  { major := f 8 2, minor := f 10 2, patch := f 12 2, svn := f 14 1, commit := bit (f 15 1) 0, bytes := img }

/-- A firmware command is heard (R384, R445): on a PF mailbox while the steward runs, on a sideband port only while start-up is
held with cause FW_IMAGE. -/
def fwHears (s : State) (via : Path) : Bool :=
  match via with
  | .mailbox .. => stewardHears s via
  | .sideband n => s.fieldOf 0xA0000 n.val 1 == 1 && s.pw.held && s.pw.cause == 1
  | .ring _ => false

/-- The answer of a firmware command. -/
def fwAnswer (s : State) (via : Path) (rc : Nat) : State :=
  match via with
  | .mailbox p b => cxlAnswer s p b rc []
  | .sideband _ => s.emit (.mailbox via (BitVec.ofNat 16 rc) [])
  | .ring _ => s

/-- The End transfer (R446): the staged image is checked, and an accepted one is written over the store in the background. -/
def endTransfer (s : State) (via : Path) (img : List Byte) : State :=
  let s : State := { s with fwXfer := none }
  match imageCause s img with
  | some cause =>
    let f := bfield img
    fwAnswer (raise s evFwRejected [] (w1 cause ++ w1 (f 8 2) ++ w1 (f 10 2) ++ w1 (f 14 1))) via 2
  | none =>
    let s : State := { s with fwWrite := some (imageOf img, via) }
    let s := match via with
      | .mailbox p b => s.modMbox p b (fun m => { m with bg := some { opcode := 0x0201 } })
      | _ => s
    fwAnswer s via 1

/-- A mailbox of the path holds a background command (R383). -/
def pathBusy (s : State) (via : Path) : Bool :=
  match via with
  | .mailbox p b => (mbox s p b).bg.isSome
  | _ => false

/-- Transfer FW (R446): actions 0 full, 1 initiate, 2 continue, 3 end, 4 abort; offsets in units of 128 bytes. -/
def transferFw (s : State) (via : Path) (action slot : BitVec 8) (offset : Word) (data : List Byte) : State :=
  if !fwHears s via then s
  else if 4 < action.toNat then fwAnswer s via 2
  else if action = 4 then fwAnswer { s with fwXfer := none } via 0
  else if slot ≠ 1 then fwAnswer s via 0xB
  else if s.fwWrite.isSome || pathBusy s via then fwAnswer s via 6
  else if action = 0 then endTransfer s via data
  else if action = 1 then
    if s.fwXfer.isSome then fwAnswer s via 8
    else if offset ≠ 0 then fwAnswer s via 9
    else fwAnswer { s with fwXfer := some data } via 0
  else match s.fwXfer with
    | none => fwAnswer s via 9
    | some got =>
      if offset.toNat * 128 ≠ got.length || 0x2000000 < got.length + data.length then fwAnswer s via 9
      else if action = 2 then fwAnswer { s with fwXfer := some (got ++ data) } via 0
      else endTransfer s via (got ++ data)

/-- TRANSFER_FW. -/
def execTransferFw (via : Path) (action : BitVec 8) (slot : BitVec 8) (offset : Word) (data : List Byte) (s : State) : Out :=
  .next (transferFw s via action slot offset data)

/-- ACTIVATE_FW (R446): action 0 online, 1 offline. -/
def execActivateFw (via : Path) (action : BitVec 8) (slot : BitVec 8) (s : State) : Out :=
  .next (if !fwHears s via then s
    else if action ≠ 1 then fwAnswer s via 2
    else if slot ≠ 1 then fwAnswer s via 0xB
    else fwAnswer s via 0)

/-- The accepted image has been written (R446). -/
def storeWritten (s : State) : State :=
  match s.fwWrite with
  | none => s
  | some (img, via) =>
    let s : State := { s with fwStore := some img, fwBad := false, fwWrite := none }
    match via with
    | .mailbox p b => s.modMbox p b (fun m => { m with bg := m.bg.map (fun g => { g with done := true }) })
    | .sideband _ => s.emit (.mailbox via 0 [])
    | .ring _ => s

/-- FW_STORE_WRITE_DONE (R446). -/
def execFwStoreWriteDone (s : State) : Out := .next (storeWritten s)

end Sys2Proof.Machine
end

