-- ==== Sys2Proof/Machine/Spdm.lean ====
section
/-! DEFINITION. The SPDM responder (R449 to R452) and the vendor requests that set and clear a context's key-encryption key
(R438). The layouts are those of DSP0274, which the spec names and does not reproduce. -/

namespace Sys2Proof.Machine

/-- The number of a channel: DOE mailboxes 0 to 7, sideband ports 8 and 9. -/
def chanNo (c : SpdmChan) : Nat := match c with | .doe p => p.val | .sideband n => 8 + n.val

/-- A channel's connection. -/
def State.conn (s : State) (c : SpdmChan) : SpdmConn := mget {} s.spdm (chanNo c)

/-- Changes a channel's connection. -/
def State.modConn (s : State) (c : SpdmChan) (f : SpdmConn → SpdmConn) : State :=
  { s with spdm := mmod {} s.spdm (chanNo c) f }

/-- The sessions that a channel may hold (R450). -/
def sessionLimit (c : SpdmChan) : Nat := match c with | .doe _ => 4 | .sideband _ => 2

/-- Start-up is held with cause FW_IMAGE (R445). -/
def fwHeld (s : State) : Bool := s.pw.held && s.pw.cause == 1

/-- The responder answers on a channel (R386, R445, R452): the Alias certificate has been signed, or start-up is held with cause
FW_IMAGE and the channel is a sideband port. -/
def spdmHears (s : State) (c : SpdmChan) : Bool :=
  match c with
  | .doe p => s.aliasReady && (s.port p).up && !(s.port p).inReset
  | .sideband n => s.fieldOf 0xA0000 n.val 1 == 1 && (s.aliasReady || fwHeld s)

/-- The request code of a message. -/
def reqCode (body : List Byte) : Nat := bfield body 1 1

/-- An ERROR response. -/
def spdmError (code data : Nat) : List Byte := leBytes 1 0x14 ++ leBytes 1 0x7F ++ leBytes 1 code ++ leBytes 1 data

/-- Sends a response; one longer than the requester's transfer size is given in chunks. -/
def spdmReply (s : State) (c : SpdmChan) (session : Option Word) (body : List Byte) : State :=
  if (s.conn c).size ≠ 0 && decide ((s.conn c).size < body.length) then
    (s.modConn c (fun x => { x with pend := body, getSeq := 0 })).emit (.spdm c session (spdmError 0x0F 0 ++ [0]))
  else s.emit (.spdm c session body)

/-- The header of a response to a request (version 1.4). -/
def spdmHead (req p1 p2 : Nat) : List Byte := leBytes 1 0x14 ++ leBytes 1 (req - 0x80) ++ leBytes 1 p1 ++ leBytes 1 p2

/-- A message in a session names one that is open; the handshake of R450 is never in the clear. -/
def sessionOpen (s : State) (m : SpdmMsg) : Bool :=
  match m.session with
  | some id => mhas (s.conn m.chan).sessions id.toNat
  | none => true

/-- A message comes in a session whose handshake has finished. -/
def inSession (s : State) (m : SpdmMsg) : Bool :=
  match m.session with
  | some id => mget? (s.conn m.chan).sessions id.toNat == some 1
  | none => false

/-- The order of the connection's requests: version, capabilities, algorithms, then the rest. -/
def connStage (x : SpdmConn) (code : Nat) : Bool :=
  if code = 0x84 then true
  else if code = 0xE1 then x.version
  else if code = 0xE3 then x.version && x.caps
  else x.version && x.caps && x.algs

/-- The capability flags of R450: CERT, CHAL, MEAS with signature, ENCRYPT, MAC, KEY_EX, HBEAT, KEY_UPD, CHUNK. -/
def spdmFlags : Nat := 0x262D6

/-- GET_VERSION: version 1.4; the connection starts anew. -/
def doVersion (s : State) (m : SpdmMsg) : State :=
  spdmReply (s.modConn m.chan (fun _ => { version := true, transcript := m.body })) m.chan m.session
    [0x10, 0x04, 0, 0, 0, 1, 0x00, 0x14]

/-- GET_CAPABILITIES. -/
def doCapabilities (s : State) (m : SpdmMsg) : State :=
  spdmReply (s.modConn m.chan (fun x => { x with caps := true, size := bfield m.body 12 4, transcript := x.transcript ++ m.body }))
    m.chan m.session (spdmHead 0xE1 0 0 ++ [0, (Config.spdmFields 0xE1 []).getD 0 0, 0, 0] ++ leBytes 4 spdmFlags
      ++ (List.range 8).map (fun i => (Config.spdmFields 0xE1 []).getD (i + 1) 0))

/-- NEGOTIATE_ALGORITHMS. -/
def doAlgorithms (s : State) (m : SpdmMsg) : State :=
  spdmReply (s.modConn m.chan (fun x => { x with algs := true, transcript := x.transcript ++ m.body })) m.chan m.session
    (spdmHead 0xE3 0 0 ++ Config.spdmFields 0xE3 m.body)

/-- GET_DIGESTS: the digest of the chain of slot 0, the only one (R449). -/
def doDigests (s : State) (m : SpdmMsg) : State :=
  spdmReply s m.chan m.session (spdmHead 0x81 0 1 ++ Config.sha384 (Config.certChain 0))

/-- GET_CERTIFICATE: a portion of the chain of slot 0; slots 1 to 7 are empty (R449). -/
def doCertificate (s : State) (m : SpdmMsg) : State :=
  let slot := bfield m.body 2 1 % 16
  let off := bfield m.body 4 2
  let chain := Config.certChain 0
  if slot ≠ 0 || chain.length < off then spdmReply s m.chan m.session (spdmError 1 0) else
  let part := (chain.drop off).take (bfield m.body 6 2)
  spdmReply s m.chan m.session (spdmHead 0x82 0 0 ++ leBytes 2 part.length ++ leBytes 2 (chain.length - off - part.length) ++ part)

/-- The bytes of the image that runs (R444). -/
def runningBytes (s : State) : List Byte :=
  match s.fwRun with
  | some i => i.bytes
  | none => Config.fwImage

/-- The measurement of an index (R451): SHA-384 of the boot ROM and of the accepted image, versions, and the floor with the
revocation fuses. -/
def measurement (s : State) (i : Nat) : List Byte :=
  let v := runningFw s
  let img := runningBytes s
  let val : List Byte := match i with
    | 1 => Config.sha384 Config.bootRom
    | 2 => Config.sha384 (img.take (64 + bfield img 16 4))
    | 3 => leBytes 2 v.1 ++ leBytes 2 v.2.1 ++ leBytes 2 v.2.2.1 ++ leBytes 1 v.2.2.2.1
    | _ => leBytes 1 s.svnFloor ++ leBytes 1 (s.revoked.foldl (fun m k => m + 2 ^ k) 0)
  let kind := match i with | 1 => 0 | 2 => 1 | _ => 0x83
  leBytes 1 i ++ leBytes 1 1 ++ leBytes 2 (val.length + 3) ++ leBytes 1 kind ++ leBytes 2 val.length ++ val

/-- The indices that GET_MEASUREMENTS may report (R445, R451). -/
def measIndices (s : State) : List Nat := if fwHeld s then [1] else [1, 2, 3, 4]

/-- The body of MEASUREMENTS without its signature. -/
def measBody (s : State) (body : List Byte) (nonce : List Byte) : List Byte :=
  let op := bfield body 3 1
  let ix := if op = 0 then [] else if op = 0xFF then measIndices s else [op]
  let recs := ix.flatMap (measurement s)
  spdmHead 0xE0 (if op = 0 then (measIndices s).length else 0) 0 ++ leBytes 1 ix.length ++ leBytes 3 recs.length ++ recs ++ nonce ++ [0, 0]

/-- A request that a signature answers waits its turn (R452): ResponseNotReady, RDTExponent 21, RDTM 4. -/
def queueSign (s : State) (m : SpdmMsg) : State :=
  let job : SignJob := { chan := m.chan, session := m.session, body := m.body }
  let s : State := if s.signQueue.contains job then s else { s with signQueue := s.signQueue ++ [job] }
  spdmReply s m.chan m.session (spdmError 0x42 0 ++ leBytes 1 21 ++ leBytes 1 (reqCode m.body) ++ [0] ++ leBytes 1 4)

/-- CHALLENGE: signed (R450); slot 0 only. -/
def doChallenge (s : State) (m : SpdmMsg) : State :=
  if bfield m.body 2 1 % 16 ≠ 0 then spdmReply s m.chan m.session (spdmError 1 0) else queueSign s m

/-- GET_MEASUREMENTS (R451): with a signature if the request asks for one. -/
def doMeasurements (s : State) (m : SpdmMsg) : State :=
  let op := bfield m.body 3 1
  if op ≠ 0 && op ≠ 0xFF && !(measIndices s).contains op then spdmReply s m.chan m.session (spdmError 1 0)
  else if bit (bfield m.body 2 1) 0 then
    if fwHeld s then spdmReply s m.chan m.session (spdmError 7 0xE0) else queueSign s m
  else spdmReply s.tick m.chan m.session (measBody s m.body ((List.range 32).map (fun i => (Config.random 32 s.free).getD i 0)))

/-- Sessions of a channel, with those whose KEY_EXCHANGE waits for its signature. -/
def sessionCount (s : State) (c : SpdmChan) : Nat :=
  (s.conn c).sessions.length + (s.signQueue.filter (fun j => j.chan == c && reqCode j.body == 0xE4)).length

/-- KEY_EXCHANGE: signed; at most 4 sessions on a DOE mailbox and 2 on a sideband port (R450). -/
def doKeyExchange (s : State) (m : SpdmMsg) : State :=
  let job : SignJob := { chan := m.chan, session := m.session, body := m.body }
  if m.session.isSome || fwHeld s then spdmReply s m.chan m.session (spdmError 4 0)
  else if bfield m.body 3 1 ≠ 0 then spdmReply s m.chan m.session (spdmError 1 0)
  else if sessionLimit m.chan ≤ sessionCount s m.chan && !s.signQueue.contains job then spdmReply s m.chan m.session (spdmError 0x0A 0)
  else queueSign s m

/-- FINISH ends the handshake of its session. -/
def doFinish (s : State) (m : SpdmMsg) : State :=
  match m.session with
  | none => spdmReply s m.chan none (spdmError 0x0B 0)
  | some id =>
    if mget? (s.conn m.chan).sessions id.toNat ≠ some 0 then spdmReply s m.chan m.session (spdmError 4 0)
    else if !Config.finishOk (s.conn m.chan).transcript m.body then
      spdmReply (s.modConn m.chan (fun x => { x with sessions := mdel x.sessions id.toNat })) m.chan m.session (spdmError 6 0)
    else spdmReply (s.modConn m.chan (fun x => { x with sessions := mput x.sessions id.toNat 1 })) m.chan m.session (spdmHead 0xE5 0 0)

/-- A request that a session alone carries. -/
def sessionReply (s : State) (m : SpdmMsg) (p1 p2 : Nat) : State :=
  if inSession s m then spdmReply s m.chan m.session (spdmHead (reqCode m.body) p1 p2)
  else spdmReply s m.chan m.session (spdmError 0x0B 0)

/-- HEARTBEAT. -/
def doHeartbeat (s : State) (m : SpdmMsg) : State := sessionReply s m 0 0

/-- KEY_UPDATE. -/
def doKeyUpdate (s : State) (m : SpdmMsg) : State := sessionReply s m (bfield m.body 2 1) (bfield m.body 3 1)

/-- END_SESSION. -/
def doEndSession (s : State) (m : SpdmMsg) : State :=
  let t := sessionReply s m 0 0
  match inSession s m, m.session with
  | true, some id => t.modConn m.chan (fun x => { x with sessions := mdel x.sessions id.toNat })
  | _, _ => t

/-- CHUNK_GET: the next part of the response that is given in chunks. -/
def doChunkGet (s : State) (m : SpdmMsg) : State :=
  let x := s.conn m.chan
  let seq := bfield m.body 4 2
  if x.pend.isEmpty || seq ≠ x.getSeq then spdmReply s m.chan m.session (spdmError 1 0) else
  let n := x.size - 12
  let part := x.pend.take n
  let rest := x.pend.drop n
  let first : List Byte := if seq = 0 then leBytes 4 x.pend.length else []
  (s.modConn m.chan (fun x => { x with pend := rest, getSeq := seq + 1 })).emit (.spdm m.chan m.session
    (spdmHead 0x86 (b2n rest.isEmpty) 0 ++ leBytes 2 seq ++ [0, 0] ++ leBytes 4 part.length ++ first ++ part))

/-- The vendor request's payload (R438): PCI-SIG StandardID 3 and Vendor ID 0x1F3C. -/
def vendorPayload (body : List Byte) : Option (List Byte) :=
  if bfield body 4 2 = 3 && bfield body 6 1 = 2 && bfield body 7 2 = 0x1F3C && 11 + bfield body 9 2 ≤ body.length then
    some ((body.drop 11).take (bfield body 9 2))
  else none

/-- KEK_SET and KEK_CLEAR (R438): status 0 OK, 1 RANGE, 2 REFUSED. -/
def kekStatus (s : State) (m : SpdmMsg) (pay : List Byte) : Nat :=
  let cmd := bfield pay 0 2
  if (match m.chan with | .doe _ => true | .sideband _ => false) || !inSession s m then 2
  else if pay.length ≠ 36 || (cmd ≠ 1 && cmd ≠ 2) then 2
  else if 511 < bfield pay 2 2 then 1
  else if cmd = 2 && bfield pay 4 32 ≠ 0 then 2
  else 0

/-- A VENDOR_DEFINED_REQUEST. -/
def doVendor (s : State) (m : SpdmMsg) : State :=
  match vendorPayload m.body with
  | none => spdmReply s m.chan m.session (spdmError 7 0xFE)
  | some pay =>
    let st := kekStatus s m pay
    let c := bfield pay 2 2
    let s : State := if st ≠ 0 then s
      else if bfield pay 0 2 = 1 then { s with keks := mput s.keks c (BitVec.ofNat 256 (bfield pay 4 32)) }
      else { s with keks := mdel s.keks c }
    spdmReply s m.chan m.session (spdmHead 0xFE 0 0 ++ leBytes 2 3 ++ leBytes 1 2 ++ leBytes 2 0x1F3C ++ leBytes 2 2 ++ leBytes 2 st)

/-- One whole request, by its code; a request outside R450 is not supported. -/
def spdmHandle (s : State) (m : SpdmMsg) : State :=
  let code := reqCode m.body
  if !sessionOpen s m then spdmReply s m.chan none (spdmError 2 0)
  else if code ≠ 0x84 && bfield m.body 0 1 ≠ 0x14 then spdmReply s m.chan m.session (spdmError 0x41 0)
  else if !connStage (s.conn m.chan) code then spdmReply s m.chan m.session (spdmError 4 0)
  else match code with
    | 0x84 => doVersion s m
    | 0xE1 => doCapabilities s m
    | 0xE3 => doAlgorithms s m
    | 0x81 => doDigests s m
    | 0x82 => doCertificate s m
    | 0x83 => doChallenge s m
    | 0xE0 => doMeasurements s m
    | 0xE4 => doKeyExchange s m
    | 0xE5 => doFinish s m
    | 0xE8 => doHeartbeat s m
    | 0xE9 => doKeyUpdate s m
    | 0xEC => doEndSession s m
    | 0x86 => doChunkGet s m
    | 0xFE => doVendor s m
    | _ => spdmReply s m.chan m.session (spdmError 7 code)

/-- CHUNK_SEND: the parts of a large request in their order; with the last the request is handled. -/
def doChunkSend (s : State) (m : SpdmMsg) : State :=
  let x := s.conn m.chan
  let seq := bfield m.body 4 2
  let n := bfield m.body 8 4
  let part := (m.body.drop (if seq = 0 then 16 else 12)).take n
  if !sessionOpen s m then spdmReply s m.chan none (spdmError 2 0)
  else if !connStage x 0x85 then spdmReply s m.chan m.session (spdmError 4 0)
  else if (seq ≠ 0 && seq ≠ x.chunkSeq) || part.length ≠ n then
    spdmReply (s.modConn m.chan (fun x => { x with chunk := [], chunkSeq := 0 })) m.chan m.session (spdmError 1 0)
  else
    let all := (if seq = 0 then [] else x.chunk) ++ part
    let last := bit (bfield m.body 2 1) 0
    let s := s.modConn m.chan (fun x => { x with chunk := if last then [] else all, chunkSeq := if last then 0 else seq + 1 })
    let s := s.emit (.spdm m.chan m.session (spdmHead 0x85 0 (bfield m.body 3 1) ++ leBytes 2 seq))
    if last then spdmHandle s { m with body := all } else s

/-- A message of a row arrives: it is heard, and its code is the row's. -/
def spdmRow (s : State) (m : SpdmMsg) (code : Nat) : State :=
  if spdmHears s m.chan && reqCode m.body == code then
    if code = 0x85 then doChunkSend s m else spdmHandle s m
  else s

/-- GET_VERSION. -/
def execGetVersion (m : SpdmMsg) (s : State) : Out := .next (spdmRow s m 0x84)
/-- GET_CAPABILITIES. -/
def execGetCapabilities (m : SpdmMsg) (s : State) : Out := .next (spdmRow s m 0xE1)
/-- NEGOTIATE_ALGORITHMS. -/
def execNegotiateAlgorithms (m : SpdmMsg) (s : State) : Out := .next (spdmRow s m 0xE3)
/-- GET_DIGESTS. -/
def execGetDigests (m : SpdmMsg) (s : State) : Out := .next (spdmRow s m 0x81)
/-- GET_CERTIFICATE. -/
def execGetCertificate (m : SpdmMsg) (s : State) : Out := .next (spdmRow s m 0x82)
/-- CHALLENGE. -/
def execChallenge (m : SpdmMsg) (s : State) : Out := .next (spdmRow s m 0x83)
/-- GET_MEASUREMENTS. -/
def execGetMeasurements (m : SpdmMsg) (s : State) : Out := .next (spdmRow s m 0xE0)
/-- KEY_EXCHANGE. -/
def execKeyExchange (m : SpdmMsg) (s : State) : Out := .next (spdmRow s m 0xE4)
/-- FINISH. -/
def execFinish (m : SpdmMsg) (s : State) : Out := .next (spdmRow s m 0xE5)
/-- HEARTBEAT. -/
def execHeartbeat (m : SpdmMsg) (s : State) : Out := .next (spdmRow s m 0xE8)
/-- KEY_UPDATE. -/
def execKeyUpdate (m : SpdmMsg) (s : State) : Out := .next (spdmRow s m 0xE9)
/-- END_SESSION. -/
def execEndSession (m : SpdmMsg) (s : State) : Out := .next (spdmRow s m 0xEC)
/-- CHUNK_SEND. -/
def execChunkSend (m : SpdmMsg) (s : State) : Out := .next (spdmRow s m 0x85)
/-- CHUNK_GET. -/
def execChunkGet (m : SpdmMsg) (s : State) : Out := .next (spdmRow s m 0x86)

/-- A vendor request with a KEK command (R438). -/
def kekRow (s : State) (m : SpdmMsg) (cmd : Nat) : State :=
  match vendorPayload m.body with
  | some pay => if bfield pay 0 2 = cmd then spdmRow s m 0xFE else s
  | none => s

/-- KEK_SET. -/
def execKekSet (m : SpdmMsg) (s : State) : Out := .next (kekRow s m 1)
/-- KEK_CLEAR. -/
def execKekClear (m : SpdmMsg) (s : State) : Out := .next (kekRow s m 2)

/-- The lowest-numbered half of a session identity that no session of the channel uses. -/
def freshSession (x : SpdmConn) (req : Nat) : Nat :=
  ((List.range 5).find? (fun n => !mhas x.sessions (req + n * 65536))).getD 0 * 65536 + req

/-- The response that a signature completes (R450), signed by the Alias key. -/
def signedReply (s : State) (j : SignJob) : State :=
  let nonce := (List.range 32).map (fun i => (Config.random 32 s.free).getD i 0)
  let x := s.conn j.chan
  let finishBody := fun (s : State) (body : List Byte) => spdmReply s j.chan j.session (body ++ Config.sign 1 (x.transcript ++ j.body ++ body))
  let s := s.tick
  match reqCode j.body with
  | 0x83 => finishBody s (spdmHead 0x83 0 1 ++ Config.sha384 (Config.certChain 0) ++ nonce ++ Config.spdmFields 0x83 j.body)
  | 0xE0 => finishBody s (measBody s j.body nonce)
  | _ =>
    let req := bfield j.body 4 2
    let id := freshSession x req
    let k := Config.kem s.free ((j.body.drop 40).take 1568)
    let s := s.modConn j.chan (fun x => { x with sessions := mput x.sessions id 0, transcript := x.transcript ++ j.body })
    finishBody s (spdmHead 0xE4 60 0 ++ leBytes 2 (id / 65536) ++ [0, 0] ++ nonce ++ k.2 ++ Config.spdmFields 0xE4 j.body)

/-- A signature is made (R452): the Alias certificate's at this start, then those of the requests in the order of arrival. -/
def signatureDone (s : State) : State :=
  if !s.aliasReady then
    if 3 ≤ s.pw.stage then { s with aliasReady := true }.bump 0xC0068 1 else s
  else match s.signQueue with
    | [] => s
    | j :: js => signedReply ({ s with signQueue := js }.bump 0xC0068 1) j

/-- SPDM_SIGNATURE_DONE (R452). -/
def execSpdmSignatureDone (s : State) : Out := .next (signatureDone s)

end Sys2Proof.Machine
end

