-- ==== Sys2Proof/Machine/Power.lean ====
section
/-! DEFINITION. Power: the operating modes (R64, R66, R459 to R461), throttling and thermal shutdown (R463 to R466), the
input (R455), the module reference (R468), start-up (R469 to R471) and the pins (R475, R478). -/

namespace Sys2Proof.Machine

/-- Sets the state of a power domain. -/
def setDom (s : State) (d : Nat) (x : Dom) : State := s.modPw (fun w => { w with doms := if x = .off then mdel w.doms d else mput w.doms d x })

/-- Begins the power-up of a domain that is off. -/
def raiseDom (s : State) (d : Nat) : State := if mhas s.pw.doms d then s else setDom s d .rising

/-- The first frame boundary at or after a notch, and after now (R64, R66). -/
def changeFrame (s : State) (notch : Nat) : Nat := max (startOf notch) (frameNo s + 1)

/-- A mode has one of the domains that modes switch on (R457, R459). -/
def modeDom (m d : Nat) : Bool := if d < 40 then modeHalf m d else decide (m < 5)

/-- The domains that the operating mode switches (R457). -/
def modeDoms : List Nat := List.range 40 ++ [77, 78]

/-- A binding holds a local core of 64 or more (R460). -/
def upperHeld (s : State) : Bool := s.bindings.any (fun (b : Nat × Binding) => match mget? s.patterns b.2.pattern with
  | some p => p.cores.any (fun (c : PatCore) => decide (64 ≤ c.loc))
  | none => false)

/-- An armed or running pattern's mode mask excludes a mode (R64, R66). -/
def maskExcludes (s : State) (m : Nat) : Bool := s.cues.any (fun (x : Nat × Cue) => match runOf s x.1 with
  | some (_, _, p) => !bit p.modeMask.toNat m
  | none => false)

/-- The checks of MODE_SET (R64, R66, R402, R460). -/
def modeChecks (s : State) (m : Nat) : Nat :=
  let cur := modeSet s.pw.mode
  if !cuesAccepted s then stUnanchored
  else if s.pw.job.isSome then stBusy
  else if modeSet m ≠ cur && s.patterns.any (fun (p : Nat × Pattern) => p.2.tset == cur) then 0x20
  else if maskExcludes s m then 0x21
  else if (m = 4 && upperHeld s) || (m = 5 && !s.bindings.isEmpty) then stBusy
  else stOK

/-- MODE_SET (R64, R66). -/
def modeSetH : Handler := fun s m =>
  let mode := m.f 0 1
  let st := modeChecks s mode
  if st ≠ stOK then (s, .done st []) else
  let j : ModeJob := { mode := mode, frame := changeFrame s (m.f 8 8), notch := m.f 8 8, setChange := modeSet mode != modeSet s.pw.mode,
                       old := s.pw.mode, waiter := some (m.via, m.tag) }
  (s.modPw (fun w => { w with job := some j }), .waits)

/-- MODE_SET. -/
def execModeSet (via : Path) (input : List Byte) (s : State) : Out := .next (mci s via 0xC0A0 input modeSetH)

/-- MODE_QUERY (R402): NOTCH is open where no change is pending. -/
def modeQueryH : Handler := fun s _ =>
  match s.pw.job with
  | some j => (s, .done stOK (leBytes 1 s.pw.mode ++ leBytes 1 j.mode ++ [0, 0] ++ leBytes 8 j.notch))
  | none => (s.tick, .done stOK (leBytes 1 s.pw.mode ++ [0xFF, 0, 0] ++ (List.range 8).map (fun i => Config.freeByte (s.free * 4096 + i))))

/-- MODE_QUERY. -/
def execModeQuery (via : Path) (input : List Byte) (s : State) : Out := .next (mci s via 0xC0A1 input modeQueryH)

/-- Boundary 0 of a mode change (R461): domains, and ports above the new highest rate. -/
def applyMode (s : State) (m : Nat) : State :=
  let s := s.modPw (fun w => { w with mode := m })
  let s := modeDoms.foldl (fun s d => if modeDom m d then raiseDom s d else setDom s d .off) s
  allPorts.foldl (fun s p => if (s.port p).up && decide (modeRate m < (s.port p).rate.toNat) then
    s.modPort p (fun x => { x with retrain := true }) else s) s

/-- A mode change completes (R461, R472). -/
def modeDone (s : State) (j : ModeJob) : State :=
  let s := s.modPw (fun w => { w with job := none })
  let s := raise s evModeChanged [] (w1 j.old ++ w1 j.mode ++ w2 j.beganFrame)
  match j.waiter with
  | some (via, tag) => answer s via tag 0xC0A0 stOK []
  | none => s

/-- A stack enters self-refresh: what its controller holds open is closed; its queue stays (R64, R65). -/
def enterSelfRef (s : State) (t : Nat) : State :=
  foldN 32 (fun h s => s.modChan t h (fun c => { c with rows := [] })) (s.startSelfRef t)

/-- The step of a change of timing set in one stack at F (R256): it enters self-refresh, and the target set becomes the active one. -/
def loadSet (s : State) (tset t : Nat) : State := (enterSelfRef s t).modStack t (fun x => { x with tset := tset })

/-- A mode change that is due begins at this boundary (R64, R66): a change of timing set puts the stacks in self-refresh. -/
def beginChange (s : State) : State :=
  match s.pw.job with
  | some j =>
    if j.begun.isSome || decide (frameNo s < j.frame) then s else
    let j := { j with begun := some s.ft.run, beganFrame := frameNo s, frame := frameNo s }
    let s := s.modPw (fun w => { w with job := some j })
    let s := applyMode s j.mode
    if j.setChange then foldN 20 (fun t s => loadSet s (modeSet j.mode) t) { s with recompute := Nat.lor s.recompute 4 } else modeDone s j
  | none => s

/-- A stack is kept in self-refresh by a reset of it or of its die, or by a missed set change (R256, R420). -/
def stackHeld (s : State) (t : Nat) : Bool :=
  (s.stackOf t).stuck || mhas s.rv.resets (7700 + t) || mhas s.rv.resets (7720 + dieOf t)

/-- The stacks that nothing holds in self-refresh leave it. -/
def exitStacks (s : State) : State :=
  foldN 20 (fun t s => if stackHeld s t || !(s.stackOf t).selfRef then s else leaveSelfRef s t) s

/-- A change of timing set at a boundary (R64, R256): the stacks leave self-refresh at F + 18, and the new grid applies from F + 20. -/
def endChange (s : State) : State :=
  match s.pw.job with
  | some j =>
    match j.begun with
    | some b =>
      if s.ft.run < b + 18 then s
      else if s.ft.run < b + 20 then exitStacks s
      else pagesChanged (exitStacks (modeDone s j))
    | none => s
  | none => s

/-- A renumbering moves the frames that a change in progress counts from (R64). -/
def renumberChange (s : State) (n : Int) : State :=
  s.modPw (fun w => { w with job := w.job.map (fun (j : ModeJob) =>
    if j.begun.isSome then { j with frame := (j.frame + n).toNat } else j) })

/-- STACK_SET_CHANGE_TIMEOUT (R256): the stack is held in self-refresh and its interface is reset. -/
def execStackSetChangeTimeout (t : Cluster) (s : State) : Out :=
  ifApplies (inSetChange s && !(s.stackOf t.val).stuck) s
    (startReset ((s.modStack t.val (fun x => { x with stuck := true })).startSelfRef t.val) (.stack t) 0 [] [] [] [])

/-! ### Sensors and throttling -/

/-- The hottest valid reading of a list of sensors. -/
def hottest (l : List (Option Int)) : Option Int :=
  l.foldl (fun m x => match m, x with
    | some a, some b => some (max a b)
    | none, b => b
    | a, none => a) none

/-- The hottest of `n` sensors with an invalid reading counted as `bad` (R464). -/
def counted (l : List (Option Int)) (n : Nat) (bad : Int) : Int :=
  (List.range n).foldl (fun m i => max m ((l.getD i none).getD bad)) ((l.getD 0 none).getD bad)

/-- The hottest stack reading in tenths of a degree, a failed sensor counted at its level-1 threshold (R464). -/
def stackHottest (s : State) : Int :=
  (List.range 20).foldl (fun m t => max m (let x := s.stackOf t; if x.sensorFail = 0 then x.tempMax else max x.tempMax 880)) (s.stackOf 0).tempMax

/-- The level that the logic sensors call for (R464). -/
def logicLevel (s : State) : Nat := if 100 ≤ s.pw.logicMax then 2 else if 95 ≤ s.pw.logicMax then 1 else 0

/-- The level that the stack sensors call for. -/
def stackLevel (s : State) : Nat := let t := stackHottest s; if 920 ≤ t then 2 else if 880 ≤ t then 1 else 0

/-- The level that the power means call for while LIMIT_EN is 1 (R463). -/
def powerLevel (s : State) : Nat :=
  let w := s.pw.limit
  if s.fieldEff 0xD0000 8 1 = 0 then 0
  else if w * 105 < s.pw.mean1s.toNat * 100 || 1650 < s.pw.mean10ms.toNat then 2
  else if w < s.pw.mean1s.toNat then 1 else 0

/-- A reading lets a level be left (R464): no sensor within 5 °C of its threshold, no power mean above 95 % of its limit. -/
def coolFor (s : State) (level : Nat) : Bool :=
  let l : Int := if level = 1 then 95 else 100
  let k : Int := if level = 1 then 880 else 920
  decide (s.pw.logicMax < l - 5) && decide (stackHottest s < k - 50)
    && (s.fieldEff 0xD0000 8 1 == 0 || (decide (s.pw.mean1s.toNat * 100 ≤ s.pw.limit * 95) && decide (s.pw.mean10ms.toNat * 100 ≤ 1650 * 95)))

/-- Every domain but hub main goes off at once, with the stacks left in self-refresh (R466, R468). Cores lose what they hold. -/
def allOff (s : State) : State :=
  let s := allPorts.foldl (fun s p => linkDown s p) s
  let s : State := { s with cores := [], msgs := [], reds := [], redDone := [] }
  let s := foldN 20 (fun t s => holdStack s t) s
  let s := foldN 9 (fun b s => unpowerBay s b) s
  s.modPw (fun w => { w with doms := [] })

/-- Thermal shutdown (R466): the kind of sensor, the die or stack, and its reading. -/
def thermalShutdown (s : State) (kind unit : Nat) (reading : Int) : State :=
  if s.pw.thermalOff then s else
  let s := allOff (raiseAll s evThermalShutdown (w1 kind ++ w1 unit ++ wInt reading))
  drivePins (s.modPw (fun w => { w with thermalOff := true, throttle := 3 }))

/-- A package reset that a thermal shutdown has put off begins when R466 permits it (R478). -/
def latePackageReset (s : State) : State := if s.pw.rstAsked && s.pw.thermalOff && coolEnough s then packageReset s 0 else s

/-- The logic sensors' readings (R464). -/
def logicRead (s : State) (a b h : List (Option Int)) : State :=
  let m := max (counted a 8 95) (max (counted b 8 95) (counted h 4 95))
  let top := [hottest a, hottest b, hottest h].map (fun x => x.getD (-273))
  let hot := top.any (fun x => decide (110 ≤ x))
  let s := s.modPw (fun w => { w with
    logicMax := m, hotLogic := if hot then w.hotLogic + 1 else 0
    tempA := (hottest a).getD w.tempA, tempB := (hottest b).getD w.tempB, tempHub := (hottest h).getD w.tempHub })
  let cool := fun (s : State) (l : Nat) => s.modPw (fun w => { w with coolRun := mput w.coolRun l (if coolFor s l then mget 0 w.coolRun l + 1 else 0) })
  let s := cool (cool s 1) 2
  let s := if 2 ≤ s.pw.hotLogic then
      let d := (top.findIdx? (fun x => decide (110 ≤ x))).getD 0
      thermalShutdown s 0 d (top.getD d 0)
    else s
  latePackageReset s

/-- THERMAL_SENSOR_READ (R464). -/
def execThermalSensorRead (baseA : List (Option Int)) (baseB : List (Option Int)) (hub : List (Option Int)) (s : State) : Out :=
  ifApplies (hubOn s) s (logicRead s baseA baseB hub)

/-- The layer sensors' readings of a stack, in tenths of a degree (R250, R464). -/
def stackRead (s : State) (t : Nat) (tenths : List (Option Int)) : State :=
  let x := s.stackOf t
  let fail := (List.range 17).foldl (fun v i => if (tenths.getD i none).isNone then v + 2 ^ i else v) 0
  let top := (hottest (tenths.take 17)).getD x.tempMax
  let hot := fail != 0 || decide (850 < top)
  let cool := if fail = 0 && decide (top ≤ 820) then x.coolRun + 1 else 0
  let want := if hot then (if x.doubled then none else some true) else if x.doubled && decide (64 ≤ cool) then some false else none
  let shut := (tenths.take 17).any (fun y => decide (1000 ≤ y.getD 0))
  let s := s.modStack t (fun x => { x with
    tempMax := top, sensorFail := BitVec.ofNat 17 fail, coolRun := cool, wantDoubled := want, hotRun := if shut then x.hotRun + 1 else 0 })
  let s := if 2 ≤ (s.stackOf t).hotRun then thermalShutdown s 1 t (top / 10) else s
  latePackageReset s

/-- STACK_SENSOR_READ (R250). -/
def execStackSensorRead (t : Cluster) (tenths : List (Option Int)) (s : State) : Out :=
  ifApplies (hubOn s && decide (3 ≤ s.pw.stage)) s (stackRead s t.val tenths)

/-- The throttle level at a boundary (R464, R465). The readings that let a level be left are counted from the last boundary at which it
was called for. -/
def throttleBoundary (s : State) : State :=
  let need := max (logicLevel s) (max (stackLevel s) (powerLevel s))
  let keep := fun (l : Nat) => decide (l ≤ s.pw.throttle) && decide (mget 0 s.pw.coolRun l < 64)
  let new := max need (if keep 2 then 2 else if keep 1 then 1 else 0)
  let s := if new = s.pw.throttle then s else
    let why := fun (n : Nat) (k : Nat) => if new ≤ n && new != 0 then 2 ^ k else 0
    let words := w1 new ++ w1 (why (logicLevel s) 0 + why (stackLevel s) 1 + why (powerLevel s) 2)
      ++ wInt (max s.pw.tempA (max s.pw.tempB s.pw.tempHub)) ++ wInt ((List.range 20).foldl (fun m t => max m (s.stackOf t).tempMax) (s.stackOf 0).tempMax / 10)
      ++ w1 s.pw.mean1s.toNat ++ w1 s.pw.mean10ms.toNat
    drivePins (raise (s.modPw (fun w => { w with throttle := new })) evThrottle [] words)
  let s := s.modPw (fun w => { w with coolRun := w.coolRun.map (fun (c : Nat × Nat) => if c.1 ≤ need then (c.1, 0) else c) })
  if 1 ≤ s.pw.throttle then s.bump 0xD0030 1 else s

/-- A stack changes between normal and doubled refresh at a boundary (R40, R250). -/
def refreshBoundary (s : State) : State :=
  foldN 20 (fun t s =>
    let x := s.stackOf t
    match x.wantDoubled with
    | none => s
    | some d =>
      let s := s.modStack t (fun x => { x with wantDoubled := none, doubled := d })
      if x.doubled = d then s else
      raise { s with recompute := Nat.lor s.recompute 1 } evRefreshMode []
        (w1 t ++ w1 (b2n d) ++ wInt (x.tempMax / 10) ++ w1 x.sensorFail.toNat ++ w2 (frameNo s))) s

/-! ### The input, the reference and the pins -/

/-- A reading lies within the range of R455. -/
def inRange (mv : Nat) : Bool := decide (40000 ≤ mv) && decide (mv ≤ 60000)

/-- Start-up begins at column 0 of R469, or waits for MOD_RST# (R478). -/
def powerUp (s : State) : State :=
  if hubOn s && s.pw.stage == 0 && !s.pw.modRst then s.modPw (fun w => { w with stage := 1 }) else s

/-- The state of a loss of input power (R455): what a package reset leaves, with no power. -/
def loseSupply (s : State) : State := doPackageReset s 0 0

/-- Raises the input events that are due (R455). -/
def inputBoundary (s : State) : State :=
  s.pw.inputDue.foldl (fun s ok => raise s evInputRange [] (w1 (b2n ok) ++ w1 s.pw.mv.toNat ++ w1 s.pw.deciamps.toNat))
    (s.modPw (fun w => { w with inputDue := [] }))

/-- The reading of one frame (R455, R463). Before FT_TIME runs there is no boundary to wait for. -/
def inputRead (s : State) (mv da : BitVec 16) (m1 m10 : BitVec 12) : State :=
  let v := mv.toNat
  if !s.pw.power then (if inRange v then powerUp (s.modPw (fun w => { w with power := true })) else s)
  else if !s.pw.pwrEn then s
  else
    let s := s.modPw (fun w => { w with
      mv := mv, deciamps := da, mean1s := m1, mean10ms := m10, limit := s.fieldOf 0xD0004 0 11
      outRun := if inRange v then 0 else w.outRun + 1
      inRun := if 40500 ≤ v ∧ v ≤ 59500 then w.inRun + 1 else 0 })
    let s := if !s.pw.outRange && decide (16 ≤ s.pw.outRun) then s.modPw (fun w => { w with outRange := true, inputDue := w.inputDue ++ [false] })
      else if s.pw.outRange && decide (1024 ≤ s.pw.inRun) then s.modPw (fun w => { w with outRange := false, inputDue := w.inputDue ++ [true] })
      else s
    if s.ft.running then s else inputBoundary s

/-- INPUT_READING. -/
def execInputReading (mv : BitVec 16) (deciamps : BitVec 16) (mean1s : BitVec 12) (mean10ms : BitVec 12) (s : State) : Out :=
  .next (inputRead s mv deciamps mean1s mean10ms)

/-- INPUT_POWER_FAULT (R455): every domain loses power at once. -/
def execInputPowerFault (s : State) : Out := ifApplies s.pw.power s (loseSupply (s.modPw (fun w => { w with power := false })))

/-- MREF_LOSS (R468): every domain but hub main goes off, and the stacks are left in self-refresh. -/
def execMrefLoss (s : State) : Out :=
  ifApplies (hubOn s && !s.pw.refLost) s ((allOff s).modPw (fun w => { w with refLost := true }))

/-- MREF_STABLE (R468): a package reset begins with cause REFERENCE; in a thermal shutdown it waits until R466 permits it. -/
def execMrefStable (s : State) : Out :=
  ifApplies (hubOn s && (s.pw.refLost || (s.pw.held && s.pw.cause == 5))) s
    (if resetRefused s then s.modPw (fun w => { w with rstAsked := true }) else packageReset s 5)

/-- PWR_EN_RISE (R478). -/
def execPwrEnRise (s : State) : Out := ifApplies (!s.pw.pwrEn) s (powerUp (s.modPw (fun w => { w with pwrEn := true })))

/-- Flash programs in progress complete: those of the stripes that have closed (R308, R478). -/
def finishPrograms (s : State) : State := (s.stripes.map (·.1)).foldl stripeProgrammed s

/-- PWR_EN_FALL (R478): programs in progress complete, and every domain goes off. -/
def execPwrEnFall (s : State) : Out :=
  ifApplies s.pw.pwrEn s (loseSupply ((if hubOn s then finishPrograms s else s).modPw (fun w => { w with pwrEn := false })))

/-- MOD_RST_FALL (R478): in thermal shutdown the request is recorded. -/
def execModRstFall (s : State) : Out :=
  .next (
    let s := s.modPw (fun w => { w with modRst := true })
    if !hubOn s then s
    else if resetRefused s then s.modPw (fun w => { w with rstAsked := true })
    else packageReset s 0)

/-- MOD_RST_RISE (R478). -/
def execModRstRise (s : State) : Out := .next (powerUp (s.modPw (fun w => { w with modRst := false })))

/-! ### Power domains and start-up -/

/-- DOMAIN_POWER_UP_DONE (R457): usable from the next boundary, or at once before FT_TIME runs (R22). -/
def execDomainPowerUpDone (d : Fin 80) (s : State) : Out :=
  ifApplies (mget .off s.pw.doms d.val == .rising) s (setDom s d.val (if s.ft.running then .ready else .on))

/-- Domains whose power-up has completed are usable from this boundary (R457); during start-up the promotion of Held objects
begins with the tiering engine (R159, R469). -/
def domsBoundary (s : State) : State :=
  let tier := mget .off s.pw.doms 78 == .ready && s.pw.readyMs == 0xFFFF
  let s := s.modPw (fun w => { w with doms := w.doms.map (fun (d : Nat × Dom) => if d.2 = .ready then (d.1, .on) else d) })
  if tier then promoteHeld s (fun _ => true) else s

/-- PW_CTRL.PORT_OFF switches port domains at a boundary (R457). -/
def portsBoundary (s : State) : State :=
  if s.pw.stage < 3 then s else
  allPorts.foldl (fun s p =>
    if s.fieldOf 0xD0000 p.val 1 = 1 then (if mhas s.pw.doms (60 + p.val) then setDom (linkDown s p) (60 + p.val) .off else s) else raiseDom s (60 + p.val)) s

/-- The cause of PW_STARTUP that a result names. -/
def causeOf (r : StageResult) : Nat :=
  match r with
  | .done => 0 | .fwImage => 1 | .dramTrain => 2 | .flashArray => 3 | .input => 4 | .reference => 5

/-- Start-up stays in its stage with a cause (R470). -/
def holdStart (s : State) (cause : Nat) : State := drivePins (s.modPw (fun w => { w with held := true, cause := cause }))

/-- The boot ROM accepts the image in the store (R445). The image of manufacture passes while its SVN is at least the floor. -/
def storeGood (s : State) : Bool :=
  !s.fwBad && (match s.fwStore with
    | some i => (imageCause s i.bytes).isNone
    | none => decide (s.svnFloor ≤ Config.fwSvn.toNat))

/-- A stage's own result: none where it ends well, or the cause that keeps it (R470). -/
def stageFails (s : State) : Option Nat :=
  match s.pw.stage with
  | 2 => if storeGood s then none else some 1
  | 4 =>
    let n := ((List.range 8).filter (fun p => s.bays.any (fun (b : Nat × BayState) => b.2.position == some p && inArray b.2.st))).length
    if n < 6 then some 3 else none
  | _ => none

/-- A stage's work stands: the domains that it switches on are usable, and its cartridges verified (R469). -/
def stageReady (s : State) : Bool :=
  match s.pw.stage with
  | 3 => (List.range 20).all (fun t => domOn s (40 + t))
  | 4 => !s.bays.any (fun (b : Nat × BayState) => b.2.st == .verifying)
  | 6 => modeDoms.all (domOn s)
  | n => decide (1 ≤ n) && decide (n ≤ 7)

/-- The distinct slot positions that the bindings claim, by channel and slot (R372). -/
def claimedSlots (s : State) : List Nat :=
  (s.bindings.flatMap (fun (b : Nat × Binding) => match mget? s.patterns b.2.pattern with
    | some p => claimSlots b.2 p
    | none => [])).foldl (fun l a => linsert a l) []

/-- The capacity of a channel (R372). -/
def capOf (s : State) (claimed : List Nat) (k : Nat) : Nat :=
  let t := modeSet s.pw.mode
  let n : Int := slotsN t
  let u := (claimed.filter (fun x => x / 256 == k)).length
  let f := if (s.stackOf (k / 32)).doubled then 0 else [10, 8, 6].getD t 10
  let w := if (mget {} s.chans k).spare = .migrating then s.fieldEff 0x60000 8 6 else 0
  let cap := (n - bastedB t - u + f - w) * (100 - s.fieldEff 0x90000 8 6) / 100 - s.fieldEff 0x90000 16 4
  cap.toNat

/-- AQ_CH_CAP.CAPACITY is loaded before a register can first be read (R12, R372). -/
def loadCaps (s : State) : State :=
  let claimed := claimedSlots s
  { s with chans := (List.range 640).map (fun k => (k, { mget {} s.chans k with cap := capOf s claimed k })) }

/-- What the end of a stage does, and what the next one begins with (R12, R469, R471). -/
def endStage (s : State) (ms : BitVec 16) : State :=
  let stage := s.pw.stage
  let s := s.modPw (fun w => { w with stageMs := w.stageMs ++ [ms.toNat], stage := min 7 (stage + 1) })
  match stage with
  | 2 =>
    let s : State := loadCaps { s with fwRun := s.fwStore }
    foldN 20 (fun t s => raiseDom s (40 + t)) (foldN 8 (fun p s => if s.fieldOf 0xD0000 p 1 = 1 then s else raiseDom s (60 + p)) s)
  | 3 => drivePins (foldN 9 (fun b s => if (s.bay b).cart.isSome then startVerify s b else s) s)
  | 4 => assembleArray s
  | 5 => modeDoms.foldl (fun s d => raiseDom s d) (s.modFt (fun f => { f with running := true }))
  | 6 => allPorts.foldl (fun s p => setActive s p) (resumeWalk s)
  | 7 =>
    let s := s.modPw (fun w => { w with readyMs := ms.toNat })
    let s := raise s evStartupDone [] (s.pw.stageMs.flatMap w1 ++ w1 s.pw.lastCause)
    reportAwaiting { s with recompute := Nat.lor s.recompute 32 }
  | _ => s

/-- STARTUP_STAGE_COMPLETE (R469, R470): a stage ends at `ms` from column 0, or start-up stays in it. -/
def stageComplete (s : State) (r : StageResult) (ms : BitVec 16) : State :=
  if !hubOn s || s.pw.held || s.pw.refLost || s.pw.thermalOff || s.pw.stage = 0 || s.pw.readyMs ≠ 0xFFFF then s else
  let fits := match r with
    | .done | .input => true
    | .fwImage => s.pw.stage == 2
    | .dramTrain => s.pw.stage == 3
    | .flashArray => s.pw.stage == 4
    | .reference => s.pw.stage == 1
  if !fits then s
  else if r ≠ .done then holdStart s (causeOf r)
  else if !stageReady s then s
  else match stageFails s with
    | some c => holdStart s c
    | none => endStage s ms

/-- STARTUP_STAGE_COMPLETE. -/
def execStartupStageComplete (r : StageResult) (ms : BitVec 16) (s : State) : Out := .next (stageComplete s r ms)

end Sys2Proof.Machine
end

