-- ==== Sys2Proof/Machine/Slots.lean ====
section
/-! DEFINITION. The DRAM slots of a channel: pattern claims (R43 to R46, R121, R122, R125), open requests (R243 to R248),
row disturbance (R252 to R254), live calibration (R257 to R259), sparing (R260 to R263, R289 to R294) and the scrubber
(R284 to R288). -/

namespace Sys2Proof.Machine

/-! ### Where things lie -/

/-- The byte of a page at which a block lies, by address order and frame row: the inverse of R239. -/
def blockByte (order f rank b col : Nat) : Nat :=
  match order with
  | 0 => rank * 4096 + b * 1024 + col * 256
  | 1 => col * 16384 + rank * 1024 + b * 256
  | 2 => col / 2 * 32768 + rank * 2048 + b * 512 + col % 2 * 256
  | _ => col * 16384 + Nat.xor rank (bits f 2 4) * 1024 + Nat.xor b (bits f 0 2) * 256

/-- The frame that holds a row of a bank (R238). -/
def frameAt (st ch bank row : Nat) : Nat := (st * 128 + ch * 4 + bank / 4) * 8192 + row

/-- The address order of the page in a frame; a frame of no page is taken as LINEAR. -/
def frameOrder (s : State) (fr : Nat) : Nat := match mget? s.frames fr with | some (.used pid) => pidOrder s pid | _ => 0

/-- The owner of the object whose page is in a frame, and the device address of the frame's first byte (R296). -/
def frameOwner (s : State) (fr : Nat) : Option (Ctx × Nat) :=
  match mget? s.frames fr with
  | some (.used pid) => (pidObj s pid).map (fun x => (x.2.owner, x.2.base + pidIx pid * 65536))
  | _ => none

/-- The parts of a block's number in scrub order (R286). -/
def blockParts (n : Nat) : Nat × Nat × Nat × Nat := (n / 524288, n / 32768 % 16, n / 4 % 8192, n % 4)

/-- Blocks of a channel. -/
def chanBlocks : Nat := 8388608

/-! ### Row disturbance -/

/-- An activate in the row-disturbance table of a bank (R252): the new table and the row's count. -/
def disturbed (t : AMap Nat) (x : Nat) : AMap Nat × Nat :=
  match mget? t x with
  | some n => (mput t x (n + 1), n + 1)
  | none =>
    if t.length < 32 then (mput t x 1, 1)
    else
      let low := t.foldl (fun (m : Nat × Nat) (e : Nat × Nat) => if e.2 < m.2 then e else m) (t.headD (0, 0))
      (mput (mdel t low.1) x (low.2 + 1), low.2 + 1)

/-- The victims of a row (R253). -/
def victimsOf (radius x : Nat) : List Nat :=
  let near := (if x = 0 then [] else [x - 1]) ++ [x + 1]
  let far := if radius = 0 then [] else (if x < 2 then [] else [x - 2]) ++ [x + 2]
  (near ++ far).filter (fun r => decide (r < 8192))

/-- An activate of a physical row: the table is updated, and at the threshold its victims are queued or held (R252 to R254).
The outcome says whether a trigger was held. -/
def activate (s : State) (c : ChanState) (key row : Nat) : ChanState × Bool :=
  let th := s.fieldEff 0x60004 0 12
  let (t, n) := disturbed (mget [] c.disturb key) row
  if n < th then ({ c with disturb := mput c.disturb key t }, false) else
  let vs := victimsOf (s.fieldEff 0x60004 12 1) row
  let c := { c with triggers := satAdd c.triggers 1 65535 }
  if c.victims.length + vs.length ≤ 16 then
    ({ c with disturb := mput c.disturb key (mput t row 0), victims := c.victims ++ vs.map (fun v => (key, v)) }, false)
  else ({ c with disturb := mput c.disturb key (mput t row th) }, true)

/-! ### The rules of a slot -/

/-- An access as the bank rules see it: the physical rank and row, after the steering of R262 and the fuse map. -/
structure Access where
  rank  : Nat
  bank  : Nat
  row   : Nat
  write : Bool
  deriving DecidableEq, Repr

/-- The last access, if any, lies `gap` slots or more before this one (R44). -/
def apart (x : Option Nat) (gap now : Nat) : Bool := match x with | some a => decide (a + gap < now) | none => true

/-- The row of an access is open. -/
def rowHit (c : ChanState) (a : Access) : Bool := mget? c.rows (bankKey a.rank a.bank) == some a.row

/-- The rules of R44 let an access issue at the present slot of a channel. A row that is not open cannot be reached in the first slots
after the basted block, by whose end every bank is precharged (R41). -/
def slotOk (tset : Nat) (c : ChanState) (a : Access) : Bool :=
  let r := slotRules tset
  apart (mget? c.groupAt (a.bank / 4)) 1 c.abs
    && (if a.write then apart c.readAt 1 c.abs else apart c.writeAt r.readGap c.abs)
    && (rowHit c a || ((decide (c.slot < bastedB tset) || decide (r.lo ≤ c.slot)) && apart (mget? c.bankAt (bankKey a.rank a.bank)) r.rowGap c.abs
      && decide ((c.opens.filter (fun x => decide (c.abs < x + r.window))).length < 4)))

/-- The access that a place takes in a channel (R262, R291). -/
def accessOf (s : State) (l : Loc) (write : Bool) : Access :=
  let c := s.chan l.stack l.chan
  let rank := steerRank c l.rank l.bank l.row
  ⟨rank, l.bank, steerRow (chanKey l.stack l.chan) c rank l.bank l.row, write⟩

/-- An access issues: what it does to the channel's banks, its counts and the disturbance table. -/
def issueOn (s : State) (c : ChanState) (a : Access) (keep : Bool) : ChanState × Bool :=
  let key := bankKey a.rank a.bank
  let hit := rowHit c a
  let (c, held) := if hit then (c, false) else activate s c key a.row
  ({ c with
    rows := if keep then mput c.rows key a.row else mdel c.rows key
    bankAt := mput c.bankAt key c.abs
    groupAt := mput c.groupAt (a.bank / 4) c.abs
    readAt := if a.write then c.readAt else some c.abs
    writeAt := if a.write then some c.abs else c.writeAt
    opens := if hit then c.opens else (c.opens ++ [c.abs]).drop (c.opens.length + 1 - 8)
    probed := if a.write then c.probed else c.probed + 1
    reads := if a.write then c.reads else mmod 0 c.reads s.ft.run (· + 1) }, held)

/-- One row access on a channel. -/
def issueRow (s : State) (st ch : Nat) (a : Access) (keep : Bool) : State :=
  let (c, held) := issueOn s (s.chan st ch) a keep
  let s := s.modChan st ch (fun _ => c)
  if held then setInt s 5 5 else s

/-- The other row that a write reaches in the same slot (R262, R291): that of the spare rank, or the spare row, to which a copy that has
begun to read the write's row moves it. -/
def twinOf (s : State) (st ch : Nat) (a : Access) : Option Access :=
  let k := chanKey st ch
  let c := s.chan st ch
  let p := c.pointer
  let b := fuseOf k c (bankKey a.rank a.bank)
  if !a.write then none
  else if c.spare == .migrating && decide (0 < c.copyAt) && a.rank == c.spareRank && a.bank == p % 16
      && a.row == steerRow k c c.spareRank (p % 16) (p / 16) then
    some { a with rank := 16, row := steerRow k c 16 (p % 16) (p / 16) }
  else match b.job with
    | some (.row r) =>
      if decide (0 < b.at_) && a.row == steerRow k c a.rank a.bank r then some { a with row := 8192 + b.rows.length } else none
    | _ => none

/-- An access issues on a channel, with the second row of a write that a copy doubles. -/
def issue (s : State) (st ch : Nat) (a : Access) (keep : Bool) : State :=
  match twinOf s st ch a with
  | some b => issueRow (issueRow s st ch a keep) st ch b keep
  | none => issueRow s st ch a keep

/-! ### Pattern claims -/

/-- A claim of a running pattern on a channel, with the logical and the physical core that it serves. -/
structure LiveClaim where
  run   : Nat
  claim : Claim
  logical : Nat
  core  : Nat
  deriving DecidableEq, Repr

/-- The claims of running patterns on a channel in this frame (R43, R136); a core that is reset or being unpicked has none. -/
def liveClaims (s : State) (st ch : Nat) : List LiveClaim :=
  s.cues.flatMap (fun (x : Nat × Cue) => match runOf s x.1 with
    | some (q, b, p) =>
      match q.cur with
      | some i =>
        if q.phase != .running || q.gone || s.ft.run < q.curStart then [] else
        (frameClaims p i (s.ft.run - q.curStart)).flatMap (fun (c : Claim) =>
          (claimCores p c).filterMap (fun j => match coreOf b p j with
            | some k =>
              let y := s.core k
              if k / 128 = st ∧ k % 128 / 4 = ch ∧ y.run = some x.1 ∧ y.st ≠ .reset ∧ y.st ≠ .unpicking then some ⟨x.1, c, j, k⟩ else none
            | none => none))
      | none => []
    | none => [])

/-- The byte of a region at which the next block of a sequential stream lies, `ahead` bytes on (R121, R122). -/
def streamByte (s : State) (b : Binding) (p : Pattern) (x : LiveClaim) (sd : ClaimStream) (ahead : Nat) : Nat :=
  let r := p.regions.getD sd.region ⟨0, false, false, false, 0, 0⟩
  let half := r.share * 32768
  let par := mget 0 b.runs sd.region % 2
  let pos := mget 0 (s.core x.core).pos x.claim.stream + ahead
  shareOf s b p sd.region x.logical * r.share * 65536
    + (if r.double then (if x.claim.kind = 1 then par else 1 - par) * half else 0) + sd.start * 256 + pos

/-- A byte of a region in DRAM: page, frame of the core's own copy, address order and device address; none where the page is not
resident. -/
def regionSpot (s : State) (b : Binding) (core region byte : Nat) : Option (Nat × Nat × Nat × Nat) :=
  let ix := byte / 65536
  match regionObj s b region, regionPid s b region ix with
  | some (_, o, _, _), some pid =>
    let g := pageAt s pid
    if !lineResident g (byte % 65536 / 64) then none else
    match (g.frames.find? (fun f => f / 8192 == core)).orElse (fun _ => loadFrame g) with
    | some fr => some (pid, fr, orderOf s o, regionDev s b region 0 + byte)
    | none => none
  | _, _ => none

/-- A byte of a region as the run reads it; none where the page is not resident, or is read as missing for the whole step (R56). -/
def regionFrame (s : State) (q : Cue) (b : Binding) (core region byte : Nat) : Option (Nat × Nat × Nat × Nat) :=
  if q.lateNow && q.missing.contains (region * 0x100000000 + byte / 65536) then none else regionSpot s b core region byte

/-- The page of a region is shared by the draft that is bound with the version it is based on (R224). -/
def regionShared (s : State) (b : Binding) (region ix : Nat) : Bool :=
  match regionObj s b region with
  | some (_, _, k, some v) => v.draft && pidOf s k ix != pageKey k ix
  | _ => false

/-- The reader of a claim (R275, R296). -/
def claimReader (q : Cue) (path dev : Nat) : Reader := { path := path, ctx := some q.ctx, req := [q.tag, 0], directs := true, dev := dev }

/-- A block of a region as a read delivers it: 256 bytes, and the poison of its four lines. -/
def readBlock (s : State) (q : Cue) (b : Binding) (core region byte path : Nat) : State × List Byte × List Bool :=
  match regionFrame s q b core region byte with
  | some (pid, fr, order, dev) =>
    let (s, ls) := readGranule s (claimReader q path dev) order fr (byte % 65536)
    (touchPage s pid, ls.flatMap (·.1), ls.map (·.2))
  | none => (s, List.replicate 256 0, List.replicate 4 true)

/-- The bank, rank and row of a byte of a region, if it is resident. -/
def regionAccess (s : State) (q : Cue) (b : Binding) (core region byte : Nat) (write : Bool) : Option Access :=
  (if write then regionSpot s b core region byte else regionFrame s q b core region byte).map (fun x =>
    accessOf s (locOf x.2.2.1 x.2.1 (byte % 65536)) write)

/-- A read claim (R121): the next block of the share goes to the ring. -/
def claimRead (s : State) (q : Cue) (b : Binding) (p : Pattern) (x : LiveClaim) (sd : ClaimStream) : State :=
  let byte := streamByte s b p x sd 0
  let (s, bs, ps) := readBlock s q b x.core sd.region byte 1
  s.modCore x.core (fun c =>
    let pos := mget 0 c.pos x.claim.stream
    let c := bobFill c (sd.bobbin + pos % sd.ring) bs ps
    { c with pos := mput c.pos x.claim.stream (pos + 256) })

/-- What a claim's write does to its page (R156). -/
def claimDirties (s : State) (pid : Nat) : State :=
  match (pageAt s pid).st with
  | .clean => reservePage (s.modPage pid (fun g => { g with st := .dirty })) pid
  | .writing => s.modPage pid (fun g => { g with st := .redirtied })
  | _ => s

/-- A write claim (R118, R121, R274): the next block of the ring goes to the share with a seal of its own; a step under R56
writes every line with poison. To a page that is ABSENT the data is lost (R157); to one that is shared, FETCHING or in its HOME the
write is the store of R156 and R224. -/
def claimWrite (s : State) (q : Cue) (b : Binding) (p : Pattern) (x : LiveClaim) (sd : ClaimStream) : State :=
  let byte := streamByte s b p x sd 0
  let c := s.core x.core
  let a := sd.bobbin + mget 0 c.pos x.claim.stream % sd.ring
  let bs := bobRaw c a 256
  let ps := (bobMarks c a 256).map (fun m => m || q.lateNow)
  let page := pageAt s ((regionPid s b sd.region (byte / 65536)).getD 0)
  let plain := !regionShared s b sd.region (byte / 65536) && page.st != .fetching
  let s := match plain, regionSpot s b x.core sd.region byte with
    | true, some (pid, fr, order, _) => claimDirties (touchPage (putGranule s order fr (byte % 65536) bs ps (crc32c bs) false) pid) pid
    | _, _ =>
      if plain && page.st == PState.absent then s
      else storeGranule s (claimReader q 5 0) ⟨some q.ctx, 0, 0⟩ (regionDev s b sd.region 0 + byte) bs ps (crc32c bs)
  s.modCore x.core (fun c => { c with pos := mmod 0 c.pos x.claim.stream (· + 256) })

/-- Transfers of a row (R124). -/
def rowTransfers (sd : ClaimStream) : Nat := ceilDiv sd.ring 256

/-- The byte of a region at which transfer `n` of a row lies (R124). -/
def rowByte (s : State) (b : Binding) (p : Pattern) (logical : Nat) (sd : ClaimStream) (row n : Nat) : Nat :=
  shareOf s b p sd.region logical * (p.regions.getD sd.region ⟨0, false, false, false, 0, 0⟩).share * 65536 + row * sd.start + n * 256

/-- Up to 256 bytes from a byte of a region on, with the poison of each line: a row need not begin at a block's start, so they can
lie in two blocks (R124). -/
def readRun (s : State) (q : Cue) (b : Binding) (core region byte len path : Nat) : State × List Byte × List Bool :=
  let o := byte % 256
  let (s, bs, ps) := readBlock s q b core region byte path
  let (s, bs, ps) :=
    if o + len ≤ 256 then (s, bs, ps)
    else
      let (s, cs, qs) := readBlock s q b core region (byte - o + 256) path
      (s, bs ++ cs, ps ++ qs)
  (s, (bs.drop o).take len, ps.drop (o / 64))

/-- One transfer of a row (R124, R125): its bytes go to the row's place in the bobbin, and after the last the row is no longer
pending. -/
def moveRow (s : State) (q : Cue) (b : Binding) (p : Pattern) (core logical j : Nat) (sd : ClaimStream) (w : IndRow) (n : Nat) : State :=
  let byte := rowByte s b p logical sd w.row n
  let len := min 256 (sd.ring - 256 * n)
  let (s, bs, ps) := readRun s q b core sd.region byte len 2
  s.modCore core (fun c =>
    let c := bobFill c (sd.bobbin + w.ix * sd.ring + 256 * n) bs ps
    let rows := (mget [] c.rows j).filterMap (fun (y : IndRow) => if y.ix = w.ix then (if rowTransfers sd ≤ y.done + 1 then none else some { y with done := y.done + 1 }) else some y)
    { c with rows := mput c.rows j rows })

/-- An indirect claim (R125): the next transfer of the first of 16 pending rows that the bank rules allow. -/
def claimIndirect (s : State) (st ch : Nat) (q : Cue) (b : Binding) (p : Pattern) (x : LiveClaim) (sd : ClaimStream) : State :=
  let rows := (mget [] (s.core x.core).rows x.claim.stream).take 16
  let acc := fun (w : IndRow) => regionAccess s q b x.core sd.region (rowByte s b p x.logical sd w.row w.done) false
  let ok := fun (w : IndRow) => match acc w with
    | some a => slotOk p.tset (s.chan st ch) a
    | none => true
  match rows.find? ok with
  | none => s
  | some w =>
    let s := match acc w with
      | some a => issue s st ch a true
      | none => s
    moveRow s q b p x.core x.logical x.claim.stream sd w w.done

/-- A pattern claim at its slot (R120). -/
def serveLive (s : State) (st ch : Nat) (x : LiveClaim) : State :=
  match runOf s x.run with
  | none => s
  | some (q, b, p) =>
    match (p.cores[x.logical]?).bind (fun c => c.streams[x.claim.stream]?) with
    | none => s
    | some sd =>
      if x.claim.kind = 2 then claimIndirect s st ch q b p x sd else
      let w := x.claim.kind == 1
      let s := match regionAccess s q b x.core sd.region (streamByte s b p x sd 0) w with
        | some a => issue s st ch a true
        | none => s
      if w then claimWrite s q b p x sd else claimRead s q b p x sd

/-! ### Open requests -/

/-- Two requests touch a line in common. -/
def sharesLine (x y : OpenReq) : Bool := x.block == y.block && (x.mask &&& y.mask) != 0

/-- Two requests of a bank's queue keep their order (R247, R248). -/
def ordered (x y : OpenReq) : Bool :=
  sharesLine x y && (x.write || y.write) && !(x.mx12 && y.mx12 && x.source != y.source)

/-- Two requests are in one bank queue. -/
def sameBank (x y : OpenReq) : Bool := x.rank == y.rank && x.bank == y.bank

/-- A bank queue is in in-order mode (R247, R248): a native-class read waits behind a write to a line that it reads. -/
def inOrder (q : List OpenReq) : Bool :=
  (List.range q.length).any (fun i => match q[i]? with
    | some r => !r.write && !r.mx12 && (q.take i).any (fun w => w.write && sharesLine w r)
    | none => false)

/-- The request at a place of the queue may issue as far as the order of its bank queue goes (R247, R248). -/
def orderOk (q : List OpenReq) (i : Nat) : Bool :=
  match q[i]? with
  | none => false
  | some x =>
    let before := (q.take i).filter (sameBank x)
    !before.any (fun y => ordered y x) && (before.isEmpty || !inOrder (q.filter (sameBank x)))

/-- What a claim in the next slots forbids an open access (R44, R46). -/
def claimAllows (tset : Nat) (c : ChanState) (a : Access) (away : Nat) (y : Access) (known : Bool) : Bool :=
  let r := slotRules tset
  (a.bank / 4 != y.bank / 4 || decide (1 < away))
    && (if y.write then a.write || decide (1 < away) else !a.write || decide (r.readGap < away))
    && (!known || a.rank != y.rank || a.bank != y.bank || decide (r.rowGap < away) || a.row == y.row)
    && (rowHit c a || !known || mget? c.rows (bankKey y.rank y.bank) == some y.row || decide (r.window ≤ away)
      || decide ((c.opens.filter (fun x => decide (c.abs + away < x + r.window))).length < 3))

/-- What an indirect claim may access: the next transfer of each of the stream's 16 pending rows, of those in one bank the first
(R46, R125). -/
def pendingAccesses (s : State) (q : Cue) (b : Binding) (p : Pattern) (x : LiveClaim) (sd : ClaimStream) : List Access :=
  (((mget [] (s.core x.core).rows x.claim.stream).take 16).filterMap (fun w =>
    regionAccess s q b x.core sd.region (rowByte s b p x.logical sd w.row w.done) false)).foldl
      (fun l a => if l.any (fun y => y.rank == a.rank && y.bank == a.bank) then l else l ++ [a]) []

/-- The accesses of the claims in the next slots, with how many slots away each is (R46). An indirect claim stands for every
access that it may make. -/
def nextClaims (s : State) (st ch : Nat) (reach : Nat) : List (Nat × Access × Bool) :=
  let c := s.chan st ch
  let near := (liveClaims s st ch).filter (fun x => decide (c.slot < x.claim.slot) && decide (x.claim.slot ≤ c.slot + reach))
  near.flatMap (fun x => match runOf s x.run with
    | none => []
    | some (q, b, p) => match (p.cores[x.logical]?).bind (fun k => k.streams[x.claim.stream]?) with
      | none => []
      | some sd =>
        let away := x.claim.slot - c.slot
        let ahead := 256 * (near.filter (fun y => y.core == x.core && y.claim.stream == x.claim.stream && decide (y.claim.slot < x.claim.slot))).length
        let group : Access := ⟨0, x.core % 4 * 4, 0, x.claim.kind == 1⟩
        if x.claim.kind = 2 then
          match pendingAccesses s q b p x sd with
          | [] => [(away, group, false)]
          | l => l.map (fun a => (away, a, true))
        else match regionAccess s q b x.core sd.region (streamByte s b p x sd ahead) (x.claim.kind == 1) with
        | some a => [(away, a, true)]
        | none => [(away, group, false)])

/-- A bank's spares (R289, R290). -/
def bankFuse (s : State) (st ch key : Nat) : FuseBank := fuseOf (chanKey st ch) (s.chan st ch) key

/-- The next access of an open request: a narrow write reads first (R270). A transfer of a fuse-map copy names its bank; the writes
of a row copy go to the spare row (R291). -/
def reqAccess (s : State) (st ch : Nat) (x : OpenReq) : Access :=
  let write := x.write && x.narrow != 1
  if x.job = 5 then
    let b := bankFuse s st ch x.arg
    let row := match b.job, write with
      | some (.row _), true => 8192 + b.rows.length
      | _, _ => steerRow (chanKey st ch) (s.chan st ch) (x.arg / 16) (x.arg % 16) x.row
    ⟨x.arg / 16, x.arg % 16, row, write⟩
  else accessOf s ⟨st, ch, x.rank, x.bank, x.row, 0⟩ write

/-- A slot's length in thirds of a ns (R38). -/
def slotThirds (tset : Nat) : Nat := [16, 20, 30].getD tset 16

/-- The measured latency of a master after a sample (R368). -/
def latencyStep (a sample : Nat) : Nat := ((a : Int) + ((sample : Int) - a).tdiv 16).toNat

/-- Spill transfers carry core, stream, row and transfer in their argument (R126). -/
def spillArg (j ix n : Nat) : Nat := (j * 65536 + ix) * 16 + n

/-- A spill transfer is done: its bytes go to the bobbin, if its row is still pending. -/
def spillDone (s : State) (core arg : Nat) : State :=
  let n := arg % 16
  let ix := arg / 16 % 65536
  let j := arg / 1048576
  match (s.core core).run with
  | none => s
  | some r => match runOf s r with
    | none => s
    | some (q, b, p) =>
      let i := (s.core core).logical
      match (p.cores[i]?).bind (fun c => c.streams[j]?), (mget [] (s.core core).rows j).find? (fun w => w.ix == ix) with
      | some sd, some w => moveRow s q b p core i j sd w n
      | _, _ => s

/-! ### Findings and fuse-map sparing -/

/-- Changes a bank's spares. -/
def State.modFuse (s : State) (st ch key : Nat) (f : FuseBank → FuseBank) : State :=
  let b := f (bankFuse s st ch key)
  s.modChan st ch (fun c => { c with fuse := mput c.fuse key b })

/-- The words of a spare's location: row, or line offset and symbol (R296). -/
def fuseWords (j : FuseJob) (st ch key : Nat) : List Word :=
  let kind := match j with | .row _ => 0 | .col .. => 1
  w1 kind ++ w1 st ++ w1 ch ++ w1 (key / 16) ++ w1 (key % 16) ++ (match j with | .row r => w1 r | .col o y => w1 o ++ w1 y)

/-- The reason for which a bank has no spare for a request (R293). -/
def fuseLacks (b : FuseBank) (j : FuseJob) : Option Nat :=
  match j with
  | .row _ => if 4 ≤ b.rows.length then some 0 else none
  | .col o _ => if b.cols.any (fun c => c.1 == o) then some 1 else if 2 ≤ b.cols.length then some 0 else none

/-- The next spare of a bank starts when none is in progress (R290, R293). -/
def startFuse (s : State) (st ch key : Nat) : Nat → State
  | 0 => s
  | n + 1 =>
    let b := bankFuse s st ch key
    let c := s.chan st ch
    match b.job, b.queue with
    | none, j :: rest =>
      if c.spare = .migrating ∧ c.spareRank = key / 16 then s else
      let s := s.modFuse st ch key (fun x => { x with queue := rest })
      match fuseLacks b j with
      | some why => startFuse (raise s evFuseNone [] (fuseWords j st ch key ++ w1 why)) st ch key n
      | none => s.modFuse st ch key (fun x => { x with job := some j, at_ := 0, skip := [], done := false })
    | _, _ => s

/-- The scrubber requests a spare (R290). DESIGN CHOICE: a request that its bank is carrying out already, or that waits in its queue,
is not entered again (log entry 141). -/
def requestFuse (s : State) (st ch key : Nat) (j : FuseJob) : State :=
  let b := bankFuse s st ch key
  if b.job = some j || b.queue.contains j then s else
  startFuse (s.modFuse st ch key (fun x => { x with queue := x.queue ++ [j] })) st ch key (b.queue.length + 1)

/-- One correction at a symbol position (R290): in a row of the pass not noted before, it counts toward a column spare. -/
def noteSymbol (s : State) (st ch key row line sym : Nat) : State :=
  let c := s.chan st ch
  if c.colsNow.contains (key, line, sym, row) then s else
  let cols := c.colsNow ++ [(key, line, sym, row)]
  let many := (cols.filter (fun x => x.1 == key && x.2.1 == line && x.2.2.1 == sym)).length
  let s := s.modChan st ch (fun c => { c with colsNow := cols })
  if 8 ≤ many && s.fieldEff 0x70000 2 1 == 1 then requestFuse s st ch key (.col line sym) else s

/-- One line's finding by the scrubber or a copy (R290). -/
def noteFinding (s : State) (st ch key row line : Nat) (e : LineErr) : State :=
  match e with
  | .uncorrectable => if s.fieldEff 0x70000 1 1 = 1 then requestFuse s st ch key (.row row) else s
  | .corrected syms =>
    let again := (s.chan st ch).rowsLast.contains (key, row)
    let s := s.modChan st ch (fun c => { c with rowsNow := if c.rowsNow.contains (key, row) then c.rowsNow else c.rowsNow ++ [(key, row)] })
    let s := if again && s.fieldEff 0x70000 1 1 == 1 then requestFuse s st ch key (.row row) else s
    syms.foldl (fun s y => noteSymbol s st ch key row line y) s

/-- The reader of a scrub or of a copy (R296). -/
def innerReader (s : State) (path fr q : Nat) : Reader :=
  match frameOwner s fr with
  | some (c, dev) => { path := path, ctx := some c, req := [0, 0], checks := path == 4, directs := path == 6, dev := dev + q }
  | none => { path := path, ctx := none, req := [0, 0], checks := path == 4, directs := path == 6, dev := (Config.freeWord s.free).toNat }

/-- A block of a channel as its lines lie: the frame, its address order and the byte of the page. -/
def blockSpot (s : State) (st ch rank bank row col : Nat) : Nat × Nat × Nat :=
  let fr := frameAt st ch bank row
  let order := frameOrder s fr
  (fr, order, blockByte order row rank (bank % 4) col)

/-- What the codes of a block's lines find. -/
def blockErrs (s : State) (st ch rank bank row col : Nat) : List (Option LineErr) :=
  let (fr, order, q) := blockSpot s st ch rank bank row col
  (List.range 4).map (fun i => lineErr s (locOf order fr (q + 64 * i)) ((fr * 65536 + q) / 64 + i))

/-- The scrubber or a copy reads a block (R262, R277, R290): the check at exit, and the findings. The outcome counts the lines found
uncorrectable. -/
def innerRead (s : State) (st ch path : Nat) (rank bank row col : Nat) : State × Nat :=
  let (fr, order, q) := blockSpot s st ch rank bank row col
  let es := blockErrs s st ch rank bank row col
  let (s, _) := readGranule s.tick (innerReader s path fr q) order fr q
  let key := bankKey (steerRank (s.chan st ch) rank bank row) bank
  ((List.range 4).foldl (fun s i => match es.getD i none with
    | some e => noteFinding s st ch key row (col * 4 + i) e
    | none => s) s, es.count (some .uncorrectable))

/-- A line is written again as it stands, with its code and tag (R287). -/
def rewriteLine (s : State) (l : Loc) (pl : Nat) : State :=
  let s := presentReq s l { rank := 0, bank := 0, row := 0, col := 0, write := true, mask := BitVec.ofNat 4 (2 ^ (l.line % 4)), keep := false,
                            source := .scrubber, master := 13, block := pl / 4 * 256 }
  s.putLine l pl (lineData s pl) (isPoison s pl) (s.hint.contains pl)

/-- The scrubber writes a line of its read again (R287): a corrected one, or one whose STEER bit differs from the fuse map. -/
def needsRewrite (s : State) (l : Loc) (e : Option LineErr) : Bool :=
  match e with
  | some (.corrected _) => true
  | some .uncorrectable => false
  | none => steerBit s l != mapSteers (fuseOf (chanKey l.stack l.chan) (s.chan l.stack l.chan) (bankOf (s.chan l.stack l.chan) l)) l.line

/-- A scrub read of a block (R277, R287, R290). -/
def scrubBlock (s : State) (st ch : Nat) (rank bank row col : Nat) : State :=
  let (fr, order, q) := blockSpot s st ch rank bank row col
  let es := blockErrs s st ch rank bank row col
  let s := (innerRead s st ch 4 rank bank row col).1
  (List.range 4).foldl (fun s i =>
    let l := locOf order fr (q + 64 * i)
    if needsRewrite s l (es.getD i none) then rewriteLine s l ((fr * 65536 + q) / 64 + i) else s) s

/-! ### Copies -/

/-- The access of the sparing copy's next transfer (R262): four reads of the rank, then four writes of the spare rank. -/
def copyAccess (s : State) (st ch : Nat) : Access :=
  let c := s.chan st ch
  let p := c.pointer
  let rank := if c.copyAt < 4 then c.spareRank else 16
  ⟨rank, p % 16, steerRow (chanKey st ch) c rank (p % 16) (p / 16), decide (4 ≤ c.copyAt)⟩

/-- The copy writes the lines of a block that its skip mask leaves in (R262): their cells are good again. -/
def copyLines (s : State) (b : FuseBank) (skip : List Nat) (cells : Nat → Nat) (col : Nat) : State :=
  ((List.range 4).filter (fun i => !skip.contains (col * 4 + i))).foldl (fun s i =>
    s.freshCell (col * 4 + i) (fun _ => true) (b, cells (col * 4 + i))) s

/-- The next transfer of the sparing copy takes place (R245, R262). -/
def copyTransfer (s : State) (st ch : Nat) : State :=
  let c := s.chan st ch
  let p := c.pointer
  let col := c.copyAt % 4
  let a := copyAccess s st ch
  let s := issueRow s st ch a (col != 3)
  let s :=
    if a.write then copyLines s (bankFuse s st ch (bankKey 16 a.bank)) c.skip (fun line => cellNo (chanKey st ch) 16 a.bank a.row line) col
    else
      let (s, bad) := innerRead s st ch 6 c.spareRank (p % 16) (p / 16) col
      s.modChan st ch (fun c => { c with copyPoison := c.copyPoison + bad })
  s.modChan st ch (fun c => { c with copyAt := c.copyAt + 1 })

/-- The logical rank and row of a physical row of a bank, by the spare's steering. -/
def logicalRank (c : ChanState) (key : Nat) : Nat := if key / 16 = 16 then c.spareRank else key / 16

/-- A request of a fuse-map copy or walk for a block of a row of its bank (R291, R292); `line` is the walk's line. -/
def fuseReq (s : State) (st ch key row col : Nat) (write : Bool) (line : Option Nat) : OpenReq :=
  let rank := logicalRank (s.chan st ch) key
  let (fr, _, q) := blockSpot s st ch rank (key % 16) row col
  { rank := rank, bank := key % 16, row := row, col := col, write := write
    mask := match line with | some o => BitVec.ofNat 4 (2 ^ (o % 4)) | none => 15
    keep := false, source := .scrubber, master := 13, asOf := (s.chan st ch).abs, block := fr * 65536 + q, job := 5, arg := key }

/-- Presents requests of a fuse-map copy or walk. -/
def presentFuse (s : State) (st ch : Nat) (l : List OpenReq) : State := s.modChan st ch (fun c => { c with present := c.present ++ l })

/-- What a transfer of a fuse-map copy or walk does (R291, R292): a row copy reads four blocks, then writes them to the spare row; a
walk writes each line that it has read, with STEER. -/
def fuseDone (s : State) (st ch : Nat) (x : OpenReq) : State :=
  let key := x.arg
  let k := chanKey st ch
  let b := bankFuse s st ch key
  let here := steerRank (s.chan st ch) x.rank x.bank x.row == key / 16
  match b.job, x.write with
  | some (.row row), false =>
    let s := if here then (innerRead s st ch 6 x.rank x.bank row x.col).1 else s
    let s := s.modFuse st ch key (fun b => { b with at_ := b.at_ + 1 })
    if b.at_ = 3 then presentFuse s st ch ((List.range 4).map (fun c => fuseReq s st ch key row c true none)) else s
  | some (.row _), true =>
    (copyLines s b b.skip (fun line => cellNo k (key / 16) (key % 16) (8192 + b.rows.length) line) x.col).modFuse st ch key
      (fun b => { b with at_ := b.at_ + 1 })
  | some (.col o _), false =>
    let s := if here then (innerRead s st ch 6 x.rank x.bank x.row x.col).1 else s
    presentFuse s st ch [fuseReq s st ch key x.row x.col true (some o)]
  | some (.col o _), true =>
    let (fr, order, q) := blockSpot s st ch x.rank x.bank x.row x.col
    let q := q + 64 * (o % 4)
    let pl := (fr * 65536 + q) / 64
    let s := if here then s.putLine (locOf order fr q) pl (lineData s pl) (isPoison s pl) (s.hint.contains pl) else s
    s.modFuse st ch key (fun b => { b with at_ := b.at_ + 1 })
  | none, _ => s

/-- The transfers of a frame of a bank's fuse-map copy or walk are presented, once those before have issued (R291, R292, R294). -/
def fuseFrame (s : State) (st ch key : Nat) : State :=
  let c := s.chan st ch
  let b := bankFuse s st ch key
  if b.done || !stackReady s st || (c.queue ++ c.present).any (fun x => x.job == 5 && x.arg == key) then s else
  presentFuse s st ch (match b.job with
    | some (.row row) =>
      if b.at_ < 4 then (List.range (4 - b.at_)).map (fun i => fuseReq s st ch key row (b.at_ + i) false none)
      else (List.range (8 - b.at_)).map (fun i => fuseReq s st ch key row (b.at_ - 4 + i) true none)
    | some (.col o _) => (List.range (min 4 (8192 - b.at_))).map (fun i => fuseReq s st ch key (b.at_ + i) (o / 4) false (some o))
    | none => [])

/-! ### The slot -/

/-- What an issued request does beyond its traffic, whose effect was taken when it was presented. -/
def reqDone (s : State) (st ch : Nat) (x : OpenReq) : State :=
  match x.job, x.source with
  | 1, _ | 2, _ => scrubBlock s st ch x.rank x.bank x.row x.col
  | 5, _ => fuseDone s st ch x
  | 4, .spill k => spillDone s k.val x.arg
  | _, _ => s

/-- The request at a place of the queue may issue now: its turn has come (R247, R248), and the write of a narrow write keeps its gap
(R270). -/
def mayTake (c : ChanState) (i : Nat) : Bool :=
  orderOk c.queue i && (match c.queue[i]? with | some x => decide (x.hold ≤ c.abs) | none => false)

/-- The requests that issue together with the one at a place of the queue (R243): those of the same block and direction that may issue
now, itself among them. -/
def mergedWith (s : State) (st ch i : Nat) : List Nat :=
  let c := s.chan st ch
  (List.range c.queue.length).filter (fun j => j == i || (mayTake c j && (match c.queue[i]?, c.queue[j]? with
    | some x, some y => y.block == x.block && reqAccess s st ch y == reqAccess s st ch x
    | _, _ => false)))

/-- What an issue leaves of a request (R270): the write of a narrow write, six slots on; otherwise nothing. -/
def afterIssue (c : ChanState) (x : OpenReq) : Option OpenReq :=
  if x.narrow = 1 then some { x with narrow := 2, hold := c.abs + 6 } else none

/-- A master's latency after the slot transfer that completes its request (R368). -/
def latencySample (c : ChanState) (tset : Nat) (a : Arb) (x : OpenReq) : Arb :=
  if x.narrow = 1 then a
  else { a with lat := mput a.lat x.master (latencyStep (mget 0 a.lat x.master) ((c.abs + 1 - x.asOf) * slotThirds tset / 3)) }

/-- A request issues with those that it is merged with (R243). -/
def issueReq (s : State) (st ch tset i : Nat) : State :=
  let c := s.chan st ch
  match c.queue[i]? with
  | none => s
  | some x =>
    let merged := mergedWith s st ch i
    let ys := merged.filterMap (fun j => c.queue[j]?)
    let s := issue s st ch (reqAccess s st ch x) (x.keep && ys.all (·.keep))
    let s := s.modChan st ch (fun d => { d with
      queue := (List.range c.queue.length).filterMap (fun j => if merged.contains j then (c.queue[j]?).bind (afterIssue c) else c.queue[j]?)
      arb := ys.foldl (latencySample c tset) d.arb })
    (ys.filter (fun y => y.narrow != 1)).foldl (fun s y => reqDone s st ch y) s

/-- An open slot (R244): the request that the controller issues, if any. A training read issues only when nothing else waits
(R259). -/
def openSlot (s : State) (st ch tset : Nat) : State :=
  let c := s.chan st ch
  let next := nextClaims s st ch 9
  let can := fun (i : Nat) => mayTake c i && (match c.queue[i]? with
    | some x => (x.job != 3 || c.queue.length == 1) && slotOk tset c (reqAccess s st ch x)
        && next.all (fun y => claimAllows tset c (reqAccess s st ch x) y.1 y.2.1 y.2.2)
    | none => false)
  let ok := (List.range c.queue.length).filter can
  match ok with
  | [] => s
  | old :: _ =>
    let hit := ok.find? (fun i => match c.queue[i]? with | some x => rowHit c (reqAccess s st ch x) | none => false)
    let pick := if s.fieldEff 0x60000 4 4 ≤ c.passed then old else hit.getD old
    let s := s.modChan st ch (fun c => { c with passed := if pick = old then 0 else c.passed + 1 })
    issueReq s st ch tset pick

/-! ### The basted block -/

/-- The first slots of the tack part and of the calibration part (R39). -/
def tackFirst (tset : Nat) : Nat := [16, 13, 9].getD tset 16

/-- The first slot of the calibration part (R39). -/
def calFirst (tset : Nat) : Nat := [20, 16, 11].getD tset 20

/-- A slot of the basted block is in use in this frame (R39, R42). -/
def bastedUse (tset : Nat) (c : ChanState) : Bool :=
  if c.slot < tackFirst tset then c.refreshed else if c.slot < calFirst tset then c.tacked else c.calDone

/-- The victims that a tack part takes (R253): from the front, each in a different bank, at most `n`; and those left. -/
def takeVictims : Nat → List (Nat × Nat) → List Nat → Nat × List (Nat × Nat)
  | _, [], _ => (0, [])
  | n, v :: l, banks =>
    if banks.length < n ∧ v.1 ∉ banks then
      let r := takeVictims n l (v.1 :: banks)
      (r.1 + 1, r.2)
    else
      let r := takeVictims n l banks
      (r.1, v :: r.2)

/-- Tack rows of a frame (R39). -/
def tackRows (tset : Nat) : Nat := [4, 3, 2].getD tset 4

/-- The tack part of a channel begins (R41, R253). -/
def tackPart (s : State) (st ch tset : Nat) : State :=
  let r := takeVictims (tackRows tset) (s.chan st ch).victims []
  (s.modChan st ch (fun c => { c with victims := r.2, tacked := r.1 != 0 })).bump 0x6001C r.1

/-- A byte lane (R257): its capture delay is that of training until it is first moved. -/
def laneOf (k : Nat) (c : ChanState) (lane : Nat) : Lane := mget { delay := Config.trainedDelay (k * 32 + lane) } c.lanes lane

/-- A marked lane moves one step later or earlier (R257, R258). -/
def moveLane (k : Nat) (c : ChanState) (m : Nat × Bool) : ChanState :=
  let x := laneOf k c m.1
  { c with lanes := mput c.lanes m.1 { x with delay := if m.2 then x.delay + 1 else x.delay - 1 } }

/-- The calibration part of a channel begins: the marked lanes move (R258). -/
def calPart (s : State) (st ch : Nat) : State :=
  if (s.chan st ch).marked.isEmpty then s else
  (s.modChan st ch (fun c => { c.marked.foldl (moveLane (chanKey st ch)) c with
    marked := [], calDone := true, corrections := if c.corrections = 0xFFFF then 0xFFFF else c.corrections + 1 })).bump 0x60020 1

/-- What begins at a slot of the basted block; every row is closed at its end (R41). -/
def bastedPart (s : State) (st ch tset : Nat) : State :=
  let n := (s.chan st ch).slot
  if n = tackFirst tset then tackPart s st ch tset
  else if n = calFirst tset then calPart s st ch
  else if n = bastedB tset then s.modChan st ch (fun c => { c with rows := [] })
  else s

/-- Open slots of this frame are still withheld for the sparing copy (R261): they are released at the boundary after the change to
SPARED. -/
def withholds (s : State) (c : ChanState) : Bool :=
  (c.spare == .migrating || c.sparedAt == some s.ft.run) && decide (c.spareFrom < s.ft.run) && decide (c.withheld < s.fieldEff 0x60000 8 6)

/-- The sparing copy's next transfer may issue in the present slot (R44, R46, R262). -/
def copyGoes (s : State) (st ch tset : Nat) : Bool :=
  let c := s.chan st ch
  let a := copyAccess s st ch
  c.spare == .migrating && decide (c.copyAt < 8) && slotOk tset c a
    && (nextClaims s st ch 9).all (fun y => claimAllows tset c a y.1 y.2.1 y.2.2)

/-- A withheld slot (R261 to R263): the copy's next transfer, if the bank rules let it issue. -/
def withheldSlot (s : State) (st ch tset : Nat) : State :=
  let s := if copyGoes s st ch tset then copyTransfer s st ch else s
  s.modChan st ch (fun c => { c with withheld := c.withheld + 1 })

/-- The slot is withheld (R261). DESIGN CHOICE: while a row is being copied, the open slots taken are those in which its next transfer
may issue (log entry 145). -/
def slotWithheld (s : State) (st ch tset : Nat) : Bool :=
  let c := s.chan st ch
  withholds s c && (c.spare != .migrating || c.copyAt == 8 || copyGoes s st ch tset)

/-- A slot of a channel (R38 to R46): basted, a pattern claim's, withheld, or open. Rows are closed by the end of the basted
block (R41). -/
def dramSlot (s : State) (st ch : Nat) : State :=
  let t := modeSet s.pw.mode
  let c := s.chan st ch
  if !s.ft.running || s.pw.refLost || !stackReady s st || slotsN t ≤ c.slot then s else
  let s := bastedPart s st ch t
  let s :=
    if c.slot < bastedB t && bastedUse t (s.chan st ch) then s
    else match (liveClaims s st ch).find? (fun x => x.claim.slot == c.slot && decide (bastedB t ≤ c.slot)) with
      | some x => serveLive s st ch x
      | none =>
        if decide (bastedB t ≤ c.slot) && slotWithheld s st ch t then withheldSlot s st ch t else openSlot s st ch t
  s.modChan st ch (fun c => { c with slot := c.slot + 1, abs := c.abs + 1 })

/-- DRAM_SLOT. -/
def execDramSlot (t : Cluster) (h : Chan) (s : State) : Out := .next (dramSlot s t.val h.val)

/-! ### Calibration, sparing and scrubbing -/

/-- CAL_WINDOW_CLOSE (R257, R258): E and L of a lane's window of 4,096 probed reads. -/
def calWindow (s : State) (st ch lane e l : Nat) : State :=
  let k := chanKey st ch
  let c := s.chan st ch
  let x := laneOf k c lane
  if c.probed < x.probes + 4096 then s else
  let mark := if l + x.thresh ≤ e then some true else if e + x.thresh ≤ l then some false else none
  let s := s.modChan st ch (fun c => { c with
    lanes := mput c.lanes lane { x with probes := c.probed, thresh := s.fieldOf 0x60008 8 8 }
    marked := match mark with
      | some d => if s.fieldEff 0x60000 1 1 = 1 then mput c.marked lane d else c.marked
      | none => c.marked })
  if 128 ≤ e ∧ 128 ≤ l then
    raise (s.modChan st ch (fun c => { c with marginLane := lane })) evCalMargin []
      (w1 st ++ w1 ch ++ w1 lane ++ w1 e ++ w1 l ++ w1 x.delay.toNat)
  else s

/-- CAL_WINDOW_CLOSE. -/
def execCalWindowClose (t : Cluster) (h : Chan) (lane : Fin 32) (early : BitVec 13) (late : BitVec 13) (s : State) : Out :=
  .next (calWindow s t.val h.val lane.val early.toNat late.toNat)

/-- RANK_ROW_COPY (R261 to R263): the row that POINTER names has been copied. -/
def rankRowCopy (s : State) (st ch : Nat) : State :=
  let c := s.chan st ch
  if c.spare != .migrating || c.copyAt < 8 then s else
  let s := s.modChan st ch (fun c => { c with copyAt := 0, skip := [] })
  if c.pointer < 131071 then s.modChan st ch (fun c => { c with pointer := c.pointer + 1 })
  else
    let s := s.modChan st ch (fun c => { c with spare := .spared, sparedAt := some s.ft.run, level := mput c.level 16 0 })
    raise { s with recompute := Nat.lor s.recompute 2 } evSpared []
      (w1 st ++ w1 ch ++ w1 c.spareRank ++ wSat c.copyPoison ++ wSat (s.ft.run - c.spareFrom))

/-- RANK_ROW_COPY. -/
def execRankRowCopy (t : Cluster) (h : Chan) (s : State) : Out := .next (rankRowCopy s t.val h.val)

/-- The scrubber of a channel runs (R289). -/
def scrubRuns (s : State) (st : Nat) : Bool :=
  s.ft.running && s.fieldEff 0x70000 0 1 == 1 && stackReady s st

/-- A request of the scrubber for a block (R286, R288). -/
def scrubReq (s : State) (st ch n job : Nat) : OpenReq :=
  let (rank, bank, row, col) := blockParts n
  let fr := frameAt st ch bank row
  { rank := rank, bank := bank, row := row, col := col, write := false, mask := 15, keep := false, source := .scrubber, master := 13,
    asOf := (s.chan st ch).abs, block := fr * 65536 + blockByte (frameOrder s fr) row rank (bank % 4) col, job := job }

/-- The walk moves on by one block; a pass ends when it wraps (R286, R290). -/
def scrubOn (c : ChanState) : ChanState :=
  if c.scrubAt + 1 < chanBlocks then { c with scrubAt := c.scrubAt + 1 }
  else { c with scrubAt := 0, passes := c.passes + 1, rowsLast := c.rowsNow, rowsNow := [], colsNow := [] }

/-- A scrub read of the walk is presented. -/
def presentScrub (s : State) (st ch n : Nat) : State :=
  let r := scrubReq s st ch n 1
  s.modChan st ch (fun c => { c with present := c.present ++ [r] })

/-- The oldest owed read of the walk is presented, if none is (R286). -/
def presentOwed (s : State) (st ch : Nat) : State :=
  let c := s.chan st ch
  match c.owed with
  | n :: rest => if c.present.any (fun x => x.job == 1) then s else presentScrub (s.modChan st ch (fun c => { c with owed := rest })) st ch n
  | [] => s

/-- SCRUB_INTERVAL (R286): the walk's next read is presented or owed; while 64 are owed it is dropped, and its block skipped. -/
def scrubInterval (s : State) (st ch : Nat) : State :=
  if !scrubRuns s st then s else
  let s := presentOwed s st ch
  let c := s.chan st ch
  let s := s.modChan st ch scrubOn
  if !c.present.any (fun x => x.job == 1) then presentScrub s st ch c.scrubAt
  else if c.owed.length < 64 then
    let s := s.modChan st ch (fun d => { d with owed := d.owed ++ [c.scrubAt] })
    if c.owed.length = 63 then setInt s 6 5 else s
  else s

/-- SCRUB_INTERVAL. -/
def execScrubInterval (t : Cluster) (h : Chan) (s : State) : Out := .next (scrubInterval s t.val h.val)

/-- DIRECTED_SCRUB (R288): the first block of the directed queue is read ahead of the walk. -/
def execDirectedScrub (t : Cluster) (h : Chan) (s : State) : Out :=
  .next (match (s.chan t.val h.val).directed with
    | n :: rest =>
      if scrubRuns s t.val then
        let r := scrubReq s t.val h.val n 2
        s.modChan t.val h.val (fun c => { c with directed := rest, present := r :: c.present })
      else s
    | [] => s)

/-- BUCKET_LEAK (R285). -/
def execBucketLeak (s : State) : Out :=
  .next { s with chans := s.chans.map (fun (c : Nat × ChanState) => (c.1, { c.2 with level := c.2.level.map (fun (l : Nat × Nat) => (l.1, l.2 - 1)) })) }

/-- ROW_SPARE_COPY_DONE (R291): the last of the copy's writes has issued, and the map takes the entry at the next boundary. -/
def rowSpareDone (s : State) (st ch rank bank : Nat) : State :=
  let key := bankKey rank bank
  match (bankFuse s st ch key).job with
  | some (.row _) => if 8 ≤ (bankFuse s st ch key).at_ then s.modFuse st ch key (fun x => { x with done := true }) else s
  | _ => s

/-- ROW_SPARE_COPY_DONE. -/
def execRowSpareCopyDone (t : Cluster) (h : Chan) (rank : Fin 17) (bank : Fin 16) (s : State) : Out :=
  .next (rowSpareDone s t.val h.val rank.val bank.val)

/-- COLUMN_SPARE_WALK_DONE (R292): the walk has written its line of every row, and the map takes the entry at the next boundary. -/
def columnDone (s : State) (st ch rank bank : Nat) : State :=
  let key := bankKey rank bank
  match (bankFuse s st ch key).job with
  | some (.col ..) => if 8192 ≤ (bankFuse s st ch key).at_ then s.modFuse st ch key (fun x => { x with done := true }) else s
  | _ => s

/-- COLUMN_SPARE_WALK_DONE. -/
def execColumnSpareWalkDone (t : Cluster) (h : Chan) (rank : Fin 17) (bank : Fin 16) (s : State) : Out :=
  .next (columnDone s t.val h.val rank.val bank.val)

/-- DRAM_SPARE (R260). -/
def dramSpareH : Handler := fun s m =>
  let st := m.f 0 1
  let ch := m.f 1 1
  let rank := m.f 2 1
  if 20 ≤ st ∨ 32 ≤ ch ∨ 16 ≤ rank then (s, .done stRange []) else
  let (s, ok) := spareRequest s st ch rank 1
  (s, .done (if ok then stOK else 0x80) [])

/-- DRAM_SPARE. -/
def execDramSpare (via : Path) (input : List Byte) (s : State) : Out := .next (mci s via 0xC071 input dramSpareH)

end Sys2Proof.Machine
end

