-- ==== Sys2Proof/Machine/Arbiters.lean ====
section
/-! DEFINITION. The arbiters (R356 to R370, R376), the guarantee ledger (R371 to R375) and its commands. -/

namespace Sys2Proof.Machine

/-! ### The shared design -/

/-- A requesting master: its number, its priority and its class (R359). -/
structure Bid where
  m   : Nat
  pri : Nat
  cls : Nat
  deriving DecidableEq, Repr

/-- The master that a decision grants (R360), with its class. -/
def winner (ptr : AMap Nat) (bids : List Bid) : Option Bid :=
  let top := bids.foldl (fun p b => max p b.pri) 0
  let at_ := bids.filter (fun b => b.pri == top)
  let cls := at_.foldl (fun c b => min c b.cls) 4
  let of := at_.filter (fun b => b.cls == cls)
  (of.find? (fun b => decide (mget 0 ptr cls ≤ b.m))).orElse (fun _ => of.head?)

/-- AQ_AGE.AGE_MAX. -/
def ageMax (s : State) : Nat := s.fieldOf 0x9000C 0 5

/-- AQ_AGE.WAIT_LIMIT. -/
def waitLimit (s : State) : Nat := s.fieldOf 0x9000C 8 12

/-- AQ_CLASS.BASEc. -/
def basePri (s : State) (cls : Nat) : Nat := s.fieldOf 0x90008 (8 * cls) 5

/-- What a decision does to an arbiter's counters (R360 to R362): `n` masters, some of them masked. -/
def decided (s : State) (a : Arb) (n : Nat) (bids : List Bid) (masked : Nat → Bool) (w : Option Bid) : Arb :=
  let round := decide (1 < bids.length)
  let won := fun (m : Nat) => match w with | some b => b.m == m | none => false
  let asks := fun (m : Nat) => bids.any (fun b => b.m == m)
  { a with
    ptr := match w with | some b => mput a.ptr b.cls ((b.m + 1) % n) | none => a.ptr
    age := (List.range n).foldl (fun x m =>
      if won m || masked m then mdel x m else if round && asks m then mput x m (min (mget 0 x m + 1) (ageMax s)) else x) a.age
    wait := (List.range n).foldl (fun x m => if won m || !asks m then mdel x m else mput x m (mget 0 x m + 1)) a.wait
    grant := w.map (·.m)
    last := match w with | some b => b.m | none => a.last
    busy := !bids.isEmpty }

/-- A win at P = 33 is counted (R362). -/
def countForced (s : State) (w : Option Bid) : State :=
  match w with
  | some b => if b.pri = 33 then setInt (s.bump 0x90044 1) 9 2 else s
  | none => s

/-- The arbiters run per-cycle (R366). -/
def perCycle (s : State) : Bool :=
  decide (s.pw.stage < 7) || s.fieldEff 0x90000 0 1 == 1 || !s.rv.resets.isEmpty

/-- A decision is taken in this cycle (R366): an idle parked arbiter whose last winner alone requests takes none. -/
def parkedFor (s : State) (a : Arb) (bids : List Bid) : Bool :=
  !perCycle s && !a.busy && a.grant.isNone && bids.map (·.m) == [a.last]

/-! ### Masters -/

/-- A master is masked in the whole module (R357, R365): its port, codec array or tiering engine is off, or the hub die, in
which its block lies, is under reset. -/
def masterMasked (s : State) (m : Nat) : Bool :=
  let hub := mhas s.rv.resets 7722 && (decide (m ≤ 10) || m == 14)
  hub || (if h : m < 8 then !(s.port ⟨m, h⟩).up || !domOn s (60 + m) else if m = 8 then !domOn s 77 else if m = 10 then !domOn s 78 else false)

/-- AQ_MASTER_CFG.CLASS. -/
def masterClass (s : State) (m : Nat) : Nat := s.fieldOf 0x9001C 0 2 m

/-- AQ_MASTER_RATE.RATE and BURST. -/
def masterRate (s : State) (m : Nat) : Nat × Nat := (s.fieldOf 0x90020 0 9 m, s.fieldOf 0x90020 16 8 m)

/-- A master never lacks a token (R369); SCRUB under throttling has only what its bucket holds (R465). -/
def unlimited (s : State) (m : Nat) : Bool := (masterRate s m).1 == 511 && !(m == 13 && decide (1 ≤ s.pw.throttle))

/-- Tokens of a master on a channel: a bucket starts at BURST. -/
def tokensOf (s : State) (a : Arb) (m : Nat) : Nat := mget (masterRate s m).2 a.tokens m

/-- BOOST (R368). -/
def boostOf (s : State) (a : Arb) (m : Nat) : Nat :=
  let t := s.fieldOf 0x9001C 4 12 m * 10
  let x := mget 0 a.lat m
  if t = 0 ∨ 2 * x < t then 0 else if x < t then 8 * (2 * x - t) / t else 8

/-- The effective value of a ledger entry on a channel (R374). -/
def effOf (s : State) (st ch i : Nat) (e : LedgerEntry) : Nat :=
  if bit e.clusters.toNat st then (s.chan st ch).eff.getD i e.value else 0

/-- The guarantee counter of a master on a channel (R371); during a change of timing set nothing is owed (R374). -/
def guarLeft (s : State) (st ch m : Nat) : Nat :=
  if inSetChange s then 0 else
  let sum := ((List.range s.ledger.length).map (fun i => match s.ledger[i]? with
    | some e => if e.master = m then effOf s st ch i e else 0
    | none => 0)).sum
  sum - mget 0 (s.chan st ch).arb.guar m

/-- Urgency allowances left on a channel in this frame (R370, R465). -/
def allowLeft (s : State) (a : Arb) : Nat := if 2 ≤ s.pw.throttle then 0 else s.fieldEff 0x90000 16 4 - a.allow

/-- Spill rows of a step are pending on a channel and few frames remain before the next sample (R370). -/
def spillUrgent (s : State) (st ch : Nat) : Bool :=
  s.cues.any (fun (x : Nat × Cue) => match runOf s x.1 with
    | some (q, b, p) => q.phase == .running && decide (q.due ≤ s.ft.run + 1 + s.fieldOf 0x90014 16 4)
        && (placement b p).any (fun k => k / 128 == st && k % 128 / 4 == ch && (s.core k).rows.any (fun (y : Nat × List IndRow) => !y.2.isEmpty))
    | none => false)

/-- An urgency wire is raised (R357, R370). How full the buffers of ports and codecs are is open in the model: a free bit. -/
def wireUp (s : State) (st ch m : Nat) : Bool :=
  if m ≤ 8 ∨ m = 10 then Config.freeBit (s.free * 16 + m) else if m = 11 then spillUrgent s st ch else false

/-! ### Admission to a channel's queue -/

/-- Requests of the queue's 60 entries that are not reserved (R358). -/
def openLevel (c : ChanState) : Nat := (c.queue.filter (fun x => !x.recallW)).length

/-- A request as it arrives at the controller: its MX-12 class is that of DC_CTRL.MX12 then (R248). -/
def arrived (s : State) (x : OpenReq) : OpenReq := { x with mx12 := x.mx12 && s.fieldEff 0x60000 0 1 == 1 }

/-- Recall-class writes enter the four reserved entries (R358). -/
def admitRecalls (s : State) (c : ChanState) : ChanState :=
  let room := 4 - (c.queue.filter (·.recallW)).length
  let go := (c.present.filter (·.recallW)).take room
  { c with queue := c.queue ++ go.map (arrived s), present := go.foldl (fun l x => l.erase x) c.present }

/-- The channel is owed a training read in this frame (R259): few reads in the last 8,192 frames, and nothing else open. -/
def wantsTraining (s : State) (c : ChanState) : Bool :=
  c.queue.isEmpty && c.present.isEmpty && !c.trainNow
    && decide (((c.reads.filter (fun (x : Nat × Nat) => decide (s.ft.run < x.1 + 8192))).map (·.2)).sum < 4096)

/-- The training read of this frame is presented (R259). -/
def presentTraining (s : State) (st ch : Nat) : State :=
  let c := s.chan st ch
  if !s.ft.running || !wantsTraining s c then s else
  let r := scrubReq s st ch c.trainAt 3
  s.modChan st ch (fun c => { c with present := [r], trainNow := true, trainAt := (c.trainAt + 1) % chanBlocks })

/-- A presented request stands (R289): the scrubber's do not while it pauses. -/
def reqStands (s : State) (st : Nat) (x : OpenReq) : Bool := !(x.job == 1 || x.job == 2) || scrubRuns s st

/-- A master requests on a channel (R359). -/
def requests (s : State) (st ch m : Nat) : Bool :=
  let c := s.chan st ch
  c.present.any (fun x => x.master == m && !x.recallW && reqStands s st x) && !masterMasked s m
    && (unlimited s m || decide (0 < guarLeft s st ch m) || decide (0 < tokensOf s c.arb m))

/-- The effective priority of a requesting master (R359). -/
def priority (s : State) (st ch m : Nat) : Nat :=
  let a := (s.chan st ch).arb
  if waitLimit s ≤ mget 0 a.wait m then 33
  else if wireUp s st ch m && s.fieldOf 0x9001C 3 1 m == 1 && decide (0 < allowLeft s a) then 32
  else if 0 < guarLeft s st ch m then 31
  else min 30 (basePri s (masterClass s m) + mget 0 a.age m + boostOf s a m)

/-- The next request of a master is admitted (R363, R369); an owed scrub read takes the place of one admitted (R286). With
nothing to take, the cycle is empty. -/
def admitReq (s : State) (st ch m : Nat) : State :=
  let c := s.chan st ch
  match if masterMasked s m then none else c.present.find? (fun x => x.master == m && !x.recallW && reqStands s st x) with
  | none => s.bump 0x90048 1
  | some x =>
    let guar := decide (0 < guarLeft s st ch m)
    let have_ := tokensOf s c.arb m
    let s := s.modChan st ch (fun c => { c with
      present := c.present.erase x
      queue := c.queue ++ [arrived s x]
      arb := if guar then { c.arb with guar := mmod 0 c.arb.guar m (· + 1) } else { c.arb with tokens := mput c.arb.tokens m (have_ - 1) } })
    if x.job = 1 then presentOwed s st ch else s

/-- A win at band 32 with no guarantee left uses an urgency allowance (R370). -/
def useAllowance (s : State) (st ch : Nat) (w : Option Bid) (guar : Nat → Nat) : State :=
  match w with
  | some b =>
    if b.pri = 32 ∧ guar b.m = 0 then
      let last := allowLeft s (s.chan st ch).arb == 1
      let s := s.modChan st ch (fun c => { c with arb := { c.arb with allow := c.arb.allow + 1 } })
      if last then setInt s 9 3 else s
    else s
  | none => s

/-- A clock in which the queue has no place to grant: no decision is taken, and the masters that request wait (R358, R362). -/
def heldClock (a : Arb) (ms : List Nat) : Arb :=
  { a with wait := (List.range 15).foldl (fun x m => if ms.contains m then mput x m (mget 0 x m + 1) else mdel x m) a.wait
           grant := none, busy := !ms.isEmpty }

/-- One DRAM clock of a channel's admission arbiter (R358 to R367): recall-class writes, the decision on the state at the start
of the cycle, and the grant decided in the cycle before. -/
def admission (s : State) (st ch : Nat) : State :=
  let old := (s.chan st ch).arb.grant
  if !stackAwake s st then
    (if old.isSome then (s.modChan st ch (fun c => { c with arb := { c.arb with grant := none } })).bump 0x90048 1 else s)
  else
  let s := presentTraining (s.modChan st ch (admitRecalls s)) st ch
  let a := (s.chan st ch).arb
  let ms := (List.range 15).filter (requests s st ch)
  let bids := ms.map (fun m => (⟨m, priority s st ch m, masterClass s m⟩ : Bid))
  let guar := fun m => guarLeft s st ch m
  let s := s.tick
  if 60 ≤ openLevel (s.chan st ch) + b2n old.isSome then
    let s := s.modChan st ch (fun c => { c with arb := heldClock a ms })
    match old with
    | some m => admitReq s st ch m
    | none => s
  else if parkedFor s a bids then
    let s := s.modChan st ch (fun c => { c with arb := { c.arb with age := mdel c.arb.age a.last, wait := mdel c.arb.wait a.last, busy := true } })
    admitReq s st ch a.last
  else
    let w := winner a.ptr bids
    let s := s.modChan st ch (fun c => { c with arb := decided s a 15 bids (masterMasked s) w })
    let s := useAllowance (countForced s w) st ch w guar
    match old with
    | some m => admitReq s st ch m
    | none => s

/-- DRAM_ADMISSION_DECISION. -/
def execDramAdmissionDecision (t : Cluster) (h : Chan) (s : State) : Out := .next (admission s t.val h.val)

/-! ### Link and flash arbiters -/

/-- The bids of an arbiter without guarantees, urgency or BOOST (R359). -/
def plainBids (s : State) (a : Arb) (ms : List Nat) (cls : Nat → Nat) : List Bid :=
  ms.map (fun m => ⟨m, if waitLimit s ≤ mget 0 a.wait m then 33 else min 30 (basePri s (cls m) + mget 0 a.age m), cls m⟩)

/-- One cycle of such an arbiter: the decision, and the grant of the cycle before (R363). The outcome names the master that
was granted. -/
def plainCycle (s : State) (a : Arb) (n : Nat) (ms : List Nat) (cls : Nat → Nat) (masked : Nat → Bool) : State × Arb × Option Nat :=
  let bids := plainBids s a ms cls
  if parkedFor s a bids then
    (s, { a with age := mdel a.age a.last, wait := mdel a.wait a.last, busy := true }, some a.last)
  else
    let w := winner a.ptr bids
    let b := decided s a n bids masked w
    let s := countForced s w
    match a.grant with
    | some m => if ms.contains m then (s, b, some m) else (s.bump 0x90048 1, b, none)
    | none => (s, b, none)

/-- The masters of a die-to-hub link (R356). -/
def linkMasters : List Nat := List.range 11 ++ [12, 14]

/-- LINK_ARBITER_DECISION (R356): the masters that present 256 bytes in this cycle. -/
def execLinkArbiterDecision (die : Fin 2) (toHub : Bool) (asks : BitVec 15) (s : State) : Out :=
  .next (
    let k := die.val * 2 + b2n toHub
    let ms := linkMasters.filter (fun m => bit asks.toNat m && !masterMasked s m)
    let (s, a, _) := plainCycle s (mget {} s.linkArbs k) 15 ms (masterClass s) (masterMasked s)
    { s with linkArbs := mput s.linkArbs k a })

/-- A flash master is kept from the NAND by the operating mode (R459): HOLD runs META only, SERVE and LOW hold GC back until its
urgency wire is raised. How many blocks are free is open in the model: a free bit. -/
def flashMasked (s : State) (m : Nat) : Bool :=
  if s.pw.mode = 5 then m != 4
  else m == 3 && (s.pw.mode == 3 || s.pw.mode == 4) && !Config.freeBit (s.free * 16 + 3)

/-- FLASH_ARBITER_DECISION (R376): REBUILD is granted while its bucket is not in debt; an operation takes a number of bytes that
the spec leaves open. -/
def execFlashArbiterDecision (b : Bay) (ch : Fin 8) (asks : BitVec 5) (s : State) : Out :=
  ifApplies (s.bay b.val).powered s (
    let a := mget {} (s.bay b.val).arbs ch.val
    let cls := fun m => s.fieldOf 0x9004C (2 * m) 2
    let ms := (List.range 5).filter (fun m => bit asks.toNat m && !flashMasked s m && (m != 2 || mget 0 a.tokens 2 == 0))
    let (t, a, g) := plainCycle s a 5 ms cls (flashMasked s)
    let a := if g = some 2 then { a with tokens := mput a.tokens 2 (Config.freeWord s.free).toNat } else a
    t.tick.modBay b.val (fun x => { x with arbs := mput x.arbs ch.val a }))

/-- A change of a master's mask on one arbiter (R361, R362, R365, R368). -/
def maskArb (raised : Bool) (m : Nat) (a : Arb) : Arb :=
  if raised then { a with age := mdel a.age m, wait := mdel a.wait m, lat := mdel a.lat m } else { a with tokens := mdel a.tokens m }

/-- MASTER_MASK_CHANGE (R365): the mask stands as the master's condition does. -/
def execMasterMaskChange (m : Fin 15) (raised : Bool) (s : State) : Out :=
  ifApplies (masterMasked s m.val == raised) s
    { s with chans := s.chans.map (fun (c : Nat × ChanState) => (c.1, { c.2 with arb := maskArb raised m.val c.2.arb }))
             linkArbs := s.linkArbs.map (fun (a : Nat × Arb) => (a.1, maskArb raised m.val a.2)) }

/-! ### Boundaries -/

/-- The tokens that a DRAM master gains at a frame boundary (R369, R465). -/
def tokenGain (s : State) (level m : Nat) : Nat :=
  let r := (masterRate s m).1
  if m = 13 ∧ 1 ≤ s.pw.throttle then 0
  else if s.fieldOf 0x9001C 2 1 m = 0 then r
  else if 2 ≤ s.pw.throttle then r / 4
  else if level < s.fieldEff 0x90010 0 6 then r
  else if level < s.fieldEff 0x90010 8 6 then r / 2
  else r / 4

/-- A channel's buckets gain tokens, and its guarantee counters and allowances are set again (R369 to R371). A bucket at BURST
needs no entry. -/
def refillChan (s : State) (c : ChanState) : ChanState :=
  let level := openLevel c
  { c with arb := { c.arb with
    tokens := c.arb.tokens.filterMap (fun (t : Nat × Nat) =>
      let n := t.2 + tokenGain s level t.1
      if (masterRate s t.1).2 ≤ n then none else some (t.1, n))
    guar := [], allow := 0 } }

/-- What REBUILD's bucket of a flash channel gains at a boundary, in tenths of a byte (R314, R376): CT_CTRL.RATE in units of
100 MB/s over a frame of 1.024 µs, halved by throttling and by SERVE and LOW (R459, R465). -/
def rebuildGain (s : State) (b : Nat) : Nat :=
  let rate := s.fieldOf 0x80000 0 6 * 1024
  match s.walk with
  | none => 0
  | some w =>
    let n := if w.target.val = b || w.copy then rate / 8 else 6 * rate / 56
    let n := if 1 ≤ s.pw.throttle then n / 2 else n
    if s.pw.mode = 3 ∨ s.pw.mode = 4 then n / 2 else n

/-- All buckets at a boundary. -/
def refill (s : State) : State :=
  { s with
    chans := s.chans.map (fun (c : Nat × ChanState) => (c.1, refillChan s c.2))
    bays := s.bays.map (fun (b : Nat × BayState) => (b.1, { b.2 with arbs := b.2.arbs.map (fun (a : Nat × Arb) =>
      (a.1, { a.2 with tokens := a.2.tokens.map (fun (t : Nat × Nat) => (t.1, t.2 - rebuildGain s b.1)) })) })) }

/-! ### The ledger -/

/-- The sum of the values of the entries that cover a cluster. -/
def covering (l : List LedgerEntry) (st : Nat) : Nat := ((l.filter (fun e => bit e.clusters.toNat st)).map (·.value)).sum

/-- Gives one more slot to each entry of a class in turn until they sum to what is available (R374). -/
def topUp (is : List Nat) (avail : Nat) : Nat → AMap Nat → AMap Nat
  | 0, m => m
  | n + 1, m =>
    let m := is.foldl (fun m i => if (is.map (fun j => mget 0 m j)).sum < avail then mmod 0 m i (· + 1) else m) m
    if (is.map (fun j => mget 0 m j)).sum < avail then topUp is avail n m else m

/-- The effective values on a channel of a cluster (R374), by ledger place; an entry that does not cover it has 0. -/
def shrinkTo (l : List LedgerEntry) (st cap : Nat) : List Nat :=
  let cov := (List.range l.length).filter (fun i => match l[i]? with | some e => bit e.clusters.toNat st | none => false)
  let value := fun (i : Nat) => match l[i]? with | some e => e.value | none => 0
  let (m, _) := [3, 2, 1, 0].foldl (fun (x : AMap Nat × Nat) cls =>
    let is := cov.filter (fun i => match l[i]? with | some e => e.cls == cls | none => false)
    let sum := (is.map value).sum
    let cut := min sum x.2
    let avail := sum - cut
    let m := is.foldl (fun m i => mput m i (value i * avail / sum)) x.1
    (topUp is avail 1 m, x.2 - cut)) ([], covering l st - cap)
  (List.range l.length).map (fun i => mget 0 m i)

/-- Capacity and effective values of every channel are computed again (R372, R374, R375). -/
def recomputeChans (s : State) : State :=
  let claimed := claimedSlots s
  { s with chans := (List.range 640).map (fun k =>
      let c := mget {} s.chans k
      let cap := capOf s claimed k
      (k, { c with cap := cap, eff := shrinkTo s.ledger (k / 32) cap, cut := covering s.ledger (k / 32) - cap })) }

/-- The ledger's part of a boundary during a change of timing set (R372 to R374): an accepted set takes effect, uncut, capacity is
computed again where it is due, and what is to be cut is settled at the change's end. -/
def ledgerInChange (s : State) : State :=
  let t := loadCaps { s with ledger := s.ledgerNext.getD s.ledger, ledgerNext := none, recompute := Nat.lor s.recompute 32 }
  if s.ledgerNext.isNone then t
  else { t with chans := t.chans.map (fun (c : Nat × ChanState) => (c.1, { c.2 with eff := [], cut := 0 })) }

/-- The ledger's part of a boundary (R371 to R375): an accepted set takes effect, capacity is computed again where it is due,
and the guarantees' events are raised. Nothing is cut or reported during a change of timing set. -/
def ledgerBoundary (s : State) : State :=
  if s.recompute = 0 && s.ledgerNext.isNone then s
  else if inSetChange s then ledgerInChange s else
  let cause := s.recompute % 32
  let old := s.chans
  let s := recomputeChans { s with ledger := s.ledgerNext.getD s.ledger, ledgerNext := none, recompute := 0 }
  let shrunk := s.chans.filter (fun (c : Nat × ChanState) => decide (0 < c.2.cut))
  let deeper := shrunk.any (fun (c : Nat × ChanState) => decide ((mget {} old c.1).cut < c.2.cut))
  if shrunk.isEmpty then
    (if s.shrunk then raise { s with shrunk := false } evGuaranteeRestored [] (wSat (s.ft.run - s.shrunkAt)) else s)
  else
    let s : State := { s with shrunk := true, shrunkAt := if s.shrunk then s.shrunkAt else s.ft.run }
    if !deeper then s else
    let worst := shrunk.foldl (fun (m : Nat × ChanState) (c : Nat × ChanState) => if m.2.cut < c.2.cut then c else m) (0, {})
    raise s evGuaranteeShrunk [] (w1 shrunk.length ++ w1 (worst.1 / 32) ++ w1 (worst.1 % 32) ++ w1 worst.2.cap
      ++ w1 (covering s.ledger (worst.1 / 32)) ++ w1 cause)

/-- The entries of a LEDGER_SET (R373, R402). -/
def ledgerEntries (m : MciCall) : List LedgerEntry :=
  (List.range (m.f 0 1)).map (fun i => ⟨m.f (8 + 8 * i) 1, m.f (9 + 8 * i) 1, m.f (10 + 8 * i) 1, BitVec.ofNat 20 (m.f (12 + 8 * i) 4)⟩)

/-- LEDGER_SET (R373). -/
def ledgerSetH : Handler := fun s m =>
  let l := ledgerEntries m
  if 64 < l.length then (s, .done 0x84 [])
  else if l.any (fun e => decide (14 < e.master) || decide (3 < e.cls) || e.value == 0 || decide (168 < e.value)) then (s, .done stRange [])
  else
    let claimed := claimedSlots s
    if (List.range 640).any (fun k => decide (capOf s claimed k < covering l (k / 32))) then (s, .done 0x83 [])
    else ({ s with ledgerNext := some l }, .done stOK [])

/-- LEDGER_SET. -/
def execLedgerSet (via : Path) (input : List Byte) (s : State) : Out := .next (mci s via 0xC090 input ledgerSetH)

/-- The smallest effective value of an entry on the channels that it covers; an entry that covers none keeps its value. -/
def effMin (s : State) (i : Nat) (e : LedgerEntry) : Nat :=
  ((List.range 640).filter (fun k => bit e.clusters.toNat (k / 32))).foldl (fun n k => min n (effOf s (k / 32) (k % 32) i e)) e.value

/-- LEDGER_QUERY (R373, R402). -/
def ledgerQueryH : Handler := fun s _ =>
  (s, .done stOK (leBytes 4 s.ledger.length ++ (List.range s.ledger.length).flatMap (fun i => match s.ledger[i]? with
    | some e => leBytes 1 e.master ++ leBytes 1 e.cls ++ leBytes 1 e.value ++ leBytes 1 (effMin s i e) ++ leBytes 4 e.clusters.toNat
    | none => [])))

/-- LEDGER_QUERY. -/
def execLedgerQuery (via : Path) (input : List Byte) (s : State) : Out := .next (mci s via 0xC091 input ledgerQueryH)

end Sys2Proof.Machine
end

