-- ==== Sys2Proof/Machine/CxlMailbox.lean ====
section
/-! DEFINITION. The CXL commands of a PF mailbox (R353, R381, R384). The layouts of their payloads are those of CXL
3.1, which the spec names and does not repeat (PRESUMED). -/

namespace Sys2Proof.Machine

/-- A CXL command whose input has one length and one acceptance test: Invalid Payload Length is 0x16 and Invalid Input
is 2. -/
def cxlCommand (s : State) (p : Port) (b : Bool) (okLen okInput : Bool) (f : State → State) : State :=
  if !stewardHears s (.mailbox p b) then s
  else if !okLen then cxlAnswer s p b 0x16 []
  else if !okInput then cxlAnswer s p b 2 []
  else f s

/-- The output of Identify Memory Device: no static capacity, five logs of 256 records, no label storage and no poison
list; the firmware revision, and the poison and telemetry capability bytes, are open. -/
def identifyBytes (s : State) : List Byte :=
  let open_ := fun (n off : Nat) => (List.range n).map (fun i => Config.freeByte (s.free * 4096 + off + i))
  open_ 16 0 ++ leBytes 32 0 ++ (List.replicate 4 (leBytes 2 256)).flatten ++ leBytes 4 0 ++ open_ 7 16 ++ leBytes 2 256

/-- IDENTIFY_MEMORY_DEVICE (R384). -/
def execIdentifyMemoryDevice (p : Port) (secondary : Bool) (input : List Byte) (s : State) : Out :=
  .next (cxlCommand s p secondary input.isEmpty true (fun s => cxlAnswer s.tick p secondary 0 (identifyBytes s)))

/-- A UUID as its text writes it, first byte first. -/
def uuidBytes (u : BitVec 128) : List Byte := (leBytes 16 u.toNat).reverse

/-- The UUID of the Command Effects Log. -/
def celUuid : List Byte := uuidBytes 0x0da9c0b5bf414b788f7996b1623b3f17

/-- The CXL opcodes of R384 with their effects, as bits of CXL 3.1: 3 immediate policy change, 4 immediate log change, 6
background operation; 2 immediate data change; 1 immediate configuration change. -/
def cxlOpcodes : List (Nat × Nat) :=
  [(0x0100, 0), (0x0101, 16), (0x0102, 0), (0x0103, 8), (0x0201, 64), (0x0202, 0), (0x0300, 0), (0x0301, 0), (0x0400, 0),
   (0x0401, 0), (0x4000, 0), (0x4800, 0), (0x4801, 0), (0x4802, 4), (0x4803, 4)]

/-- The Command Effects Log: each CXL command, and each MCI command with open effects. -/
def celBytes : List Byte :=
  cxlOpcodes.flatMap (fun x => leBytes 2 x.1 ++ leBytes 2 x.2)
    ++ (List.range 256).flatMap (fun i =>
      if (mciRow (0xC000 + i)).isSome then leBytes 2 (0xC000 + i) ++ leBytes 2 (Config.cmdEffect (0xC000 + i)).toNat else [])

/-- GET_SUPPORTED_LOGS (R384): the Command Effects Log only. -/
def execGetSupportedLogs (p : Port) (secondary : Bool) (input : List Byte) (s : State) : Out :=
  .next (cxlCommand s p secondary input.isEmpty true (fun s =>
    cxlAnswer s p secondary 0 (leBytes 2 1 ++ leBytes 6 0 ++ celUuid ++ leBytes 4 celBytes.length)))

/-- Get Log: log identifier, offset and length; an unknown log is Unsupported (Invalid Log, 0x17). -/
def getLogAnswer (s : State) (p : Port) (b : Bool) (input : List Byte) : State :=
  let off := bfield input 16 4
  let len := bfield input 20 4
  if input.take 16 ≠ celUuid then cxlAnswer s p b 0x17 []
  else if celBytes.length < off + len then cxlAnswer s p b 2 []
  else cxlAnswer s p b 0 ((celBytes.drop off).take len)

/-- GET_LOG (R384). -/
def execGetLog (p : Port) (secondary : Bool) (input : List Byte) (s : State) : Out :=
  .next (cxlCommand s p secondary (input.length == 24) true (fun s => getLogAnswer s p secondary input))

/-- The log that a number names: 0 Informational to 3 Fatal, 4 Dynamic Capacity. -/
def logOf (n : Nat) : Option LogKind := [LogKind.informational, .warning, .failure, .fatal, .dynamicCapacity][n]?

/-- Bytes 0x30 to 0x7F of a General Media Event Record (R353): the device address, an uncorrectable event, its type and
transaction type; no other field is valid. -/
def mediaBytes (r : LogRecord) : List Byte :=
  let w := fun i => (r.words.getD i 0).toNat
  let tx := match w 0 with | 0 => 1 | 5 => 2 | 4 => 5 | _ => 0
  leBytes 8 (w 1 + w 2 * 0x100000000) ++ leBytes 1 1 ++ leBytes 1 (if r.code.toNat = evSealFail.code then 2 else 0)
    ++ leBytes 1 tx ++ leBytes 69 0

/-- Bytes 0x30 to 0x7F of a Dynamic Capacity Event Record: type, host, region 0, and the extent. -/
def capacityBytes (r : LogRecord) : List Byte :=
  leBytes 1 r.code.toNat ++ leBytes 1 0 ++ leBytes 2 r.ctx.toNat ++ leBytes 4 0
    ++ (List.range 8).flatMap (fun i => leBytes 4 (r.words.getD i 0).toNat) ++ leBytes 40 0

/-- The UUID of a record's kind. -/
def recordUuid : RecordKind → List Byte
  | .vendor => uuidBytes 0x4d58a0c20b1e4c379e216a5f0c3d7e10
  | .generalMedia => uuidBytes 0xfbcd0a77c260417f85a9088b1621eba6
  | .dynamicCapacity => uuidBytes 0xca95afa7f18340188c2f95268e101a2a

/-- The 128 bytes of an event record (R353): the common header, and at 0x30 the record's own fields. -/
def recordBytes (k : LogKind) (r : LogRecord) : List Byte :=
  recordUuid r.kind ++ leBytes 1 128 ++ leBytes 3 (min (logIx k) 3 % 4 * b2n (k != .dynamicCapacity)) ++ leBytes 2 r.handle
    ++ leBytes 2 0 ++ leBytes 8 r.time.toNat ++ leBytes 16 0
    ++ (match r.kind with
      | .vendor => entryBytes false 2 r.code.toNat r.ctx.toNat 0 r.time r.words ++ leBytes 16 0
      | .generalMedia => mediaBytes r
      | .dynamicCapacity => capacityBytes r)

/-- The records of a log, oldest first. -/
def logRecords (ls : LogSet) (k : LogKind) : List LogRecord := (ls.records.filter (fun r => r.1 == k)).map (·.2)

/-- The output of Get Event Records: overflow flag, count and times, and every record of the log. -/
def eventBytes (ls : LogSet) (k : LogKind) : List Byte :=
  let o := mget (0, 0, 0) ls.overflow (logIx k)
  let rs := logRecords ls k
  leBytes 1 (b2n (o.1 != 0)) ++ leBytes 1 0 ++ leBytes 2 (min o.1 65535) ++ leBytes 8 o.2.1.toNat ++ leBytes 8 o.2.2.toNat
    ++ leBytes 2 rs.length ++ leBytes 10 0 ++ rs.flatMap (recordBytes k)

/-- GET_EVENT_RECORDS (R353). -/
def execGetEventRecords (p : Port) (secondary : Bool) (input : List Byte) (s : State) : Out :=
  .next (cxlCommand s p secondary (input.length == 1) (logOf (bfield input 0 1)).isSome (fun s =>
    match logOf (bfield input 0 1) with
    | some k => cxlAnswer s p secondary 0 (eventBytes (s.port p).logs k)
    | none => s))

/-- Takes records out of one log; making room ends its overflow. -/
def clearLog (ls : LogSet) (k : LogKind) (all : Bool) (handles : List Nat) : LogSet :=
  { ls with records := ls.records.filter (fun r => r.1 != k || !(all || handles.contains r.2.handle)), overflow := mdel ls.overflow (logIx k) }

/-- Clear Event Records: the log, Clear All Events in bit 0 of the flags, a count and the handles; an unknown handle is
Invalid Handle (0xE), and Clear All Events needs an overflow. -/
def clearRecords (s : State) (p : Port) (b : Bool) (input : List Byte) (k : LogKind) : State :=
  let ls := (s.port p).logs
  let all := bit (bfield input 1 1) 0
  let hs := (List.range (bfield input 2 1)).map (fun i => bfield input (6 + 2 * i) 2)
  if all && (mget (0, 0, 0) ls.overflow (logIx k)).1 == 0 then cxlAnswer s p b 2 []
  else if !all && !(hs.all (fun h => (logRecords ls k).any (fun r => r.handle == h))) then cxlAnswer s p b 0xE []
  else if !all && hs.isEmpty then cxlAnswer s p b 0 []
  else cxlAnswer (s.modPort p (fun x => { x with logs := clearLog x.logs k all hs })) p b 0 []

/-- CLEAR_EVENT_RECORDS (R353): the other PFs' logs stay. -/
def execClearEventRecords (p : Port) (secondary : Bool) (input : List Byte) (s : State) : Out :=
  .next (cxlCommand s p secondary (decide (6 ≤ input.length) && input.length == 6 + 2 * bfield input 2 1)
    ((logOf (bfield input 0 1)).isSome && decide (bfield input 1 1 < 2) && bfield input 3 3 == 0) (fun s =>
      match logOf (bfield input 0 1) with
      | some k => clearRecords s p secondary input k
      | none => s))

/-- GET_EVENT_INTERRUPT_POLICY (R334, R353): the mode of each log, and message number 2 for MSI-X. -/
def execGetEventInterruptPolicy (p : Port) (secondary : Bool) (input : List Byte) (s : State) : Out :=
  .next (cxlCommand s p secondary input.isEmpty true (fun s =>
    cxlAnswer s p secondary 0 ((List.range 5).map (fun i =>
      let m := bits ((s.port p).policy.getD i 0).toNat 0 2
      BitVec.ofNat 8 (if m = 1 then 0x21 else m)))))

/-- SET_EVENT_INTERRUPT_POLICY (R353): one mode for each log, the Dynamic Capacity log's being optional; mode 3 and nonzero
reserved bits are Invalid Input. -/
def execSetEventInterruptPolicy (p : Port) (secondary : Bool) (input : List Byte) (s : State) : Out :=
  .next (cxlCommand s p secondary (input.length == 4 || input.length == 5)
    (input.all (fun x => decide (bits x.toNat 0 2 < 3) && bits x.toNat 2 2 == 0)) (fun s =>
      cxlAnswer (s.modPort p (fun x => { x with policy := (input.map (fun y => BitVec.ofNat 8 (bits y.toNat 0 2)) ++ x.policy.drop input.length) }))
        p secondary 0 []))

/-- GET_TIMESTAMP (R384): fabric time. -/
def execGetTimestamp (p : Port) (secondary : Bool) (input : List Byte) (s : State) : Out :=
  .next (cxlCommand s p secondary input.isEmpty true (fun s => cxlAnswer s p secondary 0 (leBytes 8 s.ft.time.toNat)))

/-- SET_TIMESTAMP (R384): Success, with no effect. -/
def execSetTimestamp (p : Port) (secondary : Bool) (input : List Byte) (s : State) : Out :=
  .next (cxlCommand s p secondary (input.length == 8) true (fun s => cxlAnswer s p secondary 0 []))

/-- The output of Get Dynamic Capacity Configuration: the one region of 128 TiB, blocks of 256 MiB and 16,384 extents; the
DSMAD handle, the region's flags and the tag counts are open. -/
def dcConfigBytes (s : State) (n : Nat) : List Byte :=
  let open_ := fun (n off : Nat) => (List.range n).map (fun i => Config.freeByte (s.free * 4096 + off + i))
  leBytes 1 1 ++ leBytes 1 (min n 1) ++ leBytes 6 0
    ++ (if n = 0 then [] else leBytes 8 0 ++ leBytes 8 (2 ^ 47 / unitBytes) ++ leBytes 8 (2 ^ 47) ++ leBytes 8 unitBytes ++ open_ 5 0 ++ leBytes 3 0)
    ++ leBytes 4 16384 ++ leBytes 4 (16384 - s.extents.length) ++ open_ 8 5

/-- GET_DC_CONFIGURATION (R384): a region count and the first region asked for. -/
def execGetDcConfiguration (p : Port) (secondary : Bool) (input : List Byte) (s : State) : Out :=
  .next (cxlCommand s p secondary (input.length == 2) (bfield input 1 1 == 0) (fun s =>
    cxlAnswer s.tick p secondary 0 (dcConfigBytes s (bfield input 0 1))))

/-- The extents that a context has accepted (R206), lowest first. -/
def acceptedExtents (s : State) (c : Ctx) : List Extent :=
  (s.extents.map (·.2)).filter (fun x => match grantOf x c with | some g => g.st != .offered | none => false)

/-- An extent of the list: base, length, tag and shared sequence number. -/
def extentBytes (x : Extent) : List Byte :=
  leBytes 8 (x.base * unitBytes) ++ leBytes 8 (x.len * unitBytes) ++ leBytes 16 x.tag.toNat ++ leBytes 8 0

/-- The output of Get Dynamic Capacity Extent List; the generation number is open. -/
def extentListBytes (s : State) (xs : List Extent) (count start : Nat) : List Byte :=
  let got := (xs.drop start).take count
  leBytes 4 got.length ++ leBytes 4 xs.length ++ leBytes 4 (Config.freeWord s.free).toNat ++ leBytes 4 0 ++ got.flatMap extentBytes

/-- GET_DC_EXTENT_LIST (R381): a count and the first index, for the current context. -/
def execGetDcExtentList (p : Port) (secondary : Bool) (input : List Byte) (s : State) : Out :=
  .next (cxlForCtx s p secondary (fun c =>
    let xs := acceptedExtents s c
    if input.length ≠ 8 then cxlAnswer s p secondary 0x16 []
    else if xs.length < bfield input 4 4 then cxlAnswer s p secondary 2 []
    else cxlAnswer s.tick p secondary 0 (extentListBytes s xs (min (bfield input 0 4) 1638) (bfield input 4 4))))

end Sys2Proof.Machine
end

