-- ==== Sys2Proof/Machine/Registers.lean ====
section
/-! DEFINITION. Reads and writes of registers: the register maps' read values, the effect of a write (R9 to R13,
R332 to R334, R355, R404), and REG_READ and REG_WRITE (R402). -/

namespace Sys2Proof.Machine

/-- A register value from its fields: the lowest bit of each, its length, and its value. -/
def packFields (fs : List (Nat × Nat × Nat)) : Nat := fs.foldl (fun v f => v + f.2.2 % 2 ^ f.2.1 * 2 ^ f.1) 0

/-- A signed value in a field of `len` bits. -/
def twos (len : Nat) (i : Int) : Nat := (BitVec.ofInt len i).toNat

/-- A signed value that saturates at the limits of 32 bits. -/
def sat32 (i : Int) : Int := max (-0x80000000) (min 0x7FFFFFFF i)

/-- The PT_ registers that hardware gives. -/
def readPt (s : State) (off : Nat) : Option Nat :=
  let p : Port := Fin.ofNat 8 (s.reg 0x1000C)
  let ps := s.port p
  let c := toCtx (s.reg 0x10034)
  let x := s.ctx c
  match off with
  | 0x10000 => some 0x4D580040
  | 0x10004 => some (match s.owner with | some q => 8 + q.val | none => 0)
  | 0x10008 => some (mgmtSummary s)
  | 0x10014 => some (packFields [(0, 1, b2n ps.up), (1, 3, ps.rate.toNat), (4, 2, ps.width.toNat), (6, 1, b2n ps.flit256),
      (7, 1, b2n ps.pbr), (8, 1, b2n (memEnabled ps)), (9, 1, b2n ps.bi), (10, 1, b2n (ideActive s p true 0)),
      (11, 1, b2n (ideActive s p false 0)), (12, 1, b2n ps.ptmEnable), (13, 1, b2n (s.owner == some p)), (14, 1, b2n ps.revasOk)])
  | 0x10018 => some (packFields [(0, 14, trackerUsed s p), (16, 11, waitingLoads s p), (28, 2, ps.devLoad.val)])
  | 0x1002C => some (match mget? s.srcTab (s.reg 0x10028) with
    | some e => packFields [(0, 9, e.ctx.val), (9, 1, b2n e.valid), (10, 8, e.mask.toNat)]
    | none => 0)
  | 0x10030 => some s.srcGen.toNat
  | 0x10038 => some (packFields [(0, 1, b2n (ctxEnabled s c)), (1, 1, b2n x.bme), (2, 1, b2n x.inReset), (3, 1, b2n x.swapGrant),
      (4, 16, x.decGen.toNat),
      (20, 8, (List.range 8).foldl (fun v n => v + (if decOn (mget {} x.committed n) then 2 ^ n else 0)) 0)])
  | 0x1003C => some (s.count off)
  | _ => none

/-- The number of an anchoring state (R33). -/
def anchorCode (a : Anchor) : Nat :=
  match a with
  | .unanchored => 0 | .acquiring => 1 | .anchored => 2 | .holdover => 3 | .reacquiring => 4 | .expired => 5

/-- The FT_ registers that hardware gives. -/
def readFt (s : State) (off : Nat) : Option Nat :=
  match off with
  | 0x20004 => some (packFields [(0, 3, anchorCode s.ft.anchor), (3, 1, b2n (s.ft.anchor == .anchored)), (4, 3, s.ft.source.val),
      (7, 1, b2n (decide (200000 < s.ft.restTenth.natAbs))),
      (8, 8, (List.range 8).foldl (fun v i => v + (if ptmValid s (Fin.ofNat 8 i) then 2 ^ i else 0)) 0),
      (16, 2, tsetNow s), (18, 1, b2n (inSetChange s)), (19, 1, b2n (cuesAccepted s))])
  | 0x20008 => some s.ft.time.toNat
  | 0x20010 => some (frameNo s)
  | 0x20018 => some (twos 32 (sat32 s.ft.offset))
  | 0x2001C => some (twos 32 s.ft.rate)
  | 0x20020 => some (s.reg off + 65536 * min 2047 (s.ft.holdover / 1000000))
  | 0x2002C => some ((List.range 20).foldl (fun v t => v + (if (s.stackOf t).doubled then 2 ^ t else 0)) 0)
  | 0x20038 => some (s.count off)
  | 0x2003C => some (s.count off)
  | _ => none

/-- A frame counts as held in its sliver: its page's object is Held or Scratch, or it has a pin or a step pin (R171). -/
def frameHeld (s : State) (u : FrameUse) : Bool :=
  match u with
  | .dirtyFree => false
  | .used pid => !(pageAt s pid).stepPins.isEmpty || (match pidObj s pid with
    | some (n, o) => o.cls == .held || o.cls == .scratch || !(pinHolders s n).isEmpty
    | none => false)

/-- A page is dirty and holds no writeback reservation (R154): a page of a Scratch object needs none. -/
def unreserved (s : State) (x : Nat × Page) : Bool :=
  x.2.st == .dirty && x.2.resv == 0 && (match pidObj s x.1 with | some (_, o) => o.cls != .scratch | none => false)

/-- The TR_ registers that hardware gives. -/
def readTr (s : State) (off : Nat) : Option Nat :=
  let sl := s.reg 0x30048
  match off with
  | 0x30004 => some (packFields [(0, 1, b2n (flashIsLow s)), (1, 1, b2n (s.pages.any (unreserved s))),
      (16, 11, min 2047 (s.objects.filter (fun (o : Nat × Obj) => o.2.mover.st != .idle)).length)])
  | 0x30008 => some (20971520 - s.frames.length)
  | 0x3000C => some (s.frames.filter (fun (f : Nat × FrameUse) => f.2 == .dirtyFree)).length
  | 0x30010 => some (unitsFree s)
  | 0x30020 => some (unitsReserved s)
  | 0x30028 => some s.objects.length
  | 0x3002C => some s.pins.length
  | 0x30030 => some (packFields [
      (0, 11, min 2047 (s.objects.map (fun (o : Nat × Obj) => (o.2.mover.moves.filter (fun m => m.kind == .miss && !m.running)).length)).sum),
      (16, 11, min 2047 (s.scheduled.filter (fun (x : Nat × Nat × MoverCmd) => x.2.2.opcode == 2)).length)])
  | 0x30034 => some (s.count off)
  | 0x30038 => some (s.count off)
  | 0x3003C => some (s.count off)
  | 0x3004C => some (packFields [(0, 14, sliverFree s sl),
      (16, 14, (s.frames.filter (fun (f : Nat × FrameUse) => f.1 / 8192 == sl && frameHeld s f.2)).length)])
  | _ => none

/-- The CD_ and SH_ registers that hardware gives. -/
def readCdSh (s : State) (off : Nat) : Option Nat :=
  let p := s.reg 0x40018
  let x := s.ctx (toCtx (s.reg 0x50034))
  match off with
  | 0x40004 => some (packFields [(0, 1, b2n (domOn s 77)), (16, 12, s.chanCodec.length)])
  | 0x40010 => some (s.count off)
  | 0x40014 => some (s.count off)
  | 0x40020 => some (s.count off p)
  | 0x40028 => some (s.count off p)
  | 0x40030 => some (s.count off p)
  | 0x40038 => some (s.count off p)
  | 0x40040 => some (s.count off)
  | 0x40048 => some (s.count off)
  | 0x50004 => some (packFields [(0, 13, s.windows.length), (16, 10, (s.ctxs.filter (fun (c : Nat × CtxState) => c.2.expired)).length)])
  | 0x50008 => some (windowBytes s / 1048576)
  | 0x5000C => some s.directory.length
  | 0x50010 => some (s.directory.filter (fun (d : Nat × DirEntry) => d.2.broad)).length
  | 0x50014 => some (liveTotal s)
  | 0x50018 => some (handleCount s)
  | 0x5001C => some s.extents.length
  | 0x50020 => some (s.count off)
  | 0x50024 => some (s.count off)
  | 0x50028 => some (s.count off)
  | 0x50038 => some (packFields [
      (0, 22, if x.leaseRun then x.leaseMs - (s.ft.run - x.leaseFrom) * 1024 / 1000000 else 0),
      (22, 1, b2n x.leaseRun), (23, 1, b2n x.expired)])
  | 0x5003C => some x.leaseMs
  | _ => none

/-- The code of a spare's state. -/
def spareCode (x : SpareSt) : Nat := match x with | .free => 0 | .migrating => 1 | .spared => 2 | .unavailable => 3

/-- A bank queue of a channel is in in-order mode (R247). -/
def channelInOrder (c : ChanState) : Bool := c.queue.any (fun x => inOrder (c.queue.filter (sameBank x)))

/-- Timing parameters of a set in DRAM clocks (R255): tRCD, tRP, tRAS, tRC, tFAW; tRFC1, tWR, tRTP. -/
def timingA (tset : Nat) : Nat :=
  match tset with
  | 0 => packFields [(0, 6, 11), (6, 6, 9), (12, 6, 18), (18, 6, 27), (24, 6, 30)]
  | 1 => packFields [(0, 6, 9), (6, 6, 8), (12, 6, 15), (18, 6, 23), (24, 6, 24)]
  | _ => packFields [(0, 6, 6), (6, 6, 5), (12, 6, 10), (18, 6, 15), (24, 6, 16)]

/-- The second timing register of a set. -/
def timingB (tset : Nat) : Nat :=
  match tset with
  | 0 => packFields [(0, 7, 34), (7, 6, 12), (13, 5, 6)]
  | 1 => packFields [(0, 7, 27), (7, 6, 10), (13, 5, 5)]
  | _ => packFields [(0, 7, 18), (7, 6, 7), (13, 5, 3)]

/-- The registers of one stack that hardware gives (R265), by their offset in the stack's window. -/
def readStack (s : State) (t off : Nat) : Option Nat :=
  let base := 0x61000 + t * 0x400
  let x := s.stackOf t
  let ch := s.reg (base + 4)
  let c := s.chan t ch
  let spares := (List.range 32).map (fun h => spareState (chanKey t h) (s.chan t h))
  let sp := spareState (chanKey t ch) c
  match off with
  | 0 => some (packFields [(0, 2, x.tset), (2, 1, b2n x.selfRef), (3, 1, b2n x.doubled),
      (4, 6, (spares.filter (fun y => y == .migrating || y == .spared)).length), (10, 1, b2n (spares.contains .migrating)),
      (16, 8, twos 8 (x.tempMax / 10)), (24, 1, b2n (x.sensorFail != 0))])
  | 8 => some (packFields [(0, 2, spareCode sp), (2, 4, c.spareRank), (6, 1, b2n (channelInOrder c)), (8, 17, c.pointer)])
  | 0xC => some (packFields [(0, 16, c.corrections.toNat), (16, 6, c.marginLane)])
  | 0x10 => some (packFields [(0, 5, c.victims.length), (16, 16, min c.triggers 65535)])
  | 0x18 => some (timingA (s.reg (base + 0x14)))
  | 0x1C => some (timingB (s.reg (base + 0x14)))
  | _ => none

/-- The DC_ and IG_ registers that hardware gives. -/
def readDcIg (s : State) (off : Nat) : Option Nat :=
  let unit := mget (0, true) s.orders (s.reg 0x60014)
  let l := s.reg 0x70028
  let st := bits l 0 5
  let ch := bits l 5 5
  let rk := bits l 10 5
  let c := s.chan st ch
  let f := fuseOf (chanKey st ch) c (bankKey rk (bits l 15 4))
  match off with
  | 0x60018 => some (packFields [(0, 2, unit.1.toNat), (2, 1, b2n unit.2)])
  | 0x6001C => some (s.count off)
  | 0x60020 => some (s.count off)
  | 0x7000C => some (packFields [
      (0, 16, min 65535 ((List.range 640).foldl (fun n k => min n (mget {} s.chans k).passes) (mget {} s.chans 0).passes)),
      (16, 7, s.chans.foldl (fun n (k : Nat × ChanState) => max n k.2.owed.length) 0)])
  | 0x70018 => some (s.count off)
  | 0x7001C => some (s.count off)
  | 0x70020 => some (s.count off)
  | 0x70024 => some (s.count off)
  | 0x7002C => some (packFields [(0, 16, mget 0 c.level rk), (16, 8, mget 0 c.overflows rk)])
  | 0x70030 => some (packFields [(0, 3, f.rows.length), (3, 2, f.cols.length), (5, 1, b2n (f.job.isSome && !f.done))])
  | 0x70038 => some s.lastErr.toNat
  | _ => none

/-- The CT_ registers that hardware gives. -/
def readCt (s : State) (off : Nat) : Option Nat :=
  let b := s.reg 0x80028
  let x := s.bay b
  let walk := fun (copy : Bool) => match s.walk with | some w => w.copy == copy | none => false
  let at_ := fun (p : Nat) => (List.range 9).find? (fun b => (s.bay b).position == some p && inArray (s.bay b).st)
  match off with
  | 0x80004 => some (packFields [(0, 2, arrayCode s), (2, 4, (lostPositions s).length), (6, 1, b2n (walk false)), (7, 1, b2n (walk true)),
      (8, 1, b2n (bayIn s .gusset).isSome)])
  | 0x80008 => some (packFields ((List.range 8).map (fun p => (4 * p, 4, (at_ p).getD 15))))
  | 0x80010 => some (packFields ((List.range 9).map (fun b => (4 * b, 4, bayCode (s.bay b).st))))
  | 0x80018 => some (s.count off)
  | 0x80020 => some (s.count off)
  | 0x8002C => some (packFields [(0, 7, min 127 (bayWear s b).1), (7, 1, b2n x.eol), (8, 3, x.cause.toNat),
      (11, 3, if inArray x.st then x.position.getD 0 else 0), (14, 2, x.rates.foldl (fun m r => max m r.toNat) 0)])
  | 0x80030 => some (match x.ledger with | some _ => x.written / 1000000000 | none => 0)
  | 0x80038 => some (s.count off)
  | _ => none

/-- The AQ_ registers that hardware gives. -/
def readAq (s : State) (off : Nat) : Option Nat :=
  let m := s.reg 0x90018
  let st := s.fieldOf 0x90028 0 5
  let ch := s.fieldOf 0x90028 5 5
  let c := s.chan st ch
  let i := s.reg 0x90030
  match off with
  | 0x90004 => some (packFields [(0, 1, b2n s.shrunk), (1, 1, b2n (perCycle s)), (2, 7, s.ledger.length)])
  | 0x90024 => some (packFields [
      (0, 16, min 65535 (s.chans.foldl (fun n (k : Nat × ChanState) => max n (mget 0 k.2.arb.lat m)) 0 / 10)),
      (16, 4, s.chans.foldl (fun n (k : Nat × ChanState) => max n (boostOf s k.2.arb m)) 0)])
  | 0x9002C => some (packFields [(0, 8, c.cap), (8, 8, min 255 (covering s.ledger st)), (16, 8, c.eff.sum), (24, 1, b2n (decide (0 < c.cut)))])
  | 0x90034 => some (match s.ledger[i]? with
    | some e => packFields [(0, 1, 1), (1, 4, e.master), (5, 2, e.cls), (8, 8, e.value), (16, 8, effMin s i e)]
    | none => 0)
  | 0x90038 => some (match s.ledger[i]? with | some e => e.clusters.toNat | none => 0)
  | 0x90044 => some (s.count off)
  | 0x90048 => some (s.count off)
  | _ => none

/-- MB_RING_STATUS.STALLED (R392). -/
def ringStalled (r : Ring) : Bool := r.enabled && !r.draining && r.wrHead != r.wrTail && erFree r == 0

/-- The steward's commands that wait or are queued: those of the rings not begun, and those held by a lock. -/
def stewardQueued (s : State) : Nat :=
  s.lockWaits.length + (s.ctxs.map (fun (c : Nat × CtxState) =>
    (c.2.ring.flights.filter (fun f => f.steward && !f.begun && f.ended.isNone)).length)).sum

/-- RV_STATUS.RESET: the highest level in progress. -/
def resetLevel (s : State) : Nat :=
  s.rv.resets.foldl (fun n (j : Nat × ResetJob) => max n (match j.2.unit_ with
    | .engine .. => 1 | .core _ => 2 | .cluster _ => 3 | .stack _ => 3 | .baseDie _ => 4 | .hubDie => 4)) 0

/-- Resets counted in the last 900 s (R427). -/
def recentResets (s : State) (l : List Nat) : Nat := min 255 (l.filter (fun b => decide (s.ft.run < b + 878906250))).length

/-- The MB_ and RV_ registers that hardware gives. -/
def readMbRv (s : State) (off : Nat) : Option Nat :=
  let r := (s.ctx (toCtx (s.reg 0xA0010))).ring
  let c := toCtx (s.reg 0xB001C)
  match off with
  | 0xA0004 => some (packFields [(0, 1, b2n (mhas s.eids 0)), (1, 1, b2n (mhas s.eids 1)), (8, 13, stewardQueued s)])
  | 0xA0014 => some (packFields [(0, 1, b2n r.enabled), (1, 1, b2n r.error), (2, 4, r.errCode.toNat), (6, 1, b2n (ringStalled r)),
      (8, 7, (r.flights.filter (fun f => !f.steward)).length), (16, 3, (r.flights.filter (·.steward)).length)])
  | 0xA0018 => some (s.count off)
  | 0xB0004 => some (packFields [
      (0, 2, if s.rv.outOfService then 2 else if s.rv.resets.isEmpty && s.rv.suspects.isEmpty then 0 else 1),
      (2, 3, resetLevel s), (5, 1, b2n s.rv.listFull), (6, 11, s.rv.suspects.length)])
  | 0xB0008 => some (s.count off)
  | 0xB000C => some (packFields [(0, 8, recentResets s s.rv.smallResets), (8, 8, recentResets s s.rv.dieResets), (16, 16, s.count off)])
  | 0xB0010 => some (s.count off)
  | 0xB0020 => some (packFields [(0, 16, (s.ctx c).gen.toNat), (16, 1, b2n (s.ctx c).quarantined), (17, 2, min 3 (chargedIn s c)),
      (19, 1, b2n (mhas s.rv.unpicks c.val))])
  | 0xB0024 => some s.rv.lastHang.toNat
  | 0xB0028 => some s.rv.lastHangFrame.toNat
  | _ => none

/-- The KY_ registers that hardware gives. -/
def readKy (s : State) (off : Nat) : Option Nat :=
  let n := s.reg 0xC0010
  let fw := runningFw s
  let awaiting := (s.keys.filter (fun (k : Nat × KeySlot) => slotAwaiting k.2)).length
  if 0xC0020 ≤ off ∧ off < 0xC0060 ∧ off % 4 = 0 then
    some ((List.range 32).foldl (fun v b => v + (if mhas s.keks ((off - 0xC0020) * 8 + b) then 2 ^ b else 0)) 0)
  else match off with
  | 0xC0000 => some (packFields [(0, 11, 1 + s.keys.length - awaiting), (11, 11, awaiting),
      (22, 6, (s.spdm.map (fun (x : Nat × SpdmConn) => x.2.sessions.length)).sum), (28, 1, b2n (!s.signQueue.isEmpty || (decide (3 ≤ s.pw.stage) && !s.aliasReady)))])
  | 0xC0004 => some (packFields [(0, 16, fw.2.1), (16, 16, fw.1)])
  | 0xC0008 => some (packFields [(0, 16, fw.2.2.1), (16, 6, fw.2.2.2.1), (22, 6, s.svnFloor)])
  | 0xC000C => some (packFields [(0, 8, s.revoked.foldl (fun v k => v + 2 ^ k) 0),
      (8, 8, (List.range 8).foldl (fun v k => v + (if Config.romCartridge (Fin.ofNat 8 k) then 2 ^ k else 0)) 0)])
  | 0xC0014 => some (if n = 0 then 1 else match mget? s.keys n with
    | some k => packFields [(0, 2, if slotAwaiting k then 2 else 1), (2, 1, k.kind), (3, 9, match k.ctx with | some c => c.val | none => 0)]
    | none => 0)
  | 0xC0018 => some (slotUsers s n)
  | 0xC0068 => some (s.count off)
  | _ => none

/-- The domains usable among 32 (R457). -/
def domMask (s : State) (base n : Nat) : Nat :=
  (List.range n).foldl (fun v d => v + (if domOn s (base + d) || (base + d == 79 && hubOn s) then 2 ^ d else 0)) 0

/-- The PW_ registers that hardware gives. -/
def readPw (s : State) (off : Nat) : Option Nat :=
  match off with
  | 0xD0008 => some (packFields [(0, 3, s.pw.mode), (3, 3, match s.pw.job with | some j => j.mode | none => 7), (6, 2, s.pw.throttle),
      (8, 1, b2n s.pw.thermalOff)])
  | 0xD000C => some (packFields [(0, 3, s.pw.stage), (3, 3, s.pw.cause), (16, 16, s.pw.readyMs)])
  | 0xD0010 => some (packFields [(0, 16, s.pw.mv.toNat), (16, 16, s.pw.deciamps.toNat)])
  | 0xD0014 => some (packFields [(0, 12, s.pw.mean1s.toNat), (12, 12, s.pw.mean10ms.toNat)])
  | 0xD0018 => some (domMask s 0 32)
  | 0xD001C => some (domMask s 32 32)
  | 0xD0020 => some (domMask s 64 16)
  | 0xD0024 => some (packFields [(0, 8, twos 8 s.pw.tempA), (8, 8, twos 8 s.pw.tempB), (16, 8, twos 8 s.pw.tempHub),
      (24, 8, twos 8 ((List.range 20).foldl (fun m t => max m (s.stackOf t).tempMax) (s.stackOf 0).tempMax / 10))])
  | 0xD0030 => some (s.count off)
  | _ => none

/-- The largest KiB that a pattern sends from, or receives in, a physical cluster in one frame (R130). -/
def patternQuota (b : Binding) (p : Pattern) (k : Nat) (sent : Bool) : Nat :=
  let x := crossings p (p.cores.map (traceOf p))
  let l := (if sent then x.1 else x.2).filter (fun y => b.cmap.getD y.1 20 == k)
  ceilDiv (l.foldl (fun n y => max n (((l.filter (fun z => z.2.1 == y.2.1)).map (·.2.2)).sum)) 0) 1024

/-- The largest of the armed and running patterns. -/
def clusterQuota (s : State) (k : Nat) (sent : Bool) : Nat :=
  s.cues.foldl (fun n (x : Nat × Cue) => match runOf s x.1 with
    | some (_, b, p) => max n (patternQuota b p k sent)
    | none => n) 0

/-- The number of a core state (R141). -/
def coreCode (c : CoreSt) : Nat :=
  match c with
  | .idle => 0 | .clearing => 1 | .running => 2 | .waitStep => 3 | .waitFrame => 4 | .xwait => 5 | .unpicking => 6 | .reset => 7

/-- The engine window of a core (R76, R101, R141). -/
def readCoreReg (s : State) (k off : Nat) : Option Nat :=
  let c := s.core k
  let idle := c.st == .idle
  match off with
  | 0 => some (if idle then 0 else c.acw.toNat)
  | 4 => some (flagWord c).toNat
  | 8 => some (if idle then 0 else packFields [(0, 3, coreCode c.st), (4, 12, c.pc.toNat), (16, 9, match c.ctx with | some x => x.val | none => 0),
      (25, 1, b2n c.ctx.isSome)])
  | 0xC => some (if idle then 0 else packFields [(0, 16, c.epoch.toNat), (16, 16, c.recv.toNat)])
  | 0x10 => some (4096 - codeUsed s k)
  | _ => none

/-- The SQ_ registers that hardware gives (R141). -/
def readSq (s : State) (off : Nat) : Option Nat :=
  if 0x240000 ≤ off then match off with
    | 0x240000 => some (packFields [(0, 11, s.patterns.length), (16, 13, s.bindings.length)])
    | 0x24000C => some (s.count off)
    | _ => none
  else
    let k := (off - 0x100000) / 0x10000
    let o := off % 0x10000
    if 0x8000 ≤ o then readCoreReg s (k * 128 + (o - 0x8000) / 0x100) (o % 0x100)
    else match o with
    | 0 => some (packFields [(0, 1, b2n (domOn s (2 * k) && domOn s (2 * k + 1))), (1, 1, b2n (mhas s.rv.resets (resetKey (.cluster (Fin.ofNat 20 k))))),
        (8, 6, armedIn s k), (16, 7, bindingsIn s k)])
    | 4 => some (65536 - claimsUsed s k)
    | 8 => some (mget 0 s.stale k)
    | 0xC => some (packFields [(0, 16, clusterQuota s k true), (16, 16, clusterQuota s k false)])
    | _ => none

/-- A register that hardware gives, in part or whole, at an offset of the module register space (R333). -/
def readHw (s : State) (off : Nat) : Option Nat :=
  if off < 0x10000 then none
  else if off < 0x20000 then readPt s off
  else if off < 0x30000 then readFt s off
  else if off < 0x40000 then readTr s off
  else if off < 0x60000 then readCdSh s off
  else if 0x61000 ≤ off ∧ off < 0x66000 then readStack s ((off - 0x61000) / 0x400) ((off - 0x61000) % 0x400)
  else if off < 0x80000 then readDcIg s off
  else if off < 0x90000 then readCt s off
  else if off < 0xA0000 then readAq s off
  else if off < 0xC0000 then readMbRv s off
  else if off < 0xD0000 then readKy s off
  else if off < 0xE0000 then readPw s off
  else if 0x100000 ≤ off ∧ off < 0x250000 then readSq s off
  else none

/-- The 64-bit registers of the module register space. -/
def wideRegs : List Nat :=
  [0x20008, 0x20010, 0x30010, 0x30018, 0x30020, 0x40020, 0x40028, 0x40030, 0x40038, 0x40040, 0x40048, 0x70038, 0x80010, 0x80018, 0x80020,
   0x80030, 0xB0028]

/-- The width of a register in bytes (R9). -/
def regBytes (off : Nat) : Nat := if wideRegs.contains off then 8 else 4

/-- The index by which a register with written fields is selected: the port of PT_PORT_CFG, the master of AQ_MASTER_CFG and
AQ_MASTER_RATE (R355, R379). -/
def regIndex (s : State) (off : Nat) : Nat :=
  if off = 0x10010 then s.reg 0x1000C else if off = 0x9001C ∨ off = 0x90020 then s.reg 0x90018 else 0

/-- A read of the module register space of a width (R9, R13): another width or alignment, and a reserved offset, read zero. -/
def readReg (s : State) (off width : Nat) : Nat :=
  if width ≠ regBytes off ∨ off % width ≠ 0 then 0
  else match readHw s off with
    | some v => v
    | none => s.reg off (regIndex s off)

/-- A write of an INT_ENABLE register (R334): software that enables a bit already set raises the management interrupt. -/
def enableWrite (s : State) (b : Nat) (value : Nat) : State :=
  let off := intEnableOff b
  let w := intWidths.getD b 0
  let old := s.reg off
  let was := mgmtSummary s
  let s : State := { s with regs := mput s.regs off (BitVec.ofNat 64 (value % 2 ^ w)) }
  let st := s.reg (intStatusOff b)
  if (List.range w).any (fun i => bit st i && bit value i && !bit old i) then
    let s := sendMgmt s
    if was == 0 then sendAlerts s else s
  else s

/-- What a write does beside the fields it stores: REVAS_OK on a write of 1 to REVAS_EN (R325), and the ledger's capacity on a
write of AQ_CTRL (R372). -/
def writeEffect (s : State) (off value : Nat) : State :=
  if off = 0x10010 ∧ bit value 0 then s.modPort (Fin.ofNat 8 (s.reg 0x1000C)) (fun x => { x with revasOk := true })
  else if off = 0x30018 then checkFlash s
  else if off = 0x90000 then { s with recompute := Nat.lor s.recompute 16 }
  else s

/-- A new BURST of a master changes no bucket (R364): an unlisted bucket holds the old BURST. -/
def keepBuckets (s : State) (m value : Nat) : State :=
  let old := s.fieldOf 0x90020 16 8 m
  if old = bits value 16 8 then s else
  { s with chans := (List.range 640).map (fun k =>
      let c := mget {} s.chans k
      (k, { c with arb := { c.arb with tokens := mput c.arb.tokens m (mget old c.arb.tokens m) } })) }

/-- What a write of PW_CTRL writes: a 1 to the owner port's own bit of PORT_OFF is ignored (R457). -/
def ownerBit (s : State) (off value : Nat) : Nat :=
  match s.owner with
  | some p => if off = 0xD0000 ∧ bit value p.val then setBits value p.val 1 (s.fieldOf 0xD0000 p.val 1) else value
  | none => value

/-- A write of the module register space of a width (R9, R10, R13). -/
def writeReg (s : State) (off width value : Nat) : State :=
  if width ≠ regBytes off ∨ off % width ≠ 0 then s
  else match (List.range 14).find? (fun b => intEnableOff b == off) with
    | some b => enableWrite s b value
    | none => match regAt off with
      | some d =>
        let ix := regIndex s off
        let v := regWritten d (s.reg off ix) (ownerBit s off value)
        let s := if off = 0x90020 then keepBuckets s ix v else s
        writeEffect { s with regs := mput s.regs (regKey off ix) (BitVec.ofNat 64 v) } off value
      | none => s

/-- A write of the doorbell page (R389, R391, R395, R404). -/
def writeDoorbell (s : State) (c : Ctx) (off width value : Nat) : State :=
  let r := (s.ctx c).ring
  let idle := !r.enabled && !r.draining
  let w32 := BitVec.ofNat 32 value
  let base := BitVec.ofNat 64 (bits value 16 31 * 65536)
  match off, width with
  | 0, 4 =>
    if bit value 0 then enableRings (setOrders s c w32) c else disableRings (setOrders s c w32) c
  | 8, 8 => if idle then s.modCtx c (fun x => { x with ring := { x.ring with wrBase := base } }) else s
  | 16, 8 => if idle then s.modCtx c (fun x => { x with ring := { x.ring with erBase := base } }) else s
  | 0x18, 4 => doorbell s c w32
  | 0x1C, 4 => headWrite s c w32
  | 0x20, 4 =>
    let n := bits value 4 12
    let t := s.modCtx c (fun x => { x with ring := { x.ring with
      intEn := bit value 0, intCount := if n = 0 then x.ring.intCount else BitVec.ofNat 12 n, intTime := BitVec.ofNat 16 (bits value 16 16) } })
    if entriesDue (t.ctx c).ring && !entriesDue r then sendMsix t (.vf c) 0 else t
  | _, _ => s

/-- A write of the context decoder block, at an offset from 0x8000 of VF BAR 0 (R339, R341): staged, each field by R13. -/
def writeDecoder (s : State) (c : Ctx) (off width value : Nat) : State :=
  let set := fun (f : Decoder → Decoder) => s.modCtx c (fun x => { x with staged := mmod {} x.staged (off / 32) f })
  if off = 0x100 then (if width = 4 && bit value 0 then stageCommit s c else s)
  else if 0x100 < off then s
  else match off % 32, width with
  | 0, 8 => set (fun d => { d with base := BitVec.ofNat 64 (bits value 28 36 * 0x10000000) })
  | 8, 8 => set (fun d => { d with size := BitVec.ofNat 64 (bits value 28 36 * 0x10000000) })
  | 16, 8 => set (fun d => { d with dpa := BitVec.ofNat 64 (bits value 28 19 * 0x10000000) })
  | 24, 4 => set (fun d =>
      let old := d.ctrl.toNat
      let iw := if bits value 1 3 ≤ 4 then bits value 1 3 else bits old 1 3
      let ig := if bits value 4 4 ≤ 6 then bits value 4 4 else bits old 4 4
      { d with ctrl := BitVec.ofNat 32 (packFields [(0, 1, bits value 0 1), (1, 3, iw), (4, 4, ig), (8, 4, bits value 8 4)]) })
  | _, _ => s

/-- A read of the doorbell page at an offset of VF BAR 0 (R389, R391, R393, R395). -/
def readDoorbell (s : State) (c : Ctx) (off width : Nat) : Nat :=
  let r := (s.ctx c).ring
  match off, width with
  | 0, 4 => packFields [(0, 1, b2n r.en), (4, 4, r.wrOrder.toNat), (8, 4, r.erOrder.toNat)]
  | 4, 4 => packFields [(0, 1, b2n r.enabled), (1, 1, b2n r.draining), (2, 1, b2n r.error), (3, 4, r.errCode.toNat),
      (7, 1, b2n (ringStalled r)), (8, 1, b2n (s.ctx c).expired)]
  | 8, 8 => r.wrBase.toNat
  | 16, 8 => r.erBase.toNat
  | 0x18, 4 => packFields [(0, 12, r.wrTail.toNat), (16, 12, r.wrHead.toNat)]
  | 0x1C, 4 => packFields [(0, 12, r.erHead.toNat), (16, 12, r.erTail.toNat), (28, 1, b2n r.phase)]
  | 0x20, 4 => packFields [(0, 1, b2n r.intEn), (4, 12, r.intCount.toNat), (16, 16, r.intTime.toNat)]
  | 0x24, 4 => r.dropped.toNat
  | _, _ => 0

/-- A read of the context decoder block at an offset from 0x8000 of VF BAR 0 (R339, R341). -/
def readDecoder (s : State) (c : Ctx) (off width : Nat) : Nat :=
  let x := s.ctx c
  let d := mget {} x.staged (off / 32)
  if off = 0x100 then (if width = 4 then packFields [(1, 1, b2n (x.decDue || x.decBusy)), (2, 1, b2n x.decError),
    (3, 4, x.decCode.toNat), (16, 16, x.decGen.toNat)] else 0)
  else if 0x100 < off then 0
  else match off % 32, width with
  | 0, 8 => d.base.toNat
  | 8, 8 => d.size.toNat
  | 16, 8 => d.dpa.toNat
  | 24, 4 => d.ctrl.toNat
  | _, _ => 0

/-- A port's PF takes memory writes: its link is up, it is not in reset, and the hub die runs (R332, R352). -/
def pfTakes (s : State) (p : Port) : Bool := (s.port p).up && !(s.port p).inReset

/-- A VF takes memory writes: its context is enabled, and neither its port nor the function is down or in reset. -/
def vfTakes (s : State) (c : Ctx) : Bool := pfTakes s (ctxPort c) && ctxEnabled s c && !(s.ctx c).inReset

/-- A write of a register space by software (R332, R333, R382): PF BAR 2 of the owner port only, the pages of an enabled context, and a
mailbox's Mailbox Control, which CXL 3.1 lays out (PRESUMED, log entry 150). -/
def hostRegWrite (s : State) (sp : RegSpace) (off width value : Nat) : State :=
  match sp with
  | .module p => if pfTakes s p && s.owner == some p then writeReg s off width value else s
  | .mailbox p b =>
    if pfTakes s p && off == 4 && width == 4 then s.modMbox p b (fun m => { m with dbInt := bit value 1, bgInt := bit value 2 }) else s
  | .doorbell c => if vfTakes s c then writeDoorbell s c off width value else s
  | .decoder c => if vfTakes s c then writeDecoder s c off width value else s

/-- REGISTER_WRITE (R9, R10): `bytes` is the width of the access. -/
def execRegisterWrite (sp : RegSpace) (offset : BitVec 22) (bytes : BitVec 4) (value : DWord) (s : State) : Out :=
  .next (hostRegWrite s sp offset.toNat bytes.toNat (value.toNat % 2 ^ (8 * bytes.toNat)))

/-- INT_ENABLE_WRITE (R334), through PF BAR 2 of a port. -/
def execIntEnableWrite (p : Port) (block : Fin 14) (value : Word) (s : State) : Out :=
  .next (hostRegWrite s (.module p) (intEnableOff block.val) 4 value.toNat)

/-- REG_READ (R402). -/
def regReadH : Handler := fun s m =>
  let off := m.f 0 4
  if 0x400000 ≤ off then (s, .done stRange []) else (s, .done stOK (leBytes 8 (readReg s off (m.f 4 1))))

/-- REG_READ. -/
def execRegRead (via : Path) (input : List Byte) (s : State) : Out := .next (mci s via 0xC0B3 input regReadH)

/-- REG_WRITE (R402). -/
def regWriteH : Handler := fun s m =>
  let off := m.f 0 4
  let w := m.f 4 1
  if 0x400000 ≤ off then (s, .done stRange []) else (writeReg s off w (m.f 8 8 % 2 ^ (8 * w)), .done stOK [])

/-- REG_WRITE. -/
def execRegWrite (via : Path) (input : List Byte) (s : State) : Out := .next (mci s via 0xC0B4 input regWriteH)

end Sys2Proof.Machine
end

