-- ==== Sys2Proof/Machine/Boundary.lean ====
section
/-! DEFINITION. The frame boundary (R36), with everything that the spec lets happen at one, in the order of R67. -/

namespace Sys2Proof.Machine

/-! ### Time, modes and commits -/

/-- The renumbering due (R31, R487), and the set change or mode change that is due at the boundary so numbered (R64, R66); then
each armed cue is evaluated again (R53). -/
def timeBoundary (s : State) : State :=
  let n := s.ft.renumber
  let report := s.ft.reportStep
  let s := if n = 0 then s else renumberChange (renumberNow s) n
  let s := if n != 0 && report then timeStep s n else s
  let s := beginChange (endChange s)
  if n = 0 then s else (s.cues.map (·.1)).foldl (fun s r => renumberCue s n r) s

/-- A change of REVAS_EN takes effect and retrains the link (R355). -/
def revasBoundary (s : State) : State :=
  allPorts.foldl (fun s p =>
    if s.fieldOf 0x10010 0 1 p.val ≠ s.fieldEff 0x10010 0 1 p.val && (s.port p).up then s.modPort p (fun x => { x with retrain := true })
    else s) s

/-- The registers whose fields take effect at a boundary do so (R10, R171, R355). -/
def latchRegs (s : State) : State := let s := revasBoundary s; { s with eff := s.regs }

/-- Throttling, refresh rate, input events, domains and ports (R250, R455, R457, R464). -/
def powerBoundary (s : State) : State :=
  portsBoundary (domsBoundary (inputBoundary (refreshBoundary (throttleBoundary s))))

/-- Decoder and source-identity commits (R337, R341); releases that are ready stage theirs for the next boundary (R207). -/
def commitBoundary (s : State) : State := stageReleases (commitSources (boundaryCommits s))

/-! ### Patterns -/

/-- The runs that are in service, with their cues. -/
def liveRuns (s : State) : List (Nat × Cue) := s.cues.filter (fun (x : Nat × Cue) => !x.2.gone)

/-- A run's present step ends at this boundary. -/
def endsNow (s : State) (x : Nat × Cue) : Bool :=
  x.2.phase == .running && (match runOf s x.1 with | some (q, _, p) => stepEnds s q p | none => false)

/-- The last step of a run. -/
def onLastStep (s : State) (r : Nat) : Bool := match runOf s r with | some (q, _, p) => decide (p.steps.length ≤ q.step) | none => false

/-- A step of a run ends (R57, R58, R160): its pin goes, and after the last step the run completes and a test of it ends (R417). -/
def endStep (s : State) (x : Nat × Cue) : State :=
  let s := match x.2.cur with | some i => unpinPages s (stepPin x.1 i) | none => s
  if onLastStep s x.1 then testEnds (completeRun s x.1) x.1 x.2
  else { s with cues := mput s.cues x.1 { x.2 with cur := none } }

/-- Steps that end at this boundary, and the runs whose cores have not ended theirs (R407 detector 0). -/
def stepsEnd (s : State) : State :=
  let ended := (liveRuns s).filter (endsNow s)
  let late := (ended.map (fun (x : Nat × Cue) => (x.1, overrunCores s x.1))).filter (fun (x : Nat × List Nat) => !x.2.isEmpty)
  let s := (ended.filter (fun (x : Nat × Cue) => !late.any (fun y => y.1 == x.1))).foldl endStep s
  overrunHangs s late

/-- The transfers of one spill row (R126): presented to the channel, or, where the page is not resident, delivered poisoned. -/
def spillRow (s : State) (q : Cue) (b : Binding) (p : Pattern) (k i j : Nat) (sd : ClaimStream) (w : IndRow) : State :=
  (List.range (rowTransfers sd - w.done)).foldl (fun s d =>
    let n := w.done + d
    let byte := rowByte s b p i sd w.row n
    match regionFrame s q b k sd.region byte with
    | some (_, fr, order, _) =>
      presentReq s (locOf order fr (byte % 65536)) {
        rank := 0, bank := 0, row := 0, col := 0, write := false, mask := 15, keep := false, source := .spill (Fin.ofNat 2560 k), master := 11
        block := (fr * 65536 + byte % 65536) / 256 * 256, job := 4, arg := spillArg j w.ix n }
    | none => moveRow s q b p k i j sd w n) s

/-- The spill rows of a run are presented once its step's last indirect claim has passed (R126). -/
def spillRun (s : State) (r : Nat) : State :=
  let t := countSpills s r
  match runOf s r, runOf t r with
  | some (q, _, _), some (q', b, p) =>
    if q.spills = q'.spills then t else
    (List.range p.cores.length).foldl (fun t i => match p.cores[i]?, coreOf b p i with
      | some pc, some k => (t.core k).rows.foldl (fun t (x : Nat × List IndRow) => match pc.streams[x.1]? with
        | some sd => x.2.foldl (fun t w => spillRow t q' b p k i x.1 sd w) t
        | none => t) t
      | _, _ => t) t
  | _, _ => t

/-- The sequencers latch the cues whose arming has completed (R49). -/
def latchCues (s : State) : State :=
  { s with cues := s.cues.map (fun (x : Nat × Cue) =>
      if x.2.phase = .armed ∧ x.2.armedAt < s.ft.run then (x.1, { x.2 with phase := .latched }) else x) }

/-- A run has a step still to start. -/
def hasNext (s : State) (r : Nat) : Bool := match runOf s r with | some (q, _, p) => decide (q.step < p.steps.length) | none => false

/-- The reset of a cluster of a placement, or of its base die, that is in progress (R423). -/
def startReset? (s : State) (b : Binding) : Option Nat :=
  (s.rv.resets.find? (fun (j : Nat × ResetJob) => match j.2.unit_ with
    | .cluster c => b.cmap.contains c.val
    | .baseDie d => b.cmap.any (fun k => dieOf k == d.val)
    | _ => false)).map (·.1)

/-- A start that falls in a reset waits for its end (R423). -/
def deferStart (s : State) (r key : Nat) : State :=
  s.modRv (fun v => { v with resets := v.resets.map (fun (j : Nat × ResetJob) =>
    if j.1 = key ∧ r ∉ j.2.lateCues then (j.1, { j.2 with lateCues := j.2.lateCues ++ [r] }) else j) })

/-- The next step of a run is due `n` boundaries from this one (R54). -/
def dueIn (s : State) (r n : Nat) : Bool :=
  hasNext s r && (match runOf s r with | some (q, _, _) => q.phase != .armed && dueRun s q == s.ft.run + n | none => false)

/-- The reset, if any, for which a run that is due to start has to wait (R423). A run that has started waits for none. -/
def startWaits (s : State) (r : Nat) : Option Nat :=
  match runOf s r with | some (q, b, _) => if q.phase = .running then none else startReset? s b | none => none

/-- The next step of a run starts now and lasts one frame, and another comes after it (R54, R136). -/
def startsShort (s : State) (r : Nat) : Bool :=
  dueIn s r 0 && (startWaits s r).isNone
    && (match runOf s r with
        | some (q, _, p) => decide (q.step + 1 < p.steps.length) && (match p.steps[q.step]? with | some x => x.frames == 1 | none => false)
        | none => false)

/-- The next step of a run has been sampled. -/
def sampledNext (s : State) (r : Nat) : Bool := match runOf s r with | some (q, _, _) => q.sampled | none => false

/-- A run's part in the samples of a boundary (R54, R55): of a step due now that no boundary has sampled, because a renumbering
has brought its start here; of the step due one frame later; and of the step after one that starts now for one frame. -/
def sampleRun (s : State) (r : Nat) : State :=
  let s := if dueIn s r 0 && !sampledNext s r then sampleStep s r else s
  if dueIn s r 1 then sampleStep s r else if startsShort s r then sampleAhead s r else s

/-- The samples of a boundary (R54, R67). -/
def samples (s : State) : State := (liveRuns s).foldl (fun s (x : Nat × Cue) => sampleRun s x.1) s

/-- Pattern and step starts (R48, R56, R67). -/
def starts (s : State) : State :=
  (liveRuns s).foldl (fun s (x : Nat × Cue) =>
    if !dueIn s x.1 0 then s
    else match startWaits s x.1 with
      | some key => deferStart s x.1 key
      | none => startStep s x.1) s

/-- The patterns' part of a boundary: spill rows are counted before the step that left them ends (R126). -/
def patternBoundary (s : State) : State :=
  let s := stepsEnd ((liveRuns s).foldl (fun s (x : Nat × Cue) => if x.2.phase = .running then spillRun s x.1 else s) s)
  starts (samples (latchCues s))

/-- A core at a boundary: one in XWAIT sees one more (R407 detector 1), and one that began its run a frame ago has cleared its
state (R113). -/
def coreBoundary (c : CoreState) : CoreState :=
  match c.st with
  | .xwait => { c with xbounds := c.xbounds + 1 }
  | .clearing => { c with st := .running }
  | _ => c

/-- The cores at a boundary. -/
def xwaitBoundary (s : State) : State := { s with cores := s.cores.map (fun (k : Nat × CoreState) => (k.1, coreBoundary k.2)) }

/-! ### The stacks -/

/-- Refresh is due on a stack in the frame that begins (R40): in every frame when doubled, and in every third otherwise. -/
def refreshDue (s : State) (t : Nat) : Bool := stackReady s t && ((s.stackOf t).doubled || frameNo s % 3 == 0)

/-- The ranks of a channel that a refresh of a frame takes (R249): the spare rank with a rank that is being copied, and in place of a
spared one. -/
def refreshRanks (c : ChanState) : List Nat :=
  match c.spare with
  | .migrating => List.range 17
  | .spared => (List.range 17).filter (fun r => r != c.spareRank)
  | _ => List.range 16

/-- A channel at a boundary: its grid restarts (R38), and its ranks are refreshed where that is due (R40, R249). -/
def chanBoundary (s : State) (c : ChanState) (due : Bool) : ChanState :=
  let t := modeSet s.pw.mode
  let c := { c with
    slot := 0, abs := c.abs + (slotsN t - c.slot), withheld := 0, trainNow := false, sparedAt := c.sparedAt.filter (fun n => decide (s.ft.run ≤ n))
    reads := c.reads.filter (fun (x : Nat × Nat) => decide (s.ft.run < x.1 + 8193)), refreshed := due, tacked := false, calDone := false }
  if due then advanceRefs c (refreshRanks c) (fun _ => 1) else c

/-- The stacks at a boundary. -/
def stackBoundary (s : State) : State :=
  let due := (List.range 20).map (refreshDue s)
  { s with chans := (List.range 640).map (fun k => (k, chanBoundary s (mget {} s.chans k) (due.getD (k / 32) false))) }

/-- The bank and the line offset of a line's cells, by their number. -/
def cellBankLine (n : Nat) : Nat × Nat := (n / 16 / 8196, n % 16)

/-- A spare that is done enters the fuse map (R291, R292), and the next of its bank starts. From then on a row's findings are those of
its spare row. -/
def commitFuse (s : State) (st ch key : Nat) : State :=
  let b := bankFuse s st ch key
  let s := match b.job, b.done with
    | some (.row row), true =>
      raise ((s.modFuse st ch key (fun x => { x with rows := x.rows ++ [row], job := none, at_ := 0, skip := [], done := false })).modChan st ch
          (fun c => { c with rowsNow := c.rowsNow.filter (· != (key, row)), rowsLast := c.rowsLast.filter (· != (key, row)) })) evFuseSpared []
        (fuseWords (.row row) st ch key ++ w1 (4 - (b.rows.length + 1)))
    | some (.col o y), true =>
      let s := s.modFuse st ch key (fun x => { x with cols := x.cols ++ [(o, y)], job := none, at_ := 0, skip := [], done := false })
      raise { s with steer := s.steer.filter (fun (z : Nat × Bool) => !(cellBankLine z.1 == (chanKey st ch * 272 + key, o) && z.2)) } evFuseSpared []
        (fuseWords (.col o y) st ch key ++ w1 (2 - (b.cols.length + 1)))
    | _, _ => s
  startFuse s st ch key (b.queue.length + 1)

/-- The fuse maps at a boundary, and the transfers that the copies and walks present for the frame (R291, R292). -/
def fuseBoundary (s : State) : State :=
  s.chans.foldl (fun s (c : Nat × ChanState) => c.2.fuse.foldl (fun s (f : Nat × FuseBank) =>
    fuseFrame (commitFuse s (c.1 / 32) (c.1 % 32) f.1) (c.1 / 32) (c.1 % 32) f.1) s) s

/-! ### Events of the frame -/

/-- The context of a merged event's subject. -/
def mergedCtx (n : Nat) : Option Ctx := if n = 0 then none else some (toCtx (n - 1))

/-- A payload with its count. -/
def withCount (words : List Word) (i n : Nat) : List Word := words.set i (BitVec.ofNat 32 (min n 0xFFFFFFFF))

/-- EV_SEAL_FAIL or EV_MEM_UNCORR (R296, R353): a General Media record, then the vendor record and the ring entry. -/
def mediaEvent (s : State) (e : EvDef) (c : Option Ctx) (words : List Word) (isSeal : Bool) : State :=
  let addr := ((words.getD 1 0).toNat + (words.getD 2 0).toNat * 0x100000000) % 2 ^ 47
  let s : State := { s with lastErr := BitVec.ofNat 64 (addr + (if isSeal then 2 ^ 47 else 0)) }
  raise (logAll s .failure .generalMedia e.code (ctxField c) words) e c.toList words

/-- Raises one of the events merged over a frame (R134, R296, R354). Kind 5 holds the lines of an EV_SEAL_FAIL. -/
def raiseMerged (s : State) (m : Nat × Nat × Nat × List Word) : State :=
  let sub := m.1 % 0x100000000
  let n := m.2.1
  let words := m.2.2.2
  match m.1 / 0x100000000 with
  | 1 => mediaEvent s evSealFail (mergedCtx sub) (withCount words 3 n ++ wSat (mget (0, 0, []) s.merged (5 * 0x100000000 + sub)).1) true
  | 2 => mediaEvent s evMemUncorr (mergedCtx sub) (withCount words 3 n) false
  | 3 => raise s evDecodeMiss (mergedCtx sub).toList (withCount words 6 n)
  | 4 => raise s evSourceUnmapped [] (withCount words 3 n)
  | 6 => raise s evRoleStale [toCtx (words.getD 0 0).toNat] (withCount words 6 n)
  | _ => s

/-- The events that the frame gathered are raised. -/
def eventBoundary (s : State) : State :=
  let s := s.merged.foldl raiseMerged s
  { s with merged := [] }

/-! ### The boundary -/

/-- What the rest of the module does at a boundary: buckets and the ledger (R369 to R375), the movers (R161, R165), new heads
(R226), walks (R314), the fuse maps, and the frame's events. -/
def serviceBoundary (s : State) : State :=
  let s := ledgerBoundary (refill (stackBoundary s))
  let s := pagesChanged (eagerRecall (newHeads (tieringBoundary s)))
  let s := eventBoundary (fuseBoundary (startWalks s))
  xwaitBoundary (s.modRv (fun v => { v with fired := [] }))

/-- A frame boundary (R36). FT_TIME moves on during a thermal shutdown too, and nothing else does (R466). -/
def frameBoundary (s : State) : State :=
  if !s.ft.running || s.pw.refLost then s
  else
    let s := advanceTime s
    if s.pw.thermalOff then s.bump 0xD0030 1
    else serviceBoundary (patternBoundary (powerBoundary (commitBoundary (timeBoundary (unpickBoundary (latchRegs s))))))

/-- FRAME_BOUNDARY. -/
def execFrameBoundary (s : State) : Out := .next (frameBoundary s)

end Sys2Proof.Machine
end

