-- ==== Sys2Proof/Machine/SField.lean ====
section
/-! DEFINITION. The commands of a bundle's S field (R89 to R97, R108 to R110). -/

namespace Sys2Proof.Machine

/-- An S instruction of a core with its issue interval. -/
def onS (i : Instr) (k : CoreId) (interval : Nat) (f : CoreState → CoreState) (s : State) : Out :=
  .next (s.issue k i (fun c => issueS c interval f))

/-- An FP arithmetic instruction (R90): latency 4, each lane each cycle. -/
def onFpArith (i : Instr) (op : Nat) (srcs : SField → List (BitVec 5)) (k : CoreId) (f : SField) (s : State) : Out :=
  onS i k 1 (fun c => laneOp f (srcs f) 4 (fun _ xs => fpArith c.acw op (xs.getD 0 0) (xs.getD 1 0) (xs.getD 2 0)) c) s

/-- An FP divide or root (R90): latency 18, interval 8. -/
def onFpRoot (i : Instr) (op : Nat) (srcs : SField → List (BitVec 5)) (k : CoreId) (f : SField) (s : State) : Out :=
  onS i k 8 (fun c => laneOp f (srcs f) 18 (fun _ xs => fpRoot c.acw op (xs.getD 0 0) (xs.getD 1 0)) c) s

/-- An operation of one or two lanes that sets no flag: latency 2. -/
def onPlain (i : Instr) (srcs : SField → List (BitVec 5)) (g : Nat → Nat → Nat) (k : CoreId) (f : SField) (s : State) : Out :=
  onS i k 1 (fun c => laneOp f (srcs f) 2 (fun _ xs => (g (xs.getD 0 0) (xs.getD 1 0), 0)) c) s

/-- A compare (R91); its TYPE 3 is reserved (R108). -/
def onCompare (i : Instr) (name : String) (op : Nat) (k : CoreId) (ty : LaneType) (f : SField) (s : State) : Out :=
  match ty with
  | .w64 => .refused (.reservedEncoding name)
  | _ => onS i k 1 (compareOp f ty op) s

/-- An integer operation (R92); it takes INT32 and UINT32 (R89). -/
def onInt (i : Instr) (name : String) (op lat : Nat) (k : CoreId) (ty : LaneType) (f : SField) (s : State) : Out :=
  match ty with
  | .fp32 => .refused (.reservedEncoding name)
  | .w64 => .refused (.reservedEncoding name)
  | _ => onS i k 1 (fun c => laneOp f [f.srcA, f.srcB] lat (fun _ xs => intOp c.acw ty op (xs.getD 0 0) (xs.getD 1 0)) c) s

/-- A bitwise operation (R92). -/
def onBit (i : Instr) (op : Nat) (srcs : SField → List (BitVec 5)) (k : CoreId) (f : SField) (s : State) : Out :=
  onPlain i srcs (fun x y => (bitOp op (lowWord x) (lowWord y)).toNat) k f s

/-- A lane reduction (R93); it takes FP32 and INT32 (R89). -/
def onReduce (i : Instr) (name : String) (op : Nat) (k : CoreId) (ty : LaneType) (f : SField) (s : State) : Out :=
  match ty with
  | .fp32 => onS i k 2 (reduceOp f .fp32 op) s
  | .int32 => onS i k 2 (reduceOp f .int32 op) s
  | _ => .refused (.reservedEncoding name)

/-- An atomic on the bobbin (R94, R109): issue interval 32, result after 36 cycles (R112). -/
def onAtomic (i : Instr) (op : Nat) (k : CoreId) (ty : LaneType) (f : SField) (s : State) : Out :=
  onS i k 32 (atomicS f ty op) s

/-- Both sources. -/
def srcAB (f : SField) : List (BitVec 5) := [f.srcA, f.srcB]

/-- The first source. -/
def srcA1 (f : SField) : List (BitVec 5) := [f.srcA]

/-- SNOP. -/
def execSnop (k : CoreId) (s : State) : Out := .next (s.issue k (.snop k) (fun c => { c with turn := .x }))

/-- FP add (R90). -/
def execFpAdd (k : CoreId) (f : SField) (s : State) : Out :=
  onFpArith (.fpAdd k f) 0 srcAB k f s

/-- FP subtract (R90). -/
def execFpSubtract (k : CoreId) (f : SField) (s : State) : Out :=
  onFpArith (.fpSubtract k f) 1 srcAB k f s

/-- FP multiply (R90). -/
def execFpMultiply (k : CoreId) (f : SField) (s : State) : Out :=
  onFpArith (.fpMultiply k f) 2 srcAB k f s

/-- FP fused multiply-add: SRCA × SRCB + SRCC (R90). -/
def execFpFusedMultiplyAdd (k : CoreId) (f : SField) (s : State) : Out :=
  onFpArith (.fpFusedMultiplyAdd k f) 3 (fun f => [f.srcA, f.srcB, f.srcC]) k f s

/-- FP divide (R90). -/
def execFpDivide (k : CoreId) (f : SField) (s : State) : Out :=
  onFpRoot (.fpDivide k f) 0 srcAB k f s

/-- FP square root (R90). -/
def execFpSquareRoot (k : CoreId) (f : SField) (s : State) : Out :=
  onFpRoot (.fpSquareRoot k f) 1 srcA1 k f s

/-- FP reciprocal (R90). -/
def execFpReciprocal (k : CoreId) (f : SField) (s : State) : Out :=
  onFpRoot (.fpReciprocal k f) 2 srcA1 k f s

/-- FP reciprocal square root (R90). -/
def execFpReciprocalSquareRoot (k : CoreId) (f : SField) (s : State) : Out :=
  onFpRoot (.fpReciprocalSquareRoot k f) 3 srcA1 k f s

/-- FP minimum (R91). -/
def execFpMinimum (k : CoreId) (f : SField) (s : State) : Out :=
  onPlain (.fpMinimum k f) srcAB fpMin32 k f s

/-- FP maximum (R91). -/
def execFpMaximum (k : CoreId) (f : SField) (s : State) : Out :=
  onPlain (.fpMaximum k f) srcAB fpMax32 k f s

/-- FP absolute value; a NaN gives the canonical NaN (R90). -/
def execFpAbsoluteValue (k : CoreId) (f : SField) (s : State) : Out :=
  onPlain (.fpAbsoluteValue k f) srcA1 (fun x _ => fpAbs32 x) k f s

/-- FP negate; a NaN gives the canonical NaN (R90). -/
def execFpNegate (k : CoreId) (f : SField) (s : State) : Out :=
  onPlain (.fpNegate k f) srcA1 (fun x _ => fpNeg32 x) k f s

/-- FP copy sign: SRCA with the sign of SRCB; a NaN gives the canonical NaN (R90). -/
def execFpCopySign (k : CoreId) (f : SField) (s : State) : Out :=
  onPlain (.fpCopySign k f) srcAB fpCopySign32 k f s

/-- Compare, OP 0 (R91). -/
def execCompareEqual (k : CoreId) (ty : LaneType) (f : SField) (s : State) : Out :=
  onCompare (.compareEqual k ty f) "COMPARE_EQUAL" 0 k ty f s

/-- Compare, OP 1 (R91). -/
def execCompareLessThan (k : CoreId) (ty : LaneType) (f : SField) (s : State) : Out :=
  onCompare (.compareLessThan k ty f) "COMPARE_LESS_THAN" 1 k ty f s

/-- Compare, OP 2 (R91). -/
def execCompareLessOrEqual (k : CoreId) (ty : LaneType) (f : SField) (s : State) : Out :=
  onCompare (.compareLessOrEqual k ty f) "COMPARE_LESS_OR_EQUAL" 2 k ty f s

/-- Compare, OP 3 (R91). -/
def execCompareUnordered (k : CoreId) (ty : LaneType) (f : SField) (s : State) : Out :=
  onCompare (.compareUnordered k ty f) "COMPARE_UNORDERED" 3 k ty f s

/-- Integer operation, OP 0 (R92). -/
def execIntAdd (k : CoreId) (ty : LaneType) (f : SField) (s : State) : Out :=
  onInt (.intAdd k ty f) "INT_ADD" 0 2 k ty f s

/-- Integer operation, OP 1 (R92). -/
def execIntSubtract (k : CoreId) (ty : LaneType) (f : SField) (s : State) : Out :=
  onInt (.intSubtract k ty f) "INT_SUBTRACT" 1 2 k ty f s

/-- Integer operation, OP 2 (R92). -/
def execIntMultiplyLow (k : CoreId) (ty : LaneType) (f : SField) (s : State) : Out :=
  onInt (.intMultiplyLow k ty f) "INT_MULTIPLY_LOW" 2 4 k ty f s

/-- Integer operation, OP 3 (R92). -/
def execIntMultiplyHigh (k : CoreId) (ty : LaneType) (f : SField) (s : State) : Out :=
  onInt (.intMultiplyHigh k ty f) "INT_MULTIPLY_HIGH" 3 4 k ty f s

/-- Integer operation, OP 4 (R92). -/
def execIntMinimum (k : CoreId) (ty : LaneType) (f : SField) (s : State) : Out :=
  onInt (.intMinimum k ty f) "INT_MINIMUM" 4 2 k ty f s

/-- Integer operation, OP 5 (R92). -/
def execIntMaximum (k : CoreId) (ty : LaneType) (f : SField) (s : State) : Out :=
  onInt (.intMaximum k ty f) "INT_MAXIMUM" 5 2 k ty f s

/-- Bitwise operation, OP 0 (R92, R109). -/
def execBitwiseAnd (k : CoreId) (f : SField) (s : State) : Out :=
  onBit (.bitwiseAnd k f) 0 srcAB k f s

/-- Bitwise operation, OP 1 (R92, R109). -/
def execBitwiseOr (k : CoreId) (f : SField) (s : State) : Out :=
  onBit (.bitwiseOr k f) 1 srcAB k f s

/-- Bitwise operation, OP 2 (R92, R109). -/
def execBitwiseExclusiveOr (k : CoreId) (f : SField) (s : State) : Out :=
  onBit (.bitwiseExclusiveOr k f) 2 srcAB k f s

/-- Bitwise operation, OP 3 (R92, R109). -/
def execBitwiseNot (k : CoreId) (f : SField) (s : State) : Out :=
  onBit (.bitwiseNot k f) 3 srcA1 k f s

/-- Bitwise operation, OP 4 (R92, R109). -/
def execShiftLeft (k : CoreId) (f : SField) (s : State) : Out :=
  onBit (.shiftLeft k f) 4 srcAB k f s

/-- Bitwise operation, OP 5 (R92, R109). -/
def execShiftRightLogical (k : CoreId) (f : SField) (s : State) : Out :=
  onBit (.shiftRightLogical k f) 5 srcAB k f s

/-- Bitwise operation, OP 6 (R92, R109). -/
def execShiftRightArithmetic (k : CoreId) (f : SField) (s : State) : Out :=
  onBit (.shiftRightArithmetic k f) 6 srcAB k f s

/-- Bitwise operation, OP 7 (R92, R109). -/
def execRotateLeft (k : CoreId) (f : SField) (s : State) : Out :=
  onBit (.rotateLeft k f) 7 srcAB k f s

/-- Bitwise operation, OP 8 (R92, R109). -/
def execPopulationCount (k : CoreId) (f : SField) (s : State) : Out :=
  onBit (.populationCount k f) 8 srcA1 k f s

/-- Select (R109): the choosing mask is SRCC[1:0]; a reserved bit of SRCC is a reserved encoding. -/
def execSelect (k : CoreId) (f : SField) (s : State) : Out :=
  if f.srcC.toNat / 4 = 0 then onS (.select k f) k 1 (selectOp f) s else .refused (.reservedEncoding "SELECT")

/-- Conversion from FP32 to the format in SRCC (R95, R109). -/
def execConvertFromFp32 (k : CoreId) (f : SField) (s : State) : Out :=
  if (cvtFrom 0 f.srcC.toNat 0 0).isSome then
    onS (.convertFromFp32 k f) k 1 (fun c => countSr (laneOp f (srcA1 f) 4 (fun l xs =>
      (cvtFrom c.acw f.srcC.toNat (xs.getD 0 0) (laneRandom s c l)).getD (0, 0)) c)) s
  else .refused (.reservedEncoding "CONVERT_FROM_FP32")

/-- Conversion of the format in SRCC to FP32, or to INT32 (R95, R109). -/
def execConvertToFp32 (k : CoreId) (f : SField) (s : State) : Out :=
  if (cvtTo 0 f.srcC.toNat 0 0).isSome then
    onS (.convertToFp32 k f) k 1 (fun c => countSr (laneOp f (srcA1 f) 4 (fun l xs =>
      (cvtTo c.acw f.srcC.toNat (xs.getD 0 0) (laneRandom s c l)).getD (0, 0)) c)) s
  else .refused (.reservedEncoding "CONVERT_TO_FP32")

/-- MX quantise with the element format in SRCC (R97, R109). -/
def execMxQuantise (k : CoreId) (f : SField) (s : State) : Out :=
  match mxFmt f.srcC.toNat with
  | some fmt => onS (.mxQuantise k f) k 2 (quantiseOp s f fmt) s
  | none => .refused (.reservedEncoding "MX_QUANTISE")

/-- Lane reduction, OP 0 (R93). -/
def execReduceSum (k : CoreId) (ty : LaneType) (f : SField) (s : State) : Out :=
  onReduce (.reduceSum k ty f) "REDUCE_SUM" 0 k ty f s

/-- Lane reduction, OP 1 (R93). -/
def execReduceMinimum (k : CoreId) (ty : LaneType) (f : SField) (s : State) : Out :=
  onReduce (.reduceMinimum k ty f) "REDUCE_MINIMUM" 1 k ty f s

/-- Lane reduction, OP 2 (R93). -/
def execReduceMaximum (k : CoreId) (ty : LaneType) (f : SField) (s : State) : Out :=
  onReduce (.reduceMaximum k ty f) "REDUCE_MAXIMUM" 2 k ty f s

/-- Accumulator read (R88, R109). -/
def execAccumulatorRead (k : CoreId) (f : SField) (s : State) : Out :=
  onS (.accumulatorRead k f) k 1 (accReadOp f) s

/-- Accumulator write (R88, R109). -/
def execAccumulatorWrite (k : CoreId) (f : SField) (s : State) : Out :=
  onS (.accumulatorWrite k f) k 1 (accWriteOp f) s

/-- Atomic, OP 0 (R94). -/
def execAtomicIntegerAdd (k : CoreId) (ty : LaneType) (f : SField) (s : State) : Out :=
  onAtomic (.atomicIntegerAdd k ty f) 0 k ty f s

/-- Atomic, OP 1 (R94). -/
def execAtomicSignedMinimum (k : CoreId) (ty : LaneType) (f : SField) (s : State) : Out :=
  onAtomic (.atomicSignedMinimum k ty f) 1 k ty f s

/-- Atomic, OP 2 (R94). -/
def execAtomicSignedMaximum (k : CoreId) (ty : LaneType) (f : SField) (s : State) : Out :=
  onAtomic (.atomicSignedMaximum k ty f) 2 k ty f s

/-- Atomic, OP 3 (R94). -/
def execAtomicUnsignedMinimum (k : CoreId) (ty : LaneType) (f : SField) (s : State) : Out :=
  onAtomic (.atomicUnsignedMinimum k ty f) 3 k ty f s

/-- Atomic, OP 4 (R94). -/
def execAtomicUnsignedMaximum (k : CoreId) (ty : LaneType) (f : SField) (s : State) : Out :=
  onAtomic (.atomicUnsignedMaximum k ty f) 4 k ty f s

/-- Atomic, OP 5 (R94). -/
def execAtomicAnd (k : CoreId) (ty : LaneType) (f : SField) (s : State) : Out :=
  onAtomic (.atomicAnd k ty f) 5 k ty f s

/-- Atomic, OP 6 (R94). -/
def execAtomicOr (k : CoreId) (ty : LaneType) (f : SField) (s : State) : Out :=
  onAtomic (.atomicOr k ty f) 6 k ty f s

/-- Atomic, OP 7 (R94). -/
def execAtomicExclusiveOr (k : CoreId) (ty : LaneType) (f : SField) (s : State) : Out :=
  onAtomic (.atomicExclusiveOr k ty f) 7 k ty f s

/-- Atomic, OP 8 (R94). -/
def execAtomicExchange (k : CoreId) (ty : LaneType) (f : SField) (s : State) : Out :=
  onAtomic (.atomicExchange k ty f) 8 k ty f s

/-- Atomic, OP 9 (R94). -/
def execAtomicCompareExchange (k : CoreId) (ty : LaneType) (f : SField) (s : State) : Out :=
  onAtomic (.atomicCompareExchange k ty f) 9 k ty f s

/-- Atomic, OP 10 (R94). -/
def execAtomicFp32Add (k : CoreId) (f : SField) (s : State) : Out :=
  onAtomic (.atomicFp32Add k f) 10 k .fp32 f s

/-- Atomic, OP 11 (R94). -/
def execAtomicFp32Minimum (k : CoreId) (f : SField) (s : State) : Out :=
  onAtomic (.atomicFp32Minimum k f) 11 k .fp32 f s

/-- Atomic, OP 12 (R94). -/
def execAtomicFp32Maximum (k : CoreId) (f : SField) (s : State) : Out :=
  onAtomic (.atomicFp32Maximum k f) 12 k .fp32 f s

/-- SLD (R110). -/
def execSld (k : CoreId) (mode : AddrMode) (f : SField) (s : State) : Out :=
  onS (.sld k mode f) k 1 (sldOp mode f) s

/-- SST (R110). -/
def execSst (k : CoreId) (mode : AddrMode) (f : SField) (s : State) : Out :=
  onS (.sst k mode f) k 1 (sstOp mode f) s

/-- SLDX (R110): it holds the bobbin, not the S-engine, for 16 cycles (R112). -/
def execSldx (k : CoreId) (f : SField) (s : State) : Out :=
  onS (.sldx k f) k 1 (sldxOp f) s

/-- SSTX (R110): it holds the bobbin, not the S-engine, for 16 cycles (R112). -/
def execSstx (k : CoreId) (f : SField) (s : State) : Out :=
  onS (.sstx k f) k 1 (sstxOp f) s

end Sys2Proof.Machine
end

