-- ==== Sys2Proof/Machine/TField.lean ====
section
/-! DEFINITION. The commands of a bundle's T field (R105 to R107). -/

namespace Sys2Proof.Machine

/-- TNOP: the MAC that occupies the T-engine, if any, does this cycle's work. -/
def execTnop (k : CoreId) (s : State) : Out := .next (s.issue k (.tnop k) issueT)

/-- MAC (R105): REPEAT + 1 steps. -/
def execMac (k : CoreId) (start : Bool) (acc : BitVec 7) (rep : BitVec 10) (accStep : Bool) (advance : BitVec 6)
    (dpuEn : BitVec 8) (s : State) : Out :=
  .next (s.issue k (.mac k start acc rep accStep advance dpuEn) (fun c =>
    issueMac c { start := start, acc := acc, steps := rep.toNat + 1, accStep := accStep, advance := advance,
                 dpuEn := dpuEn, acw := c.acw }))

end Sys2Proof.Machine
end

