-- ==== Sys2Proof/Machine/Dispatch.lean ====
section
/-! DEFINITION. The command a constructor stands for, arm by arm. -/

namespace Sys2Proof.Machine

/-- The effect of one command on everything but the queue. -/
def exec (i : Instr) (s : State) : Host.Outcome State Fault Refusal :=
  match i with
  | .frameBoundary => Sys2Proof.Machine.execFrameBoundary s
  | .ptmDialogStart p => Sys2Proof.Machine.execPtmDialogStart p s
  | .ptmDialogResponse p master sub => Sys2Proof.Machine.execPtmDialogResponse p master sub s
  | .ptmDialogTimeout p => Sys2Proof.Machine.execPtmDialogTimeout p s
  | .ptmLost p => Sys2Proof.Machine.execPtmLost p s
  | .holdoverExpired => Sys2Proof.Machine.execHoldoverExpired s
  | .stackSetChangeTimeout t => Sys2Proof.Machine.execStackSetChangeTimeout t s
  | .decoderCommitComplete c => Sys2Proof.Machine.execDecoderCommitComplete c s
  | .dramSlot t h => Sys2Proof.Machine.execDramSlot t h s
  | .dramAdmissionDecision t h => Sys2Proof.Machine.execDramAdmissionDecision t h s
  | .linkArbiterDecision die toHub requests => Sys2Proof.Machine.execLinkArbiterDecision die toHub requests s
  | .flashArbiterDecision b ch requests => Sys2Proof.Machine.execFlashArbiterDecision b ch requests s
  | .masterMaskChange m raised => Sys2Proof.Machine.execMasterMaskChange m raised s
  | .tnop k => Sys2Proof.Machine.execTnop k s
  | .mac k start acc rep accStep advance dpuEn => Sys2Proof.Machine.execMac k start acc rep accStep advance dpuEn s
  | .snop k => Sys2Proof.Machine.execSnop k s
  | .fpAdd k f => Sys2Proof.Machine.execFpAdd k f s
  | .fpSubtract k f => Sys2Proof.Machine.execFpSubtract k f s
  | .fpMultiply k f => Sys2Proof.Machine.execFpMultiply k f s
  | .fpFusedMultiplyAdd k f => Sys2Proof.Machine.execFpFusedMultiplyAdd k f s
  | .fpDivide k f => Sys2Proof.Machine.execFpDivide k f s
  | .fpSquareRoot k f => Sys2Proof.Machine.execFpSquareRoot k f s
  | .fpReciprocal k f => Sys2Proof.Machine.execFpReciprocal k f s
  | .fpReciprocalSquareRoot k f => Sys2Proof.Machine.execFpReciprocalSquareRoot k f s
  | .fpMinimum k f => Sys2Proof.Machine.execFpMinimum k f s
  | .fpMaximum k f => Sys2Proof.Machine.execFpMaximum k f s
  | .fpAbsoluteValue k f => Sys2Proof.Machine.execFpAbsoluteValue k f s
  | .fpNegate k f => Sys2Proof.Machine.execFpNegate k f s
  | .fpCopySign k f => Sys2Proof.Machine.execFpCopySign k f s
  | .compareEqual k ty f => Sys2Proof.Machine.execCompareEqual k ty f s
  | .compareLessThan k ty f => Sys2Proof.Machine.execCompareLessThan k ty f s
  | .compareLessOrEqual k ty f => Sys2Proof.Machine.execCompareLessOrEqual k ty f s
  | .compareUnordered k ty f => Sys2Proof.Machine.execCompareUnordered k ty f s
  | .intAdd k ty f => Sys2Proof.Machine.execIntAdd k ty f s
  | .intSubtract k ty f => Sys2Proof.Machine.execIntSubtract k ty f s
  | .intMultiplyLow k ty f => Sys2Proof.Machine.execIntMultiplyLow k ty f s
  | .intMultiplyHigh k ty f => Sys2Proof.Machine.execIntMultiplyHigh k ty f s
  | .intMinimum k ty f => Sys2Proof.Machine.execIntMinimum k ty f s
  | .intMaximum k ty f => Sys2Proof.Machine.execIntMaximum k ty f s
  | .bitwiseAnd k f => Sys2Proof.Machine.execBitwiseAnd k f s
  | .bitwiseOr k f => Sys2Proof.Machine.execBitwiseOr k f s
  | .bitwiseExclusiveOr k f => Sys2Proof.Machine.execBitwiseExclusiveOr k f s
  | .bitwiseNot k f => Sys2Proof.Machine.execBitwiseNot k f s
  | .shiftLeft k f => Sys2Proof.Machine.execShiftLeft k f s
  | .shiftRightLogical k f => Sys2Proof.Machine.execShiftRightLogical k f s
  | .shiftRightArithmetic k f => Sys2Proof.Machine.execShiftRightArithmetic k f s
  | .rotateLeft k f => Sys2Proof.Machine.execRotateLeft k f s
  | .populationCount k f => Sys2Proof.Machine.execPopulationCount k f s
  | .select k f => Sys2Proof.Machine.execSelect k f s
  | .convertFromFp32 k f => Sys2Proof.Machine.execConvertFromFp32 k f s
  | .convertToFp32 k f => Sys2Proof.Machine.execConvertToFp32 k f s
  | .mxQuantise k f => Sys2Proof.Machine.execMxQuantise k f s
  | .reduceSum k ty f => Sys2Proof.Machine.execReduceSum k ty f s
  | .reduceMinimum k ty f => Sys2Proof.Machine.execReduceMinimum k ty f s
  | .reduceMaximum k ty f => Sys2Proof.Machine.execReduceMaximum k ty f s
  | .accumulatorRead k f => Sys2Proof.Machine.execAccumulatorRead k f s
  | .accumulatorWrite k f => Sys2Proof.Machine.execAccumulatorWrite k f s
  | .atomicIntegerAdd k ty f => Sys2Proof.Machine.execAtomicIntegerAdd k ty f s
  | .atomicSignedMinimum k ty f => Sys2Proof.Machine.execAtomicSignedMinimum k ty f s
  | .atomicSignedMaximum k ty f => Sys2Proof.Machine.execAtomicSignedMaximum k ty f s
  | .atomicUnsignedMinimum k ty f => Sys2Proof.Machine.execAtomicUnsignedMinimum k ty f s
  | .atomicUnsignedMaximum k ty f => Sys2Proof.Machine.execAtomicUnsignedMaximum k ty f s
  | .atomicAnd k ty f => Sys2Proof.Machine.execAtomicAnd k ty f s
  | .atomicOr k ty f => Sys2Proof.Machine.execAtomicOr k ty f s
  | .atomicExclusiveOr k ty f => Sys2Proof.Machine.execAtomicExclusiveOr k ty f s
  | .atomicExchange k ty f => Sys2Proof.Machine.execAtomicExchange k ty f s
  | .atomicCompareExchange k ty f => Sys2Proof.Machine.execAtomicCompareExchange k ty f s
  | .atomicFp32Add k f => Sys2Proof.Machine.execAtomicFp32Add k f s
  | .atomicFp32Minimum k f => Sys2Proof.Machine.execAtomicFp32Minimum k f s
  | .atomicFp32Maximum k f => Sys2Proof.Machine.execAtomicFp32Maximum k f s
  | .sld k mode f => Sys2Proof.Machine.execSld k mode f s
  | .sst k mode f => Sys2Proof.Machine.execSst k mode f s
  | .sldx k f => Sys2Proof.Machine.execSldx k f s
  | .sstx k f => Sys2Proof.Machine.execSstx k f s
  | .xnop k => Sys2Proof.Machine.execXnop k s
  | .step k => Sys2Proof.Machine.execStep k s
  | .endPattern k => Sys2Proof.Machine.execEndPattern k s
  | .lcnt k counter limit => Sys2Proof.Machine.execLcnt k counter limit s
  | .loop k counter target => Sys2Proof.Machine.execLoop k counter target s
  | .waitf k cycle frames => Sys2Proof.Machine.execWaitf k cycle frames s
  | .waitfResume k => Sys2Proof.Machine.execWaitfResume k s
  | .acw k value => Sys2Proof.Machine.execAcw k value s
  | .tsd k stream addr16 => Sys2Proof.Machine.execTsd k stream addr16 s
  | .xsend k entry => Sys2Proof.Machine.execXsend k entry s
  | .xred k entry => Sys2Proof.Machine.execXred k entry s
  | .xwait k count => Sys2Proof.Machine.execXwait k count s
  | .xclr k => Sys2Proof.Machine.execXclr k s
  | .exchangeMessageArrive msg => Sys2Proof.Machine.execExchangeMessageArrive msg s
  | .memRd p src hpa mv tag => Sys2Proof.Machine.execMemRd p src hpa mv tag s
  | .memRdData p src hpa mv tag => Sys2Proof.Machine.execMemRdData p src hpa mv tag s
  | .memInv p src hpa mv tag => Sys2Proof.Machine.execMemInv p src hpa mv tag s
  | .memInvNt p src hpa mv tag => Sys2Proof.Machine.execMemInvNt p src hpa mv tag s
  | .memClnEvct p src hpa tag => Sys2Proof.Machine.execMemClnEvct p src hpa tag s
  | .memSpecRd p src hpa => Sys2Proof.Machine.execMemSpecRd p src hpa s
  | .memWr p src hpa mv tag data poison => Sys2Proof.Machine.execMemWr p src hpa mv tag data poison s
  | .memWrPtl p src hpa mv tag data be poison => Sys2Proof.Machine.execMemWrPtl p src hpa mv tag data be poison s
  | .biRsp p src dev shared => Sys2Proof.Machine.execBiRsp p src dev shared s
  | .biConflict p src dev => Sys2Proof.Machine.execBiConflict p src dev s
  | .stallBudgetExpired p tag => Sys2Proof.Machine.execStallBudgetExpired p tag s
  | .recallWaitExpired dev => Sys2Proof.Machine.execRecallWaitExpired dev s
  | .lockWaitExpired w => Sys2Proof.Machine.execLockWaitExpired w s
  | .pageMoveStart => Sys2Proof.Machine.execPageMoveStart s
  | .referenceBitSweep => Sys2Proof.Machine.execReferenceBitSweep s
  | .flashReadComplete pid uncorrectable => Sys2Proof.Machine.execFlashReadComplete pid uncorrectable s
  | .stripeCloseTimeout => Sys2Proof.Machine.execStripeCloseTimeout s
  | .stripeProgramComplete seq => Sys2Proof.Machine.execStripeProgramComplete seq s
  | .moverMovesDone obj => Sys2Proof.Machine.execMoverMovesDone obj s
  | .frameZeroFillDone sliver frame => Sys2Proof.Machine.execFrameZeroFillDone sliver frame s
  | .cowCopyComplete pid => Sys2Proof.Machine.execCowCopyComplete pid s
  | .garbageCollection seq => Sys2Proof.Machine.execGarbageCollection seq s
  | .pieceDecode chan => Sys2Proof.Machine.execPieceDecode chan s
  | .pieceEncode chan => Sys2Proof.Machine.execPieceEncode chan s
  | .completionPost c tag => Sys2Proof.Machine.execCompletionPost c tag s
  | .backgroundCommandComplete p secondary => Sys2Proof.Machine.execBackgroundCommandComplete p secondary s
  | .workRingDoorbell c value => Sys2Proof.Machine.execWorkRingDoorbell c value s
  | .eventRingHeadWrite c value => Sys2Proof.Machine.execEventRingHeadWrite c value s
  | .ringEnable c value => Sys2Proof.Machine.execRingEnable c value s
  | .ringDisable c value => Sys2Proof.Machine.execRingDisable c value s
  | .ringDrainComplete c => Sys2Proof.Machine.execRingDrainComplete c s
  | .eventRingInterruptTimer c => Sys2Proof.Machine.execEventRingInterruptTimer c s
  | .decoderCommitWrite c value => Sys2Proof.Machine.execDecoderCommitWrite c value s
  | .intEnableWrite p block value => Sys2Proof.Machine.execIntEnableWrite p block value s
  | .registerWrite sp offset bytes value => Sys2Proof.Machine.execRegisterWrite sp offset bytes value s
  | .msixUnmask f vector => Sys2Proof.Machine.execMsixUnmask f vector s
  | .cue c entry => Sys2Proof.Machine.execCue c entry s
  | .promote c entry => Sys2Proof.Machine.execPromote c entry s
  | .evict c entry => Sys2Proof.Machine.execEvict c entry s
  | .flush c entry => Sys2Proof.Machine.execFlush c entry s
  | .codecIn c entry => Sys2Proof.Machine.execCodecIn c entry s
  | .codecOut c entry => Sys2Proof.Machine.execCodecOut c entry s
  | .codecExchange c entry => Sys2Proof.Machine.execCodecExchange c entry s
  | .nmFill c entry => Sys2Proof.Machine.execNmFill c entry s
  | .nmCopy c entry => Sys2Proof.Machine.execNmCopy c entry s
  | .nmCompare c entry => Sys2Proof.Machine.execNmCompare c entry s
  | .nmReduce c entry => Sys2Proof.Machine.execNmReduce c entry s
  | .nmAtomic c entry => Sys2Proof.Machine.execNmAtomic c entry s
  | .swapIn c entry => Sys2Proof.Machine.execSwapIn c entry s
  | .swapOut c entry => Sys2Proof.Machine.execSwapOut c entry s
  | .nop c entry => Sys2Proof.Machine.execNop c entry s
  | .steward c entry => Sys2Proof.Machine.execSteward c entry s
  | .upstreamCompletion c tag successful ep data => Sys2Proof.Machine.execUpstreamCompletion c tag successful ep data s
  | .upstreamCompletionTimeout c tag => Sys2Proof.Machine.execUpstreamCompletionTimeout c tag s
  | .poisonedTlpToBar p => Sys2Proof.Machine.execPoisonedTlpToBar p s
  | .mciIdentify via input => Sys2Proof.Machine.execMciIdentify via input s
  | .ctxSelect via input => Sys2Proof.Machine.execCtxSelect via input s
  | .patLoad via input => Sys2Proof.Machine.execPatLoad via input s
  | .patUnload via input => Sys2Proof.Machine.execPatUnload via input s
  | .patBind via input => Sys2Proof.Machine.execPatBind via input s
  | .patUnbind via input => Sys2Proof.Machine.execPatUnbind via input s
  | .objCreate via input => Sys2Proof.Machine.execObjCreate via input s
  | .objDelete via input => Sys2Proof.Machine.execObjDelete via input s
  | .objSetClass via input => Sys2Proof.Machine.execObjSetClass via input s
  | .objQuery via input => Sys2Proof.Machine.execObjQuery via input s
  | .winCreate via input => Sys2Proof.Machine.execWinCreate via input s
  | .winDelete via input => Sys2Proof.Machine.execWinDelete via input s
  | .verInit via input => Sys2Proof.Machine.execVerInit via input s
  | .verDraft via input => Sys2Proof.Machine.execVerDraft via input s
  | .verPublish via input => Sys2Proof.Machine.execVerPublish via input s
  | .verRebase via input => Sys2Proof.Machine.execVerRebase via input s
  | .verDiscard via input => Sys2Proof.Machine.execVerDiscard via input s
  | .verOpen via input => Sys2Proof.Machine.execVerOpen via input s
  | .verClose via input => Sys2Proof.Machine.execVerClose via input s
  | .verQuery via input => Sys2Proof.Machine.execVerQuery via input s
  | .leaseRenew via input => Sys2Proof.Machine.execLeaseRenew via input s
  | .leaseSet via input => Sys2Proof.Machine.execLeaseSet via input s
  | .leaseExpiry c => Sys2Proof.Machine.execLeaseExpiry c s
  | .codecOpen via input => Sys2Proof.Machine.execCodecOpen via input s
  | .codecClose via input => Sys2Proof.Machine.execCodecClose via input s
  | .dramOrderSet via input => Sys2Proof.Machine.execDramOrderSet via input s
  | .dramSpare via input => Sys2Proof.Machine.execDramSpare via input s
  | .cartQuery via input => Sys2Proof.Machine.execCartQuery via input s
  | .cartRetire via input => Sys2Proof.Machine.execCartRetire via input s
  | .ledgerSet via input => Sys2Proof.Machine.execLedgerSet via input s
  | .ledgerQuery via input => Sys2Proof.Machine.execLedgerQuery via input s
  | .modeSet via input => Sys2Proof.Machine.execModeSet via input s
  | .modeQuery via input => Sys2Proof.Machine.execModeQuery via input s
  | .srcidSet via input => Sys2Proof.Machine.execSrcidSet via input s
  | .portRoleSet via input => Sys2Proof.Machine.execPortRoleSet via input s
  | .swapGrant via input => Sys2Proof.Machine.execSwapGrant via input s
  | .regRead via input => Sys2Proof.Machine.execRegRead via input s
  | .regWrite via input => Sys2Proof.Machine.execRegWrite via input s
  | .keySet via input => Sys2Proof.Machine.execKeySet via input s
  | .keyClear via input => Sys2Proof.Machine.execKeyClear via input s
  | .ctxUnpick via input => Sys2Proof.Machine.execCtxUnpick via input s
  | .quarantineRelease via input => Sys2Proof.Machine.execQuarantineRelease via input s
  | .resetRequest via input => Sys2Proof.Machine.execResetRequest via input s
  | .identifyMemoryDevice p secondary input => Sys2Proof.Machine.execIdentifyMemoryDevice p secondary input s
  | .getSupportedLogs p secondary input => Sys2Proof.Machine.execGetSupportedLogs p secondary input s
  | .getLog p secondary input => Sys2Proof.Machine.execGetLog p secondary input s
  | .getEventRecords p secondary input => Sys2Proof.Machine.execGetEventRecords p secondary input s
  | .clearEventRecords p secondary input => Sys2Proof.Machine.execClearEventRecords p secondary input s
  | .getEventInterruptPolicy p secondary input => Sys2Proof.Machine.execGetEventInterruptPolicy p secondary input s
  | .setEventInterruptPolicy p secondary input => Sys2Proof.Machine.execSetEventInterruptPolicy p secondary input s
  | .getTimestamp p secondary input => Sys2Proof.Machine.execGetTimestamp p secondary input s
  | .setTimestamp p secondary input => Sys2Proof.Machine.execSetTimestamp p secondary input s
  | .getDcConfiguration p secondary input => Sys2Proof.Machine.execGetDcConfiguration p secondary input s
  | .getDcExtentList p secondary input => Sys2Proof.Machine.execGetDcExtentList p secondary input s
  | .addDcResponse p secondary base length accept => Sys2Proof.Machine.execAddDcResponse p secondary base length accept s
  | .releaseDc p secondary base length => Sys2Proof.Machine.execReleaseDc p secondary base length s
  | .fmDcAdd n host base length tag shareable => Sys2Proof.Machine.execFmDcAdd n host base length tag shareable s
  | .fmDcWithdraw n host base length => Sys2Proof.Machine.execFmDcWithdraw n host base length s
  | .fmDcForceRelease n host base length => Sys2Proof.Machine.execFmDcForceRelease n host base length s
  | .dcOfferTimeout c base => Sys2Proof.Machine.execDcOfferTimeout c base s
  | .grantReleaseComplete c base => Sys2Proof.Machine.execGrantReleaseComplete c base s
  | .transferFw via action slot offset data => Sys2Proof.Machine.execTransferFw via action slot offset data s
  | .activateFw via action slot => Sys2Proof.Machine.execActivateFw via action slot s
  | .fwStoreWriteDone => Sys2Proof.Machine.execFwStoreWriteDone s
  | .kekSet m => Sys2Proof.Machine.execKekSet m s
  | .kekClear m => Sys2Proof.Machine.execKekClear m s
  | .getVersion m => Sys2Proof.Machine.execGetVersion m s
  | .getCapabilities m => Sys2Proof.Machine.execGetCapabilities m s
  | .negotiateAlgorithms m => Sys2Proof.Machine.execNegotiateAlgorithms m s
  | .getDigests m => Sys2Proof.Machine.execGetDigests m s
  | .getCertificate m => Sys2Proof.Machine.execGetCertificate m s
  | .challenge m => Sys2Proof.Machine.execChallenge m s
  | .getMeasurements m => Sys2Proof.Machine.execGetMeasurements m s
  | .keyExchange m => Sys2Proof.Machine.execKeyExchange m s
  | .finish m => Sys2Proof.Machine.execFinish m s
  | .heartbeat m => Sys2Proof.Machine.execHeartbeat m s
  | .keyUpdate m => Sys2Proof.Machine.execKeyUpdate m s
  | .endSession m => Sys2Proof.Machine.execEndSession m s
  | .chunkSend m => Sys2Proof.Machine.execChunkSend m s
  | .chunkGet m => Sys2Proof.Machine.execChunkGet m s
  | .spdmSignatureDone => Sys2Proof.Machine.execSpdmSignatureDone s
  | .ideKmQuery m => Sys2Proof.Machine.execIdeKmQuery m s
  | .ideKmKeyProg m => Sys2Proof.Machine.execIdeKmKeyProg m s
  | .ideKmKSetGo m => Sys2Proof.Machine.execIdeKmKSetGo m s
  | .ideKmKSetStop m => Sys2Proof.Machine.execIdeKmKSetStop m s
  | .cxlQuery m => Sys2Proof.Machine.execCxlQuery m s
  | .cxlKeyProg m => Sys2Proof.Machine.execCxlKeyProg m s
  | .cxlKSetGo m => Sys2Proof.Machine.execCxlKSetGo m s
  | .cxlKSetStop m => Sys2Proof.Machine.execCxlKSetStop m s
  | .cxlGetkey m => Sys2Proof.Machine.execCxlGetkey m s
  | .linkUp p rate width flit256 pbr bi revasEcho => Sys2Proof.Machine.execLinkUp p rate width flit256 pbr bi revasEcho s
  | .linkDown p => Sys2Proof.Machine.execLinkDown p s
  | .linkRecoveryEntry p equalisationFailed => Sys2Proof.Machine.execLinkRecoveryEntry p equalisationFailed s
  | .busMasterEnableClear f => Sys2Proof.Machine.execBusMasterEnableClear f s
  | .vfFunctionLevelReset c => Sys2Proof.Machine.execVfFunctionLevelReset c s
  | .vfEnableClear p numVfs => Sys2Proof.Machine.execVfEnableClear p numVfs s
  | .pfFunctionLevelReset p => Sys2Proof.Machine.execPfFunctionLevelReset p s
  | .perstAssert p => Sys2Proof.Machine.execPerstAssert p s
  | .perstRelease p => Sys2Proof.Machine.execPerstRelease p s
  | .stackSensorRead t tenths => Sys2Proof.Machine.execStackSensorRead t tenths s
  | .thermalSensorRead baseA baseB hub => Sys2Proof.Machine.execThermalSensorRead baseA baseB hub s
  | .calWindowClose t h lane early late => Sys2Proof.Machine.execCalWindowClose t h lane early late s
  | .rankRowCopy t h => Sys2Proof.Machine.execRankRowCopy t h s
  | .scrubInterval t h => Sys2Proof.Machine.execScrubInterval t h s
  | .directedScrub t h => Sys2Proof.Machine.execDirectedScrub t h s
  | .bucketLeak => Sys2Proof.Machine.execBucketLeak s
  | .rowSpareCopyDone t h rank bank => Sys2Proof.Machine.execRowSpareCopyDone t h rank bank s
  | .columnSpareWalkDone t h rank bank => Sys2Proof.Machine.execColumnSpareWalkDone t h rank bank s
  | .bayPresence b cart => Sys2Proof.Machine.execBayPresence b cart s
  | .bayPresenceLost b => Sys2Proof.Machine.execBayPresenceLost b s
  | .bayLatchOpen b => Sys2Proof.Machine.execBayLatchOpen b s
  | .latchPowerRemove b => Sys2Proof.Machine.execLatchPowerRemove b s
  | .cartVerifyComplete b parameterPageAgrees rates => Sys2Proof.Machine.execCartVerifyComplete b parameterPageAgrees rates s
  | .channelStatusTimeout b => Sys2Proof.Machine.execChannelStatusTimeout b s
  | .codewordFailureLimit b => Sys2Proof.Machine.execCodewordFailureLimit b s
  | .ledgerWrite b => Sys2Proof.Machine.execLedgerWrite b s
  | .eolRepeat b => Sys2Proof.Machine.execEolRepeat b s
  | .rebuildStripe => Sys2Proof.Machine.execRebuildStripe s
  | .rebuildJournalWrite => Sys2Proof.Machine.execRebuildJournalWrite s
  | .rebuildDone => Sys2Proof.Machine.execRebuildDone s
  | .xwaitLimit k => Sys2Proof.Machine.execXwaitLimit k s
  | .engineStuck k sEngine => Sys2Proof.Machine.execEngineStuck k sEngine s
  | .unpickStalled k => Sys2Proof.Machine.execUnpickStalled k s
  | .clusterHeartbeatMiss c => Sys2Proof.Machine.execClusterHeartbeatMiss c s
  | .exchangeStuck c => Sys2Proof.Machine.execExchangeStuck c s
  | .stackHeartbeatMiss t => Sys2Proof.Machine.execStackHeartbeatMiss t s
  | .dieHeartbeatMiss d => Sys2Proof.Machine.execDieHeartbeatMiss d s
  | .hubBlockStall => Sys2Proof.Machine.execHubBlockStall s
  | .commandProgressTimeout c tag => Sys2Proof.Machine.execCommandProgressTimeout c tag s
  | .stewardWatchdog => Sys2Proof.Machine.execStewardWatchdog s
  | .unpickComplete c => Sys2Proof.Machine.execUnpickComplete c s
  | .resetComplete u => Sys2Proof.Machine.execResetComplete u s
  | .resetEscalate u => Sys2Proof.Machine.execResetEscalate u s
  | .replayArm => Sys2Proof.Machine.execReplayArm s
  | .packageReset => Sys2Proof.Machine.execPackageReset s
  | .startupStageComplete r ms => Sys2Proof.Machine.execStartupStageComplete r ms s
  | .domainPowerUpDone d => Sys2Proof.Machine.execDomainPowerUpDone d s
  | .inputReading mv deciamps mean1s mean10ms => Sys2Proof.Machine.execInputReading mv deciamps mean1s mean10ms s
  | .inputPowerFault => Sys2Proof.Machine.execInputPowerFault s
  | .mrefLoss => Sys2Proof.Machine.execMrefLoss s
  | .mrefStable => Sys2Proof.Machine.execMrefStable s
  | .pwrEnRise => Sys2Proof.Machine.execPwrEnRise s
  | .pwrEnFall => Sys2Proof.Machine.execPwrEnFall s
  | .modRstFall => Sys2Proof.Machine.execModRstFall s
  | .modRstRise => Sys2Proof.Machine.execModRstRise s
  | .sidebandAlertRepeat n => Sys2Proof.Machine.execSidebandAlertRepeat n s
  | .vfEnableSet p numVfs => Sys2Proof.Machine.execVfEnableSet p numVfs s
  | .busMasterEnableSet f => Sys2Proof.Machine.execBusMasterEnableSet f s
  | .ptmEnableWrite p enable => Sys2Proof.Machine.execPtmEnableWrite p enable s
  | .linkRetrainComplete p rate => Sys2Proof.Machine.execLinkRetrainComplete p rate s
  | .functionResetComplete f => Sys2Proof.Machine.execFunctionResetComplete f s
  | .endpointIdAssignment n eid => Sys2Proof.Machine.execEndpointIdAssignment n eid s

end Sys2Proof.Machine
end

