-- ==== Sys2Proof/WellFormed.lean ====
section
/-! DEFINITION. Which commands are well formed: the rules that give meaning to a field of an engine instruction
leave some of its codes reserved, and an instruction with a reserved code is no instruction of the module. Every
command from outside the cores is well formed: the module answers a bad one by the rule of its interface. -/

namespace Sys2Proof

/-- The TYPE codes of a compare (R91, R108). -/
def typeCompares (ty : LaneType) : Bool := ty == .fp32 || ty == .int32 || ty == .uint32

/-- The TYPE codes of an integer operation (R89, R92). -/
def typeInteger (ty : LaneType) : Bool := ty == .int32 || ty == .uint32

/-- The TYPE codes of a lane reduction (R89, R93). -/
def typeReduces (ty : LaneType) : Bool := ty == .fp32 || ty == .int32

/-- The format codes of a conversion from FP32 (R95, R109). -/
def formatFrom (c : BitVec 5) : Bool := [0, 1, 2, 3, 4, 7, 8, 11, 12].contains c.toNat

/-- The format codes of a conversion to FP32 (R95, R109). -/
def formatTo (c : BitVec 5) : Bool := [0, 1, 2, 3, 4, 7, 8, 9, 10, 11, 12].contains c.toNat

/-- The element format codes of an MX quantise (R97, R109). -/
def formatMx (c : BitVec 5) : Bool := [2, 3, 4, 5, 6].contains c.toNat

/-- Whether a command uses no reserved code (R76, R89, R91 to R93, R95, R97, R107 to R109, R111). -/
def Instr.wf (i : Instr) : Bool :=
  match i with
  | .frameBoundary => true
  | .ptmDialogStart _ => true
  | .ptmDialogResponse _ _ _ => true
  | .ptmDialogTimeout _ => true
  | .ptmLost _ => true
  | .holdoverExpired => true
  | .stackSetChangeTimeout _ => true
  | .decoderCommitComplete _ => true
  | .dramSlot _ _ => true
  | .dramAdmissionDecision _ _ => true
  | .linkArbiterDecision _ _ _ => true
  | .flashArbiterDecision _ _ _ => true
  | .masterMaskChange _ _ => true
  | .tnop _ => true
  | .mac _ _ _ _ _ _ _ => true
  | .snop _ => true
  | .fpAdd _ _ => true
  | .fpSubtract _ _ => true
  | .fpMultiply _ _ => true
  | .fpFusedMultiplyAdd _ _ => true
  | .fpDivide _ _ => true
  | .fpSquareRoot _ _ => true
  | .fpReciprocal _ _ => true
  | .fpReciprocalSquareRoot _ _ => true
  | .fpMinimum _ _ => true
  | .fpMaximum _ _ => true
  | .fpAbsoluteValue _ _ => true
  | .fpNegate _ _ => true
  | .fpCopySign _ _ => true
  | .compareEqual _ ty _ => typeCompares ty
  | .compareLessThan _ ty _ => typeCompares ty
  | .compareLessOrEqual _ ty _ => typeCompares ty
  | .compareUnordered _ ty _ => typeCompares ty
  | .intAdd _ ty _ => typeInteger ty
  | .intSubtract _ ty _ => typeInteger ty
  | .intMultiplyLow _ ty _ => typeInteger ty
  | .intMultiplyHigh _ ty _ => typeInteger ty
  | .intMinimum _ ty _ => typeInteger ty
  | .intMaximum _ ty _ => typeInteger ty
  | .bitwiseAnd _ _ => true
  | .bitwiseOr _ _ => true
  | .bitwiseExclusiveOr _ _ => true
  | .bitwiseNot _ _ => true
  | .shiftLeft _ _ => true
  | .shiftRightLogical _ _ => true
  | .shiftRightArithmetic _ _ => true
  | .rotateLeft _ _ => true
  | .populationCount _ _ => true
  | .select _ f => f.srcC.toNat / 4 == 0
  | .convertFromFp32 _ f => formatFrom f.srcC
  | .convertToFp32 _ f => formatTo f.srcC
  | .mxQuantise _ f => formatMx f.srcC
  | .reduceSum _ ty _ => typeReduces ty
  | .reduceMinimum _ ty _ => typeReduces ty
  | .reduceMaximum _ ty _ => typeReduces ty
  | .accumulatorRead _ _ => true
  | .accumulatorWrite _ _ => true
  | .atomicIntegerAdd _ _ _ => true
  | .atomicSignedMinimum _ _ _ => true
  | .atomicSignedMaximum _ _ _ => true
  | .atomicUnsignedMinimum _ _ _ => true
  | .atomicUnsignedMaximum _ _ _ => true
  | .atomicAnd _ _ _ => true
  | .atomicOr _ _ _ => true
  | .atomicExclusiveOr _ _ _ => true
  | .atomicExchange _ _ _ => true
  | .atomicCompareExchange _ _ _ => true
  | .atomicFp32Add _ _ => true
  | .atomicFp32Minimum _ _ => true
  | .atomicFp32Maximum _ _ => true
  | .sld _ _ _ => true
  | .sst _ _ _ => true
  | .sldx _ _ => true
  | .sstx _ _ => true
  | .xnop _ => true
  | .step _ => true
  | .endPattern _ => true
  | .lcnt _ _ limit => limit != 0
  | .loop _ _ _ => true
  | .waitf _ cycle _ => cycle.toNat < 1280
  | .waitfResume _ => true
  | .acw _ value => Machine.acwValid value
  | .tsd _ stream _ => decide (stream.toNat ≤ 5)
  | .xsend _ _ => true
  | .xred _ _ => true
  | .xwait _ _ => true
  | .xclr _ => true
  | .exchangeMessageArrive _ => true
  | .memRd _ _ _ _ _ => true
  | .memRdData _ _ _ _ _ => true
  | .memInv _ _ _ _ _ => true
  | .memInvNt _ _ _ _ _ => true
  | .memClnEvct _ _ _ _ => true
  | .memSpecRd _ _ _ => true
  | .memWr _ _ _ _ _ _ _ => true
  | .memWrPtl _ _ _ _ _ _ _ _ => true
  | .biRsp _ _ _ _ => true
  | .biConflict _ _ _ => true
  | .stallBudgetExpired _ _ => true
  | .recallWaitExpired _ => true
  | .lockWaitExpired _ => true
  | .pageMoveStart => true
  | .referenceBitSweep => true
  | .flashReadComplete _ _ => true
  | .stripeCloseTimeout => true
  | .stripeProgramComplete _ => true
  | .moverMovesDone _ => true
  | .frameZeroFillDone _ _ => true
  | .cowCopyComplete _ => true
  | .garbageCollection _ => true
  | .pieceDecode _ => true
  | .pieceEncode _ => true
  | .completionPost _ _ => true
  | .backgroundCommandComplete _ _ => true
  | .workRingDoorbell _ _ => true
  | .eventRingHeadWrite _ _ => true
  | .ringEnable _ _ => true
  | .ringDisable _ _ => true
  | .ringDrainComplete _ => true
  | .eventRingInterruptTimer _ => true
  | .decoderCommitWrite _ _ => true
  | .intEnableWrite _ _ _ => true
  | .registerWrite _ _ _ _ => true
  | .msixUnmask _ _ => true
  | .cue _ _ => true
  | .promote _ _ => true
  | .evict _ _ => true
  | .flush _ _ => true
  | .codecIn _ _ => true
  | .codecOut _ _ => true
  | .codecExchange _ _ => true
  | .nmFill _ _ => true
  | .nmCopy _ _ => true
  | .nmCompare _ _ => true
  | .nmReduce _ _ => true
  | .nmAtomic _ _ => true
  | .swapIn _ _ => true
  | .swapOut _ _ => true
  | .nop _ _ => true
  | .steward _ _ => true
  | .upstreamCompletion _ _ _ _ _ => true
  | .upstreamCompletionTimeout _ _ => true
  | .poisonedTlpToBar _ => true
  | .mciIdentify _ _ => true
  | .ctxSelect _ _ => true
  | .patLoad _ _ => true
  | .patUnload _ _ => true
  | .patBind _ _ => true
  | .patUnbind _ _ => true
  | .objCreate _ _ => true
  | .objDelete _ _ => true
  | .objSetClass _ _ => true
  | .objQuery _ _ => true
  | .winCreate _ _ => true
  | .winDelete _ _ => true
  | .verInit _ _ => true
  | .verDraft _ _ => true
  | .verPublish _ _ => true
  | .verRebase _ _ => true
  | .verDiscard _ _ => true
  | .verOpen _ _ => true
  | .verClose _ _ => true
  | .verQuery _ _ => true
  | .leaseRenew _ _ => true
  | .leaseSet _ _ => true
  | .leaseExpiry _ => true
  | .codecOpen _ _ => true
  | .codecClose _ _ => true
  | .dramOrderSet _ _ => true
  | .dramSpare _ _ => true
  | .cartQuery _ _ => true
  | .cartRetire _ _ => true
  | .ledgerSet _ _ => true
  | .ledgerQuery _ _ => true
  | .modeSet _ _ => true
  | .modeQuery _ _ => true
  | .srcidSet _ _ => true
  | .portRoleSet _ _ => true
  | .swapGrant _ _ => true
  | .regRead _ _ => true
  | .regWrite _ _ => true
  | .keySet _ _ => true
  | .keyClear _ _ => true
  | .ctxUnpick _ _ => true
  | .quarantineRelease _ _ => true
  | .resetRequest _ _ => true
  | .identifyMemoryDevice _ _ _ => true
  | .getSupportedLogs _ _ _ => true
  | .getLog _ _ _ => true
  | .getEventRecords _ _ _ => true
  | .clearEventRecords _ _ _ => true
  | .getEventInterruptPolicy _ _ _ => true
  | .setEventInterruptPolicy _ _ _ => true
  | .getTimestamp _ _ _ => true
  | .setTimestamp _ _ _ => true
  | .getDcConfiguration _ _ _ => true
  | .getDcExtentList _ _ _ => true
  | .addDcResponse _ _ _ _ _ => true
  | .releaseDc _ _ _ _ => true
  | .fmDcAdd _ _ _ _ _ _ => true
  | .fmDcWithdraw _ _ _ _ => true
  | .fmDcForceRelease _ _ _ _ => true
  | .dcOfferTimeout _ _ => true
  | .grantReleaseComplete _ _ => true
  | .transferFw _ _ _ _ _ => true
  | .activateFw _ _ _ => true
  | .fwStoreWriteDone => true
  | .kekSet _ => true
  | .kekClear _ => true
  | .getVersion _ => true
  | .getCapabilities _ => true
  | .negotiateAlgorithms _ => true
  | .getDigests _ => true
  | .getCertificate _ => true
  | .challenge _ => true
  | .getMeasurements _ => true
  | .keyExchange _ => true
  | .finish _ => true
  | .heartbeat _ => true
  | .keyUpdate _ => true
  | .endSession _ => true
  | .chunkSend _ => true
  | .chunkGet _ => true
  | .spdmSignatureDone => true
  | .ideKmQuery _ => true
  | .ideKmKeyProg _ => true
  | .ideKmKSetGo _ => true
  | .ideKmKSetStop _ => true
  | .cxlQuery _ => true
  | .cxlKeyProg _ => true
  | .cxlKSetGo _ => true
  | .cxlKSetStop _ => true
  | .cxlGetkey _ => true
  | .linkUp _ _ _ _ _ _ _ => true
  | .linkDown _ => true
  | .linkRecoveryEntry _ _ => true
  | .busMasterEnableClear _ => true
  | .vfFunctionLevelReset _ => true
  | .vfEnableClear _ _ => true
  | .pfFunctionLevelReset _ => true
  | .perstAssert _ => true
  | .perstRelease _ => true
  | .stackSensorRead _ _ => true
  | .thermalSensorRead _ _ _ => true
  | .calWindowClose _ _ _ _ _ => true
  | .rankRowCopy _ _ => true
  | .scrubInterval _ _ => true
  | .directedScrub _ _ => true
  | .bucketLeak => true
  | .rowSpareCopyDone _ _ _ _ => true
  | .columnSpareWalkDone _ _ _ _ => true
  | .bayPresence _ _ => true
  | .bayPresenceLost _ => true
  | .bayLatchOpen _ => true
  | .latchPowerRemove _ => true
  | .cartVerifyComplete _ _ _ => true
  | .channelStatusTimeout _ => true
  | .codewordFailureLimit _ => true
  | .ledgerWrite _ => true
  | .eolRepeat _ => true
  | .rebuildStripe => true
  | .rebuildJournalWrite => true
  | .rebuildDone => true
  | .xwaitLimit _ => true
  | .engineStuck _ _ => true
  | .unpickStalled _ => true
  | .clusterHeartbeatMiss _ => true
  | .exchangeStuck _ => true
  | .stackHeartbeatMiss _ => true
  | .dieHeartbeatMiss _ => true
  | .hubBlockStall => true
  | .commandProgressTimeout _ _ => true
  | .stewardWatchdog => true
  | .unpickComplete _ => true
  | .resetComplete _ => true
  | .resetEscalate _ => true
  | .replayArm => true
  | .packageReset => true
  | .startupStageComplete _ _ => true
  | .domainPowerUpDone _ => true
  | .inputReading _ _ _ _ => true
  | .inputPowerFault => true
  | .mrefLoss => true
  | .mrefStable => true
  | .pwrEnRise => true
  | .pwrEnFall => true
  | .modRstFall => true
  | .modRstRise => true
  | .sidebandAlertRepeat _ => true
  | .vfEnableSet _ _ => true
  | .busMasterEnableSet _ => true
  | .ptmEnableWrite _ _ => true
  | .linkRetrainComplete _ _ => true
  | .functionResetComplete _ => true
  | .endpointIdAssignment _ _ => true

end Sys2Proof
end

