-- ==== Sys2Proof/Safety.lean ====
section
/-! DEFINITION. The words that claims about the block are made in: its invariant, when a core takes an instruction,
what only one part of the state becomes, and how a command reaches the steward. -/

namespace Sys2Proof

/-- The core that an S-field command is for. -/
def Instr.sCore : Instr → Option CoreId
  | .fpAdd k _ | .fpSubtract k _ | .fpMultiply k _ | .fpFusedMultiplyAdd k _ | .fpDivide k _ | .fpSquareRoot k _
  | .fpReciprocal k _ | .fpReciprocalSquareRoot k _ | .fpMinimum k _ | .fpMaximum k _ | .fpAbsoluteValue k _
  | .fpNegate k _ | .fpCopySign k _ | .compareEqual k _ _ | .compareLessThan k _ _ | .compareLessOrEqual k _ _
  | .compareUnordered k _ _ | .intAdd k _ _ | .intSubtract k _ _ | .intMultiplyLow k _ _ | .intMultiplyHigh k _ _
  | .intMinimum k _ _ | .intMaximum k _ _ | .bitwiseAnd k _ | .bitwiseOr k _ | .bitwiseExclusiveOr k _
  | .bitwiseNot k _ | .shiftLeft k _ | .shiftRightLogical k _ | .shiftRightArithmetic k _ | .rotateLeft k _
  | .populationCount k _ | .select k _ | .convertFromFp32 k _ | .convertToFp32 k _ | .mxQuantise k _
  | .reduceSum k _ _ | .reduceMinimum k _ _ | .reduceMaximum k _ _ | .accumulatorRead k _ | .accumulatorWrite k _
  | .atomicIntegerAdd k _ _ | .atomicSignedMinimum k _ _ | .atomicSignedMaximum k _ _ | .atomicUnsignedMinimum k _ _
  | .atomicUnsignedMaximum k _ _ | .atomicAnd k _ _ | .atomicOr k _ _ | .atomicExclusiveOr k _ _
  | .atomicExchange k _ _ | .atomicCompareExchange k _ _ | .atomicFp32Add k _ | .atomicFp32Minimum k _
  | .atomicFp32Maximum k _ | .sld k _ _ | .sst k _ _ | .sldx k _ | .sstx k _ => some k
  | _ => none

/-- The core that a T-field or X-field command is for. -/
def Instr.txCore : Instr → Option CoreId
  | .tnop k | .mac k _ _ _ _ _ _ | .xnop k | .step k | .endPattern k | .lcnt k _ _ | .loop k _ _ | .waitf k _ _ | .acw k _
  | .tsd k _ _ | .xsend k _ | .xred k _ | .xwait k _ | .xclr k => some k
  | _ => none

end Sys2Proof

namespace Sys2Proof.Machine

/-- The invariant of the block: the DRAM's bytes are in canonical form. -/
def State.Inv (s : State) : Prop := Memory.wf s.dram = true

/-- The cores other than core `k`, which becomes `c`, are as they were; but where the run of `c` has just turned out to
break a rule that the loader cannot check, the other cores of the run are undefined with it (R117, R488). -/
def otherCores (s t : State) (k : CoreId) (c : CoreState) : Prop :=
  ∀ j, j ≠ k.val → t.core j = if c.undef && !(s.core k.val).undef then shareUndef c.run (s.core j) else s.core j

/-- An instruction of core `k` leaves the core as `c`, and everything else as it was. -/
def coreBecomes (s t : State) (k : CoreId) (c : CoreState) : Prop :=
  t.core k.val = c ∧ otherCores s t k c ∧ t = { s with cores := t.cores }

/-- The sequencer of core `k` issues the S instruction (R103), and its S-engine has passed the issue interval of the instruction
before (R89). -/
def sTakes (s : State) (k : CoreId) (i : Instr) : Prop :=
  mayIssue s k i = true ∧ (s.core k.val).sBusy ≤ (s.core k.val).cyc

/-- Core `k` becomes `c`, but that the messages which it has read in whole leave it, each under the next number of the exchange
(R127, R131, R133); everything else is as it was. -/
def coreSends (s t : State) (k : CoreId) (c : CoreState) : Prop :=
  t.core k.val = { c with sent := [] } ∧ otherCores s t k c ∧
  t = { s with cores := t.cores, msgs := t.msgs, nextMsg := s.nextMsg + c.sent.length } ∧
  ∀ n, mget? t.msgs n = if s.nextMsg ≤ n ∧ n < s.nextMsg + c.sent.length then c.sent[n - s.nextMsg]? else mget? s.msgs n

/-- The flags that a list of results sets. -/
def orAll (fl : List Nat) : BitVec 9 := fl.foldl (fun w f => w ||| BitVec.ofNat 9 f) 0

/-- The result of one lane: its cell, poisoned by a poisoned source, and the flags it sets (R100). -/
def laneResult (c : CoreState) (srcs : List (BitVec 5)) (g : List Nat → Nat × Nat) (l : Nat) : Cell32 × Nat :=
  let xs := srcs.map (fun r => lane c r.toNat l)
  let r := g (xs.map (fun x => x.val.toNat))
  let p := xs.any (·.poison)
  (⟨BitVec.ofNat 32 r.1, p⟩, orF r.2 (poisonFlag p))

/-- The core after an S instruction with the results of lanes: they stand in its vector register after the latency,
the flags are set at once, the S-engine is taken for the issue interval (R89), and the X field is next (R103). -/
def lanesIssued (c : CoreState) (f : SField) (lat interval : Nat) (ls : List Nat) (g : Nat → Cell32 × Nat) : CoreState :=
  { c with
    sBusy := c.cyc + interval
    turn := .x
    flags := c.flags ||| orAll (ls.map (fun l => (g l).2))
    pend := c.pend ++ ls.map (fun l => ⟨c.cyc + lat, .lane f.dest.toNat l (g l).1⟩) }

/-- What core `k` sends to core `d` in run `r` of cue `q`: a message, or a contribution to a reduction (R127, R133). -/
def messageOf (s : State) (k : CoreId) (d r : Nat) (q : Cue) (addr : Nat) (bytes : List Byte) (marks : List Bool)
    (red : Option (Nat × Nat × Nat)) : XMsg :=
  { from_ := k, dest := Fin.ofNat 2560 d, ctx := q.ctx, tag := q.tag, epoch := (s.core k.val).epoch, addr := addr,
    bytes := bytes, marks := marks, red := red, run := r, gen := q.gen }

/-- An MCI command reaches the steward's handlers: the steward hears its path, its input has a known opcode, the right
length and no reserved encoding, a work-ring entry with it has been handed over, and a background command finds its
mailbox free (R383 to R386, R397). The state it then acts on, with the bookkeeping of its path, and its tag. -/
def reachesSteward (s : State) (via : Path) (op : Nat) (input : List Byte) : Option (State × Word) :=
  if stewardHears s via = false ∨ returnCode op input ≠ 0 then none
  else match via with
  | .ring c => (handed s c op input).map (fun f => (beginFlight s c f.tag, f.tag))
  | .sideband _ => some (s, 0)
  | .mailbox p b =>
    if backgroundOps.contains op then
      if (mbox s p b).bg.isSome then none
      else some ((s.modMbox p b (fun m => { m with bg := some { opcode := BitVec.ofNat 16 op } })).reply via 1 [], 0)
    else some (s, 0)

/-- The command is not turned away by its authority or a common status (R379, R403): `a` is the state its handler sees
and `m` the call. -/
def Accepted (s : State) (via : Path) (op : Nat) (input : List Byte) (a : State) (m : MciCall) : Prop :=
  reachesSteward s via op input = some (a, m.tag) ∧
  m = { via := via, tag := m.tag, ctx := pathCtx a via, owner := viaOwner a via, input := input } ∧
  ∀ row, mciRow op = some row → commonStatus a op row via = 0

/-- What a handler's answer comes to on the command's path. -/
def finish (m : MciCall) (op : Nat) (r : State × Answer) : State :=
  match r.2 with
  | .done st out => answer r.1 m.via m.tag op st out
  | .waits => r.1

/-- What reporting an event can touch: interrupt status bits, logs, event rings with the lines that they write (and with the cells
of those lines), and what the module sends (R334, R353, R393). Everything else is as it was. -/
def Reported (s t : State) : Prop :=
  t = { s with out := t.out, regs := t.regs, ports := t.ports, ctxs := t.ctxs, dram := t.dram, poison := t.poison, hint := t.hint, badCode := t.badCode, cellErr := t.cellErr, steer := t.steer, chans := t.chans }

end Sys2Proof.Machine
end

