-- ==== Sys2Proof/Certificates/Slice0/Obligations.lean ====
section
/-! DEFINITION. What is claimed of the block, for the provers. -/

section
open Sys2Proof Sys2Proof.Machine

/-- FP add, subtract, multiply and fused multiply-add (latency 4, interval 1), divide, square root, reciprocal and
reciprocal square root (latency 18, interval 8): an S-engine that takes one sets, in every active lane, the result of
the operation under the core's ACW after the latency, with the poison of its sources, and the flags at once; every
other core and everything outside the cores is unchanged (R89, R90, R100). -/
def Obligations.FpArithmeticResults : Prop :=
  ∀ (s : State) (k : CoreId) (f : SField),
    ∀ r ∈ ([
      (.fpAdd k f, 4, 1, [f.srcA, f.srcB], fun m z xs => fpAdd32 m z (xs.getD 0 0) (xs.getD 1 0)),
      (.fpSubtract k f, 4, 1, [f.srcA, f.srcB], fun m z xs => fpSub32 m z (xs.getD 0 0) (xs.getD 1 0)),
      (.fpMultiply k f, 4, 1, [f.srcA, f.srcB], fun m z xs => fpMul32 m z (xs.getD 0 0) (xs.getD 1 0)),
      (.fpFusedMultiplyAdd k f, 4, 1, [f.srcA, f.srcB, f.srcC],
        fun m z xs => fpFma32 m z (xs.getD 0 0) (xs.getD 1 0) (xs.getD 2 0)),
      (.fpDivide k f, 18, 8, [f.srcA, f.srcB], fun m z xs => fpDiv32 m z (xs.getD 0 0) (xs.getD 1 0)),
      (.fpSquareRoot k f, 18, 8, [f.srcA], fun m z xs => fpSqrt32 m z (xs.getD 0 0)),
      (.fpReciprocal k f, 18, 8, [f.srcA], fun m z xs => fpRecip32 m z (xs.getD 0 0)),
      (.fpReciprocalSquareRoot k f, 18, 8, [f.srcA], fun m z xs => fpRsqrt32 m z (xs.getD 0 0))] :
        List (Instr × Nat × Nat × List (BitVec 5) × (Rnd → Bool → List Nat → Nat × Nat))),
    sTakes s k r.1 → ∃ t, exec r.1 s = .next t ∧ coreBecomes s t k
      (lanesIssued (s.core k.val) f r.2.1 r.2.2.1 (activeLanes (s.core k.val) f)
        (laneResult (s.core k.val) r.2.2.2.1 (r.2.2.2.2 (acwRnd (s.core k.val).acw) (acwFtz (s.core k.val).acw))))

/-- FP minimum, maximum, absolute value, negate and copy sign set no flag of their own, have latency 2 and interval 1,
and give the operation's result in every active lane; minimum and maximum return the operand that is not NaN when
exactly one is, and the canonical NaN when both are, and order −0 below +0; absolute value and negate clear and turn
the sign, copy sign takes that of the second source, and each gives the canonical NaN for a NaN (R89 to R91).
A compare writes, after 2 cycles, the bits of the destination mask that its own mask enables, each the outcome of
its lane; a compare with a NaN operand gives false for equal, less than and less or equal, and true for unordered; it
sets no flag but POISON (R91, R100, R108). -/
def Obligations.SelectionAndCompareResults : Prop :=
  ((∀ (s : State) (k : CoreId) (f : SField),
    ∀ r ∈ ([
      (.fpMinimum k f, [f.srcA, f.srcB], fun xs => fpMin32 (xs.getD 0 0) (xs.getD 1 0)),
      (.fpMaximum k f, [f.srcA, f.srcB], fun xs => fpMax32 (xs.getD 0 0) (xs.getD 1 0)),
      (.fpAbsoluteValue k f, [f.srcA], fun xs => fpAbs32 (xs.getD 0 0)),
      (.fpNegate k f, [f.srcA], fun xs => fpNeg32 (xs.getD 0 0)),
      (.fpCopySign k f, [f.srcA, f.srcB], fun xs => fpCopySign32 (xs.getD 0 0) (xs.getD 1 0))] :
        List (Instr × List (BitVec 5) × (List Nat → Nat))),
    sTakes s k r.1 → ∃ t, exec r.1 s = .next t ∧ coreBecomes s t k
      (lanesIssued (s.core k.val) f 2 1 (activeLanes (s.core k.val) f)
        (laneResult (s.core k.val) r.2.1 (fun xs => (r.2.2 xs, 0))))) ∧
  (∀ x y : Nat, isNan32 x = true → isNan32 y = false → fpMin32 x y = y ∧ fpMin32 y x = y ∧ fpMax32 x y = y ∧ fpMax32 y x = y) ∧
  (∀ x y : Nat, isNan32 x = true → isNan32 y = true → fpMin32 x y = nan32 ∧ fpMax32 x y = nan32) ∧
  fpMin32 0x80000000 0 = 0x80000000 ∧ fpMin32 0 0x80000000 = 0x80000000 ∧ fpMax32 0x80000000 0 = 0 ∧ fpMax32 0 0x80000000 = 0 ∧
  (∀ x : Nat, isNan32 x = true → ∀ y, fpAbs32 x = nan32 ∧ fpNeg32 x = nan32 ∧ fpCopySign32 x y = nan32)) ∧
  ((∀ (s : State) (k : CoreId) (f : SField) (ty : LaneType), ty ≠ .w64 →
    ∀ r ∈ ([(.compareEqual k ty f, 0), (.compareLessThan k ty f, 1), (.compareLessOrEqual k ty f, 2),
        (.compareUnordered k ty f, 3)] : List (Instr × Nat)),
    sTakes s k r.1 → ∃ t v, exec r.1 s = .next t ∧ coreBecomes s t k
        { s.core k.val with
          sBusy := (s.core k.val).cyc + 1
          turn := .x
          flags := (s.core k.val).flags ||| BitVec.ofNat 9 (poisonFlag ((activeLanes (s.core k.val) f).any (fun l =>
            (lane (s.core k.val) f.srcA.toNat l).poison || (lane (s.core k.val) f.srcB.toNat l).poison)))
          pend := (s.core k.val).pend ++ [⟨(s.core k.val).cyc + 2,
            .mask (f.dest.toNat % 4) (BitVec.ofNat 32 (laneMask (s.core k.val) f.mask.toNat)) v⟩] } ∧
      ∀ l < 32, v.getLsbD l = ((activeLanes (s.core k.val) f).contains l &&
        cmpOp ty r.2 (lane (s.core k.val) f.srcA.toNat l).val.toNat (lane (s.core k.val) f.srcB.toNat l).val.toNat)) ∧
  (∀ x y : Nat, (isNan32 x || isNan32 y) = true →
    cmpOp .fp32 0 x y = false ∧ cmpOp .fp32 1 x y = false ∧ cmpOp .fp32 2 x y = false ∧ cmpOp .fp32 3 x y = true) ∧
  (∀ x y : Nat, isNan32 x = false → isNan32 y = false → cmpOp .fp32 3 x y = false))

/-- The integer operations of INT32 and UINT32: add and subtract set INT_OVF when the exact result leaves the range of
the type and saturate at the limit passed when ISAT is 1, wrapping otherwise; multiply low and high give the low and
high 32 bits of the exact product; minimum and maximum order by the type. Multiplies have latency 4, the others 2
(R89, R92).
The bitwise operations: and, or, exclusive or, not, the shifts and the rotate, whose counts are taken modulo 32 and
which turns the bits left, and the population count; latency 2, interval 1, no flag of their own (R89, R92). -/
def Obligations.IntegerResults : Prop :=
  (∀ (s : State) (k : CoreId) (f : SField) (ty : LaneType), ty = .int32 ∨ ty = .uint32 →
    let sg := decide (ty = .int32)
    let n := fun (x : Nat) => if sg then sgn32 x else (x : Int)
    let lo : Int := if sg then -0x80000000 else 0
    let hi : Int := if sg then 0x7FFFFFFF else 0xFFFFFFFF
    let isat := acwIsat (s.core k.val).acw
    let range := fun (v : Int) =>
      if v < lo then (if isat then wrapN 32 lo else wrapN 32 v, fIntOvf)
      else if hi < v then (if isat then wrapN 32 hi else wrapN 32 v, fIntOvf) else (wrapN 32 v, 0)
    ∀ r ∈ ([
      (.intAdd k ty f, 2, fun x y => range (n x + n y)),
      (.intSubtract k ty f, 2, fun x y => range (n x - n y)),
      (.intMultiplyLow k ty f, 4, fun x y => (wrapN 32 (n x * n y), 0)),
      (.intMultiplyHigh k ty f, 4, fun x y => (wrapN 32 (n x * n y / 0x100000000), 0)),
      (.intMinimum k ty f, 2, fun x y => (if n y < n x then y else x, 0)),
      (.intMaximum k ty f, 2, fun x y => (if n x < n y then y else x, 0))] :
        List (Instr × Nat × (Nat → Nat → Nat × Nat))),
    sTakes s k r.1 → ∃ t, exec r.1 s = .next t ∧ coreBecomes s t k
      (lanesIssued (s.core k.val) f r.2.1 1 (activeLanes (s.core k.val) f)
        (laneResult (s.core k.val) [f.srcA, f.srcB] (fun xs => r.2.2 (xs.getD 0 0) (xs.getD 1 0))))) ∧
  (∀ (s : State) (k : CoreId) (f : SField),
    ∀ r ∈ ([
      (.bitwiseAnd k f, true, fun x y => x &&& y),
      (.bitwiseOr k f, true, fun x y => x ||| y),
      (.bitwiseExclusiveOr k f, true, fun x y => x ^^^ y),
      (.bitwiseNot k f, false, fun x _ => ~~~ x),
      (.shiftLeft k f, true, fun x y => x <<< (y.toNat % 32)),
      (.shiftRightLogical k f, true, fun x y => x >>> (y.toNat % 32)),
      (.shiftRightArithmetic k f, true, fun x y => x.sshiftRight (y.toNat % 32)),
      (.rotateLeft k f, true, fun x y => x.rotateLeft (y.toNat % 32)),
      (.populationCount k f, false, fun x _ => BitVec.ofNat 32 (((List.range 32).filter (fun i => x.getLsbD i)).length))] :
        List (Instr × Bool × (Word → Word → Word))),
    sTakes s k r.1 → ∃ t, exec r.1 s = .next t ∧ coreBecomes s t k
      (lanesIssued (s.core k.val) f 2 1 (activeLanes (s.core k.val) f)
        (fun l => let x := lane (s.core k.val) f.srcA.toNat l
                  let y := if r.2.1 then lane (s.core k.val) f.srcB.toNat l else {}
                  (⟨r.2.2 x.val y.val, x.poison || y.poison⟩, poisonFlag (x.poison || y.poison)))))

/-- Select takes, lane by lane, the first or second source by the choosing mask, with its poison, after one cycle. A
conversion from or to FP32 gives in each active lane the converted value after 4 cycles and, under stochastic
rounding, counts one; an MX quantise writes, after 8 cycles, the words of the block that its mask enables (R89, R95, R97, R99, R108, R109). -/
def Obligations.SelectConvertQuantise : Prop :=
  ∀ (s : State) (k : CoreId) (f : SField),
    let c := s.core k.val
    let sr := fun (x : CoreState) => if acwCvt c.acw = 4 then { x with srCount := c.srCount + 1 } else x
    (f.srcC.toNat < 4 → sTakes s k (.select k f) → ∃ t, exec (.select k f) s = .next t ∧ coreBecomes s t k
      (lanesIssued c f 1 1 (activeLanes c f) (fun l =>
        let x := if bit (laneMask c f.srcC.toNat) l then lane c f.srcA.toNat l else lane c f.srcB.toNat l
        (x, poisonFlag x.poison)))) ∧
    (∀ r ∈ ([(.convertFromFp32 k f, formatFrom f.srcC, cvtFrom), (.convertToFp32 k f, formatTo f.srcC, cvtTo)] :
        List (Instr × Bool × (BitVec 19 → Nat → Nat → Nat → Option (Nat × Nat)))), r.2.1 = true →
      sTakes s k r.1 → ∃ t, exec r.1 s = .next t ∧ coreBecomes s t k (sr
        (lanesIssued c f 4 1 (activeLanes c f) (fun l =>
          laneResult c [f.srcA] (fun xs => (r.2.2 c.acw f.srcC.toNat (xs.getD 0 0) (laneRandom s c l)).getD (0, 0)) l)))) ∧
    (∀ fmt, mxFmt f.srcC.toNat = some fmt →
      let xs := (List.range 32).map (fun l => ((lane c f.srcA.toNat l).val.toNat, (activeLanes c f).contains l))
      let q := mxQuantise fmt.1 fmt.2 (fun l => cvtRnd c.acw (laneRandom s c l)) xs
      let p := (activeLanes c f).any (fun l => (lane c f.srcA.toNat l).poison)
      let blk := (List.range 32).foldl (fun v i => v + q.2.1.getD i 0 * 2 ^ (fmt.1.width * i)) 0
      sTakes s k (.mxQuantise k f) → ∃ t, exec (.mxQuantise k f) s = .next t ∧ coreBecomes s t k (sr
        { c with
          sBusy := c.cyc + 2
          turn := .x
          flags := c.flags ||| BitVec.ofNat 9 (orF q.2.2 (poisonFlag p))
          pend := c.pend ++ (activeLanes c f).map (fun l => ⟨c.cyc + 8, .lane f.dest.toNat l
            ⟨BitVec.ofNat 32 (bits blk (32 * l) 32 + (if l = 31 then q.1 else 0)), p⟩⟩) }))

/-- A lane reduction of FP32 or INT32 puts into lane 0 of its destination, after 12 cycles, the value of the fixed
tree over the active lanes, poisoned if any of them is, where its mask enables lane 0, and takes the S-engine for 2 cycles.
Accumulator read takes lanes 0 to 7 from the accumulator entries of DPUs 0 to 7 after 2 cycles; accumulator write puts those
lanes into the entries, for MACs that issue from the next cycle on and for S reads 2 cycles later, unless an update of the
entry by the T-engine reaches it in the same cycle (R88, R89, R93, R108, R109). -/
def Obligations.ReductionsAndAccumulators : Prop :=
  ∀ (s : State) (k : CoreId) (f : SField),
    let c := s.core k.val
    (∀ ty : LaneType, ty = .fp32 ∨ ty = .int32 →
      ∀ r ∈ ([(.reduceSum k ty f, 0), (.reduceMinimum k ty f, 1), (.reduceMaximum k ty f, 2)] : List (Instr × Nat)),
      let enter := fun l => if (activeLanes c f).contains l then
          (if ty = .fp32 then ftzIn (acwFtz c.acw) (lane c f.srcA.toNat l).val.toNat else (lane c f.srcA.toNat l).val.toNat, 0)
        else (reduceFill ty r.2, 0)
      let g := reduceStep c.acw ty r.2
      let v1 := fun i => g (enter (2 * i)) (enter (2 * i + 1))
      let v2 := fun i => g (v1 (2 * i)) (v1 (2 * i + 1))
      let v3 := fun i => g (v2 (2 * i)) (v2 (2 * i + 1))
      let v4 := fun i => g (v3 (2 * i)) (v3 (2 * i + 1))
      let v := g (v4 0) (v4 1)
      let p := (activeLanes c f).any (fun l => (lane c f.srcA.toNat l).poison)
      sTakes s k r.1 → ∃ t, exec r.1 s = .next t ∧ coreBecomes s t k
        { c with
          sBusy := c.cyc + 2
          turn := .x
          flags := c.flags ||| BitVec.ofNat 9 (orF v.2 (poisonFlag p))
          pend := c.pend ++ (if (activeLanes c f).contains 0 then [⟨c.cyc + 12, .lane f.dest.toNat 0 ⟨BitVec.ofNat 32 v.1, p⟩⟩]
            else []) }) ∧
    (sTakes s k (.accumulatorRead k f) → ∃ t, exec (.accumulatorRead k f) s = .next t ∧ coreBecomes s t k
      (lanesIssued c f 2 1 ((activeLanes c f).filter (fun l => decide (l < 8))) (fun l =>
        let x := accCell c (l * 128 + f.imm.toNat % 128)
        (x, poisonFlag x.poison)))) ∧
    (sTakes s k (.accumulatorWrite k f) → ∃ t, exec (.accumulatorWrite k f) s = .next t ∧ coreBecomes s t k
      { c with
        sBusy := c.cyc + 1
        turn := .x
        flags := c.flags ||| orAll (((activeLanes c f).filter (fun l => decide (l < 8))).map (fun l =>
          poisonFlag (lane c f.srcA.toNat l).poison))
        pend := c.pend ++ ((activeLanes c f).filter (fun l =>
            decide (l < 8) && !accNow c (l * 128 + f.imm.toNat % 128))).flatMap (fun l =>
          [⟨c.cyc + 1, .accIn (l * 128 + f.imm.toNat % 128) (lane c f.srcA.toNat l)⟩,
           ⟨c.cyc + 2, .accSet (l * 128 + f.imm.toNat % 128) (lane c f.srcA.toNat l)⟩]) })

/-- An atomic of a pattern acts on the bobbin words that its active lanes (for 64 bits, its active even lanes, each
with the lane after it) name, one after another in ascending order, each on what the lane before it left, and takes the
S-engine for 32 cycles (R89, R94, R109, R112).
What one lane of an atomic does, for unpoisoned operands and an unmarked granule: the 32-bit or 64-bit word at the
aligned address becomes the operation's result, every byte of the bobbin outside the word is unchanged, and the old
word reaches the destination lane (for 64 bits, the pair) 36 cycles after the instruction (R94, R109, R112). -/
def Obligations.AtomicInstructions : Prop :=
  (∀ (s : State) (k : CoreId) (f : SField) (ty : LaneType),
    let c := s.core k.val
    ∀ r ∈ ([(.atomicIntegerAdd k ty f, 0, ty), (.atomicSignedMinimum k ty f, 1, ty), (.atomicSignedMaximum k ty f, 2, ty),
        (.atomicUnsignedMinimum k ty f, 3, ty), (.atomicUnsignedMaximum k ty f, 4, ty), (.atomicAnd k ty f, 5, ty),
        (.atomicOr k ty f, 6, ty), (.atomicExclusiveOr k ty f, 7, ty), (.atomicExchange k ty f, 8, ty),
        (.atomicCompareExchange k ty f, 9, ty), (.atomicFp32Add k f, 10, .fp32), (.atomicFp32Minimum k f, 11, .fp32),
        (.atomicFp32Maximum k f, 12, .fp32)] : List (Instr × Nat × LaneType)),
    sTakes s k r.1 → ∃ t, exec r.1 s = .next t ∧ coreBecomes s t k
      { ((activeLanes c f).filter (fun l => r.2.2 != .w64 || l % 2 == 0)).foldl (fun x l => atomicLane f r.2.2 r.2.1 c x l) c
        with sBusy := c.cyc + 32, turn := .x }) ∧
  (∀ (c x : CoreState) (f : SField) (ty : LaneType) (op l : Nat),
    let n := if ty = .w64 then 8 else 4
    let a := (lane c f.srcA.toNat l).val.toNat % bobSize / n * n
    let word := fun (q : BitVec 5) => (lane c q.toNat l).val.toNat +
      (if n = 8 then (lane c q.toNat (l + 1)).val.toNat * 0x100000000 else 0)
    let old := leNat ((List.range n).map (fun i => cget x.bob (a + i)))
    c.undef = false → x.undef = false → Memory.wf x.bob = true → bobMarked x a = false →
    (∀ q ∈ [f.srcA, f.srcB, f.srcC], ∀ i < n / 4, (lane c q.toNat (l + i)).poison = false) →
    (∀ i < n, cget (atomicLane f ty op c x l).bob (a + i) =
      BitVec.ofNat 8 ((atomicOp op (8 * n) old (word f.srcB) (word f.srcC)).1 / 256 ^ i)) ∧
    (∀ b, b < a ∨ a + n ≤ b → cget (atomicLane f ty op c x l).bob b = cget x.bob b) ∧
    (atomicLane f ty op c x l).pend = x.pend ++ (List.range (n / 4)).map (fun i =>
      ⟨c.cyc + 36, .lane f.dest.toNat (l + i) ⟨BitVec.ofNat 32 (old / 0x100000000 ^ i), false⟩⟩))

/-- SLD loads the active lanes' words of a 128-byte line of the bobbin after 3 cycles, with the poison of their
granules; SST stores the active lanes' words after 2 cycles and changes no register; SLDX and SSTX reach the word that
each lane's own index gives, two lanes in a cycle; each has interval 1. An SLDX that reaches a byte while a fill may
write it leaves what the cores of its run hold undefined (R110, R112, R117, R118). -/
def Obligations.BobbinLoadsAndStores : Prop :=
  ∀ (s : State) (k : CoreId) (f : SField) (mode : AddrMode),
    let c := s.core k.val
    let ls := activeLanes c f
    (sTakes s k (.sld k mode f) → ∃ t, exec (.sld k mode f) s = .next t ∧ coreBecomes s t k
      (lanesIssued (lineTouch c mode f false) f 3 1 ls (fun l =>
        let r := bobRead c (lineAddr c mode f + 4 * l) 4
        (⟨BitVec.ofNat 32 (leNat r.1), r.2⟩, poisonFlag r.2)))) ∧
    (sTakes s k (.sst k mode f) → ∃ t, exec (.sst k mode f) s = .next t ∧ coreBecomes s t k
      { lineTouch c mode f true with
        sBusy := c.cyc + 1
        turn := .x
        pend := c.pend ++ (if ls.length = 32 then
            [⟨c.cyc + 2, .bob (lineAddr c mode f) ((List.range 32).flatMap (fun l => leBytes 4 (lane c f.srcB.toNat l).val.toNat))
              ((List.range 128).map (fun i => (lane c f.srcB.toNat (i / 4)).poison))⟩]
          else ls.map (fun l => ⟨c.cyc + 2, .bob (lineAddr c mode f + 4 * l) (leBytes 4 (lane c f.srcB.toNat l).val.toNat)
            (List.replicate 4 (lane c f.srcB.toNat l).poison)⟩)) }) ∧
    (sTakes s k (.sstx k f) → ∃ t, exec (.sstx k f) s = .next t ∧ coreBecomes s t k
      { wordsTouch c f true with
        sBusy := c.cyc + 1
        turn := .x
        pend := c.pend ++ ls.map (fun l => ⟨c.cyc + l / 2 + 1, .bob (wordAddr c f l) (leBytes 4 (lane c f.srcB.toNat l).val.toNat)
          (List.replicate 4 (lane c f.srcB.toNat l).poison)⟩) }) ∧
    (sTakes s k (.sldx k f) → ∃ t, exec (.sldx k f) s = .next t ∧ coreBecomes s t k
      { wordsTouch c f false with
        sBusy := c.cyc + 1
        turn := .x
        flags := c.flags ||| orAll ((ls.filter (fun l => decide (l < 2))).map (fun l =>
          poisonFlag (bobRead (wordsTouch c f false) (wordAddr c f l) 4).2))
        pend := c.pend ++ ls.map (fun l =>
          if l < 2 then ⟨c.cyc + 19, .lane f.dest.toNat l
            ⟨BitVec.ofNat 32 (leNat (bobRead (wordsTouch c f false) (wordAddr c f l) 4).1), (bobRead (wordsTouch c f false) (wordAddr c f l) 4).2⟩⟩
          else ⟨c.cyc + l / 2, .sldx f.dest.toNat l (wordAddr c f l)⟩) }) ∧
    (∀ (r l b d : Nat) (w : Fill), c.undef = false → c.run = some r → l ∈ ls → w ∈ c.fills → w.addr < bobSize →
      w.first ≤ c.cyc + l / 2 → c.cyc + l / 2 ≤ w.last → b < 4 → d < w.len →
      (wordAddr c f l + b) % bobSize = (w.addr + d) % bobSize →
      sTakes s k (.sldx k f) → ∃ t, exec (.sldx k f) s = .next t ∧ ∀ j, (s.core j).run = some r → (t.core j).undef = true)

/-- SNOP of a core whose sequencer issues it makes the X field next and changes nothing else; a SNOP that it does not issue, and
an S instruction that it does not issue or whose S-engine is still taken, change nothing: no core, and nothing outside the cores
(R15, R89, R103, R112). -/
def Obligations.SEngineTakesNothing : Prop :=
  (∀ (s : State) (k : CoreId), ∃ t, exec (.snop k) s = .next t ∧ t = { s with cores := t.cores } ∧
    ∀ j, t.core j = if j = k.val ∧ mayIssue s k (.snop k) = true then { s.core k.val with turn := .x } else s.core j) ∧
  (∀ (s : State) (i : Instr) (k : CoreId), i.sCore = some k → i.wf = true → ¬ sTakes s k i →
    ∃ t, exec i s = .next t ∧ (∀ j, t.core j = s.core j) ∧ t = { s with cores := t.cores })

/-- The T field of a core that issues it: TNOP lets the MAC that occupies the T-engine do this cycle's work; a MAC takes a
free T-engine with REPEAT + 1 steps under the core's ACW and does its first cycle's work, and leaves the MAC in an
occupied one to its work; the S field is next. A cycle in which the MAC's streams ask one bank of the bobbin for more than two
words leaves what the run's cores hold undefined; otherwise everything but that core is unchanged (R103, R105, R106, R115). -/
def Obligations.TFieldCommands : Prop :=
  ∀ (s : State) (k : CoreId),
    let c := s.core k.val
    (mayIssue s k (.tnop k) = true → ∃ t, exec (.tnop k) s = .next t ∧
      coreBecomes s t k { tStep c with st := .running, turn := .s }) ∧
    (c.tmac = none → tStep c = c) ∧
    (∀ (m : TMac) (w : Nat → Nat), c.tmac = some m → (∀ i < 3, ∃ x ∈ macReads c m
        (if acwRate m.acw = .r16 then (if m.held.isEmpty then 0 else 1) else 2), w i ∈ portWords x.1 x.2) →
      w 0 ≠ w 1 → w 0 ≠ w 2 → w 1 ≠ w 2 → w 1 % 64 = w 0 % 64 → w 2 % 64 = w 0 % 64 → (tStep c).undef = true) ∧
    ∀ start acc rep accStep advance dpuEn, mayIssue s k (.mac k start acc rep accStep advance dpuEn) = true →
      ∃ t, exec (.mac k start acc rep accStep advance dpuEn) s = .next t ∧ coreBecomes s t k
        { tStep { c with tmac := match c.tmac with
          | none => some { start := start, acc := acc, steps := rep.toNat + 1, accStep := accStep, advance := advance,
                           dpuEn := dpuEn, acw := c.acw }
          | some m => some m } with st := .running, turn := .s }

/-- One integer step of a DPU adds the exact products of the signed elements to the incoming value and gives INT_OVF
when the exact sum leaves the INT32 range, saturating at the limit passed when ISAT is 1 and wrapping modulo 2^32 when it is
0 (R85). -/
def Obligations.DpuIntegerStep : Prop :=
  ∀ (a : BitVec 19) (ops : List (List Byte)) (acc w x : Nat), efmt (acwW a) = some (.int w) → efmt (acwA a) = some (.int x) →
    let v : Int := sgn32 acc + ((List.range (stepElems a)).map (fun i =>
      sgnW w (elemAt (ops.getD 0 []) w i) * sgnW x (elemAt (ops.getD 4 []) x i))).sum
    dpuStep a ops acc =
      if v < -0x80000000 then (if acwIsat a then 0x80000000 else wrapN 32 v, fIntOvf)
      else if 0x7FFFFFFF < v then (if acwIsat a then 0x7FFFFFFF else wrapN 32 v, fIntOvf)
      else (wrapN 32 v, 0)

/-- The X field's sequencing of a core that issues it: XNOP, STEP, END, LCNT, LOOP, WAITF, ACW, TSD, XWAIT and XCLR end the
bundle with the effect of their row, and the next cycle begins with the T field of the next bundle; everything but that core,
and a message that it has then read in whole, is unchanged. A WAITF whose cycle comes no later than the next one, and an XWAIT
whose count is met, take one cycle (R103, R111, R112, R128, R132). -/
def Obligations.SequencerCommands : Prop :=
  ∀ (s : State) (k : CoreId),
    let c := s.core k.val
    let next := fun (d : CoreState) => tick { d with pc := d.pc + 1, turn := .t }
    let becomes := fun (i : Instr) (d : CoreState) => mayIssue s k i = true → ∃ t, exec i s = .next t ∧ coreSends s t k d
    becomes (.xnop k) (next c) ∧
    becomes (.step k) { next c with st := .waitStep, ended := c.ended + 1 } ∧
    becomes (.endPattern k) { coast (tick c) ((tick c).cyc + 4096) with
      st := .idle, epoch := 0, ended := c.ended + 1 } ∧
    (∀ (n : BitVec 3) (limit : BitVec 23), limit ≠ 0 →
      becomes (.lcnt k n limit) (next { c with
        limits := mput c.limits n.toNat limit.toNat, indexes := mput c.indexes n.toNat 0 })) ∧
    (∀ (n : BitVec 3) (target : BitVec 12),
      becomes (.loop k n target) (tick { c with
        indexes := mput c.indexes n.toNat (mget 0 c.indexes n.toNat + 1), turn := .t
        pc := if mget 0 c.indexes n.toNat + 1 < mget 0 c.limits n.toNat then target else c.pc + 1 })) ∧
    (∀ (cycle : BitVec 11) (frames : BitVec 8), cycle.toNat ≤ 1279 →
      let at_ := (c.cyc / 1280 + frames.toNat) * 1280 + cycle.toNat
      becomes (.waitf k cycle frames) (if at_ ≤ c.cyc + 1 then next c
        else { next c with st := .waitFrame, resume := at_ })) ∧
    (∀ value : BitVec 19, acwValid value = true → becomes (.acw k value) (next { c with acw := value })) ∧
    (∀ (stream : BitVec 3) (addr16 : BitVec 14), stream.toNat ≤ 5 →
      let r := bobRead c (addr16.toNat * 16) 16
      becomes (.tsd k stream addr16) (next { engineReads c [(addr16.toNat * 16, 16)] with
        flags := c.flags ||| BitVec.ofNat 9 (poisonFlag r.2)
        pend := c.pend ++ [⟨c.cyc + 2, .desc stream.toNat (descOf r.1)⟩] })) ∧
    (∀ count : BitVec 16, becomes (.xwait k count) (if count ≤ c.recv then next c
      else { next c with st := .xwait, xcount := count, xbounds := 0 })) ∧
    becomes (.xclr k) (next { c with recv := 0 })

/-- The three fields of a bundle are encoded as their tables give them (R104, R105, R108 to R111). WAITF_RESUME ends a wait of
WAITF: the core issues again at the cycle that it waited for. A T-field or X-field command
that the core's sequencer does not issue (the core does not run, or the bundle at its pc has another command in the field whose
turn it is) changes nothing (R15, R103, R111).
The next cycle of a core: the actions that are due then take effect and leave the list, those due later stay in
their order, and the sequencer's own state (its state, bundle, field, run, epoch, receive counter, loop counters, ACW) is
unchanged (R87, R89, R112). With one lane result due, the register holds it and every other lane is unchanged. -/
def Obligations.WaitsAndCycles : Prop :=
  (∀ (s : State) (k : CoreId),
    ((s.core k.val).st = .waitFrame → ∃ t, exec (.waitfResume k) s = .next t ∧
      coreSends s t k { coast (s.core k.val) (s.core k.val).resume with st := .running }) ∧
    (∀ i : Instr, i.txCore = some k → i.wf = true → mayIssue s k i = false → exec i s = .next s) ∧
    ((s.core k.val).st ≠ .running → (s.core k.val).st ≠ .clearing → ∀ i : Instr, mayIssue s k i = false) ∧
    (∀ (i : Instr) (code : List (BitVec 128)) (b : BitVec 128), storedCode s (s.core k.val) = some code →
      code[(s.core k.val).pc.toNat]? = some b → fieldCommand k (s.core k.val).turn b ≠ some i → mayIssue s k i = false)) ∧
  (∀ k : CoreId,
    decodeT k 0 = some (.tnop k) ∧ decodeS k 0 = some (.snop k) ∧
    decodeX k 0 = some (.xnop k) ∧ decodeX k 1 = some (.step k) ∧ decodeX k 2 = some (.endPattern k) ∧ decodeX k 11 = some (.xclr k) ∧
    (∀ start acc rep accStep advance dpuEn, decodeT k (1 + 2 ^ 4 * b2n start + 2 ^ 5 * acc.toNat + 2 ^ 12 * rep.toNat + 2 ^ 22 * b2n accStep
      + 2 ^ 23 * advance.toNat + 2 ^ 29 * dpuEn.toNat) = some (.mac k start acc rep accStep advance dpuEn)) ∧
    (∀ (f : SField) (cls op ty : Nat), 0 < cls → cls < 16 → op < 16 → ty < 4 → sTypeOk cls ty = true → sCodeOk cls op f.srcC.toNat = true →
      decodeS k (op + 2 ^ 4 * cls + 2 ^ 8 * ty + 2 ^ 10 * f.mask.toNat + 2 ^ 12 * f.dest.toNat + 2 ^ 17 * f.srcA.toNat + 2 ^ 22 * f.srcB.toNat
        + 2 ^ 27 * f.srcC.toNat + 2 ^ 32 * f.imm.toNat) = (sClass k cls (laneTypeOf ty) (addrModeOf ty) f)[op]?) ∧
    (∀ n limit, limit ≠ 0 → decodeX k (3 + 2 ^ 6 * n.toNat + 2 ^ 9 * limit.toNat) = some (.lcnt k n limit)) ∧
    (∀ n target, decodeX k (4 + 2 ^ 6 * n.toNat + 2 ^ 9 * target.toNat) = some (.loop k n target)) ∧
    (∀ cycle frames, cycle.toNat ≤ 1279 → decodeX k (5 + 2 ^ 6 * cycle.toNat + 2 ^ 17 * frames.toNat) = some (.waitf k cycle frames)) ∧
    (∀ value, decodeX k (6 + 2 ^ 6 * value.toNat) = some (.acw k value)) ∧
    (∀ stream addr16, stream.toNat ≤ 5 → decodeX k (7 + 2 ^ 6 * stream.toNat + 2 ^ 9 * addr16.toNat) = some (.tsd k stream addr16)) ∧
    (∀ ix, decodeX k (8 + 2 ^ 6 * ix.toNat) = some (.xsend k ix) ∧ decodeX k (9 + 2 ^ 6 * ix.toNat) = some (.xred k ix)) ∧
    ∀ count, decodeX k (10 + 2 ^ 6 * count.toNat) = some (.xwait k count)) ∧
  ((∀ c : CoreState, (tick c).cyc = c.cyc + 1 ∧ (tick c).st = c.st ∧ (tick c).pc = c.pc ∧ (tick c).turn = c.turn ∧
    (tick c).run = c.run ∧ (tick c).epoch = c.epoch ∧ (tick c).recv = c.recv ∧ (tick c).limits = c.limits ∧
    (tick c).indexes = c.indexes ∧ (tick c).acw = c.acw ∧ (tick c).sBusy = c.sBusy ∧ (tick c).xBusy = c.xBusy) ∧
  (∀ (c : CoreState), c.send = none → (∀ p ∈ c.pend, c.cyc + 1 < p.due) → tick c = { c with cyc := c.cyc + 1 }) ∧
  (∀ (c : CoreState) (r l : Nat) (x : Cell32) (due : Nat), c.undef = false → due ≤ c.cyc + 1 → c.pend = [⟨due, .lane r l x⟩] →
    ∀ r' l', l < 32 → l' < 32 → lane (tick c) r' l' = if r' = r ∧ l' = l then x else lane c r' l') ∧
  (∀ (c : CoreState) (v active : Word) (due : Nat), c.undef = false → due ≤ c.cyc + 1 → c.pend = [⟨due, .mask 0 active v⟩] →
    ∀ m, laneMask (tick c) m = laneMask c m))

/-- XSEND of a core that issues it, is not reading the bobbin for an exchange, and names a message of its run's exchange
table: the core begins to read the entry's beats, the first in the cycle of issue, for a message with the run's context, tag
and epoch to the core that the binding places at the entry's destination; XRED of a member of the reduction that the entry
describes begins to read its vectors, each a contribution that names the entry, the vector and the member's place (R111, R127,
R129, R131, R133).
A core that has begun to read n beats reads one in each cycle, and in the last of them the message leaves with the bytes read
and their poison; the contribution of a vector leaves after its fourth beat with the vector's bytes and poison (R118, R131). -/
def Obligations.ExchangeSends : Prop :=
  (∀ (s : State) (k : CoreId) (ix : BitVec 12) (r d : Nat) (q : Cue) (b : Binding) (p : Pattern) (e : XEntry),
    let c := s.core k.val
    let next := fun (x : CoreState) => tick { x with pc := x.pc + 1, turn := .t }
    let reads := fun (m : XMsg) (n : Nat) => next (sendBeat { c with
      send := some { msg := m, src := e.src, beats := n, done := 0 }, xBusy := c.cyc + n })
    c.run = some r → runOf s r = some (q, b, p) → p.xtable[ix.toNat]? = some e → coreOf b p e.dest = some d → c.xBusy ≤ c.cyc →
    (mayIssue s k (.xsend k ix) = true → e.reduction = false → 0 < e.len →
      ∃ t, exec (.xsend k ix) s = .next t ∧
        coreSends s t k (reads (messageOf s k d r q e.dst [] [] none) ((e.len + 31) / 32))) ∧
    (∀ place, mayIssue s k (.xred k ix) = true → e.reduction = true → 128 ≤ e.len →
      (members b p e).findIdx? (· == k.val) = some place →
      ∃ t, exec (.xred k ix) s = .next t ∧
        coreSends s t k (reads (messageOf s k d r q e.dst [] [false, false] (some (ix.toNat, 0, place))) (e.len / 128 * 4)))) ∧
  (∀ (c : CoreState) (m : XMsg) (src n : Nat), c.undef = false → 0 < n → src % 32 = 0 → (∀ p ∈ c.pend, c.cyc + n ≤ p.due) →
    let reading := fun (x : XMsg) => { c with send := some { msg := x, src := src, beats := n, done := 0 } }
    (m.red = none → m.bytes = [] → m.marks = [] →
      let d := tick^[n - 1] (sendBeat (reading m))
      d.send = none ∧
        d.sent = c.sent ++ [{ m with bytes := bobRaw c src (32 * n), marks := bobMarks c src (32 * n) }]) ∧
    (∀ ix place, n % 4 = 0 → m.red = some (ix, 0, place) → m.bytes = [] → m.marks = [false, false] →
      let d := tick^[n - 1] (sendBeat (reading m))
      d.send = none ∧ d.sent = c.sent ++ (List.range (n / 4)).map (fun v =>
        { m with addr := m.addr + 128 * v, bytes := (bobRead c (src + 128 * v) 128).1, red := some (ix, v, place)
                 marks := [(bobRead c (src + 128 * v) 128).2, (bobRead c (src + 128 * v) 128).2] })))

/-- A message that arrives leaves the exchange. With a stale epoch it is dropped: no core changes, SQ_CL_STALE of the
destination's cluster rises and the drop is counted for the frame's EV_ROLE_STALE. With the destination's epoch, a
message is written to its bobbin and its receive counter rises, which ends an XWAIT whose count is then met; a
contribution that is not the last of its vector is kept and changes no core (R127 to R129, R133, R134). -/
def Obligations.ExchangeMessageArrives : Prop :=
  ∀ (s : State) (n : Nat) (m : XMsg), mget? s.msgs n = some m →
    let c := s.core m.dest.val
    let rest := { s with msgs := mdel s.msgs n }
    (c.epoch ≠ m.epoch → ∃ t, exec (.exchangeMessageArrive n) s = .next t ∧
      t = { rest with stale := t.stale, merged := t.merged } ∧
      (∀ j, mget 0 t.stale j = if j = m.dest.val / 128 then satAdd (mget 0 s.stale j) 1 0xFFFFFFFF else mget 0 s.stale j)) ∧
    (c.epoch = m.epoch → m.red = none → ∃ t d, exec (.exchangeMessageArrive n) s = .next t ∧ coreSends rest t m.dest d ∧
      (c.st ≠ .xwait ∨ c.recv.toNat + 1 < c.xcount.toNat →
        d = { bobFill c m.addr m.bytes m.marks with recv := c.recv + 1 }) ∧
      (c.st = .xwait → c.recv.toNat < 0xFFFF → c.xcount.toNat ≤ c.recv.toNat + 1 → d.st = .running)) ∧
    (∀ (ix v place : Nat) (q : Cue) (b : Binding) (p : Pattern) (e : XEntry), c.epoch = m.epoch → m.red = some (ix, v, place) →
      runOf s m.run = some (q, b, p) → p.xtable[ix]? = some e → redSlot s.reds m.run ix v place = none →
      1 < (members b p e).length → exec (.exchangeMessageArrive n) s = .next { rest with
        reds := s.reds ++ [{ run := m.run, entry := ix, vec := v, parts := [(place, (vecWords m.bytes, m.marks.any id))] }] })

/-- The front of a CXL.mem read: a port whose link carries no CXL.mem, or without credits, takes none; before
Memory_Active, and from a context with an expired lease, a read is answered with poison; so is one whose identity maps
to no context, which is counted for EV_SOURCE_UNMAPPED, and one that no decoder or grant serves, which is counted for
EV_DECODE_MISS (R329, R338, R340, R354, R458). Nothing but what these name changes.
A read that is decoded, outside the coherent windows. MemInv and MemInvNT are answered without data. MemRd and
MemRdData: a range of no object reads as zeros and sets its status bit; a page without content reads as zeros; a
resident line is read, presented to the arbiter of its channel and answered with its bytes and poison; a line that is
not resident, or whose stack changes its timing set, makes the load wait, or, with 1,024 loads of the port waiting, is answered
at once as a tier miss (R59, R61, R65, R144, R322, R340). -/
def Obligations.HostReads : Prop :=
  (∀ (s : State) (p : Port) (src : SrcId) (hpa : DWord) (mv : MetaValue) (tag : BitVec 16),
    ∀ r ∈ ([(.memRd p src hpa mv tag, false), (.memRdData p src hpa mv tag, false), (.memInv p src hpa mv tag, true),
        (.memInvNt p src hpa mv tag, true)] : List (Instr × Bool)),
    let id := srcOf s p src
    (portTakes s p = false → exec r.1 s = .next s) ∧
    (portTakes s p = true → (s.port p).memActive = false →
      exec r.1 s = .next (sendRead s p src tag r.2 zeroLine true .i)) ∧
    (portTakes s p = true → (s.port p).memActive = true →
      (∀ cause, mapSource s p id = .error cause →
        exec r.1 s = .next (sendRead (missSource s p id cause) p src tag r.2 zeroLine true .i)) ∧
      (∀ c, mapSource s p id = .ok c → (s.ctx c).expired = true →
        exec r.1 s = .next (sendRead s p src tag r.2 zeroLine true .i)) ∧
      (∀ c cause, mapSource s p id = .ok c → (s.ctx c).expired = false →
        decodeHpa s c (hpa.toNat / 64 * 64) = .error cause →
        exec r.1 s = .next (sendRead (missDecode s c p id hpa.toNat cause) p src tag r.2 zeroLine true .i)))) ∧
  (∀ (s : State) (p : Port) (src : SrcId) (hpa : DWord) (mv : MetaValue) (tag : BitVec 16) (c : Ctx) (id : SrcId) (dev : Nat),
    front s p src hpa = .decoded c id dev → windowOf s dev = none →
    exec (.memInv p src hpa mv tag) s = .next (sendDone s p id tag .i) ∧
    exec (.memInvNt p src hpa mv tag) s = .next (sendDone s p id tag .i) ∧
    ∀ i ∈ ([.memRd p src hpa mv tag, .memRdData p src hpa mv tag] : List Instr),
      let w : Waiting := { port := p, src := src, ctx := c, tag := tag, dev := dev, why := .page, mv := .i, gen := (s.ctx c).decGen }
      let w := { w with src := id }
      (targetOf s dev = none → exec i s = .next (sendData (setInt s 2 7) p id tag zeroLine false .i)) ∧
      ∀ t, targetOf s dev = some t →
        (lineResident (pageAt s t.pid) (dev % 65536 / 64) = true → loadFrame (pageAt s t.pid) = none →
          exec i s = .next (sendData s p id tag zeroLine false .i)) ∧
        (∀ fr, lineResident (pageAt s t.pid) (dev % 65536 / 64) = true → loadFrame (pageAt s t.pid) = some fr →
          (stackWaits s (frameStack fr) = true → waitingLoads s p < 1024 →
            exec i s = .next { s with waits := s.waits ++ [{ w with why := .stack }] }) ∧
          (stackWaits s (frameStack fr) = true → 1024 ≤ waitingLoads s p → exec i s = .next (tierMiss s w t true)) ∧
          (stackWaits s (frameStack fr) = false →
            let a := accessTraffic s t.order fr (dev % 65536) false (keepOf s t.o) (.host p id) p.val false dev
            let r := readPage a (hostReader c p id) t.order t.pid dev
            exec i s = .next (sendData r.1 p id tag r.2.1 r.2.2 .i))) ∧
        (lineResident (pageAt s t.pid) (dev % 65536 / 64) = false →
          (waitingLoads s p < 1024 → exec i s = .next { s with waits := s.waits ++ [w] }) ∧
          (1024 ≤ waitingLoads s p → exec i s = .next (tierMiss s w t true))))

/-- The response to a host: on a port whose link is up the data or completion leaves with the port's DevLoad, which the
port keeps; on a link that is down it is discarded and nothing changes. DevLoad is at least 2 during a change of timing
set and 3 while guarantees are shrunk (R344, R351). -/
def Obligations.HostResponses : Prop :=
  ∀ (s : State) (p : Port) (id : SrcId) (tag : BitVec 16) (bs : List Byte) (poison : Bool) (mv : MetaValue),
    ((s.port p).up = false → sendData s p id tag bs poison mv = s ∧ sendDone s p id tag mv = s) ∧
    ((s.port p).up = true →
      (sendData s p id tag bs poison mv).out = s.out ++ [.drs p id tag (bytesLine bs) poison mv (devLoadOf s p)] ∧
      (sendDone s p id tag mv).out = s.out ++ [.ndr p id tag mv (devLoadOf s p)] ∧
      ∀ t ∈ [sendData s p id tag bs poison mv, sendDone s p id tag mv],
        t = { s with ports := t.ports, out := t.out } ∧ t.port p = { s.port p with devLoad := devLoadOf s p } ∧
        ∀ q, q ≠ p → t.port q = s.port q) ∧
    (s.shrunk = true → devLoadOf s p = 3) ∧
    (inSetChange s = true → 2 ≤ devLoadOf s p)

/-- A write of a host outside the coherent windows: turned away like a read but completed without data; to a range of
no object it is discarded and sets its status bit; to a versioned object or a handle it is discarded and sets its
status bit; otherwise the enabled bytes are stored in every frame of the page, presented to the arbiters of their channels, and
the write completes; waiting requests then try again. MemWr enables all 64 bytes. A write of recall class (the write-back of a
recall's target) is served with a reserved entry of its port, ahead of requests that wait (R144, R156, R214, R221, R223, R231,
R232, R322, R340). -/
def Obligations.HostWrites : Prop :=
  ∀ (s : State) (p : Port) (src : SrcId) (hpa : DWord) (mv : MetaValue) (tag : BitVec 16) (data : Line) (be0 : DWord) (poison : Bool),
    ∀ r ∈ ([(.memWr p src hpa mv tag data poison, BitVec.ofNat 64 fullMask), (.memWrPtl p src hpa mv tag data be0 poison, be0)] :
        List (Instr × DWord)),
    (portTakes s p = false → portTakesRecall s p = false → exec r.1 s = .next s) ∧
    (∀ t, writeFront s p src hpa = .turnedAway t → exec r.1 s = .next (sendDone t p src tag .i)) ∧
    (∀ (c : Ctx) (id : SrcId) (dev : Nat) (e : DirEntry), portTakesRecall s p = true →
      frontTaken s p src hpa = .decoded c id dev → windowOf s dev ≠ none → dirAt s dev = some e → e.st = .recalling →
      id ∈ e.targets → exec r.1 s = .next (applyReq s dev (.write (senderOf s p id c tag) mv data r.2 poison) .i true)) ∧
    ∀ (c : Ctx) (id : SrcId) (dev : Nat), writeFront s p src hpa = .decoded c id dev → windowOf s dev = none →
      (targetOf s dev = none → exec r.1 s = .next (serveWaits (sendDone (setInt s 2 7) p id tag .i))) ∧
      ∀ t, targetOf s dev = some t →
        (t.ro = true → exec r.1 s = .next (serveWaits (sendDone (setInt s 4 3) p id tag .i))) ∧
        (t.ro = false → (∀ fr ∈ (pageAt s t.pid).frames, stackWaits s (frameStack fr) = false) →
          let a := storePage s (hostReader c p id) ⟨some c, p.val, id.toNat⟩ t dev (lineBytes data) r.2.toNat poison false true
          exec r.1 s = .next (serveWaits (sendDone ((pageAt a t.storePid).frames.foldl (fun s' fr =>
            accessTraffic s' t.order fr (dev % 65536) true (keepOf s' t.o) (.host p id) p.val false dev r.2.toNat) a) p id tag .i)))

/-- A narrow or whole write of one line of a light frame, in a memory in canonical form and a line without an error:
exactly the enabled bytes of the line take the new data, every other byte of the memory reads as before, the line's
poison is the write's for a whole line and is only added to for a narrow one, and its HINT is the write's; seals are
unchanged. A write that enables no byte and carries no poison changes nothing (R267, R268, R270).
A read of a line of a granule whose four lines have no error: the light code answers with the line's bytes and
poison and changes nothing; the firm code checks the seal of the whole granule at the exit, and where the CRC-32C of
the 256 bytes is the seal, or every line is poisoned, does the same; where the seal differs, the lines leave poisoned
(R277, R278). A line's tag has POISON, CODE, HINT and STEER in bits 0 to 3 (R267). -/
def Obligations.LinesAndSeals : Prop :=
  (∀ (s : State) (r : Reader) (order fr q : Nat) (bs : List Byte) (be : Nat) (poison hint : Bool),
    Memory.wf s.dram = true → isLight s fr = true → bs.length = 64 → be ≤ fullMask →
    lineErr s (locOf order fr (q / 64 * 64)) ((fr * 65536 + q / 64 * 64) / 64) = none →
    let t := writeLine s r order fr q bs be poison hint
    let a := fr * 65536 + q / 64 * 64
    (be = 0 → poison = false → t = s) ∧
    (∀ b, b < a ∨ a + 64 ≤ b → cget t.dram b = cget s.dram b) ∧
    (∀ i < 64, cget t.dram (a + i) = if bit be i then bs.getD i 0 else cget s.dram (a + i)) ∧
    (be ≠ 0 ∨ poison = true →
      t.poison = setTag s.poison (a / 64) (poison || (decide (be ≠ fullMask) && isPoison s (a / 64))) ∧
      t.hint = setTag s.hint (a / 64) hint) ∧
    t.seals = s.seals) ∧
  (∀ (s : State) (r : Reader) (order fr q : Nat), q < 65536 →
    (∀ i < 4, lineErr s (locOf order fr (q / 256 * 256 + 64 * i)) ((fr * 65536 + (q / 256 * 256 + 64 * i)) / 64) = none) →
    let pl := (fr * 65536 + q / 256 * 256) / 64
    let agree := crc32c (granuleData s (pl / 4)) = sealOf s (pl / 4)
    let allPoison := ∀ i < 4, isPoison s (pl + i) = true
    (isLight s fr = true ∨ r.checks = false ∨ agree ∨ allPoison →
      readLine s r order fr q = (s, lineData s ((fr * 65536 + q) / 64), isPoison s ((fr * 65536 + q) / 64))) ∧
    (isLight s fr = false → r.checks = true → ¬ agree → ¬ allPoison →
      (readLine s r order fr q).2 = (lineData s ((fr * 65536 + q) / 64), true))) ∧
  (∀ (s : State) (l : Loc) (pl : Nat),
    (tagOf s l pl).getLsbD 0 = isPoison s pl ∧ (tagOf s l pl).getLsbD 1 = (isLight s (pl / 1024) != s.badCode.contains pl) ∧
    (tagOf s l pl).getLsbD 2 = s.hint.contains pl ∧ (tagOf s l pl).getLsbD 3 = steerBit s l ∧ tagOf s l pl < 16)

/-- MemSpecRd is a hint: nothing changes. MemClnEvct outside the windows changes no directory entry and completes; in a
window the holder of an exclusive line frees its entry, a sharer leaves the entry's list, and the last sharer's leaving
frees it; for a line under recall it joins the line's queue (R214, R322). BIConflict of a target of a recall is acknowledged; BIRsp of a target is recorded, and the last
one ends the recall (R214, R215). -/
def Obligations.CleanEvictionsAndResponses : Prop :=
  ∀ (s : State) (p : Port) (src : SrcId) (hpa : DWord) (tag : BitVec 16) (dev : BitVec 47) (shared : Bool),
    exec (.memSpecRd p src hpa) s = .next s ∧
    (∀ c id d, front s p src hpa = .decoded c id d → (∀ w ∈ s.waits, w.why ≠ .entry) →
      (windowOf s d = none → exec (.memClnEvct p src hpa tag) s = .next (sendDone s p id tag .i)) ∧
      (windowOf s d ≠ none → ∀ e, dirAt s d = some e →
        (e.st = .exclusive → id ∈ e.sharers → exec (.memClnEvct p src hpa tag) s = .next
          (sendDone { s with directory := mdel s.directory (d / 64) } p id tag .i)) ∧
        (e.st = .shared → (∀ x ∈ e.sharers, x = id) → e.broad = false → exec (.memClnEvct p src hpa tag) s = .next
          (sendDone { s with directory := mdel s.directory (d / 64) } p id tag .i)) ∧
        (e.st = .shared → (∃ x ∈ e.sharers, x ≠ id) → exec (.memClnEvct p src hpa tag) s = .next
          (sendDone (putDir s d (some { e with sharers := e.sharers.filter (fun x => x != id) })) p id tag .i)) ∧
        (e.st = .recalling → exec (.memClnEvct p src hpa tag) s = .next
          (putDir s d (some { e with queue := e.queue ++ [.evict (senderOf s p id c tag)] }))))) ∧
    (∀ e, dirAt s dev.toNat = some e → e.st = .recalling → srcOf s p src ∈ e.targets →
      exec (.biConflict p src dev) s = .next { s with
        out := s.out ++ [.biConflictAck p (srcOf s p src) (dev.toNat / 64 * 64)] } ∧
      ∀ c, mapSource s p (srcOf s p src) = .ok c →
        let kept := if shared then e.kept ++ [srcOf s p src] else e.kept
        let e' := { e with targets := e.targets.filter (fun x => x != srcOf s p src), kept := kept }
        exec (.biRsp p src dev shared) s = .next (if (∀ x ∈ e.targets, x = srcOf s p src) then endRecall s dev.toNat e'
          else putDir s dev.toNat (some e')))

/-- A host's requests on a line of a coherent window. A line without an entry: a read with MetaValue S or A allocates
one, shared or exclusive, while the directory has room; a read with I and a write allocate none. A line under recall
queues every request but the write-back of a target. A line that other identities share or hold is recalled before it
goes to a new exclusive holder (R213, R214, R216). -/
def Obligations.WindowRequests : Prop :=
  ∀ (s : State) (p : Port) (src : SrcId) (hpa : DWord) (tag : BitVec 16) (c : Ctx) (id : SrcId) (dev : Nat),
    front s p src hpa = .decoded c id dev → windowOf s dev ≠ none →
    ∀ r ∈ ([(fun mv => .memRd p src hpa mv tag, false), (fun mv => .memRdData p src hpa mv tag, false),
        (fun mv => .memInv p src hpa mv tag, true), (fun mv => .memInvNt p src hpa mv tag, true)] :
        List ((MetaValue → Instr) × Bool)),
    let h := senderOf s p id c tag
    let rd := fun (mv : MetaValue) => LineReq.read h mv r.2
    (dirAt s dev = none →
      exec (r.1 .i) s = .next (applyReq s dev (rd .i) .i false) ∧
      (s.directory.length < dirSize →
        exec (r.1 .s) s = .next (applyReq (allocDir s dev .shared id) dev (rd .s) .s false) ∧
        exec (r.1 .a) s = .next (applyReq (allocDir s dev .exclusive id) dev (rd .a) .a false)) ∧
      (dirSize ≤ s.directory.length →
        exec (r.1 .s) s = .next (waitEntry s h dev .s r.2) ∧ exec (r.1 .a) s = .next (waitEntry s h dev .a r.2))) ∧
    ∀ e, dirAt s dev = some e →
      (e.st = .recalling → ∀ mv, exec (r.1 mv) s = .next (putDir s dev (some { e with queue := e.queue ++ [rd mv] }))) ∧
      (e.st = .exclusive → id ∈ e.sharers → ∀ mv, exec (r.1 mv) s = .next (applyReq s dev (rd mv) mv false)) ∧
      (e.st = .exclusive → id ∉ e.sharers → ∀ mv,
        exec (r.1 mv) s = .next (startRecall s dev e e.sharers (!r.2 && mv != .a) (some (rd mv)))) ∧
      (e.st = .shared → (∃ x ∈ sharersOf s dev e, x ≠ id) →
        exec (r.1 .a) s = .next (startRecall s dev e ((sharersOf s dev e).filter (fun x => x != id)) false (some (rd .a))))

/-- The timers of host waits: a load whose stall budget ends while its page is not resident is answered as a tier miss;
one that waits for a stack is answered with poison and reported by EV_STALL_POISON; a recall whose wait ends poisons
the line, frees its entry, counts the broken wait, reports it by EV_WAIT_BROKEN and takes the queue (R59, R61, R65, R214,
R233). -/
def Obligations.HostWaitTimers : Prop :=
  (∀ (s : State) (p : Port) (tag : BitVec 16) (w : Waiting),
    s.waits.find? (fun w => w.port == p && w.tag == tag && w.store.isNone && w.why != .entry) = some w →
    let s1 := { s with waits := s.waits.erase w }
    (∀ t, w.why = .page → targetOf s w.dev = some t → exec (.stallBudgetExpired p tag) s = .next (tierMiss s1 w t false)) ∧
    (w.why = .stack → exec (.stallBudgetExpired p tag) s = .next
      (raise (sendRead s1 w.port w.src w.tag w.noData zeroLine true w.mv) evStallPoison [w.ctx]
        (w2 (w.dev / 64 * 64) ++ w1 w.port.val ++ w1 w.src.toNat)))) ∧
  (∀ (s : State) (dev : BitVec 47) (e : DirEntry), dirAt s dev.toNat = some e → e.st = .recalling →
    let a := { poisonDev s dev.toNat with directory := mdel (poisonDev s dev.toNat).directory (dev.toNat / 64) }
    exec (.recallWaitExpired dev) s = .next (retryEntries (e.queue.foldl (fun s r => dirRequest s dev.toNat r)
      (raise (a.bump 0x50028 1) evWaitBroken (recallRings (a.bump 0x50028 1) e) (w1 0 ++ w2 (dev.toNat / 64 * 64) ++ waiterWords e
        ++ w1 (match e.targets.head? with | some t => t.toNat | none => 0) ++ w1 1))))) ∧
  (∀ (s : State) (dev : BitVec 47), (∀ e, dirAt s dev.toNat = some e → e.st ≠ .recalling) →
    exec (.recallWaitExpired dev) s = .next s)

/-- PTM on a port whose link is up: a dialog begins with FT_CTRL as it then stands and its request leaves, and if the source is
lost by the value that it has taken, it is lost from then on; with PTM_EN 0, the port's PTM is lost; a dialog that times out
counts as not valid; after LOSS_COUNT of them the port's PTM is lost; a port whose PTM Enable is cleared loses PTM. A source
that is lost takes the anchoring state from ANCHORED or REACQUIRING to HOLDOVER and from ACQUIRING to UNANCHORED (R28, R29, R33,
R69). Each port keeps the offset of its last valid dialog, and one that is not the source changes nothing else while the source
has PTM and FT_CTRL does not name the port (R28).
A valid dialog of the source: FT_TIME's offset splits into frames, which renumber at the next boundary, and a rest,
which is steered out at a rate of at most 100 ppm; the anchoring state follows R33: UNANCHORED and EXPIRED go to
ACQUIRING, HOLDOVER to REACQUIRING, ACQUIRING and REACQUIRING to ANCHORED after three dialogs in a row within 20 ns of
the same frame, ANCHORED to REACQUIRING when the frames part is not zero (R29 to R33).
HOLDOVER_EXPIRED in HOLDOVER: the state becomes EXPIRED and EV_TIME_EXPIRED is raised with the limit of HOLDOVER and
FT_FRAME, the timer at the limit or above it; in any other state nothing changes (R15, R33, R69). -/
def Obligations.TimeDialogs : Prop :=
  (∀ (s : State) (p : Port),
    ((s.port p).up = true → (s.port p).ptmEnable = true → s.ft.running = true → (s.port p).ptm.active = false →
      let c : DWord := BitVec.ofNat 64 (s.reg 0x20000)
      (c.getLsbD 0 = true → ∃ u, exec (.ptmDialogStart p) s = .next (onSourceLost u) ∧
        u = { s with ports := u.ports, out := s.out ++ [.ptmRequest p] } ∧
        u.port p = { s.port p with ptm := { (s.port p).ptm with ctrl := c, active := true } } ∧
        ∀ q, q ≠ p → u.port q = s.port q) ∧
      (c.getLsbD 0 = false → exec (.ptmDialogStart p) s = .next (losePtm (s.modPtm p (fun y => { y with ctrl := c })) p))) ∧
    ((s.port p).ptm.active = true → ∃ t, exec (.ptmDialogTimeout p) s = .next t ∧ t = { s with ports := t.ports } ∧
      t.port p = { s.port p with ptm := { (s.port p).ptm with active := false, invalid := (s.port p).ptm.invalid + 1 } } ∧
      ∀ q, q ≠ p → t.port q = s.port q) ∧
    ((s.port p).ptm.valid = true → ctrlLoss (s.port p).ptm.ctrl ≤ (s.port p).ptm.invalid →
      exec (.ptmLost p) s = .next (losePtm s p)) ∧
    (exec (.ptmEnableWrite p true) s = .next (s.modPort p (fun x => { x with ptmEnable := true }))) ∧
    (exec (.ptmEnableWrite p false) s = .next (losePtm (s.modPort p (fun x => { x with ptmEnable := false })) p)) ∧
    (sourceLost (s.modPtm p (fun x => { x with valid := false, active := false, invalid := 0 })) = false →
      losePtm s p = s.modPtm p (fun x => { x with valid := false, active := false, invalid := 0 })) ∧
    (sourceLost s = false → onSourceLost s = s) ∧
    (sourceLost s = true → (onSourceLost s).ft = { s.ft with
      anchor := match s.ft.anchor with
        | .acquiring => .unanchored
        | .anchored => .holdover
        | .reacquiring => .holdover
        | a => a
      qualify := if s.ft.anchor = .acquiring ∨ s.ft.anchor = .anchored ∨ s.ft.anchor = .reacquiring then 0 else s.ft.qualify }) ∧
    (∀ (master : DWord) (sub : BitVec 10), (s.port p).ptm.active = true → (s.port p).up = true → s.ft.source ≠ p →
      ptmValid s s.ft.source = true → ctrlSource (s.port p).ptm.ctrl ≠ p.val →
      exec (.ptmDialogResponse p master sub) s = .next (s.modPtm p (fun x => { x with
        active := false, invalid := 0, valid := true, offset := (master - s.ft.time - sub.setWidth 64).toInt })))) ∧
  ((∀ (s : State) (p : Port) (master : DWord) (sub : BitVec 10),
    (s.port p).ptm.active = true → (s.port p).up = true → s.ft.source = p →
    let d := (master - s.ft.time - sub.setWidth 64).toInt
    let f := (d + 512) / 1024
    let r := d - f * 1024
    let q := if f = 0 ∧ -20 ≤ r ∧ r ≤ 20 then s.ft.qualify + 1 else 0
    ∃ t, exec (.ptmDialogResponse p master sub) s = .next t ∧
      t.ft.offset = d ∧ t.ft.renumber = f ∧ t.ft.restTenth = r * 10000 ∧ -100000 ≤ t.ft.rate ∧ t.ft.rate ≤ 100000 ∧
      t.ft.time = s.ft.time ∧ t.ft.source = p ∧
      t.ft.anchor = (match s.ft.anchor with
        | .unanchored => .acquiring
        | .expired => .acquiring
        | .holdover => .reacquiring
        | .acquiring => if 3 ≤ q then .anchored else .acquiring
        | .reacquiring => if 3 ≤ q then .anchored else .reacquiring
        | .anchored => if f = 0 then .anchored else .reacquiring) ∧
      (t.port p).ptm.active = false ∧ (t.port p).ptm.valid = true ∧ (t.port p).ptm.invalid = 0 ∧ (t.port p).ptm.offset = d) ∧
  (∀ s : State,
    (s.ft.anchor = .holdover → ∃ t, exec .holdoverExpired s = .next t ∧ t.ft.anchor = .expired ∧
      t = raiseAll { s with ft := { s.ft with
        anchor := .expired, qualify := 0, holdover := max s.ft.holdover (s.fieldOf 0x20020 0 11 * 1000000) } } evTimeExpired
          (w1 (s.fieldOf 0x20020 0 11) ++ w2 (s.ft.time.toNat / 1024))) ∧
    (s.ft.anchor ≠ .holdover → exec .holdoverExpired s = .next s)))

/-- A frame boundary. While FT_TIME does not run, or the reference is lost, there is none. FT_TIME moves to the next
multiple of 1,024 ns, one boundary is counted, the rest still to be steered shrinks by the 0.1024 ns of a frame, and
the holdover timer runs in HOLDOVER. In a thermal shutdown nothing else happens but the count of throttled frames;
otherwise the registers that act from a boundary on are those written, and the boundary's actions follow in the order of R67
(R10, R31, R33, R36, R67, R466).
The renumbering of a boundary adds whole frames to FT_TIME and is then done, and a change of the source table that
is due takes the staged entries (R31, R337). -/
def Obligations.FrameBoundary : Prop :=
  (∀ s : State,
    (s.ft.running = false ∨ s.pw.refLost = true → exec .frameBoundary s = .next s) ∧
    (s.ft.running = true → s.pw.refLost = false →
      let a := { s with ft := { s.ft with
        time := BitVec.ofNat 64 ((s.ft.time.toNat / 1024 + 1) * 1024)
        run := s.ft.run + 1
        restTenth := if 1024 < s.ft.restTenth then s.ft.restTenth - 1024
          else if s.ft.restTenth < -1024 then s.ft.restTenth + 1024 else 0
        holdover := if s.ft.anchor = .holdover then s.ft.holdover + 1024 else s.ft.holdover } }
      (s.pw.thermalOff = true → exec .frameBoundary s = .next (a.bump 0xD0030 1)) ∧
      (s.pw.thermalOff = false → ∃ t u, exec .frameBoundary s = .next t ∧ u = latchRegs a ∧ u.eff = u.regs ∧
        t = serviceBoundary (patternBoundary (powerBoundary (commitBoundary (timeBoundary (unpickBoundary u))))) ∧ t.merged = []))) ∧
  (∀ s : State,
    (s.ft.renumber ≠ 0 → renumberNow s = { s with ft := { s.ft with
      time := s.ft.time + BitVec.ofInt 64 (s.ft.renumber * 1024), renumber := 0, reportStep := false } }) ∧
    (s.srcDue = true → commitSources s = { s with srcTab := s.srcStaged, srcDue := false, srcGen := s.srcGen + 1 }) ∧
    (s.srcDue = false → commitSources s = s) ∧
    ∀ (c : Ctx),
      (stagedCheck (s.ctx c).staged ≠ 0 → commitDecoders s c = s.modCtx c (fun x => { x with
        decDue := false, decError := true, decCode := BitVec.ofNat 4 (stagedCheck (s.ctx c).staged) })) ∧
      (stagedCheck (s.ctx c).staged = 0 → commitDecoders s c = commitWindows (commitGrants (s.modCtx c (fun x => { x with
        decDue := false, decError := false, decCode := 0, committed := x.staged, decGen := x.decGen + 1, decBusy := true })) c) c))

/-- The host's writes that commit decoders: a write of COMMIT by an enabled context stages its decoders; the commit
completes when no request accepted under an earlier generation is outstanding (R341). -/
def Obligations.DecoderCommit : Prop :=
  ∀ (s : State) (c : Ctx) (value : Word),
    (ctxEnabled s c = true → value.getLsbD 0 = true → exec (.decoderCommitWrite c value) s = .next (stageCommit s c)) ∧
    (ctxEnabled s c = false ∨ value.getLsbD 0 = false → exec (.decoderCommitWrite c value) s = .next s) ∧
    ((s.ctx c).decBusy = true → olderRequests s c = false →
      exec (.decoderCommitComplete c) s = .next (s.modCtx c (fun x => { x with decBusy := false }))) ∧
    ((s.ctx c).decBusy = false ∨ olderRequests s c = true → exec (.decoderCommitComplete c) s = .next s)

/-- A link that can train comes up at the lower of the partner's rate and the mode's, at most 32 GT/s with 68-byte flits
and 64 GT/s without Revas mode, and EV_PORT_UP reports it; a link that goes down loses its rate, width and
Memory_Active, its functions are reset, its loads and unanswerable recalls end, and EV_PORT_DOWN counts them; a link
that enters Recovery retrains, and one in Revas mode falls back after a failed equalisation; the end of the retrain
sets the new rate and serves what waited (R322 to R325, R351, R354, R471). -/
def Obligations.LinkEvents : Prop :=
  ∀ (s : State) (p : Port),
    (∀ (rate : BitVec 3) (width : BitVec 2) (flit256 pbr bi echo : Bool),
      canTrain s p = true → rate ≠ 0 → rate.toNat ≤ 4 → width ≠ 3 →
      let r := cappedRate s p rate.toNat width.toNat flit256 echo
      let a := if revasAllowed s p 0 then s.emit (.revasOffer p) else s
      r ≤ rate.toNat ∧ r ≤ modeRate s.pw.mode ∧ (flit256 = false → r ≤ 2) ∧
      exec (.linkUp p rate width flit256 pbr bi echo) s = .next (raise (setActive (a.modPort p (fun x => { x with
          up := true, rate := BitVec.ofNat 3 r, width := width, flit256 := flit256, pbr := flit256 && pbr, bi := flit256 && bi,
          retrain := false, recovery := [] })) p) evPortUp [] (w1 p.val ++ w1 r ++ w1 width.toNat ++ w1 (if flit256 then 256 else 68)
          ++ w1 (b2n (flit256 && pbr)) ++ w1 (b2n (r == 4))))) ∧
    ((s.port p).up = true →
      (let a := pfReset (s.modPort p (fun x => { x with
          up := false, rate := 0, width := 0, flit256 := false, pbr := false, bi := false, retrain := false, recovery := [],
          revasOk := true, memActive := false })) p 3
       let b := dropLoads a p
       let c := endPortRecalls b.1 p
       exec (.linkDown p) s = .next (raise c.1 evPortDown [] (w1 p.val ++ w1 (vfsOn s p) ++ w1 b.2 ++ w1 c.2))) ∧
      ∀ failed : Bool,
        let rs := ((s.port p).recovery.filter (fun b => decide (s.ft.run < b + framesPerSecond))) ++ [s.ft.run]
        let a := s.modPort p (fun x => { x with retrain := true, recovery := rs })
        ((s.port p).rate ≠ 4 ∨ (failed = false ∧ rs.length ≤ 4) → exec (.linkRecoveryEntry p failed) s = .next a) ∧
        ((s.port p).rate = 4 → failed = true ∨ 4 < rs.length → exec (.linkRecoveryEntry p failed) s = .next
          (raise (a.modPort p (fun x => { x with revasOk := false })) evRevasFallback [] (w1 p.val ++ w1 (if failed then 0 else 1))))) ∧
    (∀ rate : BitVec 3, (s.port p).up = true → (s.port p).retrain = true → rate ≠ 0 → rate.toNat ≤ 4 →
      exec (.linkRetrainComplete p rate) s = .next (serveWaits (setActive (s.modPort p (fun x => { x with
        retrain := false, rate := BitVec.ofNat 3 (cappedRate s p rate.toNat x.width.toNat x.flit256 true) })) p))) ∧
    ((s.port p).up = false → exec (.linkDown p) s = .next s ∧ ∀ failed, exec (.linkRecoveryEntry p failed) s = .next s)

/-- Functions and their resets: a function-level reset of an enabled VF unpicks its context and resets its ring, Bus
Master Enable and MSI-X state; a fall of NumVFs does the same to the VFs it removes and ends their leases, and a rise starts the leases of
those it adds; a PF's reset removes all its VFs, takes PTM, MSI-X and its mailboxes' contexts; the end of a reset lets
the function be heard again (R208, R335, R349, R350, R352, R385).
Bus Master Enable and MSI-X masks of a function that is present: setting Bus Master Enable, and clearing a vector's
mask, sends what is pending and unmasked; clearing Bus Master Enable of a VF ends its context's swaps and exchanges. A
poisoned TLP to a register space is logged and sets its status bit (R334, R346, R348). -/
def Obligations.FunctionResets : Prop :=
  (∀ (s : State) (p : Port) (c : Ctx),
    (ctxEnabled s c = true → exec (.vfFunctionLevelReset c) s = .next
      (raise ((resetRing (decideUnpick (stopUpstream s c) c 5 [] []) c).modCtx c (fun x => { x with
          bme := false, msixMask := 0xF, msixPend := 0, inReset := true })) evFuncReset []
        (w1 (ctxPort c).val ++ w1 (c.val % 64 + 1) ++ w1 c.val ++ w1 0 ++ w1 (cueCount s c) ++ w1 (swapCount s c)))) ∧
    (ctxEnabled s c = false → exec (.vfFunctionLevelReset c) s = .next s) ∧
    (∀ n : BitVec 7, n.toNat < vfsOn s p → exec (.vfEnableClear p n) s = .next
      ((portCtxs p n.toNat (vfsOn s p)).foldl (fun s c => (vfReset s c 1).modCtx c (fun x => { x with leaseRun := false }))
        (s.modPort p (fun x => { x with vfEnable := x.vfEnable && decide (0 < n.toNat), numVfs := n.toNat })))) ∧
    (∀ n : BitVec 7, (s.port p).up = true → vfsOn s p < n.toNat → n.toNat ≤ 64 →
      ∃ t, exec (.vfEnableSet p n) s = .next t ∧ t = { s with ports := t.ports, ctxs := t.ctxs } ∧
        t.port p = { s.port p with vfEnable := true, numVfs := n.toNat } ∧ (∀ q, q ≠ p → t.port q = s.port q) ∧
        ∀ d : Ctx, t.ctx d = if ctxPort d = p ∧ vfsOn s p ≤ d.val % 64 ∧ d.val % 64 < n.toNat ∧ (s.ctx d).expired = false
          then { s.ctx d with leaseRun := true, leaseFrom := s.ft.run } else s.ctx d) ∧
    ((s.port p).up = true → exec (.pfFunctionLevelReset p) s = .next (pfReset s p 2)) ∧
    exec (.functionResetComplete (.pf p)) s = .next (s.modPort p (fun x => { x with inReset := false })) ∧
    exec (.functionResetComplete (.vf c)) s = .next (s.modCtx c (fun x => { x with inReset := false }))) ∧
  (∀ (s : State) (p : Port) (c : Ctx),
    (fnPresent s (.pf p) = true →
      exec (.busMasterEnableSet (.pf p)) s = .next (sendPending (s.modPort p (fun x => { x with bme := true })) (.pf p)) ∧
      exec (.busMasterEnableClear (.pf p)) s = .next (s.modPort p (fun x => { x with bme := false })) ∧
      (∀ v : Fin 8, exec (.msixUnmask (.pf p) v) s = .next (sendPending (s.modPort p (fun x => { x with
        msixMask := BitVec.ofNat 8 (setBits x.msixMask.toNat v.val 1 0) })) (.pf p))) ∧
      exec (.poisonedTlpToBar p) s = .next (setInt (s.modPort p (fun x => { x with aerPoison := true })) 0 6)) ∧
    (fnPresent s (.vf c) = true →
      exec (.busMasterEnableSet (.vf c)) s = .next (sendPending (s.modCtx c (fun x => { x with bme := true })) (.vf c)) ∧
      exec (.busMasterEnableClear (.vf c)) s = .next (stopUpstream (s.modCtx c (fun x => { x with bme := false })) c) ∧
      ∀ v : Fin 8, v.val < 4 → exec (.msixUnmask (.vf c) v) s = .next (sendPending (s.modCtx c (fun x => { x with
        msixMask := BitVec.ofNat 4 (setBits x.msixMask.toNat v.val 1 0) })) (.vf c))) ∧
    (∀ f, fnPresent s f = false → exec (.busMasterEnableSet f) s = .next s ∧ exec (.busMasterEnableClear f) s = .next s ∧
      ∀ v, exec (.msixUnmask f v) s = .next s) ∧
    ((s.port p).msixPend = 0 → sendPending s (.pf p) = s))

/-- PERST# of a port: asserted, the link is down and held; released, the port may train again. The sideband ports: an
endpoint ID is taken while the steward hears the port, the null one takes it away; an alert is repeated while an
enabled interrupt is pending and the port's alert is on (R386, R475).
The module reset pin: low, a package reset begins and the module is held at stage 0 until it rises, when start-up
begins at stage 1; in a thermal shutdown the request is only recorded (R466, R478). PACKAGE_RESET begins a package reset
unless the module has no power or is too hot (R424, R466). A domain that is powering up becomes usable from the next
boundary, at once before FT_TIME runs (R22, R457). -/
def Obligations.PinsAndDomains : Prop :=
  (∀ (s : State) (p : Port) (n : Fin 2) (eid : BitVec 8),
    (exec (.perstAssert p) s = .next ((linkDown s p).modPort p (fun x => { x with perst := true }))) ∧
    ((s.port p).up = false → exec (.perstAssert p) s = .next (s.modPort p (fun x => { x with perst := true }))) ∧
    (exec (.perstRelease p) s = .next (s.modPort p (fun x => { x with perst := false }))) ∧
    (stewardHears s (.sideband n) = true → exec (.endpointIdAssignment n eid) s = .next
      { s with eids := if eid = 0 then mdel s.eids n.val else mput s.eids n.val eid }) ∧
    (mgmtSummary s ≠ 0 → s.fieldOf 0xA0000 n.val 1 = 1 → s.fieldOf 0xA0000 (2 + n.val) 1 = 1 →
      exec (.sidebandAlertRepeat n) s = .next { s with out := s.out ++ [.alert n] }) ∧
    (mgmtSummary s = 0 → exec (.sidebandAlertRepeat n) s = .next s)) ∧
  (∀ s : State,
    (hubOn s = true → s.pw.thermalOff = false → ∃ t, exec .modRstFall s = .next t ∧
      t = doPackageReset { s with pw := { s.pw with modRst := true } } 0 0 ∧ t.pw.stage = 0 ∧ t.pw.modRst = true) ∧
    (hubOn s = true → s.pw.thermalOff = true → coolEnough s = false → exec .modRstFall s = .next
      { s with pw := { s.pw with modRst := true, rstAsked := true } }) ∧
    (hubOn s = false → exec .modRstFall s = .next { s with pw := { s.pw with modRst := true } }) ∧
    (∃ t, exec .modRstRise s = .next t ∧ t = { s with pw := t.pw } ∧ t.pw.modRst = false ∧
      t.pw.stage = if hubOn s = true ∧ s.pw.stage = 0 then 1 else s.pw.stage) ∧
    (resetRefused s = true → exec .packageReset s = .next s) ∧
    (resetRefused s = false → ∃ t, exec .packageReset s = .next t ∧ t = doPackageReset s 0 (if s.pw.modRst then 0 else 1) ∧
      t.pending = s.pending ∧ t.cores = [] ∧ t.patterns = [] ∧ t.bindings = [] ∧ t.cues = [] ∧ t.keks = [] ∧ t.ide = [] ∧
      (t.flashLow = s.flashLow → t.dram = [] ∧ t.regs = []) ∧ t.windows = [] ∧ t.ft.running = false ∧ t.ft.anchor = .unanchored ∧ t.pw.throttle = 0 ∧
      (∀ k x, mget? s.keys k = some x → mget? t.keys k = some { x with key := none })) ∧
    ∀ d : Fin 80,
      (mget .off s.pw.doms d.val = .rising → exec (.domainPowerUpDone d) s = .next { s with pw := { s.pw with
        doms := mput s.pw.doms d.val (if s.ft.running then .ready else .on) } }) ∧
      (mget .off s.pw.doms d.val ≠ .rising → exec (.domainPowerUpDone d) s = .next s))

/-- The sensors, the input and the module reference. Readings are taken while the hub main domain is on; the input's
readings are kept while PWR_EN is high, sixteen in a row out of range and 1,024 in a row within 40.5 V to 59.5 V being
reported at the next boundary, and each with the limit that then stands in PW_LIMIT; a power fault of the input and a fall of
PWR_EN leave what a package reset leaves, at stage 0, the latter after the flash programs in progress have completed; losing the
reference switches every domain but hub main off, and its return begins a package reset, which waits in a thermal shutdown
(R250, R455, R464, R466, R468, R473, R478). -/
def Obligations.SensorsInputAndReference : Prop :=
  ∀ s : State,
    (∀ a b h, hubOn s = true → exec (.thermalSensorRead a b h) s = .next (logicRead s a b h)) ∧
    (∀ t tenths, hubOn s = true → 3 ≤ s.pw.stage → exec (.stackSensorRead t tenths) s = .next (stackRead s t.val tenths)) ∧
    (∀ a b h t tenths, hubOn s = false →
      exec (.thermalSensorRead a b h) s = .next s ∧ exec (.stackSensorRead t tenths) s = .next s) ∧
    (∀ (mv da : BitVec 16) (m1 m10 : BitVec 12), s.pw.power = true → s.pw.pwrEn = true → s.ft.running = true →
      ∃ t, exec (.inputReading mv da m1 m10) s = .next t ∧ t = { s with pw := t.pw } ∧
        let out := if 40000 ≤ mv.toNat ∧ mv.toNat ≤ 60000 then 0 else s.pw.outRun + 1
        let inn := if 40500 ≤ mv.toNat ∧ mv.toNat ≤ 59500 then s.pw.inRun + 1 else 0
        t.pw = { s.pw with
          mv := mv, deciamps := da, mean1s := m1, mean10ms := m10, limit := s.fieldOf 0xD0004 0 11, outRun := out, inRun := inn
          outRange := if s.pw.outRange then decide (inn < 1024) else decide (16 ≤ out)
          inputDue := s.pw.inputDue ++ (if s.pw.outRange = false ∧ 16 ≤ out then [false]
            else if s.pw.outRange = true ∧ 1024 ≤ inn then [true] else []) }) ∧
    (s.pw.power = true → ∃ t, exec .inputPowerFault s = .next t ∧ t = doPackageReset { s with pw := { s.pw with power := false } } 0 0 ∧
      t.pw.stage = 0 ∧ t.pw.power = false ∧ t.ft.running = false ∧ t.pw.doms = []) ∧
    (s.pw.power = false → exec .inputPowerFault s = .next s) ∧
    (s.pw.pwrEn = true → ∃ t u, exec .pwrEnFall s = .next t ∧ u = (if s.pw.power then finishPrograms s else s) ∧
      t = doPackageReset { u with pw := { u.pw with pwrEn := false } } 0 0 ∧
      t.pw.stage = 0 ∧ t.pw.pwrEn = false ∧ t.pw.doms = []) ∧
    (s.pw.pwrEn = false → ∃ t, exec .pwrEnRise s = .next t ∧ t.pw.pwrEn = true ∧ t = { s with pw := t.pw } ∧
      t.pw.stage = if s.pw.power = true ∧ s.pw.stage = 0 ∧ s.pw.modRst = false then 1 else s.pw.stage) ∧
    (hubOn s = true → s.pw.refLost = false → ∃ t, exec .mrefLoss s = .next t ∧ t.pw.refLost = true ∧ t.pw.doms = [] ∧
      t = (allOff s).modPw (fun w => { w with refLost := true })) ∧
    (hubOn s = true → s.pw.refLost = true → resetRefused s = false → exec .mrefStable s = .next (packageReset s 5)) ∧
    (hubOn s = true → s.pw.refLost = true → resetRefused s = true →
      exec .mrefStable s = .next { s with pw := { s.pw with rstAsked := true } })

/-- Start-up: a stage whose work stands ends with its time, and the next begins; a stage that its own result, or the
event, names a cause for stays, held with that cause and FAULT# asserted; the end of stage 5 lets FT_TIME run and begins
the power-up of the domains of the mode, that of stage 7 sets READY_MS; from stage 3 on, when registers can first be read, each
AQ_CH_CAP.CAPACITY is loaded (R12, R22, R372, R469 to R471, R479). -/
def Obligations.StartupStages : Prop :=
  ∀ (s : State) (r : StageResult) (ms : BitVec 16),
    hubOn s = true → s.pw.held = false → s.pw.refLost = false → s.pw.thermalOff = false → 1 ≤ s.pw.stage → s.pw.stage ≤ 7 →
    s.pw.readyMs = 0xFFFF →
    (r = .input ∨ (r = .fwImage ∧ s.pw.stage = 2) ∨ (r = .dramTrain ∧ s.pw.stage = 3) ∨ (r = .flashArray ∧ s.pw.stage = 4) ∨
        (r = .reference ∧ s.pw.stage = 1) →
      ∃ t, exec (.startupStageComplete r ms) s = .next t ∧ t.pw = { s.pw with held := true, cause := causeOf r } ∧ t.faultPin = true ∧
        t = { s with pw := t.pw, faultPin := t.faultPin, thermPin := t.thermPin, baySafe := t.baySafe }) ∧
    (r = .done → stageReady s = true → ∀ c, stageFails s = some c →
      ∃ t, exec (.startupStageComplete r ms) s = .next t ∧ t.pw = { s.pw with held := true, cause := c } ∧ t.faultPin = true) ∧
    (r = .done → stageReady s = false → exec (.startupStageComplete r ms) s = .next s) ∧
    (r = .done → stageReady s = true → stageFails s = none → exec (.startupStageComplete r ms) s = .next (endStage s ms)) ∧
    (s.pw.stage = 1 → endStage s ms = { s with pw := { s.pw with stage := 2, stageMs := s.pw.stageMs ++ [ms.toNat] } }) ∧
    (s.pw.stage = 2 → ∀ k < 640, (mget {} (endStage s ms).chans k).cap = capOf s (claimedSlots s) k) ∧
    (s.pw.stage = 5 → (endStage s ms).ft = { s.ft with running := true } ∧ (endStage s ms).pw.stage = 6 ∧
      ∀ d ∈ modeDoms, mget .off s.pw.doms d = .off → mhas s.pw.doms d = false → mget .off (endStage s ms).pw.doms d = .rising)

/-- The rings. A write of 1 to EN makes the two ring objects, each from a 64 KiB aligned run of the context's grants that
meets no object (errors 1 and 2), of free frames and within the limit of objects (error 3), and then both rings are empty in their first pass; while
they are enabled it only clears the error; a write of 0 drains them, and when nothing is in flight the ring objects go
(R143, R389, R390). The doorbell moves TAIL forward, and any other value is error 4, which vector 1 reports (R391, R395). -/
def Obligations.RingsEnableAndDrain : Prop :=
  ∀ (s : State) (c : Ctx) (value : Word),
    let a := setOrders s c value
    (ctxEnabled s c = true → (s.ctx c).ring.enabled = false → (s.ctx c).ring.draining = false →
      (∀ e, ringObject a c (a.ctx c).ring.wrBase.toNat (a.ctx c).ring.wrOrder = .error e →
        exec (.ringEnable c value) s = .next (ringError a c e)) ∧
      (∀ b n e, ringObject a c (a.ctx c).ring.wrBase.toNat (a.ctx c).ring.wrOrder = .ok (b, n) →
        ringObject b c (a.ctx c).ring.erBase.toNat (a.ctx c).ring.erOrder = .error e →
        exec (.ringEnable c value) s = .next (ringError a c e)) ∧
      (∀ b n d m, ringObject a c (a.ctx c).ring.wrBase.toNat (a.ctx c).ring.wrOrder = .ok (b, n) →
        ringObject b c (a.ctx c).ring.erBase.toNat (a.ctx c).ring.erOrder = .ok (d, m) →
        exec (.ringEnable c value) s = .next (d.modCtx c (fun x => { x with ring := { x.ring with
          en := true, enabled := true, error := false, errCode := 0, wrHead := 0, wrTail := 0, erHead := 0, erTail := 0, phase := true,
          written := 0, dropped := 0, sinceOvf := 0, wrObj := some n, erObj := some m, flights := [] } })))) ∧
    (∀ (base : Nat) (order : BitVec 4),
      let pages := ceilDiv (ringSize order * 64) 65536
      let o : Obj := { base := base, pages := pages, cls := .scratch, layout := .interleaved, owner := c, head := 0, ring := true }
      (grantedRun s c base (pages * 65536) = false ∨ base % 65536 ≠ 0 → ringObject s c base order = .error 1) ∧
      (grantedRun s c base (pages * 65536) = true → base % 65536 = 0 →
        (overlaps s base (pages * 65536) = true → ringObject s c base order = .error 2) ∧
        (overlaps s base (pages * 65536) = false → 16777216 ≤ s.objects.length → ringObject s c base order = .error 3) ∧
        (overlaps s base (pages * 65536) = false → s.objects.length < 16777216 →
          (∀ r, createObject s o = some r → ringObject s c base order = .ok r) ∧
          (createObject s o = none → ringObject s c base order = .error 3)))) ∧
    (ctxEnabled s c = true → (s.ctx c).ring.enabled = true → (s.ctx c).ring.draining = false →
      exec (.ringEnable c value) s = .next (s.modCtx c (fun x => { x with ring := { x.ring with error := false, errCode := 0 } })) ∧
      exec (.ringDisable c value) s = .next (s.modCtx c (fun x => { x with ring := { x.ring with en := false, draining := true } }))) ∧
    ((s.ctx c).ring.draining = true → (s.ctx c).ring.flights = [] →
      ∃ t, exec (.ringDrainComplete c) s = .next t ∧ (t.ctx c).ring.enabled = false ∧ (t.ctx c).ring.draining = false ∧
        (t.ctx c).ring.wrObj = none ∧ (t.ctx c).ring.erObj = none) ∧
    ((s.ctx c).ring.draining = false ∨ (s.ctx c).ring.flights ≠ [] → exec (.ringDrainComplete c) s = .next s) ∧
    (let r := (s.ctx c).ring
     let n := ringSize r.wrOrder
     let t := bits value.toNat 0 12
     (r.enabled = false → exec (.workRingDoorbell c value) s = .next s) ∧
     (r.enabled = true →
       (t < n → (r.wrTail.toNat + n - r.wrHead.toNat) % n ≤ (t + n - r.wrHead.toNat) % n →
         exec (.workRingDoorbell c value) s = .next (s.modCtx c (fun x => { x with ring := { x.ring with wrTail := BitVec.ofNat 12 t } }))) ∧
       (n ≤ t ∨ (t + n - r.wrHead.toNat) % n < (r.wrTail.toNat + n - r.wrHead.toNat) % n →
         exec (.workRingDoorbell c value) s = .next (sendMsix (setInt (s.modCtx c (fun x => { x with ring := { x.ring with
           error := true, errCode := 4 } })) 10 0) (.vf c) 1))))

/-- The walker. It takes no entry while the rings are off or draining, no entry is visible, the context is being
unpicked, a FENCE waits, 64 walker commands or four steward entries are in flight, or no event-ring entry is free. An entry
read as poisoned is ring error 5; an entry taken advances HEAD, reserves its completion and restarts the lease; a
reserved, refused or quarantined one ends at once with its status, and NOP ends with OK (R208, R391, R392, R396, R403). -/
def Obligations.WorkRingEntriesTaken : Prop :=
  ∀ (s : State) (c : Ctx) (e : Line) (op : Nat),
    let r := (s.ctx c).ring
    let tag : Word := BitVec.ofNat 32 (bits e.toNat 32 32)
    let code := bits e.toNat 0 16
    (r.enabled = false ∨ r.draining = true ∨ r.wrHead = r.wrTail ∨ mhas s.rv.unpicks c.val = true ∨
      (bits e.toNat 16 1 = 1 ∧ r.flights ≠ []) ∨ 64 ≤ (r.flights.filter (fun f => !f.steward)).length ∨
      (code = 16 ∧ 4 ≤ (r.flights.filter (·.steward)).length) ∨ erFree r = 0 →
      takeEntry s c e op = .notTaken ∧ exec (.nop c e) s = .next s) ∧
    (∀ a bs, walkerReady s c e = true → code = op → ringLine s c = (a, bs, false) → bytesLine bs = e →
      1 ≤ op → op ≤ 16 →
      let f : Flight := { tag := tag, opcode := BitVec.ofNat 16 op, steward := op == 16 }
      let b := restartLease (a.modCtx c (fun x => { x with ring := { x.ring with
        wrHead := BitVec.ofNat 12 ((x.ring.wrHead.toNat + 1) % ringSize x.ring.wrOrder), flights := x.ring.flights ++ [f] } })) c
      let st := if entryReserved e then 0x10 else if a.rv.outOfService then 0x17 else if (a.ctx c).expired then 0x15
        else if (a.ctx c).quarantined ∧ op ≠ 16 then 0x16 else 0
      (st = 0 → takeEntry s c e op = .taken b tag) ∧
      (st ≠ 0 → takeEntry s c e op = .ended (endFlight b c tag (BitVec.ofNat 16 op) st []))) ∧
    (∀ a bs, walkerReady s c e = true → code = op → ringLine s c = (a, bs, true) →
      takeEntry s c e op = .ended (ringError (a.modCtx c (fun x => { x with ring := { x.ring with
        wrHead := BitVec.ofNat 12 ((x.ring.wrHead.toNat + 1) % ringSize x.ring.wrOrder) } })) c 5)) ∧
    (∀ a, takeEntry s c e 15 = .taken a tag → exec (.nop c e) s = .next (endFlight a c tag 15 0 []))

/-- The event ring. Completions are written in the order in which their commands ended, each when none of its writes waits: the
entry carries the phase, kind 1, opcode, context, status, FT_TIME, the tag and the words; TAIL advances and PHASE flips at the
wrap. A write of HEAD frees entries and restarts the count of vector 0, and the time condition sends vector 0 (R392 to R395,
R400). -/
def Obligations.EventRing : Prop :=
  ∀ (s : State) (c : Ctx),
    (∀ (tag : Word) (i : Nat) (f : Flight) (st : BitVec 16) (words : List Word), (s.ctx c).ring.enabled = true →
      (s.ctx c).ring.flights.findIdx? (fun f => f.ended.isSome && !deviceQueued s c f.tag) = some i →
      (s.ctx c).ring.flights[i]? = some f → f.ended = some (st, words) →
      (f.tag = tag → exec (.completionPost c tag) s = .next ((ringEntry s c 1 f.opcode.toNat st.toNat (tag :: words)).modCtx c (fun x =>
        { x with ring := { x.ring with flights := x.ring.flights.eraseIdx i } }))) ∧
      (f.tag ≠ tag → exec (.completionPost c tag) s = .next s)) ∧
    (∀ tag : Word, (s.ctx c).ring.enabled = false ∨
        (∀ f ∈ (s.ctx c).ring.flights, f.ended.isSome = true → deviceQueued s c f.tag = true) →
      exec (.completionPost c tag) s = .next s) ∧
    (∀ (tag : Word) (op : BitVec 16) (st i : Nat) (words : List Word) (f : Flight),
      (s.ctx c).ring.flights.findIdx? (fun f => f.tag == tag && f.opcode == op && f.ended.isNone) = some i →
      (s.ctx c).ring.flights[i]? = some f →
      ((endFlight s c tag op st words).ctx c).ring.flights =
        (s.ctx c).ring.flights.eraseIdx i ++ [{ f with ended := some (BitVec.ofNat 16 st, words) }]) ∧
    (∀ (kind code status : Nat) (words : List Word),
      let r := (s.ctx c).ring
      let t := (r.erTail.toNat + 1) % ringSize r.erOrder
      let a := putOwnLine s (r.erBase.toNat + r.erTail.toNat * 64)
        (leBytes 1 (if r.phase then 1 else 0) ++ leBytes 1 kind ++ leBytes 2 code ++ leBytes 2 c.val ++ leBytes 2 status
          ++ leBytes 8 s.ft.time.toNat ++ (List.range 12).flatMap (fun i => leBytes 4 (words.getD i 0).toNat))
      let b := a.modCtx c (fun x => { x with ring := { x.ring with
        erTail := BitVec.ofNat 12 t, phase := if t = 0 then !x.ring.phase else x.ring.phase, written := x.ring.written + 1 } })
      (r.intEn = true → r.written + 1 = r.intCount.toNat → ringEntry s c kind code status words = sendMsix b (.vf c) 0) ∧
      (r.intEn = false ∨ r.written + 1 ≠ r.intCount.toNat → ringEntry s c kind code status words = b)) ∧
    (∀ value : Word, exec (.eventRingHeadWrite c value) s = .next (flushOverflow (s.modCtx c (fun x => { x with
      ring := { x.ring with
        erHead := BitVec.ofNat 12 (bits value.toNat 0 12), written := 0 } })) c)) ∧
    ((s.ctx c).ring.enabled = true → (s.ctx c).ring.intEn = true → (s.ctx c).ring.intTime ≠ 0 → 0 < (s.ctx c).ring.written →
      exec (.eventRingInterruptTimer c) s = .next (sendMsix s (.vf c) 0))

/-- The registers. A write of another width or alignment than the register's, of a reserved offset, or through a port that
is not the owner's, is ignored; otherwise the register takes its written value, with what the write does beside it, but that a
1 written to the owner port's own bit of PORT_OFF is ignored and a new BURST changes no bucket; a write of an INT_ENABLE that
enables a bit already set sends the management interrupt; REG_READ and REG_WRITE reach the same space (R9, R10, R332, R334,
R364, R402, R457). A write of a mailbox's Mailbox Control sets its interrupt enables, at the place that log entry 150 presumes.
The pages of a context. Of the doorbell page: EN, the bases while the rings are off, the pointers and the
interrupt's conditions; of the decoder block: the staged fields and COMMIT. A function that is down or in reset takes
nothing (R332, R339, R341, R389, R391, R395). -/
def Obligations.RegisterWrites : Prop :=
  (∀ (s : State) (p : Port) (off : BitVec 22) (bytes : BitVec 4) (value : DWord),
    let o := off.toNat
    let v := value.toNat % 2 ^ (8 * bytes.toNat)
    (pfTakes s p = false ∨ s.owner ≠ some p → exec (.registerWrite (.module p) off bytes value) s = .next s) ∧
    (pfTakes s p = true → s.owner = some p →
      (bytes.toNat ≠ regBytes o ∨ o % bytes.toNat ≠ 0 → exec (.registerWrite (.module p) off bytes value) s = .next s) ∧
      (bytes.toNat = regBytes o → o % bytes.toNat = 0 → (∀ b < 14, intEnableOff b ≠ o) →
        (regAt o = none → exec (.registerWrite (.module p) off bytes value) s = .next s) ∧
        ∀ d, regAt o = some d →
          let new := regWritten d (s.reg o (regIndex s o)) (ownerBit s o v)
          let u := if o = 0x90020 then keepBuckets s (regIndex s o) new else s
          exec (.registerWrite (.module p) off bytes value) s = .next (writeEffect { u with
            regs := mput u.regs (regKey o (regIndex s o)) (BitVec.ofNat 64 new) } o v)) ∧
      ∀ (b : Fin 14) (x : Word),
        let w := intWidths.getD b.val 0
        let a : State := { s with regs := mput s.regs (intEnableOff b.val) (BitVec.ofNat 64 (x.toNat % 2 ^ w)) }
        let risen := (List.range w).any (fun i =>
          bit (s.reg (intStatusOff b.val)) i && bit x.toNat i && !bit (s.reg (intEnableOff b.val)) i)
        (risen = false → exec (.intEnableWrite p b x) s = .next a) ∧
        (risen = true → exec (.intEnableWrite p b x) s =
          .next (if mgmtSummary s = 0 then sendAlerts (sendMgmt a) else sendMgmt a))) ∧
    (∀ b : Bool, pfTakes s p = true → exec (.registerWrite (.mailbox p b) 4 4 value) s = .next (s.modMbox p b (fun m => { m with
      dbInt := value.getLsbD 1, bgInt := value.getLsbD 2 }))) ∧
    ∀ (via : Path) (input : List Byte) (a : State) (m : MciCall),
      (Accepted s via 0xC0B3 input a m → bfield input 0 4 < 0x400000 → exec (.regRead via input) s =
        .next (answer a via m.tag 0xC0B3 0 (leBytes 8 (readReg a (bfield input 0 4) (bfield input 4 1))))) ∧
      (Accepted s via 0xC0B3 input a m → 0x400000 ≤ bfield input 0 4 →
        exec (.regRead via input) s = .next (answer a via m.tag 0xC0B3 0x12 [])) ∧
      (Accepted s via 0xC0B4 input a m → bfield input 0 4 < 0x400000 → exec (.regWrite via input) s =
        .next (answer (writeReg a (bfield input 0 4) (bfield input 4 1) (bfield input 8 8 % 2 ^ (8 * bfield input 4 1)))
          via m.tag 0xC0B4 0 [])) ∧
      (Accepted s via 0xC0B4 input a m → 0x400000 ≤ bfield input 0 4 →
        exec (.regWrite via input) s = .next (answer a via m.tag 0xC0B4 0x12 []))) ∧
  (∀ (s : State) (c : Ctx) (value : DWord),
    let v := value.toNat
    let w : Word := BitVec.ofNat 32 (v % 2 ^ 32)
    (vfTakes s c = false → ∀ off n,
      exec (.registerWrite (.doorbell c) off n value) s = .next s ∧ exec (.registerWrite (.decoder c) off n value) s = .next s) ∧
    (vfTakes s c = true →
      (let n := bits v 4 12
       let x := s.modCtx c (fun x => { x with ring := { x.ring with
         intEn := v.testBit 0, intCount := if n = 0 then x.ring.intCount else BitVec.ofNat 12 n
         intTime := BitVec.ofNat 16 (bits v 16 16) } })
       exec (.registerWrite (.doorbell c) 0x20 4 value) s = .next
         (if entriesDue (x.ctx c).ring ∧ entriesDue (s.ctx c).ring = false then sendMsix x (.vf c) 0 else x)) ∧
      (v.testBit 0 = true → exec (.registerWrite (.doorbell c) 0 4 value) s = .next (enableRings (setOrders s c w) c)) ∧
      (v.testBit 0 = false → exec (.registerWrite (.doorbell c) 0 4 value) s = .next (disableRings (setOrders s c w) c)) ∧
      ((s.ctx c).ring.enabled = false → (s.ctx c).ring.draining = false →
        exec (.registerWrite (.doorbell c) 8 8 value) s = .next (s.modCtx c (fun x => { x with
          ring := { x.ring with wrBase := BitVec.ofNat 64 (bits v 16 31 * 65536) } })) ∧
        exec (.registerWrite (.doorbell c) 16 8 value) s = .next (s.modCtx c (fun x => { x with
          ring := { x.ring with erBase := BitVec.ofNat 64 (bits v 16 31 * 65536) } }))) ∧
      ((s.ctx c).ring.enabled = true ∨ (s.ctx c).ring.draining = true →
        exec (.registerWrite (.doorbell c) 8 8 value) s = .next s ∧ exec (.registerWrite (.doorbell c) 16 8 value) s = .next s) ∧
      exec (.registerWrite (.doorbell c) 0x18 4 value) s = .next (doorbell s c w) ∧
      exec (.registerWrite (.doorbell c) 0x1C 4 value) s = .next (headWrite s c w) ∧
      exec (.registerWrite (.decoder c) 0x100 4 value) s = .next (if v.testBit 0 then stageCommit s c else s) ∧
      ∀ i < 8,
        let set := fun (f : Decoder → Decoder) => s.modCtx c (fun x => { x with staged := mmod {} x.staged i f })
        exec (.registerWrite (.decoder c) (BitVec.ofNat 22 (32 * i)) 8 value) s =
          .next (set (fun d => { d with base := BitVec.ofNat 64 (bits v 28 36 * 0x10000000) })) ∧
        exec (.registerWrite (.decoder c) (BitVec.ofNat 22 (32 * i + 8)) 8 value) s =
          .next (set (fun d => { d with size := BitVec.ofNat 64 (bits v 28 36 * 0x10000000) })) ∧
        exec (.registerWrite (.decoder c) (BitVec.ofNat 22 (32 * i + 16)) 8 value) s =
          .next (set (fun d => { d with dpa := BitVec.ofNat 64 (bits v 28 19 * 0x10000000) }))))

/-- Every field of every register follows its access code on its own: a 1 written to a W1C field clears its bit, a WO field
holds nothing, another field takes the value written unless that value is a reserved encoding of it, and the bits of no
field stay as they are (R10, R13). -/
def Obligations.RegisterFields : Prop :=
  ∀ (off : Nat) (d : RegDesc), regAt off = some d → ∀ (old new : Nat),
    (∀ f ∈ d.fields,
      bits (regWritten d old new) f.lo f.len = match f.acc with
        | .w1c => (BitVec.ofNat 64 (bits old f.lo f.len) &&& ~~~ BitVec.ofNat 64 (bits new f.lo f.len)).toNat
        | .wo => bits old f.lo f.len
        | _ => if fieldLegal d.off f (bits new f.lo f.len) && crossLegal d.off old new f then bits new f.lo f.len
               else bits old f.lo f.len) ∧
    ∀ i, (∀ f ∈ d.fields, i < f.lo ∨ f.lo + f.len ≤ i) → (regWritten d old new).testBit i = old.testBit i

/-- The paths of the MCI commands. A path the steward does not hear has no effect; a mailbox or the sideband answers an
input it cannot take with a CXL return code, and a second background command with Busy; a work-ring entry ends with
LENGTH or RESERVED; then the authority of the path and the common statuses are judged, DENIED setting
MB_INT_STATUS.DENIED; an accepted command runs its handler and is answered on its path (R379, R380, R383, R386, R403).
How a command is handed over and answered: a STEWARD entry whose buffers lie in reachable objects and are resident is
handed to the steward with its input read; an answer on a ring is written to its buffer, or ends with LENGTH; on a
mailbox it is sent, or, for a background command, stands until that completes, with the interrupt that its mailbox may ask for (R383, R385, R386, R397; log entry 150). -/
def Obligations.CommandPaths : Prop :=
  (∀ (s : State) (via : Path) (op : Nat) (input : List Byte) (h : Handler),
    (stewardHears s via = false → mci s via op input h = s) ∧
    (stewardHears s via = true → (∀ c, via ≠ .ring c) → returnCode op input ≠ 0 →
      mci s via op input h = s.reply via (BitVec.ofNat 16 (returnCode op input)) []) ∧
    (∀ c, via = .ring c → stewardHears s via = true →
      (handed s c op input = none → mci s via op input h = s) ∧
      ∀ f, handed s c op input = some f → returnCode op input ≠ 0 →
        mci s via op input h = endSteward (beginFlight s c f.tag) c f.tag (if returnCode op input = 0x16 then 0x1B else 0x10) []) ∧
    (∀ p b, via = .mailbox p b → stewardHears s via = true → returnCode op input = 0 → op ∈ backgroundOps →
      (mbox s p b).bg.isSome = true → mci s via op input h = s.reply via 6 []) ∧
    (∀ a tag row, reachesSteward s via op input = some (a, tag) → mciRow op = some row →
      (classAccepts a row.cls via = false →
        mci s via op input h = answer (setInt a 10 2) via tag op 0x11 []) ∧
      (classAccepts a row.cls via = true → row.cls = .context → pathCtx a via = none →
        mci s via op input h = answer a via tag op 0x14 []) ∧
      (∀ c, classAccepts a row.cls via = true → row.cls = .context → pathCtx a via = some c →
        (a.rv.outOfService = true → op ∈ outOfServiceOps → mci s via op input h = answer a via tag op 0x17 []) ∧
        (a.rv.outOfService = false →
          (tenantPath a via = true → (a.ctx c).expired = true → mci s via op input h = answer a via tag op 0x15 []) ∧
          ((a.ctx c).expired = false → (a.ctx c).quarantined = true → op ∉ quarantineOps →
            mci s via op input h = answer a via tag op 0x16 [])))) ∧
    (∀ a m, Accepted s via op input a m → mci s via op input h = finish m op (h a m))) ∧
  (∀ (s : State) (c : Ctx) (e : Line) (a : State) (tag : Word),
    (takeEntry s c e 16 = .taken a tag →
      ((nmRuns e).all (fun r => reachesRun a c r.1 r.2) = false →
        exec (.steward c e) s = .next (endFlight a c tag 16 0x11 [])) ∧
      ((nmRuns e).all (fun r => reachesRun a c r.1 r.2) = true → (runPids a (nmRuns e)).any (fun p => pageMissing a p || pageWaits a p) = false →
        exec (.steward c e) s = .next (unpinPages (nmAct a c e) (cmdPin c (BitVec.ofNat 32 (entryField e 4 4)))))) ∧
    (∀ op st out f, (s.ctx c).ring.flights.find? (fun f => f.steward && f.tag == tag && f.begun && f.ended.isNone) = some f →
      let bs := leBytes 2 st ++ [0, 0] ++ (if st = 0 then out else [])
      let b := s.bump 0xA0018 1
      (f.outLen < bs.length → answer s (.ring c) tag op st out = endFlight b c tag 16 0x1B [0]) ∧
      (bs.length ≤ f.outLen →
        answer s (.ring c) tag op st out = endFlight (writeBytes b (stewardOf c tag) f.outAddr bs) c tag 16 st (w1 bs.length))) ∧
    (∀ (n : Fin 2) op st out, answer s (.sideband n) tag op st out =
      (s.bump 0xA0018 1).reply (.sideband n) 0 (leBytes 2 st ++ [0, 0] ++ (if st = 0 then out else []))) ∧
    (∀ (p : Port) (b : Bool) op st out,
      let bs := leBytes 2 st ++ [0, 0] ++ (if st = 0 then out else [])
      (op ∈ backgroundOps → answer s (.mailbox p b) tag op st out = (s.bump 0xA0018 1).modMbox p b (fun m => { m with
        bg := m.bg.map (fun g => { g with output := bs, done := true }) })) ∧
      (op ∉ backgroundOps → tag = 0 → answer s (.mailbox p b) tag op st out =
        (s.bump 0xA0018 1).reply (.mailbox p b) 0 bs) ∧
      ∀ g, (mbox s p b).bg = some g →
        (g.done = false → exec (.backgroundCommandComplete p b) s = .next s) ∧
        (g.done = true →
          (let t := s.modMbox p b (fun m => { m with bg := none, discard := false })
           exec (.backgroundCommandComplete p b) s =
            .next (if (mbox s p b).discard then t else
              let u := t.emit (.mailbox (.mailbox p b) 0 g.output)
              if (mbox s p b).bgInt then sendMsix u (.pf p) (b2n b) else u)))))

/-- CUE, taken with the entry `e`: the checks of R51 in their order refuse it with their status; otherwise it is armed,
with the start frame of its notch, or, when that start is too early to be met and the late flag is set, with the earliest
one, EV_NOTCH_MISSED saying so; without the flag it ends with NOTCH_MISSED. An armed cue gets the next epoch (R50 to R52, R132). -/
def Obligations.CueChecksAndArming : Prop :=
  ∀ (s : State) (c : Ctx) (e : Line) (a : State) (tag : Word), takeEntry s c e 1 = .taken a tag →
    let f := entryField e
    (cuesAccepted a = false → exec (.cue c e) s = .next (endFlight a c tag 1 0x19 [])) ∧
    (cuesAccepted a = true →
      ((mget? a.bindings (f 8 4) = none ∨ ∃ b, mget? a.bindings (f 8 4) = some b ∧ b.ctx ≠ c) →
        exec (.cue c e) s = .next (endFlight a c tag 1 0x26 [])) ∧
      ∀ b p, mget? a.bindings (f 8 4) = some b → b.ctx = c →
        (b.quarantined = true → exec (.cue c e) s = .next (endFlight a c tag 1 0x16 [])) ∧
        (b.quarantined = false → mget? a.patterns b.pattern = some p →
          let grace := if f 12 2 = 0xFFFF then a.fieldOf 0x20024 0 11 else f 12 2
          let late := bit (f 2 1) 1
          let want := startOf (f 16 8)
          let early := earliestStart a
          let start := if want < early ∧ late = true then early else want
          let q : Cue := { ctx := c, tag := tag, binding := f 8 4, grace := grace, notch := f 16 8, seed := BitVec.ofNat 32 (f 24 4), late := late, gen := 0, start := start }
          let st := if modeSet (modeAt a start) ≠ p.tset then 0x20
            else if bit p.modeMask.toNat (modeAt a start) = false then 0x21
            else if a.ft.time.toNat + 60000000000 < f 16 8 then 0x22
            else if startInChange a start then 0x20
            else if b.cmap.any (fun k => decide (32 ≤ armedIn a k)) then 0x23
            else if slotConflict a b p (runAt a start) (runAt a start + p.length + grace) then 0x24
            else 0
          (st ≠ 0 → exec (.cue c e) s = .next (endFlight a c tag 1 st [])) ∧
          (st = 0 →
            (early ≤ want → exec (.cue c e) s = .next (armCue a q)) ∧
            (want < early → late = true → exec (.cue c e) s = .next (armCue (notchMissed a q want early early) q)) ∧
            (want < early → late = false →
              exec (.cue c e) s = .next (endFlight (notchMissed a q want early 0) c tag 1 0x25 []))))) ∧
    ∀ q : Cue, armCue a q = { a with
      cues := mput a.cues a.nextCue { q with epoch := nextEpoch a 65536 a.epoch, gen := (a.ctx q.ctx).gen, armedAt := a.ft.run }
      nextCue := a.nextCue + 1
      epoch := nextEpoch a 65536 a.epoch }

/-- PROMOTE, EVICT and FLUSH, taken: the checks of R169 in their order; then a PROMOTE acts at the boundary of its notch, a
FLUSH at the next boundary, and an EVICT is applied to the object's mover at once, with its frame (R165, R169). -/
def Obligations.PageCommands : Prop :=
  ∀ (s : State) (c : Ctx) (e : Line) (a : State) (tag : Word),
    let f := entryField e
    let n := f 8 4
    let promoted : MoverCmd := { ctx := some c, tag := tag, opcode := 2, first := f 16 4, count := f 12 4, notch := f 32 8, need := if f 32 8 = 0 ∨ notchFrame (f 32 8) ≤ frameNo a then none else some (notchFrame (f 32 8)) }
    let flushed : MoverCmd := { ctx := some c, tag := tag, opcode := 4, first := f 16 4, count := f 12 4 }
    (takeEntry s c e 2 = .taken a tag →
      (tierCheck a c n true true (f 16 4) (f 12 4) ≠ 0 →
        exec (.promote c e) s = .next (endFlight a c tag 2 (tierCheck a c n true true (f 16 4) (f 12 4)) [])) ∧
      (tierCheck a c n true true (f 16 4) (f 12 4) = 0 → exec (.promote c e) s = .next { a with
        scheduled := a.scheduled ++ [(notchFrame (f 24 8), n, promoted)] })) ∧
    (takeEntry s c e 4 = .taken a tag →
      (tierCheck a c n true false (f 16 4) (f 12 4) ≠ 0 →
        exec (.flush c e) s = .next (endFlight a c tag 4 (tierCheck a c n true false (f 16 4) (f 12 4)) [])) ∧
      (tierCheck a c n true false (f 16 4) (f 12 4) = 0 → exec (.flush c e) s = .next { a with
        scheduled := a.scheduled ++ [(0, n, flushed)] })) ∧
    (takeEntry s c e 3 = .taken a tag →
      (tierCheck a c n false false 0 0 ≠ 0 →
        exec (.evict c e) s = .next (endFlight a c tag 3 (tierCheck a c n false false 0 0) [])) ∧
      (tierCheck a c n false false 0 0 = 0 → exec (.evict c e) s = .next (evictEvent a c n
        { ctx := some c, tag := tag, opcode := 3, notch := f 16 8 } (decide (frameNo a < notchFrame (f 16 8))) (notchFrame (f 16 8))))) ∧
    ∀ (range pin : Bool) (first count : Nat),
      (cuesAccepted a = false → tierCheck a c n range pin first count = 0x19) ∧
      (cuesAccepted a = true → objAt a n = none → tierCheck a c n range pin first count = 0x50) ∧
      ∀ o, cuesAccepted a = true → objAt a n = some o →
        (reaches a c o = false → tierCheck a c n range pin first count = 0x11) ∧
        (reaches a c o = true → range = true → count ≠ 0 → o.pages < first + count → tierCheck a c n range pin first count = 0x12) ∧
        (reaches a c o = true → (range = false ∨ count = 0 ∨ first + count ≤ o.pages) →
          (pin = true → hasPin a c n = false → c.val * 0x1000000 + n ∉ pinsComing a → 1048576 ≤ a.pins.length + (pinsComing a).length → tierCheck a c n range pin first count = 0x57) ∧
          (pin = false ∨ hasPin a c n = true ∨ c.val * 0x1000000 + n ∈ pinsComing a ∨ a.pins.length + (pinsComing a).length < 1048576 → tierCheck a c n range pin first count = 0))

/-- The near-memory operations, taken: addresses and lengths that are not multiples of the unit, and the overlapping runs
of a copy, end with RANGE, runs outside the context's grants with DENIED; an operation that misses pages fetches and pins
them and waits; otherwise NM_FILL writes its pattern, NM_COPY each line with its poison, NM_COMPARE reports the first
difference, NM_REDUCE the reduction of R93 in ascending order, and NM_ATOMIC applies its operation (R94, R195, R398). -/
def Obligations.NearMemoryOperations : Prop :=
  ∀ (s : State) (c : Ctx) (e : Line) (a : State) (tag : Word) (op : Nat),
    let i := fun (n : Nat) => match n with
      | 8 => Instr.nmFill c e
      | 9 => .nmCopy c e
      | 10 => .nmCompare c e
      | 11 => .nmReduce c e
      | _ => .nmAtomic c e
    let f := entryField e
    op ∈ [8, 9, 10, 11, 12] → takeEntry s c e op = .taken a tag → entryOp e = op →
    (nmRange e = true → exec (i op) s = .next (endFlight a c tag (BitVec.ofNat 16 op) 0x12 [])) ∧
    (nmRange e = false → (nmRuns e).all (fun r => r.2 == 0 || grantedRun a c r.1 r.2) = false →
      exec (i op) s = .next (endFlight a c tag (BitVec.ofNat 16 op) 0x11 [])) ∧
    (nmRange e = false → (nmRuns e).all (fun r => r.2 == 0 || grantedRun a c r.1 r.2) = true →
      let key := cmdPin c (BitVec.ofNat 32 (f 4 4))
      let t : Word := BitVec.ofNat 32 (f 4 4)
      ((runPids a (nmRuns e)).any (fun p => pageMissing a p || pageWaits a p) = true → ∃ b, b = pinPages (fetchMissing a (runPids a (nmRuns e))) key (runPids a (nmRuns e)) ∧
        exec (i op) s = .next { b with nmWaits := b.nmWaits ++ [(c, e)] }) ∧
      ((runPids a (nmRuns e)).any (fun p => pageMissing a p || pageWaits a p) = false →
        (op = 8 → exec (i op) s = .next (unpinPages (nmFillRun a c t (f 8 8) (f 16 8) (f 24 8)) key)) ∧
        (op = 9 → exec (i op) s = .next (unpinPages (nmCopyRun a c t (f 8 8) (f 16 8) (f 24 8)) key)) ∧
        (op = 10 →
          let r := nmCompareGo a c t (f 8 8) (f 16 8) (f 24 8 / 64) 0
          exec (i op) s = .next (unpinPages (endFlight r.1 c t 10 r.2.1 (w2 r.2.2)) key)) ∧
        (op = 11 → exec (i op) s = .next (unpinPages (nmReduceRun a c t (f 8 8) (f 16 8) (f 24 1) (f 25 1)) key)) ∧
        (op = 12 →
          let n := if f 17 1 = 0 then 4 else 8
          exec (i op) s = .next (unpinPages (deviceReq a (walkerOf c t) (f 8 8) (leBytes n (f 24 8)) (f 16 1) (leBytes n (f 32 8)) false) key)))) ∧
    (∀ x dest pat,
      let line := (List.range 8).flatMap (fun _ => leBytes 8 pat)
      (dest % 256 = 0 → nmFillRun x c tag dest 256 pat =
        endFlight (deviceGranule x (walkerOf c tag) dest (line ++ line ++ line ++ line) [] (crc32c (line ++ line ++ line ++ line))) c tag 8 0 (w2 256)) ∧
      (dest % 64 = 0 → nmFillRun x c tag dest 64 pat = endFlight (deviceReq x (walkerOf c tag) dest line 255 [] false) c tag 8 0 (w2 64))) ∧
    (∀ x src dest, nmCopyRun x c tag src dest 64 =
      let r := nmRead x c tag src
      endFlight (deviceReq r.1 (walkerOf c tag) dest r.2.1 255 [] r.2.2) c tag 9 (if r.2.2 then 1 else 0) (w2 64 ++ w1 (b2n r.2.2))) ∧
    (∀ src, nmReduceRun a c tag src 0 0 0 = endFlight a.tick c tag 11 0 [Config.freeWord a.free]) ∧
    (∀ (g : Nat → Nat → Nat) (x0 x1 x2 x3 : Nat), treeLevel g [x0, x1, x2, x3] = [g x0 x1, g x2 x3])

/-- Swaps. Without SWAP_GRANT, with Bus Master Enable clear or with a range that is misaligned or not wholly in own
objects outside windows they are refused with no page moved; SWAP_IN asks for the first 4,096 bytes of the host, each
completion's data is written, and the next read follows until all pages have come; a completion with an error status or a
timeout ends it, reporting the whole pages moved; SWAP_OUT runs once its pages are resident (R346, R347, R399). -/
def Obligations.Swaps : Prop :=
  ∀ (s : State) (c : Ctx) (e : Line) (a : State) (tag : Word),
    let f := entryField e
    let bad := f 8 8 % 4096 ≠ 0 ∨ f 16 8 % 65536 ≠ 0 ∨ swapRange a c (f 16 8) (f 24 4) = false
    ((a.ctx c).swapGrant = false → swapStatus a c e = 0x73) ∧
    ((a.ctx c).swapGrant = true → (a.ctx c).bme = false → swapStatus a c e = 0x90) ∧
    ((a.ctx c).swapGrant = true → (a.ctx c).bme = true → (bad → swapStatus a c e = 0x12) ∧ (¬ bad → swapStatus a c e = 0)) ∧
    (takeEntry s c e 13 = .taken a tag →
      (swapStatus a c e ≠ 0 → exec (.swapIn c e) s = .next (endFlight a c tag 13 (swapStatus a c e) [0])) ∧
      (swapStatus a c e = 0 → f 24 4 ≠ 0 → ∃ t, exec (.swapIn c e) s = .next t ∧ t = { a with
        upstream := a.upstream ++ [{ ctx := c, tag := tag, host := f 8 8, dev := f 16 8, pages := f 24 4 }]
        out := a.out ++ [.upRead c (BitVec.ofNat 64 (f 8 8)) 4096 tag] }) ∧
      (swapStatus a c e = 0 → f 24 4 = 0 → exec (.swapIn c e) s = .next (endFlight a c tag 13 0 [0]))) ∧
    (takeEntry s c e 14 = .taken a tag →
      (swapStatus a c e ≠ 0 → exec (.swapOut c e) s = .next (endFlight a c tag 14 (swapStatus a c e) [0])) ∧
      (swapStatus a c e = 0 → entryOp e = 14 → (runPids a (nmRuns e)).any (fun p => pageMissing a p || pageWaits a p) = false →
        exec (.swapOut c e) s = .next (unpinPages (swapOutRun a c (BitVec.ofNat 32 (f 4 4)) (f 8 8) (f 16 8) (f 24 4))
          (cmdPin c (BitVec.ofNat 32 (f 4 4)))))) ∧
    (∀ (good ep : Bool) (data : List Line), swapOf s c tag = none →
      exec (.upstreamCompletion c tag good ep data) s = .next s ∧ exec (.upstreamCompletionTimeout c tag) s = .next s) ∧
    (∀ (u : Upstream), swapOf s c tag = some u →
      exec (.upstreamCompletionTimeout c tag) s =
        .next (endFlight { s with upstream := s.upstream.erase u } u.ctx u.tag 13 0x92 [BitVec.ofNat 32 (u.moved / 65536)]) ∧
      (∀ ep data, exec (.upstreamCompletion c tag false ep data) s =
        .next (endFlight { s with upstream := s.upstream.erase u } u.ctx u.tag 13 0x91 [BitVec.ofNat 32 (u.moved / 65536)])) ∧
      ∀ ep data,
        let n := min data.length ((4096 - u.moved % 4096) / 64)
        let v := { u with moved := u.moved + 64 * n }
        let b := foldN n (fun i x => deviceWrite x (walkerOf u.ctx u.tag) (u.dev + u.moved + 64 * i) (lineBytes (data.getD i 0)) ep) s
        let d : State := { b with upstream := b.upstream.map (fun x => if x == u then v else x) }
        (v.moved = v.pages * 65536 → exec (.upstreamCompletion c tag true ep data) s = .next (endSwap d v 0)) ∧
        (v.moved ≠ v.pages * 65536 → v.moved % 4096 = 0 → exec (.upstreamCompletion c tag true ep data) s =
          .next (d.emit (.upRead v.ctx (BitVec.ofNat 64 (v.host + v.moved)) 4096 v.tag))) ∧
        (v.moved ≠ v.pages * 65536 → v.moved % 4096 ≠ 0 → exec (.upstreamCompletion c tag true ep data) s = .next d))

/-- The link codecs. CODEC_OPEN makes a channel with its reference; CODEC_CLOSE frees an idle channel at once and waits
for the others' commands; CODEC_IN, CODEC_OUT and CODEC_EXCHANGE, taken, are refused under R173, R197 and R198 or queued
behind the channel's commands; a piece whose pages are not resident fetches them; otherwise the next piece is decoded
into the object, or encoded and sent, and a piece that the buffer cannot hold ends its command (R181, R187 to R198). -/
def Obligations.CodecCommands : Prop :=
  ∀ (s : State) (via : Path) (input : List Byte) (a : State) (m : MciCall),
    (∀ o r, Accepted s via 0xC060 input a m → codecOn a = true → reachObject a m (m.f 0 4) = .ok o → xformBad m = false →
      openRef a m o = .ok (r, none) → chansWhere a (fun x => x.ctx == m.c) < 16 →
      chansWhere a (fun x => ctxPort x.ctx == ctxPort m.c) < 256 →
      let x : CodecChan := { ctx := m.c, object := m.f 0 4, out := m.f 4 1 == 1, xform := m.f 5 1, refKind := m.f 6 1, sr := m.f 7 1 == 1, refObj := r, refView := none, seed := BitVec.ofNat 32 (m.f 20 4) }
      exec (.codecOpen via input) s = .next (answer { a with chanCodec := mput a.chanCodec a.nextChan x, nextChan := a.nextChan + 1 }
        via m.tag 0xC060 0 (leBytes 4 a.nextChan))) ∧
    (∀ x, Accepted s via 0xC061 input a m → chanOf a (m.f 0 4) = some x → x.ctx = m.c → x.closing = none → leaving a (some m.c) x.object = false →
      (x.jobs = [] → exec (.codecClose via input) s = .next (answer (freeChan a (m.f 0 4)) via m.tag 0xC061 0 [])) ∧
      (x.jobs ≠ [] → exec (.codecClose via input) s =
        .next (a.modCodec (m.f 0 4) (fun x => { x with closing := some (m.via, m.tag) })))) ∧
    (∀ (c : Ctx) (e : Line) (tag : Word),
      let run := fun (op : Nat) (i : Instr) =>
        takeEntry s c e op = .taken a tag → entryOp e = op →
        (codecStatus a c e ≠ 0 → exec i s = .next (endFlight a c tag (BitVec.ofNat 16 op) (codecStatus a c e) [])) ∧
        ∀ x, codecStatus a c e = 0 → chanOf a (entryField e 8 4) = some x → entryField e 24 8 ≠ 0 →
          let j : CodecJob := { tag := tag, opcode := op, offset := entryField e 16 8, length := entryField e 24 8, bufAddr := entryField e 32 8, bufLen := entryField e 40 8, seq := x.seq, act := if op = 7 then max (notchFrame (entryField e 48 8)) (frameNo a + 1) else 0 }
          exec i s = .next ((a.modCodec (entryField e 8 4) (fun x => { x with
            seq := x.seq + 1, named := if op = 5 then x.named else [] })).modCodec (entryField e 8 4) (fun x => { x with jobs := x.jobs ++ [j] }))
      run 5 (.codecIn c e) ∧ run 6 (.codecOut c e) ∧ run 7 (.codecExchange c e)) ∧
    (∀ (k : Word) x j o, readyJob s k.toNat = some (x, j) → objAt s x.object = some o →
      let waits := (piecePids s x j).any (fun p => pageMissing s p || pageWaits s p)
      (j.opcode = 5 → waits = true →
        exec (.pieceDecode k) s = .next (fetchPiece s k.toNat x j (piecePids s x j))) ∧
      (j.opcode = 5 → waits = false →
        exec (.pieceDecode k) s = .next (nextPiece (decodeAt s k.toNat x j o).1 k.toNat (decodeAt s k.toNat x j o).2)) ∧
      (j.opcode ≠ 5 → waits = true →
        exec (.pieceEncode k) s = .next (fetchPiece s k.toNat x j (piecePids s x j))) ∧
      (j.opcode ≠ 5 → waits = false →
        let n := min 4096 (j.length - j.pos)
        let off := j.offset + j.pos
        let pid := pidOf s o.head (off / 65536)
        let r := readLines s x.ctx j.tag (orderOf s o) pid (o.base + off) (n / 64)
        let q := if xformRef x.xform then readRef r.1 x j n else (r.1, List.replicate n 0, 0)
        let poison := (BitVec.ofNat 64 r.2.2 ||| BitVec.ofNat 64 q.2.2).toNat
        let p := encodeAt x j r.2.1 q.2.1 poison (takenSeals q.1 pid (o.base + off) r.2.1)
        let size := p.piece.bytes.length
        (j.bufLen < j.packed + size → exec (.pieceEncode k) s = .next (endJob q.1 k.toNat 0x72)) ∧
        (j.packed + size ≤ j.bufLen →
          let w := sendPiece q.1 x j p.piece.bytes
          let h := match x.refKind, objAt w x.refObj with
            | 2, some h => writePosition w x j h.base p.bytes poison p.seals
            | _, _ => w
          let d := (h.bump 0x40030 n 64 (ctxPort x.ctx).val).bump 0x40038 size 64 (ctxPort x.ctx).val
          exec (.pieceEncode k) s = .next (nextPiece (noteTables d k.toNat p.piece) k.toNat
            { j with pos := j.pos + n, packed := j.packed + size, pieces := j.pieces + 1 }))))

/-- The tiering engine. The next page move is one that may start and that no other such move precedes in kind; the sweep
clears the reference bits; a flash read ends with the reconstructions it took; a stripe closes, is programmed on every
array position and frees its writers; a mover whose moves are done goes on; a zero fill gives its frame back; a draft's copy
ends once its base is resident; garbage collection moves the live records of a stripe into a new one (R65, R151, R156, R161 to
R164, R217, R224, R306 to R310). -/
def Obligations.TieringEngine : Prop :=
  ∀ s : State,
    (domOn s 78 = true → nextMove s = none → exec .pageMoveStart s = .next s) ∧
    (∀ n x, domOn s 78 = true → nextMove s = some (n, x) →
      exec .pageMoveStart s = .next (pagesChanged (startMove s n x)) ∧
      ∀ o ∈ s.objects, ∀ y ∈ o.2.mover.moves, startable s o.2.mover y = true → moveRank x.kind ≤ moveRank y.kind) ∧
    (domOn s 78 = true → exec .referenceBitSweep s = .next (pressureAll { s with
      pages := s.pages.map (fun x => (x.1, if x.2.refBit then { x.2 with refBit := false, swept := s.ft.run } else x.2)) })) ∧
    (domOn s 78 = false → exec .pageMoveStart s = .next s ∧ exec .referenceBitSweep s = .next s) ∧
    (∀ (pid : Nat) (unc : BitVec 8) (h : FlashPage), (pageAt s pid).st = .fetching → (pageAt s pid).copyOf = none →
      (pageAt s pid).home = some h →
      (pageWaits s pid = true → exec (.flashReadComplete pid unc) s = .next s) ∧
      (pageWaits s pid = false →
      let d := degraded s h unc
      let b := s.bump 0x80038 d.1
      let g : State := if unc = 0 ∨ d.2 = true then b
        else { b with stripes := mmod { pids := [] } b.stripes h.stripe (fun x => { x with bad := x.bad ||| unc }) }
      exec (.flashReadComplete pid unc) s =
        .next (pagesChanged (endMove (readComplete g pid d.2).1 pid true (readComplete g pid d.2).2 true)))) ∧
    (∀ n x, openStripe s = some (n, x) → exec .stripeCloseTimeout s =
      .next { s with stripes := mput s.stripes n { x with closed := true } }) ∧
    (∀ (n : BitVec 48) x, mget? s.stripes n.toNat = some x → x.closed = true → x.programmed = false → arrayBroken s = false →
      exec (.stripeProgramComplete n) s = .next (pagesChanged (x.pids.foldl (fun t p => writeEnds t n.toNat p)
        (countShares { s with stripes := mput s.stripes n.toNat { x with programmed := true, shares := programMask s } })))) ∧
    (∀ (n : BitVec 24) o, objAt s n.toNat = some o →
      (o.mover.st = .promoting → o.mover.moves.any (fun x => isFetch x.kind) = false →
        exec (.moverMovesDone n) s = .next (moverIdle (endPromos s n.toNat) n.toNat)) ∧
      (o.mover.st = .evicting → o.mover.targets = [] → o.mover.moves.any (fun x => x.kind == .evict) = false →
        exec (.moverMovesDone n) s = .next (moverIdle (endEvict s n.toNat 0) n.toNat)) ∧
      (∀ f fs, o.mover.st = .flushing → o.mover.moves.any (fun x => x.kind == .flush) = false → o.mover.flushes = f :: fs →
        exec (.moverMovesDone n) s = .next (moverIdle ((endMoverCmd s f 0 (w1 f.n1 ++ w1 f.n2)).modMover n.toNat (fun m => { m with
          flushes := fs })) n.toNat))) ∧
    (∀ (k : CoreId) (f : Fin 8192), mget? s.frames (k.val * 8192 + f.val) = some .dirtyFree →
      let fr := k.val * 8192 + f.val
      (stackWaits s (frameStack fr) = true → exec (.frameZeroFillDone k f) s = .next s) ∧
      (stackWaits s (frameStack fr) = false →
        (mget? s.windowDirty fr = none → exec (.frameZeroFillDone k f) s =
          .next ((pageTraffic { s with frames := mdel s.frames fr, windowDirty := mdel s.windowDirty fr } 0 fr true).zeroFrame fr false)) ∧
        ∀ dev, mget? s.windowDirty fr = some dev →
          (heldLines (recallFill s dev) dev ≠ [] → exec (.frameZeroFillDone k f) s = .next (recallFill s dev)) ∧
          (heldLines s dev = [] → exec (.frameZeroFillDone k f) s =
            .next ((pageTraffic { s with frames := mdel s.frames fr, windowDirty := mdel s.windowDirty fr } 0 fr true).zeroFrame fr false)))) ∧
    (∀ (pid b : Nat), (pageAt s pid).copyOf = some b →
      let waits := pageMissing s b || pageWaits s b || pageWaits s pid
      (waits = true → exec (.cowCopyComplete pid) s = .next s) ∧
      (waits = false → exec (.cowCopyComplete pid) s = .next (pagesChanged (copyComplete s pid)))) ∧
    (∀ (n : BitVec 48) x, mget? s.stripes n.toNat = some x → x.programmed = true → arrayBroken s = false →
      (∀ p ∈ x.pids, ∀ h, (pageAt s p).newHome = some h → h.stripe ≠ n.toNat) →
      (livePids s n.toNat = [] →
        exec (.garbageCollection n) s = .next { s.bump 0x80038 0 with stripes := mdel s.stripes n.toNat }) ∧
      (livePids s n.toNat ≠ [] →
        (∀ p ∈ livePids s n.toNat, ∃ h, (pageAt s p).home = some h ∧ (degraded s h 0).2 = false) →
        let y : Stripe := { pids := livePids s n.toNat, bytes := ((livePids s n.toNat).map (fun p => ((pageAt s p).home.map (fun h => h.units * 4096)).getD 0)).sum, first := s.ft.run, closed := true, programmed := true, shares := programMask s }
        ∃ t, exec (.garbageCollection n) s = .next t ∧ t.stripes = mput (mdel s.stripes n.toNat) s.nextStripe y ∧
          t.nextStripe = s.nextStripe + 1 ∧ t.dram = s.dram ∧ t.frames = s.frames ∧ t.objects = s.objects))

/-- Patterns and bindings. PAT_LOAD of a resident, readable container that passes the checks of R137 stores the pattern under
the next number; PAT_UNLOAD removes one that no binding names; PAT_BIND whose map, power, stores and objects suit makes the
next binding; PAT_UNBIND removes a binding that no cue names; the others give the status of the first check that fails
(R64, R137 to R139, R402). A container compiled for a set that an accepted change leaves gives TIMING_SET, and a half that it
switches off counts as off (log entry 128). -/
def Obligations.PatternCommands : Prop :=
  ∀ (s : State) (via : Path) (input : List Byte) (a : State) (m : MciCall),
    (Accepted s via 0xC010 input a m →
      (grantedRun a m.c (m.f 0 8) (m.f 8 4) = false → exec (.patLoad via input) s = .next (answer a via m.tag 0xC010 0x12 [])) ∧
      (grantedRun a m.c (m.f 0 8) (m.f 8 4) = true →
        let pids := runPids a [(m.f 0 8, m.f 8 4)]
        let r := devBytes a (stewardOf m.c m.tag) (m.f 0 8) (m.f 8 4)
        let waits := pids.any (fun p => pageMissing a p || pageWaits a p)
        (waits = true → exec (.patLoad via input) s = .next { fetchMissing a pids with
          lockWaits := a.lockWaits ++ [(0xC010, m)] }) ∧
        (waits = false →
          (r.2.2 = true → exec (.patLoad via input) s = .next (answer r.1 via m.tag 0xC010 0x31 [])) ∧
          (r.2.2 = false →
            (formatOk r.2.1 = false → exec (.patLoad via input) s = .next (answer r.1 via m.tag 0xC010 0x30 [])) ∧
            (formatOk r.2.1 = true → crcOk r.2.1 = false → exec (.patLoad via input) s = .next (answer r.1 via m.tag 0xC010 0x31 [])) ∧
            (formatOk r.2.1 = true → crcOk r.2.1 = true → limitsOk r.2.1 = false →
              exec (.patLoad via input) s = .next (answer r.1 via m.tag 0xC010 0x32 [])) ∧
            (formatOk r.2.1 = true → crcOk r.2.1 = true → limitsOk r.2.1 = true →
              let p := readPattern r.2.1 m.ctx
              (loadStatus p ≠ 0 → exec (.patLoad via input) s = .next (answer r.1 via m.tag 0xC010 (loadStatus p) [])) ∧
              (loadStatus p = 0 → leavesSet r.1 p.tset = true → exec (.patLoad via input) s = .next (answer r.1 via m.tag 0xC010 0x20 [])) ∧
              (loadStatus p = 0 → leavesSet r.1 p.tset = false → 1024 ≤ r.1.patterns.length → exec (.patLoad via input) s = .next (answer r.1 via m.tag 0xC010 0x39 [])) ∧
              (loadStatus p = 0 → leavesSet r.1 p.tset = false → r.1.patterns.length < 1024 → exec (.patLoad via input) s = .next (answer { r.1 with
                patterns := mput r.1.patterns r.1.nextPattern p, nextPattern := r.1.nextPattern + 1 }
                via m.tag 0xC010 0 (leBytes 4 r.1.nextPattern))))))) ) ∧
    (Accepted s via 0xC011 input a m →
      (patternFor a m (m.f 0 4) = none → exec (.patUnload via input) s = .next (answer a via m.tag 0xC011 0x3A [])) ∧
      ∀ p, patternFor a m (m.f 0 4) = some p →
        (a.bindings.any (fun b => b.2.pattern == m.f 0 4) = true → exec (.patUnload via input) s = .next (answer a via m.tag 0xC011 0x13 [])) ∧
        (a.bindings.any (fun b => b.2.pattern == m.f 0 4) = false → exec (.patUnload via input) s =
          .next (answer { a with patterns := mdel a.patterns (m.f 0 4) } via m.tag 0xC011 0 []))) ∧
    (Accepted s via 0xC012 input a m → ∀ p, patternFor a m (m.f 0 4) = some p →
      let cmap := inputMap m 8 p.clusters
      let b : Binding := { pattern := m.f 0 4, ctx := m.c, cmap := cmap, bound := [] }
      let ks := placement b p
      let bs := (List.range p.regions.length).map (fun i =>
        boundOf a m (m.f 0 4) p cmap i (p.regions.getD i ⟨0, false, false, false, 0, 0⟩) (m.f (32 + 4 * i) 4))
      mapOk p cmap = true → (∀ k, p.clusters ≤ k → k < 20 → m.f (8 + k) 1 = 0xFF) →
      (∀ k ∈ ks, domOn a (k / 64) = true ∧ ∀ j, a.pw.job = some j → modeHalf j.mode (k / 64) = true) →
      (∀ i c, p.cores[i]? = some c → codeUsed a (ks.getD i 0) + c.code.length ≤ 4096) →
      (∀ l < p.clusters, claimsUsed a (cmap.getD l 0) + claimsIn p l ≤ 65536) → m.f 4 1 = p.regions.length →
      (∀ e ∈ bs, ∃ y, e = .ok y) → a.bindings.length < 4096 → (∀ k ∈ cmap, bindingsIn a k < 64) →
      exec (.patBind via input) s = .next (answer { a with
        bindings := mput a.bindings a.nextBinding { b with bound := bs.filterMap (fun x => match x with | .ok y => some y | .error _ => none) }
        nextBinding := a.nextBinding + 1
        recompute := Nat.lor a.recompute 8 } via m.tag 0xC012 0 (leBytes 4 a.nextBinding))) ∧
    (Accepted s via 0xC013 input a m → ∀ b, mget? a.bindings (m.f 0 4) = some b → (m.owner = true ∨ m.ctx = some b.ctx) →
      (cueNames a (m.f 0 4) = true → exec (.patUnbind via input) s = .next (answer a via m.tag 0xC013 0x13 [])) ∧
      (cueNames a (m.f 0 4) = false → exec (.patUnbind via input) s = .next (answer { a with
        bindings := mdel a.bindings (m.f 0 4), recompute := Nat.lor a.recompute 8 } via m.tag 0xC013 0 [])))

/-- Objects, the order of the range, and windows: each command's success, under the conditions that its rule gives, and its
refusals of a missing or foreign object, and of one that is being released from the caller (R143, R146, R147, R168, R207, R211, R212, R220, R240, R241). -/
def Obligations.ObjectCommands : Prop :=
  ∀ (s : State) (via : Path) (input : List Byte) (a : State) (m : MciCall),
    let n := m.f 0 4
    (Accepted s via 0xC020 input a m →
      (∀ st, newObject a m = .error st → exec (.objCreate via input) s = .next (answer a via m.tag 0xC020 st [])) ∧
      ∀ o, newObject a m = .ok o →
        (createObject a o = none → exec (.objCreate via input) s = .next (answer a via m.tag 0xC020 0x55 [])) ∧
        ∀ t k, createObject a o = some (t, k) → exec (.objCreate via input) s = .next (answer t via m.tag 0xC020 0 (leBytes 4 k))) ∧
    (∀ op i, (op, i) ∈ [(0xC021, Instr.objDelete via input), (0xC022, .objSetClass via input), (0xC023, .objQuery via input),
        (0xC030, .winCreate via input), (0xC040, .verInit via input)] → Accepted s via op input a m →
      (objAt a n = none → exec i s = .next (answer a via m.tag op 0x50 [])) ∧
      ∀ o, objAt a n = some o →
        (ownsObj m o = false → exec i s = .next (answer a via m.tag op 0x51 [])) ∧
        (ownsObj m o = true → leaving a m.ctx n = true → exec i s = .next (answer a via m.tag op 0x11 []))) ∧
    (∀ o, objAt a n = some o → ownsObj m o = true → leaving a m.ctx n = false →
      (Accepted s via 0xC021 input a m →
        (o.mover.st ≠ .idle ∨ objBound a n = true → exec (.objDelete via input) s = .next (answer a via m.tag 0xC021 0x13 [])) ∧
        (o.mover.st = .idle → objBound a n = false →
          exec (.objDelete via input) s = .next (answer (serveWaits (deleteObject a n)) via m.tag 0xC021 0 []))) ∧
      (Accepted s via 0xC022 input a m → o.mover.st ≠ .idle → exec (.objSetClass via input) s = .next (answer a via m.tag 0xC022 0x13 [])) ∧
      (Accepted s via 0xC022 input a m → o.mover.st = .idle →
        ((o.cls = .scratch ∧ m.f 4 1 < 3) ∨ (o.cls ≠ .scratch ∧ 3 ≤ m.f 4 1) ∨ (o.cls ≠ .scratch ∧ a.windows.any (fun w => w.2.obj == n) = true) →
          exec (.objSetClass via input) s = .next (answer a via m.tag 0xC022 0x56 []))) ∧
      (Accepted s via 0xC022 input a m → o.mover.st = .idle → o.cls ≠ .scratch → a.windows.any (fun w => w.2.obj == n) = false →
        (m.f 4 1 = 0 → o.cls ≠ .held → framesFor a o = false →
          exec (.objSetClass via input) s = .next (answer a via m.tag 0xC022 0x55 [])) ∧
        (m.f 4 1 = 0 → o.cls ≠ .held → framesFor a o = true → exec (.objSetClass via input) s =
          .next (answer (promotePages (a.modObj n (fun o => { o with cls := .held })) n none 0 o.pages) via m.tag 0xC022 0 [])) ∧
        (m.f 4 1 = 1 → exec (.objSetClass via input) s =
          .next (answer (a.modObj n (fun o => { o with cls := .warm })) via m.tag 0xC022 0 []))) ∧
      (Accepted s via 0xC023 input a m → ∃ out, exec (.objQuery via input) s = .next (answer a via m.tag 0xC023 0 out) ∧
        out.length = 40 ∧ out.take 3 = leBytes 1 (classCode o.cls) ++ leBytes 1 (layoutCode o.layout) ++ leBytes 1 (moverCode o.mover.st)) ∧
      (Accepted s via 0xC030 input a m → o.cls = .held → o.versioned = false → boundForWriting a n = false → o.mover.st = .idle →
        a.windows.any (fun w => w.2.obj == n) = false → a.windows.length < 4096 →
        windowBytes a + o.pages * 65536 ≤ 0x4000000000 → exec (.winCreate via input) s = .next (answer ({ a with
          windows := mput a.windows a.nextWindow { obj := n }, nextWindow := a.nextWindow + 1 }.modCtx o.owner (fun x => { x with decDue := true }))
          via m.tag 0xC030 0 (leBytes 4 a.nextWindow)))) ∧
    (Accepted s via 0xC031 input a m →
      (mget? a.windows n = none → exec (.winDelete via input) s = .next (answer a via m.tag 0xC031 0x62 [])) ∧
      ∀ w o, mget? a.windows n = some w → objAt a w.obj = some o → ownsObj m o = true → leaving a m.ctx w.obj = false →
        (w.deleting = true → exec (.winDelete via input) s = .next (answer a via m.tag 0xC031 0x13 [])) ∧
        (w.deleting = false → ∃ b, b = { a with windows := mput a.windows n { w with deleting := true, waiter := some (m.via, m.tag) } } ∧
          exec (.winDelete via input) s = .next ((recallRun b o.base (o.pages * 65536)).modCtx o.owner (fun x => { x with decDue := true })))) ∧
    (Accepted s via 0xC070 input a m →
      let u := m.f 0 8 / 0x10000000
      let mine := a.objects.filter (fun o => decide (u ≤ o.2.base / 0x10000000) && decide (o.2.base / 0x10000000 < u + m.f 8 4))
      m.f 0 8 % 0x10000000 = 0 → u + m.f 8 4 ≤ 524288 →
      (m.owner = true ∨ grantedRun a m.c (m.f 0 8) (m.f 8 4 * 0x10000000) = true) →
      ((∀ o ∈ mine, objBound a o.1 = false ∧ residentPids a o.1 = []) → exec (.dramOrderSet via input) s = .next (answer { a with
        orders := (List.range (m.f 8 4)).foldl (fun t i => mput t (u + i) (BitVec.ofNat 2 (m.f 12 1), m.f 13 1 == 1)) a.orders }
        via m.tag 0xC070 0 [])) ∧
      ((∃ o ∈ mine, objBound a o.1 = true ∨ residentPids a o.1 ≠ []) →
        exec (.dramOrderSet via input) s = .next (answer a via m.tag 0xC070 0x13 [])))

/-- Versions. VER_INIT makes the first version, VER_DRAFT a draft on a live version at a free place, VER_OPEN a handle;
VER_PUBLISH of a draft whose base is no longer the head conflicts, and otherwise the draft becomes the next version, at once
or when its copies have ended; VER_REBASE, VER_DISCARD and VER_CLOSE act when no page of the object is locked and wait
otherwise; a wait that runs out ends a steward's command with BUSY and puts a mover's move off (R221 to R234, R387). -/
def Obligations.VersionCommands : Prop :=
  ∀ (s : State) (via : Path) (input : List Byte) (a : State) (m : MciCall),
    let n := m.f 0 4
    (∀ o, Accepted s via 0xC040 input a m → objAt a n = some o → ownsObj m o = true → o.cls ≠ .scratch →
      leaving a m.ctx n = false →
      a.windows.any (fun w => w.2.obj == n) = false → objBound a n = false → o.mover.st = .idle → o.versioned = false →
      liveTotal a < 262144 → ∃ b, b = a.modObj n (fun o => { o with versioned := true }) ∧
        exec (.verInit via input) s = .next (answer { b with
          contents := mmod { obj := n } b.contents o.head (fun c => { c with version := 1 }) } via m.tag 0xC040 0 (leBytes 4 1))) ∧
    (∀ o k, objAt a n = some o → reaches a m.c o = true → findVersion a n o (m.f 4 4) = some k → viewStatus a m.c o (m.f 8 8) = 0 →
      (Accepted s via 0xC041 input a m → (liveContents a n).length < 64 → liveTotal a < 262144 →
        exec (.verDraft via input) s = .next (answer { a with
          contents := mput a.contents a.nextContent { obj := n, base := some k, draft := some a.nextView }
          nextContent := a.nextContent + 1
          views := mput a.views a.nextView { obj := n, content := a.nextContent, ctx := m.c, base := m.f 8 8, draft := true }
          nextView := a.nextView + 1 } via m.tag 0xC041 0 (leBytes 4 a.nextView ++ leBytes 4 (versionOf a k)))) ∧
      (Accepted s via 0xC045 input a m → handleCount a < 65536 →
        exec (.verOpen via input) s = .next (answer { a with
          views := mput a.views a.nextView { obj := n, content := k, ctx := m.c, base := m.f 8 8, draft := false }
          nextView := a.nextView + 1 } via m.tag 0xC045 0 (leBytes 4 a.nextView ++ leBytes 4 (versionOf a k))))) ∧
    (∀ x o, draftOf a m n = some x → objAt a x.obj = some o → leaving a m.ctx x.obj = false →
      (viewBusy a n = true → ∀ op i, (op, i) ∈ [(0xC042, Instr.verPublish via input), (0xC043, .verRebase via input),
          (0xC044, .verDiscard via input)] → Accepted s via op input a m → exec i s = .next (answer a via m.tag op 0x13 [])) ∧
      (viewBusy a n = false → Accepted s via 0xC042 input a m →
        (let k := contentAt a x.content
         let v := versionOf a (currentHead o)
         let b := serveWaits ({ a with contents := mput a.contents x.content { k with version := v + 1, draft := none }, views := mdel a.views n }.modObj
           x.obj (fun o => { o with newHead := some x.content }))
         (k.base ≠ some (currentHead o) → ∃ t, exec (.verPublish via input) s = .next (answer t via m.tag 0xC042 0x67 []) ∧
           t.contents = a.contents ∧ t.views = a.views ∧ t.objects = a.objects) ∧
         (k.base = some (currentHead o) → v = 0xFFFFFFFF → exec (.verPublish via input) s = .next (answer a via m.tag 0xC042 0x64 [])) ∧
         (k.base = some (currentHead o) → v ≠ 0xFFFFFFFF →
           (copying b x.content = true → exec (.verPublish via input) s =
             .next { b with pubs := b.pubs ++ [(x.obj, x.content, m.via, m.tag)] }) ∧
           (copying b x.content = false → exec (.verPublish via input) s = .next (answer b via m.tag 0xC042 0 (leBytes 4 (v + 1))))))) ∧
      (viewBusy a n = false → objLocked a x.obj = true →
        (Accepted s via 0xC043 input a m → exec (.verRebase via input) s = .next { a with lockWaits := a.lockWaits ++ [(0xC043, m)] }) ∧
        (Accepted s via 0xC044 input a m → exec (.verDiscard via input) s = .next { a with lockWaits := a.lockWaits ++ [(0xC044, m)] })) ∧
      (viewBusy a n = false → objLocked a x.obj = false →
        (Accepted s via 0xC044 input a m → exec (.verDiscard via input) s = .next (answer (endView a n) via m.tag 0xC044 0 [])) ∧
        (∀ b, Accepted s via 0xC043 input a m → (contentAt a x.content).base = some b → exec (.verRebase via input) s =
          .next (answer (retire { a with contents := mput a.contents x.content { contentAt a x.content with base := some (currentHead o) } } x.obj)
            via m.tag 0xC043 0 (leBytes 4 (versionOf a (currentHead o)) ++ leBytes 4 ((contentAt a x.content).own.filter (fun ix =>
              !sameContent a (pidOf a b ix) (pidOf a (currentHead o) ix))).length))))) ∧
    (∀ x, Accepted s via 0xC046 input a m → mget? a.views n = some x → x.draft = false → x.hidden = false → m.ctx = some x.ctx →
      leaving a m.ctx x.obj = false → viewBusy a n = false →
      (objLocked a x.obj = true → exec (.verClose via input) s = .next { a with lockWaits := a.lockWaits ++ [(0xC046, m)] }) ∧
      (objLocked a x.obj = false → exec (.verClose via input) s = .next (answer (endView a n) via m.tag 0xC046 0 []))) ∧
    (∀ o, Accepted s via 0xC047 input a m → objAt a n = some o → reaches a m.c o = true → o.versioned = true →
      ∃ rows, exec (.verQuery via input) s = .next (answer a via m.tag 0xC047 0 (leBytes 4 (versionOf a (currentHead o))
        ++ leBytes 4 (liveContents a n).length ++ leBytes 4 0 ++ rows))) ∧
    (∀ (op : BitVec 16) (tag : Word) x,
      s.lockWaits.find? (fun x => x.1 != 0xC010 && x.1 == op.toNat && x.2.via == via && x.2.tag == tag) = some x →
      exec (.lockWaitExpired (.steward via op tag)) s = .next (answer (raise ({ s with lockWaits := s.lockWaits.erase x }.bump 0x50028 1)
        evWaitBroken x.2.ctx.toList (w1 2 ++ w2 (lockObject s x.2) ++ w2 tag.toNat ++ w1 0 ++ w1 0)) via tag x.1 0x13 [])) ∧
    (∀ pid k o x, pidObj s pid = some (k, o) → o.mover.moves.find? (fun m => m.pid == pid && !m.running) = some x →
      (pageAt s pid).lock = true → exec (.lockWaitExpired (.mover pid)) s =
        .next (raise ((setMove s k x false (s.ft.run + 1)).bump 0x50028 1) evWaitBroken [o.owner]
          (w1 1 ++ w2 (o.base + pidIx pid * 65536) ++ w2 k ++ w1 0 ++ w1 0)))

/-- Leases and grants. A lease is renewed unless it has expired, and set between 1 s and 1 h, REARM ending EXPIRED; an expiry
is reported and takes the context's cues, drafts, handles, pins and directory identities, poisoning exclusive lines. The fabric
manager offers, withdraws and takes back grants, the host answers offers and releases grants, an unanswered offer lapses,
and a release that is done is reported and recorded, its objects going or passing to another holder (R205 to R210, R381). -/
def Obligations.LeasesAndGrants : Prop :=
  ∀ s : State,
    (∀ (via : Path) (input : List Byte) (a : State) (m : MciCall),
      (Accepted s via 0xC050 input a m →
        ((a.ctx m.c).expired = true → exec (.leaseRenew via input) s = .next (answer a via m.tag 0xC050 0x15 [])) ∧
        ((a.ctx m.c).expired = false → exec (.leaseRenew via input) s = .next (answer (a.modCtx m.c (fun x =>
          if x.expired then x else { x with leaseFrom := a.ft.run })) via m.tag 0xC050 0 (leBytes 4 (a.ctx m.c).leaseMs)))) ∧
      (Accepted s via 0xC051 input a m →
        let len := m.f 4 4
        let b := a.modCtx (toCtx (m.f 0 2)) (fun x => { x with leaseMs := len })
        (512 ≤ m.f 0 2 → exec (.leaseSet via input) s = .next (answer a via m.tag 0xC051 0x14 [])) ∧
        (m.f 0 2 < 512 → (len < 1000 ∨ 3600000 < len) → exec (.leaseSet via input) s = .next (answer a via m.tag 0xC051 0x12 [])) ∧
        (m.f 0 2 < 512 → 1000 ≤ len → len ≤ 3600000 →
          (m.f 2 1 ≠ 1 → exec (.leaseSet via input) s = .next (answer b via m.tag 0xC051 0 [])) ∧
          (m.f 2 1 = 1 → exec (.leaseSet via input) s = .next (answer (b.modCtx (toCtx (m.f 0 2)) (fun x => { x with
            expired := false, leaseRun := ctxEnabled b (toCtx (m.f 0 2)), leaseFrom := b.ft.run })) via m.tag 0xC051 0 []))))) ∧
    (∀ c : Ctx,
      ((s.ctx c).leaseRun = true → (s.ctx c).expired = false →
        let n := ((allCues s).filter (fun q => q.2.ctx == c)).length
        let a := s.modCtx c (fun x => { x with expired := true, leaseRun := false })
        let act := fun (x : State) =>
          let h := dropHolds (decideUnpick x c 4 [] []) c (fun _ => true)
          let w := h.1.directory.foldl (walkEntry c) (h.1, 0, 0)
          (retryEntries w.1, w1 h.2.1 ++ w1 h.2.2 ++ w1 w.2.1 ++ w1 w.2.2)
        exec (.leaseExpiry c) s = .next (act (raise a evLeaseExpired [c]
          (w1 c.val ++ w1 (a.ctx c).leaseMs ++ w1 n ++ (act a).2))).1) ∧
      ((s.ctx c).leaseRun = false ∨ (s.ctx c).expired = true → exec (.leaseExpiry c) s = .next s)) ∧
    (∀ (n : Fin 2) (c : Ctx) (base length : DWord), stewardHears s (.sideband n) = true →
      let host := BitVec.ofNat 16 c.val
      (∀ tag sh t x, s.rv.outOfService = false → addGrant s c base.toNat length.toNat tag sh = some t →
        mget? t.extents (base.toNat / unitBytes) = some x →
        exec (.fmDcAdd n host base length tag sh) s = .next ((dcRecord t c 0 x).emit (.fm n 0 []))) ∧
      (∀ tag sh, s.rv.outOfService = false → addGrant s c base.toNat length.toNat tag sh = none →
        exec (.fmDcAdd n host base length tag sh) s = .next (s.emit (.fm n 2 []))) ∧
      ∀ x g, extentAt s base.toNat length.toNat = some x → grantOf x c = some g →
        (g.st = .offered → exec (.fmDcWithdraw n host base length) s = .next ((s.dropGrant x.base c).emit (.fm n 0 []))) ∧
        (g.st ≠ .offered → exec (.fmDcWithdraw n host base length) s = .next (s.emit (.fm n 2 []))) ∧
        (g.st = .active → exec (.fmDcForceRelease n host base length) s = .next ((startRelease s x c).emit (.fm n 0 []))) ∧
        (g.st ≠ .active → exec (.fmDcForceRelease n host base length) s = .next (s.emit (.fm n 2 [])))) ∧
    (∀ (p : Port) (b : Bool) (c : Ctx) (base length : DWord) x g, stewardHears s (.mailbox p b) = true → (mbox s p b).ctx = some c →
      extentAt s base.toNat length.toNat = some x → grantOf x c = some g →
      let say := fun (t : State) (rc : BitVec 16) =>
        let u := t.emit (.cxlMailbox p b rc [])
        Host.Outcome.next (if (mbox u p b).dbInt then sendMsix u (.pf p) (b2n b) else u)
      (g.st = .offered →
        exec (.addDcResponse p b base length true) s =
          say ((s.modGrant x.base c (fun g => { g with st := .active })).modCtx c (fun y => { y with decDue := true })) 0 ∧
        exec (.addDcResponse p b base length false) s =
          say ((s.dropGrant x.base c).emit (.fmReport c x.base 0)) 0) ∧
      (g.st = .active → exec (.releaseDc p b base length) s = say (startRelease s x c) 0) ∧
      (g.st ≠ .active → exec (.releaseDc p b base length) s = say s 0xF)) ∧
    ∀ (c : Ctx) (base : DWord) x g, mget? s.extents (base.toNat / unitBytes) = some x → grantOf x c = some g → base.toNat % unitBytes = 0 →
      (g.st = .offered → exec (.dcOfferTimeout c base) s = .next ((s.dropGrant x.base c).emit (.fmReport c x.base 1))) ∧
      (g.st = .releasing → g.leaving = true → g.live = false → (s.ctx c).decBusy = false → exec (.grantReleaseComplete c base) s =
        .next (leaveExpired (dcRecord (((releaseObjects s x c).dropGrant x.base c).emit (.fmReport c x.base 2)) c 1 x) c))

/-- The CXL commands of a PF mailbox that the steward hears, and the firmware transfer. Each answers its own payload with
Success and changes only what it names: the records of one log, the interrupt policy, the staged image; the mailbox's doorbell interrupt follows an answer where it is enabled (log entry 150); an image that
R445 refuses is reported with its cause, and an accepted one is written in the background (R353, R381, R384, R443 to R447). -/
def Obligations.MailboxCommands : Prop :=
  ∀ (s : State) (p : Port) (b : Bool) (input : List Byte),
    (stewardHears s (.mailbox p b) = true →
      let say := fun (t : State) (out : List Byte) => 
        let u := t.emit (.cxlMailbox p b 0 out)
        Host.Outcome.next (if (mbox u p b).dbInt then sendMsix u (.pf p) (b2n b) else u)
      (input = [] →
        exec (.identifyMemoryDevice p b input) s = say s.tick (identifyBytes s) ∧
        exec (.getSupportedLogs p b input) s = say s (leBytes 2 1 ++ leBytes 6 0 ++ celUuid ++ leBytes 4 celBytes.length) ∧
        exec (.getTimestamp p b input) s = say s (leBytes 8 s.ft.time.toNat) ∧
        exec (.getEventInterruptPolicy p b input) s = say s ((List.range 5).map (fun i =>
          BitVec.ofNat 8 (if bits ((s.port p).policy.getD i 0).toNat 0 2 = 1 then 0x21 else bits ((s.port p).policy.getD i 0).toNat 0 2)))) ∧
      (input.length = 8 → exec (.setTimestamp p b input) s = say s []) ∧
      (input.length = 24 → input.take 16 = celUuid → bfield input 16 4 + bfield input 20 4 ≤ celBytes.length →
        exec (.getLog p b input) s = say s ((celBytes.drop (bfield input 16 4)).take (bfield input 20 4))) ∧
      (∀ k, input.length = 1 → logOf (bfield input 0 1) = some k →
        exec (.getEventRecords p b input) s = say s (eventBytes (s.port p).logs k)) ∧
      (∀ k, input.length = 6 + 2 * bfield input 2 1 → logOf (bfield input 0 1) = some k → bfield input 1 1 = 0 → bfield input 3 3 = 0 →
        bfield input 2 1 ≠ 0 →
        let hs := (List.range (bfield input 2 1)).map (fun i => bfield input (6 + 2 * i) 2)
        (∀ h ∈ hs, ∃ r ∈ logRecords (s.port p).logs k, r.handle = h) →
        exec (.clearEventRecords p b input) s = say (s.modPort p (fun x => { x with logs := { x.logs with
          records := x.logs.records.filter (fun r => r.1 != k || !hs.contains r.2.handle), overflow := mdel x.logs.overflow (logIx k) } })) []) ∧
      ((input.length = 4 ∨ input.length = 5) → (∀ x ∈ input, bits x.toNat 0 2 < 3 ∧ bits x.toNat 2 2 = 0) →
        exec (.setEventInterruptPolicy p b input) s = say (s.modPort p (fun x => { x with
          policy := input.map (fun y => BitVec.ofNat 8 (bits y.toNat 0 2)) ++ x.policy.drop input.length })) []) ∧
      (input.length = 2 → bfield input 1 1 = 0 →
        exec (.getDcConfiguration p b input) s = say s.tick (dcConfigBytes s (bfield input 0 1))) ∧
      (∀ c, (mbox s p b).ctx = some c → input.length = 8 → bfield input 4 4 ≤ (acceptedExtents s c).length →
        exec (.getDcExtentList p b input) s =
          say s.tick (extentListBytes s (acceptedExtents s c) (min (bfield input 0 4) 1638) (bfield input 4 4)))) ∧
    (∀ via : Path, fwHears s via = true →
      (∀ off data, exec (.transferFw via 4 1 off data) s = .next (fwAnswer { s with fwXfer := none } via 0)) ∧
      (s.fwWrite = none → pathBusy s via = false →
        (∀ data, s.fwXfer = none → exec (.transferFw via 1 1 0 data) s = .next (fwAnswer { s with fwXfer := some data } via 0)) ∧
        (∀ off got data, s.fwXfer = some got → off.toNat * 128 = got.length → got.length + data.length ≤ 0x2000000 →
          exec (.transferFw via 2 1 off data) s = .next (fwAnswer { s with fwXfer := some (got ++ data) } via 0) ∧
          exec (.transferFw via 3 1 off data) s = .next (endTransfer s via (got ++ data)))) ∧
      exec (.activateFw via 1 1) s = .next (fwAnswer s via 0)) ∧
    (∀ (via : Path) (img : List Byte),
      (∀ cause, imageCause s img = some cause → endTransfer s via img = fwAnswer (raise { s with fwXfer := none } evFwRejected []
        (w1 cause ++ w1 (bfield img 8 2) ++ w1 (bfield img 10 2) ++ w1 (bfield img 14 1))) via 2) ∧
      (imageCause s img = none → ∃ t, endTransfer s via img = fwAnswer t via 1 ∧ t.fwWrite = some (imageOf img, via) ∧
        t.fwXfer = none ∧ t.fwStore = s.fwStore) ∧
      (imageCause s img = none → s.svnFloor ≤ bfield img 14 1 ∧ bfield img 14 1 ≤ 63 ∧ bfield img 20 1 = 0xB1 ∧
        Config.slhVerify (BitVec.ofNat 64 (bfield img 24 8)) (img.take (64 + bfield img 16 4)) (img.drop (64 + bfield img 16 4)) = true)) ∧
    (∀ img (n : Fin 2), s.fwWrite = some (img, .sideband n) → exec .fwStoreWriteDone s =
      .next ({ s with fwStore := some img, fwBad := false, fwWrite := none }.emit (.mailbox (.sideband n) 0 [])))

/-- Keys and sessions. KEY_SET unwraps its field under the context's key-encryption key and follows the rows of R440;
KEY_CLEAR empties an own slot that no object uses; the SPDM requests are answered in the connection's order, KEK
requests only in a session on a sideband port; signatures are made in turn; IDE keys are programmed into the inactive key
set, which then takes over (R328, R433, R437 to R442, R449 to R452). -/
def Obligations.KeysAndSessions : Prop :=
  ∀ s : State,
    (∀ (via : Path) (input : List Byte) (a : State) (m : MciCall) (c : Ctx), m.ctx = some c →
      let n := m.f 0 2
      (Accepted s via 0xC0C1 input a m →
        (n = 0 ∨ 1023 < n → exec (.keyClear via input) s = .next (answer a via m.tag 0xC0C1 0x12 [])) ∧
        ∀ x, 1 ≤ n → n ≤ 1023 → mget? a.keys n = some x →
          (x.ctx ≠ some c → exec (.keyClear via input) s = .next (answer a via m.tag 0xC0C1 0x11 [])) ∧
          (x.ctx = some c → slotUsers a n ≠ 0 → exec (.keyClear via input) s = .next (answer a via m.tag 0xC0C1 0x13 [])) ∧
          (x.ctx = some c → slotUsers a n = 0 →
            exec (.keyClear via input) s = .next (answer { a with keys := mdel a.keys n } via m.tag 0xC0C1 0 []))) ∧
      (Accepted s via 0xC0C0 input a m → 1 ≤ n → n ≤ 1023 →
        (mget? a.keks c.val = none → exec (.keySet via input) s = .next (answer a via m.tag 0xC0C0 0x11 [])) ∧
        ∀ kek, mget? a.keks c.val = some kek →
          let kind := m.f 2 1
          let obj := if kind = 0 then 0 else m.f 4 4
          let key := unwrapKey (leBytes 32 kek.toNat) c n kind obj ((m.input.drop 8).take 64)
          let k := BitVec.ofNat 512 (leNat key)
          (∀ x, mget? a.keys n = some x → x.ctx = some c → x.key = none → x.kind = kind → x.object = obj →
            (x.check ≠ keyCheck key → exec (.keySet via input) s =
              .next (answer (raise a evKeyMismatch [c] (w1 c.val ++ w1 n ++ w1 kind ++ w1 obj)) via m.tag 0xC0C0 0x11 [])) ∧
            (x.check = keyCheck key → exec (.keySet via input) s = .next (answer (loadAwaiting a n x k) via m.tag 0xC0C0 0 []))) ∧
          (mget? a.keys n = none → kind = 0 → keyChecks a c n kind obj key (keyCheck key) = 0 → exec (.keySet via input) s =
            .next (answer { a with keys := mput a.keys n ⟨0, some c, 0, keyCheck key, some k⟩ } via m.tag 0xC0C0 0 [])) ∧
          (mget? a.keys n = none → keyChecks a c n kind obj key (keyCheck key) ≠ 0 → exec (.keySet via input) s =
            .next (answer a via m.tag 0xC0C0 (keyChecks a c n kind obj key (keyCheck key)) [])))) ∧
    (∀ (m : SpdmMsg),
      let rows : List (Nat × Instr × (State → SpdmMsg → State)) := [(0x84, .getVersion m, doVersion), (0xE1, .getCapabilities m, doCapabilities),
        (0xE3, .negotiateAlgorithms m, doAlgorithms), (0x81, .getDigests m, doDigests), (0x82, .getCertificate m, doCertificate),
        (0x83, .challenge m, doChallenge), (0xE0, .getMeasurements m, doMeasurements), (0xE4, .keyExchange m, doKeyExchange),
        (0xE5, .finish m, doFinish), (0xE8, .heartbeat m, doHeartbeat), (0xE9, .keyUpdate m, doKeyUpdate),
        (0xEC, .endSession m, doEndSession), (0x86, .chunkGet m, doChunkGet)]
      (∀ r ∈ rows, spdmHears s m.chan = true → reqCode m.body = r.1 →
        (sessionOpen s m = true → (r.1 = 0x84 ∨ bfield m.body 0 1 = 0x14) → connStage (s.conn m.chan) r.1 = true →
          exec r.2.1 s = .next (r.2.2 s m)) ∧
        (sessionOpen s m = true → r.1 ≠ 0x84 → bfield m.body 0 1 = 0x14 → connStage (s.conn m.chan) r.1 = false →
          exec r.2.1 s = .next (spdmReply s m.chan m.session (spdmError 4 0)))) ∧
      (∀ r ∈ rows, spdmHears s m.chan = false → exec r.2.1 s = .next s) ∧
      (spdmHears s m.chan = true → reqCode m.body = 0x85 → exec (.chunkSend m) s = .next (doChunkSend s m)) ∧
      (∀ pay cmd i, (cmd, i) ∈ [(1, Instr.kekSet m), (2, .kekClear m)] → vendorPayload m.body = some pay → bfield pay 0 2 = cmd →
        spdmHears s m.chan = true → reqCode m.body = 0xFE → bfield m.body 0 1 = 0x14 → sessionOpen s m = true →
        connStage (s.conn m.chan) 0xFE = true → ∃ t : State, exec i s = .next (spdmReply t m.chan m.session (spdmHead 0xFE 0 0 ++ leBytes 2 3
          ++ leBytes 1 2 ++ leBytes 2 0x1F3C ++ leBytes 2 2 ++ leBytes 2 (kekStatus s m pay))) ∧ t = { s with keks := t.keks } ∧
          (kekStatus s m pay ≠ 0 → t.keks = s.keks) ∧
          (kekStatus s m pay = 0 → t.keks = if cmd = 1 then mput s.keks (bfield pay 2 2) (BitVec.ofNat 256 (bfield pay 4 32))
            else mdel s.keks (bfield pay 2 2))) ∧
      (∀ (q : Port) pay, m.chan = .doe q → kekStatus s m pay = 2)) ∧
    (s.aliasReady = false → 3 ≤ s.pw.stage → exec .spdmSignatureDone s = .next ({ s with aliasReady := true }.bump 0xC0068 1)) ∧
    (∀ j js, s.aliasReady = true → s.signQueue = j :: js →
      exec .spdmSignatureDone s = .next (signedReply ({ s with signQueue := js }.bump 0xC0068 1) j)) ∧
    ∀ (m : IdeMsg) (cxl : Bool), ideHeard s m cxl = true →
      let say := fun (t : State) (obj status : Nat) => Host.Outcome.next (t.emit (.ideKm m.port (leBytes 1 obj ++ leBytes 1 m.stream.val
        ++ leBytes 1 status ++ leBytes 1 (m.keySet.val + 2 * b2n m.tx + 16 * m.sub.val))))
      let x := mget {} s.ide (ideKey m.port cxl m.stream.val m.tx)
      let put := fun (f : IdeStream → IdeStream) => ({ s with ide := mmod {} s.ide (ideKey m.port cxl m.stream.val m.tx) f } : State)
      (exec (if cxl then .cxlQuery m else .ideKmQuery m) s = say s 1 0) ∧
      (mget? x.active m.sub.val = some m.keySet.val → exec (if cxl then .cxlKeyProg m else .ideKmKeyProg m) s = say s 3 4) ∧
      (mget? x.active m.sub.val ≠ some m.keySet.val → exec (if cxl then .cxlKeyProg m else .ideKmKeyProg m) s =
        say (put (fun x => { x with keys := mput x.keys (ideKeyNo m) m.key })) 3 0) ∧
      (mhas x.keys (ideKeyNo m) = false → exec (if cxl then .cxlKSetGo m else .ideKmKSetGo m) s = say s 6 4) ∧
      (mhas x.keys (ideKeyNo m) = true → exec (if cxl then .cxlKSetGo m else .ideKmKSetGo m) s =
        say (put (fun x => { x with active := mput x.active m.sub.val m.keySet.val })) 6 0) ∧
      (mget? x.active m.sub.val = some m.keySet.val → exec (if cxl then .cxlKSetStop m else .ideKmKSetStop m) s =
        say (put (fun x => if mget? x.active m.sub.val == some m.keySet.val then { x with active := mdel x.active m.sub.val } else x)) 6 0) ∧
      (cxl = true → m.tx = true → exec (.cxlGetkey m) s = say s 8 4) ∧
      (cxl = true → m.tx = false → exec (.cxlGetkey m) s = .next (s.tick.emit (.ideKm m.port (leBytes 1 8 ++ leBytes 1 m.stream.val
        ++ leBytes 1 0 ++ leBytes 1 (m.keySet.val + 16 * m.sub.val) ++ (List.range 32).map (fun i => (Config.random 32 s.free).getD i 0)))))

/-- The cartridge bays. A cartridge that appears in an EMPTY bay is verified once bays may be powered; one that fails a
check of R303 is REFUSED with its cause and its bay powered down; one that passes after start-up becomes the gusset; a
member that loses presence, opens its latch, gives no status or too many bad codewords leaves the array with causes 0 to
3, a target going OUT and the others FAILED; a gusset's open latch ends its service and powers its bay down at once, a member's 200 ms later; the newest
ledger copy with a valid seal counts
(R303, R304, R311 to R313). -/
def Obligations.CartridgeBays : Prop :=
  ∀ (s : State) (b : Bay),
    let x := s.bay b.val
    (∀ cart : Cartridge,
      let t := s.modBay b.val (fun y => { y with cart := some cart, ledger := none, warned := false, eol := false })
      (x.st = .empty → x.cart = none → baysPowered s = true →
        exec (.bayPresence b cart) s = .next (drivePins (startVerify t b.val)) ∧
        ((startVerify t b.val).bay b.val).st = .verifying ∧ ((startVerify t b.val).bay b.val).powered = true ∧
        ((startVerify t b.val).bay b.val).cart = some cart) ∧
      (x.st = .empty → x.cart = none → baysPowered s = false → exec (.bayPresence b cart) s = .next (drivePins t)) ∧
      (x.st ≠ .empty ∨ x.cart ≠ none → exec (.bayPresence b cart) s = .next s)) ∧
    (x.cart ≠ none → exec (.bayPresenceLost b) s = .next (drivePins (presenceLost s b.val)) ∧
      ((presenceLost s b.val).bay b.val).st = .empty ∧ ((presenceLost s b.val).bay b.val).position = none ∧
      ((presenceLost s b.val).bay b.val).powered = false) ∧
    (x.cart = none → exec (.bayPresenceLost b) s = .next s) ∧
    (inArray x.st = true →
      exec (.bayLatchOpen b) s = .next (drivePins (failCart s b.val 1)) ∧
      exec (.channelStatusTimeout b) s = .next (drivePins (failCart s b.val 2)) ∧
      exec (.codewordFailureLimit b) s = .next (drivePins (failCart s b.val 3)) ∧
      ∀ cause, cause ≠ 0 → ∃ t : State, failCart s b.val cause =
          checkArray (raise t evCartFailed [] (w1 b.val ++ w1 (x.position.getD 0) ++ w1 cause ++ w1 (arrayCode t))) ∧
        (x.st ≠ .target → t.vacated = s.vacated ||| BitVec.ofNat 8 (2 ^ (x.position.getD 0)) ∧ (t.bay b.val).st = .failed ∧
          (t.bay b.val).position = none ∧ (cause ≠ 1 → (t.bay b.val).powered = false)) ∧
        (x.st = .target → s.walk = none → (t.bay b.val).st = .out)) ∧
    (inArray x.st = false → exec (.channelStatusTimeout b) s = .next s ∧ exec (.codewordFailureLimit b) s = .next s ∧
      (x.st ≠ .gusset → exec (.bayLatchOpen b) s = .next s)) ∧
    (x.st = .gusset → exec (.bayLatchOpen b) s = .next (drivePins (unpowerBay (writeLedger (s.modBay b.val (fun y => { y with st := .out })) b.val id) b.val))) ∧
    (x.latch = true → exec (.latchPowerRemove b) s = .next (drivePins (unpowerBay s b.val)) ∧
      ((unpowerBay s b.val).bay b.val).powered = false) ∧
    (x.latch = false → exec (.latchPowerRemove b) s = .next s) ∧
    (∀ (pages : Bool) (rates : List (Option (BitVec 2))) c, x.st = .verifying → x.cart = some c →
      let cause := verifyCause s c pages rates
      (cause ≠ 0 → exec (.cartVerifyComplete b pages rates) s = .next (drivePins (raise (unpowerBay (s.modBay b.val (fun y => { y with
        st := .refused, cause := BitVec.ofNat 8 cause, ledger := if cause = 4 || cause = 5 then newestLedger c else none })) b.val)
          evCartRefused [] (w1 b.val ++ w1 cause ++ w2 (bfield c.record 40 8 % 2 ^ 64))))) ∧
      (∀ l, cause = 0 → newestLedger c = some l →
        exec (.cartVerifyComplete b pages rates) s = .next (drivePins (takeIn s b.val c l rates)) ∧
        (7 ≤ s.pw.stage → ((takeIn s b.val c l rates).bay b.val).st = .gusset)) ∧
      (romVerifies s true (BitVec.ofNat 64 (bfield c.record 68 8)) (c.record.take 256) c.sig = false → cause = 1))

/-- Wear, rebuilds and retirement. A ledger write records the module and the volume programmed in a sealed copy, and its wear may raise
EV_CART_WEAR and EV_CART_EOL; the shares of a stripe of which two at most are lost determine its data; the journal goes to
every member; a walk handles its live stripes in order, writing the target's share where at most two
are lost; its end makes the target ACTIVE and a copy's source OUT; CART_RETIRE needs an ACTIVE cartridge, no walk and a
gusset (R304 to R306, R312 to R317, R319). -/
def Obligations.WearAndWalks : Prop :=
  ∀ (s : State) (b : Bay),
    let x := s.bay b.val
    (∀ l, x.powered = true → x.ledger = some l → inArray x.st = true ∨ x.st = .gusset →
      let t := writeLedger { s with free := s.free + 4 } b.val (growLedger s.free)
      exec (.ledgerWrite b) s = .next (drivePins (checkWear t b.val)) ∧
      ((t.bay b.val).ledger.map (fun y => (y.cartId, y.writer, y.lstate, y.position, y.tb))) =
        some (l.cartId, Config.serial, l.lstate, l.position, BitVec.ofNat 32 (x.written / 1000000000000)) ∧
      (∀ c, x.cart = some c → (t.bay b.val).cart.map newestLedger = some (t.bay b.val).ledger) ∧
      ((x.warned = true ∨ (bayWear t b.val).1 < s.fieldEff 0x80000 8 7) → (bayWear t b.val).1 < 100 → checkWear t b.val = t)) ∧
    (x.powered = false → exec (.ledgerWrite b) s = .next s) ∧
    (x.st = .active → x.eol = true →
      exec (.eolRepeat b) s = .next (raise s evCartEol [] (w1 b.val ++ w1 (bayWear s b.val).1 ++ w1 0))) ∧
    (x.st ≠ .active ∨ x.eol = false → exec (.eolRepeat b) s = .next s) ∧
    (∀ w, s.walk = some w →
      exec .rebuildJournalWrite s = .next (putJournal s w false) ∧
      (∀ (k : Bay) c, inArray (s.bay k.val).st = true → (s.bay k.val).cart = some c →
        ((putJournal s w false).bay k.val).cart = some { c with journal := some (journalCopy s w false) }) ∧
      (∀ n rest st, walkRuns s = true → walkStripes s w.next w.last = n :: rest → mget? s.stripes n = some st →
        let ok := (w.copy && !bit st.bad.toNat w.position && bit st.shares.toNat w.position) || decide ((lostShares st 0).length ≤ 2)
        let v : Walk := { w with next := n + 1, doneBytes := w.doneBytes + (if ok then 1048576 else 0), unrec := w.unrec + b2n (!ok) }
        ∃ t, exec .rebuildStripe s = .next t ∧ t.walk = some v ∧
          (ok = false → t.stripes = s.stripes ∧ t.bays = s.bays) ∧
          (ok = true → t.stripes = mput s.stripes n { st with shares := st.shares ||| BitVec.ofNat 8 (2 ^ w.position), bad := st.bad &&& ~~~ BitVec.ofNat 8 (2 ^ w.position) } ∧
            (t.bay w.target.val).written = (s.bay w.target.val).written + 1048576)) ∧
      (walkRuns s = true → walkStripes s w.next w.last = [] → exec .rebuildDone s = .next (drivePins (endWalk s w)) ∧
        (endWalk s w).walk = none ∧
        (∀ c, w.source ≠ some w.target → (s.bay w.target.val).cart = some c →
          (((endWalk s w).bay w.target.val).cart.bind (·.journal)) = some (journalCopy s w true)) ∧
        (w.source ≠ some w.target → ((endWalk s w).bay w.target.val).st = .active) ∧
        (∀ c : Bay, w.copy = true → w.source = some c → ((endWalk s w).bay c.val).st = .out ∧ ((endWalk s w).bay c.val).powered = false)) ∧
      (walkRuns s = false → exec .rebuildStripe s = .next s ∧ exec .rebuildDone s = .next s)) ∧
    (s.walk = none → exec .rebuildStripe s = .next s ∧ exec .rebuildDone s = .next s ∧ exec .rebuildJournalWrite s = .next s) ∧
    (∀ d e : List Byte, d.length = 6 → e.length = 6 →
      ((List.range 8).filter (fun i => (d ++ [parityP d, parityQ d])[i]? != (e ++ [parityP e, parityQ e])[i]?)).length ≤ 2 → d = e) ∧
    ∀ (via : Path) (input : List Byte) (a : State) (m : MciCall),
      let n := m.f 0 1
      (Accepted s via 0xC081 input a m →
        (9 ≤ n → exec (.cartRetire via input) s = .next (answer a via m.tag 0xC081 0x12 [])) ∧
        (n < 9 → (a.bay n).st ≠ .active → exec (.cartRetire via input) s = .next (answer a via m.tag 0xC081 0x81 [])) ∧
        (n < 9 → (a.bay n).st = .active → a.walk ≠ none → exec (.cartRetire via input) s = .next (answer a via m.tag 0xC081 0x13 [])) ∧
        (n < 9 → (a.bay n).st = .active → a.walk = none → bayIn a .gusset = none →
          exec (.cartRetire via input) s = .next (answer a via m.tag 0xC081 0x82 [])) ∧
        (∀ g p, n < 9 → (a.bay n).st = .active → a.walk = none → bayIn a .gusset = some g → (a.bay n).position = some p →
          ∃ t, exec (.cartRetire via input) s = .next (answer (drivePins t) via m.tag 0xC081 0 []) ∧
            t = startWalk (writeLedger (a.modBay n (fun y => { y with st := .retiring })) n id) g p (some n) ∧
            ∃ v, t.walk = some v ∧ v.copy = true ∧ v.position = p ∧ v.target.val = g ∧ v.source.map (·.val) = some n)) ∧
      (Accepted s via 0xC080 input a m →
        (9 ≤ n → exec (.cartQuery via input) s = .next (answer a via m.tag 0xC080 0x12 [])) ∧
        (n < 9 → ∃ out, exec (.cartQuery via input) s = .next (answer a.tick via m.tag 0xC080 0 out) ∧ out.length = 300 ∧
          out[0]? = some (BitVec.ofNat 8 (bayCode (a.bay n).st)) ∧
          (∀ c, (a.bay n).cart = some c → c.record.length = 256 → (out.drop 4).take 256 = c.record)))

/-- A decision grants the highest priority among those that request; among them the lowest-numbered class; within that
class the first master at or after the class's pointer in ascending number, wrapping; and the class's pointer moves to
the master after the winner, and no other pointer moves (R360). -/
def Obligations.DecisionGrants : Prop :=
  (∀ (ptr : AMap Nat) (bids : List Bid), (∀ b ∈ bids, b.cls ≤ 3) → bids ≠ [] → bids.Pairwise (fun x y => x.m < y.m) →
    ∃ w, winner ptr bids = some w ∧ w ∈ bids ∧
      ∀ b ∈ bids, b.pri ≤ w.pri ∧ (b.pri = w.pri → w.cls ≤ b.cls ∧ (b.cls = w.cls →
        (mget 0 ptr w.cls ≤ w.m → mget 0 ptr w.cls ≤ b.m → w.m ≤ b.m) ∧
        (w.m < mget 0 ptr w.cls → b.m < mget 0 ptr w.cls ∧ w.m ≤ b.m)))) ∧
  ∀ (s : State) (a : Arb) (n : Nat) (bids : List Bid) (masked : Nat → Bool) (w : Bid),
    (decided s a n bids masked (some w)).grant = some w.m ∧
    mget? (decided s a n bids masked (some w)).ptr w.cls = some ((w.m + 1) % n) ∧
    ∀ c, c ≠ w.cls → mget? (decided s a n bids masked (some w)).ptr c = mget? a.ptr c

/-- Arbiters. A decision moves the ages and the wait counters; nothing is admitted on a channel whose stack is in self-refresh or reset,
and a grant without a request is an empty cycle; a change of a mask clears what a masked master has (R361 to R363, R365,
R376). -/
def Obligations.ArbiterDecisions : Prop :=
  ∀ s : State,
    (∀ (a : Arb) (n : Nat) (bids : List Bid) (masked : Nat → Bool) (w : Bid), risesFrom 0 a.age = true → risesFrom 0 a.wait = true →
      let d := decided s a n bids masked (some w)
      d.last = w.m ∧ d.tokens = a.tokens ∧ d.lat = a.lat ∧
      (w.m < n → mget? d.age w.m = none ∧ mget? d.wait w.m = none) ∧
      ∀ m, m < n → m ≠ w.m → masked m = false → (bids.any (fun b => b.m == m)) = true →
        mget 0 d.wait m = mget 0 a.wait m + 1 ∧ (1 < bids.length → mget 0 d.age m = min (mget 0 a.age m + 1) (ageMax s))) ∧
    (∀ (t : Cluster) (h : Chan),
      (stackAwake s t.val = false → (s.chan t.val h.val).arb.grant = none → exec (.dramAdmissionDecision t h) s = .next s) ∧
      (∀ m, stackAwake s t.val = false → (s.chan t.val h.val).arb.grant = some m → exec (.dramAdmissionDecision t h) s =
        .next ((s.modChan t.val h.val (fun c => { c with arb := { c.arb with grant := none } })).bump 0x90048 1)) ∧
      (stackAwake s t.val = true → exec (.dramAdmissionDecision t h) s = .next (admission s t.val h.val)) ∧
      (∀ m, (masterMasked s m = true ∨ (s.chan t.val h.val).present.all (fun x => x.master != m || x.recallW || !reqStands s t.val x) = true) →
        admitReq s t.val h.val m = s.bump 0x90048 1) ∧
      (∀ m x, masterMasked s m = false → (s.chan t.val h.val).present.find? (fun x => x.master == m && !x.recallW && reqStands s t.val x) = some x → x.job ≠ 1 →
        ((admitReq s t.val h.val m).chan t.val h.val).queue = (s.chan t.val h.val).queue ++ [arrived s x] ∧
        ((admitReq s t.val h.val m).chan t.val h.val).present = (s.chan t.val h.val).present.erase x)) ∧
    (∀ (die : Fin 2) (toHub : Bool) (asks : BitVec 15),
      let k := die.val * 2 + b2n toHub
      let ms := linkMasters.filter (fun m => bit asks.toNat m && !masterMasked s m)
      let r := plainCycle s (mget {} s.linkArbs k) 15 ms (masterClass s) (masterMasked s)
      exec (.linkArbiterDecision die toHub asks) s = .next { r.1 with linkArbs := mput r.1.linkArbs k r.2.1 }) ∧
    (∀ (b : Bay) (ch : Fin 8) (asks : BitVec 5),
      ((s.bay b.val).powered = false → exec (.flashArbiterDecision b ch asks) s = .next s) ∧
      ((s.bay b.val).powered = true →
        let a := mget {} (s.bay b.val).arbs ch.val
        let ms := (List.range 5).filter (fun m => bit asks.toNat m && !flashMasked s m && (m != 2 || mget 0 a.tokens 2 == 0))
        let r := plainCycle s a 5 ms (fun m => s.fieldOf 0x9004C (2 * m) 2) (flashMasked s)
        ∃ f : Arb, exec (.flashArbiterDecision b ch asks) s = .next (r.1.tick.modBay b.val (fun x => { x with arbs := mput x.arbs ch.val f })) ∧
          (r.2.2 ≠ some 2 → f = r.2.1) ∧ f = { r.2.1 with tokens := f.tokens })) ∧
    ∀ (m : Fin 15) (raised : Bool),
      (masterMasked s m.val = raised → ∃ t, exec (.masterMaskChange m raised) s = .next t ∧
        t = { s with chans := t.chans, linkArbs := t.linkArbs } ∧
        ∀ st ch, (t.chan st ch).arb = (if raised then { (s.chan st ch).arb with
            age := mdel (s.chan st ch).arb.age m.val, wait := mdel (s.chan st ch).arb.wait m.val, lat := mdel (s.chan st ch).arb.lat m.val }
          else { (s.chan st ch).arb with tokens := mdel (s.chan st ch).arb.tokens m.val })) ∧
      (masterMasked s m.val ≠ raised → exec (.masterMaskChange m raised) s = .next s)

/-- A slot of a channel. Without FT_TIME, reference or a ready stack there is none; a slot of the basted block that is in
use goes to it, a claim's slot to its pattern, a withheld slot to the sparing copy's next transfer, and any other is open; the slot is
then over. The tack part takes its victims as it begins, the calibration part moves the marked lanes, and every row is closed
at the end of the block (R38 to R46, R120, R244, R253, R258, R261). -/
def Obligations.DramSlots : Prop :=
  ∀ (s : State) (t : Cluster) (h : Chan),
    let q := modeSet s.pw.mode
    let c := s.chan t.val h.val
    let u := bastedPart s t.val h.val q
    let d := u.chan t.val h.val
    let past := fun (x : State) => Host.Outcome.next (x.modChan t.val h.val (fun c => { c with slot := c.slot + 1, abs := c.abs + 1 }))
    (s.ft.running = false ∨ s.pw.refLost = true ∨ stackReady s t.val = false ∨ slotsN q ≤ c.slot → exec (.dramSlot t h) s = .next s) ∧
    (s.ft.running = true → s.pw.refLost = false → stackReady s t.val = true → c.slot < slotsN q →
      (c.slot < bastedB q → bastedUse q d = true → exec (.dramSlot t h) s = past u) ∧
      (c.slot < bastedB q → bastedUse q d = false → exec (.dramSlot t h) s = past (openSlot u t.val h.val q)) ∧
      (∀ x, bastedB q ≤ c.slot → (liveClaims u t.val h.val).find? (fun x => x.claim.slot == c.slot && decide (bastedB q ≤ c.slot)) = some x →
        exec (.dramSlot t h) s = past (serveLive u t.val h.val x)) ∧
      (bastedB q ≤ c.slot → (∀ x ∈ liveClaims u t.val h.val, x.claim.slot ≠ c.slot) →
        (slotWithheld u t.val h.val q = true → exec (.dramSlot t h) s = past (withheldSlot u t.val h.val q)) ∧
        (slotWithheld u t.val h.val q = false → exec (.dramSlot t h) s = past (openSlot u t.val h.val q)) ∧
        (slotWithheld u t.val h.val q = false → c.queue = [] → exec (.dramSlot t h) s = past u))) ∧
    (c.slot ≠ tackFirst q → c.slot ≠ calFirst q → c.slot ≠ bastedB q → u = s) ∧
    (c.slot = tackFirst q →
      let r := takeVictims (tackRows q) c.victims []
      d.victims = r.2 ∧ d.tacked = (r.1 != 0)) ∧
    (c.slot = calFirst q → c.marked = [] → u = s) ∧
    (c.slot = bastedB q → u = s.modChan t.val h.val (fun c => { c with rows := [] }))

/-- Calibration, sparing and scrubbing of a channel. A window of 4,096 probed reads marks its lane by the difference of
its two counts; a sparing copy whose row is written moves its pointer, and ends with the steering switched;
a scrub interval presents, owes or skips a block; a directed scrub goes ahead; buckets leak by one; DRAM_SPARE starts a
copy on a channel that still has its spare rank (R257 to R263, R285 to R294). -/
def Obligations.DramUpkeep : Prop :=
  ∀ (s : State) (t : Cluster) (h : Chan),
    let c := s.chan t.val h.val
    let st := t.val
    let ch := h.val
    (∀ (lane : Fin 32) (e l : BitVec 13),
      let x := laneOf (chanKey st ch) c lane.val
      (c.probed < x.probes + 4096 → exec (.calWindowClose t h lane e l) s = .next s) ∧
      (x.probes + 4096 ≤ c.probed → ¬ (128 ≤ e.toNat ∧ 128 ≤ l.toNat) → ∃ u, exec (.calWindowClose t h lane e l) s = .next u ∧
        u.chan st ch = { c with
          lanes := mput c.lanes lane.val { x with probes := c.probed, thresh := s.fieldOf 0x60008 8 8 }
          marked := (u.chan st ch).marked } ∧
        (s.fieldEff 0x60000 1 1 = 1 → l.toNat + x.thresh ≤ e.toNat → (u.chan st ch).marked = mput c.marked lane.val true) ∧
        (s.fieldEff 0x60000 1 1 = 1 → ¬ l.toNat + x.thresh ≤ e.toNat → e.toNat + x.thresh ≤ l.toNat → (u.chan st ch).marked = mput c.marked lane.val false) ∧
        (¬ l.toNat + x.thresh ≤ e.toNat → ¬ e.toNat + x.thresh ≤ l.toNat → (u.chan st ch).marked = c.marked))) ∧
    (c.spare ≠ .migrating ∨ c.copyAt < 8 → exec (.rankRowCopy t h) s = .next s) ∧
    (c.spare = .migrating → 8 ≤ c.copyAt →
      (c.pointer < 131071 → ∃ u, exec (.rankRowCopy t h) s = .next u ∧ u = { s with chans := u.chans } ∧
        u.chan st ch = { c with copyAt := 0, skip := [], pointer := c.pointer + 1 }) ∧
      (131071 ≤ c.pointer → ∃ u : State, (u.chan st ch).spare = .spared ∧ (u.chan st ch).spareRank = c.spareRank ∧
        exec (.rankRowCopy t h) s = .next (raise u evSpared []
          (w1 st ++ w1 ch ++ w1 c.spareRank ++ wSat c.copyPoison ++ wSat (s.ft.run - c.spareFrom))))) ∧
    (scrubRuns s st = false → exec (.scrubInterval t h) s = .next s) ∧
    (scrubRuns s st = true → c.present.any (fun x => x.job == 1) = false → c.owed = [] →
      ∃ u, exec (.scrubInterval t h) s = .next u ∧ u = { s with chans := u.chans } ∧
        (u.chan st ch).present = c.present ++ [scrubReq s st ch c.scrubAt 1] ∧
        (u.chan st ch).scrubAt = (if c.scrubAt + 1 < chanBlocks then c.scrubAt + 1 else 0)) ∧
    (∀ n rest, scrubRuns s st = true → c.present.any (fun x => x.job == 1) = false → c.owed = n :: rest → rest.length < 63 →
      ∃ u, exec (.scrubInterval t h) s = .next u ∧ (u.chan st ch).present = c.present ++ [scrubReq s st ch n 1] ∧
        (u.chan st ch).owed = rest ++ [c.scrubAt]) ∧
    (scrubRuns s st = true → c.present.any (fun x => x.job == 1) = true → c.owed.length < 63 →
      ∃ u, exec (.scrubInterval t h) s = .next u ∧ u = { s with chans := u.chans } ∧
        u.chan st ch = { scrubOn c with owed := c.owed ++ [c.scrubAt] }) ∧
    (scrubRuns s st = true → c.present.any (fun x => x.job == 1) = true → 64 ≤ c.owed.length →
      exec (.scrubInterval t h) s = .next (s.modChan st ch scrubOn)) ∧
    (∀ n rest, c.directed = n :: rest → scrubRuns s st = true → exec (.directedScrub t h) s =
      .next (s.modChan st ch (fun c => { c with directed := rest, present := scrubReq s st ch n 2 :: c.present }))) ∧
    (c.directed = [] ∨ scrubRuns s st = false → exec (.directedScrub t h) s = .next s) ∧
    (∃ u, exec .bucketLeak s = .next u ∧ u = { s with chans := u.chans } ∧
      ∀ a b rank, mget 0 (u.chan a b).level rank = mget 0 (s.chan a b).level rank - 1) ∧
    (∀ (rank : Fin 17) (bank : Fin 16),
      let f := bankFuse s st ch (bankKey rank.val bank.val)
      let done := s.modFuse st ch (bankKey rank.val bank.val) (fun x => { x with done := true })
      (∀ row, f.job = some (.row row) → exec (.columnSpareWalkDone t h rank bank) s = .next s ∧
        exec (.rowSpareCopyDone t h rank bank) s = .next (if 8 ≤ f.at_ then done else s)) ∧
      (∀ o y, f.job = some (.col o y) → exec (.rowSpareCopyDone t h rank bank) s = .next s ∧
        exec (.columnSpareWalkDone t h rank bank) s = .next (if 8192 ≤ f.at_ then done else s)) ∧
      (f.job = none → exec (.rowSpareCopyDone t h rank bank) s = .next s ∧ exec (.columnSpareWalkDone t h rank bank) s = .next s)) ∧
    ∀ (via : Path) (input : List Byte) (a : State) (m : MciCall), Accepted s via 0xC071 input a m →
      (20 ≤ m.f 0 1 ∨ 32 ≤ m.f 1 1 ∨ 16 ≤ m.f 2 1 → exec (.dramSpare via input) s = .next (answer a via m.tag 0xC071 0x12 [])) ∧
      (m.f 0 1 < 20 → m.f 1 1 < 32 → m.f 2 1 < 16 →
        (spareState (chanKey (m.f 0 1) (m.f 1 1)) (a.chan (m.f 0 1) (m.f 1 1)) = .free →
          ∃ b : State, (b.chan (m.f 0 1) (m.f 1 1)).spare = .migrating ∧ (b.chan (m.f 0 1) (m.f 1 1)).spareRank = m.f 2 1 ∧
            (b.chan (m.f 0 1) (m.f 1 1)).pointer = 0 ∧ exec (.dramSpare via input) s = .next (answer
              (raise b evSpareStart [] (w1 (m.f 0 1) ++ w1 (m.f 1 1) ++ w1 (m.f 2 1) ++ w1 1)) via m.tag 0xC071 0 [])) ∧
        (spareState (chanKey (m.f 0 1) (m.f 1 1)) (a.chan (m.f 0 1) (m.f 1 1)) ≠ .free →
          ∃ n, exec (.dramSpare via input) s = .next (answer
            (raise a evNoSpare [] (w1 (m.f 0 1) ++ w1 (m.f 1 1) ++ w1 (m.f 2 1) ++ w1 n)) via m.tag 0xC071 0x80 [])))

/-- Identity, roles, mode changes and the guarantee ledger: each command's checks in their order, what an accepted one
changes and what it answers (R64, R66, R331, R337, R347, R373, R380, R402, R460). A CTX_SELECT of 512 or above ends with DENIED
on a tenant port and with RANGE elsewhere (log entry 151). -/
def Obligations.RoleModeLedgerCommands : Prop :=
  ∀ (s : State) (via : Path) (input : List Byte) (a : State) (m : MciCall),
    (Accepted s via 0xC000 input a m → ∃ out, exec (.mciIdentify via input) s = .next (answer a via m.tag 0xC000 0 out) ∧
      out.length = 20 ∧ out.take 2 = [0xB1, 0] ∧ out.drop 12 = leBytes 8 Config.serial.toNat) ∧
    (Accepted s via 0xC001 input a m →
      (512 ≤ m.f 0 2 → (∀ k, via = .sideband k → exec (.ctxSelect via input) s = .next (answer a via m.tag 0xC001 0x12 [])) ∧
        ∀ p b, via = .mailbox p b → exec (.ctxSelect via input) s = .next (answer a via m.tag 0xC001 (if m.owner then 0x12 else 0x11) [])) ∧
      (m.f 0 2 < 512 →
        (∀ p b, via = .mailbox p b →
          (m.owner = false → m.f 0 2 / 64 ≠ p.val → exec (.ctxSelect via input) s = .next (answer a via m.tag 0xC001 0x11 [])) ∧
          (m.owner = true ∨ m.f 0 2 / 64 = p.val → exec (.ctxSelect via input) s =
            .next (answer (a.modMbox p b (fun x => { x with ctx := some (toCtx (m.f 0 2)) })) via m.tag 0xC001 0 []))) ∧
        (∀ k, via = .sideband k → exec (.ctxSelect via input) s =
          .next (answer { a with sbCtx := mput a.sbCtx k.val (m.f 0 2) } via m.tag 0xC001 0 [])))) ∧
    (Accepted s via 0xC0B1 input a m →
      (8 ≤ m.f 0 1 → m.f 0 1 ≠ 0xFF → exec (.portRoleSet via input) s = .next (answer a via m.tag 0xC0B1 0x12 [])) ∧
      (∀ p : Port, m.f 0 1 = p.val → a.owner = some p → exec (.portRoleSet via input) s = .next (answer a via m.tag 0xC0B1 0 [])) ∧
      (∀ p : Port, m.f 0 1 = p.val → a.owner ≠ some p → ∃ t : State, exec (.portRoleSet via input) s = .next (answer t via m.tag 0xC0B1 0 []) ∧
        t = { a with owner := some p, ports := t.ports } ∧ ∀ q : Port, (t.port q).mbox0.ctx = none ∧ (t.port q).mbox1.ctx = none ∧
          (t.port q).up = (a.port q).up ∧ (t.port q).mbox0.bg = (a.port q).mbox0.bg)) ∧
    (Accepted s via 0xC0B2 input a m →
      (512 ≤ m.f 0 2 → exec (.swapGrant via input) s = .next (answer a via m.tag 0xC0B2 0x12 [])) ∧
      (m.f 0 2 < 512 → ctxEnabled a (toCtx (m.f 0 2)) = false → exec (.swapGrant via input) s = .next (answer a via m.tag 0xC0B2 0x14 [])) ∧
      (m.f 0 2 < 512 → ctxEnabled a (toCtx (m.f 0 2)) = true → exec (.swapGrant via input) s =
        .next (answer (a.modCtx (toCtx (m.f 0 2)) (fun x => { x with swapGrant := m.f 2 1 == 1 })) via m.tag 0xC0B2 0 []))) ∧
    (Accepted s via 0xC0B0 input a m →
      let es := (List.range (m.f 0 2)).map (fun i => m.f (4 + 4 * i) 4)
      ((∃ e ∈ es, e % 4096 = 0) → exec (.srcidSet via input) s = .next (answer a via m.tag 0xC0B0 0x12 [])) ∧
      ((∀ e ∈ es, e % 4096 ≠ 0) → ∃ t : State, exec (.srcidSet via input) s = .next (answer t via m.tag 0xC0B0 0 []) ∧
        t = { a with srcStaged := t.srcStaged, srcDue := true } ∧ (es = [] → t.srcStaged = a.srcStaged) ∧
        ∀ e, es = [e] → t.srcStaged = mput a.srcStaged (e % 4096)
          { valid := bit e 12, ctx := toCtx (bits e 13 9), mask := BitVec.ofNat 8 (bits e 22 8) })) ∧
    (Accepted s via 0xC0A0 input a m →
      (cuesAccepted a = false → exec (.modeSet via input) s = .next (answer a via m.tag 0xC0A0 0x19 [])) ∧
      (cuesAccepted a = true → a.pw.job ≠ none → exec (.modeSet via input) s = .next (answer a via m.tag 0xC0A0 0x13 [])) ∧
      (cuesAccepted a = true → a.pw.job = none → modeSet (m.f 0 1) ≠ modeSet a.pw.mode →
        (∃ x ∈ a.patterns, x.2.tset = modeSet a.pw.mode) → exec (.modeSet via input) s = .next (answer a via m.tag 0xC0A0 0x20 [])) ∧
      (cuesAccepted a = true → a.pw.job = none → (modeSet (m.f 0 1) = modeSet a.pw.mode ∨ a.patterns = []) → a.cues = [] →
        a.bindings = [] →
        let j : ModeJob := { mode := m.f 0 1, frame := max (startOf (m.f 8 8)) (frameNo a + 1), notch := m.f 8 8, setChange := modeSet (m.f 0 1) != modeSet a.pw.mode, old := a.pw.mode, waiter := some (m.via, m.tag) }
        exec (.modeSet via input) s = .next (a.modPw (fun w => { w with job := some j })))) ∧
    (Accepted s via 0xC0A1 input a m →
      (∀ j, a.pw.job = some j → exec (.modeQuery via input) s =
        .next (answer a via m.tag 0xC0A1 0 (leBytes 1 a.pw.mode ++ leBytes 1 j.mode ++ [0, 0] ++ leBytes 8 j.notch))) ∧
      (a.pw.job = none → ∃ out, exec (.modeQuery via input) s = .next (answer a.tick via m.tag 0xC0A1 0 out) ∧ out.length = 12 ∧
        out.take 4 = leBytes 1 a.pw.mode ++ [0xFF, 0, 0])) ∧
    (Accepted s via 0xC090 input a m →
      let l := ledgerEntries m
      (64 < l.length → exec (.ledgerSet via input) s = .next (answer a via m.tag 0xC090 0x84 [])) ∧
      (l.length ≤ 64 → (∃ e ∈ l, 14 < e.master ∨ 3 < e.cls ∨ e.value = 0 ∨ 168 < e.value) →
        exec (.ledgerSet via input) s = .next (answer a via m.tag 0xC090 0x12 [])) ∧
      (l.length ≤ 64 → (∀ e ∈ l, e.master ≤ 14 ∧ e.cls ≤ 3 ∧ e.value ≠ 0 ∧ e.value ≤ 168) →
        ((∃ k, k < 640 ∧ capOf a (claimedSlots a) k < covering l (k / 32)) → exec (.ledgerSet via input) s = .next (answer a via m.tag 0xC090 0x83 [])) ∧
        ((∀ k, k < 640 → covering l (k / 32) ≤ capOf a (claimedSlots a) k) →
          exec (.ledgerSet via input) s = .next (answer { a with ledgerNext := some l } via m.tag 0xC090 0 [])))) ∧
    (Accepted s via 0xC091 input a m → ∃ out, exec (.ledgerQuery via input) s = .next (answer a via m.tag 0xC091 0 out) ∧
      out.take 4 = leBytes 4 a.ledger.length ∧ out.length = 4 + 8 * a.ledger.length)

/-- Hangs. A detector fires once in a frame for its domain, and each makes the hang of its row of R407: its domain, the
first resets, the runs in the domain as suspects or as affected runs; a hang is counted in RV_HANG_COUNT and reported by
EV_HANG; a command without progress has its context unpicked, and the watchdog resets the package (R407, R408, R413,
R429). -/
def Obligations.HangDetectors : Prop :=
  ∀ s : State,
    (∀ (k : CoreId) (r : Nat), (s.core k.val).run = some r →
      let fire := fun (det kind : Nat) (units : List ResetUnit) =>
        if s.rv.fired.contains (0, k.val / 128, r + 1) then units.foldl (fun t u => startReset t u 0 [r] [] [] []) s
        else hang (s.modRv (fun v => { v with fired := v.fired ++ [(0, k.val / 128, r + 1)] }))
          { det := det, kind := kind, num := k.val / 128, core := k.val % 128 } (fun x => [k.val].contains x) units
      ((s.core k.val).st = .xwait → s.fieldEff 0xB0000 4 12 ≠ 0 → s.fieldEff 0xB0000 4 12 ≤ (s.core k.val).xbounds →
        exec (.xwaitLimit k) s = .next (fire 1 1 [.engine k false, .engine k true])) ∧
      ((s.core k.val).st ≠ .xwait ∨ s.fieldEff 0xB0000 4 12 = 0 ∨ (s.core k.val).xbounds < s.fieldEff 0xB0000 4 12 →
        exec (.xwaitLimit k) s = .next s) ∧
      (∀ se, exec (.engineStuck k se) s = .next (fire 2 0 [.engine k se])) ∧
      ((s.core k.val).st = .unpicking → exec (.unpickStalled k) s = .next (fire 3 1 [.engine k false, .engine k true])) ∧
      ((s.core k.val).st ≠ .unpicking → exec (.unpickStalled k) s = .next s)) ∧
    (∀ k : CoreId, (s.core k.val).run = none → exec (.xwaitLimit k) s = .next s ∧ exec (.unpickStalled k) s = .next s ∧
      ∀ se, exec (.engineStuck k se) s = .next s) ∧
    (∀ (n : Nat) (i : Instr) (det : Nat) (c : Cluster), (det, i) ∈ [(4, Instr.clusterHeartbeatMiss c), (5, .exchangeStuck c)] → n = c.val →
      (domOn s (2 * n) = false → exec i s = .next s) ∧
      (domOn s (2 * n) = true → (4, n, 0) ∈ s.rv.fired → exec i s = .next s) ∧
      (domOn s (2 * n) = true → (4, n, 0) ∉ s.rv.fired → exec i s =
        .next (hang (s.modRv (fun v => { v with fired := v.fired ++ [(4, n, 0)] })) { det := det, kind := 2, num := n } (fun k => k / 128 == n) [.cluster c]))) ∧
    (∀ t : Cluster,
      ((s.stackOf t.val).selfRef = true ∨ domOn s (40 + t.val) = false ∨ (6, t.val, 0) ∈ s.rv.fired → exec (.stackHeartbeatMiss t) s = .next s) ∧
      ((s.stackOf t.val).selfRef = false → domOn s (40 + t.val) = true → (6, t.val, 0) ∉ s.rv.fired → exec (.stackHeartbeatMiss t) s =
        .next (hang (s.modRv (fun v => { v with fired := v.fired ++ [(6, t.val, 0)] })) { det := 6, kind := 3, num := t.val } (fun k => k / 128 == t.val) [.stack t]))) ∧
    (∀ d : Fin 2, (7, d.val, 0) ∉ s.rv.fired → exec (.dieHeartbeatMiss (d.castSucc)) s =
      .next (hang (s.modRv (fun v => { v with fired := v.fired ++ [(7, d.val, 0)] })) { det := 7, kind := 4, num := d.val } (fun k => dieOf (k / 128) == d.val) [.baseDie d])) ∧
    (∀ det i, (det, i) ∈ [(7, Instr.dieHeartbeatMiss 2), (8, .hubBlockStall)] →
      ((8, 2, 0) ∉ s.rv.fired → exec i s =
        .next (hang (s.modRv (fun v => { v with fired := v.fired ++ [(8, 2, 0)] })) { det := det, kind := 5, num := 2 } (fun _ => false) [.hubDie])) ∧
      ((8, 2, 0) ∈ s.rv.fired → exec i s = .next s)) ∧
    (∀ (c : Ctx) (tag : Word),
      let live := ∃ f ∈ (s.ctx c).ring.flights, f.tag = tag ∧ f.ended = none ∧ 5 ≤ f.opcode.toNat ∧ f.opcode.toNat ≤ 14
      (¬ live → exec (.commandProgressTimeout c tag) s = .next s) ∧
      (live → (9, c.val, 0) ∉ s.rv.fired → exec (.commandProgressTimeout c tag) s =
        .next (decideUnpick (noteHang (s.modRv (fun v => { v with fired := v.fired ++ [(9, c.val, 0)] })) { det := 9, kind := 7, num := 0 } 0 0 []) c 6 [] []))) ∧
    (exec .stewardWatchdog s = .next (doPackageReset (noteHang s { det := 10, kind := 6, num := 0 } 0 0 []) 0 (if s.pw.modRst then 0 else 1))) ∧
    ∀ (h : HangInfo) (sus aff : Nat) (cs : List Ctx), ∃ t, noteHang s h sus aff cs = raise t evHang cs (w1 h.det ++ w1 h.kind ++ w1 h.num ++ w1 h.core
        ++ w1 sus ++ w1 aff ++ w2 (frameNo s)) ∧ t.rv.lastHangFrame = BitVec.ofNat 64 (frameNo s) ∧
      t = { s.bump 0xB0008 1 with rv := { s.rv with lastHang := t.rv.lastHang, lastHangFrame := t.rv.lastHangFrame } }

/-- Unpicks, replays and resets. An unpick starts a new generation and stops the context's cores; its completion frees
them and answers who waits; a reset that completes reports itself and gives its blocks back; one that escalates begins
the next level; affected runs are armed as replays and suspects tested alone; a missed set change holds and resets its
stack; the recovery commands act as R428 states (R256, R405, R410, R414, R415, R418 to R421, R428). -/
def Obligations.RecoveryActions : Prop :=
  ∀ s : State,
    (∀ (c : Ctx) (cause : Nat), mget? s.rv.unpicks c.val = none → s.rv.testing = none →
      let t := decideUnpick s c cause [] []
      (t.ctx c).gen = (s.ctx c).gen + 1 ∧ (∃ j, mget? t.rv.unpicks c.val = some j ∧ j.cause = cause ∧ j.off = false) ∧
      (∀ x ∈ t.cues, x.2.ctx = c → x.2.gone = true) ∧
      ∀ x ∈ t.cores, x.2.ctx = some c → x.2.run ≠ none → x.2.st = .unpicking ∨ x.2.st = .reset) ∧
    (∀ c : Ctx,
      (∀ j, mget? s.rv.unpicks c.val = some j → j.off = true → exec (.unpickComplete c) s = .next (completeUnpick s c j)) ∧
      (∀ j, mget? s.rv.unpicks c.val = some j → j.off = false → exec (.unpickComplete c) s = .next s) ∧
      (mget? s.rv.unpicks c.val = none → exec (.unpickComplete c) s = .next s)) ∧
    (∀ u : ResetUnit,
      (mget? s.rv.resets (resetKey u) = none → exec (.resetComplete u) s = .next s ∧ exec (.resetEscalate u) s = .next s) ∧
      ∀ j, mget? s.rv.resets (resetKey u) = some j →
        (j.lateCues = [] → j.waiters = [] → exec (.resetComplete u) s =
          .next (resetDone (resetEvent (s.modRv (fun v => { v with resets := mdel v.resets (resetKey u) })) j false) u)) ∧
        (∀ w : Path × Word, j.lateCues = [] → j.waiters = [w] → exec (.resetComplete u) s =
          .next (answer (resetDone (resetEvent (s.modRv (fun v => { v with resets := mdel v.resets (resetKey u) })) j false) u) w.1 w.2 0xC0D2 0 [])) ∧
        exec (.resetEscalate u) s = .next (escalate s j) ∧
        (∀ v, nextLevel j.unit_ = some v → j.suspects = [] → j.waiters = [] →
          let b := setInt ((resetEvent (s.modRv (fun v => { v with resets := mdel v.resets (resetKey j.unit_) })) j true).bump 0xB000C 1 16) 11 4
          escalate s j = takeRuns (startReset b v 1 [] (j.affected ++ (runsIn b (inUnit v)).map (·.1)) [] j.lateCues) v false)) ∧
    (s.rv.replays = [] → exec .replayArm s = .next s) ∧
    (∀ r q b p, s.rv.replays = [(r, q)] → s.rv.suspects = [] → s.rv.resets = [] → cueRun s q = some (b, p) → b.quarantined = false →
      mget? s.rv.unpicks q.ctx.val = none →
      slotConflict s b p (runAt s (frameNo s + 2)) (runAt s (frameNo s + 2) + p.length + q.grace) = false →
      ∃ t n, exec .replayArm s = .next t ∧ t.rv.replays = [] ∧ mget? t.cues r = some n ∧ n.replay = true ∧ n.seed = q.seed ∧
        n.binding = q.binding ∧ n.grace = q.grace ∧ n.tag = q.tag ∧ n.start = frameNo s + 2 ∧ n.epoch = nextEpoch s 65536 s.epoch) ∧
    (∀ t : Cluster,
      (inSetChange s = true → (s.stackOf t.val).stuck = false → exec (.stackSetChangeTimeout t) s =
        .next (startReset ((s.modStack t.val (fun x => { x with stuck := true })).startSelfRef t.val) (.stack t) 0 [] [] [] [])) ∧
      (inSetChange s = false ∨ (s.stackOf t.val).stuck = true → exec (.stackSetChangeTimeout t) s = .next s)) ∧
    ∀ (via : Path) (input : List Byte) (a : State) (m : MciCall),
      (Accepted s via 0xC0D0 input a m →
        (512 ≤ m.f 0 2 → exec (.ctxUnpick via input) s = .next (answer a via m.tag 0xC0D0 0x14 [])) ∧
        (m.f 0 2 < 512 → ∃ t j, exec (.ctxUnpick via input) s = .next t ∧ mget? t.rv.unpicks (m.f 0 2) = some j ∧ (via, m.tag) ∈ j.waiters ∧
          (mget? a.rv.unpicks (m.f 0 2) = none → a.rv.testing = none → (t.ctx (toCtx (m.f 0 2))).gen = (a.ctx (toCtx (m.f 0 2))).gen + 1))) ∧
      (Accepted s via 0xC0D1 input a m →
        let n := m.f 0 2
        (512 ≤ n → exec (.quarantineRelease via input) s = .next (answer a via m.tag 0xC0D1 0x14 [])) ∧
        (n < 512 → (a.ctx (toCtx n)).quarantined = false → (∀ b ∈ a.bindings, b.2.ctx.val = n → b.2.quarantined = false) →
          exec (.quarantineRelease via input) s = .next (answer a via m.tag 0xC0D1 0x27 [])) ∧
        (n < 512 → ((a.ctx (toCtx n)).quarantined = true ∨ ∃ b ∈ a.bindings, b.2.ctx.val = n ∧ b.2.quarantined = true) →
          ∃ t : State, exec (.quarantineRelease via input) s = .next (answer t via m.tag 0xC0D1 0 []) ∧
            (t.ctx (toCtx n)).quarantined = false ∧ (t.ctx (toCtx n)).charges = [] ∧
            (∀ b ∈ t.bindings, b.2.ctx.val = n → b.2.quarantined = false) ∧
            ∀ c : Ctx, c ≠ toCtx n → t.ctx c = a.ctx c)) ∧
      (Accepted s via 0xC0D2 input a m →
        (2 ≤ m.f 0 1 → exec (.resetRequest via input) s = .next (answer a via m.tag 0xC0D2 0 [])) ∧
        ((m.f 0 1 = 0 ∧ 20 ≤ m.f 1 1) ∨ (m.f 0 1 = 1 ∧ 3 ≤ m.f 1 1) → exec (.resetRequest via input) s = .next (answer a via m.tag 0xC0D2 0x12 [])) ∧
        ∀ u : ResetUnit, (∃ c : Cluster, u = .cluster c ∧ m.f 0 1 = 0 ∧ m.f 1 1 = c.val) ∨ (∃ d : Fin 2, u = .baseDie d ∧ m.f 0 1 = 1 ∧ m.f 1 1 = d.val)
            ∨ (u = .hubDie ∧ m.f 0 1 = 1 ∧ m.f 1 1 = 2) →
          exec (.resetRequest via input) s = .next (takeRuns (startReset a u 2 [] ((runsIn a (inUnit u)).map (·.1)) [(m.via, m.tag)] []) u false))

/-- A step takes the command at the front of the queue and carries it out with the queue's rest; an empty queue leaves
the block as it is (the last is the model's choice, log entry 1). -/
def Obligations.StepTakesTheFront : Prop :=
  (∀ (c : Instr) (s : State) (rest : List Instr), step { s with pending := c :: rest } = exec c { s with pending := rest }) ∧
  ∀ s : State, s.pending = [] → step s = .next s

/-- What reset leaves: FT_TIME stopped and UNANCHORED, mode FULL, every core idle, every page, pattern, binding, cue and
context empty, no port up, the queue empty, and the DRAM's bytes in canonical form (R33, R62, R424, R459, R469). -/
def Obligations.ResetValues : Prop :=
  let s := State.reset
  s.Inv ∧ s.pending = [] ∧ s.ft.running = false ∧ s.ft.anchor = .unanchored ∧ s.pw.mode = 0 ∧ s.cores = [] ∧ (∀ k, (s.core k).st = .idle) ∧
  s.pages = [] ∧ s.patterns = [] ∧ s.bindings = [] ∧ s.cues = [] ∧ s.ctxs = [] ∧ s.keys = [] ∧ s.owner = none ∧ s.walk = none ∧
  s.rv.unpicks = [] ∧ s.rv.resets = [] ∧ s.rv.outOfService = false ∧ s.dram = [] ∧ s.regs = [] ∧ (∀ p, (s.port p).up = false) ∧
  (∀ b, (s.bay b).st = .empty) ∧ ∀ off ix d, regAt off = some d → s.reg off ix = regReset d ix

/-- Whatever command a step takes, the DRAM's bytes stay in canonical form. -/
def Obligations.StepKeepsInv : Prop :=
  ∀ s t : State, s.Inv → step s = .next t → t.Inv

/-- No command changes the queue of those that wait, and a step shortens it by one.
A command that is well formed always runs: no fault, no refusal; one with a code that the rules of its fields leave
reserved is refused by name (R76, R89, R91 to R93, R95, R97, R107 to R109, R111). -/
def Obligations.EveryCommandRuns : Prop :=
  ((∀ (c : Instr) (s t : State), exec c s = .next t → t.pending = s.pending) ∧
  ∀ (c : Instr) (rest : List Instr) (s t : State), s.pending = c :: rest → step s = .next t → t.pending = rest) ∧
  (∀ (c : Instr) (s : State), c.wf = true → ∃ t, exec c s = .next t) ∧
  (∀ (c : Instr) (s : State), c.wf = false → ∃ name, exec c s = .refused (.reservedEncoding name))

end
end

