-- ==== Sys2Proof/Laws/Maps.lean ====
section
/-! SUPPORT. The laws of the finite maps and of the canonical byte memories. -/

namespace Sys2Proof.Machine

/-- A canonical map has no entry below its bound. -/
theorem mget?_low {α : Type} (m : AMap α) (n a : Nat) (h : risesFrom n m = true) (l : a < n) : mget? m a = none := by
  cases m with
  | nil => rfl
  | cons c m =>
    obtain ⟨k, v⟩ := c
    simp only [risesFrom, Bool.and_eq_true, decide_eq_true_eq] at h
    have : a ≠ k := by omega
    have : a < k := by omega
    simp [mget?, *]

theorem risesFrom_mono {α : Type} (m : AMap α) (n k : Nat) (l : k ≤ n) (h : risesFrom n m = true) : risesFrom k m = true := by
  cases m with
  | nil => rfl
  | cons c m =>
    obtain ⟨a, v⟩ := c
    simp only [risesFrom, Bool.and_eq_true, decide_eq_true_eq] at *
    exact ⟨by omega, h.2⟩

theorem risesFrom_mput {α : Type} (m : AMap α) (n a : Nat) (x : α) (l : n ≤ a) (h : risesFrom n m = true) :
    risesFrom n (mput m a x) = true := by
  induction m generalizing n with
  | nil => simp [mput, risesFrom, l]
  | cons c m ih =>
    obtain ⟨k, v⟩ := c
    simp only [risesFrom, Bool.and_eq_true, decide_eq_true_eq] at h
    unfold mput
    split
    · subst_vars; simp [risesFrom, h.1, h.2]
    · split
      · simp only [risesFrom, Bool.and_eq_true, decide_eq_true_eq]
        exact ⟨l, by omega, h.2⟩
      · simp only [risesFrom, Bool.and_eq_true, decide_eq_true_eq]
        exact ⟨h.1, ih (k + 1) (by omega) h.2⟩

theorem risesFrom_mdel {α : Type} (m : AMap α) (n a : Nat) (h : risesFrom n m = true) : risesFrom n (mdel m a) = true := by
  induction m generalizing n with
  | nil => rfl
  | cons c m ih =>
    obtain ⟨k, v⟩ := c
    simp only [risesFrom, Bool.and_eq_true, decide_eq_true_eq] at h
    unfold mdel
    split
    · exact risesFrom_mono m _ _ (by omega) h.2
    · split
      · simp [risesFrom, h.1, h.2]
      · simp only [risesFrom, Bool.and_eq_true, decide_eq_true_eq]
        exact ⟨h.1, ih (k + 1) h.2⟩

theorem risesFrom_filter {α : Type} (m : AMap α) (n : Nat) (p : Nat × α → Bool) (h : risesFrom n m = true) :
    risesFrom n (m.filter p) = true := by
  induction m generalizing n with
  | nil => rfl
  | cons c m ih =>
    obtain ⟨k, v⟩ := c
    simp only [risesFrom, Bool.and_eq_true, decide_eq_true_eq] at h
    unfold List.filter
    split
    · simp only [risesFrom, Bool.and_eq_true, decide_eq_true_eq]
      exact ⟨h.1, ih (k + 1) h.2⟩
    · exact risesFrom_mono _ (k + 1) n (by omega) (ih (k + 1) h.2)

/-- The entry of a key after an entry is set. -/
theorem mget?_mput {α : Type} (m : AMap α) (n a b : Nat) (x : α) (h : risesFrom n m = true) :
    mget? (mput m a x) b = if b = a then some x else mget? m b := by
  induction m generalizing n with
  | nil => by_cases e : b = a <;> simp [mput, mget?, e]
  | cons c m ih =>
    obtain ⟨k, v⟩ := c
    simp only [risesFrom, Bool.and_eq_true, decide_eq_true_eq] at h
    unfold mput
    split
    · subst_vars
      by_cases e : b = k <;> simp [mget?, e]
    · split
      · by_cases e : b = a
        · simp [mget?, e]
        · by_cases f : b < a
          · have : b ≠ k := by omega
            have : b < k := by omega
            simp [mget?, *]
          · simp [mget?, e, f]
      · have := ih (k + 1) h.2
        by_cases e : b = k
        · have : b ≠ a := by omega
          simp [mget?, e]; omega
        · by_cases f : b < k
          · have : b ≠ a := by omega
            simp [mget?, *]
          · simp [mget?, e, f, this]

/-- The entry of a key after a key is taken out. -/
theorem mget?_mdel {α : Type} (m : AMap α) (n a b : Nat) (h : risesFrom n m = true) :
    mget? (mdel m a) b = if b = a then none else mget? m b := by
  induction m generalizing n with
  | nil => simp [mdel, mget?]
  | cons c m ih =>
    obtain ⟨k, v⟩ := c
    simp only [risesFrom, Bool.and_eq_true, decide_eq_true_eq] at h
    unfold mdel
    split
    · subst_vars
      by_cases e : b = k
      · simp [e, mget?_low m (k + 1) k h.2]
      · by_cases f : b < k
        · simp [mget?, e, f, mget?_low m (k + 1) b h.2 (by omega)]
        · simp [mget?, e, f]
    · split
      · by_cases e : b = a
        · have : b ≠ k := by omega
          simp [mget?, *]
        · simp [e]
      · have := ih (k + 1) h.2
        by_cases e : b = k
        · have : b ≠ a := by omega
          simp [mget?, e]; omega
        · by_cases f : b < k
          · simp [mget?, e, f]
          · simp [mget?, e, f, this]

theorem mput_all {α : Type} (m : AMap α) (a : Nat) (x : α) (p : Nat × α → Bool) (h : m.all p = true) (k : p (a, x) = true) :
    (mput m a x).all p = true := by
  induction m with
  | nil => simp [mput, k]
  | cons c m ih =>
    obtain ⟨b, v⟩ := c
    simp only [List.all_cons, Bool.and_eq_true] at h
    unfold mput
    split
    · simp [k, h.2]
    · split
      · simp [k, h.1, h.2]
      · simp [h.1, ih h.2]

theorem mdel_all {α : Type} (m : AMap α) (a : Nat) (p : Nat × α → Bool) (h : m.all p = true) : (mdel m a).all p = true := by
  induction m with
  | nil => rfl
  | cons c m ih =>
    obtain ⟨b, v⟩ := c
    simp only [List.all_cons, Bool.and_eq_true] at h
    unfold mdel
    split
    · exact h.2
    · split
      · simp [h.1, h.2]
      · simp [h.1, ih h.2]

/-- A byte written keeps the canonical form. -/
theorem cput_wf (m : List Host.Cell) (a : Nat) (b : Byte) (h : Memory.wf m = true) : Memory.wf (cput m a b) = true := by
  simp only [Memory.wf, Bool.and_eq_true] at *
  unfold cput
  split
  · exact ⟨risesFrom_mdel m 0 a h.1, mdel_all m a _ h.2⟩
  · exact ⟨risesFrom_mput m 0 a b (by omega) h.1, mput_all m a b _ h.2 (by simpa using ‹¬b = 0›)⟩

/-- Bytes written keep the canonical form. -/
theorem cwrites_wf (m : List Host.Cell) (a : Nat) (bs : List Byte) (h : Memory.wf m = true) : Memory.wf (cwrites m a bs) = true := by
  induction bs generalizing m a with
  | nil => exact h
  | cons b bs ih => exact ih _ _ (cput_wf m a b h)

/-- A range taken out keeps the canonical form. -/
theorem filter_wf (m : List Host.Cell) (p : Host.Cell → Bool) (h : Memory.wf m = true) : Memory.wf (m.filter p) = true := by
  simp only [Memory.wf, Bool.and_eq_true, List.all_eq_true] at *
  exact ⟨risesFrom_filter m 0 p h.1, fun c hc => h.2 c (List.mem_filter.mp hc).1⟩

/-- A read after a write of one byte (R6). -/
theorem cget_cput (m : List Host.Cell) (a b : Nat) (x : Byte) (h : Memory.wf m = true) :
    cget (cput m a x) b = if b = a then x else cget m b := by
  simp only [Memory.wf, Bool.and_eq_true] at h
  unfold cput cget mget
  split
  · rw [mget?_mdel m 0 a b h.1]; split <;> simp_all
  · rw [mget?_mput m 0 a b x h.1]; split <;> simp

/-- A read after a write of consecutive bytes. -/
theorem cget_cwrites (m : List Host.Cell) (a b : Nat) (bs : List Byte) (h : Memory.wf m = true) :
    cget (cwrites m a bs) b = if a ≤ b ∧ b < a + bs.length then bs.getD (b - a) 0 else cget m b := by
  induction bs generalizing m a with
  | nil => simp [cwrites]
  | cons c bs ih =>
    rw [cwrites, ih _ _ (cput_wf m a c h), cget_cput m a b c h]
    by_cases e : b = a
    · subst e; simp
    · by_cases f : a ≤ b ∧ b < a + (bs.length + 1)
      · have : a + 1 ≤ b ∧ b < a + 1 + bs.length := by omega
        have g : b - a = (b - (a + 1)) + 1 := by omega
        simp [f, this, g]
      · have : ¬ (a + 1 ≤ b ∧ b < a + 1 + bs.length) := by omega
        rw [if_neg this, if_neg e, if_neg (by simpa using f)]

end Sys2Proof.Machine
end

