-- ==== Sys2Proof/Laws/State.lean ====
section
/-! SUPPORT. Reading a part of the state after one part of it has been changed: one lemma for each reader and each
change, so that no proof unfolds a record update. -/

namespace Sys2Proof.Machine

/-- Reading a map after a key is set; it needs no order of the keys. -/
theorem mget?_mput' {α : Type} (m : AMap α) (a b : Nat) (x : α) :
    mget? (mput m a x) b = if b = a then some x else mget? m b := by
  induction m with
  | nil => by_cases h : b = a <;> simp [mput, mget?, h]
  | cons e m ih =>
    obtain ⟨k, v⟩ := e
    simp only [mput]
    split
    · rename_i h; subst h; by_cases h : b = a <;> simp [mget?, h]
    · split
      · rename_i h1 h2
        by_cases h : b = a
        · simp [mget?, h]
        · simp only [mget?, h, if_false]
          by_cases h3 : b < a
          · have h4 : b ≠ k := by omega
            have h5 : b < k := by omega
            simp [h3, h4, h5]
          · simp [h3]
      · simp only [mget?, ih]
        split
        · split
          · omega
          · rfl
        · split
          · split
            · omega
            · rfl
          · rfl

theorem mget_mput {α : Type} (d : α) (m : AMap α) (a b : Nat) (x : α) :
    mget d (mput m a x) b = if b = a then x else mget d m b := by
  simp only [mget, mget?_mput']; split <;> rfl

@[simp] theorem mget_mput_self {α : Type} (d : α) (m : AMap α) (a : Nat) (x : α) : mget d (mput m a x) a = x := by
  simp [mget_mput]

@[simp] theorem mget?_mput_self {α : Type} (m : AMap α) (a : Nat) (x : α) : mget? (mput m a x) a = some x := by
  simp [mget?_mput']

/-- Setting a key twice is setting it once. -/
@[simp] theorem mput_mput {α : Type} (m : AMap α) (a : Nat) (x y : α) : mput (mput m a x) a y = mput m a y := by
  induction m with
  | nil => simp [mput]
  | cons e m ih =>
    obtain ⟨k, v⟩ := e
    simp only [mput]
    split
    · simp [mput]
    · split
      · simp [mput]
      · simp [mput, *]

/-- Changing the same port twice. -/
theorem State.modPort_modPort (s : State) (p : Port) (f g : PortState → PortState) :
    (s.modPort p f).modPort p g = s.modPort p (fun x => g (f x)) := by simp [State.modPort, mmod]

/-- Changing the same core twice. -/
theorem State.modCore_modCore (s : State) (k : Nat) (f g : CoreState → CoreState) :
    (s.modCore k f).modCore k g = s.modCore k (fun x => g (f x)) := by simp [State.modCore, mmod]

theorem State.port_modPort (s : State) (p q : Port) (f : PortState → PortState) :
    (s.modPort p f).port q = if q = p then f (s.port p) else s.port q := by
  simp only [State.modPort, State.port, mmod, mget_mput, Fin.ext_iff]

@[simp] theorem State.port_modPort_self (s : State) (p : Port) (f : PortState → PortState) :
    (s.modPort p f).port p = f (s.port p) := by simp [State.port_modPort]

theorem State.ctx_modCtx (s : State) (c d : Ctx) (f : CtxState → CtxState) :
    (s.modCtx c f).ctx d = if d = c then f (s.ctx c) else s.ctx d := by
  simp only [State.modCtx, State.ctx, mmod, mget_mput, Fin.ext_iff]

@[simp] theorem State.ctx_modCtx_self (s : State) (c : Ctx) (f : CtxState → CtxState) :
    (s.modCtx c f).ctx c = f (s.ctx c) := by simp [State.ctx_modCtx]

theorem State.core_modCore (s : State) (k j : Nat) (f : CoreState → CoreState) :
    (s.modCore k f).core j = if j = k then f (s.core k) else s.core j := by
  simp only [State.modCore, State.core, mmod, mget_mput]

@[simp] theorem State.core_modCore_self (s : State) (k : Nat) (f : CoreState → CoreState) :
    (s.modCore k f).core k = f (s.core k) := by simp [State.core_modCore]

theorem State.bay_modBay (s : State) (b d : Nat) (f : BayState → BayState) :
    (s.modBay b f).bay d = if d = b then f (s.bay b) else s.bay d := by
  simp only [State.modBay, State.bay, mmod, mget_mput]

@[simp] theorem State.bay_modBay_self (s : State) (b : Nat) (f : BayState → BayState) :
    (s.modBay b f).bay b = f (s.bay b) := by simp [State.bay_modBay]

@[simp] theorem State.modPort_pending (s : State) (p : Port) (f : PortState → PortState) : (s.modPort p f).pending = s.pending := rfl
@[simp] theorem State.modPort_out (s : State) (p : Port) (f : PortState → PortState) : (s.modPort p f).out = s.out := rfl
@[simp] theorem State.modPort_free (s : State) (p : Port) (f : PortState → PortState) : (s.modPort p f).free = s.free := rfl
@[simp] theorem State.modPort_regs (s : State) (p : Port) (f : PortState → PortState) : (s.modPort p f).regs = s.regs := rfl
@[simp] theorem State.modPort_eff (s : State) (p : Port) (f : PortState → PortState) : (s.modPort p f).eff = s.eff := rfl
@[simp] theorem State.modPort_counts (s : State) (p : Port) (f : PortState → PortState) : (s.modPort p f).counts = s.counts := rfl
@[simp] theorem State.modPort_merged (s : State) (p : Port) (f : PortState → PortState) : (s.modPort p f).merged = s.merged := rfl
@[simp] theorem State.modPort_ft (s : State) (p : Port) (f : PortState → PortState) : (s.modPort p f).ft = s.ft := rfl
@[simp] theorem State.modPort_ctxs (s : State) (p : Port) (f : PortState → PortState) : (s.modPort p f).ctxs = s.ctxs := rfl
@[simp] theorem State.modPort_owner (s : State) (p : Port) (f : PortState → PortState) : (s.modPort p f).owner = s.owner := rfl
@[simp] theorem State.modPort_srcTab (s : State) (p : Port) (f : PortState → PortState) : (s.modPort p f).srcTab = s.srcTab := rfl
@[simp] theorem State.modPort_srcStaged (s : State) (p : Port) (f : PortState → PortState) : (s.modPort p f).srcStaged = s.srcStaged := rfl
@[simp] theorem State.modPort_srcDue (s : State) (p : Port) (f : PortState → PortState) : (s.modPort p f).srcDue = s.srcDue := rfl
@[simp] theorem State.modPort_srcGen (s : State) (p : Port) (f : PortState → PortState) : (s.modPort p f).srcGen = s.srcGen := rfl
@[simp] theorem State.modPort_sbCtx (s : State) (p : Port) (f : PortState → PortState) : (s.modPort p f).sbCtx = s.sbCtx := rfl
@[simp] theorem State.modPort_eids (s : State) (p : Port) (f : PortState → PortState) : (s.modPort p f).eids = s.eids := rfl
@[simp] theorem State.modPort_extents (s : State) (p : Port) (f : PortState → PortState) : (s.modPort p f).extents = s.extents := rfl
@[simp] theorem State.modPort_objects (s : State) (p : Port) (f : PortState → PortState) : (s.modPort p f).objects = s.objects := rfl
@[simp] theorem State.modPort_contents (s : State) (p : Port) (f : PortState → PortState) : (s.modPort p f).contents = s.contents := rfl
@[simp] theorem State.modPort_nextContent (s : State) (p : Port) (f : PortState → PortState) : (s.modPort p f).nextContent = s.nextContent := rfl
@[simp] theorem State.modPort_pages (s : State) (p : Port) (f : PortState → PortState) : (s.modPort p f).pages = s.pages := rfl
@[simp] theorem State.modPort_frames (s : State) (p : Port) (f : PortState → PortState) : (s.modPort p f).frames = s.frames := rfl
@[simp] theorem State.modPort_light (s : State) (p : Port) (f : PortState → PortState) : (s.modPort p f).light = s.light := rfl
@[simp] theorem State.modPort_unitsUsed (s : State) (p : Port) (f : PortState → PortState) : (s.modPort p f).unitsUsed = s.unitsUsed := rfl
@[simp] theorem State.modPort_recSeq (s : State) (p : Port) (f : PortState → PortState) : (s.modPort p f).recSeq = s.recSeq := rfl
@[simp] theorem State.modPort_flashLow (s : State) (p : Port) (f : PortState → PortState) : (s.modPort p f).flashLow = s.flashLow := rfl
@[simp] theorem State.modPort_pressed (s : State) (p : Port) (f : PortState → PortState) : (s.modPort p f).pressed = s.pressed := rfl
@[simp] theorem State.modPort_pins (s : State) (p : Port) (f : PortState → PortState) : (s.modPort p f).pins = s.pins := rfl
@[simp] theorem State.modPort_scheduled (s : State) (p : Port) (f : PortState → PortState) : (s.modPort p f).scheduled = s.scheduled := rfl
@[simp] theorem State.modPort_moveSeq (s : State) (p : Port) (f : PortState → PortState) : (s.modPort p f).moveSeq = s.moveSeq := rfl
@[simp] theorem State.modPort_views (s : State) (p : Port) (f : PortState → PortState) : (s.modPort p f).views = s.views := rfl
@[simp] theorem State.modPort_nextView (s : State) (p : Port) (f : PortState → PortState) : (s.modPort p f).nextView = s.nextView := rfl
@[simp] theorem State.modPort_windows (s : State) (p : Port) (f : PortState → PortState) : (s.modPort p f).windows = s.windows := rfl
@[simp] theorem State.modPort_nextWindow (s : State) (p : Port) (f : PortState → PortState) : (s.modPort p f).nextWindow = s.nextWindow := rfl
@[simp] theorem State.modPort_directory (s : State) (p : Port) (f : PortState → PortState) : (s.modPort p f).directory = s.directory := rfl
@[simp] theorem State.modPort_dirSeq (s : State) (p : Port) (f : PortState → PortState) : (s.modPort p f).dirSeq = s.dirSeq := rfl
@[simp] theorem State.modPort_eager (s : State) (p : Port) (f : PortState → PortState) : (s.modPort p f).eager = s.eager := rfl
@[simp] theorem State.modPort_windowDirty (s : State) (p : Port) (f : PortState → PortState) : (s.modPort p f).windowDirty = s.windowDirty := rfl
@[simp] theorem State.modPort_waits (s : State) (p : Port) (f : PortState → PortState) : (s.modPort p f).waits = s.waits := rfl
@[simp] theorem State.modPort_orders (s : State) (p : Port) (f : PortState → PortState) : (s.modPort p f).orders = s.orders := rfl
@[simp] theorem State.modPort_dram (s : State) (p : Port) (f : PortState → PortState) : (s.modPort p f).dram = s.dram := rfl
@[simp] theorem State.modPort_poison (s : State) (p : Port) (f : PortState → PortState) : (s.modPort p f).poison = s.poison := rfl
@[simp] theorem State.modPort_hint (s : State) (p : Port) (f : PortState → PortState) : (s.modPort p f).hint = s.hint := rfl
@[simp] theorem State.modPort_badCode (s : State) (p : Port) (f : PortState → PortState) : (s.modPort p f).badCode = s.badCode := rfl
@[simp] theorem State.modPort_seals (s : State) (p : Port) (f : PortState → PortState) : (s.modPort p f).seals = s.seals := rfl
@[simp] theorem State.modPort_cellErr (s : State) (p : Port) (f : PortState → PortState) : (s.modPort p f).cellErr = s.cellErr := rfl
@[simp] theorem State.modPort_steer (s : State) (p : Port) (f : PortState → PortState) : (s.modPort p f).steer = s.steer := rfl
@[simp] theorem State.modPort_chans (s : State) (p : Port) (f : PortState → PortState) : (s.modPort p f).chans = s.chans := rfl
@[simp] theorem State.modPort_stackSt (s : State) (p : Port) (f : PortState → PortState) : (s.modPort p f).stackSt = s.stackSt := rfl
@[simp] theorem State.modPort_lastErr (s : State) (p : Port) (f : PortState → PortState) : (s.modPort p f).lastErr = s.lastErr := rfl
@[simp] theorem State.modPort_patterns (s : State) (p : Port) (f : PortState → PortState) : (s.modPort p f).patterns = s.patterns := rfl
@[simp] theorem State.modPort_nextPattern (s : State) (p : Port) (f : PortState → PortState) : (s.modPort p f).nextPattern = s.nextPattern := rfl
@[simp] theorem State.modPort_bindings (s : State) (p : Port) (f : PortState → PortState) : (s.modPort p f).bindings = s.bindings := rfl
@[simp] theorem State.modPort_nextBinding (s : State) (p : Port) (f : PortState → PortState) : (s.modPort p f).nextBinding = s.nextBinding := rfl
@[simp] theorem State.modPort_cues (s : State) (p : Port) (f : PortState → PortState) : (s.modPort p f).cues = s.cues := rfl
@[simp] theorem State.modPort_nextCue (s : State) (p : Port) (f : PortState → PortState) : (s.modPort p f).nextCue = s.nextCue := rfl
@[simp] theorem State.modPort_epoch (s : State) (p : Port) (f : PortState → PortState) : (s.modPort p f).epoch = s.epoch := rfl
@[simp] theorem State.modPort_cores (s : State) (p : Port) (f : PortState → PortState) : (s.modPort p f).cores = s.cores := rfl
@[simp] theorem State.modPort_msgs (s : State) (p : Port) (f : PortState → PortState) : (s.modPort p f).msgs = s.msgs := rfl
@[simp] theorem State.modPort_nextMsg (s : State) (p : Port) (f : PortState → PortState) : (s.modPort p f).nextMsg = s.nextMsg := rfl
@[simp] theorem State.modPort_reds (s : State) (p : Port) (f : PortState → PortState) : (s.modPort p f).reds = s.reds := rfl
@[simp] theorem State.modPort_redDone (s : State) (p : Port) (f : PortState → PortState) : (s.modPort p f).redDone = s.redDone := rfl
@[simp] theorem State.modPort_stale (s : State) (p : Port) (f : PortState → PortState) : (s.modPort p f).stale = s.stale := rfl
@[simp] theorem State.modPort_chanCodec (s : State) (p : Port) (f : PortState → PortState) : (s.modPort p f).chanCodec = s.chanCodec := rfl
@[simp] theorem State.modPort_nextChan (s : State) (p : Port) (f : PortState → PortState) : (s.modPort p f).nextChan = s.nextChan := rfl
@[simp] theorem State.modPort_upstream (s : State) (p : Port) (f : PortState → PortState) : (s.modPort p f).upstream = s.upstream := rfl
@[simp] theorem State.modPort_nmWaits (s : State) (p : Port) (f : PortState → PortState) : (s.modPort p f).nmWaits = s.nmWaits := rfl
@[simp] theorem State.modPort_bays (s : State) (p : Port) (f : PortState → PortState) : (s.modPort p f).bays = s.bays := rfl
@[simp] theorem State.modPort_walk (s : State) (p : Port) (f : PortState → PortState) : (s.modPort p f).walk = s.walk := rfl
@[simp] theorem State.modPort_vacated (s : State) (p : Port) (f : PortState → PortState) : (s.modPort p f).vacated = s.vacated := rfl
@[simp] theorem State.modPort_stripes (s : State) (p : Port) (f : PortState → PortState) : (s.modPort p f).stripes = s.stripes := rfl
@[simp] theorem State.modPort_nextStripe (s : State) (p : Port) (f : PortState → PortState) : (s.modPort p f).nextStripe = s.nextStripe := rfl
@[simp] theorem State.modPort_broken (s : State) (p : Port) (f : PortState → PortState) : (s.modPort p f).broken = s.broken := rfl
@[simp] theorem State.modPort_linkArbs (s : State) (p : Port) (f : PortState → PortState) : (s.modPort p f).linkArbs = s.linkArbs := rfl
@[simp] theorem State.modPort_ledger (s : State) (p : Port) (f : PortState → PortState) : (s.modPort p f).ledger = s.ledger := rfl
@[simp] theorem State.modPort_ledgerNext (s : State) (p : Port) (f : PortState → PortState) : (s.modPort p f).ledgerNext = s.ledgerNext := rfl
@[simp] theorem State.modPort_shrunk (s : State) (p : Port) (f : PortState → PortState) : (s.modPort p f).shrunk = s.shrunk := rfl
@[simp] theorem State.modPort_shrunkAt (s : State) (p : Port) (f : PortState → PortState) : (s.modPort p f).shrunkAt = s.shrunkAt := rfl
@[simp] theorem State.modPort_recompute (s : State) (p : Port) (f : PortState → PortState) : (s.modPort p f).recompute = s.recompute := rfl
@[simp] theorem State.modPort_keys (s : State) (p : Port) (f : PortState → PortState) : (s.modPort p f).keys = s.keys := rfl
@[simp] theorem State.modPort_keks (s : State) (p : Port) (f : PortState → PortState) : (s.modPort p f).keks = s.keks := rfl
@[simp] theorem State.modPort_ide (s : State) (p : Port) (f : PortState → PortState) : (s.modPort p f).ide = s.ide := rfl
@[simp] theorem State.modPort_fwStore (s : State) (p : Port) (f : PortState → PortState) : (s.modPort p f).fwStore = s.fwStore := rfl
@[simp] theorem State.modPort_fwBad (s : State) (p : Port) (f : PortState → PortState) : (s.modPort p f).fwBad = s.fwBad := rfl
@[simp] theorem State.modPort_fwRun (s : State) (p : Port) (f : PortState → PortState) : (s.modPort p f).fwRun = s.fwRun := rfl
@[simp] theorem State.modPort_fwXfer (s : State) (p : Port) (f : PortState → PortState) : (s.modPort p f).fwXfer = s.fwXfer := rfl
@[simp] theorem State.modPort_fwWrite (s : State) (p : Port) (f : PortState → PortState) : (s.modPort p f).fwWrite = s.fwWrite := rfl
@[simp] theorem State.modPort_svnFloor (s : State) (p : Port) (f : PortState → PortState) : (s.modPort p f).svnFloor = s.svnFloor := rfl
@[simp] theorem State.modPort_revoked (s : State) (p : Port) (f : PortState → PortState) : (s.modPort p f).revoked = s.revoked := rfl
@[simp] theorem State.modPort_spdm (s : State) (p : Port) (f : PortState → PortState) : (s.modPort p f).spdm = s.spdm := rfl
@[simp] theorem State.modPort_signQueue (s : State) (p : Port) (f : PortState → PortState) : (s.modPort p f).signQueue = s.signQueue := rfl
@[simp] theorem State.modPort_aliasReady (s : State) (p : Port) (f : PortState → PortState) : (s.modPort p f).aliasReady = s.aliasReady := rfl
@[simp] theorem State.modPort_pw (s : State) (p : Port) (f : PortState → PortState) : (s.modPort p f).pw = s.pw := rfl
@[simp] theorem State.modPort_rv (s : State) (p : Port) (f : PortState → PortState) : (s.modPort p f).rv = s.rv := rfl
@[simp] theorem State.modPort_lockWaits (s : State) (p : Port) (f : PortState → PortState) : (s.modPort p f).lockWaits = s.lockWaits := rfl
@[simp] theorem State.modPort_pubs (s : State) (p : Port) (f : PortState → PortState) : (s.modPort p f).pubs = s.pubs := rfl
@[simp] theorem State.modPort_faultPin (s : State) (p : Port) (f : PortState → PortState) : (s.modPort p f).faultPin = s.faultPin := rfl
@[simp] theorem State.modPort_thermPin (s : State) (p : Port) (f : PortState → PortState) : (s.modPort p f).thermPin = s.thermPin := rfl
@[simp] theorem State.modPort_baySafe (s : State) (p : Port) (f : PortState → PortState) : (s.modPort p f).baySafe = s.baySafe := rfl

@[simp] theorem State.modCtx_pending (s : State) (c : Ctx) (f : CtxState → CtxState) : (s.modCtx c f).pending = s.pending := rfl
@[simp] theorem State.modCtx_out (s : State) (c : Ctx) (f : CtxState → CtxState) : (s.modCtx c f).out = s.out := rfl
@[simp] theorem State.modCtx_free (s : State) (c : Ctx) (f : CtxState → CtxState) : (s.modCtx c f).free = s.free := rfl
@[simp] theorem State.modCtx_regs (s : State) (c : Ctx) (f : CtxState → CtxState) : (s.modCtx c f).regs = s.regs := rfl
@[simp] theorem State.modCtx_eff (s : State) (c : Ctx) (f : CtxState → CtxState) : (s.modCtx c f).eff = s.eff := rfl
@[simp] theorem State.modCtx_counts (s : State) (c : Ctx) (f : CtxState → CtxState) : (s.modCtx c f).counts = s.counts := rfl
@[simp] theorem State.modCtx_merged (s : State) (c : Ctx) (f : CtxState → CtxState) : (s.modCtx c f).merged = s.merged := rfl
@[simp] theorem State.modCtx_ft (s : State) (c : Ctx) (f : CtxState → CtxState) : (s.modCtx c f).ft = s.ft := rfl
@[simp] theorem State.modCtx_ports (s : State) (c : Ctx) (f : CtxState → CtxState) : (s.modCtx c f).ports = s.ports := rfl
@[simp] theorem State.modCtx_owner (s : State) (c : Ctx) (f : CtxState → CtxState) : (s.modCtx c f).owner = s.owner := rfl
@[simp] theorem State.modCtx_srcTab (s : State) (c : Ctx) (f : CtxState → CtxState) : (s.modCtx c f).srcTab = s.srcTab := rfl
@[simp] theorem State.modCtx_srcStaged (s : State) (c : Ctx) (f : CtxState → CtxState) : (s.modCtx c f).srcStaged = s.srcStaged := rfl
@[simp] theorem State.modCtx_srcDue (s : State) (c : Ctx) (f : CtxState → CtxState) : (s.modCtx c f).srcDue = s.srcDue := rfl
@[simp] theorem State.modCtx_srcGen (s : State) (c : Ctx) (f : CtxState → CtxState) : (s.modCtx c f).srcGen = s.srcGen := rfl
@[simp] theorem State.modCtx_sbCtx (s : State) (c : Ctx) (f : CtxState → CtxState) : (s.modCtx c f).sbCtx = s.sbCtx := rfl
@[simp] theorem State.modCtx_eids (s : State) (c : Ctx) (f : CtxState → CtxState) : (s.modCtx c f).eids = s.eids := rfl
@[simp] theorem State.modCtx_extents (s : State) (c : Ctx) (f : CtxState → CtxState) : (s.modCtx c f).extents = s.extents := rfl
@[simp] theorem State.modCtx_objects (s : State) (c : Ctx) (f : CtxState → CtxState) : (s.modCtx c f).objects = s.objects := rfl
@[simp] theorem State.modCtx_contents (s : State) (c : Ctx) (f : CtxState → CtxState) : (s.modCtx c f).contents = s.contents := rfl
@[simp] theorem State.modCtx_nextContent (s : State) (c : Ctx) (f : CtxState → CtxState) : (s.modCtx c f).nextContent = s.nextContent := rfl
@[simp] theorem State.modCtx_pages (s : State) (c : Ctx) (f : CtxState → CtxState) : (s.modCtx c f).pages = s.pages := rfl
@[simp] theorem State.modCtx_frames (s : State) (c : Ctx) (f : CtxState → CtxState) : (s.modCtx c f).frames = s.frames := rfl
@[simp] theorem State.modCtx_light (s : State) (c : Ctx) (f : CtxState → CtxState) : (s.modCtx c f).light = s.light := rfl
@[simp] theorem State.modCtx_unitsUsed (s : State) (c : Ctx) (f : CtxState → CtxState) : (s.modCtx c f).unitsUsed = s.unitsUsed := rfl
@[simp] theorem State.modCtx_recSeq (s : State) (c : Ctx) (f : CtxState → CtxState) : (s.modCtx c f).recSeq = s.recSeq := rfl
@[simp] theorem State.modCtx_flashLow (s : State) (c : Ctx) (f : CtxState → CtxState) : (s.modCtx c f).flashLow = s.flashLow := rfl
@[simp] theorem State.modCtx_pressed (s : State) (c : Ctx) (f : CtxState → CtxState) : (s.modCtx c f).pressed = s.pressed := rfl
@[simp] theorem State.modCtx_pins (s : State) (c : Ctx) (f : CtxState → CtxState) : (s.modCtx c f).pins = s.pins := rfl
@[simp] theorem State.modCtx_scheduled (s : State) (c : Ctx) (f : CtxState → CtxState) : (s.modCtx c f).scheduled = s.scheduled := rfl
@[simp] theorem State.modCtx_moveSeq (s : State) (c : Ctx) (f : CtxState → CtxState) : (s.modCtx c f).moveSeq = s.moveSeq := rfl
@[simp] theorem State.modCtx_views (s : State) (c : Ctx) (f : CtxState → CtxState) : (s.modCtx c f).views = s.views := rfl
@[simp] theorem State.modCtx_nextView (s : State) (c : Ctx) (f : CtxState → CtxState) : (s.modCtx c f).nextView = s.nextView := rfl
@[simp] theorem State.modCtx_windows (s : State) (c : Ctx) (f : CtxState → CtxState) : (s.modCtx c f).windows = s.windows := rfl
@[simp] theorem State.modCtx_nextWindow (s : State) (c : Ctx) (f : CtxState → CtxState) : (s.modCtx c f).nextWindow = s.nextWindow := rfl
@[simp] theorem State.modCtx_directory (s : State) (c : Ctx) (f : CtxState → CtxState) : (s.modCtx c f).directory = s.directory := rfl
@[simp] theorem State.modCtx_dirSeq (s : State) (c : Ctx) (f : CtxState → CtxState) : (s.modCtx c f).dirSeq = s.dirSeq := rfl
@[simp] theorem State.modCtx_eager (s : State) (c : Ctx) (f : CtxState → CtxState) : (s.modCtx c f).eager = s.eager := rfl
@[simp] theorem State.modCtx_windowDirty (s : State) (c : Ctx) (f : CtxState → CtxState) : (s.modCtx c f).windowDirty = s.windowDirty := rfl
@[simp] theorem State.modCtx_waits (s : State) (c : Ctx) (f : CtxState → CtxState) : (s.modCtx c f).waits = s.waits := rfl
@[simp] theorem State.modCtx_orders (s : State) (c : Ctx) (f : CtxState → CtxState) : (s.modCtx c f).orders = s.orders := rfl
@[simp] theorem State.modCtx_dram (s : State) (c : Ctx) (f : CtxState → CtxState) : (s.modCtx c f).dram = s.dram := rfl
@[simp] theorem State.modCtx_poison (s : State) (c : Ctx) (f : CtxState → CtxState) : (s.modCtx c f).poison = s.poison := rfl
@[simp] theorem State.modCtx_hint (s : State) (c : Ctx) (f : CtxState → CtxState) : (s.modCtx c f).hint = s.hint := rfl
@[simp] theorem State.modCtx_badCode (s : State) (c : Ctx) (f : CtxState → CtxState) : (s.modCtx c f).badCode = s.badCode := rfl
@[simp] theorem State.modCtx_seals (s : State) (c : Ctx) (f : CtxState → CtxState) : (s.modCtx c f).seals = s.seals := rfl
@[simp] theorem State.modCtx_cellErr (s : State) (c : Ctx) (f : CtxState → CtxState) : (s.modCtx c f).cellErr = s.cellErr := rfl
@[simp] theorem State.modCtx_steer (s : State) (c : Ctx) (f : CtxState → CtxState) : (s.modCtx c f).steer = s.steer := rfl
@[simp] theorem State.modCtx_chans (s : State) (c : Ctx) (f : CtxState → CtxState) : (s.modCtx c f).chans = s.chans := rfl
@[simp] theorem State.modCtx_stackSt (s : State) (c : Ctx) (f : CtxState → CtxState) : (s.modCtx c f).stackSt = s.stackSt := rfl
@[simp] theorem State.modCtx_lastErr (s : State) (c : Ctx) (f : CtxState → CtxState) : (s.modCtx c f).lastErr = s.lastErr := rfl
@[simp] theorem State.modCtx_patterns (s : State) (c : Ctx) (f : CtxState → CtxState) : (s.modCtx c f).patterns = s.patterns := rfl
@[simp] theorem State.modCtx_nextPattern (s : State) (c : Ctx) (f : CtxState → CtxState) : (s.modCtx c f).nextPattern = s.nextPattern := rfl
@[simp] theorem State.modCtx_bindings (s : State) (c : Ctx) (f : CtxState → CtxState) : (s.modCtx c f).bindings = s.bindings := rfl
@[simp] theorem State.modCtx_nextBinding (s : State) (c : Ctx) (f : CtxState → CtxState) : (s.modCtx c f).nextBinding = s.nextBinding := rfl
@[simp] theorem State.modCtx_cues (s : State) (c : Ctx) (f : CtxState → CtxState) : (s.modCtx c f).cues = s.cues := rfl
@[simp] theorem State.modCtx_nextCue (s : State) (c : Ctx) (f : CtxState → CtxState) : (s.modCtx c f).nextCue = s.nextCue := rfl
@[simp] theorem State.modCtx_epoch (s : State) (c : Ctx) (f : CtxState → CtxState) : (s.modCtx c f).epoch = s.epoch := rfl
@[simp] theorem State.modCtx_cores (s : State) (c : Ctx) (f : CtxState → CtxState) : (s.modCtx c f).cores = s.cores := rfl
@[simp] theorem State.modCtx_msgs (s : State) (c : Ctx) (f : CtxState → CtxState) : (s.modCtx c f).msgs = s.msgs := rfl
@[simp] theorem State.modCtx_nextMsg (s : State) (c : Ctx) (f : CtxState → CtxState) : (s.modCtx c f).nextMsg = s.nextMsg := rfl
@[simp] theorem State.modCtx_reds (s : State) (c : Ctx) (f : CtxState → CtxState) : (s.modCtx c f).reds = s.reds := rfl
@[simp] theorem State.modCtx_redDone (s : State) (c : Ctx) (f : CtxState → CtxState) : (s.modCtx c f).redDone = s.redDone := rfl
@[simp] theorem State.modCtx_stale (s : State) (c : Ctx) (f : CtxState → CtxState) : (s.modCtx c f).stale = s.stale := rfl
@[simp] theorem State.modCtx_chanCodec (s : State) (c : Ctx) (f : CtxState → CtxState) : (s.modCtx c f).chanCodec = s.chanCodec := rfl
@[simp] theorem State.modCtx_nextChan (s : State) (c : Ctx) (f : CtxState → CtxState) : (s.modCtx c f).nextChan = s.nextChan := rfl
@[simp] theorem State.modCtx_upstream (s : State) (c : Ctx) (f : CtxState → CtxState) : (s.modCtx c f).upstream = s.upstream := rfl
@[simp] theorem State.modCtx_nmWaits (s : State) (c : Ctx) (f : CtxState → CtxState) : (s.modCtx c f).nmWaits = s.nmWaits := rfl
@[simp] theorem State.modCtx_bays (s : State) (c : Ctx) (f : CtxState → CtxState) : (s.modCtx c f).bays = s.bays := rfl
@[simp] theorem State.modCtx_walk (s : State) (c : Ctx) (f : CtxState → CtxState) : (s.modCtx c f).walk = s.walk := rfl
@[simp] theorem State.modCtx_vacated (s : State) (c : Ctx) (f : CtxState → CtxState) : (s.modCtx c f).vacated = s.vacated := rfl
@[simp] theorem State.modCtx_stripes (s : State) (c : Ctx) (f : CtxState → CtxState) : (s.modCtx c f).stripes = s.stripes := rfl
@[simp] theorem State.modCtx_nextStripe (s : State) (c : Ctx) (f : CtxState → CtxState) : (s.modCtx c f).nextStripe = s.nextStripe := rfl
@[simp] theorem State.modCtx_broken (s : State) (c : Ctx) (f : CtxState → CtxState) : (s.modCtx c f).broken = s.broken := rfl
@[simp] theorem State.modCtx_linkArbs (s : State) (c : Ctx) (f : CtxState → CtxState) : (s.modCtx c f).linkArbs = s.linkArbs := rfl
@[simp] theorem State.modCtx_ledger (s : State) (c : Ctx) (f : CtxState → CtxState) : (s.modCtx c f).ledger = s.ledger := rfl
@[simp] theorem State.modCtx_ledgerNext (s : State) (c : Ctx) (f : CtxState → CtxState) : (s.modCtx c f).ledgerNext = s.ledgerNext := rfl
@[simp] theorem State.modCtx_shrunk (s : State) (c : Ctx) (f : CtxState → CtxState) : (s.modCtx c f).shrunk = s.shrunk := rfl
@[simp] theorem State.modCtx_shrunkAt (s : State) (c : Ctx) (f : CtxState → CtxState) : (s.modCtx c f).shrunkAt = s.shrunkAt := rfl
@[simp] theorem State.modCtx_recompute (s : State) (c : Ctx) (f : CtxState → CtxState) : (s.modCtx c f).recompute = s.recompute := rfl
@[simp] theorem State.modCtx_keys (s : State) (c : Ctx) (f : CtxState → CtxState) : (s.modCtx c f).keys = s.keys := rfl
@[simp] theorem State.modCtx_keks (s : State) (c : Ctx) (f : CtxState → CtxState) : (s.modCtx c f).keks = s.keks := rfl
@[simp] theorem State.modCtx_ide (s : State) (c : Ctx) (f : CtxState → CtxState) : (s.modCtx c f).ide = s.ide := rfl
@[simp] theorem State.modCtx_fwStore (s : State) (c : Ctx) (f : CtxState → CtxState) : (s.modCtx c f).fwStore = s.fwStore := rfl
@[simp] theorem State.modCtx_fwBad (s : State) (c : Ctx) (f : CtxState → CtxState) : (s.modCtx c f).fwBad = s.fwBad := rfl
@[simp] theorem State.modCtx_fwRun (s : State) (c : Ctx) (f : CtxState → CtxState) : (s.modCtx c f).fwRun = s.fwRun := rfl
@[simp] theorem State.modCtx_fwXfer (s : State) (c : Ctx) (f : CtxState → CtxState) : (s.modCtx c f).fwXfer = s.fwXfer := rfl
@[simp] theorem State.modCtx_fwWrite (s : State) (c : Ctx) (f : CtxState → CtxState) : (s.modCtx c f).fwWrite = s.fwWrite := rfl
@[simp] theorem State.modCtx_svnFloor (s : State) (c : Ctx) (f : CtxState → CtxState) : (s.modCtx c f).svnFloor = s.svnFloor := rfl
@[simp] theorem State.modCtx_revoked (s : State) (c : Ctx) (f : CtxState → CtxState) : (s.modCtx c f).revoked = s.revoked := rfl
@[simp] theorem State.modCtx_spdm (s : State) (c : Ctx) (f : CtxState → CtxState) : (s.modCtx c f).spdm = s.spdm := rfl
@[simp] theorem State.modCtx_signQueue (s : State) (c : Ctx) (f : CtxState → CtxState) : (s.modCtx c f).signQueue = s.signQueue := rfl
@[simp] theorem State.modCtx_aliasReady (s : State) (c : Ctx) (f : CtxState → CtxState) : (s.modCtx c f).aliasReady = s.aliasReady := rfl
@[simp] theorem State.modCtx_pw (s : State) (c : Ctx) (f : CtxState → CtxState) : (s.modCtx c f).pw = s.pw := rfl
@[simp] theorem State.modCtx_rv (s : State) (c : Ctx) (f : CtxState → CtxState) : (s.modCtx c f).rv = s.rv := rfl
@[simp] theorem State.modCtx_lockWaits (s : State) (c : Ctx) (f : CtxState → CtxState) : (s.modCtx c f).lockWaits = s.lockWaits := rfl
@[simp] theorem State.modCtx_pubs (s : State) (c : Ctx) (f : CtxState → CtxState) : (s.modCtx c f).pubs = s.pubs := rfl
@[simp] theorem State.modCtx_faultPin (s : State) (c : Ctx) (f : CtxState → CtxState) : (s.modCtx c f).faultPin = s.faultPin := rfl
@[simp] theorem State.modCtx_thermPin (s : State) (c : Ctx) (f : CtxState → CtxState) : (s.modCtx c f).thermPin = s.thermPin := rfl
@[simp] theorem State.modCtx_baySafe (s : State) (c : Ctx) (f : CtxState → CtxState) : (s.modCtx c f).baySafe = s.baySafe := rfl

@[simp] theorem State.modCore_pending (s : State) (k : Nat) (f : CoreState → CoreState) : (s.modCore k f).pending = s.pending := rfl
@[simp] theorem State.modCore_out (s : State) (k : Nat) (f : CoreState → CoreState) : (s.modCore k f).out = s.out := rfl
@[simp] theorem State.modCore_free (s : State) (k : Nat) (f : CoreState → CoreState) : (s.modCore k f).free = s.free := rfl
@[simp] theorem State.modCore_regs (s : State) (k : Nat) (f : CoreState → CoreState) : (s.modCore k f).regs = s.regs := rfl
@[simp] theorem State.modCore_eff (s : State) (k : Nat) (f : CoreState → CoreState) : (s.modCore k f).eff = s.eff := rfl
@[simp] theorem State.modCore_counts (s : State) (k : Nat) (f : CoreState → CoreState) : (s.modCore k f).counts = s.counts := rfl
@[simp] theorem State.modCore_merged (s : State) (k : Nat) (f : CoreState → CoreState) : (s.modCore k f).merged = s.merged := rfl
@[simp] theorem State.modCore_ft (s : State) (k : Nat) (f : CoreState → CoreState) : (s.modCore k f).ft = s.ft := rfl
@[simp] theorem State.modCore_ports (s : State) (k : Nat) (f : CoreState → CoreState) : (s.modCore k f).ports = s.ports := rfl
@[simp] theorem State.modCore_ctxs (s : State) (k : Nat) (f : CoreState → CoreState) : (s.modCore k f).ctxs = s.ctxs := rfl
@[simp] theorem State.modCore_owner (s : State) (k : Nat) (f : CoreState → CoreState) : (s.modCore k f).owner = s.owner := rfl
@[simp] theorem State.modCore_srcTab (s : State) (k : Nat) (f : CoreState → CoreState) : (s.modCore k f).srcTab = s.srcTab := rfl
@[simp] theorem State.modCore_srcStaged (s : State) (k : Nat) (f : CoreState → CoreState) : (s.modCore k f).srcStaged = s.srcStaged := rfl
@[simp] theorem State.modCore_srcDue (s : State) (k : Nat) (f : CoreState → CoreState) : (s.modCore k f).srcDue = s.srcDue := rfl
@[simp] theorem State.modCore_srcGen (s : State) (k : Nat) (f : CoreState → CoreState) : (s.modCore k f).srcGen = s.srcGen := rfl
@[simp] theorem State.modCore_sbCtx (s : State) (k : Nat) (f : CoreState → CoreState) : (s.modCore k f).sbCtx = s.sbCtx := rfl
@[simp] theorem State.modCore_eids (s : State) (k : Nat) (f : CoreState → CoreState) : (s.modCore k f).eids = s.eids := rfl
@[simp] theorem State.modCore_extents (s : State) (k : Nat) (f : CoreState → CoreState) : (s.modCore k f).extents = s.extents := rfl
@[simp] theorem State.modCore_objects (s : State) (k : Nat) (f : CoreState → CoreState) : (s.modCore k f).objects = s.objects := rfl
@[simp] theorem State.modCore_contents (s : State) (k : Nat) (f : CoreState → CoreState) : (s.modCore k f).contents = s.contents := rfl
@[simp] theorem State.modCore_nextContent (s : State) (k : Nat) (f : CoreState → CoreState) : (s.modCore k f).nextContent = s.nextContent := rfl
@[simp] theorem State.modCore_pages (s : State) (k : Nat) (f : CoreState → CoreState) : (s.modCore k f).pages = s.pages := rfl
@[simp] theorem State.modCore_frames (s : State) (k : Nat) (f : CoreState → CoreState) : (s.modCore k f).frames = s.frames := rfl
@[simp] theorem State.modCore_light (s : State) (k : Nat) (f : CoreState → CoreState) : (s.modCore k f).light = s.light := rfl
@[simp] theorem State.modCore_unitsUsed (s : State) (k : Nat) (f : CoreState → CoreState) : (s.modCore k f).unitsUsed = s.unitsUsed := rfl
@[simp] theorem State.modCore_recSeq (s : State) (k : Nat) (f : CoreState → CoreState) : (s.modCore k f).recSeq = s.recSeq := rfl
@[simp] theorem State.modCore_flashLow (s : State) (k : Nat) (f : CoreState → CoreState) : (s.modCore k f).flashLow = s.flashLow := rfl
@[simp] theorem State.modCore_pressed (s : State) (k : Nat) (f : CoreState → CoreState) : (s.modCore k f).pressed = s.pressed := rfl
@[simp] theorem State.modCore_pins (s : State) (k : Nat) (f : CoreState → CoreState) : (s.modCore k f).pins = s.pins := rfl
@[simp] theorem State.modCore_scheduled (s : State) (k : Nat) (f : CoreState → CoreState) : (s.modCore k f).scheduled = s.scheduled := rfl
@[simp] theorem State.modCore_moveSeq (s : State) (k : Nat) (f : CoreState → CoreState) : (s.modCore k f).moveSeq = s.moveSeq := rfl
@[simp] theorem State.modCore_views (s : State) (k : Nat) (f : CoreState → CoreState) : (s.modCore k f).views = s.views := rfl
@[simp] theorem State.modCore_nextView (s : State) (k : Nat) (f : CoreState → CoreState) : (s.modCore k f).nextView = s.nextView := rfl
@[simp] theorem State.modCore_windows (s : State) (k : Nat) (f : CoreState → CoreState) : (s.modCore k f).windows = s.windows := rfl
@[simp] theorem State.modCore_nextWindow (s : State) (k : Nat) (f : CoreState → CoreState) : (s.modCore k f).nextWindow = s.nextWindow := rfl
@[simp] theorem State.modCore_directory (s : State) (k : Nat) (f : CoreState → CoreState) : (s.modCore k f).directory = s.directory := rfl
@[simp] theorem State.modCore_dirSeq (s : State) (k : Nat) (f : CoreState → CoreState) : (s.modCore k f).dirSeq = s.dirSeq := rfl
@[simp] theorem State.modCore_eager (s : State) (k : Nat) (f : CoreState → CoreState) : (s.modCore k f).eager = s.eager := rfl
@[simp] theorem State.modCore_windowDirty (s : State) (k : Nat) (f : CoreState → CoreState) : (s.modCore k f).windowDirty = s.windowDirty := rfl
@[simp] theorem State.modCore_waits (s : State) (k : Nat) (f : CoreState → CoreState) : (s.modCore k f).waits = s.waits := rfl
@[simp] theorem State.modCore_orders (s : State) (k : Nat) (f : CoreState → CoreState) : (s.modCore k f).orders = s.orders := rfl
@[simp] theorem State.modCore_dram (s : State) (k : Nat) (f : CoreState → CoreState) : (s.modCore k f).dram = s.dram := rfl
@[simp] theorem State.modCore_poison (s : State) (k : Nat) (f : CoreState → CoreState) : (s.modCore k f).poison = s.poison := rfl
@[simp] theorem State.modCore_hint (s : State) (k : Nat) (f : CoreState → CoreState) : (s.modCore k f).hint = s.hint := rfl
@[simp] theorem State.modCore_badCode (s : State) (k : Nat) (f : CoreState → CoreState) : (s.modCore k f).badCode = s.badCode := rfl
@[simp] theorem State.modCore_seals (s : State) (k : Nat) (f : CoreState → CoreState) : (s.modCore k f).seals = s.seals := rfl
@[simp] theorem State.modCore_cellErr (s : State) (k : Nat) (f : CoreState → CoreState) : (s.modCore k f).cellErr = s.cellErr := rfl
@[simp] theorem State.modCore_steer (s : State) (k : Nat) (f : CoreState → CoreState) : (s.modCore k f).steer = s.steer := rfl
@[simp] theorem State.modCore_chans (s : State) (k : Nat) (f : CoreState → CoreState) : (s.modCore k f).chans = s.chans := rfl
@[simp] theorem State.modCore_stackSt (s : State) (k : Nat) (f : CoreState → CoreState) : (s.modCore k f).stackSt = s.stackSt := rfl
@[simp] theorem State.modCore_lastErr (s : State) (k : Nat) (f : CoreState → CoreState) : (s.modCore k f).lastErr = s.lastErr := rfl
@[simp] theorem State.modCore_patterns (s : State) (k : Nat) (f : CoreState → CoreState) : (s.modCore k f).patterns = s.patterns := rfl
@[simp] theorem State.modCore_nextPattern (s : State) (k : Nat) (f : CoreState → CoreState) : (s.modCore k f).nextPattern = s.nextPattern := rfl
@[simp] theorem State.modCore_bindings (s : State) (k : Nat) (f : CoreState → CoreState) : (s.modCore k f).bindings = s.bindings := rfl
@[simp] theorem State.modCore_nextBinding (s : State) (k : Nat) (f : CoreState → CoreState) : (s.modCore k f).nextBinding = s.nextBinding := rfl
@[simp] theorem State.modCore_cues (s : State) (k : Nat) (f : CoreState → CoreState) : (s.modCore k f).cues = s.cues := rfl
@[simp] theorem State.modCore_nextCue (s : State) (k : Nat) (f : CoreState → CoreState) : (s.modCore k f).nextCue = s.nextCue := rfl
@[simp] theorem State.modCore_epoch (s : State) (k : Nat) (f : CoreState → CoreState) : (s.modCore k f).epoch = s.epoch := rfl
@[simp] theorem State.modCore_msgs (s : State) (k : Nat) (f : CoreState → CoreState) : (s.modCore k f).msgs = s.msgs := rfl
@[simp] theorem State.modCore_nextMsg (s : State) (k : Nat) (f : CoreState → CoreState) : (s.modCore k f).nextMsg = s.nextMsg := rfl
@[simp] theorem State.modCore_reds (s : State) (k : Nat) (f : CoreState → CoreState) : (s.modCore k f).reds = s.reds := rfl
@[simp] theorem State.modCore_redDone (s : State) (k : Nat) (f : CoreState → CoreState) : (s.modCore k f).redDone = s.redDone := rfl
@[simp] theorem State.modCore_stale (s : State) (k : Nat) (f : CoreState → CoreState) : (s.modCore k f).stale = s.stale := rfl
@[simp] theorem State.modCore_chanCodec (s : State) (k : Nat) (f : CoreState → CoreState) : (s.modCore k f).chanCodec = s.chanCodec := rfl
@[simp] theorem State.modCore_nextChan (s : State) (k : Nat) (f : CoreState → CoreState) : (s.modCore k f).nextChan = s.nextChan := rfl
@[simp] theorem State.modCore_upstream (s : State) (k : Nat) (f : CoreState → CoreState) : (s.modCore k f).upstream = s.upstream := rfl
@[simp] theorem State.modCore_nmWaits (s : State) (k : Nat) (f : CoreState → CoreState) : (s.modCore k f).nmWaits = s.nmWaits := rfl
@[simp] theorem State.modCore_bays (s : State) (k : Nat) (f : CoreState → CoreState) : (s.modCore k f).bays = s.bays := rfl
@[simp] theorem State.modCore_walk (s : State) (k : Nat) (f : CoreState → CoreState) : (s.modCore k f).walk = s.walk := rfl
@[simp] theorem State.modCore_vacated (s : State) (k : Nat) (f : CoreState → CoreState) : (s.modCore k f).vacated = s.vacated := rfl
@[simp] theorem State.modCore_stripes (s : State) (k : Nat) (f : CoreState → CoreState) : (s.modCore k f).stripes = s.stripes := rfl
@[simp] theorem State.modCore_nextStripe (s : State) (k : Nat) (f : CoreState → CoreState) : (s.modCore k f).nextStripe = s.nextStripe := rfl
@[simp] theorem State.modCore_broken (s : State) (k : Nat) (f : CoreState → CoreState) : (s.modCore k f).broken = s.broken := rfl
@[simp] theorem State.modCore_linkArbs (s : State) (k : Nat) (f : CoreState → CoreState) : (s.modCore k f).linkArbs = s.linkArbs := rfl
@[simp] theorem State.modCore_ledger (s : State) (k : Nat) (f : CoreState → CoreState) : (s.modCore k f).ledger = s.ledger := rfl
@[simp] theorem State.modCore_ledgerNext (s : State) (k : Nat) (f : CoreState → CoreState) : (s.modCore k f).ledgerNext = s.ledgerNext := rfl
@[simp] theorem State.modCore_shrunk (s : State) (k : Nat) (f : CoreState → CoreState) : (s.modCore k f).shrunk = s.shrunk := rfl
@[simp] theorem State.modCore_shrunkAt (s : State) (k : Nat) (f : CoreState → CoreState) : (s.modCore k f).shrunkAt = s.shrunkAt := rfl
@[simp] theorem State.modCore_recompute (s : State) (k : Nat) (f : CoreState → CoreState) : (s.modCore k f).recompute = s.recompute := rfl
@[simp] theorem State.modCore_keys (s : State) (k : Nat) (f : CoreState → CoreState) : (s.modCore k f).keys = s.keys := rfl
@[simp] theorem State.modCore_keks (s : State) (k : Nat) (f : CoreState → CoreState) : (s.modCore k f).keks = s.keks := rfl
@[simp] theorem State.modCore_ide (s : State) (k : Nat) (f : CoreState → CoreState) : (s.modCore k f).ide = s.ide := rfl
@[simp] theorem State.modCore_fwStore (s : State) (k : Nat) (f : CoreState → CoreState) : (s.modCore k f).fwStore = s.fwStore := rfl
@[simp] theorem State.modCore_fwBad (s : State) (k : Nat) (f : CoreState → CoreState) : (s.modCore k f).fwBad = s.fwBad := rfl
@[simp] theorem State.modCore_fwRun (s : State) (k : Nat) (f : CoreState → CoreState) : (s.modCore k f).fwRun = s.fwRun := rfl
@[simp] theorem State.modCore_fwXfer (s : State) (k : Nat) (f : CoreState → CoreState) : (s.modCore k f).fwXfer = s.fwXfer := rfl
@[simp] theorem State.modCore_fwWrite (s : State) (k : Nat) (f : CoreState → CoreState) : (s.modCore k f).fwWrite = s.fwWrite := rfl
@[simp] theorem State.modCore_svnFloor (s : State) (k : Nat) (f : CoreState → CoreState) : (s.modCore k f).svnFloor = s.svnFloor := rfl
@[simp] theorem State.modCore_revoked (s : State) (k : Nat) (f : CoreState → CoreState) : (s.modCore k f).revoked = s.revoked := rfl
@[simp] theorem State.modCore_spdm (s : State) (k : Nat) (f : CoreState → CoreState) : (s.modCore k f).spdm = s.spdm := rfl
@[simp] theorem State.modCore_signQueue (s : State) (k : Nat) (f : CoreState → CoreState) : (s.modCore k f).signQueue = s.signQueue := rfl
@[simp] theorem State.modCore_aliasReady (s : State) (k : Nat) (f : CoreState → CoreState) : (s.modCore k f).aliasReady = s.aliasReady := rfl
@[simp] theorem State.modCore_pw (s : State) (k : Nat) (f : CoreState → CoreState) : (s.modCore k f).pw = s.pw := rfl
@[simp] theorem State.modCore_rv (s : State) (k : Nat) (f : CoreState → CoreState) : (s.modCore k f).rv = s.rv := rfl
@[simp] theorem State.modCore_lockWaits (s : State) (k : Nat) (f : CoreState → CoreState) : (s.modCore k f).lockWaits = s.lockWaits := rfl
@[simp] theorem State.modCore_pubs (s : State) (k : Nat) (f : CoreState → CoreState) : (s.modCore k f).pubs = s.pubs := rfl
@[simp] theorem State.modCore_faultPin (s : State) (k : Nat) (f : CoreState → CoreState) : (s.modCore k f).faultPin = s.faultPin := rfl
@[simp] theorem State.modCore_thermPin (s : State) (k : Nat) (f : CoreState → CoreState) : (s.modCore k f).thermPin = s.thermPin := rfl
@[simp] theorem State.modCore_baySafe (s : State) (k : Nat) (f : CoreState → CoreState) : (s.modCore k f).baySafe = s.baySafe := rfl

@[simp] theorem State.modBay_pending (s : State) (b : Nat) (f : BayState → BayState) : (s.modBay b f).pending = s.pending := rfl
@[simp] theorem State.modBay_out (s : State) (b : Nat) (f : BayState → BayState) : (s.modBay b f).out = s.out := rfl
@[simp] theorem State.modBay_free (s : State) (b : Nat) (f : BayState → BayState) : (s.modBay b f).free = s.free := rfl
@[simp] theorem State.modBay_regs (s : State) (b : Nat) (f : BayState → BayState) : (s.modBay b f).regs = s.regs := rfl
@[simp] theorem State.modBay_eff (s : State) (b : Nat) (f : BayState → BayState) : (s.modBay b f).eff = s.eff := rfl
@[simp] theorem State.modBay_counts (s : State) (b : Nat) (f : BayState → BayState) : (s.modBay b f).counts = s.counts := rfl
@[simp] theorem State.modBay_merged (s : State) (b : Nat) (f : BayState → BayState) : (s.modBay b f).merged = s.merged := rfl
@[simp] theorem State.modBay_ft (s : State) (b : Nat) (f : BayState → BayState) : (s.modBay b f).ft = s.ft := rfl
@[simp] theorem State.modBay_ports (s : State) (b : Nat) (f : BayState → BayState) : (s.modBay b f).ports = s.ports := rfl
@[simp] theorem State.modBay_ctxs (s : State) (b : Nat) (f : BayState → BayState) : (s.modBay b f).ctxs = s.ctxs := rfl
@[simp] theorem State.modBay_owner (s : State) (b : Nat) (f : BayState → BayState) : (s.modBay b f).owner = s.owner := rfl
@[simp] theorem State.modBay_srcTab (s : State) (b : Nat) (f : BayState → BayState) : (s.modBay b f).srcTab = s.srcTab := rfl
@[simp] theorem State.modBay_srcStaged (s : State) (b : Nat) (f : BayState → BayState) : (s.modBay b f).srcStaged = s.srcStaged := rfl
@[simp] theorem State.modBay_srcDue (s : State) (b : Nat) (f : BayState → BayState) : (s.modBay b f).srcDue = s.srcDue := rfl
@[simp] theorem State.modBay_srcGen (s : State) (b : Nat) (f : BayState → BayState) : (s.modBay b f).srcGen = s.srcGen := rfl
@[simp] theorem State.modBay_sbCtx (s : State) (b : Nat) (f : BayState → BayState) : (s.modBay b f).sbCtx = s.sbCtx := rfl
@[simp] theorem State.modBay_eids (s : State) (b : Nat) (f : BayState → BayState) : (s.modBay b f).eids = s.eids := rfl
@[simp] theorem State.modBay_extents (s : State) (b : Nat) (f : BayState → BayState) : (s.modBay b f).extents = s.extents := rfl
@[simp] theorem State.modBay_objects (s : State) (b : Nat) (f : BayState → BayState) : (s.modBay b f).objects = s.objects := rfl
@[simp] theorem State.modBay_contents (s : State) (b : Nat) (f : BayState → BayState) : (s.modBay b f).contents = s.contents := rfl
@[simp] theorem State.modBay_nextContent (s : State) (b : Nat) (f : BayState → BayState) : (s.modBay b f).nextContent = s.nextContent := rfl
@[simp] theorem State.modBay_pages (s : State) (b : Nat) (f : BayState → BayState) : (s.modBay b f).pages = s.pages := rfl
@[simp] theorem State.modBay_frames (s : State) (b : Nat) (f : BayState → BayState) : (s.modBay b f).frames = s.frames := rfl
@[simp] theorem State.modBay_light (s : State) (b : Nat) (f : BayState → BayState) : (s.modBay b f).light = s.light := rfl
@[simp] theorem State.modBay_unitsUsed (s : State) (b : Nat) (f : BayState → BayState) : (s.modBay b f).unitsUsed = s.unitsUsed := rfl
@[simp] theorem State.modBay_recSeq (s : State) (b : Nat) (f : BayState → BayState) : (s.modBay b f).recSeq = s.recSeq := rfl
@[simp] theorem State.modBay_flashLow (s : State) (b : Nat) (f : BayState → BayState) : (s.modBay b f).flashLow = s.flashLow := rfl
@[simp] theorem State.modBay_pressed (s : State) (b : Nat) (f : BayState → BayState) : (s.modBay b f).pressed = s.pressed := rfl
@[simp] theorem State.modBay_pins (s : State) (b : Nat) (f : BayState → BayState) : (s.modBay b f).pins = s.pins := rfl
@[simp] theorem State.modBay_scheduled (s : State) (b : Nat) (f : BayState → BayState) : (s.modBay b f).scheduled = s.scheduled := rfl
@[simp] theorem State.modBay_moveSeq (s : State) (b : Nat) (f : BayState → BayState) : (s.modBay b f).moveSeq = s.moveSeq := rfl
@[simp] theorem State.modBay_views (s : State) (b : Nat) (f : BayState → BayState) : (s.modBay b f).views = s.views := rfl
@[simp] theorem State.modBay_nextView (s : State) (b : Nat) (f : BayState → BayState) : (s.modBay b f).nextView = s.nextView := rfl
@[simp] theorem State.modBay_windows (s : State) (b : Nat) (f : BayState → BayState) : (s.modBay b f).windows = s.windows := rfl
@[simp] theorem State.modBay_nextWindow (s : State) (b : Nat) (f : BayState → BayState) : (s.modBay b f).nextWindow = s.nextWindow := rfl
@[simp] theorem State.modBay_directory (s : State) (b : Nat) (f : BayState → BayState) : (s.modBay b f).directory = s.directory := rfl
@[simp] theorem State.modBay_dirSeq (s : State) (b : Nat) (f : BayState → BayState) : (s.modBay b f).dirSeq = s.dirSeq := rfl
@[simp] theorem State.modBay_eager (s : State) (b : Nat) (f : BayState → BayState) : (s.modBay b f).eager = s.eager := rfl
@[simp] theorem State.modBay_windowDirty (s : State) (b : Nat) (f : BayState → BayState) : (s.modBay b f).windowDirty = s.windowDirty := rfl
@[simp] theorem State.modBay_waits (s : State) (b : Nat) (f : BayState → BayState) : (s.modBay b f).waits = s.waits := rfl
@[simp] theorem State.modBay_orders (s : State) (b : Nat) (f : BayState → BayState) : (s.modBay b f).orders = s.orders := rfl
@[simp] theorem State.modBay_dram (s : State) (b : Nat) (f : BayState → BayState) : (s.modBay b f).dram = s.dram := rfl
@[simp] theorem State.modBay_poison (s : State) (b : Nat) (f : BayState → BayState) : (s.modBay b f).poison = s.poison := rfl
@[simp] theorem State.modBay_hint (s : State) (b : Nat) (f : BayState → BayState) : (s.modBay b f).hint = s.hint := rfl
@[simp] theorem State.modBay_badCode (s : State) (b : Nat) (f : BayState → BayState) : (s.modBay b f).badCode = s.badCode := rfl
@[simp] theorem State.modBay_seals (s : State) (b : Nat) (f : BayState → BayState) : (s.modBay b f).seals = s.seals := rfl
@[simp] theorem State.modBay_cellErr (s : State) (b : Nat) (f : BayState → BayState) : (s.modBay b f).cellErr = s.cellErr := rfl
@[simp] theorem State.modBay_steer (s : State) (b : Nat) (f : BayState → BayState) : (s.modBay b f).steer = s.steer := rfl
@[simp] theorem State.modBay_chans (s : State) (b : Nat) (f : BayState → BayState) : (s.modBay b f).chans = s.chans := rfl
@[simp] theorem State.modBay_stackSt (s : State) (b : Nat) (f : BayState → BayState) : (s.modBay b f).stackSt = s.stackSt := rfl
@[simp] theorem State.modBay_lastErr (s : State) (b : Nat) (f : BayState → BayState) : (s.modBay b f).lastErr = s.lastErr := rfl
@[simp] theorem State.modBay_patterns (s : State) (b : Nat) (f : BayState → BayState) : (s.modBay b f).patterns = s.patterns := rfl
@[simp] theorem State.modBay_nextPattern (s : State) (b : Nat) (f : BayState → BayState) : (s.modBay b f).nextPattern = s.nextPattern := rfl
@[simp] theorem State.modBay_bindings (s : State) (b : Nat) (f : BayState → BayState) : (s.modBay b f).bindings = s.bindings := rfl
@[simp] theorem State.modBay_nextBinding (s : State) (b : Nat) (f : BayState → BayState) : (s.modBay b f).nextBinding = s.nextBinding := rfl
@[simp] theorem State.modBay_cues (s : State) (b : Nat) (f : BayState → BayState) : (s.modBay b f).cues = s.cues := rfl
@[simp] theorem State.modBay_nextCue (s : State) (b : Nat) (f : BayState → BayState) : (s.modBay b f).nextCue = s.nextCue := rfl
@[simp] theorem State.modBay_epoch (s : State) (b : Nat) (f : BayState → BayState) : (s.modBay b f).epoch = s.epoch := rfl
@[simp] theorem State.modBay_cores (s : State) (b : Nat) (f : BayState → BayState) : (s.modBay b f).cores = s.cores := rfl
@[simp] theorem State.modBay_msgs (s : State) (b : Nat) (f : BayState → BayState) : (s.modBay b f).msgs = s.msgs := rfl
@[simp] theorem State.modBay_nextMsg (s : State) (b : Nat) (f : BayState → BayState) : (s.modBay b f).nextMsg = s.nextMsg := rfl
@[simp] theorem State.modBay_reds (s : State) (b : Nat) (f : BayState → BayState) : (s.modBay b f).reds = s.reds := rfl
@[simp] theorem State.modBay_redDone (s : State) (b : Nat) (f : BayState → BayState) : (s.modBay b f).redDone = s.redDone := rfl
@[simp] theorem State.modBay_stale (s : State) (b : Nat) (f : BayState → BayState) : (s.modBay b f).stale = s.stale := rfl
@[simp] theorem State.modBay_chanCodec (s : State) (b : Nat) (f : BayState → BayState) : (s.modBay b f).chanCodec = s.chanCodec := rfl
@[simp] theorem State.modBay_nextChan (s : State) (b : Nat) (f : BayState → BayState) : (s.modBay b f).nextChan = s.nextChan := rfl
@[simp] theorem State.modBay_upstream (s : State) (b : Nat) (f : BayState → BayState) : (s.modBay b f).upstream = s.upstream := rfl
@[simp] theorem State.modBay_nmWaits (s : State) (b : Nat) (f : BayState → BayState) : (s.modBay b f).nmWaits = s.nmWaits := rfl
@[simp] theorem State.modBay_walk (s : State) (b : Nat) (f : BayState → BayState) : (s.modBay b f).walk = s.walk := rfl
@[simp] theorem State.modBay_vacated (s : State) (b : Nat) (f : BayState → BayState) : (s.modBay b f).vacated = s.vacated := rfl
@[simp] theorem State.modBay_stripes (s : State) (b : Nat) (f : BayState → BayState) : (s.modBay b f).stripes = s.stripes := rfl
@[simp] theorem State.modBay_nextStripe (s : State) (b : Nat) (f : BayState → BayState) : (s.modBay b f).nextStripe = s.nextStripe := rfl
@[simp] theorem State.modBay_broken (s : State) (b : Nat) (f : BayState → BayState) : (s.modBay b f).broken = s.broken := rfl
@[simp] theorem State.modBay_linkArbs (s : State) (b : Nat) (f : BayState → BayState) : (s.modBay b f).linkArbs = s.linkArbs := rfl
@[simp] theorem State.modBay_ledger (s : State) (b : Nat) (f : BayState → BayState) : (s.modBay b f).ledger = s.ledger := rfl
@[simp] theorem State.modBay_ledgerNext (s : State) (b : Nat) (f : BayState → BayState) : (s.modBay b f).ledgerNext = s.ledgerNext := rfl
@[simp] theorem State.modBay_shrunk (s : State) (b : Nat) (f : BayState → BayState) : (s.modBay b f).shrunk = s.shrunk := rfl
@[simp] theorem State.modBay_shrunkAt (s : State) (b : Nat) (f : BayState → BayState) : (s.modBay b f).shrunkAt = s.shrunkAt := rfl
@[simp] theorem State.modBay_recompute (s : State) (b : Nat) (f : BayState → BayState) : (s.modBay b f).recompute = s.recompute := rfl
@[simp] theorem State.modBay_keys (s : State) (b : Nat) (f : BayState → BayState) : (s.modBay b f).keys = s.keys := rfl
@[simp] theorem State.modBay_keks (s : State) (b : Nat) (f : BayState → BayState) : (s.modBay b f).keks = s.keks := rfl
@[simp] theorem State.modBay_ide (s : State) (b : Nat) (f : BayState → BayState) : (s.modBay b f).ide = s.ide := rfl
@[simp] theorem State.modBay_fwStore (s : State) (b : Nat) (f : BayState → BayState) : (s.modBay b f).fwStore = s.fwStore := rfl
@[simp] theorem State.modBay_fwBad (s : State) (b : Nat) (f : BayState → BayState) : (s.modBay b f).fwBad = s.fwBad := rfl
@[simp] theorem State.modBay_fwRun (s : State) (b : Nat) (f : BayState → BayState) : (s.modBay b f).fwRun = s.fwRun := rfl
@[simp] theorem State.modBay_fwXfer (s : State) (b : Nat) (f : BayState → BayState) : (s.modBay b f).fwXfer = s.fwXfer := rfl
@[simp] theorem State.modBay_fwWrite (s : State) (b : Nat) (f : BayState → BayState) : (s.modBay b f).fwWrite = s.fwWrite := rfl
@[simp] theorem State.modBay_svnFloor (s : State) (b : Nat) (f : BayState → BayState) : (s.modBay b f).svnFloor = s.svnFloor := rfl
@[simp] theorem State.modBay_revoked (s : State) (b : Nat) (f : BayState → BayState) : (s.modBay b f).revoked = s.revoked := rfl
@[simp] theorem State.modBay_spdm (s : State) (b : Nat) (f : BayState → BayState) : (s.modBay b f).spdm = s.spdm := rfl
@[simp] theorem State.modBay_signQueue (s : State) (b : Nat) (f : BayState → BayState) : (s.modBay b f).signQueue = s.signQueue := rfl
@[simp] theorem State.modBay_aliasReady (s : State) (b : Nat) (f : BayState → BayState) : (s.modBay b f).aliasReady = s.aliasReady := rfl
@[simp] theorem State.modBay_pw (s : State) (b : Nat) (f : BayState → BayState) : (s.modBay b f).pw = s.pw := rfl
@[simp] theorem State.modBay_rv (s : State) (b : Nat) (f : BayState → BayState) : (s.modBay b f).rv = s.rv := rfl
@[simp] theorem State.modBay_lockWaits (s : State) (b : Nat) (f : BayState → BayState) : (s.modBay b f).lockWaits = s.lockWaits := rfl
@[simp] theorem State.modBay_pubs (s : State) (b : Nat) (f : BayState → BayState) : (s.modBay b f).pubs = s.pubs := rfl
@[simp] theorem State.modBay_faultPin (s : State) (b : Nat) (f : BayState → BayState) : (s.modBay b f).faultPin = s.faultPin := rfl
@[simp] theorem State.modBay_thermPin (s : State) (b : Nat) (f : BayState → BayState) : (s.modBay b f).thermPin = s.thermPin := rfl
@[simp] theorem State.modBay_baySafe (s : State) (b : Nat) (f : BayState → BayState) : (s.modBay b f).baySafe = s.baySafe := rfl

@[simp] theorem State.modFt_pending (s : State) (f : FtState → FtState) : (s.modFt f).pending = s.pending := rfl
@[simp] theorem State.modFt_out (s : State) (f : FtState → FtState) : (s.modFt f).out = s.out := rfl
@[simp] theorem State.modFt_free (s : State) (f : FtState → FtState) : (s.modFt f).free = s.free := rfl
@[simp] theorem State.modFt_regs (s : State) (f : FtState → FtState) : (s.modFt f).regs = s.regs := rfl
@[simp] theorem State.modFt_eff (s : State) (f : FtState → FtState) : (s.modFt f).eff = s.eff := rfl
@[simp] theorem State.modFt_counts (s : State) (f : FtState → FtState) : (s.modFt f).counts = s.counts := rfl
@[simp] theorem State.modFt_merged (s : State) (f : FtState → FtState) : (s.modFt f).merged = s.merged := rfl
@[simp] theorem State.modFt_ports (s : State) (f : FtState → FtState) : (s.modFt f).ports = s.ports := rfl
@[simp] theorem State.modFt_ctxs (s : State) (f : FtState → FtState) : (s.modFt f).ctxs = s.ctxs := rfl
@[simp] theorem State.modFt_owner (s : State) (f : FtState → FtState) : (s.modFt f).owner = s.owner := rfl
@[simp] theorem State.modFt_srcTab (s : State) (f : FtState → FtState) : (s.modFt f).srcTab = s.srcTab := rfl
@[simp] theorem State.modFt_srcStaged (s : State) (f : FtState → FtState) : (s.modFt f).srcStaged = s.srcStaged := rfl
@[simp] theorem State.modFt_srcDue (s : State) (f : FtState → FtState) : (s.modFt f).srcDue = s.srcDue := rfl
@[simp] theorem State.modFt_srcGen (s : State) (f : FtState → FtState) : (s.modFt f).srcGen = s.srcGen := rfl
@[simp] theorem State.modFt_sbCtx (s : State) (f : FtState → FtState) : (s.modFt f).sbCtx = s.sbCtx := rfl
@[simp] theorem State.modFt_eids (s : State) (f : FtState → FtState) : (s.modFt f).eids = s.eids := rfl
@[simp] theorem State.modFt_extents (s : State) (f : FtState → FtState) : (s.modFt f).extents = s.extents := rfl
@[simp] theorem State.modFt_objects (s : State) (f : FtState → FtState) : (s.modFt f).objects = s.objects := rfl
@[simp] theorem State.modFt_contents (s : State) (f : FtState → FtState) : (s.modFt f).contents = s.contents := rfl
@[simp] theorem State.modFt_nextContent (s : State) (f : FtState → FtState) : (s.modFt f).nextContent = s.nextContent := rfl
@[simp] theorem State.modFt_pages (s : State) (f : FtState → FtState) : (s.modFt f).pages = s.pages := rfl
@[simp] theorem State.modFt_frames (s : State) (f : FtState → FtState) : (s.modFt f).frames = s.frames := rfl
@[simp] theorem State.modFt_light (s : State) (f : FtState → FtState) : (s.modFt f).light = s.light := rfl
@[simp] theorem State.modFt_unitsUsed (s : State) (f : FtState → FtState) : (s.modFt f).unitsUsed = s.unitsUsed := rfl
@[simp] theorem State.modFt_recSeq (s : State) (f : FtState → FtState) : (s.modFt f).recSeq = s.recSeq := rfl
@[simp] theorem State.modFt_flashLow (s : State) (f : FtState → FtState) : (s.modFt f).flashLow = s.flashLow := rfl
@[simp] theorem State.modFt_pressed (s : State) (f : FtState → FtState) : (s.modFt f).pressed = s.pressed := rfl
@[simp] theorem State.modFt_pins (s : State) (f : FtState → FtState) : (s.modFt f).pins = s.pins := rfl
@[simp] theorem State.modFt_scheduled (s : State) (f : FtState → FtState) : (s.modFt f).scheduled = s.scheduled := rfl
@[simp] theorem State.modFt_moveSeq (s : State) (f : FtState → FtState) : (s.modFt f).moveSeq = s.moveSeq := rfl
@[simp] theorem State.modFt_views (s : State) (f : FtState → FtState) : (s.modFt f).views = s.views := rfl
@[simp] theorem State.modFt_nextView (s : State) (f : FtState → FtState) : (s.modFt f).nextView = s.nextView := rfl
@[simp] theorem State.modFt_windows (s : State) (f : FtState → FtState) : (s.modFt f).windows = s.windows := rfl
@[simp] theorem State.modFt_nextWindow (s : State) (f : FtState → FtState) : (s.modFt f).nextWindow = s.nextWindow := rfl
@[simp] theorem State.modFt_directory (s : State) (f : FtState → FtState) : (s.modFt f).directory = s.directory := rfl
@[simp] theorem State.modFt_dirSeq (s : State) (f : FtState → FtState) : (s.modFt f).dirSeq = s.dirSeq := rfl
@[simp] theorem State.modFt_eager (s : State) (f : FtState → FtState) : (s.modFt f).eager = s.eager := rfl
@[simp] theorem State.modFt_windowDirty (s : State) (f : FtState → FtState) : (s.modFt f).windowDirty = s.windowDirty := rfl
@[simp] theorem State.modFt_waits (s : State) (f : FtState → FtState) : (s.modFt f).waits = s.waits := rfl
@[simp] theorem State.modFt_orders (s : State) (f : FtState → FtState) : (s.modFt f).orders = s.orders := rfl
@[simp] theorem State.modFt_dram (s : State) (f : FtState → FtState) : (s.modFt f).dram = s.dram := rfl
@[simp] theorem State.modFt_poison (s : State) (f : FtState → FtState) : (s.modFt f).poison = s.poison := rfl
@[simp] theorem State.modFt_hint (s : State) (f : FtState → FtState) : (s.modFt f).hint = s.hint := rfl
@[simp] theorem State.modFt_badCode (s : State) (f : FtState → FtState) : (s.modFt f).badCode = s.badCode := rfl
@[simp] theorem State.modFt_seals (s : State) (f : FtState → FtState) : (s.modFt f).seals = s.seals := rfl
@[simp] theorem State.modFt_cellErr (s : State) (f : FtState → FtState) : (s.modFt f).cellErr = s.cellErr := rfl
@[simp] theorem State.modFt_steer (s : State) (f : FtState → FtState) : (s.modFt f).steer = s.steer := rfl
@[simp] theorem State.modFt_chans (s : State) (f : FtState → FtState) : (s.modFt f).chans = s.chans := rfl
@[simp] theorem State.modFt_stackSt (s : State) (f : FtState → FtState) : (s.modFt f).stackSt = s.stackSt := rfl
@[simp] theorem State.modFt_lastErr (s : State) (f : FtState → FtState) : (s.modFt f).lastErr = s.lastErr := rfl
@[simp] theorem State.modFt_patterns (s : State) (f : FtState → FtState) : (s.modFt f).patterns = s.patterns := rfl
@[simp] theorem State.modFt_nextPattern (s : State) (f : FtState → FtState) : (s.modFt f).nextPattern = s.nextPattern := rfl
@[simp] theorem State.modFt_bindings (s : State) (f : FtState → FtState) : (s.modFt f).bindings = s.bindings := rfl
@[simp] theorem State.modFt_nextBinding (s : State) (f : FtState → FtState) : (s.modFt f).nextBinding = s.nextBinding := rfl
@[simp] theorem State.modFt_cues (s : State) (f : FtState → FtState) : (s.modFt f).cues = s.cues := rfl
@[simp] theorem State.modFt_nextCue (s : State) (f : FtState → FtState) : (s.modFt f).nextCue = s.nextCue := rfl
@[simp] theorem State.modFt_epoch (s : State) (f : FtState → FtState) : (s.modFt f).epoch = s.epoch := rfl
@[simp] theorem State.modFt_cores (s : State) (f : FtState → FtState) : (s.modFt f).cores = s.cores := rfl
@[simp] theorem State.modFt_msgs (s : State) (f : FtState → FtState) : (s.modFt f).msgs = s.msgs := rfl
@[simp] theorem State.modFt_nextMsg (s : State) (f : FtState → FtState) : (s.modFt f).nextMsg = s.nextMsg := rfl
@[simp] theorem State.modFt_reds (s : State) (f : FtState → FtState) : (s.modFt f).reds = s.reds := rfl
@[simp] theorem State.modFt_redDone (s : State) (f : FtState → FtState) : (s.modFt f).redDone = s.redDone := rfl
@[simp] theorem State.modFt_stale (s : State) (f : FtState → FtState) : (s.modFt f).stale = s.stale := rfl
@[simp] theorem State.modFt_chanCodec (s : State) (f : FtState → FtState) : (s.modFt f).chanCodec = s.chanCodec := rfl
@[simp] theorem State.modFt_nextChan (s : State) (f : FtState → FtState) : (s.modFt f).nextChan = s.nextChan := rfl
@[simp] theorem State.modFt_upstream (s : State) (f : FtState → FtState) : (s.modFt f).upstream = s.upstream := rfl
@[simp] theorem State.modFt_nmWaits (s : State) (f : FtState → FtState) : (s.modFt f).nmWaits = s.nmWaits := rfl
@[simp] theorem State.modFt_bays (s : State) (f : FtState → FtState) : (s.modFt f).bays = s.bays := rfl
@[simp] theorem State.modFt_walk (s : State) (f : FtState → FtState) : (s.modFt f).walk = s.walk := rfl
@[simp] theorem State.modFt_vacated (s : State) (f : FtState → FtState) : (s.modFt f).vacated = s.vacated := rfl
@[simp] theorem State.modFt_stripes (s : State) (f : FtState → FtState) : (s.modFt f).stripes = s.stripes := rfl
@[simp] theorem State.modFt_nextStripe (s : State) (f : FtState → FtState) : (s.modFt f).nextStripe = s.nextStripe := rfl
@[simp] theorem State.modFt_broken (s : State) (f : FtState → FtState) : (s.modFt f).broken = s.broken := rfl
@[simp] theorem State.modFt_linkArbs (s : State) (f : FtState → FtState) : (s.modFt f).linkArbs = s.linkArbs := rfl
@[simp] theorem State.modFt_ledger (s : State) (f : FtState → FtState) : (s.modFt f).ledger = s.ledger := rfl
@[simp] theorem State.modFt_ledgerNext (s : State) (f : FtState → FtState) : (s.modFt f).ledgerNext = s.ledgerNext := rfl
@[simp] theorem State.modFt_shrunk (s : State) (f : FtState → FtState) : (s.modFt f).shrunk = s.shrunk := rfl
@[simp] theorem State.modFt_shrunkAt (s : State) (f : FtState → FtState) : (s.modFt f).shrunkAt = s.shrunkAt := rfl
@[simp] theorem State.modFt_recompute (s : State) (f : FtState → FtState) : (s.modFt f).recompute = s.recompute := rfl
@[simp] theorem State.modFt_keys (s : State) (f : FtState → FtState) : (s.modFt f).keys = s.keys := rfl
@[simp] theorem State.modFt_keks (s : State) (f : FtState → FtState) : (s.modFt f).keks = s.keks := rfl
@[simp] theorem State.modFt_ide (s : State) (f : FtState → FtState) : (s.modFt f).ide = s.ide := rfl
@[simp] theorem State.modFt_fwStore (s : State) (f : FtState → FtState) : (s.modFt f).fwStore = s.fwStore := rfl
@[simp] theorem State.modFt_fwBad (s : State) (f : FtState → FtState) : (s.modFt f).fwBad = s.fwBad := rfl
@[simp] theorem State.modFt_fwRun (s : State) (f : FtState → FtState) : (s.modFt f).fwRun = s.fwRun := rfl
@[simp] theorem State.modFt_fwXfer (s : State) (f : FtState → FtState) : (s.modFt f).fwXfer = s.fwXfer := rfl
@[simp] theorem State.modFt_fwWrite (s : State) (f : FtState → FtState) : (s.modFt f).fwWrite = s.fwWrite := rfl
@[simp] theorem State.modFt_svnFloor (s : State) (f : FtState → FtState) : (s.modFt f).svnFloor = s.svnFloor := rfl
@[simp] theorem State.modFt_revoked (s : State) (f : FtState → FtState) : (s.modFt f).revoked = s.revoked := rfl
@[simp] theorem State.modFt_spdm (s : State) (f : FtState → FtState) : (s.modFt f).spdm = s.spdm := rfl
@[simp] theorem State.modFt_signQueue (s : State) (f : FtState → FtState) : (s.modFt f).signQueue = s.signQueue := rfl
@[simp] theorem State.modFt_aliasReady (s : State) (f : FtState → FtState) : (s.modFt f).aliasReady = s.aliasReady := rfl
@[simp] theorem State.modFt_pw (s : State) (f : FtState → FtState) : (s.modFt f).pw = s.pw := rfl
@[simp] theorem State.modFt_rv (s : State) (f : FtState → FtState) : (s.modFt f).rv = s.rv := rfl
@[simp] theorem State.modFt_lockWaits (s : State) (f : FtState → FtState) : (s.modFt f).lockWaits = s.lockWaits := rfl
@[simp] theorem State.modFt_pubs (s : State) (f : FtState → FtState) : (s.modFt f).pubs = s.pubs := rfl
@[simp] theorem State.modFt_faultPin (s : State) (f : FtState → FtState) : (s.modFt f).faultPin = s.faultPin := rfl
@[simp] theorem State.modFt_thermPin (s : State) (f : FtState → FtState) : (s.modFt f).thermPin = s.thermPin := rfl
@[simp] theorem State.modFt_baySafe (s : State) (f : FtState → FtState) : (s.modFt f).baySafe = s.baySafe := rfl

@[simp] theorem State.modPw_pending (s : State) (f : PwState → PwState) : (s.modPw f).pending = s.pending := rfl
@[simp] theorem State.modPw_out (s : State) (f : PwState → PwState) : (s.modPw f).out = s.out := rfl
@[simp] theorem State.modPw_free (s : State) (f : PwState → PwState) : (s.modPw f).free = s.free := rfl
@[simp] theorem State.modPw_regs (s : State) (f : PwState → PwState) : (s.modPw f).regs = s.regs := rfl
@[simp] theorem State.modPw_eff (s : State) (f : PwState → PwState) : (s.modPw f).eff = s.eff := rfl
@[simp] theorem State.modPw_counts (s : State) (f : PwState → PwState) : (s.modPw f).counts = s.counts := rfl
@[simp] theorem State.modPw_merged (s : State) (f : PwState → PwState) : (s.modPw f).merged = s.merged := rfl
@[simp] theorem State.modPw_ft (s : State) (f : PwState → PwState) : (s.modPw f).ft = s.ft := rfl
@[simp] theorem State.modPw_ports (s : State) (f : PwState → PwState) : (s.modPw f).ports = s.ports := rfl
@[simp] theorem State.modPw_ctxs (s : State) (f : PwState → PwState) : (s.modPw f).ctxs = s.ctxs := rfl
@[simp] theorem State.modPw_owner (s : State) (f : PwState → PwState) : (s.modPw f).owner = s.owner := rfl
@[simp] theorem State.modPw_srcTab (s : State) (f : PwState → PwState) : (s.modPw f).srcTab = s.srcTab := rfl
@[simp] theorem State.modPw_srcStaged (s : State) (f : PwState → PwState) : (s.modPw f).srcStaged = s.srcStaged := rfl
@[simp] theorem State.modPw_srcDue (s : State) (f : PwState → PwState) : (s.modPw f).srcDue = s.srcDue := rfl
@[simp] theorem State.modPw_srcGen (s : State) (f : PwState → PwState) : (s.modPw f).srcGen = s.srcGen := rfl
@[simp] theorem State.modPw_sbCtx (s : State) (f : PwState → PwState) : (s.modPw f).sbCtx = s.sbCtx := rfl
@[simp] theorem State.modPw_eids (s : State) (f : PwState → PwState) : (s.modPw f).eids = s.eids := rfl
@[simp] theorem State.modPw_extents (s : State) (f : PwState → PwState) : (s.modPw f).extents = s.extents := rfl
@[simp] theorem State.modPw_objects (s : State) (f : PwState → PwState) : (s.modPw f).objects = s.objects := rfl
@[simp] theorem State.modPw_contents (s : State) (f : PwState → PwState) : (s.modPw f).contents = s.contents := rfl
@[simp] theorem State.modPw_nextContent (s : State) (f : PwState → PwState) : (s.modPw f).nextContent = s.nextContent := rfl
@[simp] theorem State.modPw_pages (s : State) (f : PwState → PwState) : (s.modPw f).pages = s.pages := rfl
@[simp] theorem State.modPw_frames (s : State) (f : PwState → PwState) : (s.modPw f).frames = s.frames := rfl
@[simp] theorem State.modPw_light (s : State) (f : PwState → PwState) : (s.modPw f).light = s.light := rfl
@[simp] theorem State.modPw_unitsUsed (s : State) (f : PwState → PwState) : (s.modPw f).unitsUsed = s.unitsUsed := rfl
@[simp] theorem State.modPw_recSeq (s : State) (f : PwState → PwState) : (s.modPw f).recSeq = s.recSeq := rfl
@[simp] theorem State.modPw_flashLow (s : State) (f : PwState → PwState) : (s.modPw f).flashLow = s.flashLow := rfl
@[simp] theorem State.modPw_pressed (s : State) (f : PwState → PwState) : (s.modPw f).pressed = s.pressed := rfl
@[simp] theorem State.modPw_pins (s : State) (f : PwState → PwState) : (s.modPw f).pins = s.pins := rfl
@[simp] theorem State.modPw_scheduled (s : State) (f : PwState → PwState) : (s.modPw f).scheduled = s.scheduled := rfl
@[simp] theorem State.modPw_moveSeq (s : State) (f : PwState → PwState) : (s.modPw f).moveSeq = s.moveSeq := rfl
@[simp] theorem State.modPw_views (s : State) (f : PwState → PwState) : (s.modPw f).views = s.views := rfl
@[simp] theorem State.modPw_nextView (s : State) (f : PwState → PwState) : (s.modPw f).nextView = s.nextView := rfl
@[simp] theorem State.modPw_windows (s : State) (f : PwState → PwState) : (s.modPw f).windows = s.windows := rfl
@[simp] theorem State.modPw_nextWindow (s : State) (f : PwState → PwState) : (s.modPw f).nextWindow = s.nextWindow := rfl
@[simp] theorem State.modPw_directory (s : State) (f : PwState → PwState) : (s.modPw f).directory = s.directory := rfl
@[simp] theorem State.modPw_dirSeq (s : State) (f : PwState → PwState) : (s.modPw f).dirSeq = s.dirSeq := rfl
@[simp] theorem State.modPw_eager (s : State) (f : PwState → PwState) : (s.modPw f).eager = s.eager := rfl
@[simp] theorem State.modPw_windowDirty (s : State) (f : PwState → PwState) : (s.modPw f).windowDirty = s.windowDirty := rfl
@[simp] theorem State.modPw_waits (s : State) (f : PwState → PwState) : (s.modPw f).waits = s.waits := rfl
@[simp] theorem State.modPw_orders (s : State) (f : PwState → PwState) : (s.modPw f).orders = s.orders := rfl
@[simp] theorem State.modPw_dram (s : State) (f : PwState → PwState) : (s.modPw f).dram = s.dram := rfl
@[simp] theorem State.modPw_poison (s : State) (f : PwState → PwState) : (s.modPw f).poison = s.poison := rfl
@[simp] theorem State.modPw_hint (s : State) (f : PwState → PwState) : (s.modPw f).hint = s.hint := rfl
@[simp] theorem State.modPw_badCode (s : State) (f : PwState → PwState) : (s.modPw f).badCode = s.badCode := rfl
@[simp] theorem State.modPw_seals (s : State) (f : PwState → PwState) : (s.modPw f).seals = s.seals := rfl
@[simp] theorem State.modPw_cellErr (s : State) (f : PwState → PwState) : (s.modPw f).cellErr = s.cellErr := rfl
@[simp] theorem State.modPw_steer (s : State) (f : PwState → PwState) : (s.modPw f).steer = s.steer := rfl
@[simp] theorem State.modPw_chans (s : State) (f : PwState → PwState) : (s.modPw f).chans = s.chans := rfl
@[simp] theorem State.modPw_stackSt (s : State) (f : PwState → PwState) : (s.modPw f).stackSt = s.stackSt := rfl
@[simp] theorem State.modPw_lastErr (s : State) (f : PwState → PwState) : (s.modPw f).lastErr = s.lastErr := rfl
@[simp] theorem State.modPw_patterns (s : State) (f : PwState → PwState) : (s.modPw f).patterns = s.patterns := rfl
@[simp] theorem State.modPw_nextPattern (s : State) (f : PwState → PwState) : (s.modPw f).nextPattern = s.nextPattern := rfl
@[simp] theorem State.modPw_bindings (s : State) (f : PwState → PwState) : (s.modPw f).bindings = s.bindings := rfl
@[simp] theorem State.modPw_nextBinding (s : State) (f : PwState → PwState) : (s.modPw f).nextBinding = s.nextBinding := rfl
@[simp] theorem State.modPw_cues (s : State) (f : PwState → PwState) : (s.modPw f).cues = s.cues := rfl
@[simp] theorem State.modPw_nextCue (s : State) (f : PwState → PwState) : (s.modPw f).nextCue = s.nextCue := rfl
@[simp] theorem State.modPw_epoch (s : State) (f : PwState → PwState) : (s.modPw f).epoch = s.epoch := rfl
@[simp] theorem State.modPw_cores (s : State) (f : PwState → PwState) : (s.modPw f).cores = s.cores := rfl
@[simp] theorem State.modPw_msgs (s : State) (f : PwState → PwState) : (s.modPw f).msgs = s.msgs := rfl
@[simp] theorem State.modPw_nextMsg (s : State) (f : PwState → PwState) : (s.modPw f).nextMsg = s.nextMsg := rfl
@[simp] theorem State.modPw_reds (s : State) (f : PwState → PwState) : (s.modPw f).reds = s.reds := rfl
@[simp] theorem State.modPw_redDone (s : State) (f : PwState → PwState) : (s.modPw f).redDone = s.redDone := rfl
@[simp] theorem State.modPw_stale (s : State) (f : PwState → PwState) : (s.modPw f).stale = s.stale := rfl
@[simp] theorem State.modPw_chanCodec (s : State) (f : PwState → PwState) : (s.modPw f).chanCodec = s.chanCodec := rfl
@[simp] theorem State.modPw_nextChan (s : State) (f : PwState → PwState) : (s.modPw f).nextChan = s.nextChan := rfl
@[simp] theorem State.modPw_upstream (s : State) (f : PwState → PwState) : (s.modPw f).upstream = s.upstream := rfl
@[simp] theorem State.modPw_nmWaits (s : State) (f : PwState → PwState) : (s.modPw f).nmWaits = s.nmWaits := rfl
@[simp] theorem State.modPw_bays (s : State) (f : PwState → PwState) : (s.modPw f).bays = s.bays := rfl
@[simp] theorem State.modPw_walk (s : State) (f : PwState → PwState) : (s.modPw f).walk = s.walk := rfl
@[simp] theorem State.modPw_vacated (s : State) (f : PwState → PwState) : (s.modPw f).vacated = s.vacated := rfl
@[simp] theorem State.modPw_stripes (s : State) (f : PwState → PwState) : (s.modPw f).stripes = s.stripes := rfl
@[simp] theorem State.modPw_nextStripe (s : State) (f : PwState → PwState) : (s.modPw f).nextStripe = s.nextStripe := rfl
@[simp] theorem State.modPw_broken (s : State) (f : PwState → PwState) : (s.modPw f).broken = s.broken := rfl
@[simp] theorem State.modPw_linkArbs (s : State) (f : PwState → PwState) : (s.modPw f).linkArbs = s.linkArbs := rfl
@[simp] theorem State.modPw_ledger (s : State) (f : PwState → PwState) : (s.modPw f).ledger = s.ledger := rfl
@[simp] theorem State.modPw_ledgerNext (s : State) (f : PwState → PwState) : (s.modPw f).ledgerNext = s.ledgerNext := rfl
@[simp] theorem State.modPw_shrunk (s : State) (f : PwState → PwState) : (s.modPw f).shrunk = s.shrunk := rfl
@[simp] theorem State.modPw_shrunkAt (s : State) (f : PwState → PwState) : (s.modPw f).shrunkAt = s.shrunkAt := rfl
@[simp] theorem State.modPw_recompute (s : State) (f : PwState → PwState) : (s.modPw f).recompute = s.recompute := rfl
@[simp] theorem State.modPw_keys (s : State) (f : PwState → PwState) : (s.modPw f).keys = s.keys := rfl
@[simp] theorem State.modPw_keks (s : State) (f : PwState → PwState) : (s.modPw f).keks = s.keks := rfl
@[simp] theorem State.modPw_ide (s : State) (f : PwState → PwState) : (s.modPw f).ide = s.ide := rfl
@[simp] theorem State.modPw_fwStore (s : State) (f : PwState → PwState) : (s.modPw f).fwStore = s.fwStore := rfl
@[simp] theorem State.modPw_fwBad (s : State) (f : PwState → PwState) : (s.modPw f).fwBad = s.fwBad := rfl
@[simp] theorem State.modPw_fwRun (s : State) (f : PwState → PwState) : (s.modPw f).fwRun = s.fwRun := rfl
@[simp] theorem State.modPw_fwXfer (s : State) (f : PwState → PwState) : (s.modPw f).fwXfer = s.fwXfer := rfl
@[simp] theorem State.modPw_fwWrite (s : State) (f : PwState → PwState) : (s.modPw f).fwWrite = s.fwWrite := rfl
@[simp] theorem State.modPw_svnFloor (s : State) (f : PwState → PwState) : (s.modPw f).svnFloor = s.svnFloor := rfl
@[simp] theorem State.modPw_revoked (s : State) (f : PwState → PwState) : (s.modPw f).revoked = s.revoked := rfl
@[simp] theorem State.modPw_spdm (s : State) (f : PwState → PwState) : (s.modPw f).spdm = s.spdm := rfl
@[simp] theorem State.modPw_signQueue (s : State) (f : PwState → PwState) : (s.modPw f).signQueue = s.signQueue := rfl
@[simp] theorem State.modPw_aliasReady (s : State) (f : PwState → PwState) : (s.modPw f).aliasReady = s.aliasReady := rfl
@[simp] theorem State.modPw_rv (s : State) (f : PwState → PwState) : (s.modPw f).rv = s.rv := rfl
@[simp] theorem State.modPw_lockWaits (s : State) (f : PwState → PwState) : (s.modPw f).lockWaits = s.lockWaits := rfl
@[simp] theorem State.modPw_pubs (s : State) (f : PwState → PwState) : (s.modPw f).pubs = s.pubs := rfl
@[simp] theorem State.modPw_faultPin (s : State) (f : PwState → PwState) : (s.modPw f).faultPin = s.faultPin := rfl
@[simp] theorem State.modPw_thermPin (s : State) (f : PwState → PwState) : (s.modPw f).thermPin = s.thermPin := rfl
@[simp] theorem State.modPw_baySafe (s : State) (f : PwState → PwState) : (s.modPw f).baySafe = s.baySafe := rfl

@[simp] theorem State.modRv_pending (s : State) (f : RvState → RvState) : (s.modRv f).pending = s.pending := rfl
@[simp] theorem State.modRv_out (s : State) (f : RvState → RvState) : (s.modRv f).out = s.out := rfl
@[simp] theorem State.modRv_free (s : State) (f : RvState → RvState) : (s.modRv f).free = s.free := rfl
@[simp] theorem State.modRv_regs (s : State) (f : RvState → RvState) : (s.modRv f).regs = s.regs := rfl
@[simp] theorem State.modRv_eff (s : State) (f : RvState → RvState) : (s.modRv f).eff = s.eff := rfl
@[simp] theorem State.modRv_counts (s : State) (f : RvState → RvState) : (s.modRv f).counts = s.counts := rfl
@[simp] theorem State.modRv_merged (s : State) (f : RvState → RvState) : (s.modRv f).merged = s.merged := rfl
@[simp] theorem State.modRv_ft (s : State) (f : RvState → RvState) : (s.modRv f).ft = s.ft := rfl
@[simp] theorem State.modRv_ports (s : State) (f : RvState → RvState) : (s.modRv f).ports = s.ports := rfl
@[simp] theorem State.modRv_ctxs (s : State) (f : RvState → RvState) : (s.modRv f).ctxs = s.ctxs := rfl
@[simp] theorem State.modRv_owner (s : State) (f : RvState → RvState) : (s.modRv f).owner = s.owner := rfl
@[simp] theorem State.modRv_srcTab (s : State) (f : RvState → RvState) : (s.modRv f).srcTab = s.srcTab := rfl
@[simp] theorem State.modRv_srcStaged (s : State) (f : RvState → RvState) : (s.modRv f).srcStaged = s.srcStaged := rfl
@[simp] theorem State.modRv_srcDue (s : State) (f : RvState → RvState) : (s.modRv f).srcDue = s.srcDue := rfl
@[simp] theorem State.modRv_srcGen (s : State) (f : RvState → RvState) : (s.modRv f).srcGen = s.srcGen := rfl
@[simp] theorem State.modRv_sbCtx (s : State) (f : RvState → RvState) : (s.modRv f).sbCtx = s.sbCtx := rfl
@[simp] theorem State.modRv_eids (s : State) (f : RvState → RvState) : (s.modRv f).eids = s.eids := rfl
@[simp] theorem State.modRv_extents (s : State) (f : RvState → RvState) : (s.modRv f).extents = s.extents := rfl
@[simp] theorem State.modRv_objects (s : State) (f : RvState → RvState) : (s.modRv f).objects = s.objects := rfl
@[simp] theorem State.modRv_contents (s : State) (f : RvState → RvState) : (s.modRv f).contents = s.contents := rfl
@[simp] theorem State.modRv_nextContent (s : State) (f : RvState → RvState) : (s.modRv f).nextContent = s.nextContent := rfl
@[simp] theorem State.modRv_pages (s : State) (f : RvState → RvState) : (s.modRv f).pages = s.pages := rfl
@[simp] theorem State.modRv_frames (s : State) (f : RvState → RvState) : (s.modRv f).frames = s.frames := rfl
@[simp] theorem State.modRv_light (s : State) (f : RvState → RvState) : (s.modRv f).light = s.light := rfl
@[simp] theorem State.modRv_unitsUsed (s : State) (f : RvState → RvState) : (s.modRv f).unitsUsed = s.unitsUsed := rfl
@[simp] theorem State.modRv_recSeq (s : State) (f : RvState → RvState) : (s.modRv f).recSeq = s.recSeq := rfl
@[simp] theorem State.modRv_flashLow (s : State) (f : RvState → RvState) : (s.modRv f).flashLow = s.flashLow := rfl
@[simp] theorem State.modRv_pressed (s : State) (f : RvState → RvState) : (s.modRv f).pressed = s.pressed := rfl
@[simp] theorem State.modRv_pins (s : State) (f : RvState → RvState) : (s.modRv f).pins = s.pins := rfl
@[simp] theorem State.modRv_scheduled (s : State) (f : RvState → RvState) : (s.modRv f).scheduled = s.scheduled := rfl
@[simp] theorem State.modRv_moveSeq (s : State) (f : RvState → RvState) : (s.modRv f).moveSeq = s.moveSeq := rfl
@[simp] theorem State.modRv_views (s : State) (f : RvState → RvState) : (s.modRv f).views = s.views := rfl
@[simp] theorem State.modRv_nextView (s : State) (f : RvState → RvState) : (s.modRv f).nextView = s.nextView := rfl
@[simp] theorem State.modRv_windows (s : State) (f : RvState → RvState) : (s.modRv f).windows = s.windows := rfl
@[simp] theorem State.modRv_nextWindow (s : State) (f : RvState → RvState) : (s.modRv f).nextWindow = s.nextWindow := rfl
@[simp] theorem State.modRv_directory (s : State) (f : RvState → RvState) : (s.modRv f).directory = s.directory := rfl
@[simp] theorem State.modRv_dirSeq (s : State) (f : RvState → RvState) : (s.modRv f).dirSeq = s.dirSeq := rfl
@[simp] theorem State.modRv_eager (s : State) (f : RvState → RvState) : (s.modRv f).eager = s.eager := rfl
@[simp] theorem State.modRv_windowDirty (s : State) (f : RvState → RvState) : (s.modRv f).windowDirty = s.windowDirty := rfl
@[simp] theorem State.modRv_waits (s : State) (f : RvState → RvState) : (s.modRv f).waits = s.waits := rfl
@[simp] theorem State.modRv_orders (s : State) (f : RvState → RvState) : (s.modRv f).orders = s.orders := rfl
@[simp] theorem State.modRv_dram (s : State) (f : RvState → RvState) : (s.modRv f).dram = s.dram := rfl
@[simp] theorem State.modRv_poison (s : State) (f : RvState → RvState) : (s.modRv f).poison = s.poison := rfl
@[simp] theorem State.modRv_hint (s : State) (f : RvState → RvState) : (s.modRv f).hint = s.hint := rfl
@[simp] theorem State.modRv_badCode (s : State) (f : RvState → RvState) : (s.modRv f).badCode = s.badCode := rfl
@[simp] theorem State.modRv_seals (s : State) (f : RvState → RvState) : (s.modRv f).seals = s.seals := rfl
@[simp] theorem State.modRv_cellErr (s : State) (f : RvState → RvState) : (s.modRv f).cellErr = s.cellErr := rfl
@[simp] theorem State.modRv_steer (s : State) (f : RvState → RvState) : (s.modRv f).steer = s.steer := rfl
@[simp] theorem State.modRv_chans (s : State) (f : RvState → RvState) : (s.modRv f).chans = s.chans := rfl
@[simp] theorem State.modRv_stackSt (s : State) (f : RvState → RvState) : (s.modRv f).stackSt = s.stackSt := rfl
@[simp] theorem State.modRv_lastErr (s : State) (f : RvState → RvState) : (s.modRv f).lastErr = s.lastErr := rfl
@[simp] theorem State.modRv_patterns (s : State) (f : RvState → RvState) : (s.modRv f).patterns = s.patterns := rfl
@[simp] theorem State.modRv_nextPattern (s : State) (f : RvState → RvState) : (s.modRv f).nextPattern = s.nextPattern := rfl
@[simp] theorem State.modRv_bindings (s : State) (f : RvState → RvState) : (s.modRv f).bindings = s.bindings := rfl
@[simp] theorem State.modRv_nextBinding (s : State) (f : RvState → RvState) : (s.modRv f).nextBinding = s.nextBinding := rfl
@[simp] theorem State.modRv_cues (s : State) (f : RvState → RvState) : (s.modRv f).cues = s.cues := rfl
@[simp] theorem State.modRv_nextCue (s : State) (f : RvState → RvState) : (s.modRv f).nextCue = s.nextCue := rfl
@[simp] theorem State.modRv_epoch (s : State) (f : RvState → RvState) : (s.modRv f).epoch = s.epoch := rfl
@[simp] theorem State.modRv_cores (s : State) (f : RvState → RvState) : (s.modRv f).cores = s.cores := rfl
@[simp] theorem State.modRv_msgs (s : State) (f : RvState → RvState) : (s.modRv f).msgs = s.msgs := rfl
@[simp] theorem State.modRv_nextMsg (s : State) (f : RvState → RvState) : (s.modRv f).nextMsg = s.nextMsg := rfl
@[simp] theorem State.modRv_reds (s : State) (f : RvState → RvState) : (s.modRv f).reds = s.reds := rfl
@[simp] theorem State.modRv_redDone (s : State) (f : RvState → RvState) : (s.modRv f).redDone = s.redDone := rfl
@[simp] theorem State.modRv_stale (s : State) (f : RvState → RvState) : (s.modRv f).stale = s.stale := rfl
@[simp] theorem State.modRv_chanCodec (s : State) (f : RvState → RvState) : (s.modRv f).chanCodec = s.chanCodec := rfl
@[simp] theorem State.modRv_nextChan (s : State) (f : RvState → RvState) : (s.modRv f).nextChan = s.nextChan := rfl
@[simp] theorem State.modRv_upstream (s : State) (f : RvState → RvState) : (s.modRv f).upstream = s.upstream := rfl
@[simp] theorem State.modRv_nmWaits (s : State) (f : RvState → RvState) : (s.modRv f).nmWaits = s.nmWaits := rfl
@[simp] theorem State.modRv_bays (s : State) (f : RvState → RvState) : (s.modRv f).bays = s.bays := rfl
@[simp] theorem State.modRv_walk (s : State) (f : RvState → RvState) : (s.modRv f).walk = s.walk := rfl
@[simp] theorem State.modRv_vacated (s : State) (f : RvState → RvState) : (s.modRv f).vacated = s.vacated := rfl
@[simp] theorem State.modRv_stripes (s : State) (f : RvState → RvState) : (s.modRv f).stripes = s.stripes := rfl
@[simp] theorem State.modRv_nextStripe (s : State) (f : RvState → RvState) : (s.modRv f).nextStripe = s.nextStripe := rfl
@[simp] theorem State.modRv_broken (s : State) (f : RvState → RvState) : (s.modRv f).broken = s.broken := rfl
@[simp] theorem State.modRv_linkArbs (s : State) (f : RvState → RvState) : (s.modRv f).linkArbs = s.linkArbs := rfl
@[simp] theorem State.modRv_ledger (s : State) (f : RvState → RvState) : (s.modRv f).ledger = s.ledger := rfl
@[simp] theorem State.modRv_ledgerNext (s : State) (f : RvState → RvState) : (s.modRv f).ledgerNext = s.ledgerNext := rfl
@[simp] theorem State.modRv_shrunk (s : State) (f : RvState → RvState) : (s.modRv f).shrunk = s.shrunk := rfl
@[simp] theorem State.modRv_shrunkAt (s : State) (f : RvState → RvState) : (s.modRv f).shrunkAt = s.shrunkAt := rfl
@[simp] theorem State.modRv_recompute (s : State) (f : RvState → RvState) : (s.modRv f).recompute = s.recompute := rfl
@[simp] theorem State.modRv_keys (s : State) (f : RvState → RvState) : (s.modRv f).keys = s.keys := rfl
@[simp] theorem State.modRv_keks (s : State) (f : RvState → RvState) : (s.modRv f).keks = s.keks := rfl
@[simp] theorem State.modRv_ide (s : State) (f : RvState → RvState) : (s.modRv f).ide = s.ide := rfl
@[simp] theorem State.modRv_fwStore (s : State) (f : RvState → RvState) : (s.modRv f).fwStore = s.fwStore := rfl
@[simp] theorem State.modRv_fwBad (s : State) (f : RvState → RvState) : (s.modRv f).fwBad = s.fwBad := rfl
@[simp] theorem State.modRv_fwRun (s : State) (f : RvState → RvState) : (s.modRv f).fwRun = s.fwRun := rfl
@[simp] theorem State.modRv_fwXfer (s : State) (f : RvState → RvState) : (s.modRv f).fwXfer = s.fwXfer := rfl
@[simp] theorem State.modRv_fwWrite (s : State) (f : RvState → RvState) : (s.modRv f).fwWrite = s.fwWrite := rfl
@[simp] theorem State.modRv_svnFloor (s : State) (f : RvState → RvState) : (s.modRv f).svnFloor = s.svnFloor := rfl
@[simp] theorem State.modRv_revoked (s : State) (f : RvState → RvState) : (s.modRv f).revoked = s.revoked := rfl
@[simp] theorem State.modRv_spdm (s : State) (f : RvState → RvState) : (s.modRv f).spdm = s.spdm := rfl
@[simp] theorem State.modRv_signQueue (s : State) (f : RvState → RvState) : (s.modRv f).signQueue = s.signQueue := rfl
@[simp] theorem State.modRv_aliasReady (s : State) (f : RvState → RvState) : (s.modRv f).aliasReady = s.aliasReady := rfl
@[simp] theorem State.modRv_pw (s : State) (f : RvState → RvState) : (s.modRv f).pw = s.pw := rfl
@[simp] theorem State.modRv_lockWaits (s : State) (f : RvState → RvState) : (s.modRv f).lockWaits = s.lockWaits := rfl
@[simp] theorem State.modRv_pubs (s : State) (f : RvState → RvState) : (s.modRv f).pubs = s.pubs := rfl
@[simp] theorem State.modRv_faultPin (s : State) (f : RvState → RvState) : (s.modRv f).faultPin = s.faultPin := rfl
@[simp] theorem State.modRv_thermPin (s : State) (f : RvState → RvState) : (s.modRv f).thermPin = s.thermPin := rfl
@[simp] theorem State.modRv_baySafe (s : State) (f : RvState → RvState) : (s.modRv f).baySafe = s.baySafe := rfl

@[simp] theorem State.emit_pending (s : State) (o : Output) : (s.emit o).pending = s.pending := rfl
@[simp] theorem State.emit_free (s : State) (o : Output) : (s.emit o).free = s.free := rfl
@[simp] theorem State.emit_regs (s : State) (o : Output) : (s.emit o).regs = s.regs := rfl
@[simp] theorem State.emit_eff (s : State) (o : Output) : (s.emit o).eff = s.eff := rfl
@[simp] theorem State.emit_counts (s : State) (o : Output) : (s.emit o).counts = s.counts := rfl
@[simp] theorem State.emit_merged (s : State) (o : Output) : (s.emit o).merged = s.merged := rfl
@[simp] theorem State.emit_ft (s : State) (o : Output) : (s.emit o).ft = s.ft := rfl
@[simp] theorem State.emit_ports (s : State) (o : Output) : (s.emit o).ports = s.ports := rfl
@[simp] theorem State.emit_ctxs (s : State) (o : Output) : (s.emit o).ctxs = s.ctxs := rfl
@[simp] theorem State.emit_owner (s : State) (o : Output) : (s.emit o).owner = s.owner := rfl
@[simp] theorem State.emit_srcTab (s : State) (o : Output) : (s.emit o).srcTab = s.srcTab := rfl
@[simp] theorem State.emit_srcStaged (s : State) (o : Output) : (s.emit o).srcStaged = s.srcStaged := rfl
@[simp] theorem State.emit_srcDue (s : State) (o : Output) : (s.emit o).srcDue = s.srcDue := rfl
@[simp] theorem State.emit_srcGen (s : State) (o : Output) : (s.emit o).srcGen = s.srcGen := rfl
@[simp] theorem State.emit_sbCtx (s : State) (o : Output) : (s.emit o).sbCtx = s.sbCtx := rfl
@[simp] theorem State.emit_eids (s : State) (o : Output) : (s.emit o).eids = s.eids := rfl
@[simp] theorem State.emit_extents (s : State) (o : Output) : (s.emit o).extents = s.extents := rfl
@[simp] theorem State.emit_objects (s : State) (o : Output) : (s.emit o).objects = s.objects := rfl
@[simp] theorem State.emit_contents (s : State) (o : Output) : (s.emit o).contents = s.contents := rfl
@[simp] theorem State.emit_nextContent (s : State) (o : Output) : (s.emit o).nextContent = s.nextContent := rfl
@[simp] theorem State.emit_pages (s : State) (o : Output) : (s.emit o).pages = s.pages := rfl
@[simp] theorem State.emit_frames (s : State) (o : Output) : (s.emit o).frames = s.frames := rfl
@[simp] theorem State.emit_light (s : State) (o : Output) : (s.emit o).light = s.light := rfl
@[simp] theorem State.emit_unitsUsed (s : State) (o : Output) : (s.emit o).unitsUsed = s.unitsUsed := rfl
@[simp] theorem State.emit_recSeq (s : State) (o : Output) : (s.emit o).recSeq = s.recSeq := rfl
@[simp] theorem State.emit_flashLow (s : State) (o : Output) : (s.emit o).flashLow = s.flashLow := rfl
@[simp] theorem State.emit_pressed (s : State) (o : Output) : (s.emit o).pressed = s.pressed := rfl
@[simp] theorem State.emit_pins (s : State) (o : Output) : (s.emit o).pins = s.pins := rfl
@[simp] theorem State.emit_scheduled (s : State) (o : Output) : (s.emit o).scheduled = s.scheduled := rfl
@[simp] theorem State.emit_moveSeq (s : State) (o : Output) : (s.emit o).moveSeq = s.moveSeq := rfl
@[simp] theorem State.emit_views (s : State) (o : Output) : (s.emit o).views = s.views := rfl
@[simp] theorem State.emit_nextView (s : State) (o : Output) : (s.emit o).nextView = s.nextView := rfl
@[simp] theorem State.emit_windows (s : State) (o : Output) : (s.emit o).windows = s.windows := rfl
@[simp] theorem State.emit_nextWindow (s : State) (o : Output) : (s.emit o).nextWindow = s.nextWindow := rfl
@[simp] theorem State.emit_directory (s : State) (o : Output) : (s.emit o).directory = s.directory := rfl
@[simp] theorem State.emit_dirSeq (s : State) (o : Output) : (s.emit o).dirSeq = s.dirSeq := rfl
@[simp] theorem State.emit_eager (s : State) (o : Output) : (s.emit o).eager = s.eager := rfl
@[simp] theorem State.emit_windowDirty (s : State) (o : Output) : (s.emit o).windowDirty = s.windowDirty := rfl
@[simp] theorem State.emit_waits (s : State) (o : Output) : (s.emit o).waits = s.waits := rfl
@[simp] theorem State.emit_orders (s : State) (o : Output) : (s.emit o).orders = s.orders := rfl
@[simp] theorem State.emit_dram (s : State) (o : Output) : (s.emit o).dram = s.dram := rfl
@[simp] theorem State.emit_poison (s : State) (o : Output) : (s.emit o).poison = s.poison := rfl
@[simp] theorem State.emit_hint (s : State) (o : Output) : (s.emit o).hint = s.hint := rfl
@[simp] theorem State.emit_badCode (s : State) (o : Output) : (s.emit o).badCode = s.badCode := rfl
@[simp] theorem State.emit_seals (s : State) (o : Output) : (s.emit o).seals = s.seals := rfl
@[simp] theorem State.emit_cellErr (s : State) (o : Output) : (s.emit o).cellErr = s.cellErr := rfl
@[simp] theorem State.emit_steer (s : State) (o : Output) : (s.emit o).steer = s.steer := rfl
@[simp] theorem State.emit_chans (s : State) (o : Output) : (s.emit o).chans = s.chans := rfl
@[simp] theorem State.emit_stackSt (s : State) (o : Output) : (s.emit o).stackSt = s.stackSt := rfl
@[simp] theorem State.emit_lastErr (s : State) (o : Output) : (s.emit o).lastErr = s.lastErr := rfl
@[simp] theorem State.emit_patterns (s : State) (o : Output) : (s.emit o).patterns = s.patterns := rfl
@[simp] theorem State.emit_nextPattern (s : State) (o : Output) : (s.emit o).nextPattern = s.nextPattern := rfl
@[simp] theorem State.emit_bindings (s : State) (o : Output) : (s.emit o).bindings = s.bindings := rfl
@[simp] theorem State.emit_nextBinding (s : State) (o : Output) : (s.emit o).nextBinding = s.nextBinding := rfl
@[simp] theorem State.emit_cues (s : State) (o : Output) : (s.emit o).cues = s.cues := rfl
@[simp] theorem State.emit_nextCue (s : State) (o : Output) : (s.emit o).nextCue = s.nextCue := rfl
@[simp] theorem State.emit_epoch (s : State) (o : Output) : (s.emit o).epoch = s.epoch := rfl
@[simp] theorem State.emit_cores (s : State) (o : Output) : (s.emit o).cores = s.cores := rfl
@[simp] theorem State.emit_msgs (s : State) (o : Output) : (s.emit o).msgs = s.msgs := rfl
@[simp] theorem State.emit_nextMsg (s : State) (o : Output) : (s.emit o).nextMsg = s.nextMsg := rfl
@[simp] theorem State.emit_reds (s : State) (o : Output) : (s.emit o).reds = s.reds := rfl
@[simp] theorem State.emit_redDone (s : State) (o : Output) : (s.emit o).redDone = s.redDone := rfl
@[simp] theorem State.emit_stale (s : State) (o : Output) : (s.emit o).stale = s.stale := rfl
@[simp] theorem State.emit_chanCodec (s : State) (o : Output) : (s.emit o).chanCodec = s.chanCodec := rfl
@[simp] theorem State.emit_nextChan (s : State) (o : Output) : (s.emit o).nextChan = s.nextChan := rfl
@[simp] theorem State.emit_upstream (s : State) (o : Output) : (s.emit o).upstream = s.upstream := rfl
@[simp] theorem State.emit_nmWaits (s : State) (o : Output) : (s.emit o).nmWaits = s.nmWaits := rfl
@[simp] theorem State.emit_bays (s : State) (o : Output) : (s.emit o).bays = s.bays := rfl
@[simp] theorem State.emit_walk (s : State) (o : Output) : (s.emit o).walk = s.walk := rfl
@[simp] theorem State.emit_vacated (s : State) (o : Output) : (s.emit o).vacated = s.vacated := rfl
@[simp] theorem State.emit_stripes (s : State) (o : Output) : (s.emit o).stripes = s.stripes := rfl
@[simp] theorem State.emit_nextStripe (s : State) (o : Output) : (s.emit o).nextStripe = s.nextStripe := rfl
@[simp] theorem State.emit_broken (s : State) (o : Output) : (s.emit o).broken = s.broken := rfl
@[simp] theorem State.emit_linkArbs (s : State) (o : Output) : (s.emit o).linkArbs = s.linkArbs := rfl
@[simp] theorem State.emit_ledger (s : State) (o : Output) : (s.emit o).ledger = s.ledger := rfl
@[simp] theorem State.emit_ledgerNext (s : State) (o : Output) : (s.emit o).ledgerNext = s.ledgerNext := rfl
@[simp] theorem State.emit_shrunk (s : State) (o : Output) : (s.emit o).shrunk = s.shrunk := rfl
@[simp] theorem State.emit_shrunkAt (s : State) (o : Output) : (s.emit o).shrunkAt = s.shrunkAt := rfl
@[simp] theorem State.emit_recompute (s : State) (o : Output) : (s.emit o).recompute = s.recompute := rfl
@[simp] theorem State.emit_keys (s : State) (o : Output) : (s.emit o).keys = s.keys := rfl
@[simp] theorem State.emit_keks (s : State) (o : Output) : (s.emit o).keks = s.keks := rfl
@[simp] theorem State.emit_ide (s : State) (o : Output) : (s.emit o).ide = s.ide := rfl
@[simp] theorem State.emit_fwStore (s : State) (o : Output) : (s.emit o).fwStore = s.fwStore := rfl
@[simp] theorem State.emit_fwBad (s : State) (o : Output) : (s.emit o).fwBad = s.fwBad := rfl
@[simp] theorem State.emit_fwRun (s : State) (o : Output) : (s.emit o).fwRun = s.fwRun := rfl
@[simp] theorem State.emit_fwXfer (s : State) (o : Output) : (s.emit o).fwXfer = s.fwXfer := rfl
@[simp] theorem State.emit_fwWrite (s : State) (o : Output) : (s.emit o).fwWrite = s.fwWrite := rfl
@[simp] theorem State.emit_svnFloor (s : State) (o : Output) : (s.emit o).svnFloor = s.svnFloor := rfl
@[simp] theorem State.emit_revoked (s : State) (o : Output) : (s.emit o).revoked = s.revoked := rfl
@[simp] theorem State.emit_spdm (s : State) (o : Output) : (s.emit o).spdm = s.spdm := rfl
@[simp] theorem State.emit_signQueue (s : State) (o : Output) : (s.emit o).signQueue = s.signQueue := rfl
@[simp] theorem State.emit_aliasReady (s : State) (o : Output) : (s.emit o).aliasReady = s.aliasReady := rfl
@[simp] theorem State.emit_pw (s : State) (o : Output) : (s.emit o).pw = s.pw := rfl
@[simp] theorem State.emit_rv (s : State) (o : Output) : (s.emit o).rv = s.rv := rfl
@[simp] theorem State.emit_lockWaits (s : State) (o : Output) : (s.emit o).lockWaits = s.lockWaits := rfl
@[simp] theorem State.emit_pubs (s : State) (o : Output) : (s.emit o).pubs = s.pubs := rfl
@[simp] theorem State.emit_faultPin (s : State) (o : Output) : (s.emit o).faultPin = s.faultPin := rfl
@[simp] theorem State.emit_thermPin (s : State) (o : Output) : (s.emit o).thermPin = s.thermPin := rfl
@[simp] theorem State.emit_baySafe (s : State) (o : Output) : (s.emit o).baySafe = s.baySafe := rfl

@[simp] theorem State.tick_pending (s : State) : (s.tick).pending = s.pending := rfl
@[simp] theorem State.tick_out (s : State) : (s.tick).out = s.out := rfl
@[simp] theorem State.tick_regs (s : State) : (s.tick).regs = s.regs := rfl
@[simp] theorem State.tick_eff (s : State) : (s.tick).eff = s.eff := rfl
@[simp] theorem State.tick_counts (s : State) : (s.tick).counts = s.counts := rfl
@[simp] theorem State.tick_merged (s : State) : (s.tick).merged = s.merged := rfl
@[simp] theorem State.tick_ft (s : State) : (s.tick).ft = s.ft := rfl
@[simp] theorem State.tick_ports (s : State) : (s.tick).ports = s.ports := rfl
@[simp] theorem State.tick_ctxs (s : State) : (s.tick).ctxs = s.ctxs := rfl
@[simp] theorem State.tick_owner (s : State) : (s.tick).owner = s.owner := rfl
@[simp] theorem State.tick_srcTab (s : State) : (s.tick).srcTab = s.srcTab := rfl
@[simp] theorem State.tick_srcStaged (s : State) : (s.tick).srcStaged = s.srcStaged := rfl
@[simp] theorem State.tick_srcDue (s : State) : (s.tick).srcDue = s.srcDue := rfl
@[simp] theorem State.tick_srcGen (s : State) : (s.tick).srcGen = s.srcGen := rfl
@[simp] theorem State.tick_sbCtx (s : State) : (s.tick).sbCtx = s.sbCtx := rfl
@[simp] theorem State.tick_eids (s : State) : (s.tick).eids = s.eids := rfl
@[simp] theorem State.tick_extents (s : State) : (s.tick).extents = s.extents := rfl
@[simp] theorem State.tick_objects (s : State) : (s.tick).objects = s.objects := rfl
@[simp] theorem State.tick_contents (s : State) : (s.tick).contents = s.contents := rfl
@[simp] theorem State.tick_nextContent (s : State) : (s.tick).nextContent = s.nextContent := rfl
@[simp] theorem State.tick_pages (s : State) : (s.tick).pages = s.pages := rfl
@[simp] theorem State.tick_frames (s : State) : (s.tick).frames = s.frames := rfl
@[simp] theorem State.tick_light (s : State) : (s.tick).light = s.light := rfl
@[simp] theorem State.tick_unitsUsed (s : State) : (s.tick).unitsUsed = s.unitsUsed := rfl
@[simp] theorem State.tick_recSeq (s : State) : (s.tick).recSeq = s.recSeq := rfl
@[simp] theorem State.tick_flashLow (s : State) : (s.tick).flashLow = s.flashLow := rfl
@[simp] theorem State.tick_pressed (s : State) : (s.tick).pressed = s.pressed := rfl
@[simp] theorem State.tick_pins (s : State) : (s.tick).pins = s.pins := rfl
@[simp] theorem State.tick_scheduled (s : State) : (s.tick).scheduled = s.scheduled := rfl
@[simp] theorem State.tick_moveSeq (s : State) : (s.tick).moveSeq = s.moveSeq := rfl
@[simp] theorem State.tick_views (s : State) : (s.tick).views = s.views := rfl
@[simp] theorem State.tick_nextView (s : State) : (s.tick).nextView = s.nextView := rfl
@[simp] theorem State.tick_windows (s : State) : (s.tick).windows = s.windows := rfl
@[simp] theorem State.tick_nextWindow (s : State) : (s.tick).nextWindow = s.nextWindow := rfl
@[simp] theorem State.tick_directory (s : State) : (s.tick).directory = s.directory := rfl
@[simp] theorem State.tick_dirSeq (s : State) : (s.tick).dirSeq = s.dirSeq := rfl
@[simp] theorem State.tick_eager (s : State) : (s.tick).eager = s.eager := rfl
@[simp] theorem State.tick_windowDirty (s : State) : (s.tick).windowDirty = s.windowDirty := rfl
@[simp] theorem State.tick_waits (s : State) : (s.tick).waits = s.waits := rfl
@[simp] theorem State.tick_orders (s : State) : (s.tick).orders = s.orders := rfl
@[simp] theorem State.tick_dram (s : State) : (s.tick).dram = s.dram := rfl
@[simp] theorem State.tick_poison (s : State) : (s.tick).poison = s.poison := rfl
@[simp] theorem State.tick_hint (s : State) : (s.tick).hint = s.hint := rfl
@[simp] theorem State.tick_badCode (s : State) : (s.tick).badCode = s.badCode := rfl
@[simp] theorem State.tick_seals (s : State) : (s.tick).seals = s.seals := rfl
@[simp] theorem State.tick_cellErr (s : State) : (s.tick).cellErr = s.cellErr := rfl
@[simp] theorem State.tick_steer (s : State) : (s.tick).steer = s.steer := rfl
@[simp] theorem State.tick_chans (s : State) : (s.tick).chans = s.chans := rfl
@[simp] theorem State.tick_stackSt (s : State) : (s.tick).stackSt = s.stackSt := rfl
@[simp] theorem State.tick_lastErr (s : State) : (s.tick).lastErr = s.lastErr := rfl
@[simp] theorem State.tick_patterns (s : State) : (s.tick).patterns = s.patterns := rfl
@[simp] theorem State.tick_nextPattern (s : State) : (s.tick).nextPattern = s.nextPattern := rfl
@[simp] theorem State.tick_bindings (s : State) : (s.tick).bindings = s.bindings := rfl
@[simp] theorem State.tick_nextBinding (s : State) : (s.tick).nextBinding = s.nextBinding := rfl
@[simp] theorem State.tick_cues (s : State) : (s.tick).cues = s.cues := rfl
@[simp] theorem State.tick_nextCue (s : State) : (s.tick).nextCue = s.nextCue := rfl
@[simp] theorem State.tick_epoch (s : State) : (s.tick).epoch = s.epoch := rfl
@[simp] theorem State.tick_cores (s : State) : (s.tick).cores = s.cores := rfl
@[simp] theorem State.tick_msgs (s : State) : (s.tick).msgs = s.msgs := rfl
@[simp] theorem State.tick_nextMsg (s : State) : (s.tick).nextMsg = s.nextMsg := rfl
@[simp] theorem State.tick_reds (s : State) : (s.tick).reds = s.reds := rfl
@[simp] theorem State.tick_redDone (s : State) : (s.tick).redDone = s.redDone := rfl
@[simp] theorem State.tick_stale (s : State) : (s.tick).stale = s.stale := rfl
@[simp] theorem State.tick_chanCodec (s : State) : (s.tick).chanCodec = s.chanCodec := rfl
@[simp] theorem State.tick_nextChan (s : State) : (s.tick).nextChan = s.nextChan := rfl
@[simp] theorem State.tick_upstream (s : State) : (s.tick).upstream = s.upstream := rfl
@[simp] theorem State.tick_nmWaits (s : State) : (s.tick).nmWaits = s.nmWaits := rfl
@[simp] theorem State.tick_bays (s : State) : (s.tick).bays = s.bays := rfl
@[simp] theorem State.tick_walk (s : State) : (s.tick).walk = s.walk := rfl
@[simp] theorem State.tick_vacated (s : State) : (s.tick).vacated = s.vacated := rfl
@[simp] theorem State.tick_stripes (s : State) : (s.tick).stripes = s.stripes := rfl
@[simp] theorem State.tick_nextStripe (s : State) : (s.tick).nextStripe = s.nextStripe := rfl
@[simp] theorem State.tick_broken (s : State) : (s.tick).broken = s.broken := rfl
@[simp] theorem State.tick_linkArbs (s : State) : (s.tick).linkArbs = s.linkArbs := rfl
@[simp] theorem State.tick_ledger (s : State) : (s.tick).ledger = s.ledger := rfl
@[simp] theorem State.tick_ledgerNext (s : State) : (s.tick).ledgerNext = s.ledgerNext := rfl
@[simp] theorem State.tick_shrunk (s : State) : (s.tick).shrunk = s.shrunk := rfl
@[simp] theorem State.tick_shrunkAt (s : State) : (s.tick).shrunkAt = s.shrunkAt := rfl
@[simp] theorem State.tick_recompute (s : State) : (s.tick).recompute = s.recompute := rfl
@[simp] theorem State.tick_keys (s : State) : (s.tick).keys = s.keys := rfl
@[simp] theorem State.tick_keks (s : State) : (s.tick).keks = s.keks := rfl
@[simp] theorem State.tick_ide (s : State) : (s.tick).ide = s.ide := rfl
@[simp] theorem State.tick_fwStore (s : State) : (s.tick).fwStore = s.fwStore := rfl
@[simp] theorem State.tick_fwBad (s : State) : (s.tick).fwBad = s.fwBad := rfl
@[simp] theorem State.tick_fwRun (s : State) : (s.tick).fwRun = s.fwRun := rfl
@[simp] theorem State.tick_fwXfer (s : State) : (s.tick).fwXfer = s.fwXfer := rfl
@[simp] theorem State.tick_fwWrite (s : State) : (s.tick).fwWrite = s.fwWrite := rfl
@[simp] theorem State.tick_svnFloor (s : State) : (s.tick).svnFloor = s.svnFloor := rfl
@[simp] theorem State.tick_revoked (s : State) : (s.tick).revoked = s.revoked := rfl
@[simp] theorem State.tick_spdm (s : State) : (s.tick).spdm = s.spdm := rfl
@[simp] theorem State.tick_signQueue (s : State) : (s.tick).signQueue = s.signQueue := rfl
@[simp] theorem State.tick_aliasReady (s : State) : (s.tick).aliasReady = s.aliasReady := rfl
@[simp] theorem State.tick_pw (s : State) : (s.tick).pw = s.pw := rfl
@[simp] theorem State.tick_rv (s : State) : (s.tick).rv = s.rv := rfl
@[simp] theorem State.tick_lockWaits (s : State) : (s.tick).lockWaits = s.lockWaits := rfl
@[simp] theorem State.tick_pubs (s : State) : (s.tick).pubs = s.pubs := rfl
@[simp] theorem State.tick_faultPin (s : State) : (s.tick).faultPin = s.faultPin := rfl
@[simp] theorem State.tick_thermPin (s : State) : (s.tick).thermPin = s.thermPin := rfl
@[simp] theorem State.tick_baySafe (s : State) : (s.tick).baySafe = s.baySafe := rfl

@[simp] theorem State.bump_pending (s : State) (off n len ix : Nat) : (s.bump off n len ix).pending = s.pending := rfl
@[simp] theorem State.bump_out (s : State) (off n len ix : Nat) : (s.bump off n len ix).out = s.out := rfl
@[simp] theorem State.bump_free (s : State) (off n len ix : Nat) : (s.bump off n len ix).free = s.free := rfl
@[simp] theorem State.bump_regs (s : State) (off n len ix : Nat) : (s.bump off n len ix).regs = s.regs := rfl
@[simp] theorem State.bump_eff (s : State) (off n len ix : Nat) : (s.bump off n len ix).eff = s.eff := rfl
@[simp] theorem State.bump_merged (s : State) (off n len ix : Nat) : (s.bump off n len ix).merged = s.merged := rfl
@[simp] theorem State.bump_ft (s : State) (off n len ix : Nat) : (s.bump off n len ix).ft = s.ft := rfl
@[simp] theorem State.bump_ports (s : State) (off n len ix : Nat) : (s.bump off n len ix).ports = s.ports := rfl
@[simp] theorem State.bump_ctxs (s : State) (off n len ix : Nat) : (s.bump off n len ix).ctxs = s.ctxs := rfl
@[simp] theorem State.bump_owner (s : State) (off n len ix : Nat) : (s.bump off n len ix).owner = s.owner := rfl
@[simp] theorem State.bump_srcTab (s : State) (off n len ix : Nat) : (s.bump off n len ix).srcTab = s.srcTab := rfl
@[simp] theorem State.bump_srcStaged (s : State) (off n len ix : Nat) : (s.bump off n len ix).srcStaged = s.srcStaged := rfl
@[simp] theorem State.bump_srcDue (s : State) (off n len ix : Nat) : (s.bump off n len ix).srcDue = s.srcDue := rfl
@[simp] theorem State.bump_srcGen (s : State) (off n len ix : Nat) : (s.bump off n len ix).srcGen = s.srcGen := rfl
@[simp] theorem State.bump_sbCtx (s : State) (off n len ix : Nat) : (s.bump off n len ix).sbCtx = s.sbCtx := rfl
@[simp] theorem State.bump_eids (s : State) (off n len ix : Nat) : (s.bump off n len ix).eids = s.eids := rfl
@[simp] theorem State.bump_extents (s : State) (off n len ix : Nat) : (s.bump off n len ix).extents = s.extents := rfl
@[simp] theorem State.bump_objects (s : State) (off n len ix : Nat) : (s.bump off n len ix).objects = s.objects := rfl
@[simp] theorem State.bump_contents (s : State) (off n len ix : Nat) : (s.bump off n len ix).contents = s.contents := rfl
@[simp] theorem State.bump_nextContent (s : State) (off n len ix : Nat) : (s.bump off n len ix).nextContent = s.nextContent := rfl
@[simp] theorem State.bump_pages (s : State) (off n len ix : Nat) : (s.bump off n len ix).pages = s.pages := rfl
@[simp] theorem State.bump_frames (s : State) (off n len ix : Nat) : (s.bump off n len ix).frames = s.frames := rfl
@[simp] theorem State.bump_light (s : State) (off n len ix : Nat) : (s.bump off n len ix).light = s.light := rfl
@[simp] theorem State.bump_unitsUsed (s : State) (off n len ix : Nat) : (s.bump off n len ix).unitsUsed = s.unitsUsed := rfl
@[simp] theorem State.bump_recSeq (s : State) (off n len ix : Nat) : (s.bump off n len ix).recSeq = s.recSeq := rfl
@[simp] theorem State.bump_flashLow (s : State) (off n len ix : Nat) : (s.bump off n len ix).flashLow = s.flashLow := rfl
@[simp] theorem State.bump_pressed (s : State) (off n len ix : Nat) : (s.bump off n len ix).pressed = s.pressed := rfl
@[simp] theorem State.bump_pins (s : State) (off n len ix : Nat) : (s.bump off n len ix).pins = s.pins := rfl
@[simp] theorem State.bump_scheduled (s : State) (off n len ix : Nat) : (s.bump off n len ix).scheduled = s.scheduled := rfl
@[simp] theorem State.bump_moveSeq (s : State) (off n len ix : Nat) : (s.bump off n len ix).moveSeq = s.moveSeq := rfl
@[simp] theorem State.bump_views (s : State) (off n len ix : Nat) : (s.bump off n len ix).views = s.views := rfl
@[simp] theorem State.bump_nextView (s : State) (off n len ix : Nat) : (s.bump off n len ix).nextView = s.nextView := rfl
@[simp] theorem State.bump_windows (s : State) (off n len ix : Nat) : (s.bump off n len ix).windows = s.windows := rfl
@[simp] theorem State.bump_nextWindow (s : State) (off n len ix : Nat) : (s.bump off n len ix).nextWindow = s.nextWindow := rfl
@[simp] theorem State.bump_directory (s : State) (off n len ix : Nat) : (s.bump off n len ix).directory = s.directory := rfl
@[simp] theorem State.bump_dirSeq (s : State) (off n len ix : Nat) : (s.bump off n len ix).dirSeq = s.dirSeq := rfl
@[simp] theorem State.bump_eager (s : State) (off n len ix : Nat) : (s.bump off n len ix).eager = s.eager := rfl
@[simp] theorem State.bump_windowDirty (s : State) (off n len ix : Nat) : (s.bump off n len ix).windowDirty = s.windowDirty := rfl
@[simp] theorem State.bump_waits (s : State) (off n len ix : Nat) : (s.bump off n len ix).waits = s.waits := rfl
@[simp] theorem State.bump_orders (s : State) (off n len ix : Nat) : (s.bump off n len ix).orders = s.orders := rfl
@[simp] theorem State.bump_dram (s : State) (off n len ix : Nat) : (s.bump off n len ix).dram = s.dram := rfl
@[simp] theorem State.bump_poison (s : State) (off n len ix : Nat) : (s.bump off n len ix).poison = s.poison := rfl
@[simp] theorem State.bump_hint (s : State) (off n len ix : Nat) : (s.bump off n len ix).hint = s.hint := rfl
@[simp] theorem State.bump_badCode (s : State) (off n len ix : Nat) : (s.bump off n len ix).badCode = s.badCode := rfl
@[simp] theorem State.bump_seals (s : State) (off n len ix : Nat) : (s.bump off n len ix).seals = s.seals := rfl
@[simp] theorem State.bump_cellErr (s : State) (off n len ix : Nat) : (s.bump off n len ix).cellErr = s.cellErr := rfl
@[simp] theorem State.bump_steer (s : State) (off n len ix : Nat) : (s.bump off n len ix).steer = s.steer := rfl
@[simp] theorem State.bump_chans (s : State) (off n len ix : Nat) : (s.bump off n len ix).chans = s.chans := rfl
@[simp] theorem State.bump_stackSt (s : State) (off n len ix : Nat) : (s.bump off n len ix).stackSt = s.stackSt := rfl
@[simp] theorem State.bump_lastErr (s : State) (off n len ix : Nat) : (s.bump off n len ix).lastErr = s.lastErr := rfl
@[simp] theorem State.bump_patterns (s : State) (off n len ix : Nat) : (s.bump off n len ix).patterns = s.patterns := rfl
@[simp] theorem State.bump_nextPattern (s : State) (off n len ix : Nat) : (s.bump off n len ix).nextPattern = s.nextPattern := rfl
@[simp] theorem State.bump_bindings (s : State) (off n len ix : Nat) : (s.bump off n len ix).bindings = s.bindings := rfl
@[simp] theorem State.bump_nextBinding (s : State) (off n len ix : Nat) : (s.bump off n len ix).nextBinding = s.nextBinding := rfl
@[simp] theorem State.bump_cues (s : State) (off n len ix : Nat) : (s.bump off n len ix).cues = s.cues := rfl
@[simp] theorem State.bump_nextCue (s : State) (off n len ix : Nat) : (s.bump off n len ix).nextCue = s.nextCue := rfl
@[simp] theorem State.bump_epoch (s : State) (off n len ix : Nat) : (s.bump off n len ix).epoch = s.epoch := rfl
@[simp] theorem State.bump_cores (s : State) (off n len ix : Nat) : (s.bump off n len ix).cores = s.cores := rfl
@[simp] theorem State.bump_msgs (s : State) (off n len ix : Nat) : (s.bump off n len ix).msgs = s.msgs := rfl
@[simp] theorem State.bump_nextMsg (s : State) (off n len ix : Nat) : (s.bump off n len ix).nextMsg = s.nextMsg := rfl
@[simp] theorem State.bump_reds (s : State) (off n len ix : Nat) : (s.bump off n len ix).reds = s.reds := rfl
@[simp] theorem State.bump_redDone (s : State) (off n len ix : Nat) : (s.bump off n len ix).redDone = s.redDone := rfl
@[simp] theorem State.bump_stale (s : State) (off n len ix : Nat) : (s.bump off n len ix).stale = s.stale := rfl
@[simp] theorem State.bump_chanCodec (s : State) (off n len ix : Nat) : (s.bump off n len ix).chanCodec = s.chanCodec := rfl
@[simp] theorem State.bump_nextChan (s : State) (off n len ix : Nat) : (s.bump off n len ix).nextChan = s.nextChan := rfl
@[simp] theorem State.bump_upstream (s : State) (off n len ix : Nat) : (s.bump off n len ix).upstream = s.upstream := rfl
@[simp] theorem State.bump_nmWaits (s : State) (off n len ix : Nat) : (s.bump off n len ix).nmWaits = s.nmWaits := rfl
@[simp] theorem State.bump_bays (s : State) (off n len ix : Nat) : (s.bump off n len ix).bays = s.bays := rfl
@[simp] theorem State.bump_walk (s : State) (off n len ix : Nat) : (s.bump off n len ix).walk = s.walk := rfl
@[simp] theorem State.bump_vacated (s : State) (off n len ix : Nat) : (s.bump off n len ix).vacated = s.vacated := rfl
@[simp] theorem State.bump_stripes (s : State) (off n len ix : Nat) : (s.bump off n len ix).stripes = s.stripes := rfl
@[simp] theorem State.bump_nextStripe (s : State) (off n len ix : Nat) : (s.bump off n len ix).nextStripe = s.nextStripe := rfl
@[simp] theorem State.bump_broken (s : State) (off n len ix : Nat) : (s.bump off n len ix).broken = s.broken := rfl
@[simp] theorem State.bump_linkArbs (s : State) (off n len ix : Nat) : (s.bump off n len ix).linkArbs = s.linkArbs := rfl
@[simp] theorem State.bump_ledger (s : State) (off n len ix : Nat) : (s.bump off n len ix).ledger = s.ledger := rfl
@[simp] theorem State.bump_ledgerNext (s : State) (off n len ix : Nat) : (s.bump off n len ix).ledgerNext = s.ledgerNext := rfl
@[simp] theorem State.bump_shrunk (s : State) (off n len ix : Nat) : (s.bump off n len ix).shrunk = s.shrunk := rfl
@[simp] theorem State.bump_shrunkAt (s : State) (off n len ix : Nat) : (s.bump off n len ix).shrunkAt = s.shrunkAt := rfl
@[simp] theorem State.bump_recompute (s : State) (off n len ix : Nat) : (s.bump off n len ix).recompute = s.recompute := rfl
@[simp] theorem State.bump_keys (s : State) (off n len ix : Nat) : (s.bump off n len ix).keys = s.keys := rfl
@[simp] theorem State.bump_keks (s : State) (off n len ix : Nat) : (s.bump off n len ix).keks = s.keks := rfl
@[simp] theorem State.bump_ide (s : State) (off n len ix : Nat) : (s.bump off n len ix).ide = s.ide := rfl
@[simp] theorem State.bump_fwStore (s : State) (off n len ix : Nat) : (s.bump off n len ix).fwStore = s.fwStore := rfl
@[simp] theorem State.bump_fwBad (s : State) (off n len ix : Nat) : (s.bump off n len ix).fwBad = s.fwBad := rfl
@[simp] theorem State.bump_fwRun (s : State) (off n len ix : Nat) : (s.bump off n len ix).fwRun = s.fwRun := rfl
@[simp] theorem State.bump_fwXfer (s : State) (off n len ix : Nat) : (s.bump off n len ix).fwXfer = s.fwXfer := rfl
@[simp] theorem State.bump_fwWrite (s : State) (off n len ix : Nat) : (s.bump off n len ix).fwWrite = s.fwWrite := rfl
@[simp] theorem State.bump_svnFloor (s : State) (off n len ix : Nat) : (s.bump off n len ix).svnFloor = s.svnFloor := rfl
@[simp] theorem State.bump_revoked (s : State) (off n len ix : Nat) : (s.bump off n len ix).revoked = s.revoked := rfl
@[simp] theorem State.bump_spdm (s : State) (off n len ix : Nat) : (s.bump off n len ix).spdm = s.spdm := rfl
@[simp] theorem State.bump_signQueue (s : State) (off n len ix : Nat) : (s.bump off n len ix).signQueue = s.signQueue := rfl
@[simp] theorem State.bump_aliasReady (s : State) (off n len ix : Nat) : (s.bump off n len ix).aliasReady = s.aliasReady := rfl
@[simp] theorem State.bump_pw (s : State) (off n len ix : Nat) : (s.bump off n len ix).pw = s.pw := rfl
@[simp] theorem State.bump_rv (s : State) (off n len ix : Nat) : (s.bump off n len ix).rv = s.rv := rfl
@[simp] theorem State.bump_lockWaits (s : State) (off n len ix : Nat) : (s.bump off n len ix).lockWaits = s.lockWaits := rfl
@[simp] theorem State.bump_pubs (s : State) (off n len ix : Nat) : (s.bump off n len ix).pubs = s.pubs := rfl
@[simp] theorem State.bump_faultPin (s : State) (off n len ix : Nat) : (s.bump off n len ix).faultPin = s.faultPin := rfl
@[simp] theorem State.bump_thermPin (s : State) (off n len ix : Nat) : (s.bump off n len ix).thermPin = s.thermPin := rfl
@[simp] theorem State.bump_baySafe (s : State) (off n len ix : Nat) : (s.bump off n len ix).baySafe = s.baySafe := rfl

@[simp] theorem State.modFt_ft (s : State) (f : FtState → FtState) : (s.modFt f).ft = f s.ft := rfl
@[simp] theorem State.modPw_pw (s : State) (f : PwState → PwState) : (s.modPw f).pw = f s.pw := rfl
@[simp] theorem State.modRv_rv (s : State) (f : RvState → RvState) : (s.modRv f).rv = f s.rv := rfl
@[simp] theorem State.emit_out (s : State) (o : Output) : (s.emit o).out = s.out ++ [o] := rfl
@[simp] theorem State.tick_free (s : State) : s.tick.free = s.free + 1 := rfl
@[simp] theorem State.ctx_modPort (s : State) (p : Port) (f : PortState → PortState) (d : Ctx) : (s.modPort p f).ctx d = s.ctx d := rfl
@[simp] theorem State.core_modPort (s : State) (p : Port) (f : PortState → PortState) (j : Nat) : (s.modPort p f).core j = s.core j := rfl
@[simp] theorem State.bay_modPort (s : State) (p : Port) (f : PortState → PortState) (d : Nat) : (s.modPort p f).bay d = s.bay d := rfl
@[simp] theorem State.reg_modPort (s : State) (p : Port) (f : PortState → PortState) (off0 ix0 : Nat) : (s.modPort p f).reg off0 ix0 = s.reg off0 ix0 := rfl
@[simp] theorem State.port_modCtx (s : State) (c : Ctx) (f : CtxState → CtxState) (q : Port) : (s.modCtx c f).port q = s.port q := rfl
@[simp] theorem State.core_modCtx (s : State) (c : Ctx) (f : CtxState → CtxState) (j : Nat) : (s.modCtx c f).core j = s.core j := rfl
@[simp] theorem State.bay_modCtx (s : State) (c : Ctx) (f : CtxState → CtxState) (d : Nat) : (s.modCtx c f).bay d = s.bay d := rfl
@[simp] theorem State.reg_modCtx (s : State) (c : Ctx) (f : CtxState → CtxState) (off0 ix0 : Nat) : (s.modCtx c f).reg off0 ix0 = s.reg off0 ix0 := rfl
@[simp] theorem State.port_modCore (s : State) (k : Nat) (f : CoreState → CoreState) (q : Port) : (s.modCore k f).port q = s.port q := rfl
@[simp] theorem State.ctx_modCore (s : State) (k : Nat) (f : CoreState → CoreState) (d : Ctx) : (s.modCore k f).ctx d = s.ctx d := rfl
@[simp] theorem State.bay_modCore (s : State) (k : Nat) (f : CoreState → CoreState) (d : Nat) : (s.modCore k f).bay d = s.bay d := rfl
@[simp] theorem State.reg_modCore (s : State) (k : Nat) (f : CoreState → CoreState) (off0 ix0 : Nat) : (s.modCore k f).reg off0 ix0 = s.reg off0 ix0 := rfl
@[simp] theorem State.port_modBay (s : State) (b : Nat) (f : BayState → BayState) (q : Port) : (s.modBay b f).port q = s.port q := rfl
@[simp] theorem State.ctx_modBay (s : State) (b : Nat) (f : BayState → BayState) (d : Ctx) : (s.modBay b f).ctx d = s.ctx d := rfl
@[simp] theorem State.core_modBay (s : State) (b : Nat) (f : BayState → BayState) (j : Nat) : (s.modBay b f).core j = s.core j := rfl
@[simp] theorem State.reg_modBay (s : State) (b : Nat) (f : BayState → BayState) (off0 ix0 : Nat) : (s.modBay b f).reg off0 ix0 = s.reg off0 ix0 := rfl
@[simp] theorem State.port_modFt (s : State) (f : FtState → FtState) (q : Port) : (s.modFt f).port q = s.port q := rfl
@[simp] theorem State.ctx_modFt (s : State) (f : FtState → FtState) (d : Ctx) : (s.modFt f).ctx d = s.ctx d := rfl
@[simp] theorem State.core_modFt (s : State) (f : FtState → FtState) (j : Nat) : (s.modFt f).core j = s.core j := rfl
@[simp] theorem State.bay_modFt (s : State) (f : FtState → FtState) (d : Nat) : (s.modFt f).bay d = s.bay d := rfl
@[simp] theorem State.reg_modFt (s : State) (f : FtState → FtState) (off0 ix0 : Nat) : (s.modFt f).reg off0 ix0 = s.reg off0 ix0 := rfl
@[simp] theorem State.port_modPw (s : State) (f : PwState → PwState) (q : Port) : (s.modPw f).port q = s.port q := rfl
@[simp] theorem State.ctx_modPw (s : State) (f : PwState → PwState) (d : Ctx) : (s.modPw f).ctx d = s.ctx d := rfl
@[simp] theorem State.core_modPw (s : State) (f : PwState → PwState) (j : Nat) : (s.modPw f).core j = s.core j := rfl
@[simp] theorem State.bay_modPw (s : State) (f : PwState → PwState) (d : Nat) : (s.modPw f).bay d = s.bay d := rfl
@[simp] theorem State.reg_modPw (s : State) (f : PwState → PwState) (off0 ix0 : Nat) : (s.modPw f).reg off0 ix0 = s.reg off0 ix0 := rfl
@[simp] theorem State.port_modRv (s : State) (f : RvState → RvState) (q : Port) : (s.modRv f).port q = s.port q := rfl
@[simp] theorem State.ctx_modRv (s : State) (f : RvState → RvState) (d : Ctx) : (s.modRv f).ctx d = s.ctx d := rfl
@[simp] theorem State.core_modRv (s : State) (f : RvState → RvState) (j : Nat) : (s.modRv f).core j = s.core j := rfl
@[simp] theorem State.bay_modRv (s : State) (f : RvState → RvState) (d : Nat) : (s.modRv f).bay d = s.bay d := rfl
@[simp] theorem State.reg_modRv (s : State) (f : RvState → RvState) (off0 ix0 : Nat) : (s.modRv f).reg off0 ix0 = s.reg off0 ix0 := rfl
@[simp] theorem State.port_emit (s : State) (o : Output) (q : Port) : (s.emit o).port q = s.port q := rfl
@[simp] theorem State.ctx_emit (s : State) (o : Output) (d : Ctx) : (s.emit o).ctx d = s.ctx d := rfl
@[simp] theorem State.core_emit (s : State) (o : Output) (j : Nat) : (s.emit o).core j = s.core j := rfl
@[simp] theorem State.bay_emit (s : State) (o : Output) (d : Nat) : (s.emit o).bay d = s.bay d := rfl
@[simp] theorem State.reg_emit (s : State) (o : Output) (off0 ix0 : Nat) : (s.emit o).reg off0 ix0 = s.reg off0 ix0 := rfl
@[simp] theorem State.port_tick (s : State)  (q : Port) : (s.tick).port q = s.port q := rfl
@[simp] theorem State.ctx_tick (s : State)  (d : Ctx) : (s.tick).ctx d = s.ctx d := rfl
@[simp] theorem State.core_tick (s : State)  (j : Nat) : (s.tick).core j = s.core j := rfl
@[simp] theorem State.bay_tick (s : State)  (d : Nat) : (s.tick).bay d = s.bay d := rfl
@[simp] theorem State.reg_tick (s : State)  (off0 ix0 : Nat) : (s.tick).reg off0 ix0 = s.reg off0 ix0 := rfl
@[simp] theorem State.port_bump (s : State) (off n len ix : Nat) (q : Port) : (s.bump off n len ix).port q = s.port q := rfl
@[simp] theorem State.ctx_bump (s : State) (off n len ix : Nat) (d : Ctx) : (s.bump off n len ix).ctx d = s.ctx d := rfl
@[simp] theorem State.core_bump (s : State) (off n len ix : Nat) (j : Nat) : (s.bump off n len ix).core j = s.core j := rfl
@[simp] theorem State.bay_bump (s : State) (off n len ix : Nat) (d : Nat) : (s.bump off n len ix).bay d = s.bay d := rfl
@[simp] theorem State.reg_bump (s : State) (off n len ix : Nat) (off0 ix0 : Nat) : (s.bump off n len ix).reg off0 ix0 = s.reg off0 ix0 := rfl

@[simp] theorem State.chan_modChan_self (s : State) (st ch : Nat) (f : ChanState → ChanState) :
    (s.modChan st ch f).chan st ch = f (s.chan st ch) := by
  simp [State.modChan, State.chan, mmod]

@[simp] theorem State.stackOf_modStack_self (s : State) (t : Nat) (f : StackState → StackState) :
    (s.modStack t f).stackOf t = f (s.stackOf t) := by
  simp [State.modStack, State.stackOf, mmod]

end Sys2Proof.Machine
end

