-- ==== Sys2Proof/Laws/Cores.lean ====
section
/-! SUPPORT. What changing a core of a run does to the cores, and what it leaves. -/

namespace Sys2Proof.Machine

theorem mget?_map {α : Type} (g : α → α) (m : AMap α) (a : Nat) :
    mget? (m.map (fun x => (x.1, g x.2))) a = (mget? m a).map g := by
  induction m with
  | nil => rfl
  | cons x m ih =>
    obtain ⟨k, v⟩ := x
    simp only [List.map_cons, mget?]
    split
    · rfl
    · split
      · rfl
      · exact ih

theorem mget_map {α : Type} (g : α → α) (e : α) (h : g e = e) (m : AMap α) (a : Nat) :
    mget e (m.map (fun x => (x.1, g x.2))) a = g (mget e m a) := by
  rw [mget, mget, mget?_map]
  cases mget? m a with
  | none => exact h.symm
  | some x => rfl

theorem shareUndef_default (r : Option Nat) : shareUndef r {} = {} := by
  unfold shareUndef
  split
  · rename_i h
    cases r <;> simp at h
  · rfl

theorem shareUndef_self (r : Option Nat) (c : CoreState) (h : c.undef = true) : shareUndef r c = c := by
  unfold shareUndef
  split
  · rw [← h]
  · rfl

theorem mget_runCores (m : AMap CoreState) (k j : Nat) (f : CoreState → CoreState) :
    mget {} (runCores m k f) j = if j = k then f (mget {} m k)
      else if (f (mget {} m k)).undef && !(mget {} m k).undef then shareUndef (f (mget {} m k)).run (mget {} m j)
      else mget {} m j := by
  simp only [runCores]
  split
  · rename_i h
    rw [mget_map _ _ (shareUndef_default _), mget_mput]
    split
    · exact shareUndef_self _ _ (by simp only [Bool.and_eq_true] at h; exact h.1)
    · rfl
  · rw [mget_mput]

/-- Every core after a change of core `k`: `k` as changed, and the other cores of its run undefined with it if it has
just turned out to break a rule that the loader cannot check. -/
theorem State.core_runCore (s : State) (k j : Nat) (f : CoreState → CoreState) :
    (s.runCore k f).core j = if j = k then f (s.core k)
      else if (f (s.core k)).undef && !(s.core k).undef then shareUndef (f (s.core k)).run (s.core j) else s.core j :=
  mget_runCores s.cores k j f

@[simp] theorem State.runCore_pending (s : State) (k : Nat) (f : CoreState → CoreState) : (s.runCore k f).pending = s.pending := rfl
@[simp] theorem State.runCore_out (s : State) (k : Nat) (f : CoreState → CoreState) : (s.runCore k f).out = s.out := rfl
@[simp] theorem State.runCore_free (s : State) (k : Nat) (f : CoreState → CoreState) : (s.runCore k f).free = s.free := rfl
@[simp] theorem State.runCore_regs (s : State) (k : Nat) (f : CoreState → CoreState) : (s.runCore k f).regs = s.regs := rfl
@[simp] theorem State.runCore_eff (s : State) (k : Nat) (f : CoreState → CoreState) : (s.runCore k f).eff = s.eff := rfl
@[simp] theorem State.runCore_counts (s : State) (k : Nat) (f : CoreState → CoreState) : (s.runCore k f).counts = s.counts := rfl
@[simp] theorem State.runCore_merged (s : State) (k : Nat) (f : CoreState → CoreState) : (s.runCore k f).merged = s.merged := rfl
@[simp] theorem State.runCore_ft (s : State) (k : Nat) (f : CoreState → CoreState) : (s.runCore k f).ft = s.ft := rfl
@[simp] theorem State.runCore_ports (s : State) (k : Nat) (f : CoreState → CoreState) : (s.runCore k f).ports = s.ports := rfl
@[simp] theorem State.runCore_ctxs (s : State) (k : Nat) (f : CoreState → CoreState) : (s.runCore k f).ctxs = s.ctxs := rfl
@[simp] theorem State.runCore_owner (s : State) (k : Nat) (f : CoreState → CoreState) : (s.runCore k f).owner = s.owner := rfl
@[simp] theorem State.runCore_srcTab (s : State) (k : Nat) (f : CoreState → CoreState) : (s.runCore k f).srcTab = s.srcTab := rfl
@[simp] theorem State.runCore_srcStaged (s : State) (k : Nat) (f : CoreState → CoreState) : (s.runCore k f).srcStaged = s.srcStaged := rfl
@[simp] theorem State.runCore_srcDue (s : State) (k : Nat) (f : CoreState → CoreState) : (s.runCore k f).srcDue = s.srcDue := rfl
@[simp] theorem State.runCore_srcGen (s : State) (k : Nat) (f : CoreState → CoreState) : (s.runCore k f).srcGen = s.srcGen := rfl
@[simp] theorem State.runCore_sbCtx (s : State) (k : Nat) (f : CoreState → CoreState) : (s.runCore k f).sbCtx = s.sbCtx := rfl
@[simp] theorem State.runCore_eids (s : State) (k : Nat) (f : CoreState → CoreState) : (s.runCore k f).eids = s.eids := rfl
@[simp] theorem State.runCore_extents (s : State) (k : Nat) (f : CoreState → CoreState) : (s.runCore k f).extents = s.extents := rfl
@[simp] theorem State.runCore_objects (s : State) (k : Nat) (f : CoreState → CoreState) : (s.runCore k f).objects = s.objects := rfl
@[simp] theorem State.runCore_contents (s : State) (k : Nat) (f : CoreState → CoreState) : (s.runCore k f).contents = s.contents := rfl
@[simp] theorem State.runCore_nextContent (s : State) (k : Nat) (f : CoreState → CoreState) : (s.runCore k f).nextContent = s.nextContent := rfl
@[simp] theorem State.runCore_pages (s : State) (k : Nat) (f : CoreState → CoreState) : (s.runCore k f).pages = s.pages := rfl
@[simp] theorem State.runCore_frames (s : State) (k : Nat) (f : CoreState → CoreState) : (s.runCore k f).frames = s.frames := rfl
@[simp] theorem State.runCore_light (s : State) (k : Nat) (f : CoreState → CoreState) : (s.runCore k f).light = s.light := rfl
@[simp] theorem State.runCore_unitsUsed (s : State) (k : Nat) (f : CoreState → CoreState) : (s.runCore k f).unitsUsed = s.unitsUsed := rfl
@[simp] theorem State.runCore_recSeq (s : State) (k : Nat) (f : CoreState → CoreState) : (s.runCore k f).recSeq = s.recSeq := rfl
@[simp] theorem State.runCore_flashLow (s : State) (k : Nat) (f : CoreState → CoreState) : (s.runCore k f).flashLow = s.flashLow := rfl
@[simp] theorem State.runCore_pins (s : State) (k : Nat) (f : CoreState → CoreState) : (s.runCore k f).pins = s.pins := rfl
@[simp] theorem State.runCore_scheduled (s : State) (k : Nat) (f : CoreState → CoreState) : (s.runCore k f).scheduled = s.scheduled := rfl
@[simp] theorem State.runCore_moveSeq (s : State) (k : Nat) (f : CoreState → CoreState) : (s.runCore k f).moveSeq = s.moveSeq := rfl
@[simp] theorem State.runCore_views (s : State) (k : Nat) (f : CoreState → CoreState) : (s.runCore k f).views = s.views := rfl
@[simp] theorem State.runCore_nextView (s : State) (k : Nat) (f : CoreState → CoreState) : (s.runCore k f).nextView = s.nextView := rfl
@[simp] theorem State.runCore_windows (s : State) (k : Nat) (f : CoreState → CoreState) : (s.runCore k f).windows = s.windows := rfl
@[simp] theorem State.runCore_nextWindow (s : State) (k : Nat) (f : CoreState → CoreState) : (s.runCore k f).nextWindow = s.nextWindow := rfl
@[simp] theorem State.runCore_directory (s : State) (k : Nat) (f : CoreState → CoreState) : (s.runCore k f).directory = s.directory := rfl
@[simp] theorem State.runCore_dirSeq (s : State) (k : Nat) (f : CoreState → CoreState) : (s.runCore k f).dirSeq = s.dirSeq := rfl
@[simp] theorem State.runCore_waits (s : State) (k : Nat) (f : CoreState → CoreState) : (s.runCore k f).waits = s.waits := rfl
@[simp] theorem State.runCore_orders (s : State) (k : Nat) (f : CoreState → CoreState) : (s.runCore k f).orders = s.orders := rfl
@[simp] theorem State.runCore_dram (s : State) (k : Nat) (f : CoreState → CoreState) : (s.runCore k f).dram = s.dram := rfl
@[simp] theorem State.runCore_poison (s : State) (k : Nat) (f : CoreState → CoreState) : (s.runCore k f).poison = s.poison := rfl
@[simp] theorem State.runCore_hint (s : State) (k : Nat) (f : CoreState → CoreState) : (s.runCore k f).hint = s.hint := rfl
@[simp] theorem State.runCore_badCode (s : State) (k : Nat) (f : CoreState → CoreState) : (s.runCore k f).badCode = s.badCode := rfl
@[simp] theorem State.runCore_seals (s : State) (k : Nat) (f : CoreState → CoreState) : (s.runCore k f).seals = s.seals := rfl
@[simp] theorem State.runCore_cellErr (s : State) (k : Nat) (f : CoreState → CoreState) : (s.runCore k f).cellErr = s.cellErr := rfl
@[simp] theorem State.runCore_chans (s : State) (k : Nat) (f : CoreState → CoreState) : (s.runCore k f).chans = s.chans := rfl
@[simp] theorem State.runCore_stackSt (s : State) (k : Nat) (f : CoreState → CoreState) : (s.runCore k f).stackSt = s.stackSt := rfl
@[simp] theorem State.runCore_lastErr (s : State) (k : Nat) (f : CoreState → CoreState) : (s.runCore k f).lastErr = s.lastErr := rfl
@[simp] theorem State.runCore_patterns (s : State) (k : Nat) (f : CoreState → CoreState) : (s.runCore k f).patterns = s.patterns := rfl
@[simp] theorem State.runCore_nextPattern (s : State) (k : Nat) (f : CoreState → CoreState) : (s.runCore k f).nextPattern = s.nextPattern := rfl
@[simp] theorem State.runCore_bindings (s : State) (k : Nat) (f : CoreState → CoreState) : (s.runCore k f).bindings = s.bindings := rfl
@[simp] theorem State.runCore_nextBinding (s : State) (k : Nat) (f : CoreState → CoreState) : (s.runCore k f).nextBinding = s.nextBinding := rfl
@[simp] theorem State.runCore_cues (s : State) (k : Nat) (f : CoreState → CoreState) : (s.runCore k f).cues = s.cues := rfl
@[simp] theorem State.runCore_nextCue (s : State) (k : Nat) (f : CoreState → CoreState) : (s.runCore k f).nextCue = s.nextCue := rfl
@[simp] theorem State.runCore_epoch (s : State) (k : Nat) (f : CoreState → CoreState) : (s.runCore k f).epoch = s.epoch := rfl
@[simp] theorem State.runCore_msgs (s : State) (k : Nat) (f : CoreState → CoreState) : (s.runCore k f).msgs = s.msgs := rfl
@[simp] theorem State.runCore_nextMsg (s : State) (k : Nat) (f : CoreState → CoreState) : (s.runCore k f).nextMsg = s.nextMsg := rfl
@[simp] theorem State.runCore_reds (s : State) (k : Nat) (f : CoreState → CoreState) : (s.runCore k f).reds = s.reds := rfl
@[simp] theorem State.runCore_redDone (s : State) (k : Nat) (f : CoreState → CoreState) : (s.runCore k f).redDone = s.redDone := rfl
@[simp] theorem State.runCore_stale (s : State) (k : Nat) (f : CoreState → CoreState) : (s.runCore k f).stale = s.stale := rfl
@[simp] theorem State.runCore_chanCodec (s : State) (k : Nat) (f : CoreState → CoreState) : (s.runCore k f).chanCodec = s.chanCodec := rfl
@[simp] theorem State.runCore_nextChan (s : State) (k : Nat) (f : CoreState → CoreState) : (s.runCore k f).nextChan = s.nextChan := rfl
@[simp] theorem State.runCore_upstream (s : State) (k : Nat) (f : CoreState → CoreState) : (s.runCore k f).upstream = s.upstream := rfl
@[simp] theorem State.runCore_nmWaits (s : State) (k : Nat) (f : CoreState → CoreState) : (s.runCore k f).nmWaits = s.nmWaits := rfl
@[simp] theorem State.runCore_bays (s : State) (k : Nat) (f : CoreState → CoreState) : (s.runCore k f).bays = s.bays := rfl
@[simp] theorem State.runCore_walk (s : State) (k : Nat) (f : CoreState → CoreState) : (s.runCore k f).walk = s.walk := rfl
@[simp] theorem State.runCore_vacated (s : State) (k : Nat) (f : CoreState → CoreState) : (s.runCore k f).vacated = s.vacated := rfl
@[simp] theorem State.runCore_stripes (s : State) (k : Nat) (f : CoreState → CoreState) : (s.runCore k f).stripes = s.stripes := rfl
@[simp] theorem State.runCore_nextStripe (s : State) (k : Nat) (f : CoreState → CoreState) : (s.runCore k f).nextStripe = s.nextStripe := rfl
@[simp] theorem State.runCore_broken (s : State) (k : Nat) (f : CoreState → CoreState) : (s.runCore k f).broken = s.broken := rfl
@[simp] theorem State.runCore_linkArbs (s : State) (k : Nat) (f : CoreState → CoreState) : (s.runCore k f).linkArbs = s.linkArbs := rfl
@[simp] theorem State.runCore_ledger (s : State) (k : Nat) (f : CoreState → CoreState) : (s.runCore k f).ledger = s.ledger := rfl
@[simp] theorem State.runCore_ledgerNext (s : State) (k : Nat) (f : CoreState → CoreState) : (s.runCore k f).ledgerNext = s.ledgerNext := rfl
@[simp] theorem State.runCore_shrunk (s : State) (k : Nat) (f : CoreState → CoreState) : (s.runCore k f).shrunk = s.shrunk := rfl
@[simp] theorem State.runCore_shrunkAt (s : State) (k : Nat) (f : CoreState → CoreState) : (s.runCore k f).shrunkAt = s.shrunkAt := rfl
@[simp] theorem State.runCore_recompute (s : State) (k : Nat) (f : CoreState → CoreState) : (s.runCore k f).recompute = s.recompute := rfl
@[simp] theorem State.runCore_keys (s : State) (k : Nat) (f : CoreState → CoreState) : (s.runCore k f).keys = s.keys := rfl
@[simp] theorem State.runCore_keks (s : State) (k : Nat) (f : CoreState → CoreState) : (s.runCore k f).keks = s.keks := rfl
@[simp] theorem State.runCore_ide (s : State) (k : Nat) (f : CoreState → CoreState) : (s.runCore k f).ide = s.ide := rfl
@[simp] theorem State.runCore_fwStore (s : State) (k : Nat) (f : CoreState → CoreState) : (s.runCore k f).fwStore = s.fwStore := rfl
@[simp] theorem State.runCore_fwBad (s : State) (k : Nat) (f : CoreState → CoreState) : (s.runCore k f).fwBad = s.fwBad := rfl
@[simp] theorem State.runCore_fwRun (s : State) (k : Nat) (f : CoreState → CoreState) : (s.runCore k f).fwRun = s.fwRun := rfl
@[simp] theorem State.runCore_fwXfer (s : State) (k : Nat) (f : CoreState → CoreState) : (s.runCore k f).fwXfer = s.fwXfer := rfl
@[simp] theorem State.runCore_fwWrite (s : State) (k : Nat) (f : CoreState → CoreState) : (s.runCore k f).fwWrite = s.fwWrite := rfl
@[simp] theorem State.runCore_svnFloor (s : State) (k : Nat) (f : CoreState → CoreState) : (s.runCore k f).svnFloor = s.svnFloor := rfl
@[simp] theorem State.runCore_revoked (s : State) (k : Nat) (f : CoreState → CoreState) : (s.runCore k f).revoked = s.revoked := rfl
@[simp] theorem State.runCore_spdm (s : State) (k : Nat) (f : CoreState → CoreState) : (s.runCore k f).spdm = s.spdm := rfl
@[simp] theorem State.runCore_signQueue (s : State) (k : Nat) (f : CoreState → CoreState) : (s.runCore k f).signQueue = s.signQueue := rfl
@[simp] theorem State.runCore_aliasReady (s : State) (k : Nat) (f : CoreState → CoreState) : (s.runCore k f).aliasReady = s.aliasReady := rfl
@[simp] theorem State.runCore_pw (s : State) (k : Nat) (f : CoreState → CoreState) : (s.runCore k f).pw = s.pw := rfl
@[simp] theorem State.runCore_rv (s : State) (k : Nat) (f : CoreState → CoreState) : (s.runCore k f).rv = s.rv := rfl
@[simp] theorem State.runCore_lockWaits (s : State) (k : Nat) (f : CoreState → CoreState) : (s.runCore k f).lockWaits = s.lockWaits := rfl
@[simp] theorem State.runCore_pubs (s : State) (k : Nat) (f : CoreState → CoreState) : (s.runCore k f).pubs = s.pubs := rfl
@[simp] theorem State.runCore_faultPin (s : State) (k : Nat) (f : CoreState → CoreState) : (s.runCore k f).faultPin = s.faultPin := rfl
@[simp] theorem State.runCore_thermPin (s : State) (k : Nat) (f : CoreState → CoreState) : (s.runCore k f).thermPin = s.thermPin := rfl
@[simp] theorem State.runCore_baySafe (s : State) (k : Nat) (f : CoreState → CoreState) : (s.runCore k f).baySafe = s.baySafe := rfl
@[simp] theorem State.runCore_eager (s : State) (k : Nat) (f : CoreState → CoreState) : (s.runCore k f).eager = s.eager := rfl
@[simp] theorem State.runCore_pressed (s : State) (k : Nat) (f : CoreState → CoreState) : (s.runCore k f).pressed = s.pressed := rfl
@[simp] theorem State.runCore_steer (s : State) (k : Nat) (f : CoreState → CoreState) : (s.runCore k f).steer = s.steer := rfl
@[simp] theorem State.runCore_windowDirty (s : State) (k : Nat) (f : CoreState → CoreState) : (s.runCore k f).windowDirty = s.windowDirty := rfl
@[simp] theorem State.port_runCore (s : State) (k : Nat) (f : CoreState → CoreState) (q : Port) : (s.runCore k f).port q = s.port q := rfl
@[simp] theorem State.ctx_runCore (s : State) (k : Nat) (f : CoreState → CoreState) (d : Ctx) : (s.runCore k f).ctx d = s.ctx d := rfl
@[simp] theorem State.bay_runCore (s : State) (k : Nat) (f : CoreState → CoreState) (d : Nat) : (s.runCore k f).bay d = s.bay d := rfl
@[simp] theorem State.reg_runCore (s : State) (k : Nat) (f : CoreState → CoreState) (off0 ix0 : Nat) : (s.runCore k f).reg off0 ix0 = s.reg off0 ix0 := rfl

end Sys2Proof.Machine
end

