-- ==== Sys2Proof/Laws/Events.lean ====
section
/-! SUPPORT. What reporting an event leaves as it was. -/

set_option linter.unusedTactic false
set_option linter.unreachableTactic false

namespace Sys2Proof.Machine

theorem Reported.refl (s : State) : Reported s s := rfl

theorem Reported.trans {s t u : State} (h : Reported s t) (k : Reported t u) : Reported s u := by
  unfold Reported at *
  rw [k]
  rw [h]

theorem Reported.foldl {α : Type} {s0 : State} (f : State → α → State) (h : ∀ s a, Reported s0 s → Reported s0 (f s a)) (l : List α) :
    ∀ s, Reported s0 s → Reported s0 (l.foldl f s) := by
  induction l with
  | nil => exact fun s k => k
  | cons a l ih => exact fun s k => ih _ (h s a k)

theorem Reported.ite {s0 s t : State} {c : Prop} [Decidable c] (h : Reported s0 s) (k : Reported s0 t) : Reported s0 (if c then s else t) := by
  split <;> assumption

theorem emit_reported {s0 s : State} (h : Reported s0 s) (o : Output) : Reported s0 (s.emit o) := h.trans rfl

theorem modPort_reported {s0 s : State} (h : Reported s0 s) (p : Port) (f : PortState → PortState) : Reported s0 (s.modPort p f) := h.trans rfl

theorem modCtx_reported {s0 s : State} (h : Reported s0 s) (c : Ctx) (f : CtxState → CtxState) : Reported s0 (s.modCtx c f) := h.trans rfl

theorem regs_reported {s0 s : State} (h : Reported s0 s) (m : AMap DWord) : Reported s0 { s with regs := m } := h.trans rfl

theorem freshCell_reported {s0 s : State} (h : Reported s0 s) (line : Nat) (whole : Nat → Bool) (x : FuseBank × Nat) :
    Reported s0 (s.freshCell line whole x) := h.trans rfl

theorem noteSkip_reported {s0 s : State} (h : Reported s0 s) (l : Loc) : Reported s0 (s.noteSkip l) := by
  unfold State.noteSkip
  dsimp only
  split <;> split <;> exact h.trans rfl

theorem writeCells_reported {s0 s : State} (h : Reported s0 s) (l : Loc) (whole : Nat → Bool) :
    Reported s0 (s.writeCells l whole) :=
  noteSkip_reported (Reported.foldl _ (fun _ _ k => freshCell_reported k _ _ _) _ _ h) l

theorem putLine_reported {s0 s : State} (h : Reported s0 s) (l : Loc) (pl : Nat) (bs : List Byte) (p q : Bool) :
    Reported s0 (s.putLine l pl bs p q) := by
  unfold State.putLine
  exact writeCells_reported (Reported.trans h (by rfl)) l _

theorem sendMsix_told {s0 s : State} (f : Fn) (v : Nat) (h : Reported s0 s) : Reported s0 (sendMsix s f v) := by
  unfold sendMsix
  repeat' first | (intro) | with_reducible (first | assumption | apply Reported.ite | apply Reported.foldl | apply emit_reported | apply modPort_reported | apply modCtx_reported | apply putLine_reported) | split | dsimp only

theorem sendMgmt_told {s0 s : State} (h : Reported s0 s) : Reported s0 (sendMgmt s) := by
  unfold sendMgmt
  repeat' first | (intro) | with_reducible (first | assumption | apply Reported.ite | apply Reported.foldl | apply emit_reported | apply modPort_reported | apply modCtx_reported | apply putLine_reported | apply sendMsix_told) | split | dsimp only

theorem sendAlerts_told {s0 s : State} (h : Reported s0 s) : Reported s0 (sendAlerts s) := by
  unfold sendAlerts
  repeat' first | (intro) | with_reducible (first | assumption | apply Reported.ite | apply Reported.foldl | apply emit_reported | apply modPort_reported | apply modCtx_reported | apply putLine_reported) | split | dsimp only

theorem setInt_told {s0 s : State} (b i : Nat) (h : Reported s0 s) : Reported s0 (setInt s b i) := by
  unfold setInt
  dsimp only
  have k := regs_reported h (mput s.regs (intStatusOff b) (BitVec.ofNat 64 (s.reg (intStatusOff b) + 2 ^ i)))
  split
  · exact h
  · split
    · split
      · exact sendAlerts_told (sendMgmt_told k)
      · exact sendMgmt_told k
    · exact k

theorem putOwnLine_told {s0 s : State} (dev : Nat) (bs : List Byte) (h : Reported s0 s) : Reported s0 (putOwnLine s dev bs) := by
  unfold putOwnLine
  repeat' first | (intro) | with_reducible (first | assumption | apply Reported.ite | apply Reported.foldl | apply emit_reported | apply modPort_reported | apply modCtx_reported | apply putLine_reported) | split | dsimp only

theorem ringEntry_told {s0 s : State} (c : Ctx) (kind code status : Nat) (ws : List Word) (h : Reported s0 s) : Reported s0 (ringEntry s c kind code status ws) := by
  unfold ringEntry
  repeat' first | (intro) | with_reducible (first | assumption | apply Reported.ite | apply Reported.foldl | apply emit_reported | apply modPort_reported | apply modCtx_reported | apply putLine_reported | apply putOwnLine_told | apply sendMsix_told) | split | dsimp only

theorem flushOverflow_told {s0 s : State} (c : Ctx) (h : Reported s0 s) : Reported s0 (flushOverflow s c) := by
  unfold flushOverflow
  repeat' first | (intro) | with_reducible (first | assumption | apply Reported.ite | apply Reported.foldl | apply emit_reported | apply modPort_reported | apply modCtx_reported | apply putLine_reported | apply ringEntry_told) | split | dsimp only

theorem postEvent_told {s0 s : State} (code : Nat) (ws : List Word) (c : Ctx) (h : Reported s0 s) : Reported s0 (postEvent s code ws c) := by
  unfold postEvent
  repeat' first | (intro) | with_reducible (first | assumption | apply Reported.ite | apply Reported.foldl | apply emit_reported | apply modPort_reported | apply modCtx_reported | apply putLine_reported | apply ringEntry_told | apply flushOverflow_told | apply setInt_told) | split | dsimp only

theorem logRecord_told {s0 s : State} (p : Port) (k : LogKind) (kind : RecordKind) (code : Nat) (ctx : BitVec 16) (ws : List Word) (h : Reported s0 s) : Reported s0 (logRecord s p k kind code ctx ws) := by
  unfold logRecord
  repeat' first | (intro) | with_reducible (first | assumption | apply Reported.ite | apply Reported.foldl | apply emit_reported | apply modPort_reported | apply modCtx_reported | apply putLine_reported | apply sendMsix_told) | split | dsimp only

theorem logAll_told {s0 s : State} (k : LogKind) (kind : RecordKind) (code : Nat) (ctx : BitVec 16) (ws : List Word) (h : Reported s0 s) : Reported s0 (logAll s k kind code ctx ws) := by
  unfold logAll
  repeat' first | (intro) | with_reducible (first | assumption | apply Reported.ite | apply Reported.foldl | apply emit_reported | apply modPort_reported | apply modCtx_reported | apply putLine_reported | apply logRecord_told) | split | dsimp only

theorem raise_told {s0 s : State} (e : EvDef) (cs : List Ctx) (ws : List Word) (h : Reported s0 s) : Reported s0 (raise s e cs ws) := by
  unfold raise
  repeat' first | (intro) | with_reducible (first | assumption | apply Reported.ite | apply Reported.foldl | apply emit_reported | apply modPort_reported | apply modCtx_reported | apply putLine_reported | apply logAll_told | apply setInt_told | apply postEvent_told) | split | dsimp only

theorem raiseAll_told {s0 s : State} (e : EvDef) (ws : List Word) (h : Reported s0 s) : Reported s0 (raiseAll s e ws) := by
  unfold raiseAll
  repeat' first | (intro) | with_reducible (first | assumption | apply Reported.ite | apply Reported.foldl | apply emit_reported | apply modPort_reported | apply modCtx_reported | apply putLine_reported | apply logAll_told | apply setInt_told | apply postEvent_told) | split | dsimp only

/-- Raising an event reports it and does nothing else. -/
theorem raise_reported (s : State) (e : EvDef) (cs : List Ctx) (ws : List Word) : Reported s (raise s e cs ws) := raise_told e cs ws (Reported.refl s)

/-- The same of an event of the whole module. -/
theorem raiseAll_reported (s : State) (e : EvDef) (ws : List Word) : Reported s (raiseAll s e ws) := raiseAll_told e ws (Reported.refl s)

/-- Setting an interrupt bit reports it and does nothing else. -/
theorem setInt_reported (s : State) (b i : Nat) : Reported s (setInt s b i) := setInt_told b i (Reported.refl s)

@[simp] theorem raise_pressed (s : State) (e : EvDef) (cs : List Ctx) (ws : List Word) : (raise s e cs ws).pressed = s.pressed := by
  rw [show raise s e cs ws = _ from raise_reported s e cs ws]

@[simp] theorem setInt_pressed (s : State) (b i : Nat) : (setInt s b i).pressed = s.pressed := by
  rw [show setInt s b i = _ from setInt_reported s b i]

@[simp] theorem raise_eager (s : State) (e : EvDef) (cs : List Ctx) (ws : List Word) : (raise s e cs ws).eager = s.eager := by
  rw [show raise s e cs ws = _ from raise_reported s e cs ws]

@[simp] theorem setInt_eager (s : State) (b i : Nat) : (setInt s b i).eager = s.eager := by
  rw [show setInt s b i = _ from setInt_reported s b i]

@[simp] theorem raise_windowDirty (s : State) (e : EvDef) (cs : List Ctx) (ws : List Word) : (raise s e cs ws).windowDirty = s.windowDirty := by
  rw [show raise s e cs ws = _ from raise_reported s e cs ws]

@[simp] theorem setInt_windowDirty (s : State) (b i : Nat) : (setInt s b i).windowDirty = s.windowDirty := by
  rw [show setInt s b i = _ from setInt_reported s b i]

@[simp] theorem raise_free (s : State) (e : EvDef) (cs : List Ctx) (ws : List Word) : (raise s e cs ws).free = s.free := by
  rw [show raise s e cs ws = _ from raise_reported s e cs ws]

@[simp] theorem setInt_free (s : State) (b i : Nat) : (setInt s b i).free = s.free := by
  rw [show setInt s b i = _ from setInt_reported s b i]

@[simp] theorem raise_eff (s : State) (e : EvDef) (cs : List Ctx) (ws : List Word) : (raise s e cs ws).eff = s.eff := by
  rw [show raise s e cs ws = _ from raise_reported s e cs ws]

@[simp] theorem setInt_eff (s : State) (b i : Nat) : (setInt s b i).eff = s.eff := by
  rw [show setInt s b i = _ from setInt_reported s b i]

@[simp] theorem raise_counts (s : State) (e : EvDef) (cs : List Ctx) (ws : List Word) : (raise s e cs ws).counts = s.counts := by
  rw [show raise s e cs ws = _ from raise_reported s e cs ws]

@[simp] theorem setInt_counts (s : State) (b i : Nat) : (setInt s b i).counts = s.counts := by
  rw [show setInt s b i = _ from setInt_reported s b i]

@[simp] theorem raise_merged (s : State) (e : EvDef) (cs : List Ctx) (ws : List Word) : (raise s e cs ws).merged = s.merged := by
  rw [show raise s e cs ws = _ from raise_reported s e cs ws]

@[simp] theorem setInt_merged (s : State) (b i : Nat) : (setInt s b i).merged = s.merged := by
  rw [show setInt s b i = _ from setInt_reported s b i]

@[simp] theorem raise_ft (s : State) (e : EvDef) (cs : List Ctx) (ws : List Word) : (raise s e cs ws).ft = s.ft := by
  rw [show raise s e cs ws = _ from raise_reported s e cs ws]

@[simp] theorem setInt_ft (s : State) (b i : Nat) : (setInt s b i).ft = s.ft := by
  rw [show setInt s b i = _ from setInt_reported s b i]

@[simp] theorem raise_owner (s : State) (e : EvDef) (cs : List Ctx) (ws : List Word) : (raise s e cs ws).owner = s.owner := by
  rw [show raise s e cs ws = _ from raise_reported s e cs ws]

@[simp] theorem setInt_owner (s : State) (b i : Nat) : (setInt s b i).owner = s.owner := by
  rw [show setInt s b i = _ from setInt_reported s b i]

@[simp] theorem raise_extents (s : State) (e : EvDef) (cs : List Ctx) (ws : List Word) : (raise s e cs ws).extents = s.extents := by
  rw [show raise s e cs ws = _ from raise_reported s e cs ws]

@[simp] theorem setInt_extents (s : State) (b i : Nat) : (setInt s b i).extents = s.extents := by
  rw [show setInt s b i = _ from setInt_reported s b i]

@[simp] theorem raise_objects (s : State) (e : EvDef) (cs : List Ctx) (ws : List Word) : (raise s e cs ws).objects = s.objects := by
  rw [show raise s e cs ws = _ from raise_reported s e cs ws]

@[simp] theorem setInt_objects (s : State) (b i : Nat) : (setInt s b i).objects = s.objects := by
  rw [show setInt s b i = _ from setInt_reported s b i]

@[simp] theorem raise_contents (s : State) (e : EvDef) (cs : List Ctx) (ws : List Word) : (raise s e cs ws).contents = s.contents := by
  rw [show raise s e cs ws = _ from raise_reported s e cs ws]

@[simp] theorem setInt_contents (s : State) (b i : Nat) : (setInt s b i).contents = s.contents := by
  rw [show setInt s b i = _ from setInt_reported s b i]

@[simp] theorem raise_pages (s : State) (e : EvDef) (cs : List Ctx) (ws : List Word) : (raise s e cs ws).pages = s.pages := by
  rw [show raise s e cs ws = _ from raise_reported s e cs ws]

@[simp] theorem setInt_pages (s : State) (b i : Nat) : (setInt s b i).pages = s.pages := by
  rw [show setInt s b i = _ from setInt_reported s b i]

@[simp] theorem raise_frames (s : State) (e : EvDef) (cs : List Ctx) (ws : List Word) : (raise s e cs ws).frames = s.frames := by
  rw [show raise s e cs ws = _ from raise_reported s e cs ws]

@[simp] theorem setInt_frames (s : State) (b i : Nat) : (setInt s b i).frames = s.frames := by
  rw [show setInt s b i = _ from setInt_reported s b i]

@[simp] theorem raise_light (s : State) (e : EvDef) (cs : List Ctx) (ws : List Word) : (raise s e cs ws).light = s.light := by
  rw [show raise s e cs ws = _ from raise_reported s e cs ws]

@[simp] theorem setInt_light (s : State) (b i : Nat) : (setInt s b i).light = s.light := by
  rw [show setInt s b i = _ from setInt_reported s b i]

@[simp] theorem raise_patterns (s : State) (e : EvDef) (cs : List Ctx) (ws : List Word) : (raise s e cs ws).patterns = s.patterns := by
  rw [show raise s e cs ws = _ from raise_reported s e cs ws]

@[simp] theorem setInt_patterns (s : State) (b i : Nat) : (setInt s b i).patterns = s.patterns := by
  rw [show setInt s b i = _ from setInt_reported s b i]

@[simp] theorem raise_bindings (s : State) (e : EvDef) (cs : List Ctx) (ws : List Word) : (raise s e cs ws).bindings = s.bindings := by
  rw [show raise s e cs ws = _ from raise_reported s e cs ws]

@[simp] theorem setInt_bindings (s : State) (b i : Nat) : (setInt s b i).bindings = s.bindings := by
  rw [show setInt s b i = _ from setInt_reported s b i]

@[simp] theorem raise_cues (s : State) (e : EvDef) (cs : List Ctx) (ws : List Word) : (raise s e cs ws).cues = s.cues := by
  rw [show raise s e cs ws = _ from raise_reported s e cs ws]

@[simp] theorem setInt_cues (s : State) (b i : Nat) : (setInt s b i).cues = s.cues := by
  rw [show setInt s b i = _ from setInt_reported s b i]

@[simp] theorem raise_cores (s : State) (e : EvDef) (cs : List Ctx) (ws : List Word) : (raise s e cs ws).cores = s.cores := by
  rw [show raise s e cs ws = _ from raise_reported s e cs ws]

@[simp] theorem setInt_cores (s : State) (b i : Nat) : (setInt s b i).cores = s.cores := by
  rw [show setInt s b i = _ from setInt_reported s b i]

@[simp] theorem raise_stackSt (s : State) (e : EvDef) (cs : List Ctx) (ws : List Word) : (raise s e cs ws).stackSt = s.stackSt := by
  rw [show raise s e cs ws = _ from raise_reported s e cs ws]

@[simp] theorem setInt_stackSt (s : State) (b i : Nat) : (setInt s b i).stackSt = s.stackSt := by
  rw [show setInt s b i = _ from setInt_reported s b i]

@[simp] theorem raise_bays (s : State) (e : EvDef) (cs : List Ctx) (ws : List Word) : (raise s e cs ws).bays = s.bays := by
  rw [show raise s e cs ws = _ from raise_reported s e cs ws]

@[simp] theorem setInt_bays (s : State) (b i : Nat) : (setInt s b i).bays = s.bays := by
  rw [show setInt s b i = _ from setInt_reported s b i]

@[simp] theorem raise_walk (s : State) (e : EvDef) (cs : List Ctx) (ws : List Word) : (raise s e cs ws).walk = s.walk := by
  rw [show raise s e cs ws = _ from raise_reported s e cs ws]

@[simp] theorem setInt_walk (s : State) (b i : Nat) : (setInt s b i).walk = s.walk := by
  rw [show setInt s b i = _ from setInt_reported s b i]

@[simp] theorem raise_vacated (s : State) (e : EvDef) (cs : List Ctx) (ws : List Word) : (raise s e cs ws).vacated = s.vacated := by
  rw [show raise s e cs ws = _ from raise_reported s e cs ws]

@[simp] theorem setInt_vacated (s : State) (b i : Nat) : (setInt s b i).vacated = s.vacated := by
  rw [show setInt s b i = _ from setInt_reported s b i]

@[simp] theorem raise_stripes (s : State) (e : EvDef) (cs : List Ctx) (ws : List Word) : (raise s e cs ws).stripes = s.stripes := by
  rw [show raise s e cs ws = _ from raise_reported s e cs ws]

@[simp] theorem setInt_stripes (s : State) (b i : Nat) : (setInt s b i).stripes = s.stripes := by
  rw [show setInt s b i = _ from setInt_reported s b i]

@[simp] theorem raise_broken (s : State) (e : EvDef) (cs : List Ctx) (ws : List Word) : (raise s e cs ws).broken = s.broken := by
  rw [show raise s e cs ws = _ from raise_reported s e cs ws]

@[simp] theorem setInt_broken (s : State) (b i : Nat) : (setInt s b i).broken = s.broken := by
  rw [show setInt s b i = _ from setInt_reported s b i]

@[simp] theorem raise_ledger (s : State) (e : EvDef) (cs : List Ctx) (ws : List Word) : (raise s e cs ws).ledger = s.ledger := by
  rw [show raise s e cs ws = _ from raise_reported s e cs ws]

@[simp] theorem setInt_ledger (s : State) (b i : Nat) : (setInt s b i).ledger = s.ledger := by
  rw [show setInt s b i = _ from setInt_reported s b i]

@[simp] theorem raise_ledgerNext (s : State) (e : EvDef) (cs : List Ctx) (ws : List Word) : (raise s e cs ws).ledgerNext = s.ledgerNext := by
  rw [show raise s e cs ws = _ from raise_reported s e cs ws]

@[simp] theorem setInt_ledgerNext (s : State) (b i : Nat) : (setInt s b i).ledgerNext = s.ledgerNext := by
  rw [show setInt s b i = _ from setInt_reported s b i]

@[simp] theorem raise_recompute (s : State) (e : EvDef) (cs : List Ctx) (ws : List Word) : (raise s e cs ws).recompute = s.recompute := by
  rw [show raise s e cs ws = _ from raise_reported s e cs ws]

@[simp] theorem setInt_recompute (s : State) (b i : Nat) : (setInt s b i).recompute = s.recompute := by
  rw [show setInt s b i = _ from setInt_reported s b i]

@[simp] theorem raise_keys (s : State) (e : EvDef) (cs : List Ctx) (ws : List Word) : (raise s e cs ws).keys = s.keys := by
  rw [show raise s e cs ws = _ from raise_reported s e cs ws]

@[simp] theorem setInt_keys (s : State) (b i : Nat) : (setInt s b i).keys = s.keys := by
  rw [show setInt s b i = _ from setInt_reported s b i]

@[simp] theorem raise_keks (s : State) (e : EvDef) (cs : List Ctx) (ws : List Word) : (raise s e cs ws).keks = s.keks := by
  rw [show raise s e cs ws = _ from raise_reported s e cs ws]

@[simp] theorem setInt_keks (s : State) (b i : Nat) : (setInt s b i).keks = s.keks := by
  rw [show setInt s b i = _ from setInt_reported s b i]

@[simp] theorem raise_pw (s : State) (e : EvDef) (cs : List Ctx) (ws : List Word) : (raise s e cs ws).pw = s.pw := by
  rw [show raise s e cs ws = _ from raise_reported s e cs ws]

@[simp] theorem setInt_pw (s : State) (b i : Nat) : (setInt s b i).pw = s.pw := by
  rw [show setInt s b i = _ from setInt_reported s b i]

@[simp] theorem raise_rv (s : State) (e : EvDef) (cs : List Ctx) (ws : List Word) : (raise s e cs ws).rv = s.rv := by
  rw [show raise s e cs ws = _ from raise_reported s e cs ws]

@[simp] theorem setInt_rv (s : State) (b i : Nat) : (setInt s b i).rv = s.rv := by
  rw [show setInt s b i = _ from setInt_reported s b i]

@[simp] theorem raise_faultPin (s : State) (e : EvDef) (cs : List Ctx) (ws : List Word) : (raise s e cs ws).faultPin = s.faultPin := by
  rw [show raise s e cs ws = _ from raise_reported s e cs ws]

@[simp] theorem setInt_faultPin (s : State) (b i : Nat) : (setInt s b i).faultPin = s.faultPin := by
  rw [show setInt s b i = _ from setInt_reported s b i]

@[simp] theorem raise_thermPin (s : State) (e : EvDef) (cs : List Ctx) (ws : List Word) : (raise s e cs ws).thermPin = s.thermPin := by
  rw [show raise s e cs ws = _ from raise_reported s e cs ws]

@[simp] theorem setInt_thermPin (s : State) (b i : Nat) : (setInt s b i).thermPin = s.thermPin := by
  rw [show setInt s b i = _ from setInt_reported s b i]

@[simp] theorem raise_baySafe (s : State) (e : EvDef) (cs : List Ctx) (ws : List Word) : (raise s e cs ws).baySafe = s.baySafe := by
  rw [show raise s e cs ws = _ from raise_reported s e cs ws]

@[simp] theorem setInt_baySafe (s : State) (b i : Nat) : (setInt s b i).baySafe = s.baySafe := by
  rw [show setInt s b i = _ from setInt_reported s b i]

@[simp] theorem raise_bay (s : State) (e : EvDef) (cs : List Ctx) (ws : List Word) (b' : Nat) : (raise s e cs ws).bay b' = s.bay b' := by simp [State.bay]

@[simp] theorem raise_core (s : State) (e : EvDef) (cs : List Ctx) (ws : List Word) (k : Nat) : (raise s e cs ws).core k = s.core k := by simp [State.core]

@[simp] theorem setInt_bay (s : State) (b i : Nat) (b' : Nat) : (setInt s b i).bay b' = s.bay b' := by simp [State.bay]

@[simp] theorem setInt_core (s : State) (b i : Nat) (k : Nat) : (setInt s b i).core k = s.core k := by simp [State.core]

end Sys2Proof.Machine
end

