-- ==== Sys2Proof/Laws/Exec.lean ====
section
/-! SUPPORT. Each command's arm of `exec`: the meaning it calls. -/

namespace Sys2Proof.Machine

@[simp] theorem exec_frameBoundary (s : State) : exec .frameBoundary s = execFrameBoundary s := rfl
@[simp] theorem exec_ptmDialogStart (p : Port) (s : State) :
    exec (.ptmDialogStart p) s = execPtmDialogStart p s := rfl
@[simp] theorem exec_ptmDialogResponse (p : Port) (master : DWord) (sub : BitVec 10) (s : State) :
    exec (.ptmDialogResponse p master sub) s = execPtmDialogResponse p master sub s := rfl
@[simp] theorem exec_ptmDialogTimeout (p : Port) (s : State) :
    exec (.ptmDialogTimeout p) s = execPtmDialogTimeout p s := rfl
@[simp] theorem exec_ptmLost (p : Port) (s : State) : exec (.ptmLost p) s = execPtmLost p s := rfl
@[simp] theorem exec_holdoverExpired (s : State) : exec .holdoverExpired s = execHoldoverExpired s := rfl
@[simp] theorem exec_stackSetChangeTimeout (t : Cluster) (s : State) :
    exec (.stackSetChangeTimeout t) s = execStackSetChangeTimeout t s := rfl
@[simp] theorem exec_decoderCommitComplete (c : Ctx) (s : State) :
    exec (.decoderCommitComplete c) s = execDecoderCommitComplete c s := rfl
@[simp] theorem exec_dramSlot (t : Cluster) (h : Chan) (s : State) :
    exec (.dramSlot t h) s = execDramSlot t h s := rfl
@[simp] theorem exec_dramAdmissionDecision (t : Cluster) (h : Chan) (s : State) :
    exec (.dramAdmissionDecision t h) s = execDramAdmissionDecision t h s := rfl
@[simp] theorem exec_linkArbiterDecision (die : Fin 2) (toHub : Bool) (requests : BitVec 15) (s : State) :
    exec (.linkArbiterDecision die toHub requests) s = execLinkArbiterDecision die toHub requests s := rfl
@[simp] theorem exec_flashArbiterDecision (b : Bay) (ch : Fin 8) (requests : BitVec 5) (s : State) :
    exec (.flashArbiterDecision b ch requests) s = execFlashArbiterDecision b ch requests s := rfl
@[simp] theorem exec_masterMaskChange (m : Fin 15) (raised : Bool) (s : State) :
    exec (.masterMaskChange m raised) s = execMasterMaskChange m raised s := rfl
@[simp] theorem exec_tnop (k : CoreId) (s : State) : exec (.tnop k) s = execTnop k s := rfl
@[simp] theorem exec_mac (k : CoreId) (start : Bool) (acc : BitVec 7) (rep : BitVec 10) (accStep : Bool) (advance : BitVec 6) (dpuEn : BitVec 8) (s : State) :
    exec (.mac k start acc rep accStep advance dpuEn) s = execMac k start acc rep accStep advance dpuEn s := rfl
@[simp] theorem exec_snop (k : CoreId) (s : State) : exec (.snop k) s = execSnop k s := rfl
@[simp] theorem exec_fpAdd (k : CoreId) (f : SField) (s : State) : exec (.fpAdd k f) s = execFpAdd k f s := rfl
@[simp] theorem exec_fpSubtract (k : CoreId) (f : SField) (s : State) :
    exec (.fpSubtract k f) s = execFpSubtract k f s := rfl
@[simp] theorem exec_fpMultiply (k : CoreId) (f : SField) (s : State) :
    exec (.fpMultiply k f) s = execFpMultiply k f s := rfl
@[simp] theorem exec_fpFusedMultiplyAdd (k : CoreId) (f : SField) (s : State) :
    exec (.fpFusedMultiplyAdd k f) s = execFpFusedMultiplyAdd k f s := rfl
@[simp] theorem exec_fpDivide (k : CoreId) (f : SField) (s : State) :
    exec (.fpDivide k f) s = execFpDivide k f s := rfl
@[simp] theorem exec_fpSquareRoot (k : CoreId) (f : SField) (s : State) :
    exec (.fpSquareRoot k f) s = execFpSquareRoot k f s := rfl
@[simp] theorem exec_fpReciprocal (k : CoreId) (f : SField) (s : State) :
    exec (.fpReciprocal k f) s = execFpReciprocal k f s := rfl
@[simp] theorem exec_fpReciprocalSquareRoot (k : CoreId) (f : SField) (s : State) :
    exec (.fpReciprocalSquareRoot k f) s = execFpReciprocalSquareRoot k f s := rfl
@[simp] theorem exec_fpMinimum (k : CoreId) (f : SField) (s : State) :
    exec (.fpMinimum k f) s = execFpMinimum k f s := rfl
@[simp] theorem exec_fpMaximum (k : CoreId) (f : SField) (s : State) :
    exec (.fpMaximum k f) s = execFpMaximum k f s := rfl
@[simp] theorem exec_fpAbsoluteValue (k : CoreId) (f : SField) (s : State) :
    exec (.fpAbsoluteValue k f) s = execFpAbsoluteValue k f s := rfl
@[simp] theorem exec_fpNegate (k : CoreId) (f : SField) (s : State) :
    exec (.fpNegate k f) s = execFpNegate k f s := rfl
@[simp] theorem exec_fpCopySign (k : CoreId) (f : SField) (s : State) :
    exec (.fpCopySign k f) s = execFpCopySign k f s := rfl
@[simp] theorem exec_compareEqual (k : CoreId) (ty : LaneType) (f : SField) (s : State) :
    exec (.compareEqual k ty f) s = execCompareEqual k ty f s := rfl
@[simp] theorem exec_compareLessThan (k : CoreId) (ty : LaneType) (f : SField) (s : State) :
    exec (.compareLessThan k ty f) s = execCompareLessThan k ty f s := rfl
@[simp] theorem exec_compareLessOrEqual (k : CoreId) (ty : LaneType) (f : SField) (s : State) :
    exec (.compareLessOrEqual k ty f) s = execCompareLessOrEqual k ty f s := rfl
@[simp] theorem exec_compareUnordered (k : CoreId) (ty : LaneType) (f : SField) (s : State) :
    exec (.compareUnordered k ty f) s = execCompareUnordered k ty f s := rfl
@[simp] theorem exec_intAdd (k : CoreId) (ty : LaneType) (f : SField) (s : State) :
    exec (.intAdd k ty f) s = execIntAdd k ty f s := rfl
@[simp] theorem exec_intSubtract (k : CoreId) (ty : LaneType) (f : SField) (s : State) :
    exec (.intSubtract k ty f) s = execIntSubtract k ty f s := rfl
@[simp] theorem exec_intMultiplyLow (k : CoreId) (ty : LaneType) (f : SField) (s : State) :
    exec (.intMultiplyLow k ty f) s = execIntMultiplyLow k ty f s := rfl
@[simp] theorem exec_intMultiplyHigh (k : CoreId) (ty : LaneType) (f : SField) (s : State) :
    exec (.intMultiplyHigh k ty f) s = execIntMultiplyHigh k ty f s := rfl
@[simp] theorem exec_intMinimum (k : CoreId) (ty : LaneType) (f : SField) (s : State) :
    exec (.intMinimum k ty f) s = execIntMinimum k ty f s := rfl
@[simp] theorem exec_intMaximum (k : CoreId) (ty : LaneType) (f : SField) (s : State) :
    exec (.intMaximum k ty f) s = execIntMaximum k ty f s := rfl
@[simp] theorem exec_bitwiseAnd (k : CoreId) (f : SField) (s : State) :
    exec (.bitwiseAnd k f) s = execBitwiseAnd k f s := rfl
@[simp] theorem exec_bitwiseOr (k : CoreId) (f : SField) (s : State) :
    exec (.bitwiseOr k f) s = execBitwiseOr k f s := rfl
@[simp] theorem exec_bitwiseExclusiveOr (k : CoreId) (f : SField) (s : State) :
    exec (.bitwiseExclusiveOr k f) s = execBitwiseExclusiveOr k f s := rfl
@[simp] theorem exec_bitwiseNot (k : CoreId) (f : SField) (s : State) :
    exec (.bitwiseNot k f) s = execBitwiseNot k f s := rfl
@[simp] theorem exec_shiftLeft (k : CoreId) (f : SField) (s : State) :
    exec (.shiftLeft k f) s = execShiftLeft k f s := rfl
@[simp] theorem exec_shiftRightLogical (k : CoreId) (f : SField) (s : State) :
    exec (.shiftRightLogical k f) s = execShiftRightLogical k f s := rfl
@[simp] theorem exec_shiftRightArithmetic (k : CoreId) (f : SField) (s : State) :
    exec (.shiftRightArithmetic k f) s = execShiftRightArithmetic k f s := rfl
@[simp] theorem exec_rotateLeft (k : CoreId) (f : SField) (s : State) :
    exec (.rotateLeft k f) s = execRotateLeft k f s := rfl
@[simp] theorem exec_populationCount (k : CoreId) (f : SField) (s : State) :
    exec (.populationCount k f) s = execPopulationCount k f s := rfl
@[simp] theorem exec_select (k : CoreId) (f : SField) (s : State) : exec (.select k f) s = execSelect k f s := rfl
@[simp] theorem exec_convertFromFp32 (k : CoreId) (f : SField) (s : State) :
    exec (.convertFromFp32 k f) s = execConvertFromFp32 k f s := rfl
@[simp] theorem exec_convertToFp32 (k : CoreId) (f : SField) (s : State) :
    exec (.convertToFp32 k f) s = execConvertToFp32 k f s := rfl
@[simp] theorem exec_mxQuantise (k : CoreId) (f : SField) (s : State) :
    exec (.mxQuantise k f) s = execMxQuantise k f s := rfl
@[simp] theorem exec_reduceSum (k : CoreId) (ty : LaneType) (f : SField) (s : State) :
    exec (.reduceSum k ty f) s = execReduceSum k ty f s := rfl
@[simp] theorem exec_reduceMinimum (k : CoreId) (ty : LaneType) (f : SField) (s : State) :
    exec (.reduceMinimum k ty f) s = execReduceMinimum k ty f s := rfl
@[simp] theorem exec_reduceMaximum (k : CoreId) (ty : LaneType) (f : SField) (s : State) :
    exec (.reduceMaximum k ty f) s = execReduceMaximum k ty f s := rfl
@[simp] theorem exec_accumulatorRead (k : CoreId) (f : SField) (s : State) :
    exec (.accumulatorRead k f) s = execAccumulatorRead k f s := rfl
@[simp] theorem exec_accumulatorWrite (k : CoreId) (f : SField) (s : State) :
    exec (.accumulatorWrite k f) s = execAccumulatorWrite k f s := rfl
@[simp] theorem exec_atomicIntegerAdd (k : CoreId) (ty : LaneType) (f : SField) (s : State) :
    exec (.atomicIntegerAdd k ty f) s = execAtomicIntegerAdd k ty f s := rfl
@[simp] theorem exec_atomicSignedMinimum (k : CoreId) (ty : LaneType) (f : SField) (s : State) :
    exec (.atomicSignedMinimum k ty f) s = execAtomicSignedMinimum k ty f s := rfl
@[simp] theorem exec_atomicSignedMaximum (k : CoreId) (ty : LaneType) (f : SField) (s : State) :
    exec (.atomicSignedMaximum k ty f) s = execAtomicSignedMaximum k ty f s := rfl
@[simp] theorem exec_atomicUnsignedMinimum (k : CoreId) (ty : LaneType) (f : SField) (s : State) :
    exec (.atomicUnsignedMinimum k ty f) s = execAtomicUnsignedMinimum k ty f s := rfl
@[simp] theorem exec_atomicUnsignedMaximum (k : CoreId) (ty : LaneType) (f : SField) (s : State) :
    exec (.atomicUnsignedMaximum k ty f) s = execAtomicUnsignedMaximum k ty f s := rfl
@[simp] theorem exec_atomicAnd (k : CoreId) (ty : LaneType) (f : SField) (s : State) :
    exec (.atomicAnd k ty f) s = execAtomicAnd k ty f s := rfl
@[simp] theorem exec_atomicOr (k : CoreId) (ty : LaneType) (f : SField) (s : State) :
    exec (.atomicOr k ty f) s = execAtomicOr k ty f s := rfl
@[simp] theorem exec_atomicExclusiveOr (k : CoreId) (ty : LaneType) (f : SField) (s : State) :
    exec (.atomicExclusiveOr k ty f) s = execAtomicExclusiveOr k ty f s := rfl
@[simp] theorem exec_atomicExchange (k : CoreId) (ty : LaneType) (f : SField) (s : State) :
    exec (.atomicExchange k ty f) s = execAtomicExchange k ty f s := rfl
@[simp] theorem exec_atomicCompareExchange (k : CoreId) (ty : LaneType) (f : SField) (s : State) :
    exec (.atomicCompareExchange k ty f) s = execAtomicCompareExchange k ty f s := rfl
@[simp] theorem exec_atomicFp32Add (k : CoreId) (f : SField) (s : State) :
    exec (.atomicFp32Add k f) s = execAtomicFp32Add k f s := rfl
@[simp] theorem exec_atomicFp32Minimum (k : CoreId) (f : SField) (s : State) :
    exec (.atomicFp32Minimum k f) s = execAtomicFp32Minimum k f s := rfl
@[simp] theorem exec_atomicFp32Maximum (k : CoreId) (f : SField) (s : State) :
    exec (.atomicFp32Maximum k f) s = execAtomicFp32Maximum k f s := rfl
@[simp] theorem exec_sld (k : CoreId) (mode : AddrMode) (f : SField) (s : State) :
    exec (.sld k mode f) s = execSld k mode f s := rfl
@[simp] theorem exec_sst (k : CoreId) (mode : AddrMode) (f : SField) (s : State) :
    exec (.sst k mode f) s = execSst k mode f s := rfl
@[simp] theorem exec_sldx (k : CoreId) (f : SField) (s : State) : exec (.sldx k f) s = execSldx k f s := rfl
@[simp] theorem exec_sstx (k : CoreId) (f : SField) (s : State) : exec (.sstx k f) s = execSstx k f s := rfl
@[simp] theorem exec_xnop (k : CoreId) (s : State) : exec (.xnop k) s = execXnop k s := rfl
@[simp] theorem exec_step (k : CoreId) (s : State) : exec (.step k) s = execStep k s := rfl
@[simp] theorem exec_endPattern (k : CoreId) (s : State) : exec (.endPattern k) s = execEndPattern k s := rfl
@[simp] theorem exec_lcnt (k : CoreId) (counter : BitVec 3) (limit : BitVec 23) (s : State) :
    exec (.lcnt k counter limit) s = execLcnt k counter limit s := rfl
@[simp] theorem exec_loop (k : CoreId) (counter : BitVec 3) (target : BitVec 12) (s : State) :
    exec (.loop k counter target) s = execLoop k counter target s := rfl
@[simp] theorem exec_waitf (k : CoreId) (cycle : BitVec 11) (frames : BitVec 8) (s : State) :
    exec (.waitf k cycle frames) s = execWaitf k cycle frames s := rfl
@[simp] theorem exec_waitfResume (k : CoreId) (s : State) : exec (.waitfResume k) s = execWaitfResume k s := rfl
@[simp] theorem exec_acw (k : CoreId) (value : BitVec 19) (s : State) :
    exec (.acw k value) s = execAcw k value s := rfl
@[simp] theorem exec_tsd (k : CoreId) (stream : BitVec 3) (addr16 : BitVec 14) (s : State) :
    exec (.tsd k stream addr16) s = execTsd k stream addr16 s := rfl
@[simp] theorem exec_xsend (k : CoreId) (entry : BitVec 12) (s : State) :
    exec (.xsend k entry) s = execXsend k entry s := rfl
@[simp] theorem exec_xred (k : CoreId) (entry : BitVec 12) (s : State) :
    exec (.xred k entry) s = execXred k entry s := rfl
@[simp] theorem exec_xwait (k : CoreId) (count : BitVec 16) (s : State) :
    exec (.xwait k count) s = execXwait k count s := rfl
@[simp] theorem exec_xclr (k : CoreId) (s : State) : exec (.xclr k) s = execXclr k s := rfl
@[simp] theorem exec_exchangeMessageArrive (msg : Nat) (s : State) :
    exec (.exchangeMessageArrive msg) s = execExchangeMessageArrive msg s := rfl
@[simp] theorem exec_memRd (p : Port) (src : SrcId) (hpa : DWord) (mv : MetaValue) (tag : BitVec 16) (s : State) :
    exec (.memRd p src hpa mv tag) s = execMemRd p src hpa mv tag s := rfl
@[simp] theorem exec_memRdData (p : Port) (src : SrcId) (hpa : DWord) (mv : MetaValue) (tag : BitVec 16) (s : State) :
    exec (.memRdData p src hpa mv tag) s = execMemRdData p src hpa mv tag s := rfl
@[simp] theorem exec_memInv (p : Port) (src : SrcId) (hpa : DWord) (mv : MetaValue) (tag : BitVec 16) (s : State) :
    exec (.memInv p src hpa mv tag) s = execMemInv p src hpa mv tag s := rfl
@[simp] theorem exec_memInvNt (p : Port) (src : SrcId) (hpa : DWord) (mv : MetaValue) (tag : BitVec 16) (s : State) :
    exec (.memInvNt p src hpa mv tag) s = execMemInvNt p src hpa mv tag s := rfl
@[simp] theorem exec_memClnEvct (p : Port) (src : SrcId) (hpa : DWord) (tag : BitVec 16) (s : State) :
    exec (.memClnEvct p src hpa tag) s = execMemClnEvct p src hpa tag s := rfl
@[simp] theorem exec_memSpecRd (p : Port) (src : SrcId) (hpa : DWord) (s : State) :
    exec (.memSpecRd p src hpa) s = execMemSpecRd p src hpa s := rfl
@[simp] theorem exec_memWr (p : Port) (src : SrcId) (hpa : DWord) (mv : MetaValue) (tag : BitVec 16) (data : Line) (poison : Bool) (s : State) :
    exec (.memWr p src hpa mv tag data poison) s = execMemWr p src hpa mv tag data poison s := rfl
@[simp] theorem exec_memWrPtl (p : Port) (src : SrcId) (hpa : DWord) (mv : MetaValue) (tag : BitVec 16) (data : Line) (be : DWord) (poison : Bool) (s : State) :
    exec (.memWrPtl p src hpa mv tag data be poison) s = execMemWrPtl p src hpa mv tag data be poison s := rfl
@[simp] theorem exec_biRsp (p : Port) (src : SrcId) (dev : BitVec 47) (shared : Bool) (s : State) :
    exec (.biRsp p src dev shared) s = execBiRsp p src dev shared s := rfl
@[simp] theorem exec_biConflict (p : Port) (src : SrcId) (dev : BitVec 47) (s : State) :
    exec (.biConflict p src dev) s = execBiConflict p src dev s := rfl
@[simp] theorem exec_stallBudgetExpired (p : Port) (tag : BitVec 16) (s : State) :
    exec (.stallBudgetExpired p tag) s = execStallBudgetExpired p tag s := rfl
@[simp] theorem exec_recallWaitExpired (dev : BitVec 47) (s : State) :
    exec (.recallWaitExpired dev) s = execRecallWaitExpired dev s := rfl
@[simp] theorem exec_lockWaitExpired (w : LockWaiter) (s : State) :
    exec (.lockWaitExpired w) s = execLockWaitExpired w s := rfl
@[simp] theorem exec_pageMoveStart (s : State) : exec .pageMoveStart s = execPageMoveStart s := rfl
@[simp] theorem exec_referenceBitSweep (s : State) : exec .referenceBitSweep s = execReferenceBitSweep s := rfl
@[simp] theorem exec_flashReadComplete (pid : Nat) (uncorrectable : BitVec 8) (s : State) :
    exec (.flashReadComplete pid uncorrectable) s = execFlashReadComplete pid uncorrectable s := rfl
@[simp] theorem exec_stripeCloseTimeout (s : State) : exec .stripeCloseTimeout s = execStripeCloseTimeout s := rfl
@[simp] theorem exec_stripeProgramComplete (seq : BitVec 48) (s : State) :
    exec (.stripeProgramComplete seq) s = execStripeProgramComplete seq s := rfl
@[simp] theorem exec_moverMovesDone (obj : BitVec 24) (s : State) :
    exec (.moverMovesDone obj) s = execMoverMovesDone obj s := rfl
@[simp] theorem exec_frameZeroFillDone (sliver : CoreId) (frame : Fin 8192) (s : State) :
    exec (.frameZeroFillDone sliver frame) s = execFrameZeroFillDone sliver frame s := rfl
@[simp] theorem exec_cowCopyComplete (pid : Nat) (s : State) :
    exec (.cowCopyComplete pid) s = execCowCopyComplete pid s := rfl
@[simp] theorem exec_garbageCollection (seq : BitVec 48) (s : State) :
    exec (.garbageCollection seq) s = execGarbageCollection seq s := rfl
@[simp] theorem exec_pieceDecode (chan : Word) (s : State) :
    exec (.pieceDecode chan) s = execPieceDecode chan s := rfl
@[simp] theorem exec_pieceEncode (chan : Word) (s : State) :
    exec (.pieceEncode chan) s = execPieceEncode chan s := rfl
@[simp] theorem exec_completionPost (c : Ctx) (tag : Word) (s : State) :
    exec (.completionPost c tag) s = execCompletionPost c tag s := rfl
@[simp] theorem exec_backgroundCommandComplete (p : Port) (secondary : Bool) (s : State) :
    exec (.backgroundCommandComplete p secondary) s = execBackgroundCommandComplete p secondary s := rfl
@[simp] theorem exec_workRingDoorbell (c : Ctx) (value : Word) (s : State) :
    exec (.workRingDoorbell c value) s = execWorkRingDoorbell c value s := rfl
@[simp] theorem exec_eventRingHeadWrite (c : Ctx) (value : Word) (s : State) :
    exec (.eventRingHeadWrite c value) s = execEventRingHeadWrite c value s := rfl
@[simp] theorem exec_ringEnable (c : Ctx) (value : Word) (s : State) :
    exec (.ringEnable c value) s = execRingEnable c value s := rfl
@[simp] theorem exec_ringDisable (c : Ctx) (value : Word) (s : State) :
    exec (.ringDisable c value) s = execRingDisable c value s := rfl
@[simp] theorem exec_ringDrainComplete (c : Ctx) (s : State) :
    exec (.ringDrainComplete c) s = execRingDrainComplete c s := rfl
@[simp] theorem exec_eventRingInterruptTimer (c : Ctx) (s : State) :
    exec (.eventRingInterruptTimer c) s = execEventRingInterruptTimer c s := rfl
@[simp] theorem exec_decoderCommitWrite (c : Ctx) (value : Word) (s : State) :
    exec (.decoderCommitWrite c value) s = execDecoderCommitWrite c value s := rfl
@[simp] theorem exec_intEnableWrite (p : Port) (block : Fin 14) (value : Word) (s : State) :
    exec (.intEnableWrite p block value) s = execIntEnableWrite p block value s := rfl
@[simp] theorem exec_registerWrite (sp : RegSpace) (offset : BitVec 22) (bytes : BitVec 4) (value : DWord) (s : State) :
    exec (.registerWrite sp offset bytes value) s = execRegisterWrite sp offset bytes value s := rfl
@[simp] theorem exec_msixUnmask (f : Fn) (vector : Fin 8) (s : State) :
    exec (.msixUnmask f vector) s = execMsixUnmask f vector s := rfl
@[simp] theorem exec_cue (c : Ctx) (entry : Line) (s : State) : exec (.cue c entry) s = execCue c entry s := rfl
@[simp] theorem exec_promote (c : Ctx) (entry : Line) (s : State) :
    exec (.promote c entry) s = execPromote c entry s := rfl
@[simp] theorem exec_evict (c : Ctx) (entry : Line) (s : State) : exec (.evict c entry) s = execEvict c entry s := rfl
@[simp] theorem exec_flush (c : Ctx) (entry : Line) (s : State) : exec (.flush c entry) s = execFlush c entry s := rfl
@[simp] theorem exec_codecIn (c : Ctx) (entry : Line) (s : State) :
    exec (.codecIn c entry) s = execCodecIn c entry s := rfl
@[simp] theorem exec_codecOut (c : Ctx) (entry : Line) (s : State) :
    exec (.codecOut c entry) s = execCodecOut c entry s := rfl
@[simp] theorem exec_codecExchange (c : Ctx) (entry : Line) (s : State) :
    exec (.codecExchange c entry) s = execCodecExchange c entry s := rfl
@[simp] theorem exec_nmFill (c : Ctx) (entry : Line) (s : State) :
    exec (.nmFill c entry) s = execNmFill c entry s := rfl
@[simp] theorem exec_nmCopy (c : Ctx) (entry : Line) (s : State) :
    exec (.nmCopy c entry) s = execNmCopy c entry s := rfl
@[simp] theorem exec_nmCompare (c : Ctx) (entry : Line) (s : State) :
    exec (.nmCompare c entry) s = execNmCompare c entry s := rfl
@[simp] theorem exec_nmReduce (c : Ctx) (entry : Line) (s : State) :
    exec (.nmReduce c entry) s = execNmReduce c entry s := rfl
@[simp] theorem exec_nmAtomic (c : Ctx) (entry : Line) (s : State) :
    exec (.nmAtomic c entry) s = execNmAtomic c entry s := rfl
@[simp] theorem exec_swapIn (c : Ctx) (entry : Line) (s : State) :
    exec (.swapIn c entry) s = execSwapIn c entry s := rfl
@[simp] theorem exec_swapOut (c : Ctx) (entry : Line) (s : State) :
    exec (.swapOut c entry) s = execSwapOut c entry s := rfl
@[simp] theorem exec_nop (c : Ctx) (entry : Line) (s : State) : exec (.nop c entry) s = execNop c entry s := rfl
@[simp] theorem exec_steward (c : Ctx) (entry : Line) (s : State) :
    exec (.steward c entry) s = execSteward c entry s := rfl
@[simp] theorem exec_upstreamCompletion (c : Ctx) (tag : Word) (successful : Bool) (ep : Bool) (data : List Line) (s : State) :
    exec (.upstreamCompletion c tag successful ep data) s = execUpstreamCompletion c tag successful ep data s := rfl
@[simp] theorem exec_upstreamCompletionTimeout (c : Ctx) (tag : Word) (s : State) :
    exec (.upstreamCompletionTimeout c tag) s = execUpstreamCompletionTimeout c tag s := rfl
@[simp] theorem exec_poisonedTlpToBar (p : Port) (s : State) :
    exec (.poisonedTlpToBar p) s = execPoisonedTlpToBar p s := rfl
@[simp] theorem exec_mciIdentify (via : Path) (input : List Byte) (s : State) :
    exec (.mciIdentify via input) s = execMciIdentify via input s := rfl
@[simp] theorem exec_ctxSelect (via : Path) (input : List Byte) (s : State) :
    exec (.ctxSelect via input) s = execCtxSelect via input s := rfl
@[simp] theorem exec_patLoad (via : Path) (input : List Byte) (s : State) :
    exec (.patLoad via input) s = execPatLoad via input s := rfl
@[simp] theorem exec_patUnload (via : Path) (input : List Byte) (s : State) :
    exec (.patUnload via input) s = execPatUnload via input s := rfl
@[simp] theorem exec_patBind (via : Path) (input : List Byte) (s : State) :
    exec (.patBind via input) s = execPatBind via input s := rfl
@[simp] theorem exec_patUnbind (via : Path) (input : List Byte) (s : State) :
    exec (.patUnbind via input) s = execPatUnbind via input s := rfl
@[simp] theorem exec_objCreate (via : Path) (input : List Byte) (s : State) :
    exec (.objCreate via input) s = execObjCreate via input s := rfl
@[simp] theorem exec_objDelete (via : Path) (input : List Byte) (s : State) :
    exec (.objDelete via input) s = execObjDelete via input s := rfl
@[simp] theorem exec_objSetClass (via : Path) (input : List Byte) (s : State) :
    exec (.objSetClass via input) s = execObjSetClass via input s := rfl
@[simp] theorem exec_objQuery (via : Path) (input : List Byte) (s : State) :
    exec (.objQuery via input) s = execObjQuery via input s := rfl
@[simp] theorem exec_winCreate (via : Path) (input : List Byte) (s : State) :
    exec (.winCreate via input) s = execWinCreate via input s := rfl
@[simp] theorem exec_winDelete (via : Path) (input : List Byte) (s : State) :
    exec (.winDelete via input) s = execWinDelete via input s := rfl
@[simp] theorem exec_verInit (via : Path) (input : List Byte) (s : State) :
    exec (.verInit via input) s = execVerInit via input s := rfl
@[simp] theorem exec_verDraft (via : Path) (input : List Byte) (s : State) :
    exec (.verDraft via input) s = execVerDraft via input s := rfl
@[simp] theorem exec_verPublish (via : Path) (input : List Byte) (s : State) :
    exec (.verPublish via input) s = execVerPublish via input s := rfl
@[simp] theorem exec_verRebase (via : Path) (input : List Byte) (s : State) :
    exec (.verRebase via input) s = execVerRebase via input s := rfl
@[simp] theorem exec_verDiscard (via : Path) (input : List Byte) (s : State) :
    exec (.verDiscard via input) s = execVerDiscard via input s := rfl
@[simp] theorem exec_verOpen (via : Path) (input : List Byte) (s : State) :
    exec (.verOpen via input) s = execVerOpen via input s := rfl
@[simp] theorem exec_verClose (via : Path) (input : List Byte) (s : State) :
    exec (.verClose via input) s = execVerClose via input s := rfl
@[simp] theorem exec_verQuery (via : Path) (input : List Byte) (s : State) :
    exec (.verQuery via input) s = execVerQuery via input s := rfl
@[simp] theorem exec_leaseRenew (via : Path) (input : List Byte) (s : State) :
    exec (.leaseRenew via input) s = execLeaseRenew via input s := rfl
@[simp] theorem exec_leaseSet (via : Path) (input : List Byte) (s : State) :
    exec (.leaseSet via input) s = execLeaseSet via input s := rfl
@[simp] theorem exec_leaseExpiry (c : Ctx) (s : State) : exec (.leaseExpiry c) s = execLeaseExpiry c s := rfl
@[simp] theorem exec_codecOpen (via : Path) (input : List Byte) (s : State) :
    exec (.codecOpen via input) s = execCodecOpen via input s := rfl
@[simp] theorem exec_codecClose (via : Path) (input : List Byte) (s : State) :
    exec (.codecClose via input) s = execCodecClose via input s := rfl
@[simp] theorem exec_dramOrderSet (via : Path) (input : List Byte) (s : State) :
    exec (.dramOrderSet via input) s = execDramOrderSet via input s := rfl
@[simp] theorem exec_dramSpare (via : Path) (input : List Byte) (s : State) :
    exec (.dramSpare via input) s = execDramSpare via input s := rfl
@[simp] theorem exec_cartQuery (via : Path) (input : List Byte) (s : State) :
    exec (.cartQuery via input) s = execCartQuery via input s := rfl
@[simp] theorem exec_cartRetire (via : Path) (input : List Byte) (s : State) :
    exec (.cartRetire via input) s = execCartRetire via input s := rfl
@[simp] theorem exec_ledgerSet (via : Path) (input : List Byte) (s : State) :
    exec (.ledgerSet via input) s = execLedgerSet via input s := rfl
@[simp] theorem exec_ledgerQuery (via : Path) (input : List Byte) (s : State) :
    exec (.ledgerQuery via input) s = execLedgerQuery via input s := rfl
@[simp] theorem exec_modeSet (via : Path) (input : List Byte) (s : State) :
    exec (.modeSet via input) s = execModeSet via input s := rfl
@[simp] theorem exec_modeQuery (via : Path) (input : List Byte) (s : State) :
    exec (.modeQuery via input) s = execModeQuery via input s := rfl
@[simp] theorem exec_srcidSet (via : Path) (input : List Byte) (s : State) :
    exec (.srcidSet via input) s = execSrcidSet via input s := rfl
@[simp] theorem exec_portRoleSet (via : Path) (input : List Byte) (s : State) :
    exec (.portRoleSet via input) s = execPortRoleSet via input s := rfl
@[simp] theorem exec_swapGrant (via : Path) (input : List Byte) (s : State) :
    exec (.swapGrant via input) s = execSwapGrant via input s := rfl
@[simp] theorem exec_regRead (via : Path) (input : List Byte) (s : State) :
    exec (.regRead via input) s = execRegRead via input s := rfl
@[simp] theorem exec_regWrite (via : Path) (input : List Byte) (s : State) :
    exec (.regWrite via input) s = execRegWrite via input s := rfl
@[simp] theorem exec_keySet (via : Path) (input : List Byte) (s : State) :
    exec (.keySet via input) s = execKeySet via input s := rfl
@[simp] theorem exec_keyClear (via : Path) (input : List Byte) (s : State) :
    exec (.keyClear via input) s = execKeyClear via input s := rfl
@[simp] theorem exec_ctxUnpick (via : Path) (input : List Byte) (s : State) :
    exec (.ctxUnpick via input) s = execCtxUnpick via input s := rfl
@[simp] theorem exec_quarantineRelease (via : Path) (input : List Byte) (s : State) :
    exec (.quarantineRelease via input) s = execQuarantineRelease via input s := rfl
@[simp] theorem exec_resetRequest (via : Path) (input : List Byte) (s : State) :
    exec (.resetRequest via input) s = execResetRequest via input s := rfl
@[simp] theorem exec_identifyMemoryDevice (p : Port) (secondary : Bool) (input : List Byte) (s : State) :
    exec (.identifyMemoryDevice p secondary input) s = execIdentifyMemoryDevice p secondary input s := rfl
@[simp] theorem exec_getSupportedLogs (p : Port) (secondary : Bool) (input : List Byte) (s : State) :
    exec (.getSupportedLogs p secondary input) s = execGetSupportedLogs p secondary input s := rfl
@[simp] theorem exec_getLog (p : Port) (secondary : Bool) (input : List Byte) (s : State) :
    exec (.getLog p secondary input) s = execGetLog p secondary input s := rfl
@[simp] theorem exec_getEventRecords (p : Port) (secondary : Bool) (input : List Byte) (s : State) :
    exec (.getEventRecords p secondary input) s = execGetEventRecords p secondary input s := rfl
@[simp] theorem exec_clearEventRecords (p : Port) (secondary : Bool) (input : List Byte) (s : State) :
    exec (.clearEventRecords p secondary input) s = execClearEventRecords p secondary input s := rfl
@[simp] theorem exec_getEventInterruptPolicy (p : Port) (secondary : Bool) (input : List Byte) (s : State) :
    exec (.getEventInterruptPolicy p secondary input) s = execGetEventInterruptPolicy p secondary input s := rfl
@[simp] theorem exec_setEventInterruptPolicy (p : Port) (secondary : Bool) (input : List Byte) (s : State) :
    exec (.setEventInterruptPolicy p secondary input) s = execSetEventInterruptPolicy p secondary input s := rfl
@[simp] theorem exec_getTimestamp (p : Port) (secondary : Bool) (input : List Byte) (s : State) :
    exec (.getTimestamp p secondary input) s = execGetTimestamp p secondary input s := rfl
@[simp] theorem exec_setTimestamp (p : Port) (secondary : Bool) (input : List Byte) (s : State) :
    exec (.setTimestamp p secondary input) s = execSetTimestamp p secondary input s := rfl
@[simp] theorem exec_getDcConfiguration (p : Port) (secondary : Bool) (input : List Byte) (s : State) :
    exec (.getDcConfiguration p secondary input) s = execGetDcConfiguration p secondary input s := rfl
@[simp] theorem exec_getDcExtentList (p : Port) (secondary : Bool) (input : List Byte) (s : State) :
    exec (.getDcExtentList p secondary input) s = execGetDcExtentList p secondary input s := rfl
@[simp] theorem exec_addDcResponse (p : Port) (secondary : Bool) (base : DWord) (length : DWord) (accept : Bool) (s : State) :
    exec (.addDcResponse p secondary base length accept) s = execAddDcResponse p secondary base length accept s := rfl
@[simp] theorem exec_releaseDc (p : Port) (secondary : Bool) (base : DWord) (length : DWord) (s : State) :
    exec (.releaseDc p secondary base length) s = execReleaseDc p secondary base length s := rfl
@[simp] theorem exec_fmDcAdd (n : Fin 2) (host : BitVec 16) (base : DWord) (length : DWord) (tag : BitVec 128) (shareable : Bool) (s : State) :
    exec (.fmDcAdd n host base length tag shareable) s = execFmDcAdd n host base length tag shareable s := rfl
@[simp] theorem exec_fmDcWithdraw (n : Fin 2) (host : BitVec 16) (base : DWord) (length : DWord) (s : State) :
    exec (.fmDcWithdraw n host base length) s = execFmDcWithdraw n host base length s := rfl
@[simp] theorem exec_fmDcForceRelease (n : Fin 2) (host : BitVec 16) (base : DWord) (length : DWord) (s : State) :
    exec (.fmDcForceRelease n host base length) s = execFmDcForceRelease n host base length s := rfl
@[simp] theorem exec_dcOfferTimeout (c : Ctx) (base : DWord) (s : State) :
    exec (.dcOfferTimeout c base) s = execDcOfferTimeout c base s := rfl
@[simp] theorem exec_grantReleaseComplete (c : Ctx) (base : DWord) (s : State) :
    exec (.grantReleaseComplete c base) s = execGrantReleaseComplete c base s := rfl
@[simp] theorem exec_transferFw (via : Path) (action : BitVec 8) (slot : BitVec 8) (offset : Word) (data : List Byte) (s : State) :
    exec (.transferFw via action slot offset data) s = execTransferFw via action slot offset data s := rfl
@[simp] theorem exec_activateFw (via : Path) (action : BitVec 8) (slot : BitVec 8) (s : State) :
    exec (.activateFw via action slot) s = execActivateFw via action slot s := rfl
@[simp] theorem exec_fwStoreWriteDone (s : State) : exec .fwStoreWriteDone s = execFwStoreWriteDone s := rfl
@[simp] theorem exec_kekSet (m : SpdmMsg) (s : State) : exec (.kekSet m) s = execKekSet m s := rfl
@[simp] theorem exec_kekClear (m : SpdmMsg) (s : State) : exec (.kekClear m) s = execKekClear m s := rfl
@[simp] theorem exec_getVersion (m : SpdmMsg) (s : State) : exec (.getVersion m) s = execGetVersion m s := rfl
@[simp] theorem exec_getCapabilities (m : SpdmMsg) (s : State) :
    exec (.getCapabilities m) s = execGetCapabilities m s := rfl
@[simp] theorem exec_negotiateAlgorithms (m : SpdmMsg) (s : State) :
    exec (.negotiateAlgorithms m) s = execNegotiateAlgorithms m s := rfl
@[simp] theorem exec_getDigests (m : SpdmMsg) (s : State) : exec (.getDigests m) s = execGetDigests m s := rfl
@[simp] theorem exec_getCertificate (m : SpdmMsg) (s : State) :
    exec (.getCertificate m) s = execGetCertificate m s := rfl
@[simp] theorem exec_challenge (m : SpdmMsg) (s : State) : exec (.challenge m) s = execChallenge m s := rfl
@[simp] theorem exec_getMeasurements (m : SpdmMsg) (s : State) :
    exec (.getMeasurements m) s = execGetMeasurements m s := rfl
@[simp] theorem exec_keyExchange (m : SpdmMsg) (s : State) : exec (.keyExchange m) s = execKeyExchange m s := rfl
@[simp] theorem exec_finish (m : SpdmMsg) (s : State) : exec (.finish m) s = execFinish m s := rfl
@[simp] theorem exec_heartbeat (m : SpdmMsg) (s : State) : exec (.heartbeat m) s = execHeartbeat m s := rfl
@[simp] theorem exec_keyUpdate (m : SpdmMsg) (s : State) : exec (.keyUpdate m) s = execKeyUpdate m s := rfl
@[simp] theorem exec_endSession (m : SpdmMsg) (s : State) : exec (.endSession m) s = execEndSession m s := rfl
@[simp] theorem exec_chunkSend (m : SpdmMsg) (s : State) : exec (.chunkSend m) s = execChunkSend m s := rfl
@[simp] theorem exec_chunkGet (m : SpdmMsg) (s : State) : exec (.chunkGet m) s = execChunkGet m s := rfl
@[simp] theorem exec_spdmSignatureDone (s : State) : exec .spdmSignatureDone s = execSpdmSignatureDone s := rfl
@[simp] theorem exec_ideKmQuery (m : IdeMsg) (s : State) : exec (.ideKmQuery m) s = execIdeKmQuery m s := rfl
@[simp] theorem exec_ideKmKeyProg (m : IdeMsg) (s : State) : exec (.ideKmKeyProg m) s = execIdeKmKeyProg m s := rfl
@[simp] theorem exec_ideKmKSetGo (m : IdeMsg) (s : State) : exec (.ideKmKSetGo m) s = execIdeKmKSetGo m s := rfl
@[simp] theorem exec_ideKmKSetStop (m : IdeMsg) (s : State) : exec (.ideKmKSetStop m) s = execIdeKmKSetStop m s := rfl
@[simp] theorem exec_cxlQuery (m : IdeMsg) (s : State) : exec (.cxlQuery m) s = execCxlQuery m s := rfl
@[simp] theorem exec_cxlKeyProg (m : IdeMsg) (s : State) : exec (.cxlKeyProg m) s = execCxlKeyProg m s := rfl
@[simp] theorem exec_cxlKSetGo (m : IdeMsg) (s : State) : exec (.cxlKSetGo m) s = execCxlKSetGo m s := rfl
@[simp] theorem exec_cxlKSetStop (m : IdeMsg) (s : State) : exec (.cxlKSetStop m) s = execCxlKSetStop m s := rfl
@[simp] theorem exec_cxlGetkey (m : IdeMsg) (s : State) : exec (.cxlGetkey m) s = execCxlGetkey m s := rfl
@[simp] theorem exec_linkUp (p : Port) (rate : BitVec 3) (width : BitVec 2) (flit256 : Bool) (pbr : Bool) (bi : Bool) (revasEcho : Bool) (s : State) :
    exec (.linkUp p rate width flit256 pbr bi revasEcho) s = execLinkUp p rate width flit256 pbr bi revasEcho s := rfl
@[simp] theorem exec_linkDown (p : Port) (s : State) : exec (.linkDown p) s = execLinkDown p s := rfl
@[simp] theorem exec_linkRecoveryEntry (p : Port) (equalisationFailed : Bool) (s : State) :
    exec (.linkRecoveryEntry p equalisationFailed) s = execLinkRecoveryEntry p equalisationFailed s := rfl
@[simp] theorem exec_busMasterEnableClear (f : Fn) (s : State) :
    exec (.busMasterEnableClear f) s = execBusMasterEnableClear f s := rfl
@[simp] theorem exec_vfFunctionLevelReset (c : Ctx) (s : State) :
    exec (.vfFunctionLevelReset c) s = execVfFunctionLevelReset c s := rfl
@[simp] theorem exec_vfEnableClear (p : Port) (numVfs : BitVec 7) (s : State) :
    exec (.vfEnableClear p numVfs) s = execVfEnableClear p numVfs s := rfl
@[simp] theorem exec_pfFunctionLevelReset (p : Port) (s : State) :
    exec (.pfFunctionLevelReset p) s = execPfFunctionLevelReset p s := rfl
@[simp] theorem exec_perstAssert (p : Port) (s : State) : exec (.perstAssert p) s = execPerstAssert p s := rfl
@[simp] theorem exec_perstRelease (p : Port) (s : State) : exec (.perstRelease p) s = execPerstRelease p s := rfl
@[simp] theorem exec_stackSensorRead (t : Cluster) (tenths : List (Option Int)) (s : State) :
    exec (.stackSensorRead t tenths) s = execStackSensorRead t tenths s := rfl
@[simp] theorem exec_thermalSensorRead (baseA : List (Option Int)) (baseB : List (Option Int)) (hub : List (Option Int)) (s : State) :
    exec (.thermalSensorRead baseA baseB hub) s = execThermalSensorRead baseA baseB hub s := rfl
@[simp] theorem exec_calWindowClose (t : Cluster) (h : Chan) (lane : Fin 32) (early : BitVec 13) (late : BitVec 13) (s : State) :
    exec (.calWindowClose t h lane early late) s = execCalWindowClose t h lane early late s := rfl
@[simp] theorem exec_rankRowCopy (t : Cluster) (h : Chan) (s : State) :
    exec (.rankRowCopy t h) s = execRankRowCopy t h s := rfl
@[simp] theorem exec_scrubInterval (t : Cluster) (h : Chan) (s : State) :
    exec (.scrubInterval t h) s = execScrubInterval t h s := rfl
@[simp] theorem exec_directedScrub (t : Cluster) (h : Chan) (s : State) :
    exec (.directedScrub t h) s = execDirectedScrub t h s := rfl
@[simp] theorem exec_bucketLeak (s : State) : exec .bucketLeak s = execBucketLeak s := rfl
@[simp] theorem exec_rowSpareCopyDone (t : Cluster) (h : Chan) (rank : Fin 17) (bank : Fin 16) (s : State) :
    exec (.rowSpareCopyDone t h rank bank) s = execRowSpareCopyDone t h rank bank s := rfl
@[simp] theorem exec_columnSpareWalkDone (t : Cluster) (h : Chan) (rank : Fin 17) (bank : Fin 16) (s : State) :
    exec (.columnSpareWalkDone t h rank bank) s = execColumnSpareWalkDone t h rank bank s := rfl
@[simp] theorem exec_bayPresence (b : Bay) (cart : Cartridge) (s : State) :
    exec (.bayPresence b cart) s = execBayPresence b cart s := rfl
@[simp] theorem exec_bayPresenceLost (b : Bay) (s : State) :
    exec (.bayPresenceLost b) s = execBayPresenceLost b s := rfl
@[simp] theorem exec_bayLatchOpen (b : Bay) (s : State) : exec (.bayLatchOpen b) s = execBayLatchOpen b s := rfl
@[simp] theorem exec_latchPowerRemove (b : Bay) (s : State) :
    exec (.latchPowerRemove b) s = execLatchPowerRemove b s := rfl
@[simp] theorem exec_cartVerifyComplete (b : Bay) (parameterPageAgrees : Bool) (rates : List (Option (BitVec 2))) (s : State) :
    exec (.cartVerifyComplete b parameterPageAgrees rates) s = execCartVerifyComplete b parameterPageAgrees rates s := rfl
@[simp] theorem exec_channelStatusTimeout (b : Bay) (s : State) :
    exec (.channelStatusTimeout b) s = execChannelStatusTimeout b s := rfl
@[simp] theorem exec_codewordFailureLimit (b : Bay) (s : State) :
    exec (.codewordFailureLimit b) s = execCodewordFailureLimit b s := rfl
@[simp] theorem exec_ledgerWrite (b : Bay) (s : State) : exec (.ledgerWrite b) s = execLedgerWrite b s := rfl
@[simp] theorem exec_eolRepeat (b : Bay) (s : State) : exec (.eolRepeat b) s = execEolRepeat b s := rfl
@[simp] theorem exec_rebuildStripe (s : State) : exec .rebuildStripe s = execRebuildStripe s := rfl
@[simp] theorem exec_rebuildJournalWrite (s : State) : exec .rebuildJournalWrite s = execRebuildJournalWrite s := rfl
@[simp] theorem exec_rebuildDone (s : State) : exec .rebuildDone s = execRebuildDone s := rfl
@[simp] theorem exec_xwaitLimit (k : CoreId) (s : State) : exec (.xwaitLimit k) s = execXwaitLimit k s := rfl
@[simp] theorem exec_engineStuck (k : CoreId) (sEngine : Bool) (s : State) :
    exec (.engineStuck k sEngine) s = execEngineStuck k sEngine s := rfl
@[simp] theorem exec_unpickStalled (k : CoreId) (s : State) : exec (.unpickStalled k) s = execUnpickStalled k s := rfl
@[simp] theorem exec_clusterHeartbeatMiss (c : Cluster) (s : State) :
    exec (.clusterHeartbeatMiss c) s = execClusterHeartbeatMiss c s := rfl
@[simp] theorem exec_exchangeStuck (c : Cluster) (s : State) :
    exec (.exchangeStuck c) s = execExchangeStuck c s := rfl
@[simp] theorem exec_stackHeartbeatMiss (t : Cluster) (s : State) :
    exec (.stackHeartbeatMiss t) s = execStackHeartbeatMiss t s := rfl
@[simp] theorem exec_dieHeartbeatMiss (d : Fin 3) (s : State) :
    exec (.dieHeartbeatMiss d) s = execDieHeartbeatMiss d s := rfl
@[simp] theorem exec_hubBlockStall (s : State) : exec .hubBlockStall s = execHubBlockStall s := rfl
@[simp] theorem exec_commandProgressTimeout (c : Ctx) (tag : Word) (s : State) :
    exec (.commandProgressTimeout c tag) s = execCommandProgressTimeout c tag s := rfl
@[simp] theorem exec_stewardWatchdog (s : State) : exec .stewardWatchdog s = execStewardWatchdog s := rfl
@[simp] theorem exec_unpickComplete (c : Ctx) (s : State) : exec (.unpickComplete c) s = execUnpickComplete c s := rfl
@[simp] theorem exec_resetComplete (u : ResetUnit) (s : State) :
    exec (.resetComplete u) s = execResetComplete u s := rfl
@[simp] theorem exec_resetEscalate (u : ResetUnit) (s : State) :
    exec (.resetEscalate u) s = execResetEscalate u s := rfl
@[simp] theorem exec_replayArm (s : State) : exec .replayArm s = execReplayArm s := rfl
@[simp] theorem exec_packageReset (s : State) : exec .packageReset s = execPackageReset s := rfl
@[simp] theorem exec_startupStageComplete (r : StageResult) (ms : BitVec 16) (s : State) :
    exec (.startupStageComplete r ms) s = execStartupStageComplete r ms s := rfl
@[simp] theorem exec_domainPowerUpDone (d : Fin 80) (s : State) :
    exec (.domainPowerUpDone d) s = execDomainPowerUpDone d s := rfl
@[simp] theorem exec_inputReading (mv : BitVec 16) (deciamps : BitVec 16) (mean1s : BitVec 12) (mean10ms : BitVec 12) (s : State) :
    exec (.inputReading mv deciamps mean1s mean10ms) s = execInputReading mv deciamps mean1s mean10ms s := rfl
@[simp] theorem exec_inputPowerFault (s : State) : exec .inputPowerFault s = execInputPowerFault s := rfl
@[simp] theorem exec_mrefLoss (s : State) : exec .mrefLoss s = execMrefLoss s := rfl
@[simp] theorem exec_mrefStable (s : State) : exec .mrefStable s = execMrefStable s := rfl
@[simp] theorem exec_pwrEnRise (s : State) : exec .pwrEnRise s = execPwrEnRise s := rfl
@[simp] theorem exec_pwrEnFall (s : State) : exec .pwrEnFall s = execPwrEnFall s := rfl
@[simp] theorem exec_modRstFall (s : State) : exec .modRstFall s = execModRstFall s := rfl
@[simp] theorem exec_modRstRise (s : State) : exec .modRstRise s = execModRstRise s := rfl
@[simp] theorem exec_sidebandAlertRepeat (n : Fin 2) (s : State) :
    exec (.sidebandAlertRepeat n) s = execSidebandAlertRepeat n s := rfl
@[simp] theorem exec_vfEnableSet (p : Port) (numVfs : BitVec 7) (s : State) :
    exec (.vfEnableSet p numVfs) s = execVfEnableSet p numVfs s := rfl
@[simp] theorem exec_busMasterEnableSet (f : Fn) (s : State) :
    exec (.busMasterEnableSet f) s = execBusMasterEnableSet f s := rfl
@[simp] theorem exec_ptmEnableWrite (p : Port) (enable : Bool) (s : State) :
    exec (.ptmEnableWrite p enable) s = execPtmEnableWrite p enable s := rfl
@[simp] theorem exec_linkRetrainComplete (p : Port) (rate : BitVec 3) (s : State) :
    exec (.linkRetrainComplete p rate) s = execLinkRetrainComplete p rate s := rfl
@[simp] theorem exec_functionResetComplete (f : Fn) (s : State) :
    exec (.functionResetComplete f) s = execFunctionResetComplete f s := rfl
@[simp] theorem exec_endpointIdAssignment (n : Fin 2) (eid : BitVec 8) (s : State) :
    exec (.endpointIdAssignment n eid) s = execEndpointIdAssignment n eid s := rfl

end Sys2Proof.Machine
end

