-- ==== Sys2Proof/Laws/Issue.lean ====
section
/-! SUPPORT. What a command of a core's T, S or X field does when the core's sequencer issues it, and when it does not. -/

namespace Sys2Proof.Machine

/-- A core as one of its instructions leaves it. -/
theorem runCore_becomes (s : State) (k : CoreId) (f : CoreState → CoreState) :
    coreBecomes s (s.runCore k.val f) k (f (s.core k.val)) := by
  refine ⟨by rw [State.core_runCore]; simp, ?_, rfl⟩
  intro j hj
  rw [State.core_runCore, if_neg hj]

/-- A T-field command that the core issues. -/
theorem issue_becomes (s : State) (k : CoreId) (i : Instr) (f : CoreState → CoreState) (h : mayIssue s k i = true) :
    coreBecomes s (s.issue k i f) k (f (s.core k.val)) := by
  rw [State.issue, if_pos h]
  exact runCore_becomes s k f

/-- A T-field command that the core does not issue. -/
theorem issue_not (s : State) (k : CoreId) (i : Instr) (f : CoreState → CoreState) (h : mayIssue s k i = false) :
    s.issue k i f = s := by
  rw [State.issue, if_neg (by simp [h])]

/-- An S-field command that the core issues to a free S-engine. -/
theorem onS_takes (s : State) (k : CoreId) (i : Instr) (n : Nat) (f : CoreState → CoreState) (h : sTakes s k i) :
    ∃ t, onS i k n f s = .next t ∧
      coreBecomes s t k { f (s.core k.val) with sBusy := (s.core k.val).cyc + n, turn := .x } := by
  refine ⟨_, rfl, ?_⟩
  have e := issue_becomes s k i (fun c => issueS c n f) h.1
  simpa [issueS, h.2] using e

/-- The messages that leave a core stand under the next numbers, in their order. -/
theorem postMsg_all (ms : List XMsg) : ∀ s : State,
    ms.foldl postMsg s = { s with msgs := (ms.foldl postMsg s).msgs, nextMsg := s.nextMsg + ms.length } ∧
    ∀ n, mget? (ms.foldl postMsg s).msgs n =
      if s.nextMsg ≤ n ∧ n < s.nextMsg + ms.length then ms[n - s.nextMsg]? else mget? s.msgs n := by
  induction ms with
  | nil => intro s; simp
  | cons m ms ih =>
    intro s
    obtain ⟨h1, h2⟩ := ih (postMsg s m)
    refine ⟨?_, ?_⟩
    · rw [List.foldl_cons, h1]
      simp [postMsg, Nat.add_assoc, Nat.add_comm 1]
    · intro n
      rw [List.foldl_cons, h2 n]
      simp only [postMsg, mget?_mput', List.length_cons]
      by_cases e : n = s.nextMsg
      · subst e; simp
      · by_cases h : s.nextMsg + 1 ≤ n ∧ n < s.nextMsg + 1 + ms.length
        · rw [if_pos h, if_pos (by omega)]
          obtain ⟨d, rfl⟩ : ∃ d, n = s.nextMsg + 1 + d := ⟨n - s.nextMsg - 1, by omega⟩
          rw [show s.nextMsg + 1 + d - (s.nextMsg + 1) = d by omega, show s.nextMsg + 1 + d - s.nextMsg = d + 1 by omega]
          rfl
        · rw [if_neg h, if_neg e, if_neg (by omega)]

/-- An X-field command that the core issues: the core becomes what it says, and what it has sent leaves it. -/
theorem onX_sends (s : State) (k : CoreId) (i : Instr) (f : CoreState → CoreState) (h : mayIssue s k i = true) :
    ∃ t, onX i k f s = .next t ∧ coreSends s t k (f (s.core k.val)) := by
  refine ⟨_, by rw [onX, if_pos h], ?_⟩
  have e := runCore_becomes s k f
  generalize s.runCore k.val f = r at e
  obtain ⟨e1, e2, e3⟩ := e
  have m : r.modCore k.val (fun c => { c with sent := [] }) =
      { s with cores := (r.modCore k.val (fun c => { c with sent := [] })).cores } :=
    congrArg (fun z => ({ z with cores := (r.modCore k.val (fun c => { c with sent := [] })).cores } : State)) e3
  have core : ∀ j, (r.modCore k.val (fun c => { c with sent := [] })).core j =
      if j = k.val then { r.core k.val with sent := [] } else r.core j := by
    intro j
    rw [State.core_modCore]
  rw [State.collect, ← e1]
  unfold coreSends
  generalize (r.core k.val).sent = ms
  generalize r.modCore k.val (fun c => { c with sent := [] }) = u at m core
  obtain ⟨p1, p2⟩ := postMsg_all ms u
  have cores : (ms.foldl postMsg u).cores = u.cores := by rw [p1]
  have n1 : u.nextMsg = s.nextMsg := by rw [m]
  have n2 : u.msgs = s.msgs := by rw [m]
  rw [n1, n2] at p2
  refine ⟨?_, ?_, ?_, p2⟩
  · rw [State.core, cores, ← State.core, core, if_pos rfl]
  · intro j hj
    rw [State.core, cores, ← State.core, core, if_neg hj, e2 j hj, e1]
  · rw [n1] at p1
    refine p1.trans ?_
    have q := congrArg (fun z => ({ z with msgs := (ms.foldl postMsg u).msgs, nextMsg := s.nextMsg + ms.length } : State)) m
    refine q.trans ?_
    simp only [cores]

/-- An X-field command that the core does not issue. -/
theorem onX_not (s : State) (k : CoreId) (i : Instr) (f : CoreState → CoreState) (h : mayIssue s k i = false) :
    onX i k f s = .next s := by
  rw [onX, if_neg (by simp [h])]

end Sys2Proof.Machine
end

