-- ==== Sys2Proof/Laws/Kept.lean ====
section
/-! SUPPORT. What every operation of the model keeps: the queue of commands, and the canonical form of the DRAM's
bytes. -/

namespace Sys2Proof.Machine

/-- From `s` to `t` the queue is the same, and a canonical memory stays canonical. -/
structure Kept (s t : State) : Prop where
  queue : t.pending = s.pending
  mem : Memory.wf s.dram = true → Memory.wf t.dram = true

theorem Kept.refl (s : State) : Kept s s := ⟨rfl, id⟩

theorem Kept.trans {s t u : State} (h : Kept s t) (k : Kept t u) : Kept s u :=
  ⟨k.queue.trans h.queue, fun w => k.mem (h.mem w)⟩

/-- A state with the queue and the memory of another keeps what that one keeps. -/
theorem Kept.upd {s0 x : State}
    {f_out : List Output} {f_free : Nat} {f_regs : AMap DWord} {f_eff : AMap DWord} {f_counts : AMap Nat}
    {f_merged : AMap (Nat × Nat × List Word)} {f_ft : FtState} {f_ports : AMap PortState} {f_ctxs : AMap CtxState}
    {f_owner : Option Port} {f_srcTab : AMap SrcEntry} {f_srcStaged : AMap SrcEntry} {f_srcDue : Bool}
    {f_srcGen : BitVec 16} {f_sbCtx : AMap Nat} {f_eids : AMap (BitVec 8)} {f_extents : AMap Extent}
    {f_objects : AMap Obj} {f_contents : AMap Content} {f_nextContent : Nat} {f_pages : AMap Page}
    {f_frames : AMap FrameUse} {f_light : List Nat} {f_unitsUsed : Nat} {f_recSeq : DWord} {f_flashLow : Bool}
    {f_pressed : List Nat} {f_pins : List Nat} {f_scheduled : List (Nat × Nat × MoverCmd)} {f_moveSeq : Nat}
    {f_views : AMap View} {f_nextView : Nat} {f_windows : AMap Window} {f_nextWindow : Nat}
    {f_directory : AMap DirEntry} {f_dirSeq : Nat} {f_eager : Bool} {f_windowDirty : AMap Nat} {f_waits : List Waiting}
    {f_orders : AMap (BitVec 2 × Bool)} {f_poison : List Nat} {f_hint : List Nat} {f_badCode : List Nat}
    {f_seals : AMap Word} {f_cellErr : AMap (List Nat)} {f_steer : AMap Bool} {f_chans : AMap ChanState}
    {f_stackSt : AMap StackState} {f_lastErr : DWord} {f_patterns : AMap Pattern} {f_nextPattern : Nat}
    {f_bindings : AMap Binding} {f_nextBinding : Nat} {f_cues : AMap Cue} {f_nextCue : Nat} {f_epoch : BitVec 16}
    {f_cores : AMap CoreState} {f_msgs : AMap XMsg} {f_nextMsg : Nat} {f_reds : List RedState} {f_redDone : AMap Nat}
    {f_stale : AMap Nat} {f_chanCodec : AMap CodecChan} {f_nextChan : Nat} {f_upstream : List Upstream}
    {f_nmWaits : List (Ctx × Line)} {f_bays : AMap BayState} {f_walk : Option Walk} {f_vacated : BitVec 8}
    {f_stripes : AMap Stripe} {f_nextStripe : Nat} {f_broken : Bool} {f_linkArbs : AMap Arb}
    {f_ledger : List LedgerEntry} {f_ledgerNext : Option (List LedgerEntry)} {f_shrunk : Bool} {f_shrunkAt : Nat}
    {f_recompute : Nat} {f_keys : AMap KeySlot} {f_keks : AMap (BitVec 256)} {f_ide : AMap IdeStream}
    {f_fwStore : Option FwImage} {f_fwBad : Bool} {f_fwRun : Option FwImage} {f_fwXfer : Option (List Byte)}
    {f_fwWrite : Option (FwImage × Path)} {f_svnFloor : Nat} {f_revoked : List Nat} {f_spdm : AMap SpdmConn}
    {f_signQueue : List SignJob} {f_aliasReady : Bool} {f_pw : PwState} {f_rv : RvState}
    {f_lockWaits : List (Nat × MciCall)} {f_pubs : List (Nat × Nat × Path × Word)} {f_faultPin : Bool}
    {f_thermPin : Bool} {f_baySafe : BitVec 9}
    (h : Kept s0 x) : Kept s0 (State.mk
      x.pending f_out f_free f_regs f_eff f_counts f_merged f_ft f_ports f_ctxs f_owner f_srcTab f_srcStaged f_srcDue
      f_srcGen f_sbCtx f_eids f_extents f_objects f_contents f_nextContent f_pages f_frames f_light f_unitsUsed f_recSeq
      f_flashLow f_pressed f_pins f_scheduled f_moveSeq f_views f_nextView f_windows f_nextWindow f_directory f_dirSeq
      f_eager f_windowDirty f_waits f_orders x.dram f_poison f_hint f_badCode f_seals f_cellErr f_steer f_chans
      f_stackSt f_lastErr f_patterns f_nextPattern f_bindings f_nextBinding f_cues f_nextCue f_epoch f_cores f_msgs
      f_nextMsg f_reds f_redDone f_stale f_chanCodec f_nextChan f_upstream f_nmWaits f_bays f_walk f_vacated f_stripes
      f_nextStripe f_broken f_linkArbs f_ledger f_ledgerNext f_shrunk f_shrunkAt f_recompute f_keys f_keks f_ide
      f_fwStore f_fwBad f_fwRun f_fwXfer f_fwWrite f_svnFloor f_revoked f_spdm f_signQueue f_aliasReady f_pw f_rv
      f_lockWaits f_pubs f_faultPin f_thermPin f_baySafe) :=
  ⟨h.queue, h.mem⟩

/-- So does one whose memory has bytes written. -/
theorem Kept.writes {s0 x : State}
    {f_out : List Output} {f_free : Nat} {f_regs : AMap DWord} {f_eff : AMap DWord} {f_counts : AMap Nat}
    {f_merged : AMap (Nat × Nat × List Word)} {f_ft : FtState} {f_ports : AMap PortState} {f_ctxs : AMap CtxState}
    {f_owner : Option Port} {f_srcTab : AMap SrcEntry} {f_srcStaged : AMap SrcEntry} {f_srcDue : Bool}
    {f_srcGen : BitVec 16} {f_sbCtx : AMap Nat} {f_eids : AMap (BitVec 8)} {f_extents : AMap Extent}
    {f_objects : AMap Obj} {f_contents : AMap Content} {f_nextContent : Nat} {f_pages : AMap Page}
    {f_frames : AMap FrameUse} {f_light : List Nat} {f_unitsUsed : Nat} {f_recSeq : DWord} {f_flashLow : Bool}
    {f_pressed : List Nat} {f_pins : List Nat} {f_scheduled : List (Nat × Nat × MoverCmd)} {f_moveSeq : Nat}
    {f_views : AMap View} {f_nextView : Nat} {f_windows : AMap Window} {f_nextWindow : Nat}
    {f_directory : AMap DirEntry} {f_dirSeq : Nat} {f_eager : Bool} {f_windowDirty : AMap Nat} {f_waits : List Waiting}
    {f_orders : AMap (BitVec 2 × Bool)} {f_poison : List Nat} {f_hint : List Nat} {f_badCode : List Nat}
    {f_seals : AMap Word} {f_cellErr : AMap (List Nat)} {f_steer : AMap Bool} {f_chans : AMap ChanState}
    {f_stackSt : AMap StackState} {f_lastErr : DWord} {f_patterns : AMap Pattern} {f_nextPattern : Nat}
    {f_bindings : AMap Binding} {f_nextBinding : Nat} {f_cues : AMap Cue} {f_nextCue : Nat} {f_epoch : BitVec 16}
    {f_cores : AMap CoreState} {f_msgs : AMap XMsg} {f_nextMsg : Nat} {f_reds : List RedState} {f_redDone : AMap Nat}
    {f_stale : AMap Nat} {f_chanCodec : AMap CodecChan} {f_nextChan : Nat} {f_upstream : List Upstream}
    {f_nmWaits : List (Ctx × Line)} {f_bays : AMap BayState} {f_walk : Option Walk} {f_vacated : BitVec 8}
    {f_stripes : AMap Stripe} {f_nextStripe : Nat} {f_broken : Bool} {f_linkArbs : AMap Arb}
    {f_ledger : List LedgerEntry} {f_ledgerNext : Option (List LedgerEntry)} {f_shrunk : Bool} {f_shrunkAt : Nat}
    {f_recompute : Nat} {f_keys : AMap KeySlot} {f_keks : AMap (BitVec 256)} {f_ide : AMap IdeStream}
    {f_fwStore : Option FwImage} {f_fwBad : Bool} {f_fwRun : Option FwImage} {f_fwXfer : Option (List Byte)}
    {f_fwWrite : Option (FwImage × Path)} {f_svnFloor : Nat} {f_revoked : List Nat} {f_spdm : AMap SpdmConn}
    {f_signQueue : List SignJob} {f_aliasReady : Bool} {f_pw : PwState} {f_rv : RvState}
    {f_lockWaits : List (Nat × MciCall)} {f_pubs : List (Nat × Nat × Path × Word)} {f_faultPin : Bool}
    {f_thermPin : Bool} {f_baySafe : BitVec 9}
    {a : Nat} {bs : List Byte} (h : Kept s0 x) : Kept s0 (State.mk
      x.pending f_out f_free f_regs f_eff f_counts f_merged f_ft f_ports f_ctxs f_owner f_srcTab f_srcStaged f_srcDue
      f_srcGen f_sbCtx f_eids f_extents f_objects f_contents f_nextContent f_pages f_frames f_light f_unitsUsed f_recSeq
      f_flashLow f_pressed f_pins f_scheduled f_moveSeq f_views f_nextView f_windows f_nextWindow f_directory f_dirSeq
      f_eager f_windowDirty f_waits f_orders (cwrites x.dram a bs) f_poison f_hint f_badCode f_seals f_cellErr f_steer
      f_chans f_stackSt f_lastErr f_patterns f_nextPattern f_bindings f_nextBinding f_cues f_nextCue f_epoch f_cores
      f_msgs f_nextMsg f_reds f_redDone f_stale f_chanCodec f_nextChan f_upstream f_nmWaits f_bays f_walk f_vacated
      f_stripes f_nextStripe f_broken f_linkArbs f_ledger f_ledgerNext f_shrunk f_shrunkAt f_recompute f_keys f_keks
      f_ide f_fwStore f_fwBad f_fwRun f_fwXfer f_fwWrite f_svnFloor f_revoked f_spdm f_signQueue f_aliasReady f_pw f_rv
      f_lockWaits f_pubs f_faultPin f_thermPin f_baySafe) :=
  ⟨h.queue, fun w => cwrites_wf _ _ _ (h.mem w)⟩

/-- So does one whose memory has bytes taken out. -/
theorem Kept.erases {s0 x : State}
    {f_out : List Output} {f_free : Nat} {f_regs : AMap DWord} {f_eff : AMap DWord} {f_counts : AMap Nat}
    {f_merged : AMap (Nat × Nat × List Word)} {f_ft : FtState} {f_ports : AMap PortState} {f_ctxs : AMap CtxState}
    {f_owner : Option Port} {f_srcTab : AMap SrcEntry} {f_srcStaged : AMap SrcEntry} {f_srcDue : Bool}
    {f_srcGen : BitVec 16} {f_sbCtx : AMap Nat} {f_eids : AMap (BitVec 8)} {f_extents : AMap Extent}
    {f_objects : AMap Obj} {f_contents : AMap Content} {f_nextContent : Nat} {f_pages : AMap Page}
    {f_frames : AMap FrameUse} {f_light : List Nat} {f_unitsUsed : Nat} {f_recSeq : DWord} {f_flashLow : Bool}
    {f_pressed : List Nat} {f_pins : List Nat} {f_scheduled : List (Nat × Nat × MoverCmd)} {f_moveSeq : Nat}
    {f_views : AMap View} {f_nextView : Nat} {f_windows : AMap Window} {f_nextWindow : Nat}
    {f_directory : AMap DirEntry} {f_dirSeq : Nat} {f_eager : Bool} {f_windowDirty : AMap Nat} {f_waits : List Waiting}
    {f_orders : AMap (BitVec 2 × Bool)} {f_poison : List Nat} {f_hint : List Nat} {f_badCode : List Nat}
    {f_seals : AMap Word} {f_cellErr : AMap (List Nat)} {f_steer : AMap Bool} {f_chans : AMap ChanState}
    {f_stackSt : AMap StackState} {f_lastErr : DWord} {f_patterns : AMap Pattern} {f_nextPattern : Nat}
    {f_bindings : AMap Binding} {f_nextBinding : Nat} {f_cues : AMap Cue} {f_nextCue : Nat} {f_epoch : BitVec 16}
    {f_cores : AMap CoreState} {f_msgs : AMap XMsg} {f_nextMsg : Nat} {f_reds : List RedState} {f_redDone : AMap Nat}
    {f_stale : AMap Nat} {f_chanCodec : AMap CodecChan} {f_nextChan : Nat} {f_upstream : List Upstream}
    {f_nmWaits : List (Ctx × Line)} {f_bays : AMap BayState} {f_walk : Option Walk} {f_vacated : BitVec 8}
    {f_stripes : AMap Stripe} {f_nextStripe : Nat} {f_broken : Bool} {f_linkArbs : AMap Arb}
    {f_ledger : List LedgerEntry} {f_ledgerNext : Option (List LedgerEntry)} {f_shrunk : Bool} {f_shrunkAt : Nat}
    {f_recompute : Nat} {f_keys : AMap KeySlot} {f_keks : AMap (BitVec 256)} {f_ide : AMap IdeStream}
    {f_fwStore : Option FwImage} {f_fwBad : Bool} {f_fwRun : Option FwImage} {f_fwXfer : Option (List Byte)}
    {f_fwWrite : Option (FwImage × Path)} {f_svnFloor : Nat} {f_revoked : List Nat} {f_spdm : AMap SpdmConn}
    {f_signQueue : List SignJob} {f_aliasReady : Bool} {f_pw : PwState} {f_rv : RvState}
    {f_lockWaits : List (Nat × MciCall)} {f_pubs : List (Nat × Nat × Path × Word)} {f_faultPin : Bool}
    {f_thermPin : Bool} {f_baySafe : BitVec 9}
    {q : Host.Cell → Bool} (h : Kept s0 x) : Kept s0 (State.mk
      x.pending f_out f_free f_regs f_eff f_counts f_merged f_ft f_ports f_ctxs f_owner f_srcTab f_srcStaged f_srcDue
      f_srcGen f_sbCtx f_eids f_extents f_objects f_contents f_nextContent f_pages f_frames f_light f_unitsUsed f_recSeq
      f_flashLow f_pressed f_pins f_scheduled f_moveSeq f_views f_nextView f_windows f_nextWindow f_directory f_dirSeq
      f_eager f_windowDirty f_waits f_orders (x.dram.filter q) f_poison f_hint f_badCode f_seals f_cellErr f_steer
      f_chans f_stackSt f_lastErr f_patterns f_nextPattern f_bindings f_nextBinding f_cues f_nextCue f_epoch f_cores
      f_msgs f_nextMsg f_reds f_redDone f_stale f_chanCodec f_nextChan f_upstream f_nmWaits f_bays f_walk f_vacated
      f_stripes f_nextStripe f_broken f_linkArbs f_ledger f_ledgerNext f_shrunk f_shrunkAt f_recompute f_keys f_keks
      f_ide f_fwStore f_fwBad f_fwRun f_fwXfer f_fwWrite f_svnFloor f_revoked f_spdm f_signQueue f_aliasReady f_pw f_rv
      f_lockWaits f_pubs f_faultPin f_thermPin f_baySafe) :=
  ⟨h.queue, fun w => filter_wf _ _ (h.mem w)⟩

/-- So does one whose memory is as after reset. -/
theorem Kept.blank {s0 x : State}
    {f_out : List Output} {f_free : Nat} {f_regs : AMap DWord} {f_eff : AMap DWord} {f_counts : AMap Nat}
    {f_merged : AMap (Nat × Nat × List Word)} {f_ft : FtState} {f_ports : AMap PortState} {f_ctxs : AMap CtxState}
    {f_owner : Option Port} {f_srcTab : AMap SrcEntry} {f_srcStaged : AMap SrcEntry} {f_srcDue : Bool}
    {f_srcGen : BitVec 16} {f_sbCtx : AMap Nat} {f_eids : AMap (BitVec 8)} {f_extents : AMap Extent}
    {f_objects : AMap Obj} {f_contents : AMap Content} {f_nextContent : Nat} {f_pages : AMap Page}
    {f_frames : AMap FrameUse} {f_light : List Nat} {f_unitsUsed : Nat} {f_recSeq : DWord} {f_flashLow : Bool}
    {f_pressed : List Nat} {f_pins : List Nat} {f_scheduled : List (Nat × Nat × MoverCmd)} {f_moveSeq : Nat}
    {f_views : AMap View} {f_nextView : Nat} {f_windows : AMap Window} {f_nextWindow : Nat}
    {f_directory : AMap DirEntry} {f_dirSeq : Nat} {f_eager : Bool} {f_windowDirty : AMap Nat} {f_waits : List Waiting}
    {f_orders : AMap (BitVec 2 × Bool)} {f_poison : List Nat} {f_hint : List Nat} {f_badCode : List Nat}
    {f_seals : AMap Word} {f_cellErr : AMap (List Nat)} {f_steer : AMap Bool} {f_chans : AMap ChanState}
    {f_stackSt : AMap StackState} {f_lastErr : DWord} {f_patterns : AMap Pattern} {f_nextPattern : Nat}
    {f_bindings : AMap Binding} {f_nextBinding : Nat} {f_cues : AMap Cue} {f_nextCue : Nat} {f_epoch : BitVec 16}
    {f_cores : AMap CoreState} {f_msgs : AMap XMsg} {f_nextMsg : Nat} {f_reds : List RedState} {f_redDone : AMap Nat}
    {f_stale : AMap Nat} {f_chanCodec : AMap CodecChan} {f_nextChan : Nat} {f_upstream : List Upstream}
    {f_nmWaits : List (Ctx × Line)} {f_bays : AMap BayState} {f_walk : Option Walk} {f_vacated : BitVec 8}
    {f_stripes : AMap Stripe} {f_nextStripe : Nat} {f_broken : Bool} {f_linkArbs : AMap Arb}
    {f_ledger : List LedgerEntry} {f_ledgerNext : Option (List LedgerEntry)} {f_shrunk : Bool} {f_shrunkAt : Nat}
    {f_recompute : Nat} {f_keys : AMap KeySlot} {f_keks : AMap (BitVec 256)} {f_ide : AMap IdeStream}
    {f_fwStore : Option FwImage} {f_fwBad : Bool} {f_fwRun : Option FwImage} {f_fwXfer : Option (List Byte)}
    {f_fwWrite : Option (FwImage × Path)} {f_svnFloor : Nat} {f_revoked : List Nat} {f_spdm : AMap SpdmConn}
    {f_signQueue : List SignJob} {f_aliasReady : Bool} {f_pw : PwState} {f_rv : RvState}
    {f_lockWaits : List (Nat × MciCall)} {f_pubs : List (Nat × Nat × Path × Word)} {f_faultPin : Bool}
    {f_thermPin : Bool} {f_baySafe : BitVec 9}
    (h : Kept s0 x) : Kept s0 (State.mk
      x.pending f_out f_free f_regs f_eff f_counts f_merged f_ft f_ports f_ctxs f_owner f_srcTab f_srcStaged f_srcDue
      f_srcGen f_sbCtx f_eids f_extents f_objects f_contents f_nextContent f_pages f_frames f_light f_unitsUsed f_recSeq
      f_flashLow f_pressed f_pins f_scheduled f_moveSeq f_views f_nextView f_windows f_nextWindow f_directory f_dirSeq
      f_eager f_windowDirty f_waits f_orders State.reset.dram f_poison f_hint f_badCode f_seals f_cellErr f_steer
      f_chans f_stackSt f_lastErr f_patterns f_nextPattern f_bindings f_nextBinding f_cues f_nextCue f_epoch f_cores
      f_msgs f_nextMsg f_reds f_redDone f_stale f_chanCodec f_nextChan f_upstream f_nmWaits f_bays f_walk f_vacated
      f_stripes f_nextStripe f_broken f_linkArbs f_ledger f_ledgerNext f_shrunk f_shrunkAt f_recompute f_keys f_keks
      f_ide f_fwStore f_fwBad f_fwRun f_fwXfer f_fwWrite f_svnFloor f_revoked f_spdm f_signQueue f_aliasReady f_pw f_rv
      f_lockWaits f_pubs f_faultPin f_thermPin f_baySafe) :=
  ⟨h.queue, fun _ => rfl⟩

theorem Kept.ite {s0 x y : State} {c : Prop} [Decidable c] (h : Kept s0 x) (k : Kept s0 y) :
    Kept s0 (if c then x else y) := by split <;> assumption

theorem Kept.foldl {α : Type} {s0 : State} {f : State → α → State} {l : List α} {x : State} (h : Kept s0 x)
    (k : ∀ y a, Kept s0 y → Kept s0 (f y a)) : Kept s0 (l.foldl f x) := by
  induction l generalizing x with
  | nil => exact h
  | cons a l ih => exact ih (k x a h)

theorem Kept.foldN {s0 : State} {n : Nat} {f : Nat → State → State} {x : State} (h : Kept s0 x)
    (k : ∀ i y, Kept s0 y → Kept s0 (f i y)) : Kept s0 (foldN n f x) :=
  Kept.foldl h (fun y a => k a y)

/-- A fold whose accumulator carries more than the state. -/
theorem Kept.foldl_fst {α β : Type} {s0 : State} {f : State × β → α → State × β} {l : List α} {x : State × β}
    (h : Kept s0 x.1) (k : ∀ y a, Kept s0 y.1 → Kept s0 (f y a).1) : Kept s0 (l.foldl f x).1 := by
  induction l generalizing x with
  | nil => exact h
  | cons a l ih => exact ih (k x a h)

theorem Kept.foldN_fst {β : Type} {s0 : State} {n : Nat} {f : Nat → State × β → State × β} {x : State × β}
    (h : Kept s0 x.1) (k : ∀ i y, Kept s0 y.1 → Kept s0 (f i y).1) : Kept s0 (Sys2Proof.Machine.foldN n f x).1 :=
  Kept.foldl_fst h (fun y a => k a y)

theorem Kept.fst {β : Type} {s0 a : State} {p : State × β} {b : β} (e : p = (a, b)) (h : Kept s0 p.1) : Kept s0 a := by
  rw [e] at h; exact h

theorem Kept.getD {s0 d : State} {o : Option State} (h : ∀ t, o = some t → Kept s0 t) (k : Kept s0 d) :
    Kept s0 (o.getD d) := by
  cases o with
  | none => exact k
  | some t => exact h t rfl

end Sys2Proof.Machine
end

