-- ==== Sys2Proof/Laws/KeptRegs.lean ====
section
/-! SUPPORT. The operations of Machine/Regs.lean keep the queue and the canonical form of the memory. -/

set_option linter.unusedTactic false
set_option linter.unreachableTactic false
set_option linter.unusedSimpArgs false

namespace Sys2Proof.Machine

theorem State.bump_kept {s0 : State} (s : State) (off : Nat) (n : Nat) (len : Nat := 32) (ix : Nat := 0)  (hK : Kept s0 s) : Kept s0 (State.bump s off n len ix) := by
  unfold State.bump
  repeat' first | (intro) | with_reducible (first | assumption | fail_if_no_progress apply Kept.upd) | dsimp only

end Sys2Proof.Machine
end

