-- ==== Sys2Proof/Laws/KeptDram.lean ====
section
/-! SUPPORT. The operations of Machine/Dram.lean keep the queue and the canonical form of the memory. -/

set_option linter.unusedTactic false
set_option linter.unreachableTactic false
set_option linter.unusedSimpArgs false

namespace Sys2Proof.Machine

theorem State.modChan_kept {s0 : State} (s : State) (st : Nat) (ch : Nat) (f : ChanState → ChanState)  (hK : Kept s0 s) : Kept s0 (State.modChan s st ch f) := by
  unfold State.modChan
  repeat' first | (intro) | with_reducible (first | assumption | fail_if_no_progress apply Kept.upd) | dsimp only

theorem State.modStack_kept {s0 : State} (s : State) (st : Nat) (f : StackState → StackState)  (hK : Kept s0 s) : Kept s0 (State.modStack s st f) := by
  unfold State.modStack
  repeat' first | (intro) | with_reducible (first | assumption | fail_if_no_progress apply Kept.upd) | dsimp only

theorem State.freshCell_kept {s0 : State} (s : State) (line : Nat) (whole : Nat → Bool) (x : FuseBank × Nat)  (hK : Kept s0 s) : Kept s0 (State.freshCell s line whole x) := by
  unfold State.freshCell
  repeat' first | (intro) | with_reducible (first | assumption | apply Kept.ite | fail_if_no_progress apply Kept.upd) | split | dsimp only

theorem State.noteSkip_kept {s0 : State} (s : State) (l : Loc)  (hK : Kept s0 s) : Kept s0 (State.noteSkip s l) := by
  unfold State.noteSkip
  repeat' first | (intro) | with_reducible (first | assumption | apply Kept.ite | apply State.modChan_kept | fail_if_no_progress apply Kept.upd) | split | dsimp only

theorem State.writeCells_kept {s0 : State} (s : State) (l : Loc) (whole : Nat → Bool)  (hK : Kept s0 s) : Kept s0 (State.writeCells s l whole) := by
  unfold State.writeCells
  repeat' first | (intro) | with_reducible (first | assumption | apply Kept.foldl | apply State.freshCell_kept | apply State.noteSkip_kept | apply Kept.foldl_fst | fail_if_no_progress apply Kept.upd) | dsimp only

theorem State.putSeal_kept {s0 : State} (s : State) (g : Nat) (v : Word)  (hK : Kept s0 s) : Kept s0 (State.putSeal s g v) := by
  unfold State.putSeal
  repeat' first | (intro) | with_reducible (first | assumption | apply Kept.ite | fail_if_no_progress apply Kept.upd) | split | dsimp only

theorem State.setPoison_kept {s0 : State} (s : State) (pl : Nat) (on : Bool)  (hK : Kept s0 s) : Kept s0 (State.setPoison s pl on) := by
  unfold State.setPoison
  repeat' first | (intro) | with_reducible (first | assumption | fail_if_no_progress apply Kept.upd) | dsimp only

theorem State.putLine_kept {s0 : State} (s : State) (l : Loc) (pl : Nat) (bs : List Byte) (poison : Bool) (hint : Bool)  (hK : Kept s0 s) : Kept s0 (State.putLine s l pl bs poison hint) := by
  unfold State.putLine
  repeat' first | (intro) | with_reducible (first | assumption | apply State.writeCells_kept | fail_if_no_progress apply Kept.upd | fail_if_no_progress apply Kept.writes) | dsimp only

theorem State.fillCells_kept {s0 : State} (s : State) (fr : Nat)  (hK : Kept s0 s) : Kept s0 (State.fillCells s fr) := by
  unfold State.fillCells
  repeat' first | (intro) | with_reducible (first | assumption | apply Kept.ite | apply Kept.foldl | apply State.writeCells_kept | apply Kept.foldl_fst | fail_if_no_progress apply Kept.upd) | split | dsimp only

theorem State.zeroFrame_kept {s0 : State} (s : State) (fr : Nat) (light : Bool)  (hK : Kept s0 s) : Kept s0 (State.zeroFrame s fr light) := by
  unfold State.zeroFrame
  repeat' first | (intro) | with_reducible (first | assumption | apply State.fillCells_kept | fail_if_no_progress apply Kept.upd | fail_if_no_progress apply Kept.erases) | split | dsimp only

end Sys2Proof.Machine
end

