-- ==== Sys2Proof/Laws/KeptAccess.lean ====
section
/-! SUPPORT. The operations of Machine/Access.lean keep the queue and the canonical form of the memory. -/

set_option linter.unusedTactic false
set_option linter.unreachableTactic false
set_option linter.unusedSimpArgs false

namespace Sys2Proof.Machine

theorem State.modPort_kept {s0 : State} (s : State) (p : Port) (f : PortState → PortState)  (hK : Kept s0 s) : Kept s0 (State.modPort s p f) := by
  unfold State.modPort
  repeat' first | (intro) | with_reducible (first | assumption | fail_if_no_progress apply Kept.upd) | dsimp only

theorem State.modCtx_kept {s0 : State} (s : State) (c : Ctx) (f : CtxState → CtxState)  (hK : Kept s0 s) : Kept s0 (State.modCtx s c f) := by
  unfold State.modCtx
  repeat' first | (intro) | with_reducible (first | assumption | fail_if_no_progress apply Kept.upd) | dsimp only

theorem State.modCore_kept {s0 : State} (s : State) (k : Nat) (f : CoreState → CoreState)  (hK : Kept s0 s) : Kept s0 (State.modCore s k f) := by
  unfold State.modCore
  repeat' first | (intro) | with_reducible (first | assumption | fail_if_no_progress apply Kept.upd) | dsimp only

theorem State.modBay_kept {s0 : State} (s : State) (b : Nat) (f : BayState → BayState)  (hK : Kept s0 s) : Kept s0 (State.modBay s b f) := by
  unfold State.modBay
  repeat' first | (intro) | with_reducible (first | assumption | fail_if_no_progress apply Kept.upd) | dsimp only

theorem State.modFt_kept {s0 : State} (s : State) (f : FtState → FtState)  (hK : Kept s0 s) : Kept s0 (State.modFt s f) := by
  unfold State.modFt
  repeat' first | (intro) | with_reducible (first | assumption | fail_if_no_progress apply Kept.upd) | dsimp only

theorem State.modPw_kept {s0 : State} (s : State) (f : PwState → PwState)  (hK : Kept s0 s) : Kept s0 (State.modPw s f) := by
  unfold State.modPw
  repeat' first | (intro) | with_reducible (first | assumption | fail_if_no_progress apply Kept.upd) | dsimp only

theorem State.modRv_kept {s0 : State} (s : State) (f : RvState → RvState)  (hK : Kept s0 s) : Kept s0 (State.modRv s f) := by
  unfold State.modRv
  repeat' first | (intro) | with_reducible (first | assumption | fail_if_no_progress apply Kept.upd) | dsimp only

theorem State.emit_kept {s0 : State} (s : State) (o : Output)  (hK : Kept s0 s) : Kept s0 (State.emit s o) := by
  unfold State.emit
  repeat' first | (intro) | with_reducible (first | assumption | fail_if_no_progress apply Kept.upd) | dsimp only

theorem State.tick_kept {s0 : State} (s : State)  (hK : Kept s0 s) : Kept s0 (State.tick s) := by
  unfold State.tick
  repeat' first | (intro) | with_reducible (first | assumption | fail_if_no_progress apply Kept.upd) | dsimp only

theorem State.modObj_kept {s0 : State} (s : State) (o : Nat) (f : Obj → Obj)  (hK : Kept s0 s) : Kept s0 (State.modObj s o f) := by
  unfold State.modObj
  repeat' first | (intro) | with_reducible (first | assumption | refine Kept.fst (by assumption) ?_ | fail_if_no_progress apply Kept.upd) | split | dsimp only

theorem State.modPage_kept {s0 : State} (s : State) (pid : Nat) (f : Page → Page)  (hK : Kept s0 s) : Kept s0 (State.modPage s pid f) := by
  unfold State.modPage
  repeat' first | (intro) | with_reducible (first | assumption | fail_if_no_progress apply Kept.upd) | dsimp only

end Sys2Proof.Machine
end

