-- ==== Sys2Proof/Laws/KeptEvents.lean ====
section
/-! SUPPORT. The operations of Machine/Events.lean keep the queue and the canonical form of the memory. -/

set_option linter.unusedTactic false
set_option linter.unreachableTactic false
set_option linter.unusedSimpArgs false

namespace Sys2Proof.Machine

theorem sendMsix_kept {s0 : State} (s : State) (f : Fn) (v : Nat)  (hK : Kept s0 s) : Kept s0 (sendMsix s f v) := by
  unfold sendMsix
  repeat' first | (intro) | with_reducible (first | assumption | apply Kept.ite | apply State.modPort_kept | apply State.emit_kept | apply State.modCtx_kept | refine Kept.fst (by assumption) ?_ | fail_if_no_progress apply Kept.upd) | split | dsimp only

theorem State.reply_kept {s0 : State} (s : State) (via : Path) (rc : BitVec 16) (out : List Byte)  (hK : Kept s0 s) : Kept s0 (State.reply s via rc out) := by
  unfold State.reply
  repeat' first | (intro) | with_reducible (first | assumption | apply Kept.ite | apply State.emit_kept | apply sendMsix_kept | refine Kept.fst (by assumption) ?_ | fail_if_no_progress apply Kept.upd) | split | dsimp only

theorem sendMgmt_kept {s0 : State} (s : State)  (hK : Kept s0 s) : Kept s0 (sendMgmt s) := by
  unfold sendMgmt
  repeat' first | (intro) | with_reducible (first | assumption | apply Kept.ite | apply sendMsix_kept | refine Kept.fst (by assumption) ?_ | fail_if_no_progress apply Kept.upd) | split | dsimp only

theorem sendAlerts_kept {s0 : State} (s : State)  (hK : Kept s0 s) : Kept s0 (sendAlerts s) := by
  unfold sendAlerts
  repeat' first | (intro) | with_reducible (first | assumption | apply Kept.ite | apply Kept.foldl | apply State.emit_kept | apply Kept.foldl_fst | fail_if_no_progress apply Kept.upd) | split | dsimp only

theorem setInt_kept {s0 : State} (s : State) (b : Nat) (i : Nat)  (hK : Kept s0 s) : Kept s0 (setInt s b i) := by
  unfold setInt
  repeat' first | (intro) | with_reducible (first | assumption | apply Kept.ite | apply sendMgmt_kept | apply sendAlerts_kept | fail_if_no_progress apply Kept.upd) | split | dsimp only

theorem putOwnLine_kept {s0 : State} (s : State) (dev : Nat) (bs : List Byte)  (hK : Kept s0 s) : Kept s0 (putOwnLine s dev bs) := by
  unfold putOwnLine
  repeat' first | (intro) | with_reducible (first | assumption | apply Kept.foldl | apply State.putLine_kept | refine Kept.fst (by assumption) ?_ | apply Kept.foldl_fst | fail_if_no_progress apply Kept.upd) | split | dsimp only

theorem ringEntry_kept {s0 : State} (s : State) (c : Ctx) (kind : Nat) (code : Nat) (status : Nat) (words : List Word)  (hK : Kept s0 s) : Kept s0 (ringEntry s c kind code status words) := by
  unfold ringEntry
  repeat' first | (intro) | with_reducible (first | assumption | apply Kept.ite | apply putOwnLine_kept | apply State.modCtx_kept | apply sendMsix_kept | fail_if_no_progress apply Kept.upd) | split | dsimp only

theorem flushOverflow_kept {s0 : State} (s : State) (c : Ctx)  (hK : Kept s0 s) : Kept s0 (flushOverflow s c) := by
  unfold flushOverflow
  repeat' first | (intro) | with_reducible (first | assumption | apply Kept.ite | apply State.modCtx_kept | apply ringEntry_kept | fail_if_no_progress apply Kept.upd) | split | dsimp only

theorem postEvent_kept {s0 : State} (s : State) (code : Nat) (words : List Word) (c : Ctx)  (hK : Kept s0 s) : Kept s0 (postEvent s code words c) := by
  unfold postEvent
  repeat' first | (intro) | with_reducible (first | assumption | apply Kept.ite | apply flushOverflow_kept | apply ringEntry_kept | apply State.modCtx_kept | apply setInt_kept | fail_if_no_progress apply Kept.upd) | split | dsimp only

theorem logRecord_kept {s0 : State} (s : State) (p : Port) (k : LogKind) (kind : RecordKind) (code : Nat) (ctx : BitVec 16) (words : List Word)  (hK : Kept s0 s) : Kept s0 (logRecord s p k kind code ctx words) := by
  unfold logRecord
  repeat' first | (intro) | with_reducible (first | assumption | apply Kept.ite | apply Kept.getD | apply State.modPort_kept | apply sendMsix_kept | fail_if_no_progress apply Kept.upd) | split | dsimp only

theorem logAll_kept {s0 : State} (s : State) (k : LogKind) (kind : RecordKind) (code : Nat) (ctx : BitVec 16) (words : List Word)  (hK : Kept s0 s) : Kept s0 (logAll s k kind code ctx words) := by
  unfold logAll
  repeat' first | (intro) | with_reducible (first | assumption | apply Kept.foldl | apply logRecord_kept | apply Kept.foldl_fst | fail_if_no_progress apply Kept.upd) | dsimp only

theorem raise_kept {s0 : State} (s : State) (e : EvDef) (ctxs : List Ctx) (words : List Word)  (hK : Kept s0 s) : Kept s0 (raise s e ctxs words) := by
  unfold raise
  repeat' first | (intro) | with_reducible (first | assumption | apply Kept.foldl | apply setInt_kept | apply logAll_kept | apply postEvent_kept | refine Kept.fst (by assumption) ?_ | apply Kept.foldl_fst | fail_if_no_progress apply Kept.upd) | split | dsimp only

theorem raiseAll_kept {s0 : State} (s : State) (e : EvDef) (words : List Word)  (hK : Kept s0 s) : Kept s0 (raiseAll s e words) := by
  unfold raiseAll
  repeat' first | (intro) | with_reducible (first | assumption | apply Kept.foldl | apply setInt_kept | apply logAll_kept | apply postEvent_kept | refine Kept.fst (by assumption) ?_ | apply Kept.foldl_fst | fail_if_no_progress apply Kept.upd) | split | dsimp only

theorem mergeEvent_kept {s0 : State} (s : State) (kind : Nat) (subject : Nat) (count : Nat) (addr : Nat) (words : List Word)  (hK : Kept s0 s) : Kept s0 (mergeEvent s kind subject count addr words) := by
  unfold mergeEvent
  repeat' first | (intro) | with_reducible (first | assumption | apply Kept.ite | fail_if_no_progress apply Kept.upd) | split | dsimp only

end Sys2Proof.Machine
end

