-- ==== Sys2Proof/Laws/KeptSeals.lean ====
section
/-! SUPPORT. The operations of Machine/Seals.lean keep the queue and the canonical form of the memory. -/

set_option linter.unusedTactic false
set_option linter.unreachableTactic false
set_option linter.unusedSimpArgs false

namespace Sys2Proof.Machine

theorem presentReq_kept {s0 : State} (s : State) (l : Loc) (r : OpenReq)  (hK : Kept s0 s) : Kept s0 (presentReq s l r) := by
  unfold presentReq
  repeat' first | (intro) | with_reducible (first | assumption | apply State.modChan_kept | fail_if_no_progress apply Kept.upd) | dsimp only

theorem pageTraffic_kept {s0 : State} (s : State) (order : Nat) (fr : Nat) (write : Bool)  (hK : Kept s0 s) : Kept s0 (pageTraffic s order fr write) := by
  unfold pageTraffic
  repeat' first | (intro) | with_reducible (first | assumption | apply State.modChan_kept | fail_if_no_progress apply Kept.upd) | dsimp only

theorem poisonTraffic_kept {s0 : State} (s : State) (l : Loc) (pa : Nat)  (hK : Kept s0 s) : Kept s0 (poisonTraffic s l pa) := by
  unfold poisonTraffic
  repeat' first | (intro) | with_reducible (first | assumption | apply presentReq_kept | fail_if_no_progress apply Kept.upd) | dsimp only

theorem poisonLine_kept {s0 : State} (s : State) (l : Loc) (pa : Nat)  (hK : Kept s0 s) : Kept s0 (poisonLine s l pa) := by
  unfold poisonLine
  repeat' first | (intro) | with_reducible (first | assumption | apply poisonTraffic_kept | apply State.setPoison_kept | apply State.bump_kept | fail_if_no_progress apply Kept.upd) | dsimp only

theorem spareRequest_kept {s0 : State} (s : State) (st : Nat) (ch : Nat) (rank : Nat) (cause : Nat)  (hK : Kept s0 s) : Kept s0 (spareRequest s st ch rank cause).1 := by
  unfold spareRequest
  repeat' first | (intro) | with_reducible (first | assumption | apply State.modChan_kept | apply raise_kept | refine Kept.fst (by assumption) ?_ | fail_if_no_progress apply Kept.upd) | split | dsimp only

theorem queueDirected_kept {s0 : State} (s : State) (l : Loc)  (hK : Kept s0 s) : Kept s0 (queueDirected s l) := by
  unfold queueDirected
  repeat' first | (intro) | with_reducible (first | assumption | apply Kept.ite | apply State.modChan_kept | fail_if_no_progress apply Kept.upd) | split | dsimp only

theorem countCorrection_kept {s0 : State} (s : State) (l : Loc)  (hK : Kept s0 s) : Kept s0 (countCorrection s l) := by
  unfold countCorrection
  repeat' first | (intro) | with_reducible (first | assumption | apply Kept.ite | apply State.bump_kept | apply State.modChan_kept | apply raise_kept | (refine Kept.fst (by assumption) ?_; apply spareRequest_kept) | apply spareRequest_kept | refine Kept.fst (by assumption) ?_ | fail_if_no_progress apply Kept.upd) | split | dsimp only

theorem reportUncorr_kept {s0 : State} (s : State) (r : Reader) (l : Loc) (pl : Nat) (dev : Nat)  (hK : Kept s0 s) : Kept s0 (reportUncorr s r l pl dev) := by
  unfold reportUncorr
  repeat' first | (intro) | with_reducible (first | assumption | apply State.bump_kept | apply mergeEvent_kept | fail_if_no_progress apply Kept.upd) | dsimp only

theorem reportSeal_kept {s0 : State} (s : State) (r : Reader) (dev : Nat) (lines : Nat)  (hK : Kept s0 s) : Kept s0 (reportSeal s r dev lines) := by
  unfold reportSeal
  repeat' first | (intro) | with_reducible (first | assumption | apply State.bump_kept | apply mergeEvent_kept | fail_if_no_progress apply Kept.upd) | dsimp only

theorem decodeGranule_kept {s0 : State} (s : State) (r : Reader) (order : Nat) (fr : Nat) (q : Nat)  (hK : Kept s0 s) : Kept s0 (decodeGranule s r order fr q).1 := by
  unfold decodeGranule
  repeat' first | (intro) | with_reducible (first | assumption | apply Kept.ite | apply Kept.foldl | apply reportUncorr_kept | apply State.putLine_kept | apply State.putSeal_kept | apply poisonTraffic_kept | apply State.bump_kept | apply countCorrection_kept | apply queueDirected_kept | refine Kept.fst (by assumption) ?_ | apply Kept.foldl_fst | fail_if_no_progress apply Kept.upd) | split | dsimp only

theorem readGranule_kept {s0 : State} (s : State) (r : Reader) (order : Nat) (fr : Nat) (q : Nat)  (hK : Kept s0 s) : Kept s0 (readGranule s r order fr q).1 := by
  unfold readGranule
  repeat' first | (intro) | with_reducible (first | assumption | apply Kept.ite | apply Kept.foldl | (refine Kept.fst (by assumption) ?_; apply decodeGranule_kept) | apply decodeGranule_kept | apply poisonLine_kept | apply reportSeal_kept | refine Kept.fst (by assumption) ?_ | apply Kept.foldl_fst | fail_if_no_progress apply Kept.upd) | split | dsimp only

theorem readLine_kept {s0 : State} (s : State) (r : Reader) (order : Nat) (fr : Nat) (q : Nat)  (hK : Kept s0 s) : Kept s0 (readLine s r order fr q).1 := by
  unfold readLine
  repeat' first | (intro) | with_reducible (first | assumption | apply Kept.getD | (refine Kept.fst (by assumption) ?_; apply readGranule_kept) | apply readGranule_kept | refine Kept.fst (by assumption) ?_ | fail_if_no_progress apply Kept.upd) | split | dsimp only

theorem putGranule_kept {s0 : State} (s : State) (order : Nat) (fr : Nat) (q : Nat) (bs : List Byte) (ps : List Bool) (sv : Word) (hint : Bool)  (hK : Kept s0 s) : Kept s0 (putGranule s order fr q bs ps sv hint) := by
  unfold putGranule
  repeat' first | (intro) | with_reducible (first | assumption | apply Kept.ite | apply Kept.foldl | apply Kept.getD | apply State.putLine_kept | apply State.putSeal_kept | apply Kept.foldl_fst | fail_if_no_progress apply Kept.upd) | split | dsimp only

theorem writeLight_kept {s0 : State} (s : State) (r : Reader) (order : Nat) (fr : Nat) (q : Nat) (bs : List Byte) (be : Nat) (poison : Bool) (hint : Bool)  (hK : Kept s0 s) : Kept s0 (writeLight s r order fr q bs be poison hint) := by
  unfold writeLight
  repeat' first | (intro) | with_reducible (first | assumption | apply Kept.ite | apply State.putLine_kept | apply reportUncorr_kept | apply poisonTraffic_kept | apply State.bump_kept | apply countCorrection_kept | apply queueDirected_kept | apply State.writeCells_kept | refine Kept.fst (by assumption) ?_ | fail_if_no_progress apply Kept.upd | fail_if_no_progress apply Kept.writes) | split | dsimp only

theorem writeFirm_kept {s0 : State} (s : State) (r : Reader) (order : Nat) (fr : Nat) (q : Nat) (bs : List Byte) (be : Nat) (poison : Bool) (hint : Bool)  (hK : Kept s0 s) : Kept s0 (writeFirm s r order fr q bs be poison hint) := by
  unfold writeFirm
  repeat' first | (intro) | with_reducible (first | assumption | apply Kept.ite | apply Kept.foldl | apply Kept.getD | (refine Kept.fst (by assumption) ?_; apply decodeGranule_kept) | apply decodeGranule_kept | apply State.putLine_kept | apply State.setPoison_kept | apply State.bump_kept | apply State.putSeal_kept | apply reportSeal_kept | refine Kept.fst (by assumption) ?_ | apply Kept.foldl_fst | fail_if_no_progress apply Kept.upd) | split | dsimp only

theorem writeLine_kept {s0 : State} (s : State) (r : Reader) (order : Nat) (fr : Nat) (q : Nat) (bs : List Byte) (be : Nat) (poison : Bool) (hint : Bool)  (hK : Kept s0 s) : Kept s0 (writeLine s r order fr q bs be poison hint) := by
  unfold writeLine
  repeat' first | (intro) | with_reducible (first | assumption | apply Kept.ite | apply writeLight_kept | apply writeFirm_kept | fail_if_no_progress apply Kept.upd) | split | dsimp only

theorem poisonCopies_kept {s0 : State} (s : State) (order : Nat) (frames : List Nat) (q : Nat)  (hK : Kept s0 s) : Kept s0 (poisonCopies s order frames q) := by
  unfold poisonCopies
  repeat' first | (intro) | with_reducible (first | assumption | apply Kept.foldl | apply poisonLine_kept | apply Kept.foldl_fst | fail_if_no_progress apply Kept.upd) | dsimp only

end Sys2Proof.Machine
end

