-- ==== Sys2Proof/Laws/KeptTiering.lean ====
section
/-! SUPPORT. The operations of Machine/Tiering.lean keep the queue and the canonical form of the memory. -/

set_option linter.unusedTactic false
set_option linter.unreachableTactic false
set_option linter.unusedSimpArgs false

namespace Sys2Proof.Machine

theorem checkFlash_kept {s0 : State} (s : State)  (hK : Kept s0 s) : Kept s0 (checkFlash s) := by
  unfold checkFlash
  repeat' first | (intro) | with_reducible (first | assumption | apply Kept.ite | apply raiseAll_kept | fail_if_no_progress apply Kept.upd) | split | dsimp only

theorem flashFull_kept {s0 : State} (s : State) (pid : Nat)  (hK : Kept s0 s) : Kept s0 (flashFull s pid) := by
  unfold flashFull
  repeat' first | (intro) | with_reducible (first | assumption | apply raiseAll_kept | fail_if_no_progress apply Kept.upd) | dsimp only

theorem reservePage_kept {s0 : State} (s : State) (pid : Nat)  (hK : Kept s0 s) : Kept s0 (reservePage s pid) := by
  unfold reservePage
  repeat' first | (intro) | with_reducible (first | assumption | apply Kept.ite | apply checkFlash_kept | apply State.modPage_kept | apply flashFull_kept | fail_if_no_progress apply Kept.upd) | split | dsimp only

theorem allocFrames_kept {s0 : State} (s : State) (pid : Nat) (o : Obj) (fs : List Nat) (st : PState) (lock : Bool)  (hK : Kept s0 s) : Kept s0 (allocFrames s pid o fs st lock) := by
  unfold allocFrames
  repeat' first | (intro) | with_reducible (first | assumption | apply Kept.ite | apply Kept.foldl | apply pageTraffic_kept | apply State.zeroFrame_kept | apply State.modPage_kept | apply Kept.foldl_fst | fail_if_no_progress apply Kept.upd) | split | dsimp only

theorem freeFrames_kept {s0 : State} (s : State) (pid : Nat)  (hK : Kept s0 s) : Kept s0 (freeFrames s pid) := by
  unfold freeFrames
  repeat' first | (intro) | with_reducible (first | assumption | apply Kept.foldl | apply State.modPage_kept | apply Kept.foldl_fst | fail_if_no_progress apply Kept.upd) | dsimp only

theorem freeHome_kept {s0 : State} (s : State) (pid : Nat)  (hK : Kept s0 s) : Kept s0 (freeHome s pid) := by
  unfold freeHome
  repeat' first | (intro) | with_reducible (first | assumption | apply State.modPage_kept | refine Kept.fst (by assumption) ?_ | fail_if_no_progress apply Kept.upd) | split | dsimp only

theorem dropPage_kept {s0 : State} (s : State) (pid : Nat)  (hK : Kept s0 s) : Kept s0 (dropPage s pid) := by
  unfold dropPage
  repeat' first | (intro) | with_reducible (first | assumption | apply freeHome_kept | apply freeFrames_kept | apply checkFlash_kept | refine Kept.fst (by assumption) ?_ | fail_if_no_progress apply Kept.upd) | split | dsimp only

theorem touchPage_kept {s0 : State} (s : State) (pid : Nat)  (hK : Kept s0 s) : Kept s0 (touchPage s pid) := by
  unfold touchPage
  repeat' first | (intro) | with_reducible (first | assumption | apply Kept.ite | apply State.modPage_kept | fail_if_no_progress apply Kept.upd) | split | dsimp only

theorem storeDropped_kept {s0 : State} (s : State) (w : Who) (dev : Nat) (n : Nat)  (hK : Kept s0 s) : Kept s0 (storeDropped s w dev n) := by
  unfold storeDropped
  repeat' first | (intro) | with_reducible (first | assumption | apply raise_kept | fail_if_no_progress apply Kept.upd) | dsimp only

theorem writeCopies_kept {s0 : State} (s : State) (r : Reader) (order : Nat) (pid : Nat) (dev : Nat) (bs : List Byte) (be : Nat) (poison : Bool) (hint : Bool)  (hK : Kept s0 s) : Kept s0 (writeCopies s r order pid dev bs be poison hint) := by
  unfold writeCopies
  repeat' first | (intro) | with_reducible (first | assumption | apply Kept.foldl | apply writeLine_kept | apply Kept.foldl_fst | fail_if_no_progress apply Kept.upd) | dsimp only

theorem markValid_kept {s0 : State} (s : State) (pid : Nat) (line : Nat) (be : Nat)  (hK : Kept s0 s) : Kept s0 (markValid s pid line be) := by
  unfold markValid
  repeat' first | (intro) | with_reducible (first | assumption | apply State.modPage_kept | fail_if_no_progress apply Kept.upd) | dsimp only

theorem readPage_kept {s0 : State} (s : State) (r : Reader) (order : Nat) (pid : Nat) (dev : Nat)  (hK : Kept s0 s) : Kept s0 (readPage s r order pid dev).1 := by
  unfold readPage
  repeat' first | (intro) | with_reducible (first | assumption | (refine Kept.fst (by assumption) ?_; apply readLine_kept) | apply readLine_kept | apply touchPage_kept | refine Kept.fst (by assumption) ?_ | fail_if_no_progress apply Kept.upd) | split | dsimp only

theorem State.modMover_kept {s0 : State} (s : State) (n : Nat) (f : Mover → Mover)  (hK : Kept s0 s) : Kept s0 (State.modMover s n f) := by
  unfold State.modMover
  repeat' first | (intro) | with_reducible (first | assumption | apply State.modObj_kept | fail_if_no_progress apply Kept.upd) | dsimp only

theorem frameShort_kept {s0 : State} (s : State) (pid : Nat)  (hK : Kept s0 s) : Kept s0 (frameShort s pid) := by
  unfold frameShort
  repeat' first | (intro) | with_reducible (first | assumption | apply Kept.ite | apply State.modMover_kept | apply raise_kept | refine Kept.fst (by assumption) ?_ | fail_if_no_progress apply Kept.upd) | split | dsimp only

theorem tidyPage_kept {s0 : State} (s : State) (pid : Nat)  (hK : Kept s0 s) : Kept s0 (tidyPage s pid) := by
  unfold tidyPage
  repeat' first | (intro) | with_reducible (first | assumption | apply Kept.ite | fail_if_no_progress apply Kept.upd) | split | dsimp only

theorem rawLine_kept {s0 : State} (s : State) (pid : Nat) (copy : Bool) (line : Nat)  (hK : Kept s0 s) : Kept s0 (rawLine s pid copy line).1 := by
  unfold rawLine
  repeat' first | (intro) | with_reducible (first | assumption | (refine Kept.fst (by assumption) ?_; apply readLine_kept) | apply readLine_kept | refine Kept.fst (by assumption) ?_ | fail_if_no_progress apply Kept.upd) | split | dsimp only

theorem rawLines_kept {s0 : State} (s : State) (pid : Nat) (copy : Bool) (l : List Nat) (h : Kept s0 s) :
    Kept s0 (rawLines s pid copy l).1 := by
  induction l generalizing s with
  | nil => exact h
  | cons i l ih => exact ih _ (rawLine_kept s pid copy i h)

theorem packPage_kept {s0 : State} (s : State) (pid : Nat) (slot : Nat)  (hK : Kept s0 s) : Kept s0 (packPage s pid slot).1 := by
  unfold packPage
  repeat' first | (intro) | with_reducible (first | assumption | apply Kept.ite | apply Kept.foldl | (refine Kept.fst (by assumption) ?_; apply rawLines_kept) | apply rawLines_kept | apply pageTraffic_kept | apply State.bump_kept | refine Kept.fst (by assumption) ?_ | apply Kept.foldl_fst | fail_if_no_progress apply Kept.upd | fail_if_no_progress apply Kept.writes) | split | dsimp only

theorem pieceEvents_kept {s0 : State} (s : State) (pid : Nat) (ps : List Decoded)  (hK : Kept s0 s) : Kept s0 (pieceEvents s pid ps) := by
  unfold pieceEvents
  repeat' first | (intro) | with_reducible (first | assumption | apply Kept.ite | apply Kept.foldl | apply State.bump_kept | apply raise_kept | refine Kept.fst (by assumption) ?_ | apply Kept.foldl_fst | fail_if_no_progress apply Kept.upd) | split | dsimp only

theorem fillLine_kept {s0 : State} (s : State) (order : Nat) (fr : Nat) (i : Nat) (valid : Nat) (src : List Byte) (poison : Bool)  (hK : Kept s0 s) : Kept s0 (fillLine s order fr i valid src poison) := by
  unfold fillLine
  repeat' first | (intro) | with_reducible (first | assumption | apply Kept.ite | apply State.putLine_kept | fail_if_no_progress apply Kept.upd) | split | dsimp only

theorem fillPage_kept {s0 : State} (s : State) (pid : Nat) (src : List Host.Cell) (poison : List Nat) (seals : AMap Word)  (hK : Kept s0 s) : Kept s0 (fillPage s pid src poison seals) := by
  unfold fillPage
  repeat' first | (intro) | with_reducible (first | assumption | apply Kept.ite | apply Kept.foldl | apply pageTraffic_kept | apply State.putSeal_kept | apply fillLine_kept | apply Kept.foldl_fst | fail_if_no_progress apply Kept.upd) | split | dsimp only

theorem losePage_kept {s0 : State} (s : State) (pid : Nat) (cause : Nat)  (hK : Kept s0 s) : Kept s0 (losePage s pid cause) := by
  unfold losePage
  repeat' first | (intro) | with_reducible (first | assumption | apply Kept.foldl | apply poisonLine_kept | apply State.modPage_kept | apply raise_kept | apply reservePage_kept | apply Kept.foldl_fst | fail_if_no_progress apply Kept.upd) | dsimp only

theorem readComplete_kept {s0 : State} (s : State) (pid : Nat) (unrecoverable : Bool)  (hK : Kept s0 s) : Kept s0 (readComplete s pid unrecoverable).1 := by
  unfold readComplete
  repeat' first | (intro) | with_reducible (first | assumption | apply Kept.ite | apply State.bump_kept | apply losePage_kept | apply pieceEvents_kept | apply fillPage_kept | apply State.modPage_kept | apply reservePage_kept | refine Kept.fst (by assumption) ?_ | fail_if_no_progress apply Kept.upd) | split | dsimp only

theorem copyComplete_kept {s0 : State} (s : State) (pid : Nat)  (hK : Kept s0 s) : Kept s0 (copyComplete s pid) := by
  unfold copyComplete
  repeat' first | (intro) | with_reducible (first | assumption | apply Kept.foldl | (refine Kept.fst (by assumption) ?_; apply rawLines_kept) | apply rawLines_kept | apply pageTraffic_kept | apply fillPage_kept | apply State.modPage_kept | apply reservePage_kept | refine Kept.fst (by assumption) ?_ | apply Kept.foldl_fst | fail_if_no_progress apply Kept.upd | fail_if_no_progress apply Kept.writes) | split | dsimp only

theorem writeComplete_kept {s0 : State} (s : State) (pid : Nat)  (hK : Kept s0 s) : Kept s0 (writeComplete s pid) := by
  unfold writeComplete
  repeat' first | (intro) | with_reducible (first | assumption | apply Kept.ite | apply freeHome_kept | apply State.modPage_kept | apply State.bump_kept | apply checkFlash_kept | apply reservePage_kept | fail_if_no_progress apply Kept.upd) | split | dsimp only

theorem gatherRecord_kept {s0 : State} (s : State) (pid : Nat) (bytes : Nat)  (hK : Kept s0 s) : Kept s0 (gatherRecord s pid bytes).1 := by
  unfold gatherRecord
  repeat' first | (intro) | with_reducible (first | assumption | apply Kept.ite | refine Kept.fst (by assumption) ?_ | fail_if_no_progress apply Kept.upd) | split | dsimp only

theorem writeback_kept {s0 : State} (s : State) (pid : Nat)  (hK : Kept s0 s) : Kept s0 (writeback s pid).1 := by
  unfold writeback
  repeat' first | (intro) | with_reducible (first | assumption | apply Kept.ite | apply reservePage_kept | (refine Kept.fst (by assumption) ?_; apply packPage_kept) | apply packPage_kept | apply State.modPage_kept | apply writeComplete_kept | (refine Kept.fst (by assumption) ?_; apply gatherRecord_kept) | apply gatherRecord_kept | refine Kept.fst (by assumption) ?_ | fail_if_no_progress apply Kept.upd) | split | dsimp only

theorem releasePage_kept {s0 : State} (s : State) (pid : Nat)  (hK : Kept s0 s) : Kept s0 (releasePage s pid) := by
  unfold releasePage
  repeat' first | (intro) | with_reducible (first | assumption | apply Kept.ite | apply freeFrames_kept | apply State.modPage_kept | apply tidyPage_kept | fail_if_no_progress apply Kept.upd) | split | dsimp only

theorem fetchPage_kept {s0 : State} (s : State) (pid : Nat)  (hK : Kept s0 s) : Kept s0 (fetchPage s pid).1 := by
  unfold fetchPage
  repeat' first | (intro) | with_reducible (first | assumption | apply Kept.ite | apply allocFrames_kept | apply frameShort_kept | refine Kept.fst (by assumption) ?_ | fail_if_no_progress apply Kept.upd) | split | dsimp only

theorem endFlight_kept {s0 : State} (s : State) (c : Ctx) (tag : Word) (opcode : BitVec 16) (status : Nat) (words : List Word)  (hK : Kept s0 s) : Kept s0 (endFlight s c tag opcode status words) := by
  unfold endFlight
  repeat' first | (intro) | with_reducible (first | assumption | apply State.modCtx_kept | refine Kept.fst (by assumption) ?_ | fail_if_no_progress apply Kept.upd) | split | dsimp only

theorem endMoverCmd_kept {s0 : State} (s : State) (m : MoverCmd) (status : Nat) (words : List Word)  (hK : Kept s0 s) : Kept s0 (endMoverCmd s m status words) := by
  unfold endMoverCmd
  repeat' first | (intro) | with_reducible (first | assumption | apply endFlight_kept | refine Kept.fst (by assumption) ?_ | fail_if_no_progress apply Kept.upd) | split | dsimp only

theorem addMove_kept {s0 : State} (s : State) (n : Nat) (pid : Nat) (k : MoveKind) (start : Nat)  (hK : Kept s0 s) : Kept s0 (addMove s n pid k start) := by
  unfold addMove
  repeat' first | (intro) | with_reducible (first | assumption | apply Kept.ite | apply State.modMover_kept | refine Kept.fst (by assumption) ?_ | fail_if_no_progress apply Kept.upd) | split | dsimp only

theorem endEvict_kept {s0 : State} (s : State) (n : Nat) (status : Nat)  (hK : Kept s0 s) : Kept s0 (endEvict s n status) := by
  unfold endEvict
  repeat' first | (intro) | with_reducible (first | assumption | apply endMoverCmd_kept | apply State.modMover_kept | refine Kept.fst (by assumption) ?_ | fail_if_no_progress apply Kept.upd) | split | dsimp only

theorem promotionEvent_kept {s0 : State} (s : State) (n : Nat)  (hK : Kept s0 s) : Kept s0 (promotionEvent s n) := by
  unfold promotionEvent
  repeat' first | (intro) | with_reducible (first | assumption | apply endEvict_kept | apply State.modMover_kept | refine Kept.fst (by assumption) ?_ | fail_if_no_progress apply Kept.upd) | split | dsimp only

theorem requestFetch_kept {s0 : State} (s : State) (pid : Nat) (k : MoveKind)  (hK : Kept s0 s) : Kept s0 (requestFetch s pid k) := by
  unfold requestFetch
  repeat' first | (intro) | with_reducible (first | assumption | apply addMove_kept | apply promotionEvent_kept | refine Kept.fst (by assumption) ?_ | fail_if_no_progress apply Kept.upd) | split | dsimp only

theorem startCopy_kept {s0 : State} {s : State} {t : Target} {draw : Bool}  {tt : State} (eK : startCopy s t draw = some tt) (hK : Kept s0 s) : Kept s0 tt := by
  unfold startCopy at eK
  repeat' first | (simp only [Option.some.injEq, reduceCtorEq] at eK) | (subst eK) | split at eK | exact absurd eK (by simp)
  all_goals repeat' first | (intro) | with_reducible (first | assumption | apply Kept.ite | apply allocFrames_kept | apply State.modPage_kept | apply requestFetch_kept | refine Kept.fst (by assumption) ?_ | fail_if_no_progress apply Kept.upd) | split | dsimp only

theorem storePage_kept {s0 : State} (s : State) (r : Reader) (w : Who) (t : Target) (dev : Nat) (bs : List Byte) (be : Nat) (poison : Bool) (hint : Bool) (draw : Bool)  (hK : Kept s0 s) : Kept s0 (storePage s r w t dev bs be poison hint draw) := by
  unfold storePage
  repeat' first | (intro) | with_reducible (first | assumption | apply Kept.ite | refine startCopy_kept (by assumption) ?_ | apply markValid_kept | apply writeCopies_kept | apply storeDropped_kept | apply touchPage_kept | apply reservePage_kept | apply allocFrames_kept | apply State.modPage_kept | refine Kept.fst (by assumption) ?_ | fail_if_no_progress apply Kept.upd) | split | dsimp only

theorem promotePages_kept {s0 : State} (s : State) (n : Nat) (cmd : Option MoverCmd) (first : Nat) (count : Nat)  (hK : Kept s0 s) : Kept s0 (promotePages s n cmd first count) := by
  unfold promotePages
  repeat' first | (intro) | with_reducible (first | assumption | apply Kept.foldl | apply promotionEvent_kept | apply State.modMover_kept | apply addMove_kept | refine Kept.fst (by assumption) ?_ | apply Kept.foldl_fst | fail_if_no_progress apply Kept.upd) | split | dsimp only

theorem takePin_kept {s0 : State} (s : State) (c : Ctx) (n : Nat)  (hK : Kept s0 s) : Kept s0 (takePin s c n) := by
  unfold takePin
  repeat' first | (intro) | with_reducible (first | assumption | fail_if_no_progress apply Kept.upd) | dsimp only

theorem dropPin_kept {s0 : State} (s : State) (c : Ctx) (n : Nat)  (hK : Kept s0 s) : Kept s0 (dropPin s c n) := by
  unfold dropPin
  repeat' first | (intro) | with_reducible (first | assumption | apply State.modObj_kept | fail_if_no_progress apply Kept.upd) | dsimp only

theorem startEvict_kept {s0 : State} (s : State) (n : Nat) (cmd : Option MoverCmd) (targets : List Nat) (at_ : Nat)  (hK : Kept s0 s) : Kept s0 (startEvict s n cmd targets at_) := by
  unfold startEvict
  repeat' first | (intro) | with_reducible (first | assumption | apply State.modMover_kept | fail_if_no_progress apply Kept.upd) | dsimp only

theorem endPromos_kept {s0 : State} (s : State) (n : Nat)  (hK : Kept s0 s) : Kept s0 (endPromos s n) := by
  unfold endPromos
  repeat' first | (intro) | with_reducible (first | assumption | apply Kept.ite | apply Kept.foldl | apply endMoverCmd_kept | apply State.modMover_kept | refine Kept.fst (by assumption) ?_ | apply Kept.foldl_fst | fail_if_no_progress apply Kept.upd) | split | dsimp only

theorem endCancelled_kept {s0 : State} (s : State) (n : Nat)  (hK : Kept s0 s) : Kept s0 (endCancelled s n) := by
  unfold endCancelled
  repeat' first | (intro) | with_reducible (first | assumption | apply Kept.ite | apply Kept.foldl | apply endMoverCmd_kept | apply State.modMover_kept | refine Kept.fst (by assumption) ?_ | apply Kept.foldl_fst | fail_if_no_progress apply Kept.upd) | split | dsimp only

theorem evictEvent_kept {s0 : State} (s : State) (c : Ctx) (n : Nat) (cmd : MoverCmd) (later : Bool) (at_ : Nat)  (hK : Kept s0 s) : Kept s0 (evictEvent s c n cmd later at_) := by
  unfold evictEvent
  repeat' first | (intro) | with_reducible (first | assumption | apply Kept.ite | apply endMoverCmd_kept | apply dropPin_kept | apply State.modMover_kept | apply startEvict_kept | apply endCancelled_kept | refine Kept.fst (by assumption) ?_ | fail_if_no_progress apply Kept.upd) | split | dsimp only

theorem startFlush_kept {s0 : State} (s : State) (n : Nat)  (hK : Kept s0 s) : Kept s0 (startFlush s n) := by
  unfold startFlush
  repeat' first | (intro) | with_reducible (first | assumption | apply Kept.ite | apply Kept.foldl | apply State.modMover_kept | apply addMove_kept | refine Kept.fst (by assumption) ?_ | apply Kept.foldl_fst | fail_if_no_progress apply Kept.upd) | split | dsimp only

theorem flushEvent_kept {s0 : State} (s : State) (n : Nat) (cmd : MoverCmd)  (hK : Kept s0 s) : Kept s0 (flushEvent s n cmd) := by
  unfold flushEvent
  repeat' first | (intro) | with_reducible (first | assumption | apply Kept.ite | apply endMoverCmd_kept | apply State.modMover_kept | apply startFlush_kept | refine Kept.fst (by assumption) ?_ | fail_if_no_progress apply Kept.upd) | split | dsimp only

theorem moverIdle_kept {s0 : State} (s : State) (n : Nat)  (hK : Kept s0 s) : Kept s0 (moverIdle s n) := by
  unfold moverIdle
  repeat' first | (intro) | with_reducible (first | assumption | apply State.modMover_kept | apply startFlush_kept | refine Kept.fst (by assumption) ?_ | fail_if_no_progress apply Kept.upd) | split | dsimp only

theorem movesDone_kept {s0 : State} (s : State) (n : Nat)  (hK : Kept s0 s) : Kept s0 (movesDone s n) := by
  unfold movesDone
  repeat' first | (intro) | with_reducible (first | assumption | apply Kept.ite | apply moverIdle_kept | apply endPromos_kept | apply endMoverCmd_kept | apply State.modMover_kept | apply endEvict_kept | refine Kept.fst (by assumption) ?_ | fail_if_no_progress apply Kept.upd) | split | dsimp only

theorem endMove_kept {s0 : State} (s : State) (pid : Nat) (fetch : Bool) (lost : Bool) (done : Bool)  (hK : Kept s0 s) : Kept s0 (endMove s pid fetch lost done) := by
  unfold endMove
  repeat' first | (intro) | with_reducible (first | assumption | apply Kept.ite | apply endCancelled_kept | apply State.modMover_kept | refine Kept.fst (by assumption) ?_ | fail_if_no_progress apply Kept.upd) | split | dsimp only

theorem setMove_kept {s0 : State} (s : State) (n : Nat) (x : Move) (running : Bool) (notBefore : Nat)  (hK : Kept s0 s) : Kept s0 (setMove s n x running notBefore) := by
  unfold setMove
  repeat' first | (intro) | with_reducible (first | assumption | apply Kept.ite | apply State.modMover_kept | fail_if_no_progress apply Kept.upd) | split | dsimp only

theorem startMove_kept {s0 : State} (s : State) (n : Nat) (x : Move)  (hK : Kept s0 s) : Kept s0 (startMove s n x) := by
  unfold startMove
  repeat' first | (intro) | with_reducible (first | assumption | apply Kept.ite | (refine Kept.fst (by assumption) ?_; apply fetchPage_kept) | apply fetchPage_kept | apply setMove_kept | apply endMove_kept | (refine Kept.fst (by assumption) ?_; apply writeback_kept) | apply writeback_kept | refine Kept.fst (by assumption) ?_ | fail_if_no_progress apply Kept.upd) | split | dsimp only

theorem evictBatch_kept {s0 : State} (s : State) (n : Nat)  (hK : Kept s0 s) : Kept s0 (evictBatch s n) := by
  unfold evictBatch
  repeat' first | (intro) | with_reducible (first | assumption | apply Kept.ite | apply Kept.foldl | apply State.modMover_kept | apply releasePage_kept | apply addMove_kept | refine Kept.fst (by assumption) ?_ | apply Kept.foldl_fst | fail_if_no_progress apply Kept.upd) | split | dsimp only

theorem pressureSliver_kept {s0 : State} (s : State) (sl : Nat)  (hK : Kept s0 s) : Kept s0 (pressureSliver s sl) := by
  unfold pressureSliver
  repeat' first | (intro) | with_reducible (first | assumption | apply Kept.ite | apply Kept.foldl | apply State.modMover_kept | apply startEvict_kept | refine Kept.fst (by assumption) ?_ | apply Kept.foldl_fst | fail_if_no_progress apply Kept.upd) | split | dsimp only

theorem pressureAll_kept {s0 : State} (s : State)  (hK : Kept s0 s) : Kept s0 (pressureAll s) := by
  unfold pressureAll
  repeat' first | (intro) | with_reducible (first | assumption | apply Kept.ite | apply Kept.foldl | apply pressureSliver_kept | apply Kept.foldl_fst | fail_if_no_progress apply Kept.upd) | split | dsimp only

theorem coldAll_kept {s0 : State} (s : State)  (hK : Kept s0 s) : Kept s0 (coldAll s) := by
  unfold coldAll
  repeat' first | (intro) | with_reducible (first | assumption | apply Kept.ite | apply Kept.foldl | apply startEvict_kept | apply Kept.foldl_fst | fail_if_no_progress apply Kept.upd) | split | dsimp only

theorem needNotch_kept {s0 : State} (s : State) (n : Nat) (c : MoverCmd)  (hK : Kept s0 s) : Kept s0 (needNotch s n c).1 := by
  unfold needNotch
  repeat' first | (intro) | with_reducible (first | assumption | apply Kept.ite | apply raise_kept | refine Kept.fst (by assumption) ?_ | fail_if_no_progress apply Kept.upd) | split | dsimp only

theorem needNotches_kept {s0 : State} (s : State)  (hK : Kept s0 s) : Kept s0 (needNotches s) := by
  unfold needNotches
  repeat' first | (intro) | with_reducible (first | assumption | apply Kept.foldl | (refine Kept.fst (by assumption) ?_; apply needNotch_kept) | apply needNotch_kept | apply State.modMover_kept | refine Kept.fst (by assumption) ?_ | apply Kept.foldl_fst | fail_if_no_progress apply Kept.upd) | dsimp only

theorem actScheduled_kept {s0 : State} (s : State) (n : Nat) (c : MoverCmd)  (hK : Kept s0 s) : Kept s0 (actScheduled s n c) := by
  unfold actScheduled
  repeat' first | (intro) | with_reducible (first | assumption | apply Kept.ite | apply endMoverCmd_kept | apply flushEvent_kept | apply takePin_kept | apply promotePages_kept | refine Kept.fst (by assumption) ?_ | fail_if_no_progress apply Kept.upd) | split | dsimp only

theorem tieringBoundary_kept {s0 : State} (s : State)  (hK : Kept s0 s) : Kept s0 (tieringBoundary s) := by
  unfold tieringBoundary
  repeat' first | (intro) | with_reducible (first | assumption | apply Kept.ite | apply Kept.foldl | apply needNotches_kept | apply actScheduled_kept | apply startEvict_kept | apply coldAll_kept | apply pressureAll_kept | apply evictBatch_kept | apply Kept.foldl_fst | fail_if_no_progress apply Kept.upd) | split | dsimp only

end Sys2Proof.Machine
end

