-- ==== Sys2Proof/Laws/KeptDirectory.lean ====
section
/-! SUPPORT. The operations of Machine/Directory.lean keep the queue and the canonical form of the memory. -/

set_option linter.unusedTactic false
set_option linter.unreachableTactic false
set_option linter.unusedSimpArgs false

namespace Sys2Proof.Machine

theorem sendData_kept {s0 : State} (s : State) (p : Port) (src : SrcId) (tag : BitVec 16) (bs : List Byte) (poison : Bool) (mv : MetaValue)  (hK : Kept s0 s) : Kept s0 (sendData s p src tag bs poison mv) := by
  unfold sendData
  repeat' first | (intro) | with_reducible (first | assumption | apply Kept.ite | apply State.modPort_kept | apply State.emit_kept | fail_if_no_progress apply Kept.upd) | split | dsimp only

theorem sendDone_kept {s0 : State} (s : State) (p : Port) (src : SrcId) (tag : BitVec 16) (mv : MetaValue)  (hK : Kept s0 s) : Kept s0 (sendDone s p src tag mv) := by
  unfold sendDone
  repeat' first | (intro) | with_reducible (first | assumption | apply Kept.ite | apply State.modPort_kept | apply State.emit_kept | fail_if_no_progress apply Kept.upd) | split | dsimp only

theorem sendRead_kept {s0 : State} (s : State) (p : Port) (src : SrcId) (tag : BitVec 16) (noData : Bool) (bs : List Byte) (poison : Bool) (mv : MetaValue)  (hK : Kept s0 s) : Kept s0 (sendRead s p src tag noData bs poison mv) := by
  unfold sendRead
  repeat' first | (intro) | with_reducible (first | assumption | apply Kept.ite | apply sendDone_kept | apply sendData_kept | fail_if_no_progress apply Kept.upd) | split | dsimp only

theorem accessTraffic_kept {s0 : State} (s : State) (order : Nat) (fr : Nat) (q : Nat) (write : Bool) (keep : Bool) (src : ReqSource) (master : Nat) (rec_ : Bool) (dev : Nat) (be : Nat := fullMask)  (hK : Kept s0 s) : Kept s0 (accessTraffic s order fr q write keep src master rec_ dev be) := by
  unfold accessTraffic
  repeat' first | (intro) | with_reducible (first | assumption | apply Kept.ite | apply presentReq_kept | refine Kept.fst (by assumption) ?_ | fail_if_no_progress apply Kept.upd) | split | dsimp only

theorem unmapped_kept {s0 : State} (s : State)  (hK : Kept s0 s) : Kept s0 (unmapped s) := by
  unfold unmapped
  repeat' first | (intro) | with_reducible (first | assumption | apply setInt_kept | fail_if_no_progress apply Kept.upd) | dsimp only

theorem tierMiss_kept {s0 : State} (s : State) (w : Waiting) (t : Target) (full : Bool)  (hK : Kept s0 s) : Kept s0 (tierMiss s w t full) := by
  unfold tierMiss
  repeat' first | (intro) | with_reducible (first | assumption | apply Kept.ite | apply sendRead_kept | apply State.bump_kept | apply raise_kept | apply requestFetch_kept | fail_if_no_progress apply Kept.upd) | split | dsimp only

theorem serveLoad_kept {s0 : State} (s : State) (w : Waiting)  (hK : Kept s0 s) : Kept s0 (serveLoad s w) := by
  unfold serveLoad
  repeat' first | (intro) | with_reducible (first | assumption | apply Kept.ite | apply sendRead_kept | apply unmapped_kept | apply tierMiss_kept | apply accessTraffic_kept | (refine Kept.fst (by assumption) ?_; apply readPage_kept) | apply readPage_kept | refine Kept.fst (by assumption) ?_ | fail_if_no_progress apply Kept.upd) | split | dsimp only

theorem serveStore_kept {s0 : State} (s : State) (w : Waiting) (data : Line) (be : DWord) (poison : Bool) (hint : Bool) (recall_ : Bool)  (hK : Kept s0 s) : Kept s0 (serveStore s w data be poison hint recall_) := by
  unfold serveStore
  repeat' first | (intro) | with_reducible (first | assumption | apply Kept.ite | apply Kept.foldl | apply sendDone_kept | apply unmapped_kept | apply setInt_kept | apply storePage_kept | apply accessTraffic_kept | refine Kept.fst (by assumption) ?_ | apply Kept.foldl_fst | fail_if_no_progress apply Kept.upd) | split | dsimp only

theorem putDir_kept {s0 : State} (s : State) (dev : Nat) (e : Option DirEntry)  (hK : Kept s0 s) : Kept s0 (putDir s dev e) := by
  unfold putDir
  repeat' first | (intro) | with_reducible (first | assumption | refine Kept.fst (by assumption) ?_ | fail_if_no_progress apply Kept.upd) | split | dsimp only

theorem deviceTraffic_kept {s0 : State} (s : State) (w : DevWriter) (t : Target) (frames : List Nat) (addr : Nat) (write : Bool) (be : Nat := fullMask)  (hK : Kept s0 s) : Kept s0 (deviceTraffic s w t frames addr write be) := by
  unfold deviceTraffic
  repeat' first | (intro) | with_reducible (first | assumption | apply Kept.foldl | apply accessTraffic_kept | apply Kept.foldl_fst | fail_if_no_progress apply Kept.upd) | dsimp only

theorem addDelta_kept {s0 : State} (s : State) (frames : List Nat) (q : Nat) (delta : Word)  (hK : Kept s0 s) : Kept s0 (addDelta s frames q delta) := by
  unfold addDelta
  repeat' first | (intro) | with_reducible (first | assumption | apply Kept.ite | apply Kept.foldl | apply State.putSeal_kept | apply Kept.foldl_fst | fail_if_no_progress apply Kept.upd) | split | dsimp only

theorem deviceWrite_kept {s0 : State} (s : State) (w : DevWriter) (addr : Nat) (bs : List Byte) (poison : Bool)  (hK : Kept s0 s) : Kept s0 (deviceWrite s w addr bs poison) := by
  unfold deviceWrite
  repeat' first | (intro) | with_reducible (first | assumption | apply Kept.ite | apply setInt_kept | apply storePage_kept | apply addDelta_kept | apply deviceTraffic_kept | refine Kept.fst (by assumption) ?_ | fail_if_no_progress apply Kept.upd) | split | dsimp only

theorem storeGranule_kept {s0 : State} (s : State) (r : Reader) (who : Who) (dev : Nat) (bs : List Byte) (ps : List Bool) (sv : Word)  (hK : Kept s0 s) : Kept s0 (storeGranule s r who dev bs ps sv) := by
  unfold storeGranule
  repeat' first | (intro) | with_reducible (first | assumption | apply Kept.ite | apply Kept.foldl | apply Kept.foldN | apply setInt_kept | apply storePage_kept | apply markValid_kept | apply putGranule_kept | refine Kept.fst (by assumption) ?_ | apply Kept.foldl_fst | apply Kept.foldN_fst | fail_if_no_progress apply Kept.upd) | split | dsimp only

theorem writeGranule_kept {s0 : State} (s : State) (w : DevWriter) (dev : Nat) (bs : List Byte) (ps : List Bool) (sv : Word)  (hK : Kept s0 s) : Kept s0 (writeGranule s w dev bs ps sv) := by
  unfold writeGranule
  repeat' first | (intro) | with_reducible (first | assumption | apply Kept.ite | apply Kept.foldl | apply storeGranule_kept | apply presentReq_kept | refine Kept.fst (by assumption) ?_ | apply Kept.foldl_fst | fail_if_no_progress apply Kept.upd) | split | dsimp only

theorem poisonDev_kept {s0 : State} (s : State) (dev : Nat)  (hK : Kept s0 s) : Kept s0 (poisonDev s dev) := by
  unfold poisonDev
  repeat' first | (intro) | with_reducible (first | assumption | apply Kept.ite | apply storePage_kept | apply poisonCopies_kept | apply markValid_kept | refine Kept.fst (by assumption) ?_ | fail_if_no_progress apply Kept.upd) | split | dsimp only

theorem deviceAtomic_kept {s0 : State} (s : State) (w : DevWriter) (addr : Nat) (op : Nat) (opd : List Byte) (cmp : List Byte)  (hK : Kept s0 s) : Kept s0 (deviceAtomic s w addr op opd cmp) := by
  unfold deviceAtomic
  repeat' first | (intro) | with_reducible (first | assumption | apply Kept.ite | apply endFlight_kept | apply deviceTraffic_kept | (refine Kept.fst (by assumption) ?_; apply readPage_kept) | apply readPage_kept | apply deviceWrite_kept | refine Kept.fst (by assumption) ?_ | fail_if_no_progress apply Kept.upd) | split | dsimp only

theorem expiredReq_kept {s0 : State} {s : State} {r : LineReq}  {tt : State} (eK : expiredReq s r = some tt) (hK : Kept s0 s) : Kept s0 tt := by
  unfold expiredReq at eK
  repeat' first | (simp only [Option.some.injEq, reduceCtorEq] at eK) | (subst eK) | split at eK | exact absurd eK (by simp)
  all_goals repeat' first | (intro) | with_reducible (first | assumption | apply Kept.ite | apply sendRead_kept | apply sendDone_kept | refine Kept.fst (by assumption) ?_ | fail_if_no_progress apply Kept.upd) | split | dsimp only

theorem applyReq_kept {s0 : State} (s : State) (dev : Nat) (r : LineReq) (mv : MetaValue) (recall_ : Bool)  (hK : Kept s0 s) : Kept s0 (applyReq s dev r mv recall_) := by
  unfold applyReq
  repeat' first | (intro) | with_reducible (first | assumption | apply Kept.ite | apply serveLoad_kept | apply serveStore_kept | apply sendDone_kept | apply deviceWrite_kept | apply deviceAtomic_kept | refine Kept.fst (by assumption) ?_ | fail_if_no_progress apply Kept.upd) | split | dsimp only

theorem startRecall_kept {s0 : State} (s : State) (dev : Nat) (e : DirEntry) (targets : List SrcId) (data : Bool) (r : Option LineReq)  (hK : Kept s0 s) : Kept s0 (startRecall s dev e targets data r) := by
  unfold startRecall
  repeat' first | (intro) | with_reducible (first | assumption | apply Kept.foldl | apply State.emit_kept | apply State.bump_kept | apply putDir_kept | refine Kept.fst (by assumption) ?_ | apply Kept.foldl_fst | fail_if_no_progress apply Kept.upd) | split | dsimp only

theorem recallVictims_kept {s0 : State} (s : State) (n : Nat) (h : Kept s0 s) : Kept s0 (recallVictims s n) := by
  induction n generalizing s with
  | zero => exact h
  | succ n ih =>
    unfold recallVictims
    split
    · apply ih
      split
      · exact putDir_kept _ _ _ h
      · exact startRecall_kept _ _ _ _ _ _ h
    · exact h

theorem eagerRecall_kept {s0 : State} (s : State)  (hK : Kept s0 s) : Kept s0 (eagerRecall s) := by
  unfold eagerRecall
  repeat' first | (intro) | with_reducible (first | assumption | apply Kept.ite | apply recallVictims_kept | fail_if_no_progress apply Kept.upd) | split | dsimp only

theorem allocDir_kept {s0 : State} (s : State) (dev : Nat) (st : DirState) (h : SrcId)  (hK : Kept s0 s) : Kept s0 (allocDir s dev st h) := by
  unfold allocDir
  repeat' first | (intro) | with_reducible (first | assumption | apply eagerRecall_kept | apply putDir_kept | fail_if_no_progress apply Kept.upd) | dsimp only

theorem waitEntry_kept {s0 : State} (s : State) (h : Sender) (dev : Nat) (mv : MetaValue) (inv : Bool)  (hK : Kept s0 s) : Kept s0 (waitEntry s h dev mv inv) := by
  unfold waitEntry
  repeat' first | (intro) | with_reducible (first | assumption | apply setInt_kept | apply recallVictims_kept | fail_if_no_progress apply Kept.upd) | dsimp only

theorem dropCopy_kept {s0 : State} (s : State) (dev : Nat) (h : SrcId)  (hK : Kept s0 s) : Kept s0 (dropCopy s dev h) := by
  unfold dropCopy
  repeat' first | (intro) | with_reducible (first | assumption | apply Kept.ite | apply putDir_kept | refine Kept.fst (by assumption) ?_ | fail_if_no_progress apply Kept.upd) | split | dsimp only

theorem dirRequest_kept {s0 : State} (s : State) (dev : Nat) (r : LineReq)  (hK : Kept s0 s) : Kept s0 (dirRequest s dev r) := by
  unfold dirRequest
  repeat' first | (intro) | with_reducible (first | assumption | apply Kept.ite | refine expiredReq_kept (by assumption) ?_ | apply applyReq_kept | apply waitEntry_kept | apply allocDir_kept | apply putDir_kept | apply startRecall_kept | apply dropCopy_kept | refine Kept.fst (by assumption) ?_ | fail_if_no_progress apply Kept.upd) | split | dsimp only

theorem retryEntries_kept {s0 : State} (s : State)  (hK : Kept s0 s) : Kept s0 (retryEntries s) := by
  unfold retryEntries
  repeat' first | (intro) | with_reducible (first | assumption | apply Kept.foldl | apply dirRequest_kept | apply Kept.foldl_fst | fail_if_no_progress apply Kept.upd) | dsimp only

theorem extendRecall_kept {s0 : State} (s : State) (dev : Nat) (e : DirEntry) (ts : List SrcId)  (hK : Kept s0 s) : Kept s0 (extendRecall s dev e ts) := by
  unfold extendRecall
  repeat' first | (intro) | with_reducible (first | assumption | apply Kept.foldl | apply putDir_kept | apply State.emit_kept | apply State.bump_kept | refine Kept.fst (by assumption) ?_ | apply Kept.foldl_fst | fail_if_no_progress apply Kept.upd) | split | dsimp only

theorem endRecall_kept {s0 : State} (s : State) (dev : Nat) (e : DirEntry)  (hK : Kept s0 s) : Kept s0 (endRecall s dev e) := by
  unfold endRecall
  repeat' first | (intro) | with_reducible (first | assumption | apply Kept.ite | apply Kept.foldl | apply putDir_kept | apply eagerRecall_kept | apply retryEntries_kept | apply dirRequest_kept | apply Kept.foldl_fst | fail_if_no_progress apply Kept.upd) | split | dsimp only

theorem recallExpired_kept {s0 : State} (s : State) (dev : Nat) (e : DirEntry)  (hK : Kept s0 s) : Kept s0 (recallExpired s dev e) := by
  unfold recallExpired
  repeat' first | (intro) | with_reducible (first | assumption | apply Kept.foldl | apply poisonDev_kept | apply putDir_kept | apply State.bump_kept | apply raise_kept | apply retryEntries_kept | apply dirRequest_kept | refine Kept.fst (by assumption) ?_ | apply Kept.foldl_fst | fail_if_no_progress apply Kept.upd) | split | dsimp only

theorem serveWaits_kept {s0 : State} (s : State)  (hK : Kept s0 s) : Kept s0 (serveWaits s) := by
  unfold serveWaits
  repeat' first | (intro) | with_reducible (first | assumption | apply Kept.foldl | apply retryEntries_kept | apply serveStore_kept | apply serveLoad_kept | refine Kept.fst (by assumption) ?_ | apply Kept.foldl_fst | fail_if_no_progress apply Kept.upd) | split | dsimp only

theorem deviceReq_kept {s0 : State} (s : State) (w : DevWriter) (addr : Nat) (bytes : List Byte) (op : Nat) (cmp : List Byte) (poison : Bool)  (hK : Kept s0 s) : Kept s0 (deviceReq s w addr bytes op cmp poison) := by
  unfold deviceReq
  repeat' first | (intro) | with_reducible (first | assumption | apply Kept.ite | apply dirRequest_kept | apply applyReq_kept | fail_if_no_progress apply Kept.upd) | split | dsimp only

theorem deviceGranule_kept {s0 : State} (s : State) (w : DevWriter) (dev : Nat) (bs : List Byte) (ps : List Bool) (sv : Word)  (hK : Kept s0 s) : Kept s0 (deviceGranule s w dev bs ps sv) := by
  unfold deviceGranule
  repeat' first | (intro) | with_reducible (first | assumption | apply Kept.ite | apply Kept.foldN | apply Kept.getD | apply writeGranule_kept | apply deviceReq_kept | apply Kept.foldN_fst | fail_if_no_progress apply Kept.upd) | split | dsimp only

end Sys2Proof.Machine
end

