-- ==== Sys2Proof/Laws/KeptOps.lean ====
section
/-! SUPPORT. The operations of Machine/Ops.lean keep the queue and the canonical form of the memory. -/

set_option linter.unusedTactic false
set_option linter.unreachableTactic false
set_option linter.unusedSimpArgs false

namespace Sys2Proof.Machine

theorem missSource_kept {s0 : State} (s : State) (p : Port) (id : SrcId) (cause : Nat)  (hK : Kept s0 s) : Kept s0 (missSource s p id cause) := by
  unfold missSource
  repeat' first | (intro) | with_reducible (first | assumption | apply mergeEvent_kept | apply State.bump_kept | fail_if_no_progress apply Kept.upd) | dsimp only

theorem missDecode_kept {s0 : State} (s : State) (c : Ctx) (p : Port) (id : SrcId) (hpa : Nat) (cause : Nat)  (hK : Kept s0 s) : Kept s0 (missDecode s c p id hpa cause) := by
  unfold missDecode
  repeat' first | (intro) | with_reducible (first | assumption | apply mergeEvent_kept | apply State.bump_kept | fail_if_no_progress apply Kept.upd) | dsimp only

end Sys2Proof.Machine
end

