-- ==== Sys2Proof/Laws/KeptHostMem.lean ====
section
/-! SUPPORT. The operations of Machine/HostMem.lean keep the queue and the canonical form of the memory. -/

set_option linter.unusedTactic false
set_option linter.unreachableTactic false
set_option linter.unusedSimpArgs false

namespace Sys2Proof.Machine

theorem frontTaken_kept {s0 : State} {s : State} {p : Port} {src : SrcId} {hpa : DWord} {a : State}
    (e : frontTaken s p src hpa = .turnedAway a) (hK : Kept s0 s) : Kept s0 a := by
  unfold frontTaken at e
  split at e
  · simp only [Front.turnedAway.injEq] at e; subst e; exact hK
  · dsimp only at e
    split at e
    · simp only [Front.turnedAway.injEq] at e; subst e; exact missSource_kept _ _ _ _ hK
    · split at e
      · simp only [Front.turnedAway.injEq] at e; subst e; exact hK
      · split at e
        · simp only [Front.turnedAway.injEq] at e; subst e; exact missDecode_kept _ _ _ _ _ _ hK
        · exact absurd e (by simp)

theorem front_kept {s0 : State} {s : State} {p : Port} {src : SrcId} {hpa : DWord} {a : State}
    (e : front s p src hpa = .turnedAway a) (hK : Kept s0 s) : Kept s0 a := by
  unfold front at e
  split at e
  · exact absurd e (by simp)
  · exact frontTaken_kept e hK

theorem writeFront_kept {s0 : State} {s : State} {p : Port} {src : SrcId} {hpa : DWord} {a : State}
    (e : writeFront s p src hpa = .turnedAway a) (hK : Kept s0 s) : Kept s0 a := by
  unfold writeFront at e
  split at e
  · exact frontTaken_kept e hK
  · exact front_kept e hK

theorem hostRead_kept {s0 : State} (s : State) (p : Port) (src : SrcId) (hpa : DWord) (mv : MetaValue) (tag : BitVec 16) (noData : Bool)  (hK : Kept s0 s) : Kept s0 (hostRead s p src hpa mv tag noData) := by
  unfold hostRead
  repeat' first | (intro) | with_reducible (first | assumption | apply Kept.ite | apply sendRead_kept | apply dirRequest_kept | apply sendDone_kept | apply serveLoad_kept | refine front_kept (by assumption) ?_ | refine writeFront_kept (by assumption) ?_ | refine Kept.fst (by assumption) ?_ | fail_if_no_progress apply Kept.upd) | split | dsimp only

theorem hostWrite_kept {s0 : State} (s : State) (p : Port) (src : SrcId) (hpa : DWord) (mv : MetaValue) (tag : BitVec 16) (data : Line) (be : DWord) (poison : Bool)  (hK : Kept s0 s) : Kept s0 (hostWrite s p src hpa mv tag data be poison) := by
  unfold hostWrite
  repeat' first | (intro) | with_reducible (first | assumption | apply Kept.ite | apply sendDone_kept | apply dirRequest_kept | apply serveWaits_kept | apply serveStore_kept | refine front_kept (by assumption) ?_ | refine writeFront_kept (by assumption) ?_ | refine Kept.fst (by assumption) ?_ | fail_if_no_progress apply Kept.upd) | split | dsimp only

theorem execMemRd_kept {p : Port} {src : SrcId} {hpa : DWord} {mv : MetaValue} {tag : BitVec 16} {s : State} {tt : State} (eK : execMemRd p src hpa mv tag s = .next tt) : Kept s tt := by
  have hK : Kept s s := Kept.refl s
  unfold execMemRd at eK
  repeat' first | (simp only [ifApplies, Host.Outcome.next.injEq, reduceCtorEq] at eK) | (subst eK) | split at eK
  all_goals repeat' first | (intro) | with_reducible (first | assumption | apply hostRead_kept | fail_if_no_progress apply Kept.upd) | dsimp only

theorem execMemRdData_kept {p : Port} {src : SrcId} {hpa : DWord} {mv : MetaValue} {tag : BitVec 16} {s : State} {tt : State} (eK : execMemRdData p src hpa mv tag s = .next tt) : Kept s tt := by
  have hK : Kept s s := Kept.refl s
  unfold execMemRdData at eK
  repeat' first | (simp only [ifApplies, Host.Outcome.next.injEq, reduceCtorEq] at eK) | (subst eK) | split at eK
  all_goals repeat' first | (intro) | with_reducible (first | assumption | apply hostRead_kept | fail_if_no_progress apply Kept.upd) | dsimp only

theorem execMemInv_kept {p : Port} {src : SrcId} {hpa : DWord} {mv : MetaValue} {tag : BitVec 16} {s : State} {tt : State} (eK : execMemInv p src hpa mv tag s = .next tt) : Kept s tt := by
  have hK : Kept s s := Kept.refl s
  unfold execMemInv at eK
  repeat' first | (simp only [ifApplies, Host.Outcome.next.injEq, reduceCtorEq] at eK) | (subst eK) | split at eK
  all_goals repeat' first | (intro) | with_reducible (first | assumption | apply hostRead_kept | fail_if_no_progress apply Kept.upd) | dsimp only

theorem execMemInvNt_kept {p : Port} {src : SrcId} {hpa : DWord} {mv : MetaValue} {tag : BitVec 16} {s : State} {tt : State} (eK : execMemInvNt p src hpa mv tag s = .next tt) : Kept s tt := by
  have hK : Kept s s := Kept.refl s
  unfold execMemInvNt at eK
  repeat' first | (simp only [ifApplies, Host.Outcome.next.injEq, reduceCtorEq] at eK) | (subst eK) | split at eK
  all_goals repeat' first | (intro) | with_reducible (first | assumption | apply hostRead_kept | fail_if_no_progress apply Kept.upd) | dsimp only

theorem execMemClnEvct_kept {p : Port} {src : SrcId} {hpa : DWord} {tag : BitVec 16} {s : State} {tt : State} (eK : execMemClnEvct p src hpa tag s = .next tt) : Kept s tt := by
  have hK : Kept s s := Kept.refl s
  unfold execMemClnEvct at eK
  repeat' first | (simp only [ifApplies, Host.Outcome.next.injEq, reduceCtorEq] at eK) | (subst eK) | split at eK
  all_goals repeat' first | (intro) | with_reducible (first | assumption | apply Kept.ite | apply sendDone_kept | apply retryEntries_kept | apply dirRequest_kept | refine front_kept (by assumption) ?_ | refine writeFront_kept (by assumption) ?_ | refine Kept.fst (by assumption) ?_ | fail_if_no_progress apply Kept.upd) | split | dsimp only

theorem execMemSpecRd_kept {_p : Port} {_src : SrcId} {_hpa : DWord} {s : State} {tt : State} (eK : execMemSpecRd _p _src _hpa s = .next tt) : Kept s tt := by
  have hK : Kept s s := Kept.refl s
  unfold execMemSpecRd at eK
  repeat' first | (simp only [ifApplies, Host.Outcome.next.injEq, reduceCtorEq] at eK) | (subst eK) | split at eK
  all_goals repeat' first | (intro) | with_reducible (first | assumption | fail_if_no_progress apply Kept.upd) | dsimp only

theorem execMemWr_kept {p : Port} {src : SrcId} {hpa : DWord} {mv : MetaValue} {tag : BitVec 16} {data : Line} {poison : Bool} {s : State} {tt : State} (eK : execMemWr p src hpa mv tag data poison s = .next tt) : Kept s tt := by
  have hK : Kept s s := Kept.refl s
  unfold execMemWr at eK
  repeat' first | (simp only [ifApplies, Host.Outcome.next.injEq, reduceCtorEq] at eK) | (subst eK) | split at eK
  all_goals repeat' first | (intro) | with_reducible (first | assumption | apply hostWrite_kept | fail_if_no_progress apply Kept.upd) | dsimp only

theorem execMemWrPtl_kept {p : Port} {src : SrcId} {hpa : DWord} {mv : MetaValue} {tag : BitVec 16} {data : Line} {be : DWord} {poison : Bool} {s : State} {tt : State} (eK : execMemWrPtl p src hpa mv tag data be poison s = .next tt) : Kept s tt := by
  have hK : Kept s s := Kept.refl s
  unfold execMemWrPtl at eK
  repeat' first | (simp only [ifApplies, Host.Outcome.next.injEq, reduceCtorEq] at eK) | (subst eK) | split at eK
  all_goals repeat' first | (intro) | with_reducible (first | assumption | apply hostWrite_kept | fail_if_no_progress apply Kept.upd) | dsimp only

theorem recordRsp_kept {s0 : State} (s : State) (dev : Nat) (id : SrcId) (shared : Bool)  (hK : Kept s0 s) : Kept s0 (recordRsp s dev id shared) := by
  unfold recordRsp
  repeat' first | (intro) | with_reducible (first | assumption | apply Kept.ite | apply endRecall_kept | apply putDir_kept | refine Kept.fst (by assumption) ?_ | fail_if_no_progress apply Kept.upd) | split | dsimp only

theorem execBiRsp_kept {p : Port} {src : SrcId} {dev : BitVec 47} {shared : Bool} {s : State} {tt : State} (eK : execBiRsp p src dev shared s = .next tt) : Kept s tt := by
  have hK : Kept s s := Kept.refl s
  unfold execBiRsp at eK
  repeat' first | (simp only [ifApplies, Host.Outcome.next.injEq, reduceCtorEq] at eK) | (subst eK) | split at eK
  all_goals repeat' first | (intro) | with_reducible (first | assumption | apply recordRsp_kept | refine Kept.fst (by assumption) ?_ | fail_if_no_progress apply Kept.upd) | split | dsimp only

theorem execBiConflict_kept {p : Port} {src : SrcId} {dev : BitVec 47} {s : State} {tt : State} (eK : execBiConflict p src dev s = .next tt) : Kept s tt := by
  have hK : Kept s s := Kept.refl s
  unfold execBiConflict at eK
  repeat' first | (simp only [ifApplies, Host.Outcome.next.injEq, reduceCtorEq] at eK) | (subst eK) | split at eK
  all_goals repeat' first | (intro) | with_reducible (first | assumption | apply Kept.ite | apply State.emit_kept | refine Kept.fst (by assumption) ?_ | fail_if_no_progress apply Kept.upd) | split | dsimp only

theorem execStallBudgetExpired_kept {p : Port} {tag : BitVec 16} {s : State} {tt : State} (eK : execStallBudgetExpired p tag s = .next tt) : Kept s tt := by
  have hK : Kept s s := Kept.refl s
  unfold execStallBudgetExpired at eK
  repeat' first | (simp only [ifApplies, Host.Outcome.next.injEq, reduceCtorEq] at eK) | (subst eK) | split at eK
  all_goals repeat' first | (intro) | with_reducible (first | assumption | apply tierMiss_kept | apply sendRead_kept | apply raise_kept | refine Kept.fst (by assumption) ?_ | fail_if_no_progress apply Kept.upd) | split | dsimp only

theorem execRecallWaitExpired_kept {dev : BitVec 47} {s : State} {tt : State} (eK : execRecallWaitExpired dev s = .next tt) : Kept s tt := by
  have hK : Kept s s := Kept.refl s
  unfold execRecallWaitExpired at eK
  repeat' first | (simp only [ifApplies, Host.Outcome.next.injEq, reduceCtorEq] at eK) | (subst eK) | split at eK
  all_goals repeat' first | (intro) | with_reducible (first | assumption | apply Kept.ite | apply recallExpired_kept | refine Kept.fst (by assumption) ?_ | fail_if_no_progress apply Kept.upd) | split | dsimp only

end Sys2Proof.Machine
end

