-- ==== Sys2Proof/Laws/KeptRings.lean ====
section
/-! SUPPORT. The operations of Machine/Rings.lean keep the queue and the canonical form of the memory. -/

set_option linter.unusedTactic false
set_option linter.unreachableTactic false
set_option linter.unusedSimpArgs false

namespace Sys2Proof.Machine

theorem addObject_kept {s0 : State} (s : State) (o : Obj)  (hK : Kept s0 s) : Kept s0 (addObject s o).1 := by
  unfold addObject
  repeat' first | (intro) | with_reducible (first | assumption | fail_if_no_progress apply Kept.upd) | dsimp only

theorem allocScratch_kept {s0 : State} (s : State) (n : Nat) (o : Obj) (k ix : Nat) {tt : State}
    (e : allocScratch s n o k ix = some tt) (h : Kept s0 s) : Kept s0 tt := by
  induction k generalizing s ix with
  | zero => simp only [allocScratch, Option.some.injEq] at e; subst e; exact h
  | succ k ih =>
    unfold allocScratch at e
    split at e
    · exact ih _ _ e (allocFrames_kept _ _ _ _ _ _ h)
    · exact absurd e (by simp)

theorem createObject_kept {s0 : State} (s : State) (o : Obj) {r : State × Nat} (e : createObject s o = some r)
    (h : Kept s0 s) : Kept s0 r.1 := by
  unfold createObject at e
  dsimp only at e
  have ha := addObject_kept s o h
  split at e
  · split at e
    · simp only [Option.map_eq_some_iff] at e
      obtain ⟨u, hu, rfl⟩ := e
      exact allocScratch_kept _ _ _ _ _ hu ha
    · exact absurd e (by simp)
  · simp only [Option.some.injEq] at e; subst e; exact ha

theorem createObject_kept' {s0 : State} {s : State} {o : Obj} {a : State} {n : Nat} (e : createObject s o = some (a, n))
    (h : Kept s0 s) : Kept s0 a := createObject_kept s o e h

theorem answerWaits_kept {s0 : State} (s : State) (p : Waiting → Bool)  (hK : Kept s0 s) : Kept s0 (answerWaits s p) := by
  unfold answerWaits
  repeat' first | (intro) | with_reducible (first | assumption | apply Kept.foldl | apply sendRead_kept | apply sendDone_kept | refine Kept.fst (by assumption) ?_ | apply Kept.foldl_fst | fail_if_no_progress apply Kept.upd) | split | dsimp only

theorem recallRun_kept {s0 : State} (s : State) (base : Nat) (n : Nat)  (hK : Kept s0 s) : Kept s0 (recallRun s base n) := by
  unfold recallRun
  repeat' first | (intro) | with_reducible (first | assumption | apply Kept.ite | apply Kept.foldl | apply putDir_kept | apply startRecall_kept | apply Kept.foldl_fst | fail_if_no_progress apply Kept.upd) | split | dsimp only

theorem endObjectCmds_kept {s0 : State} (s : State) (n : Nat)  (hK : Kept s0 s) : Kept s0 (endObjectCmds s n) := by
  unfold endObjectCmds
  repeat' first | (intro) | with_reducible (first | assumption | apply Kept.foldl | apply endMoverCmd_kept | refine Kept.fst (by assumption) ?_ | apply Kept.foldl_fst | fail_if_no_progress apply Kept.upd) | split | dsimp only

theorem noteWindowFrames_kept {s0 : State} (s : State) (o : Obj) (pids : List Nat)  (hK : Kept s0 s) : Kept s0 (noteWindowFrames s o pids) := by
  unfold noteWindowFrames
  repeat' first | (intro) | with_reducible (first | assumption | apply Kept.foldl | apply Kept.foldl_fst | fail_if_no_progress apply Kept.upd) | dsimp only

theorem deleteObject_kept {s0 : State} (s : State) (n : Nat)  (hK : Kept s0 s) : Kept s0 (deleteObject s n) := by
  unfold deleteObject
  repeat' first | (intro) | with_reducible (first | assumption | apply Kept.ite | apply Kept.foldl | apply recallRun_kept | apply answerWaits_kept | apply noteWindowFrames_kept | apply endObjectCmds_kept | apply dropPage_kept | refine Kept.fst (by assumption) ?_ | apply Kept.foldl_fst | fail_if_no_progress apply Kept.upd) | split | dsimp only

theorem ringError_kept {s0 : State} (s : State) (c : Ctx) (code : Nat)  (hK : Kept s0 s) : Kept s0 (ringError s c code) := by
  unfold ringError
  repeat' first | (intro) | with_reducible (first | assumption | apply State.modCtx_kept | apply sendMsix_kept | apply setInt_kept | fail_if_no_progress apply Kept.upd) | dsimp only

theorem ringObject_kept {s0 : State} {s : State} {c : Ctx} {base : Nat} {order : BitVec 4} {a : State} {n : Nat}
    (e : ringObject s c base order = .ok (a, n)) (h : Kept s0 s) : Kept s0 a := by
  unfold ringObject at e
  dsimp only at e
  split at e
  · exact absurd e (by simp)
  · split at e
    · exact absurd e (by simp)
    · split at e
      · exact absurd e (by simp)
      · split at e
        · simp only [Except.ok.injEq] at e; subst e
          exact createObject_kept _ _ (by assumption) h
        · exact absurd e (by simp)

theorem setOrders_kept {s0 : State} (s : State) (c : Ctx) (value : Word)  (hK : Kept s0 s) : Kept s0 (setOrders s c value) := by
  unfold setOrders
  repeat' first | (intro) | with_reducible (first | assumption | apply Kept.ite | apply State.modCtx_kept | fail_if_no_progress apply Kept.upd) | split | dsimp only

theorem ringsOn_kept {s0 : State} (s : State) (c : Ctx) (a : Nat) (b : Nat)  (hK : Kept s0 s) : Kept s0 (ringsOn s c a b) := by
  unfold ringsOn
  repeat' first | (intro) | with_reducible (first | assumption | apply State.modCtx_kept | fail_if_no_progress apply Kept.upd) | dsimp only

theorem ringOutcome_kept {s0 : State} {x : Except Nat (State × Nat)} {bad : Nat → State} {good : State → Nat → State}
    (hb : ∀ e, Kept s0 (bad e)) (hg : ∀ a n, x = .ok (a, n) → Kept s0 (good a n)) : Kept s0 (ringOutcome x bad good) := by
  unfold ringOutcome
  cases x with
  | error e => exact hb e
  | ok p => exact hg _ _ rfl

theorem makeRings_kept {s0 : State} (s : State) (c : Ctx) (hK : Kept s0 s) : Kept s0 (makeRings s c) := by
  unfold makeRings
  refine ringOutcome_kept (fun e => ringError_kept _ _ _ hK) (fun a n h => ?_)
  exact ringOutcome_kept (fun e => ringError_kept _ _ _ hK)
    (fun b m h' => ringsOn_kept _ _ _ _ (ringObject_kept h' (ringObject_kept h hK)))

theorem enableRings_kept {s0 : State} (s : State) (c : Ctx)  (hK : Kept s0 s) : Kept s0 (enableRings s c) := by
  unfold enableRings
  repeat' first | (intro) | with_reducible (first | assumption | apply Kept.ite | apply State.modCtx_kept | apply makeRings_kept | fail_if_no_progress apply Kept.upd) | split | dsimp only

theorem disableRings_kept {s0 : State} (s : State) (c : Ctx)  (hK : Kept s0 s) : Kept s0 (disableRings s c) := by
  unfold disableRings
  repeat' first | (intro) | with_reducible (first | assumption | apply Kept.ite | apply State.modCtx_kept | fail_if_no_progress apply Kept.upd) | split | dsimp only

theorem deleteRings_kept {s0 : State} (s : State) (c : Ctx)  (hK : Kept s0 s) : Kept s0 (deleteRings s c) := by
  unfold deleteRings
  repeat' first | (intro) | with_reducible (first | assumption | apply Kept.foldl | apply deleteObject_kept | apply State.modCtx_kept | apply Kept.foldl_fst | fail_if_no_progress apply Kept.upd) | dsimp only

theorem resetRing_kept {s0 : State} (s : State) (c : Ctx)  (hK : Kept s0 s) : Kept s0 (resetRing s c) := by
  unfold resetRing
  repeat' first | (intro) | with_reducible (first | assumption | apply deleteRings_kept | apply State.modCtx_kept | fail_if_no_progress apply Kept.upd) | dsimp only

theorem doorbell_kept {s0 : State} (s : State) (c : Ctx) (value : Word)  (hK : Kept s0 s) : Kept s0 (doorbell s c value) := by
  unfold doorbell
  repeat' first | (intro) | with_reducible (first | assumption | apply Kept.ite | apply State.modCtx_kept | apply ringError_kept | fail_if_no_progress apply Kept.upd) | split | dsimp only

theorem headWrite_kept {s0 : State} (s : State) (c : Ctx) (value : Word)  (hK : Kept s0 s) : Kept s0 (headWrite s c value) := by
  unfold headWrite
  repeat' first | (intro) | with_reducible (first | assumption | apply flushOverflow_kept | apply State.modCtx_kept | fail_if_no_progress apply Kept.upd) | dsimp only

theorem restartLease_kept {s0 : State} (s : State) (c : Ctx)  (hK : Kept s0 s) : Kept s0 (restartLease s c) := by
  unfold restartLease
  repeat' first | (intro) | with_reducible (first | assumption | apply Kept.ite | apply State.modCtx_kept | fail_if_no_progress apply Kept.upd) | split | dsimp only

theorem ringLine_kept {s0 : State} (s : State) (c : Ctx)  (hK : Kept s0 s) : Kept s0 (ringLine s c).1 := by
  unfold ringLine
  repeat' first | (intro) | with_reducible (first | assumption | (refine Kept.fst (by assumption) ?_; apply readPage_kept) | apply readPage_kept | refine Kept.fst (by assumption) ?_ | fail_if_no_progress apply Kept.upd) | split | dsimp only

theorem takeEntry_ended {s0 : State} {s : State} {c : Ctx} {e : Line} {op : Nat} {a : State}
    (eK : takeEntry s c e op = .ended a) (hK : Kept s0 s) : Kept s0 a := by
  unfold takeEntry at eK
  split at eK
  · exact absurd eK (by simp)
  · split at eK
    have hr := Kept.fst (by assumption) (ringLine_kept s c hK)
    split at eK
    · injection eK with eK; subst eK
      exact ringError_kept _ _ _ (State.modCtx_kept _ _ _ hr)
    · split at eK
      · exact absurd eK (by simp)
      · extract_lets tag f u v x st at eK
        split at eK
        · exact absurd eK (by simp)
        · injection eK with eK; subst eK
          exact endFlight_kept _ _ _ _ _ _ (restartLease_kept _ _ (State.modCtx_kept _ _ _ hr))

theorem takeEntry_taken {s0 : State} {s : State} {c : Ctx} {e : Line} {op : Nat} {a : State} {tag : Word}
    (eK : takeEntry s c e op = .taken a tag) (hK : Kept s0 s) : Kept s0 a := by
  unfold takeEntry at eK
  split at eK
  · exact absurd eK (by simp)
  · split at eK
    have hr := Kept.fst (by assumption) (ringLine_kept s c hK)
    split at eK
    · exact absurd eK (by simp)
    · split at eK
      · exact absurd eK (by simp)
      · extract_lets tag f u v x st at eK
        split at eK
        · injection eK with eK _; subst eK
          exact restartLease_kept _ _ (State.modCtx_kept _ _ _ hr)
        · exact absurd eK (by simp)

theorem ringCmd_kept {s0 : State} (s : State) (c : Ctx) (e : Line) (op : Nat) (f : State → Word → State) (kf : ∀ (v0 : State) (v1 : Word), Kept s0 v0 → Kept s0 (f v0 v1)) (hK : Kept s0 s) : Kept s0 (ringCmd s c e op f) := by
  unfold ringCmd
  repeat' first | (intro) | with_reducible (first | assumption | apply kf | refine takeEntry_ended (by assumption) ?_ | refine takeEntry_taken (by assumption) ?_ | refine Kept.fst (by assumption) ?_ | fail_if_no_progress apply Kept.upd) | split | dsimp only

theorem execWorkRingDoorbell_kept {c : Ctx} {value : Word} {s : State} {tt : State} (eK : execWorkRingDoorbell c value s = .next tt) : Kept s tt := by
  have hK : Kept s s := Kept.refl s
  unfold execWorkRingDoorbell at eK
  repeat' first | (simp only [ifApplies, Host.Outcome.next.injEq, reduceCtorEq] at eK) | (subst eK) | split at eK
  all_goals repeat' first | (intro) | with_reducible (first | assumption | apply doorbell_kept | fail_if_no_progress apply Kept.upd) | dsimp only

theorem execEventRingHeadWrite_kept {c : Ctx} {value : Word} {s : State} {tt : State} (eK : execEventRingHeadWrite c value s = .next tt) : Kept s tt := by
  have hK : Kept s s := Kept.refl s
  unfold execEventRingHeadWrite at eK
  repeat' first | (simp only [ifApplies, Host.Outcome.next.injEq, reduceCtorEq] at eK) | (subst eK) | split at eK
  all_goals repeat' first | (intro) | with_reducible (first | assumption | apply headWrite_kept | fail_if_no_progress apply Kept.upd) | dsimp only

theorem execRingEnable_kept {c : Ctx} {value : Word} {s : State} {tt : State} (eK : execRingEnable c value s = .next tt) : Kept s tt := by
  have hK : Kept s s := Kept.refl s
  unfold execRingEnable at eK
  repeat' first | (simp only [ifApplies, Host.Outcome.next.injEq, reduceCtorEq] at eK) | (subst eK) | split at eK
  all_goals repeat' first | (intro) | with_reducible (first | assumption | apply Kept.ite | apply enableRings_kept | apply setOrders_kept | fail_if_no_progress apply Kept.upd) | dsimp only

theorem execRingDisable_kept {c : Ctx} {value : Word} {s : State} {tt : State} (eK : execRingDisable c value s = .next tt) : Kept s tt := by
  have hK : Kept s s := Kept.refl s
  unfold execRingDisable at eK
  repeat' first | (simp only [ifApplies, Host.Outcome.next.injEq, reduceCtorEq] at eK) | (subst eK) | split at eK
  all_goals repeat' first | (intro) | with_reducible (first | assumption | apply Kept.ite | apply disableRings_kept | apply setOrders_kept | fail_if_no_progress apply Kept.upd) | dsimp only

theorem execRingDrainComplete_kept {c : Ctx} {s : State} {tt : State} (eK : execRingDrainComplete c s = .next tt) : Kept s tt := by
  have hK : Kept s s := Kept.refl s
  unfold execRingDrainComplete at eK
  repeat' first | (simp only [ifApplies, Host.Outcome.next.injEq, reduceCtorEq] at eK) | (subst eK) | split at eK
  all_goals repeat' first | (intro) | with_reducible (first | assumption | apply Kept.ite | apply deleteRings_kept | fail_if_no_progress apply Kept.upd) | dsimp only

theorem execEventRingInterruptTimer_kept {c : Ctx} {s : State} {tt : State} (eK : execEventRingInterruptTimer c s = .next tt) : Kept s tt := by
  have hK : Kept s s := Kept.refl s
  unfold execEventRingInterruptTimer at eK
  repeat' first | (simp only [ifApplies, Host.Outcome.next.injEq, reduceCtorEq] at eK) | (subst eK) | split at eK
  all_goals repeat' first | (intro) | with_reducible (first | assumption | apply Kept.ite | apply sendMsix_kept | fail_if_no_progress apply Kept.upd) | dsimp only

theorem postCompletion_kept {s0 : State} (s : State) (c : Ctx) (tag : Word)  (hK : Kept s0 s) : Kept s0 (postCompletion s c tag) := by
  unfold postCompletion
  repeat' first | (intro) | with_reducible (first | assumption | apply Kept.ite | apply ringEntry_kept | apply State.modCtx_kept | refine Kept.fst (by assumption) ?_ | fail_if_no_progress apply Kept.upd) | split | dsimp only

theorem execCompletionPost_kept {c : Ctx} {tag : Word} {s : State} {tt : State} (eK : execCompletionPost c tag s = .next tt) : Kept s tt := by
  have hK : Kept s s := Kept.refl s
  unfold execCompletionPost at eK
  repeat' first | (simp only [ifApplies, Host.Outcome.next.injEq, reduceCtorEq] at eK) | (subst eK) | split at eK
  all_goals repeat' first | (intro) | with_reducible (first | assumption | apply postCompletion_kept | fail_if_no_progress apply Kept.upd) | dsimp only

theorem execNop_kept {c : Ctx} {entry : Line} {s : State} {tt : State} (eK : execNop c entry s = .next tt) : Kept s tt := by
  have hK : Kept s s := Kept.refl s
  unfold execNop at eK
  repeat' first | (simp only [ifApplies, Host.Outcome.next.injEq, reduceCtorEq] at eK) | (subst eK) | split at eK
  all_goals repeat' first | (intro) | with_reducible (first | assumption | apply ringCmd_kept | apply endFlight_kept | fail_if_no_progress apply Kept.upd) | dsimp only

end Sys2Proof.Machine
end

