-- ==== Sys2Proof/Laws/KeptNearMem.lean ====
section
/-! SUPPORT. The operations of Machine/NearMem.lean keep the queue and the canonical form of the memory. -/

set_option linter.unusedTactic false
set_option linter.unreachableTactic false
set_option linter.unusedSimpArgs false

namespace Sys2Proof.Machine

theorem granuleWalk_kept {s0 : State} {α : Type} (g : α → State) (dest : Nat) (f : Nat → Nat → α → α)
    (hf : ∀ i n x, Kept s0 (g x) → Kept s0 (g (f i n x))) (fuel i left : Nat) (x : α) (hK : Kept s0 (g x)) :
    Kept s0 (g (granuleWalk dest f fuel i left x)) := by
  induction fuel generalizing i left x with
  | zero => simpa [granuleWalk] using hK
  | succ k ih =>
    cases left with
    | zero => simpa [granuleWalk] using hK
    | succ m => exact ih _ _ _ (hf _ _ _ hK)

theorem pinPages_kept {s0 : State} (s : State) (key : Nat) (pids : List Nat)  (hK : Kept s0 s) : Kept s0 (pinPages s key pids) := by
  unfold pinPages
  repeat' first | (intro) | with_reducible (first | assumption | apply Kept.foldl | apply State.modPage_kept | apply Kept.foldl_fst | fail_if_no_progress apply Kept.upd) | dsimp only

theorem unpinAll_kept {s0 : State} (s : State) (gone : Nat → Bool)  (hK : Kept s0 s) : Kept s0 (unpinAll s gone) := by
  unfold unpinAll
  repeat' first | (intro) | with_reducible (first | assumption | fail_if_no_progress apply Kept.upd) | split | dsimp only

theorem unpinPages_kept {s0 : State} (s : State) (key : Nat)  (hK : Kept s0 s) : Kept s0 (unpinPages s key) := by
  unfold unpinPages
  repeat' first | (intro) | with_reducible (first | assumption | apply unpinAll_kept | fail_if_no_progress apply Kept.upd) | dsimp only

theorem fetchMissing_kept {s0 : State} (s : State) (pids : List Nat)  (hK : Kept s0 s) : Kept s0 (fetchMissing s pids) := by
  unfold fetchMissing
  repeat' first | (intro) | with_reducible (first | assumption | apply Kept.foldl | apply requestFetch_kept | apply Kept.foldl_fst | fail_if_no_progress apply Kept.upd) | dsimp only

theorem devRead_kept {s0 : State} (s : State) (w : DevWriter) (swap : Bool) (dev : Nat)  (hK : Kept s0 s) : Kept s0 (devRead s w swap dev).1 := by
  unfold devRead
  repeat' first | (intro) | with_reducible (first | assumption | apply deviceTraffic_kept | (refine Kept.fst (by assumption) ?_; apply readPage_kept) | apply readPage_kept | refine Kept.fst (by assumption) ?_ | fail_if_no_progress apply Kept.upd) | split | dsimp only

theorem nmRead_kept {s0 : State} (s : State) (c : Ctx) (tag : Word) (dev : Nat)  (hK : Kept s0 s) : Kept s0 (nmRead s c tag dev).1 := by
  unfold nmRead
  repeat' first | (intro) | with_reducible (first | assumption | (refine Kept.fst (by assumption) ?_; apply devRead_kept) | apply devRead_kept | refine Kept.fst (by assumption) ?_ | fail_if_no_progress apply Kept.upd) | dsimp only

theorem nmFillRun_kept {s0 : State} (s : State) (c : Ctx) (tag : Word) (dest len pat : Nat) (hK : Kept s0 s) :
    Kept s0 (nmFillRun s c tag dest len pat) := by
  unfold nmFillRun
  refine endFlight_kept _ _ _ _ _ _ (granuleWalk_kept (g := id) _ _ (fun _ _ _ h => ?_) _ _ _ _ hK)
  dsimp only [id]
  split
  · exact deviceGranule_kept _ _ _ _ _ _ h
  · exact Kept.foldN h (fun _ _ hu => deviceReq_kept _ _ _ _ _ _ _ hu)

theorem nmReadLines_kept {s0 : State} (s : State) (c : Ctx) (tag : Word) (src n : Nat) (hK : Kept s0 s) :
    Kept s0 (nmReadLines s c tag src n).1 := by
  unfold nmReadLines
  exact Kept.foldN_fst hK (fun _ _ hu => nmRead_kept _ _ _ _ hu)

theorem nmCopyPart_kept {s0 : State} (c : Ctx) (tag : Word) (src dest i n : Nat) (x : State × Nat) (hK : Kept s0 x.1) :
    Kept s0 (nmCopyPart c tag src dest i n x).1 := by
  unfold nmCopyPart
  have h := nmReadLines_kept x.1 c tag (src + 64 * i) n hK
  dsimp only
  split
  · exact deviceGranule_kept _ _ _ _ _ _ h
  · exact Kept.foldN h (fun _ _ hu => deviceReq_kept _ _ _ _ _ _ _ hu)

theorem nmCopyRun_kept {s0 : State} (s : State) (c : Ctx) (tag : Word) (src dest len : Nat) (hK : Kept s0 s) :
    Kept s0 (nmCopyRun s c tag src dest len) := by
  unfold nmCopyRun
  exact endFlight_kept _ _ _ _ _ _ (granuleWalk_kept Prod.fst _ _ (fun _ _ _ h => nmCopyPart_kept _ _ _ _ _ _ _ h) _ _ _ _ hK)

theorem nmCompareGo_kept {s0 : State} (s : State) (c : Ctx) (tag : Word) (a b n off : Nat) (h : Kept s0 s) :
    Kept s0 (nmCompareGo s c tag a b n off).1 := by
  induction n generalizing s off with
  | zero => exact h
  | succ n ih =>
    unfold nmCompareGo
    dsimp only
    have h1 := nmRead_kept s c tag (a + off) h
    have h2 := nmRead_kept _ c tag (b + off) h1
    split
    · exact h2
    · split
      · exact h2
      · exact ih _ _ h2

theorem nmReduceRun_kept {s0 : State} (s : State) (c : Ctx) (tag : Word) (src : Nat) (len : Nat) (ty : Nat) (op : Nat)  (hK : Kept s0 s) : Kept s0 (nmReduceRun s c tag src len ty op) := by
  unfold nmReduceRun
  repeat' first | (intro) | with_reducible (first | assumption | apply Kept.ite | apply Kept.foldN | (refine Kept.fst (by assumption) ?_; apply nmRead_kept) | apply nmRead_kept | apply endFlight_kept | apply State.tick_kept | refine Kept.fst (by assumption) ?_ | apply Kept.foldN_fst | fail_if_no_progress apply Kept.upd) | split | dsimp only

theorem devBytes_kept {s0 : State} (s : State) (w : DevWriter) (addr : Nat) (len : Nat)  (hK : Kept s0 s) : Kept s0 (devBytes s w addr len).1 := by
  unfold devBytes
  repeat' first | (intro) | with_reducible (first | assumption | apply Kept.ite | apply Kept.foldN | (refine Kept.fst (by assumption) ?_; apply devRead_kept) | apply devRead_kept | refine Kept.fst (by assumption) ?_ | apply Kept.foldN_fst | fail_if_no_progress apply Kept.upd) | split | dsimp only

theorem handSteward_kept {s0 : State} (s : State) (c : Ctx) (e : Line) (tag : Word)  (hK : Kept s0 s) : Kept s0 (handSteward s c e tag) := by
  unfold handSteward
  repeat' first | (intro) | with_reducible (first | assumption | apply Kept.ite | (refine Kept.fst (by assumption) ?_; apply devBytes_kept) | apply devBytes_kept | apply State.modCtx_kept | apply mci_kept | refine Kept.fst (by assumption) ?_ | fail_if_no_progress apply Kept.upd) | split | dsimp only

theorem swapOutRun_kept {s0 : State} (s : State) (c : Ctx) (tag : Word) (host : Nat) (dev : Nat) (pages : Nat)  (hK : Kept s0 s) : Kept s0 (swapOutRun s c tag host dev pages) := by
  unfold swapOutRun
  repeat' first | (intro) | with_reducible (first | assumption | apply Kept.foldN | (refine Kept.fst (by assumption) ?_; apply devRead_kept) | apply devRead_kept | apply State.emit_kept | apply endFlight_kept | refine Kept.fst (by assumption) ?_ | apply Kept.foldN_fst | fail_if_no_progress apply Kept.upd) | split | dsimp only

theorem nmAct_kept {s0 : State} (s : State) (c : Ctx) (e : Line)  (hK : Kept s0 s) : Kept s0 (nmAct s c e) := by
  unfold nmAct
  repeat' first | (intro) | with_reducible (first | assumption | apply Kept.ite | apply nmFillRun_kept | apply nmCopyRun_kept | (refine Kept.fst (by assumption) ?_; apply nmCompareGo_kept) | apply nmCompareGo_kept | apply endFlight_kept | apply nmReduceRun_kept | apply swapOutRun_kept | apply handSteward_kept | apply deviceReq_kept | refine Kept.fst (by assumption) ?_ | fail_if_no_progress apply Kept.upd) | split | dsimp only

theorem nmRun_kept {s0 : State} (s : State) (c : Ctx) (e : Line)  (hK : Kept s0 s) : Kept s0 (nmRun s c e) := by
  unfold nmRun
  repeat' first | (intro) | with_reducible (first | assumption | apply Kept.ite | apply pinPages_kept | apply fetchMissing_kept | apply unpinPages_kept | apply nmAct_kept | fail_if_no_progress apply Kept.upd) | split | dsimp only

theorem nmCmd_kept {s0 : State} (s : State) (c : Ctx) (e : Line) (op : Nat)  (hK : Kept s0 s) : Kept s0 (nmCmd s c e op) := by
  unfold nmCmd
  repeat' first | (intro) | with_reducible (first | assumption | apply Kept.ite | apply ringCmd_kept | apply endFlight_kept | apply nmRun_kept | fail_if_no_progress apply Kept.upd) | split | dsimp only

theorem resumeNm_kept {s0 : State} (s : State)  (hK : Kept s0 s) : Kept s0 (resumeNm s) := by
  unfold resumeNm
  repeat' first | (intro) | with_reducible (first | assumption | apply Kept.foldl | apply nmRun_kept | apply Kept.foldl_fst | fail_if_no_progress apply Kept.upd) | dsimp only

theorem execNmFill_kept {c : Ctx} {entry : Line} {s : State} {tt : State} (eK : execNmFill c entry s = .next tt) : Kept s tt := by
  have hK : Kept s s := Kept.refl s
  unfold execNmFill at eK
  repeat' first | (simp only [ifApplies, Host.Outcome.next.injEq, reduceCtorEq] at eK) | (subst eK) | split at eK
  all_goals repeat' first | (intro) | with_reducible (first | assumption | apply nmCmd_kept | fail_if_no_progress apply Kept.upd) | dsimp only

theorem execNmCopy_kept {c : Ctx} {entry : Line} {s : State} {tt : State} (eK : execNmCopy c entry s = .next tt) : Kept s tt := by
  have hK : Kept s s := Kept.refl s
  unfold execNmCopy at eK
  repeat' first | (simp only [ifApplies, Host.Outcome.next.injEq, reduceCtorEq] at eK) | (subst eK) | split at eK
  all_goals repeat' first | (intro) | with_reducible (first | assumption | apply nmCmd_kept | fail_if_no_progress apply Kept.upd) | dsimp only

theorem execNmCompare_kept {c : Ctx} {entry : Line} {s : State} {tt : State} (eK : execNmCompare c entry s = .next tt) : Kept s tt := by
  have hK : Kept s s := Kept.refl s
  unfold execNmCompare at eK
  repeat' first | (simp only [ifApplies, Host.Outcome.next.injEq, reduceCtorEq] at eK) | (subst eK) | split at eK
  all_goals repeat' first | (intro) | with_reducible (first | assumption | apply nmCmd_kept | fail_if_no_progress apply Kept.upd) | dsimp only

theorem execNmReduce_kept {c : Ctx} {entry : Line} {s : State} {tt : State} (eK : execNmReduce c entry s = .next tt) : Kept s tt := by
  have hK : Kept s s := Kept.refl s
  unfold execNmReduce at eK
  repeat' first | (simp only [ifApplies, Host.Outcome.next.injEq, reduceCtorEq] at eK) | (subst eK) | split at eK
  all_goals repeat' first | (intro) | with_reducible (first | assumption | apply nmCmd_kept | fail_if_no_progress apply Kept.upd) | dsimp only

theorem execNmAtomic_kept {c : Ctx} {entry : Line} {s : State} {tt : State} (eK : execNmAtomic c entry s = .next tt) : Kept s tt := by
  have hK : Kept s s := Kept.refl s
  unfold execNmAtomic at eK
  repeat' first | (simp only [ifApplies, Host.Outcome.next.injEq, reduceCtorEq] at eK) | (subst eK) | split at eK
  all_goals repeat' first | (intro) | with_reducible (first | assumption | apply nmCmd_kept | fail_if_no_progress apply Kept.upd) | dsimp only

theorem execSteward_kept {c : Ctx} {entry : Line} {s : State} {tt : State} (eK : execSteward c entry s = .next tt) : Kept s tt := by
  have hK : Kept s s := Kept.refl s
  unfold execSteward at eK
  repeat' first | (simp only [ifApplies, Host.Outcome.next.injEq, reduceCtorEq] at eK) | (subst eK) | split at eK
  all_goals repeat' first | (intro) | with_reducible (first | assumption | apply Kept.ite | apply ringCmd_kept | apply endFlight_kept | apply nmRun_kept | fail_if_no_progress apply Kept.upd) | split | dsimp only

end Sys2Proof.Machine
end

