-- ==== Sys2Proof/Laws/KeptSwaps.lean ====
section
/-! SUPPORT. The operations of Machine/Swaps.lean keep the queue and the canonical form of the memory. -/

set_option linter.unusedTactic false
set_option linter.unreachableTactic false
set_option linter.unusedSimpArgs false

namespace Sys2Proof.Machine

theorem swapRead_kept {s0 : State} (s : State) (u : Upstream)  (hK : Kept s0 s) : Kept s0 (swapRead s u) := by
  unfold swapRead
  repeat' first | (intro) | with_reducible (first | assumption | apply State.emit_kept | fail_if_no_progress apply Kept.upd) | dsimp only

theorem swapInRun_kept {s0 : State} (s : State) (c : Ctx) (e : Line) (tag : Word)  (hK : Kept s0 s) : Kept s0 (swapInRun s c e tag) := by
  unfold swapInRun
  repeat' first | (intro) | with_reducible (first | assumption | apply Kept.ite | apply endFlight_kept | apply swapRead_kept | fail_if_no_progress apply Kept.upd) | split | dsimp only

theorem execSwapIn_kept {c : Ctx} {entry : Line} {s : State} {tt : State} (eK : execSwapIn c entry s = .next tt) : Kept s tt := by
  have hK : Kept s s := Kept.refl s
  unfold execSwapIn at eK
  repeat' first | (simp only [ifApplies, Host.Outcome.next.injEq, reduceCtorEq] at eK) | (subst eK) | split at eK
  all_goals repeat' first | (intro) | with_reducible (first | assumption | apply Kept.ite | apply ringCmd_kept | apply swapInRun_kept | apply endFlight_kept | fail_if_no_progress apply Kept.upd) | split | dsimp only

theorem execSwapOut_kept {c : Ctx} {entry : Line} {s : State} {tt : State} (eK : execSwapOut c entry s = .next tt) : Kept s tt := by
  have hK : Kept s s := Kept.refl s
  unfold execSwapOut at eK
  repeat' first | (simp only [ifApplies, Host.Outcome.next.injEq, reduceCtorEq] at eK) | (subst eK) | split at eK
  all_goals repeat' first | (intro) | with_reducible (first | assumption | apply Kept.ite | apply ringCmd_kept | apply nmRun_kept | apply endFlight_kept | fail_if_no_progress apply Kept.upd) | split | dsimp only

theorem endSwap_kept {s0 : State} (s : State) (u : Upstream) (status : Nat)  (hK : Kept s0 s) : Kept s0 (endSwap s u status) := by
  unfold endSwap
  repeat' first | (intro) | with_reducible (first | assumption | apply endFlight_kept | fail_if_no_progress apply Kept.upd) | dsimp only

theorem swapData_kept {s0 : State} (s : State) (u : Upstream) (ep : Bool) (data : List Line)  (hK : Kept s0 s) : Kept s0 (swapData s u ep data) := by
  unfold swapData
  repeat' first | (intro) | with_reducible (first | assumption | apply Kept.ite | apply Kept.foldN | apply Kept.getD | apply deviceWrite_kept | apply endSwap_kept | apply swapRead_kept | apply Kept.foldN_fst | fail_if_no_progress apply Kept.upd) | split | dsimp only

theorem execUpstreamCompletion_kept {c : Ctx} {tag : Word} {successful : Bool} {ep : Bool} {data : List Line} {s : State} {tt : State} (eK : execUpstreamCompletion c tag successful ep data s = .next tt) : Kept s tt := by
  have hK : Kept s s := Kept.refl s
  unfold execUpstreamCompletion at eK
  repeat' first | (simp only [ifApplies, Host.Outcome.next.injEq, reduceCtorEq] at eK) | (subst eK) | split at eK
  all_goals repeat' first | (intro) | with_reducible (first | assumption | apply Kept.ite | apply swapData_kept | apply endSwap_kept | refine Kept.fst (by assumption) ?_ | fail_if_no_progress apply Kept.upd) | split | dsimp only

theorem execUpstreamCompletionTimeout_kept {c : Ctx} {tag : Word} {s : State} {tt : State} (eK : execUpstreamCompletionTimeout c tag s = .next tt) : Kept s tt := by
  have hK : Kept s s := Kept.refl s
  unfold execUpstreamCompletionTimeout at eK
  repeat' first | (simp only [ifApplies, Host.Outcome.next.injEq, reduceCtorEq] at eK) | (subst eK) | split at eK
  all_goals repeat' first | (intro) | with_reducible (first | assumption | apply endSwap_kept | refine Kept.fst (by assumption) ?_ | fail_if_no_progress apply Kept.upd) | split | dsimp only

theorem endSwaps_kept {s0 : State} (s : State) (c : Ctx) (status : Nat)  (hK : Kept s0 s) : Kept s0 (endSwaps s c status) := by
  unfold endSwaps
  repeat' first | (intro) | with_reducible (first | assumption | apply Kept.foldl | apply endSwap_kept | apply Kept.foldl_fst | fail_if_no_progress apply Kept.upd) | dsimp only

end Sys2Proof.Machine
end

