-- ==== Sys2Proof/Laws/KeptControl.lean ====
section
/-! SUPPORT. The operations of Machine/Control.lean keep the queue and the canonical form of the memory. -/

set_option linter.unusedTactic false
set_option linter.unreachableTactic false
set_option linter.unusedSimpArgs false

namespace Sys2Proof.Machine

theorem State.modMbox_kept {s0 : State} (s : State) (p : Port) (secondary : Bool) (f : Mailbox → Mailbox)  (hK : Kept s0 s) : Kept s0 (State.modMbox s p secondary f) := by
  unfold State.modMbox
  repeat' first | (intro) | with_reducible (first | assumption | apply Kept.ite | apply State.modPort_kept | fail_if_no_progress apply Kept.upd) | split | dsimp only

theorem writeBytes_kept {s0 : State} (s : State) (w : DevWriter) (addr : Nat) (bs : List Byte)  (hK : Kept s0 s) : Kept s0 (writeBytes s w addr bs) := by
  unfold writeBytes
  repeat' first | (intro) | with_reducible (first | assumption | apply Kept.ite | apply Kept.foldN | apply deviceWrite_kept | apply Kept.foldN_fst | fail_if_no_progress apply Kept.upd) | split | dsimp only

theorem endSteward_kept {s0 : State} (s : State) (c : Ctx) (tag : Word) (status : Nat) (out : List Byte)  (hK : Kept s0 s) : Kept s0 (endSteward s c tag status out) := by
  unfold endSteward
  repeat' first | (intro) | with_reducible (first | assumption | apply Kept.ite | apply State.bump_kept | apply endFlight_kept | apply writeBytes_kept | refine Kept.fst (by assumption) ?_ | fail_if_no_progress apply Kept.upd) | split | dsimp only

theorem answer_kept {s0 : State} (s : State) (via : Path) (tag : Word) (op : Nat) (status : Nat) (out : List Byte)  (hK : Kept s0 s) : Kept s0 (answer s via tag op status out) := by
  unfold answer
  repeat' first | (intro) | with_reducible (first | assumption | apply Kept.ite | apply endSteward_kept | apply State.bump_kept | apply State.reply_kept | apply State.modMbox_kept | refine Kept.fst (by assumption) ?_ | fail_if_no_progress apply Kept.upd) | split | dsimp only

theorem beginFlight_kept {s0 : State} (s : State) (c : Ctx) (tag : Word)  (hK : Kept s0 s) : Kept s0 (beginFlight s c tag) := by
  unfold beginFlight
  repeat' first | (intro) | with_reducible (first | assumption | apply Kept.ite | apply State.modCtx_kept | fail_if_no_progress apply Kept.upd) | split | dsimp only

theorem runHandler_kept {s0 : State} (s : State) (via : Path) (tag : Word) (op : Nat) (row : MciRow) (input : List Byte) (h : Handler) (kh : ∀ v m, Kept s0 v → Kept s0 (h v m).1) (hK : Kept s0 s) : Kept s0 (runHandler s via tag op row input h) := by
  unfold runHandler
  repeat' first | (intro) | with_reducible (first | assumption | apply Kept.ite | apply answer_kept | apply setInt_kept | (refine Kept.fst (by assumption) ?_; apply kh) | apply kh | refine Kept.fst (by assumption) ?_ | fail_if_no_progress apply Kept.upd) | split | dsimp only

theorem mci_kept {s0 : State} (s : State) (via : Path) (op : Nat) (input : List Byte) (h : Handler) (kh : ∀ v m, Kept s0 v → Kept s0 (h v m).1) (hK : Kept s0 s) : Kept s0 (mci s via op input h) := by
  unfold mci
  repeat' first | (intro) | with_reducible (first | assumption | apply Kept.ite | apply beginFlight_kept | apply endSteward_kept | apply runHandler_kept | apply State.reply_kept | apply State.modMbox_kept | (refine Kept.fst (by assumption) ?_; apply kh) | apply kh | refine Kept.fst (by assumption) ?_ | fail_if_no_progress apply Kept.upd) | split | dsimp only

theorem backgroundDone_kept {s0 : State} (s : State) (p : Port) (b : Bool)  (hK : Kept s0 s) : Kept s0 (backgroundDone s p b) := by
  unfold backgroundDone
  repeat' first | (intro) | with_reducible (first | assumption | apply Kept.ite | apply State.modMbox_kept | apply State.emit_kept | apply sendMsix_kept | refine Kept.fst (by assumption) ?_ | fail_if_no_progress apply Kept.upd) | split | dsimp only

theorem execBackgroundCommandComplete_kept {p : Port} {secondary : Bool} {s : State} {tt : State} (eK : execBackgroundCommandComplete p secondary s = .next tt) : Kept s tt := by
  have hK : Kept s s := Kept.refl s
  unfold execBackgroundCommandComplete at eK
  repeat' first | (simp only [ifApplies, Host.Outcome.next.injEq, reduceCtorEq] at eK) | (subst eK) | split at eK
  all_goals repeat' first | (intro) | with_reducible (first | assumption | apply backgroundDone_kept | fail_if_no_progress apply Kept.upd) | dsimp only

theorem identify_kept {s0 : State} (s : State) (m : MciCall) (hK : Kept s0 s) : Kept s0 (identify s m).1 := by
  unfold identify
  repeat' first | (intro) | with_reducible (first | assumption | refine Kept.fst (by assumption) ?_ | fail_if_no_progress apply Kept.upd) | split | dsimp only

theorem execMciIdentify_kept {via : Path} {input : List Byte} {s : State} {tt : State} (eK : execMciIdentify via input s = .next tt) : Kept s tt := by
  have hK : Kept s s := Kept.refl s
  unfold execMciIdentify at eK
  repeat' first | (simp only [ifApplies, Host.Outcome.next.injEq, reduceCtorEq] at eK) | (subst eK) | split at eK
  all_goals repeat' first | (intro) | with_reducible (first | assumption | apply mci_kept | apply identify_kept | refine Kept.fst (by assumption) ?_ | fail_if_no_progress apply Kept.upd) | dsimp only

theorem selectCtx_kept {s0 : State} (s : State) (m : MciCall) (hK : Kept s0 s) : Kept s0 (selectCtx s m).1 := by
  unfold selectCtx
  repeat' first | (intro) | with_reducible (first | assumption | apply Kept.ite | apply State.modMbox_kept | refine Kept.fst (by assumption) ?_ | fail_if_no_progress apply Kept.upd) | split | dsimp only

theorem execCtxSelect_kept {via : Path} {input : List Byte} {s : State} {tt : State} (eK : execCtxSelect via input s = .next tt) : Kept s tt := by
  have hK : Kept s s := Kept.refl s
  unfold execCtxSelect at eK
  repeat' first | (simp only [ifApplies, Host.Outcome.next.injEq, reduceCtorEq] at eK) | (subst eK) | split at eK
  all_goals repeat' first | (intro) | with_reducible (first | assumption | apply mci_kept | apply selectCtx_kept | refine Kept.fst (by assumption) ?_ | fail_if_no_progress apply Kept.upd) | dsimp only

theorem setRole_kept {s0 : State} (s : State) (m : MciCall) (hK : Kept s0 s) : Kept s0 (setRole s m).1 := by
  unfold setRole
  repeat' first | (intro) | with_reducible (first | assumption | apply Kept.ite | apply Kept.foldl | apply State.modPort_kept | apply Kept.foldl_fst | fail_if_no_progress apply Kept.upd) | split | dsimp only

theorem execPortRoleSet_kept {via : Path} {input : List Byte} {s : State} {tt : State} (eK : execPortRoleSet via input s = .next tt) : Kept s tt := by
  have hK : Kept s s := Kept.refl s
  unfold execPortRoleSet at eK
  repeat' first | (simp only [ifApplies, Host.Outcome.next.injEq, reduceCtorEq] at eK) | (subst eK) | split at eK
  all_goals repeat' first | (intro) | with_reducible (first | assumption | apply mci_kept | apply setRole_kept | refine Kept.fst (by assumption) ?_ | fail_if_no_progress apply Kept.upd) | dsimp only

theorem swapGrantSet_kept {s0 : State} (s : State) (m : MciCall) (hK : Kept s0 s) : Kept s0 (swapGrantSet s m).1 := by
  unfold swapGrantSet
  repeat' first | (intro) | with_reducible (first | assumption | apply Kept.ite | apply State.modCtx_kept | fail_if_no_progress apply Kept.upd) | split | dsimp only

theorem execSwapGrant_kept {via : Path} {input : List Byte} {s : State} {tt : State} (eK : execSwapGrant via input s = .next tt) : Kept s tt := by
  have hK : Kept s s := Kept.refl s
  unfold execSwapGrant at eK
  repeat' first | (simp only [ifApplies, Host.Outcome.next.injEq, reduceCtorEq] at eK) | (subst eK) | split at eK
  all_goals repeat' first | (intro) | with_reducible (first | assumption | apply mci_kept | apply swapGrantSet_kept | refine Kept.fst (by assumption) ?_ | fail_if_no_progress apply Kept.upd) | dsimp only

theorem setSources_kept {s0 : State} (s : State) (m : MciCall) (hK : Kept s0 s) : Kept s0 (setSources s m).1 := by
  unfold setSources
  repeat' first | (intro) | with_reducible (first | assumption | apply Kept.ite | apply Kept.foldl | apply Kept.foldl_fst | fail_if_no_progress apply Kept.upd) | split | dsimp only

theorem execSrcidSet_kept {via : Path} {input : List Byte} {s : State} {tt : State} (eK : execSrcidSet via input s = .next tt) : Kept s tt := by
  have hK : Kept s s := Kept.refl s
  unfold execSrcidSet at eK
  repeat' first | (simp only [ifApplies, Host.Outcome.next.injEq, reduceCtorEq] at eK) | (subst eK) | split at eK
  all_goals repeat' first | (intro) | with_reducible (first | assumption | apply mci_kept | apply setSources_kept | refine Kept.fst (by assumption) ?_ | fail_if_no_progress apply Kept.upd) | dsimp only

end Sys2Proof.Machine
end

