-- ==== Sys2Proof/Laws/KeptObjects.lean ====
section
/-! SUPPORT. The operations of Machine/Objects.lean keep the queue and the canonical form of the memory. -/

set_option linter.unusedTactic false
set_option linter.unreachableTactic false
set_option linter.unusedSimpArgs false

namespace Sys2Proof.Machine

theorem objCreateH_kept {s0 : State} (s : State) (m : MciCall) (hK : Kept s0 s) : Kept s0 (objCreateH s m).1 := by
  unfold objCreateH
  repeat' first | (intro) | with_reducible (first | assumption | refine createObject_kept' (by assumption) ?_ | refine Kept.fst (by assumption) ?_ | fail_if_no_progress apply Kept.upd) | split | dsimp only

theorem execObjCreate_kept {via : Path} {input : List Byte} {s : State} {tt : State} (eK : execObjCreate via input s = .next tt) : Kept s tt := by
  have hK : Kept s s := Kept.refl s
  unfold execObjCreate at eK
  repeat' first | (simp only [ifApplies, Host.Outcome.next.injEq, reduceCtorEq] at eK) | (subst eK) | split at eK
  all_goals repeat' first | (intro) | with_reducible (first | assumption | apply mci_kept | apply objCreateH_kept | refine Kept.fst (by assumption) ?_ | fail_if_no_progress apply Kept.upd) | dsimp only

theorem objDeleteH_kept {s0 : State} (s : State) (m : MciCall) (hK : Kept s0 s) : Kept s0 (objDeleteH s m).1 := by
  unfold objDeleteH
  repeat' first | (intro) | with_reducible (first | assumption | apply Kept.ite | apply serveWaits_kept | apply deleteObject_kept | refine Kept.fst (by assumption) ?_ | fail_if_no_progress apply Kept.upd) | split | dsimp only

theorem execObjDelete_kept {via : Path} {input : List Byte} {s : State} {tt : State} (eK : execObjDelete via input s = .next tt) : Kept s tt := by
  have hK : Kept s s := Kept.refl s
  unfold execObjDelete at eK
  repeat' first | (simp only [ifApplies, Host.Outcome.next.injEq, reduceCtorEq] at eK) | (subst eK) | split at eK
  all_goals repeat' first | (intro) | with_reducible (first | assumption | apply mci_kept | apply objDeleteH_kept | refine Kept.fst (by assumption) ?_ | fail_if_no_progress apply Kept.upd) | dsimp only

theorem objSetClassH_kept {s0 : State} (s : State) (m : MciCall) (hK : Kept s0 s) : Kept s0 (objSetClassH s m).1 := by
  unfold objSetClassH
  repeat' first | (intro) | with_reducible (first | assumption | apply Kept.ite | apply State.modObj_kept | apply promotePages_kept | refine Kept.fst (by assumption) ?_ | fail_if_no_progress apply Kept.upd) | split | dsimp only

theorem execObjSetClass_kept {via : Path} {input : List Byte} {s : State} {tt : State} (eK : execObjSetClass via input s = .next tt) : Kept s tt := by
  have hK : Kept s s := Kept.refl s
  unfold execObjSetClass at eK
  repeat' first | (simp only [ifApplies, Host.Outcome.next.injEq, reduceCtorEq] at eK) | (subst eK) | split at eK
  all_goals repeat' first | (intro) | with_reducible (first | assumption | apply mci_kept | apply objSetClassH_kept | refine Kept.fst (by assumption) ?_ | fail_if_no_progress apply Kept.upd) | dsimp only

theorem objQueryH_kept {s0 : State} (s : State) (m : MciCall) (hK : Kept s0 s) : Kept s0 (objQueryH s m).1 := by
  unfold objQueryH
  repeat' first | (intro) | with_reducible (first | assumption | apply Kept.ite | refine Kept.fst (by assumption) ?_ | fail_if_no_progress apply Kept.upd) | split | dsimp only

theorem execObjQuery_kept {via : Path} {input : List Byte} {s : State} {tt : State} (eK : execObjQuery via input s = .next tt) : Kept s tt := by
  have hK : Kept s s := Kept.refl s
  unfold execObjQuery at eK
  repeat' first | (simp only [ifApplies, Host.Outcome.next.injEq, reduceCtorEq] at eK) | (subst eK) | split at eK
  all_goals repeat' first | (intro) | with_reducible (first | assumption | apply mci_kept | apply objQueryH_kept | refine Kept.fst (by assumption) ?_ | fail_if_no_progress apply Kept.upd) | dsimp only

theorem orderSetH_kept {s0 : State} (s : State) (m : MciCall) (hK : Kept s0 s) : Kept s0 (orderSetH s m).1 := by
  unfold orderSetH
  repeat' first | (intro) | with_reducible (first | assumption | apply Kept.ite | apply Kept.foldl | apply Kept.foldl_fst | fail_if_no_progress apply Kept.upd) | split | dsimp only

theorem execDramOrderSet_kept {via : Path} {input : List Byte} {s : State} {tt : State} (eK : execDramOrderSet via input s = .next tt) : Kept s tt := by
  have hK : Kept s s := Kept.refl s
  unfold execDramOrderSet at eK
  repeat' first | (simp only [ifApplies, Host.Outcome.next.injEq, reduceCtorEq] at eK) | (subst eK) | split at eK
  all_goals repeat' first | (intro) | with_reducible (first | assumption | apply mci_kept | apply orderSetH_kept | refine Kept.fst (by assumption) ?_ | fail_if_no_progress apply Kept.upd) | dsimp only

theorem stageCommit_kept {s0 : State} (s : State) (c : Ctx)  (hK : Kept s0 s) : Kept s0 (stageCommit s c) := by
  unfold stageCommit
  repeat' first | (intro) | with_reducible (first | assumption | apply State.modCtx_kept | fail_if_no_progress apply Kept.upd) | dsimp only

theorem winCreateH_kept {s0 : State} (s : State) (m : MciCall) (hK : Kept s0 s) : Kept s0 (winCreateH s m).1 := by
  unfold winCreateH
  repeat' first | (intro) | with_reducible (first | assumption | apply Kept.ite | apply stageCommit_kept | refine Kept.fst (by assumption) ?_ | fail_if_no_progress apply Kept.upd) | split | dsimp only

theorem execWinCreate_kept {via : Path} {input : List Byte} {s : State} {tt : State} (eK : execWinCreate via input s = .next tt) : Kept s tt := by
  have hK : Kept s s := Kept.refl s
  unfold execWinCreate at eK
  repeat' first | (simp only [ifApplies, Host.Outcome.next.injEq, reduceCtorEq] at eK) | (subst eK) | split at eK
  all_goals repeat' first | (intro) | with_reducible (first | assumption | apply mci_kept | apply winCreateH_kept | refine Kept.fst (by assumption) ?_ | fail_if_no_progress apply Kept.upd) | dsimp only

theorem winDeleteH_kept {s0 : State} (s : State) (m : MciCall) (hK : Kept s0 s) : Kept s0 (winDeleteH s m).1 := by
  unfold winDeleteH
  repeat' first | (intro) | with_reducible (first | assumption | apply Kept.ite | apply stageCommit_kept | apply recallRun_kept | refine Kept.fst (by assumption) ?_ | fail_if_no_progress apply Kept.upd) | split | dsimp only

theorem execWinDelete_kept {via : Path} {input : List Byte} {s : State} {tt : State} (eK : execWinDelete via input s = .next tt) : Kept s tt := by
  have hK : Kept s s := Kept.refl s
  unfold execWinDelete at eK
  repeat' first | (simp only [ifApplies, Host.Outcome.next.injEq, reduceCtorEq] at eK) | (subst eK) | split at eK
  all_goals repeat' first | (intro) | with_reducible (first | assumption | apply mci_kept | apply winDeleteH_kept | refine Kept.fst (by assumption) ?_ | fail_if_no_progress apply Kept.upd) | dsimp only

theorem commitWindows_kept {s0 : State} (s : State) (c : Ctx)  (hK : Kept s0 s) : Kept s0 (commitWindows s c) := by
  unfold commitWindows
  repeat' first | (intro) | with_reducible (first | assumption | apply Kept.ite | apply Kept.foldl | apply answer_kept | apply stageCommit_kept | apply recallRun_kept | refine Kept.fst (by assumption) ?_ | apply Kept.foldl_fst | fail_if_no_progress apply Kept.upd) | split | dsimp only

end Sys2Proof.Machine
end

