-- ==== Sys2Proof/Laws/KeptOperands.lean ====
section
/-! SUPPORT. The operations of Machine/Operands.lean keep the queue and the canonical form of the memory. -/

set_option linter.unusedTactic false
set_option linter.unreachableTactic false
set_option linter.unusedSimpArgs false

namespace Sys2Proof.Machine

theorem State.runCore_kept {s0 : State} (s : State) (k : Nat) (f : CoreState → CoreState)  (hK : Kept s0 s) : Kept s0 (State.runCore s k f) := by
  unfold State.runCore
  repeat' first | (intro) | with_reducible (first | assumption | fail_if_no_progress apply Kept.upd) | dsimp only

end Sys2Proof.Machine
end

