-- ==== Sys2Proof/Laws/KeptEngines.lean ====
section
/-! SUPPORT. The operations of Machine/Engines.lean keep the queue and the canonical form of the memory. -/

set_option linter.unusedTactic false
set_option linter.unreachableTactic false
set_option linter.unusedSimpArgs false

namespace Sys2Proof.Machine

theorem State.issue_kept {s0 : State} (s : State) (k : CoreId) (i : Instr) (f : CoreState → CoreState)  (hK : Kept s0 s) : Kept s0 (State.issue s k i f) := by
  unfold State.issue
  repeat' first | (intro) | with_reducible (first | assumption | apply Kept.ite | apply State.runCore_kept | fail_if_no_progress apply Kept.upd) | split | dsimp only

end Sys2Proof.Machine
end

