-- ==== Sys2Proof/Laws/KeptXField.lean ====
section
/-! SUPPORT. The operations of Machine/XField.lean keep the queue and the canonical form of the memory. -/

set_option linter.unusedTactic false
set_option linter.unreachableTactic false
set_option linter.unusedSimpArgs false

namespace Sys2Proof.Machine

theorem postMsg_kept {s0 : State} (s : State) (m : XMsg)  (hK : Kept s0 s) : Kept s0 (postMsg s m) := by
  unfold postMsg
  repeat' first | (intro) | with_reducible (first | assumption | fail_if_no_progress apply Kept.upd) | dsimp only

theorem State.collect_kept {s0 : State} (s : State) (k : Nat)  (hK : Kept s0 s) : Kept s0 (State.collect s k) := by
  unfold State.collect
  repeat' first | (intro) | with_reducible (first | assumption | apply Kept.foldl | apply postMsg_kept | apply State.modCore_kept | apply Kept.foldl_fst | fail_if_no_progress apply Kept.upd) | dsimp only

theorem onX_kept {i : Instr} {k : CoreId} {f : CoreState → CoreState} {s : State} {tt : State} (eK : onX i k f s = .next tt) : Kept s tt := by
  have hK : Kept s s := Kept.refl s
  unfold onX at eK
  repeat' first | (simp only [ifApplies, Host.Outcome.next.injEq, reduceCtorEq] at eK) | (subst eK) | split at eK
  all_goals repeat' first | (intro) | with_reducible (first | assumption | apply Kept.ite | apply State.runCore_kept | apply State.collect_kept | fail_if_no_progress apply Kept.upd) | split | dsimp only

theorem execXnop_kept {k : CoreId} {s : State} {tt : State} (eK : execXnop k s = .next tt) : Kept s tt := by
  have hK : Kept s s := Kept.refl s
  unfold execXnop at eK
  repeat' first | exact onX_kept eK | (simp only [ifApplies, Host.Outcome.next.injEq, reduceCtorEq] at eK) | (subst eK) | split at eK
  all_goals repeat' first | (intro) | with_reducible (first | assumption | fail_if_no_progress apply Kept.upd) | dsimp only

theorem execStep_kept {k : CoreId} {s : State} {tt : State} (eK : execStep k s = .next tt) : Kept s tt := by
  have hK : Kept s s := Kept.refl s
  unfold execStep at eK
  repeat' first | exact onX_kept eK | (simp only [ifApplies, Host.Outcome.next.injEq, reduceCtorEq] at eK) | (subst eK) | split at eK
  all_goals repeat' first | (intro) | with_reducible (first | assumption | fail_if_no_progress apply Kept.upd) | dsimp only

theorem execEndPattern_kept {k : CoreId} {s : State} {tt : State} (eK : execEndPattern k s = .next tt) : Kept s tt := by
  have hK : Kept s s := Kept.refl s
  unfold execEndPattern at eK
  repeat' first | exact onX_kept eK | (simp only [ifApplies, Host.Outcome.next.injEq, reduceCtorEq] at eK) | (subst eK) | split at eK
  all_goals repeat' first | (intro) | with_reducible (first | assumption | fail_if_no_progress apply Kept.upd) | dsimp only

theorem execLcnt_kept {k : CoreId} {counter : BitVec 3} {limit : BitVec 23} {s : State} {tt : State} (eK : execLcnt k counter limit s = .next tt) : Kept s tt := by
  have hK : Kept s s := Kept.refl s
  unfold execLcnt at eK
  repeat' first | exact onX_kept eK | (simp only [ifApplies, Host.Outcome.next.injEq, reduceCtorEq] at eK) | (subst eK) | split at eK
  all_goals repeat' first | (intro) | with_reducible (first | assumption | apply Kept.ite | fail_if_no_progress apply Kept.upd) | split | dsimp only

theorem execLoop_kept {k : CoreId} {counter : BitVec 3} {target : BitVec 12} {s : State} {tt : State} (eK : execLoop k counter target s = .next tt) : Kept s tt := by
  have hK : Kept s s := Kept.refl s
  unfold execLoop at eK
  repeat' first | exact onX_kept eK | (simp only [ifApplies, Host.Outcome.next.injEq, reduceCtorEq] at eK) | (subst eK) | split at eK
  all_goals repeat' first | (intro) | with_reducible (first | assumption | apply Kept.ite | fail_if_no_progress apply Kept.upd) | split | dsimp only

theorem execWaitf_kept {k : CoreId} {cycle : BitVec 11} {frames : BitVec 8} {s : State} {tt : State} (eK : execWaitf k cycle frames s = .next tt) : Kept s tt := by
  have hK : Kept s s := Kept.refl s
  unfold execWaitf at eK
  repeat' first | exact onX_kept eK | (simp only [ifApplies, Host.Outcome.next.injEq, reduceCtorEq] at eK) | (subst eK) | split at eK
  all_goals repeat' first | (intro) | with_reducible (first | assumption | apply Kept.ite | fail_if_no_progress apply Kept.upd) | split | dsimp only

theorem execWaitfResume_kept {k : CoreId} {s : State} {tt : State} (eK : execWaitfResume k s = .next tt) : Kept s tt := by
  have hK : Kept s s := Kept.refl s
  unfold execWaitfResume at eK
  repeat' first | (simp only [ifApplies, Host.Outcome.next.injEq, reduceCtorEq] at eK) | (subst eK) | split at eK
  all_goals repeat' first | (intro) | with_reducible (first | assumption | apply Kept.ite | apply State.runCore_kept | apply State.collect_kept | fail_if_no_progress apply Kept.upd) | split | dsimp only

theorem execAcw_kept {k : CoreId} {value : BitVec 19} {s : State} {tt : State} (eK : execAcw k value s = .next tt) : Kept s tt := by
  have hK : Kept s s := Kept.refl s
  unfold execAcw at eK
  repeat' first | exact onX_kept eK | (simp only [ifApplies, Host.Outcome.next.injEq, reduceCtorEq] at eK) | (subst eK) | split at eK
  all_goals repeat' first | (intro) | with_reducible (first | assumption | apply Kept.ite | fail_if_no_progress apply Kept.upd) | split | dsimp only

theorem execTsd_kept {k : CoreId} {stream : BitVec 3} {addr16 : BitVec 14} {s : State} {tt : State} (eK : execTsd k stream addr16 s = .next tt) : Kept s tt := by
  have hK : Kept s s := Kept.refl s
  unfold execTsd at eK
  repeat' first | exact onX_kept eK | (simp only [ifApplies, Host.Outcome.next.injEq, reduceCtorEq] at eK) | (subst eK) | split at eK
  all_goals repeat' first | (intro) | with_reducible (first | assumption | apply Kept.ite | fail_if_no_progress apply Kept.upd) | split | dsimp only

theorem onExchange_kept {i : Instr} {k : CoreId} {entry : Nat} {reduction : Bool} {s : State} {tt : State} (eK : onExchange i k entry reduction s = .next tt) : Kept s tt := by
  have hK : Kept s s := Kept.refl s
  unfold onExchange at eK
  repeat' first | exact onX_kept eK | (simp only [ifApplies, Host.Outcome.next.injEq, reduceCtorEq] at eK) | (subst eK) | split at eK
  all_goals repeat' first | (intro) | with_reducible (first | assumption | fail_if_no_progress apply Kept.upd) | dsimp only

theorem execXsend_kept {k : CoreId} {entry : BitVec 12} {s : State} {tt : State} (eK : execXsend k entry s = .next tt) : Kept s tt := by
  have hK : Kept s s := Kept.refl s
  unfold execXsend at eK
  repeat' first | exact onExchange_kept eK | (simp only [ifApplies, Host.Outcome.next.injEq, reduceCtorEq] at eK) | (subst eK) | split at eK
  all_goals repeat' first | (intro) | with_reducible (first | assumption | fail_if_no_progress apply Kept.upd) | dsimp only

theorem execXred_kept {k : CoreId} {entry : BitVec 12} {s : State} {tt : State} (eK : execXred k entry s = .next tt) : Kept s tt := by
  have hK : Kept s s := Kept.refl s
  unfold execXred at eK
  repeat' first | exact onExchange_kept eK | (simp only [ifApplies, Host.Outcome.next.injEq, reduceCtorEq] at eK) | (subst eK) | split at eK
  all_goals repeat' first | (intro) | with_reducible (first | assumption | fail_if_no_progress apply Kept.upd) | dsimp only

theorem execXwait_kept {k : CoreId} {count : BitVec 16} {s : State} {tt : State} (eK : execXwait k count s = .next tt) : Kept s tt := by
  have hK : Kept s s := Kept.refl s
  unfold execXwait at eK
  repeat' first | exact onX_kept eK | (simp only [ifApplies, Host.Outcome.next.injEq, reduceCtorEq] at eK) | (subst eK) | split at eK
  all_goals repeat' first | (intro) | with_reducible (first | assumption | apply Kept.ite | fail_if_no_progress apply Kept.upd) | split | dsimp only

theorem execXclr_kept {k : CoreId} {s : State} {tt : State} (eK : execXclr k s = .next tt) : Kept s tt := by
  have hK : Kept s s := Kept.refl s
  unfold execXclr at eK
  repeat' first | exact onX_kept eK | (simp only [ifApplies, Host.Outcome.next.injEq, reduceCtorEq] at eK) | (subst eK) | split at eK
  all_goals repeat' first | (intro) | with_reducible (first | assumption | fail_if_no_progress apply Kept.upd) | dsimp only

theorem received_kept {s0 : State} (s : State) (k : Nat)  (hK : Kept s0 s) : Kept s0 (received s k) := by
  unfold received
  repeat' first | (intro) | with_reducible (first | assumption | apply Kept.ite | apply State.runCore_kept | apply State.collect_kept | refine Kept.fst (by assumption) ?_ | fail_if_no_progress apply Kept.upd) | split | dsimp only

theorem contribute_kept {s0 : State} (s : State) (m : XMsg) (ix : Nat) (v : Nat) (place : Nat)  (hK : Kept s0 s) : Kept s0 (contribute s m ix v place) := by
  unfold contribute
  repeat' first | (intro) | with_reducible (first | assumption | apply Kept.ite | apply Kept.getD | apply State.modCore_kept | apply received_kept | refine Kept.fst (by assumption) ?_ | fail_if_no_progress apply Kept.upd) | split | dsimp only

theorem dropStale_kept {s0 : State} (s : State) (m : XMsg)  (hK : Kept s0 s) : Kept s0 (dropStale s m) := by
  unfold dropStale
  repeat' first | (intro) | with_reducible (first | assumption | apply mergeEvent_kept | fail_if_no_progress apply Kept.upd) | dsimp only

theorem execExchangeMessageArrive_kept {msg : Nat} {s : State} {tt : State} (eK : execExchangeMessageArrive msg s = .next tt) : Kept s tt := by
  have hK : Kept s s := Kept.refl s
  unfold execExchangeMessageArrive at eK
  repeat' first | (simp only [ifApplies, Host.Outcome.next.injEq, reduceCtorEq] at eK) | (subst eK) | split at eK
  all_goals repeat' first | (intro) | with_reducible (first | assumption | apply Kept.ite | apply dropStale_kept | apply received_kept | apply State.modCore_kept | apply contribute_kept | refine Kept.fst (by assumption) ?_ | fail_if_no_progress apply Kept.upd) | split | dsimp only

end Sys2Proof.Machine
end

