-- ==== Sys2Proof/Laws/KeptLoader.lean ====
section
/-! SUPPORT. The operations of Machine/Loader.lean keep the queue and the canonical form of the memory. -/

set_option linter.unusedTactic false
set_option linter.unreachableTactic false
set_option linter.unusedSimpArgs false

namespace Sys2Proof.Machine

theorem storePattern_kept {s0 : State} (s : State) (x : Except Nat Pattern)  (hK : Kept s0 s) : Kept s0 (storePattern s x).1 := by
  unfold storePattern
  repeat' first | (intro) | with_reducible (first | assumption | apply Kept.ite | refine Kept.fst (by assumption) ?_ | fail_if_no_progress apply Kept.upd) | split | dsimp only

theorem patLoadH_kept {s0 : State} (s : State) (m : MciCall) (hK : Kept s0 s) : Kept s0 (patLoadH s m).1 := by
  unfold patLoadH
  extract_lets addr n
  split
  · exact hK
  · split
    · exact Kept.upd (fetchMissing_kept _ _ hK)
    · split
      have h := Kept.fst (by assumption) (devBytes_kept s (stewardOf m.c m.tag) addr n hK)
      split
      · exact h
      · exact storePattern_kept _ _ h

theorem execPatLoad_kept {via : Path} {input : List Byte} {s : State} {tt : State} (eK : execPatLoad via input s = .next tt) : Kept s tt := by
  have hK : Kept s s := Kept.refl s
  unfold execPatLoad at eK
  repeat' first | (simp only [ifApplies, Host.Outcome.next.injEq, reduceCtorEq] at eK) | (subst eK) | split at eK
  all_goals repeat' first | (intro) | with_reducible (first | assumption | apply mci_kept | apply patLoadH_kept | refine Kept.fst (by assumption) ?_ | fail_if_no_progress apply Kept.upd) | dsimp only

theorem patUnloadH_kept {s0 : State} (s : State) (m : MciCall) (hK : Kept s0 s) : Kept s0 (patUnloadH s m).1 := by
  unfold patUnloadH
  repeat' first | (intro) | with_reducible (first | assumption | apply Kept.ite | refine Kept.fst (by assumption) ?_ | fail_if_no_progress apply Kept.upd) | split | dsimp only

theorem execPatUnload_kept {via : Path} {input : List Byte} {s : State} {tt : State} (eK : execPatUnload via input s = .next tt) : Kept s tt := by
  have hK : Kept s s := Kept.refl s
  unfold execPatUnload at eK
  repeat' first | (simp only [ifApplies, Host.Outcome.next.injEq, reduceCtorEq] at eK) | (subst eK) | split at eK
  all_goals repeat' first | (intro) | with_reducible (first | assumption | apply mci_kept | apply patUnloadH_kept | refine Kept.fst (by assumption) ?_ | fail_if_no_progress apply Kept.upd) | dsimp only

end Sys2Proof.Machine
end

