-- ==== Sys2Proof/Laws/KeptVersions.lean ====
section
/-! SUPPORT. The operations of Machine/Versions.lean keep the queue and the canonical form of the memory. -/

set_option linter.unusedTactic false
set_option linter.unreachableTactic false
set_option linter.unusedSimpArgs false

namespace Sys2Proof.Machine

theorem retire_kept {s0 : State} (s : State) (n : Nat)  (hK : Kept s0 s) : Kept s0 (retire s n) := by
  unfold retire
  repeat' first | (intro) | with_reducible (first | assumption | apply Kept.foldl | apply dropPage_kept | apply Kept.foldl_fst | fail_if_no_progress apply Kept.upd) | split | dsimp only

theorem verInitH_kept {s0 : State} (s : State) (m : MciCall) (hK : Kept s0 s) : Kept s0 (verInitH s m).1 := by
  unfold verInitH
  repeat' first | (intro) | with_reducible (first | assumption | apply Kept.ite | apply State.modObj_kept | refine Kept.fst (by assumption) ?_ | fail_if_no_progress apply Kept.upd) | split | dsimp only

theorem execVerInit_kept {via : Path} {input : List Byte} {s : State} {tt : State} (eK : execVerInit via input s = .next tt) : Kept s tt := by
  have hK : Kept s s := Kept.refl s
  unfold execVerInit at eK
  repeat' first | (simp only [ifApplies, Host.Outcome.next.injEq, reduceCtorEq] at eK) | (subst eK) | split at eK
  all_goals repeat' first | (intro) | with_reducible (first | assumption | apply mci_kept | apply verInitH_kept | refine Kept.fst (by assumption) ?_ | fail_if_no_progress apply Kept.upd) | dsimp only

theorem verDraftH_kept {s0 : State} (s : State) (m : MciCall) (hK : Kept s0 s) : Kept s0 (verDraftH s m).1 := by
  unfold verDraftH
  repeat' first | (intro) | with_reducible (first | assumption | apply Kept.ite | refine Kept.fst (by assumption) ?_ | fail_if_no_progress apply Kept.upd) | split | dsimp only

theorem execVerDraft_kept {via : Path} {input : List Byte} {s : State} {tt : State} (eK : execVerDraft via input s = .next tt) : Kept s tt := by
  have hK : Kept s s := Kept.refl s
  unfold execVerDraft at eK
  repeat' first | (simp only [ifApplies, Host.Outcome.next.injEq, reduceCtorEq] at eK) | (subst eK) | split at eK
  all_goals repeat' first | (intro) | with_reducible (first | assumption | apply mci_kept | apply verDraftH_kept | refine Kept.fst (by assumption) ?_ | fail_if_no_progress apply Kept.upd) | dsimp only

theorem verPublishH_kept {s0 : State} (s : State) (m : MciCall) (hK : Kept s0 s) : Kept s0 (verPublishH s m).1 := by
  unfold verPublishH
  repeat' first | (intro) | with_reducible (first | assumption | apply Kept.ite | apply State.bump_kept | apply raise_kept | apply serveWaits_kept | apply State.modObj_kept | refine Kept.fst (by assumption) ?_ | fail_if_no_progress apply Kept.upd) | split | dsimp only

theorem execVerPublish_kept {via : Path} {input : List Byte} {s : State} {tt : State} (eK : execVerPublish via input s = .next tt) : Kept s tt := by
  have hK : Kept s s := Kept.refl s
  unfold execVerPublish at eK
  repeat' first | (simp only [ifApplies, Host.Outcome.next.injEq, reduceCtorEq] at eK) | (subst eK) | split at eK
  all_goals repeat' first | (intro) | with_reducible (first | assumption | apply mci_kept | apply verPublishH_kept | refine Kept.fst (by assumption) ?_ | fail_if_no_progress apply Kept.upd) | dsimp only

theorem endPublications_kept {s0 : State} (s : State)  (hK : Kept s0 s) : Kept s0 (endPublications s) := by
  unfold endPublications
  repeat' first | (intro) | with_reducible (first | assumption | apply Kept.ite | apply Kept.foldl | apply answer_kept | apply Kept.foldl_fst | fail_if_no_progress apply Kept.upd) | split | dsimp only

theorem newHeads_kept {s0 : State} (s : State)  (hK : Kept s0 s) : Kept s0 (newHeads s) := by
  unfold newHeads
  repeat' first | (intro) | with_reducible (first | assumption | apply Kept.ite | apply Kept.foldl | apply retire_kept | apply State.modObj_kept | refine Kept.fst (by assumption) ?_ | apply Kept.foldl_fst | fail_if_no_progress apply Kept.upd) | split | dsimp only

theorem verRebaseH_kept {s0 : State} (s : State) (m : MciCall) (hK : Kept s0 s) : Kept s0 (verRebaseH s m).1 := by
  unfold verRebaseH
  repeat' first | (intro) | with_reducible (first | assumption | apply Kept.ite | apply retire_kept | refine Kept.fst (by assumption) ?_ | fail_if_no_progress apply Kept.upd) | split | dsimp only

theorem execVerRebase_kept {via : Path} {input : List Byte} {s : State} {tt : State} (eK : execVerRebase via input s = .next tt) : Kept s tt := by
  have hK : Kept s s := Kept.refl s
  unfold execVerRebase at eK
  repeat' first | (simp only [ifApplies, Host.Outcome.next.injEq, reduceCtorEq] at eK) | (subst eK) | split at eK
  all_goals repeat' first | (intro) | with_reducible (first | assumption | apply mci_kept | apply verRebaseH_kept | refine Kept.fst (by assumption) ?_ | fail_if_no_progress apply Kept.upd) | dsimp only

theorem endView_kept {s0 : State} (s : State) (v : Nat)  (hK : Kept s0 s) : Kept s0 (endView s v) := by
  unfold endView
  repeat' first | (intro) | with_reducible (first | assumption | apply serveWaits_kept | apply retire_kept | refine Kept.fst (by assumption) ?_ | fail_if_no_progress apply Kept.upd) | split | dsimp only

theorem verDiscardH_kept {s0 : State} (s : State) (m : MciCall) (hK : Kept s0 s) : Kept s0 (verDiscardH s m).1 := by
  unfold verDiscardH
  repeat' first | (intro) | with_reducible (first | assumption | apply Kept.ite | apply endView_kept | refine Kept.fst (by assumption) ?_ | fail_if_no_progress apply Kept.upd) | split | dsimp only

theorem execVerDiscard_kept {via : Path} {input : List Byte} {s : State} {tt : State} (eK : execVerDiscard via input s = .next tt) : Kept s tt := by
  have hK : Kept s s := Kept.refl s
  unfold execVerDiscard at eK
  repeat' first | (simp only [ifApplies, Host.Outcome.next.injEq, reduceCtorEq] at eK) | (subst eK) | split at eK
  all_goals repeat' first | (intro) | with_reducible (first | assumption | apply mci_kept | apply verDiscardH_kept | refine Kept.fst (by assumption) ?_ | fail_if_no_progress apply Kept.upd) | dsimp only

theorem verOpenH_kept {s0 : State} (s : State) (m : MciCall) (hK : Kept s0 s) : Kept s0 (verOpenH s m).1 := by
  unfold verOpenH
  repeat' first | (intro) | with_reducible (first | assumption | apply Kept.ite | refine Kept.fst (by assumption) ?_ | fail_if_no_progress apply Kept.upd) | split | dsimp only

theorem execVerOpen_kept {via : Path} {input : List Byte} {s : State} {tt : State} (eK : execVerOpen via input s = .next tt) : Kept s tt := by
  have hK : Kept s s := Kept.refl s
  unfold execVerOpen at eK
  repeat' first | (simp only [ifApplies, Host.Outcome.next.injEq, reduceCtorEq] at eK) | (subst eK) | split at eK
  all_goals repeat' first | (intro) | with_reducible (first | assumption | apply mci_kept | apply verOpenH_kept | refine Kept.fst (by assumption) ?_ | fail_if_no_progress apply Kept.upd) | dsimp only

theorem verCloseH_kept {s0 : State} (s : State) (m : MciCall) (hK : Kept s0 s) : Kept s0 (verCloseH s m).1 := by
  unfold verCloseH
  repeat' first | (intro) | with_reducible (first | assumption | apply Kept.ite | apply endView_kept | refine Kept.fst (by assumption) ?_ | fail_if_no_progress apply Kept.upd) | split | dsimp only

theorem execVerClose_kept {via : Path} {input : List Byte} {s : State} {tt : State} (eK : execVerClose via input s = .next tt) : Kept s tt := by
  have hK : Kept s s := Kept.refl s
  unfold execVerClose at eK
  repeat' first | (simp only [ifApplies, Host.Outcome.next.injEq, reduceCtorEq] at eK) | (subst eK) | split at eK
  all_goals repeat' first | (intro) | with_reducible (first | assumption | apply mci_kept | apply verCloseH_kept | refine Kept.fst (by assumption) ?_ | fail_if_no_progress apply Kept.upd) | dsimp only

theorem verQueryH_kept {s0 : State} (s : State) (m : MciCall) (hK : Kept s0 s) : Kept s0 (verQueryH s m).1 := by
  unfold verQueryH
  repeat' first | (intro) | with_reducible (first | assumption | apply Kept.ite | refine Kept.fst (by assumption) ?_ | fail_if_no_progress apply Kept.upd) | split | dsimp only

theorem execVerQuery_kept {via : Path} {input : List Byte} {s : State} {tt : State} (eK : execVerQuery via input s = .next tt) : Kept s tt := by
  have hK : Kept s s := Kept.refl s
  unfold execVerQuery at eK
  repeat' first | (simp only [ifApplies, Host.Outcome.next.injEq, reduceCtorEq] at eK) | (subst eK) | split at eK
  all_goals repeat' first | (intro) | with_reducible (first | assumption | apply mci_kept | apply verQueryH_kept | refine Kept.fst (by assumption) ?_ | fail_if_no_progress apply Kept.upd) | dsimp only

theorem lockHandler_kept {s0 : State} (op : Nat) (s : State) (m : MciCall) (hK : Kept s0 s) : Kept s0 (lockHandler op s m).1 := by
  unfold lockHandler
  repeat' first | split | assumption | apply verRebaseH_kept | apply verDiscardH_kept | apply patLoadH_kept | apply verCloseH_kept

theorem resumeLocks_kept {s0 : State} (s : State)  (hK : Kept s0 s) : Kept s0 (resumeLocks s) := by
  unfold resumeLocks
  repeat' first | (intro) | with_reducible (first | assumption | apply Kept.foldl | apply lockHandler_kept | apply answer_kept | refine Kept.fst (by assumption) ?_ | apply Kept.foldl_fst | fail_if_no_progress apply Kept.upd) | split | dsimp only

theorem pagesChanged_kept {s0 : State} (s : State)  (hK : Kept s0 s) : Kept s0 (pagesChanged s) := by
  unfold pagesChanged
  repeat' first | (intro) | with_reducible (first | assumption | apply endPublications_kept | apply resumeLocks_kept | apply resumeNm_kept | apply serveWaits_kept | fail_if_no_progress apply Kept.upd) | dsimp only

theorem lockExpired_kept {s0 : State} (s : State) (w : LockWaiter)  (hK : Kept s0 s) : Kept s0 (lockExpired s w) := by
  unfold lockExpired
  repeat' first | (intro) | with_reducible (first | assumption | apply Kept.ite | apply setMove_kept | apply State.bump_kept | apply raise_kept | apply answer_kept | refine Kept.fst (by assumption) ?_ | fail_if_no_progress apply Kept.upd) | split | dsimp only

theorem execLockWaitExpired_kept {w : LockWaiter} {s : State} {tt : State} (eK : execLockWaitExpired w s = .next tt) : Kept s tt := by
  have hK : Kept s s := Kept.refl s
  unfold execLockWaitExpired at eK
  repeat' first | (simp only [ifApplies, Host.Outcome.next.injEq, reduceCtorEq] at eK) | (subst eK) | split at eK
  all_goals repeat' first | (intro) | with_reducible (first | assumption | apply lockExpired_kept | fail_if_no_progress apply Kept.upd) | dsimp only

end Sys2Proof.Machine
end

