-- ==== Sys2Proof/Laws/KeptTierCmds.lean ====
section
/-! SUPPORT. The operations of Machine/TierCmds.lean keep the queue and the canonical form of the memory. -/

set_option linter.unusedTactic false
set_option linter.unreachableTactic false
set_option linter.unusedSimpArgs false

namespace Sys2Proof.Machine

theorem promoteTaken_kept {s0 : State} (s : State) (c : Ctx) (e : Line) (tag : Word)  (hK : Kept s0 s) : Kept s0 (promoteTaken s c e tag) := by
  unfold promoteTaken
  repeat' first | (intro) | with_reducible (first | assumption | apply Kept.ite | apply endFlight_kept | fail_if_no_progress apply Kept.upd) | split | dsimp only

theorem evictTaken_kept {s0 : State} (s : State) (c : Ctx) (e : Line) (tag : Word)  (hK : Kept s0 s) : Kept s0 (evictTaken s c e tag) := by
  unfold evictTaken
  repeat' first | (intro) | with_reducible (first | assumption | apply Kept.ite | apply endFlight_kept | apply evictEvent_kept | fail_if_no_progress apply Kept.upd) | split | dsimp only

theorem flushTaken_kept {s0 : State} (s : State) (c : Ctx) (e : Line) (tag : Word)  (hK : Kept s0 s) : Kept s0 (flushTaken s c e tag) := by
  unfold flushTaken
  repeat' first | (intro) | with_reducible (first | assumption | apply Kept.ite | apply endFlight_kept | fail_if_no_progress apply Kept.upd) | split | dsimp only

theorem execPromote_kept {c : Ctx} {entry : Line} {s : State} {tt : State} (eK : execPromote c entry s = .next tt) : Kept s tt := by
  have hK : Kept s s := Kept.refl s
  unfold execPromote at eK
  repeat' first | (simp only [ifApplies, Host.Outcome.next.injEq, reduceCtorEq] at eK) | (subst eK) | split at eK
  all_goals repeat' first | (intro) | with_reducible (first | assumption | apply ringCmd_kept | apply promoteTaken_kept | fail_if_no_progress apply Kept.upd) | dsimp only

theorem execEvict_kept {c : Ctx} {entry : Line} {s : State} {tt : State} (eK : execEvict c entry s = .next tt) : Kept s tt := by
  have hK : Kept s s := Kept.refl s
  unfold execEvict at eK
  repeat' first | (simp only [ifApplies, Host.Outcome.next.injEq, reduceCtorEq] at eK) | (subst eK) | split at eK
  all_goals repeat' first | (intro) | with_reducible (first | assumption | apply ringCmd_kept | apply evictTaken_kept | fail_if_no_progress apply Kept.upd) | dsimp only

theorem execFlush_kept {c : Ctx} {entry : Line} {s : State} {tt : State} (eK : execFlush c entry s = .next tt) : Kept s tt := by
  have hK : Kept s s := Kept.refl s
  unfold execFlush at eK
  repeat' first | (simp only [ifApplies, Host.Outcome.next.injEq, reduceCtorEq] at eK) | (subst eK) | split at eK
  all_goals repeat' first | (intro) | with_reducible (first | assumption | apply ringCmd_kept | apply flushTaken_kept | fail_if_no_progress apply Kept.upd) | dsimp only

theorem execPageMoveStart_kept {s : State} {tt : State} (eK : execPageMoveStart s = .next tt) : Kept s tt := by
  have hK : Kept s s := Kept.refl s
  unfold execPageMoveStart at eK
  repeat' first | (simp only [ifApplies, Host.Outcome.next.injEq, reduceCtorEq] at eK) | (subst eK) | split at eK
  all_goals repeat' first | (intro) | with_reducible (first | assumption | apply Kept.ite | apply pagesChanged_kept | apply startMove_kept | refine Kept.fst (by assumption) ?_ | fail_if_no_progress apply Kept.upd) | split | dsimp only

theorem sweep_kept {s0 : State} (s : State)  (hK : Kept s0 s) : Kept s0 (sweep s) := by
  unfold sweep
  repeat' first | (intro) | with_reducible (first | assumption | apply Kept.ite | apply pressureAll_kept | fail_if_no_progress apply Kept.upd) | split | dsimp only

theorem execReferenceBitSweep_kept {s : State} {tt : State} (eK : execReferenceBitSweep s = .next tt) : Kept s tt := by
  have hK : Kept s s := Kept.refl s
  unfold execReferenceBitSweep at eK
  repeat' first | (simp only [ifApplies, Host.Outcome.next.injEq, reduceCtorEq] at eK) | (subst eK) | split at eK
  all_goals repeat' first | (intro) | with_reducible (first | assumption | apply Kept.ite | apply sweep_kept | fail_if_no_progress apply Kept.upd) | split | dsimp only

theorem flashRead_kept {s0 : State} (s : State) (pid : Nat) (unc : BitVec 8)  (hK : Kept s0 s) : Kept s0 (flashRead s pid unc) := by
  unfold flashRead
  repeat' first | (intro) | with_reducible (first | assumption | apply Kept.ite | apply State.bump_kept | (refine Kept.fst (by assumption) ?_; apply readComplete_kept) | apply readComplete_kept | apply pagesChanged_kept | apply endMove_kept | refine Kept.fst (by assumption) ?_ | fail_if_no_progress apply Kept.upd) | split | dsimp only

theorem execFlashReadComplete_kept {pid : Nat} {uncorrectable : BitVec 8} {s : State} {tt : State} (eK : execFlashReadComplete pid uncorrectable s = .next tt) : Kept s tt := by
  have hK : Kept s s := Kept.refl s
  unfold execFlashReadComplete at eK
  repeat' first | (simp only [ifApplies, Host.Outcome.next.injEq, reduceCtorEq] at eK) | (subst eK) | split at eK
  all_goals repeat' first | (intro) | with_reducible (first | assumption | apply flashRead_kept | fail_if_no_progress apply Kept.upd) | dsimp only

theorem execStripeCloseTimeout_kept {s : State} {tt : State} (eK : execStripeCloseTimeout s = .next tt) : Kept s tt := by
  have hK : Kept s s := Kept.refl s
  unfold execStripeCloseTimeout at eK
  repeat' first | (simp only [ifApplies, Host.Outcome.next.injEq, reduceCtorEq] at eK) | (subst eK) | split at eK
  all_goals repeat' first | (intro) | with_reducible (first | assumption | refine Kept.fst (by assumption) ?_ | fail_if_no_progress apply Kept.upd) | split | dsimp only

theorem countShares_kept {s0 : State} (s : State)  (hK : Kept s0 s) : Kept s0 (countShares s) := by
  unfold countShares
  repeat' first | (intro) | with_reducible (first | assumption | apply Kept.ite | fail_if_no_progress apply Kept.upd) | split | dsimp only

theorem writeEnds_kept {s0 : State} (s : State) (n : Nat) (pid : Nat)  (hK : Kept s0 s) : Kept s0 (writeEnds s n pid) := by
  unfold writeEnds
  repeat' first | (intro) | with_reducible (first | assumption | apply Kept.ite | apply writeComplete_kept | apply endMove_kept | apply State.modMover_kept | refine Kept.fst (by assumption) ?_ | fail_if_no_progress apply Kept.upd) | split | dsimp only

theorem stripeProgrammed_kept {s0 : State} (s : State) (n : Nat)  (hK : Kept s0 s) : Kept s0 (stripeProgrammed s n) := by
  unfold stripeProgrammed
  repeat' first | (intro) | with_reducible (first | assumption | apply Kept.ite | apply Kept.foldl | apply countShares_kept | apply pagesChanged_kept | apply writeEnds_kept | refine Kept.fst (by assumption) ?_ | apply Kept.foldl_fst | fail_if_no_progress apply Kept.upd) | split | dsimp only

theorem execStripeProgramComplete_kept {seq : BitVec 48} {s : State} {tt : State} (eK : execStripeProgramComplete seq s = .next tt) : Kept s tt := by
  have hK : Kept s s := Kept.refl s
  unfold execStripeProgramComplete at eK
  repeat' first | (simp only [ifApplies, Host.Outcome.next.injEq, reduceCtorEq] at eK) | (subst eK) | split at eK
  all_goals repeat' first | (intro) | with_reducible (first | assumption | apply stripeProgrammed_kept | fail_if_no_progress apply Kept.upd) | dsimp only

theorem execMoverMovesDone_kept {obj : BitVec 24} {s : State} {tt : State} (eK : execMoverMovesDone obj s = .next tt) : Kept s tt := by
  have hK : Kept s s := Kept.refl s
  unfold execMoverMovesDone at eK
  repeat' first | (simp only [ifApplies, Host.Outcome.next.injEq, reduceCtorEq] at eK) | (subst eK) | split at eK
  all_goals repeat' first | (intro) | with_reducible (first | assumption | apply movesDone_kept | fail_if_no_progress apply Kept.upd) | dsimp only

theorem recallFill_kept {s0 : State} (s : State) (dev : Nat)  (hK : Kept s0 s) : Kept s0 (recallFill s dev) := by
  unfold recallFill
  repeat' first | (intro) | with_reducible (first | assumption | apply Kept.ite | apply Kept.foldl | apply putDir_kept | apply startRecall_kept | apply Kept.foldl_fst | fail_if_no_progress apply Kept.upd) | split | dsimp only

theorem zeroFillDone_kept {s0 : State} (s : State) (fr : Nat)  (hK : Kept s0 s) : Kept s0 (zeroFillDone s fr) := by
  unfold zeroFillDone
  repeat' first | (intro) | with_reducible (first | assumption | apply Kept.ite | apply recallFill_kept | apply pageTraffic_kept | apply State.zeroFrame_kept | refine Kept.fst (by assumption) ?_ | fail_if_no_progress apply Kept.upd) | split | dsimp only

theorem execFrameZeroFillDone_kept {sliver : CoreId} {frame : Fin 8192} {s : State} {tt : State} (eK : execFrameZeroFillDone sliver frame s = .next tt) : Kept s tt := by
  have hK : Kept s s := Kept.refl s
  unfold execFrameZeroFillDone at eK
  repeat' first | (simp only [ifApplies, Host.Outcome.next.injEq, reduceCtorEq] at eK) | (subst eK) | split at eK
  all_goals repeat' first | (intro) | with_reducible (first | assumption | apply zeroFillDone_kept | fail_if_no_progress apply Kept.upd) | dsimp only

theorem cowDone_kept {s0 : State} (s : State) (pid : Nat)  (hK : Kept s0 s) : Kept s0 (cowDone s pid) := by
  unfold cowDone
  repeat' first | (intro) | with_reducible (first | assumption | apply Kept.ite | apply pagesChanged_kept | apply copyComplete_kept | refine Kept.fst (by assumption) ?_ | fail_if_no_progress apply Kept.upd) | split | dsimp only

theorem execCowCopyComplete_kept {pid : Nat} {s : State} {tt : State} (eK : execCowCopyComplete pid s = .next tt) : Kept s tt := by
  have hK : Kept s s := Kept.refl s
  unfold execCowCopyComplete at eK
  repeat' first | (simp only [ifApplies, Host.Outcome.next.injEq, reduceCtorEq] at eK) | (subst eK) | split at eK
  all_goals repeat' first | (intro) | with_reducible (first | assumption | apply cowDone_kept | fail_if_no_progress apply Kept.upd) | dsimp only

theorem collect_kept {s0 : State} (s : State) (n : Nat)  (hK : Kept s0 s) : Kept s0 (collect s n) := by
  unfold collect
  repeat' first | (intro) | with_reducible (first | assumption | apply Kept.ite | apply Kept.foldl | apply State.bump_kept | apply State.modPage_kept | apply countShares_kept | refine Kept.fst (by assumption) ?_ | apply Kept.foldl_fst | fail_if_no_progress apply Kept.upd) | split | dsimp only

theorem execGarbageCollection_kept {seq : BitVec 48} {s : State} {tt : State} (eK : execGarbageCollection seq s = .next tt) : Kept s tt := by
  have hK : Kept s s := Kept.refl s
  unfold execGarbageCollection at eK
  repeat' first | (simp only [ifApplies, Host.Outcome.next.injEq, reduceCtorEq] at eK) | (subst eK) | split at eK
  all_goals repeat' first | (intro) | with_reducible (first | assumption | apply collect_kept | fail_if_no_progress apply Kept.upd) | dsimp only

end Sys2Proof.Machine
end

