-- ==== Sys2Proof/Laws/KeptCodecCmds.lean ====
section
/-! SUPPORT. The operations of Machine/CodecCmds.lean keep the queue and the canonical form of the memory. -/

set_option linter.unusedTactic false
set_option linter.unreachableTactic false
set_option linter.unusedSimpArgs false

namespace Sys2Proof.Machine

theorem State.modCodec_kept {s0 : State} (s : State) (k : Nat) (f : CodecChan → CodecChan)  (hK : Kept s0 s) : Kept s0 (State.modCodec s k f) := by
  unfold State.modCodec
  repeat' first | (intro) | with_reducible (first | assumption | refine Kept.fst (by assumption) ?_ | fail_if_no_progress apply Kept.upd) | split | dsimp only

theorem codecOpenH_kept {s0 : State} (s : State) (m : MciCall) (hK : Kept s0 s) : Kept s0 (codecOpenH s m).1 := by
  unfold codecOpenH
  repeat' first | (intro) | with_reducible (first | assumption | apply Kept.ite | refine Kept.fst (by assumption) ?_ | fail_if_no_progress apply Kept.upd) | split | dsimp only

theorem execCodecOpen_kept {via : Path} {input : List Byte} {s : State} {tt : State} (eK : execCodecOpen via input s = .next tt) : Kept s tt := by
  have hK : Kept s s := Kept.refl s
  unfold execCodecOpen at eK
  repeat' first | (simp only [ifApplies, Host.Outcome.next.injEq, reduceCtorEq] at eK) | (subst eK) | split at eK
  all_goals repeat' first | (intro) | with_reducible (first | assumption | apply mci_kept | apply codecOpenH_kept | refine Kept.fst (by assumption) ?_ | fail_if_no_progress apply Kept.upd) | dsimp only

theorem freeChan_kept {s0 : State} (s : State) (k : Nat)  (hK : Kept s0 s) : Kept s0 (freeChan s k) := by
  unfold freeChan
  repeat' first | (intro) | with_reducible (first | assumption | apply endView_kept | refine Kept.fst (by assumption) ?_ | fail_if_no_progress apply Kept.upd) | split | dsimp only

theorem codecCloseH_kept {s0 : State} (s : State) (m : MciCall) (hK : Kept s0 s) : Kept s0 (codecCloseH s m).1 := by
  unfold codecCloseH
  repeat' first | (intro) | with_reducible (first | assumption | apply Kept.ite | apply freeChan_kept | apply State.modCodec_kept | refine Kept.fst (by assumption) ?_ | fail_if_no_progress apply Kept.upd) | split | dsimp only

theorem execCodecClose_kept {via : Path} {input : List Byte} {s : State} {tt : State} (eK : execCodecClose via input s = .next tt) : Kept s tt := by
  have hK : Kept s s := Kept.refl s
  unfold execCodecClose at eK
  repeat' first | (simp only [ifApplies, Host.Outcome.next.injEq, reduceCtorEq] at eK) | (subst eK) | split at eK
  all_goals repeat' first | (intro) | with_reducible (first | assumption | apply mci_kept | apply codecCloseH_kept | refine Kept.fst (by assumption) ?_ | fail_if_no_progress apply Kept.upd) | dsimp only

theorem closeIfDone_kept {s0 : State} (s : State) (k : Nat)  (hK : Kept s0 s) : Kept s0 (closeIfDone s k) := by
  unfold closeIfDone
  repeat' first | (intro) | with_reducible (first | assumption | apply Kept.ite | apply answer_kept | apply freeChan_kept | refine Kept.fst (by assumption) ?_ | fail_if_no_progress apply Kept.upd) | split | dsimp only

theorem endJob_kept {s0 : State} (s : State) (k : Nat) (status : Nat)  (hK : Kept s0 s) : Kept s0 (endJob s k status) := by
  unfold endJob
  repeat' first | (intro) | with_reducible (first | assumption | apply State.modCodec_kept | apply closeIfDone_kept | apply endFlight_kept | apply unpinPages_kept | refine Kept.fst (by assumption) ?_ | fail_if_no_progress apply Kept.upd) | split | dsimp only

theorem dropChan_kept {s0 : State} (s : State) (k : Nat)  (hK : Kept s0 s) : Kept s0 (dropChan s k) := by
  unfold dropChan
  repeat' first | (intro) | with_reducible (first | assumption | apply Kept.foldl | apply endFlight_kept | apply unpinPages_kept | apply freeChan_kept | apply answer_kept | refine Kept.fst (by assumption) ?_ | apply Kept.foldl_fst | fail_if_no_progress apply Kept.upd) | split | dsimp only

theorem dropChans_kept {s0 : State} (s : State) (c : Ctx)  (hK : Kept s0 s) : Kept s0 (dropChans s c) := by
  unfold dropChans
  repeat' first | (intro) | with_reducible (first | assumption | apply Kept.foldl | apply dropChan_kept | apply Kept.foldl_fst | fail_if_no_progress apply Kept.upd) | split | dsimp only

theorem queueCodec_kept {s0 : State} (s : State) (c : Ctx) (e : Line) (tag : Word)  (hK : Kept s0 s) : Kept s0 (queueCodec s c e tag) := by
  unfold queueCodec
  repeat' first | (intro) | with_reducible (first | assumption | apply Kept.ite | apply State.modCodec_kept | apply endFlight_kept | refine Kept.fst (by assumption) ?_ | fail_if_no_progress apply Kept.upd) | split | dsimp only

theorem codecCmd_kept {s0 : State} (s : State) (c : Ctx) (e : Line) (op : Nat)  (hK : Kept s0 s) : Kept s0 (codecCmd s c e op) := by
  unfold codecCmd
  repeat' first | (intro) | with_reducible (first | assumption | apply Kept.ite | apply ringCmd_kept | apply queueCodec_kept | apply endFlight_kept | fail_if_no_progress apply Kept.upd) | split | dsimp only

theorem execCodecIn_kept {c : Ctx} {entry : Line} {s : State} {tt : State} (eK : execCodecIn c entry s = .next tt) : Kept s tt := by
  have hK : Kept s s := Kept.refl s
  unfold execCodecIn at eK
  repeat' first | (simp only [ifApplies, Host.Outcome.next.injEq, reduceCtorEq] at eK) | (subst eK) | split at eK
  all_goals repeat' first | (intro) | with_reducible (first | assumption | apply codecCmd_kept | fail_if_no_progress apply Kept.upd) | dsimp only

theorem execCodecOut_kept {c : Ctx} {entry : Line} {s : State} {tt : State} (eK : execCodecOut c entry s = .next tt) : Kept s tt := by
  have hK : Kept s s := Kept.refl s
  unfold execCodecOut at eK
  repeat' first | (simp only [ifApplies, Host.Outcome.next.injEq, reduceCtorEq] at eK) | (subst eK) | split at eK
  all_goals repeat' first | (intro) | with_reducible (first | assumption | apply codecCmd_kept | fail_if_no_progress apply Kept.upd) | dsimp only

theorem execCodecExchange_kept {c : Ctx} {entry : Line} {s : State} {tt : State} (eK : execCodecExchange c entry s = .next tt) : Kept s tt := by
  have hK : Kept s s := Kept.refl s
  unfold execCodecExchange at eK
  repeat' first | (simp only [ifApplies, Host.Outcome.next.injEq, reduceCtorEq] at eK) | (subst eK) | split at eK
  all_goals repeat' first | (intro) | with_reducible (first | assumption | apply codecCmd_kept | fail_if_no_progress apply Kept.upd) | dsimp only

theorem fetchPiece_kept {s0 : State} (s : State) (k : Nat) (x : CodecChan) (j : CodecJob) (pids : List Nat)  (hK : Kept s0 s) : Kept s0 (fetchPiece s k x j pids) := by
  unfold fetchPiece
  repeat' first | (intro) | with_reducible (first | assumption | apply pinPages_kept | apply fetchMissing_kept | apply State.modCodec_kept | fail_if_no_progress apply Kept.upd) | split | dsimp only

theorem codecTraffic_kept {s0 : State} (s : State) (c : Ctx) (order : Nat) (pid : Nat) (dev : Nat)  (hK : Kept s0 s) : Kept s0 (codecTraffic s c order pid dev) := by
  unfold codecTraffic
  repeat' first | (intro) | with_reducible (first | assumption | apply Kept.foldl | apply presentReq_kept | apply Kept.foldl_fst | fail_if_no_progress apply Kept.upd) | dsimp only

theorem readLines_kept {s0 : State} (s : State) (c : Ctx) (tag : Word) (order : Nat) (pid : Nat) (dev : Nat) (n : Nat)  (hK : Kept s0 s) : Kept s0 (readLines s c tag order pid dev n).1 := by
  unfold readLines
  repeat' first | (intro) | with_reducible (first | assumption | apply Kept.ite | apply Kept.foldN | apply codecTraffic_kept | (refine Kept.fst (by assumption) ?_; apply readPage_kept) | apply readPage_kept | refine Kept.fst (by assumption) ?_ | apply Kept.foldN_fst | fail_if_no_progress apply Kept.upd) | split | dsimp only

theorem readRef_kept {s0 : State} (s : State) (x : CodecChan) (j : CodecJob) (n : Nat)  (hK : Kept s0 s) : Kept s0 (readRef s x j n).1 := by
  unfold readRef
  repeat' first | (intro) | with_reducible (first | assumption | apply Kept.ite | (refine Kept.fst (by assumption) ?_; apply readLines_kept) | apply readLines_kept | apply State.tick_kept | refine Kept.fst (by assumption) ?_ | fail_if_no_progress apply Kept.upd) | split | dsimp only

theorem writePosition_kept {s0 : State} (s : State) (x : CodecChan) (j : CodecJob) (base : Nat) (bs : List Byte) (poison : Nat) (seals : List Word)  (hK : Kept s0 s) : Kept s0 (writePosition s x j base bs poison seals) := by
  unfold writePosition
  repeat' first | (intro) | with_reducible (first | assumption | apply Kept.foldN | apply Kept.getD | apply deviceGranule_kept | apply Kept.foldN_fst | fail_if_no_progress apply Kept.upd) | dsimp only

theorem decodeAt_kept {s0 : State} (s : State) (k : Nat) (x : CodecChan) (j : CodecJob) (o : Obj)  (hK : Kept s0 s) : Kept s0 (decodeAt s k x j o).1 := by
  unfold decodeAt
  repeat' first | (intro) | with_reducible (first | assumption | apply Kept.ite | (refine Kept.fst (by assumption) ?_; apply devBytes_kept) | apply devBytes_kept | (refine Kept.fst (by assumption) ?_; apply readRef_kept) | apply readRef_kept | apply writePosition_kept | apply State.bump_kept | apply raise_kept | apply State.modCodec_kept | refine Kept.fst (by assumption) ?_ | fail_if_no_progress apply Kept.upd) | split | dsimp only

theorem nextPiece_kept {s0 : State} (s : State) (k : Nat) (j : CodecJob)  (hK : Kept s0 s) : Kept s0 (nextPiece s k j) := by
  unfold nextPiece
  repeat' first | (intro) | with_reducible (first | assumption | apply Kept.ite | apply State.modCodec_kept | apply endJob_kept | apply unpinPages_kept | refine Kept.fst (by assumption) ?_ | fail_if_no_progress apply Kept.upd) | split | dsimp only

theorem pieceDecode_kept {s0 : State} (s : State) (k : Nat)  (hK : Kept s0 s) : Kept s0 (pieceDecode s k) := by
  unfold pieceDecode
  repeat' first | (intro) | with_reducible (first | assumption | apply Kept.ite | apply endJob_kept | apply fetchPiece_kept | (refine Kept.fst (by assumption) ?_; apply decodeAt_kept) | apply decodeAt_kept | apply nextPiece_kept | refine Kept.fst (by assumption) ?_ | fail_if_no_progress apply Kept.upd) | split | dsimp only

theorem execPieceDecode_kept {chan : Word} {s : State} {tt : State} (eK : execPieceDecode chan s = .next tt) : Kept s tt := by
  have hK : Kept s s := Kept.refl s
  unfold execPieceDecode at eK
  repeat' first | (simp only [ifApplies, Host.Outcome.next.injEq, reduceCtorEq] at eK) | (subst eK) | split at eK
  all_goals repeat' first | (intro) | with_reducible (first | assumption | apply pieceDecode_kept | fail_if_no_progress apply Kept.upd) | dsimp only

theorem sendPiece_kept {s0 : State} (s : State) (x : CodecChan) (j : CodecJob) (bs : List Byte)  (hK : Kept s0 s) : Kept s0 (sendPiece s x j bs) := by
  unfold sendPiece
  repeat' first | (intro) | with_reducible (first | assumption | apply Kept.ite | apply Kept.foldN | apply State.emit_kept | apply writeBytes_kept | apply Kept.foldN_fst | fail_if_no_progress apply Kept.upd) | split | dsimp only

theorem noteTables_kept {s0 : State} (s : State) (k : Nat) (e : Encoded)  (hK : Kept s0 s) : Kept s0 (noteTables s k e) := by
  unfold noteTables
  repeat' first | (intro) | with_reducible (first | assumption | apply Kept.ite | apply State.modCodec_kept | refine Kept.fst (by assumption) ?_ | fail_if_no_progress apply Kept.upd) | split | dsimp only

theorem pieceEncode_kept {s0 : State} (s : State) (k : Nat)  (hK : Kept s0 s) : Kept s0 (pieceEncode s k) := by
  unfold pieceEncode
  repeat' first | (intro) | with_reducible (first | assumption | apply Kept.ite | apply endJob_kept | apply fetchPiece_kept | (refine Kept.fst (by assumption) ?_; apply readLines_kept) | apply readLines_kept | (refine Kept.fst (by assumption) ?_; apply readRef_kept) | apply readRef_kept | apply sendPiece_kept | apply writePosition_kept | apply State.bump_kept | apply nextPiece_kept | apply noteTables_kept | refine Kept.fst (by assumption) ?_ | fail_if_no_progress apply Kept.upd) | split | dsimp only

theorem execPieceEncode_kept {chan : Word} {s : State} {tt : State} (eK : execPieceEncode chan s = .next tt) : Kept s tt := by
  have hK : Kept s s := Kept.refl s
  unfold execPieceEncode at eK
  repeat' first | (simp only [ifApplies, Host.Outcome.next.injEq, reduceCtorEq] at eK) | (subst eK) | split at eK
  all_goals repeat' first | (intro) | with_reducible (first | assumption | apply pieceEncode_kept | fail_if_no_progress apply Kept.upd) | dsimp only

end Sys2Proof.Machine
end

