-- ==== Sys2Proof/Laws/KeptBindings.lean ====
section
/-! SUPPORT. The operations of Machine/Bindings.lean keep the queue and the canonical form of the memory. -/

set_option linter.unusedTactic false
set_option linter.unreachableTactic false
set_option linter.unusedSimpArgs false

namespace Sys2Proof.Machine

theorem patBindH_kept {s0 : State} (s : State) (m : MciCall) (hK : Kept s0 s) : Kept s0 (patBindH s m).1 := by
  unfold patBindH
  repeat' first | (intro) | with_reducible (first | assumption | apply Kept.ite | apply Kept.getD | refine Kept.fst (by assumption) ?_ | fail_if_no_progress apply Kept.upd) | split | dsimp only

theorem execPatBind_kept {via : Path} {input : List Byte} {s : State} {tt : State} (eK : execPatBind via input s = .next tt) : Kept s tt := by
  have hK : Kept s s := Kept.refl s
  unfold execPatBind at eK
  repeat' first | (simp only [ifApplies, Host.Outcome.next.injEq, reduceCtorEq] at eK) | (subst eK) | split at eK
  all_goals repeat' first | (intro) | with_reducible (first | assumption | apply mci_kept | apply patBindH_kept | refine Kept.fst (by assumption) ?_ | fail_if_no_progress apply Kept.upd) | dsimp only

theorem patUnbindH_kept {s0 : State} (s : State) (m : MciCall) (hK : Kept s0 s) : Kept s0 (patUnbindH s m).1 := by
  unfold patUnbindH
  repeat' first | (intro) | with_reducible (first | assumption | apply Kept.ite | refine Kept.fst (by assumption) ?_ | fail_if_no_progress apply Kept.upd) | split | dsimp only

theorem execPatUnbind_kept {via : Path} {input : List Byte} {s : State} {tt : State} (eK : execPatUnbind via input s = .next tt) : Kept s tt := by
  have hK : Kept s s := Kept.refl s
  unfold execPatUnbind at eK
  repeat' first | (simp only [ifApplies, Host.Outcome.next.injEq, reduceCtorEq] at eK) | (subst eK) | split at eK
  all_goals repeat' first | (intro) | with_reducible (first | assumption | apply mci_kept | apply patUnbindH_kept | refine Kept.fst (by assumption) ?_ | fail_if_no_progress apply Kept.upd) | dsimp only

end Sys2Proof.Machine
end

