-- ==== Sys2Proof/Laws/KeptCues.lean ====
section
/-! SUPPORT. The operations of Machine/Cues.lean keep the queue and the canonical form of the memory. -/

set_option linter.unusedTactic false
set_option linter.unreachableTactic false
set_option linter.unusedSimpArgs false

namespace Sys2Proof.Machine

theorem notchMissed_kept {s0 : State} (s : State) (q : Cue) (S : Nat) (earliest : Nat) (start : Nat)  (hK : Kept s0 s) : Kept s0 (notchMissed s q S earliest start) := by
  unfold notchMissed
  repeat' first | (intro) | with_reducible (first | assumption | apply raise_kept | fail_if_no_progress apply Kept.upd) | dsimp only

theorem refuseCue_kept {s0 : State} (s : State) (c : Ctx) (tag : Word) (status : Nat)  (hK : Kept s0 s) : Kept s0 (refuseCue s c tag status) := by
  unfold refuseCue
  repeat' first | (intro) | with_reducible (first | assumption | apply endFlight_kept | fail_if_no_progress apply Kept.upd) | dsimp only

theorem armCue_kept {s0 : State} (s : State) (q : Cue)  (hK : Kept s0 s) : Kept s0 (armCue s q) := by
  unfold armCue
  repeat' first | (intro) | with_reducible (first | assumption | fail_if_no_progress apply Kept.upd) | dsimp only

theorem cueTaken_kept {s0 : State} (s : State) (c : Ctx) (e : Line) (tag : Word)  (hK : Kept s0 s) : Kept s0 (cueTaken s c e tag) := by
  unfold cueTaken
  repeat' first | (intro) | with_reducible (first | assumption | apply Kept.ite | apply refuseCue_kept | apply notchMissed_kept | apply armCue_kept | refine Kept.fst (by assumption) ?_ | fail_if_no_progress apply Kept.upd) | split | dsimp only

theorem execCue_kept {c : Ctx} {entry : Line} {s : State} {tt : State} (eK : execCue c entry s = .next tt) : Kept s tt := by
  have hK : Kept s s := Kept.refl s
  unfold execCue at eK
  repeat' first | (simp only [ifApplies, Host.Outcome.next.injEq, reduceCtorEq] at eK) | (subst eK) | split at eK
  all_goals repeat' first | (intro) | with_reducible (first | assumption | apply ringCmd_kept | apply cueTaken_kept | fail_if_no_progress apply Kept.upd) | dsimp only

theorem dropCue_kept {s0 : State} (s : State) (r : Nat)  (hK : Kept s0 s) : Kept s0 (dropCue s r) := by
  unfold dropCue
  repeat' first | (intro) | with_reducible (first | assumption | fail_if_no_progress apply Kept.upd) | dsimp only

theorem renumberCue_kept {s0 : State} (s : State) (frames : Int) (r : Nat)  (hK : Kept s0 s) : Kept s0 (renumberCue s frames r) := by
  unfold renumberCue
  repeat' first | (intro) | with_reducible (first | assumption | apply Kept.ite | apply notchMissed_kept | apply refuseCue_kept | apply dropCue_kept | refine Kept.fst (by assumption) ?_ | fail_if_no_progress apply Kept.upd) | split | dsimp only

theorem askPage_kept {s0 : State} (s : State) (b : Binding) (p : Pattern) (key : Nat)  (hK : Kept s0 s) : Kept s0 (askPage s b p key) := by
  unfold askPage
  repeat' first | (intro) | with_reducible (first | assumption | apply Kept.ite | apply Kept.getD | refine startCopy_kept (by assumption) ?_ | apply requestFetch_kept | refine Kept.fst (by assumption) ?_ | fail_if_no_progress apply Kept.upd) | split | dsimp only

theorem samplePages_kept {s0 : State} (s : State) (r : Nat) (b : Binding) (p : Pattern) (i : Nat)  (hK : Kept s0 s) : Kept s0 (samplePages s r b p i) := by
  unfold samplePages
  repeat' first | (intro) | with_reducible (first | assumption | apply Kept.foldl | apply pinPages_kept | apply askPage_kept | apply Kept.foldl_fst | fail_if_no_progress apply Kept.upd) | dsimp only

theorem sampleStep_kept {s0 : State} (s : State) (r : Nat)  (hK : Kept s0 s) : Kept s0 (sampleStep s r) := by
  unfold sampleStep
  repeat' first | (intro) | with_reducible (first | assumption | apply Kept.ite | apply samplePages_kept | apply State.bump_kept | refine Kept.fst (by assumption) ?_ | fail_if_no_progress apply Kept.upd) | split | dsimp only

theorem sampleAhead_kept {s0 : State} (s : State) (r : Nat)  (hK : Kept s0 s) : Kept s0 (sampleAhead s r) := by
  unfold sampleAhead
  repeat' first | (intro) | with_reducible (first | assumption | apply Kept.ite | apply samplePages_kept | apply State.bump_kept | refine Kept.fst (by assumption) ?_ | fail_if_no_progress apply Kept.upd) | split | dsimp only

theorem loadRows_kept {s0 : State} (s : State) (k : Nat) (j : Nat) (x : ClaimStream)  (hK : Kept s0 s) : Kept s0 (loadRows s k j x) := by
  unfold loadRows
  repeat' first | (intro) | with_reducible (first | assumption | apply Kept.ite | apply Kept.foldl | apply setInt_kept | apply State.modCore_kept | apply Kept.foldl_fst | fail_if_no_progress apply Kept.upd) | split | dsimp only

theorem poisonRows_kept {s0 : State} (s : State) (p : Pattern) (k : Nat) (i : Nat)  (hK : Kept s0 s) : Kept s0 (poisonRows s p k i) := by
  unfold poisonRows
  repeat' first | (intro) | with_reducible (first | assumption | apply Kept.foldl | apply State.modCore_kept | refine Kept.fst (by assumption) ?_ | apply Kept.foldl_fst | fail_if_no_progress apply Kept.upd) | split | dsimp only

theorem lateFetch_kept {s0 : State} (s : State) (b : Binding) (p : Pattern) (q : Cue)  (hK : Kept s0 s) : Kept s0 (lateFetch s b p q) := by
  unfold lateFetch
  repeat' first | (intro) | with_reducible (first | assumption | apply Kept.foldl | apply raise_kept | apply State.bump_kept | refine Kept.fst (by assumption) ?_ | apply Kept.foldl_fst | fail_if_no_progress apply Kept.upd) | split | dsimp only

theorem takeWindows_kept {s0 : State} (s : State) (p : Pattern) (ks : List Nat) (st : Nat) (now : Nat)  (hK : Kept s0 s) : Kept s0 (takeWindows s p ks st now) := by
  unfold takeWindows
  repeat' first | (intro) | with_reducible (first | assumption | apply Kept.foldl | apply Kept.getD | apply State.modCore_kept | refine Kept.fst (by assumption) ?_ | apply Kept.foldl_fst | fail_if_no_progress apply Kept.upd) | split | dsimp only

theorem startStep_kept {s0 : State} (s : State) (r : Nat)  (hK : Kept s0 s) : Kept s0 (startStep s r) := by
  unfold startStep
  repeat' first | (intro) | with_reducible (first | assumption | apply Kept.ite | apply Kept.foldl | apply Kept.getD | apply lateFetch_kept | apply poisonRows_kept | apply State.runCore_kept | apply State.collect_kept | apply State.modCore_kept | apply takeWindows_kept | apply loadRows_kept | refine Kept.fst (by assumption) ?_ | apply Kept.foldl_fst | fail_if_no_progress apply Kept.upd) | split | dsimp only

theorem freeCores_kept {s0 : State} (s : State) (r : Nat) (ks : List Nat)  (hK : Kept s0 s) : Kept s0 (freeCores s r ks) := by
  unfold freeCores
  repeat' first | (intro) | with_reducible (first | assumption | apply Kept.foldl | apply State.modCore_kept | apply Kept.foldl_fst | fail_if_no_progress apply Kept.upd) | split | dsimp only

theorem completeRun_kept {s0 : State} (s : State) (r : Nat)  (hK : Kept s0 s) : Kept s0 (completeRun s r) := by
  unfold completeRun
  repeat' first | (intro) | with_reducible (first | assumption | apply Kept.ite | apply Kept.foldl | apply Kept.getD | apply endFlight_kept | apply dropCue_kept | apply freeCores_kept | refine Kept.fst (by assumption) ?_ | apply Kept.foldl_fst | fail_if_no_progress apply Kept.upd) | split | dsimp only

theorem countSpills_kept {s0 : State} (s : State) (r : Nat)  (hK : Kept s0 s) : Kept s0 (countSpills s r) := by
  unfold countSpills
  repeat' first | (intro) | with_reducible (first | assumption | apply Kept.ite | apply Kept.foldl | apply setInt_kept | apply State.bump_kept | refine Kept.fst (by assumption) ?_ | apply Kept.foldl_fst | fail_if_no_progress apply Kept.upd) | split | dsimp only

end Sys2Proof.Machine
end

