-- ==== Sys2Proof/Laws/KeptTime.lean ====
section
/-! SUPPORT. The operations of Machine/Time.lean keep the queue and the canonical form of the memory. -/

set_option linter.unusedTactic false
set_option linter.unreachableTactic false
set_option linter.unusedSimpArgs false

namespace Sys2Proof.Machine

theorem timeEvent_kept {s0 : State} (s : State) (e : EvDef) (words : List Word)  (hK : Kept s0 s) : Kept s0 (timeEvent s e words) := by
  unfold timeEvent
  repeat' first | (intro) | with_reducible (first | assumption | apply raiseAll_kept | fail_if_no_progress apply Kept.upd) | dsimp only

theorem State.modPtm_kept {s0 : State} (s : State) (p : Port) (f : PtmPort → PtmPort)  (hK : Kept s0 s) : Kept s0 (State.modPtm s p f) := by
  unfold State.modPtm
  repeat' first | (intro) | with_reducible (first | assumption | apply State.modPort_kept | fail_if_no_progress apply Kept.upd) | dsimp only

theorem onSourceLost_kept {s0 : State} (s : State)  (hK : Kept s0 s) : Kept s0 (onSourceLost s) := by
  unfold onSourceLost
  repeat' first | (intro) | with_reducible (first | assumption | apply Kept.ite | apply State.modFt_kept | apply timeEvent_kept | refine Kept.fst (by assumption) ?_ | fail_if_no_progress apply Kept.upd) | split | dsimp only

theorem losePtm_kept {s0 : State} (s : State) (p : Port)  (hK : Kept s0 s) : Kept s0 (losePtm s p) := by
  unfold losePtm
  repeat' first | (intro) | with_reducible (first | assumption | apply onSourceLost_kept | apply State.modPtm_kept | fail_if_no_progress apply Kept.upd) | dsimp only

theorem dialogStart_kept {s0 : State} (s : State) (p : Port)  (hK : Kept s0 s) : Kept s0 (dialogStart s p) := by
  unfold dialogStart
  repeat' first | (intro) | with_reducible (first | assumption | apply Kept.ite | apply State.modPtm_kept | apply onSourceLost_kept | apply State.emit_kept | apply losePtm_kept | fail_if_no_progress apply Kept.upd) | split | dsimp only

theorem setSource_kept {s0 : State} (s : State) (p : Port)  (hK : Kept s0 s) : Kept s0 (setSource s p) := by
  unfold setSource
  repeat' first | (intro) | with_reducible (first | assumption | apply Kept.ite | apply setInt_kept | apply State.modFt_kept | fail_if_no_progress apply Kept.upd) | split | dsimp only

theorem chooseSource_kept {s0 : State} (s : State) (p : Port)  (hK : Kept s0 s) : Kept s0 (chooseSource s p) := by
  unfold chooseSource
  repeat' first | (intro) | with_reducible (first | assumption | apply Kept.ite | apply setSource_kept | fail_if_no_progress apply Kept.upd) | split | dsimp only

theorem correct_kept {s0 : State} (s : State) (d : Int) (report : Bool)  (hK : Kept s0 s) : Kept s0 (correct s d report) := by
  unfold correct
  repeat' first | (intro) | with_reducible (first | assumption | apply State.modFt_kept | apply State.tick_kept | fail_if_no_progress apply Kept.upd) | split | dsimp only

theorem sourceDialog_kept {s0 : State} (s : State) (d : Int)  (hK : Kept s0 s) : Kept s0 (sourceDialog s d) := by
  unfold sourceDialog
  repeat' first | (intro) | with_reducible (first | assumption | apply Kept.ite | apply correct_kept | apply State.modFt_kept | apply timeEvent_kept | refine Kept.fst (by assumption) ?_ | fail_if_no_progress apply Kept.upd) | split | dsimp only

theorem dialogResponse_kept {s0 : State} (s : State) (p : Port) (master : DWord) (sub : BitVec 10)  (hK : Kept s0 s) : Kept s0 (dialogResponse s p master sub) := by
  unfold dialogResponse
  repeat' first | (intro) | with_reducible (first | assumption | apply Kept.ite | apply chooseSource_kept | apply State.modPtm_kept | apply sourceDialog_kept | fail_if_no_progress apply Kept.upd) | split | dsimp only

theorem dialogTimeout_kept {s0 : State} (s : State) (p : Port)  (hK : Kept s0 s) : Kept s0 (dialogTimeout s p) := by
  unfold dialogTimeout
  repeat' first | (intro) | with_reducible (first | assumption | apply Kept.ite | apply State.modPtm_kept | fail_if_no_progress apply Kept.upd) | split | dsimp only

theorem execPtmDialogStart_kept {p : Port} {s : State} {tt : State} (eK : execPtmDialogStart p s = .next tt) : Kept s tt := by
  have hK : Kept s s := Kept.refl s
  unfold execPtmDialogStart at eK
  repeat' first | (simp only [ifApplies, Host.Outcome.next.injEq, reduceCtorEq] at eK) | (subst eK) | split at eK
  all_goals repeat' first | (intro) | with_reducible (first | assumption | apply dialogStart_kept | fail_if_no_progress apply Kept.upd) | dsimp only

theorem execPtmDialogResponse_kept {p : Port} {master : DWord} {sub : BitVec 10} {s : State} {tt : State} (eK : execPtmDialogResponse p master sub s = .next tt) : Kept s tt := by
  have hK : Kept s s := Kept.refl s
  unfold execPtmDialogResponse at eK
  repeat' first | (simp only [ifApplies, Host.Outcome.next.injEq, reduceCtorEq] at eK) | (subst eK) | split at eK
  all_goals repeat' first | (intro) | with_reducible (first | assumption | apply dialogResponse_kept | fail_if_no_progress apply Kept.upd) | dsimp only

theorem execPtmDialogTimeout_kept {p : Port} {s : State} {tt : State} (eK : execPtmDialogTimeout p s = .next tt) : Kept s tt := by
  have hK : Kept s s := Kept.refl s
  unfold execPtmDialogTimeout at eK
  repeat' first | (simp only [ifApplies, Host.Outcome.next.injEq, reduceCtorEq] at eK) | (subst eK) | split at eK
  all_goals repeat' first | (intro) | with_reducible (first | assumption | apply dialogTimeout_kept | fail_if_no_progress apply Kept.upd) | dsimp only

theorem execPtmLost_kept {p : Port} {s : State} {tt : State} (eK : execPtmLost p s = .next tt) : Kept s tt := by
  have hK : Kept s s := Kept.refl s
  unfold execPtmLost at eK
  repeat' first | (simp only [ifApplies, Host.Outcome.next.injEq, reduceCtorEq] at eK) | (subst eK) | split at eK
  all_goals repeat' first | (intro) | with_reducible (first | assumption | apply Kept.ite | apply losePtm_kept | fail_if_no_progress apply Kept.upd) | dsimp only

theorem execHoldoverExpired_kept {s : State} {tt : State} (eK : execHoldoverExpired s = .next tt) : Kept s tt := by
  have hK : Kept s s := Kept.refl s
  unfold execHoldoverExpired at eK
  repeat' first | (simp only [ifApplies, Host.Outcome.next.injEq, reduceCtorEq] at eK) | (subst eK) | split at eK
  all_goals repeat' first | (intro) | with_reducible (first | assumption | apply Kept.ite | apply timeEvent_kept | apply State.modFt_kept | fail_if_no_progress apply Kept.upd) | dsimp only

theorem execPtmEnableWrite_kept {p : Port} {enable : Bool} {s : State} {tt : State} (eK : execPtmEnableWrite p enable s = .next tt) : Kept s tt := by
  have hK : Kept s s := Kept.refl s
  unfold execPtmEnableWrite at eK
  repeat' first | (simp only [ifApplies, Host.Outcome.next.injEq, reduceCtorEq] at eK) | (subst eK) | split at eK
  all_goals repeat' first | (intro) | with_reducible (first | assumption | apply Kept.ite | apply State.modPort_kept | apply losePtm_kept | fail_if_no_progress apply Kept.upd) | split | dsimp only

theorem renumberNow_kept {s0 : State} (s : State)  (hK : Kept s0 s) : Kept s0 (renumberNow s) := by
  unfold renumberNow
  repeat' first | (intro) | with_reducible (first | assumption | apply Kept.ite | apply State.modFt_kept | fail_if_no_progress apply Kept.upd) | split | dsimp only

theorem timeStep_kept {s0 : State} (s : State) (n : Int)  (hK : Kept s0 s) : Kept s0 (timeStep s n) := by
  unfold timeStep
  repeat' first | (intro) | with_reducible (first | assumption | apply timeEvent_kept | fail_if_no_progress apply Kept.upd) | dsimp only

theorem advanceTime_kept {s0 : State} (s : State)  (hK : Kept s0 s) : Kept s0 (advanceTime s) := by
  unfold advanceTime
  repeat' first | (intro) | with_reducible (first | assumption | apply Kept.ite | apply State.modFt_kept | fail_if_no_progress apply Kept.upd) | split | dsimp only

end Sys2Proof.Machine
end

