-- ==== Sys2Proof/Laws/KeptPackageReset.lean ====
section
/-! SUPPORT. The operations of Machine/PackageReset.lean keep the queue and the canonical form of the memory. -/

set_option linter.unusedTactic false
set_option linter.unreachableTactic false
set_option linter.unusedSimpArgs false

namespace Sys2Proof.Machine

theorem drivePins_kept {s0 : State} (s : State)  (hK : Kept s0 s) : Kept s0 (drivePins s) := by
  unfold drivePins
  repeat' first | (intro) | with_reducible (first | assumption | apply Kept.ite | apply Kept.foldl | refine Kept.fst (by assumption) ?_ | apply Kept.foldl_fst | fail_if_no_progress apply Kept.upd) | split | dsimp only

theorem keepTables_kept {s0 : State} (s : State)  (hK : Kept s0 s) : Kept s0 (keepTables s) := by
  unfold keepTables
  repeat' first | (intro) | with_reducible (first | assumption | apply Kept.foldl | apply Kept.getD | apply retire_kept | refine Kept.fst (by assumption) ?_ | apply Kept.foldl_fst | fail_if_no_progress apply Kept.upd) | split | dsimp only

theorem doPackageReset_kept {s0 : State} (s : State) (cause : Nat) (stage : Nat)  (hK : Kept s0 s) : Kept s0 (doPackageReset s cause stage) := by
  unfold doPackageReset
  repeat' first | (intro) | with_reducible (first | assumption | apply Kept.ite | apply keepTables_kept | apply checkFlash_kept | apply drivePins_kept | fail_if_no_progress apply Kept.upd | fail_if_no_progress apply Kept.blank) | split | dsimp only

theorem packageReset_kept {s0 : State} (s : State) (cause : Nat)  (hK : Kept s0 s) : Kept s0 (packageReset s cause) := by
  unfold packageReset
  repeat' first | (intro) | with_reducible (first | assumption | apply Kept.ite | apply doPackageReset_kept | fail_if_no_progress apply Kept.upd) | split | dsimp only

theorem execPackageReset_kept {s : State} {tt : State} (eK : execPackageReset s = .next tt) : Kept s tt := by
  have hK : Kept s s := Kept.refl s
  unfold execPackageReset at eK
  repeat' first | (simp only [ifApplies, Host.Outcome.next.injEq, reduceCtorEq] at eK) | (subst eK) | split at eK
  all_goals repeat' first | (intro) | with_reducible (first | assumption | apply Kept.ite | apply packageReset_kept | fail_if_no_progress apply Kept.upd) | split | dsimp only

end Sys2Proof.Machine
end

