-- ==== Sys2Proof/Laws/KeptCartridges.lean ====
section
/-! SUPPORT. The operations of Machine/Cartridges.lean keep the queue and the canonical form of the memory. -/

set_option linter.unusedTactic false
set_option linter.unreachableTactic false
set_option linter.unusedSimpArgs false

namespace Sys2Proof.Machine

theorem powerBay_kept {s0 : State} (s : State) (b : Nat)  (hK : Kept s0 s) : Kept s0 (powerBay s b) := by
  unfold powerBay
  repeat' first | (intro) | with_reducible (first | assumption | apply State.modBay_kept | fail_if_no_progress apply Kept.upd) | dsimp only

theorem unpowerBay_kept {s0 : State} (s : State) (b : Nat)  (hK : Kept s0 s) : Kept s0 (unpowerBay s b) := by
  unfold unpowerBay
  repeat' first | (intro) | with_reducible (first | assumption | apply State.modBay_kept | fail_if_no_progress apply Kept.upd) | dsimp only

theorem writeLedger_kept {s0 : State} (s : State) (b : Nat) (f : CartLedger → CartLedger)  (hK : Kept s0 s) : Kept s0 (writeLedger s b f) := by
  unfold writeLedger
  repeat' first | (intro) | with_reducible (first | assumption | apply State.modBay_kept | refine Kept.fst (by assumption) ?_ | fail_if_no_progress apply Kept.upd) | split | dsimp only

theorem checkArray_kept {s0 : State} (s : State)  (hK : Kept s0 s) : Kept s0 (checkArray s) := by
  unfold checkArray
  repeat' first | (intro) | with_reducible (first | assumption | apply Kept.ite | apply raise_kept | fail_if_no_progress apply Kept.upd) | split | dsimp only

theorem keepShares_kept {s0 : State} (s : State) (p : Nat) (keep : Nat → Bool)  (hK : Kept s0 s) : Kept s0 (keepShares s p keep) := by
  unfold keepShares
  repeat' first | (intro) | with_reducible (first | assumption | apply Kept.ite | fail_if_no_progress apply Kept.upd) | split | dsimp only

theorem putJournal_kept {s0 : State} (s : State) (w : Walk) (ended : Bool)  (hK : Kept s0 s) : Kept s0 (putJournal s w ended) := by
  unfold putJournal
  repeat' first | (intro) | with_reducible (first | assumption | apply Kept.ite | fail_if_no_progress apply Kept.upd) | split | dsimp only

theorem writeJournal_kept {s0 : State} (s : State)  (hK : Kept s0 s) : Kept s0 (writeJournal s) := by
  unfold writeJournal
  repeat' first | (intro) | with_reducible (first | assumption | apply putJournal_kept | refine Kept.fst (by assumption) ?_ | fail_if_no_progress apply Kept.upd) | split | dsimp only

theorem stopWalk_kept {s0 : State} (s : State) (w : Walk)  (hK : Kept s0 s) : Kept s0 (stopWalk s w) := by
  unfold stopWalk
  repeat' first | (intro) | with_reducible (first | assumption | apply Kept.ite | apply putJournal_kept | apply writeLedger_kept | apply State.modBay_kept | refine Kept.fst (by assumption) ?_ | fail_if_no_progress apply Kept.upd) | split | dsimp only

theorem vacate_kept {s0 : State} (s : State) (p : Nat)  (hK : Kept s0 s) : Kept s0 (vacate s p) := by
  unfold vacate
  repeat' first | (intro) | with_reducible (first | assumption | apply Kept.ite | apply keepShares_kept | apply writeJournal_kept | refine Kept.fst (by assumption) ?_ | fail_if_no_progress apply Kept.upd) | split | dsimp only

theorem loseTarget_kept {s0 : State} (s : State) (p : Nat)  (hK : Kept s0 s) : Kept s0 (loseTarget s p) := by
  unfold loseTarget
  repeat' first | (intro) | with_reducible (first | assumption | apply Kept.ite | apply stopWalk_kept | apply keepShares_kept | refine Kept.fst (by assumption) ?_ | fail_if_no_progress apply Kept.upd) | split | dsimp only

theorem failCart_kept {s0 : State} (s : State) (b : Nat) (cause : Nat)  (hK : Kept s0 s) : Kept s0 (failCart s b cause) := by
  unfold failCart
  repeat' first | (intro) | with_reducible (first | assumption | apply Kept.ite | apply Kept.getD | apply State.modBay_kept | apply writeLedger_kept | apply unpowerBay_kept | apply loseTarget_kept | apply vacate_kept | apply checkArray_kept | apply raise_kept | fail_if_no_progress apply Kept.upd) | split | dsimp only

theorem startVerify_kept {s0 : State} (s : State) (b : Nat)  (hK : Kept s0 s) : Kept s0 (startVerify s b) := by
  unfold startVerify
  repeat' first | (intro) | with_reducible (first | assumption | apply powerBay_kept | apply State.modBay_kept | fail_if_no_progress apply Kept.upd) | dsimp only

theorem execBayPresence_kept {b : Bay} {cart : Cartridge} {s : State} {tt : State} (eK : execBayPresence b cart s = .next tt) : Kept s tt := by
  have hK : Kept s s := Kept.refl s
  unfold execBayPresence at eK
  repeat' first | (simp only [ifApplies, Host.Outcome.next.injEq, reduceCtorEq] at eK) | (subst eK) | split at eK
  all_goals repeat' first | (intro) | with_reducible (first | assumption | apply Kept.ite | apply State.modBay_kept | apply drivePins_kept | apply startVerify_kept | fail_if_no_progress apply Kept.upd) | split | dsimp only

theorem presenceLost_kept {s0 : State} (s : State) (b : Nat)  (hK : Kept s0 s) : Kept s0 (presenceLost s b) := by
  unfold presenceLost
  repeat' first | (intro) | with_reducible (first | assumption | apply Kept.ite | apply failCart_kept | apply unpowerBay_kept | apply State.modBay_kept | fail_if_no_progress apply Kept.upd) | split | dsimp only

theorem execBayPresenceLost_kept {b : Bay} {s : State} {tt : State} (eK : execBayPresenceLost b s = .next tt) : Kept s tt := by
  have hK : Kept s s := Kept.refl s
  unfold execBayPresenceLost at eK
  repeat' first | (simp only [ifApplies, Host.Outcome.next.injEq, reduceCtorEq] at eK) | (subst eK) | split at eK
  all_goals repeat' first | (intro) | with_reducible (first | assumption | apply Kept.ite | apply drivePins_kept | apply presenceLost_kept | fail_if_no_progress apply Kept.upd) | split | dsimp only

theorem execBayLatchOpen_kept {b : Bay} {s : State} {tt : State} (eK : execBayLatchOpen b s = .next tt) : Kept s tt := by
  have hK : Kept s s := Kept.refl s
  unfold execBayLatchOpen at eK
  repeat' first | (simp only [ifApplies, Host.Outcome.next.injEq, reduceCtorEq] at eK) | (subst eK) | split at eK
  all_goals repeat' first | (intro) | with_reducible (first | assumption | apply drivePins_kept | apply unpowerBay_kept | apply writeLedger_kept | apply State.modBay_kept | apply failCart_kept | refine Kept.fst (by assumption) ?_ | fail_if_no_progress apply Kept.upd) | split | dsimp only

theorem execLatchPowerRemove_kept {b : Bay} {s : State} {tt : State} (eK : execLatchPowerRemove b s = .next tt) : Kept s tt := by
  have hK : Kept s s := Kept.refl s
  unfold execLatchPowerRemove at eK
  repeat' first | (simp only [ifApplies, Host.Outcome.next.injEq, reduceCtorEq] at eK) | (subst eK) | split at eK
  all_goals repeat' first | (intro) | with_reducible (first | assumption | apply Kept.ite | apply drivePins_kept | apply unpowerBay_kept | fail_if_no_progress apply Kept.upd) | split | dsimp only

theorem execChannelStatusTimeout_kept {b : Bay} {s : State} {tt : State} (eK : execChannelStatusTimeout b s = .next tt) : Kept s tt := by
  have hK : Kept s s := Kept.refl s
  unfold execChannelStatusTimeout at eK
  repeat' first | (simp only [ifApplies, Host.Outcome.next.injEq, reduceCtorEq] at eK) | (subst eK) | split at eK
  all_goals repeat' first | (intro) | with_reducible (first | assumption | apply Kept.ite | apply drivePins_kept | apply failCart_kept | fail_if_no_progress apply Kept.upd) | split | dsimp only

theorem execCodewordFailureLimit_kept {b : Bay} {s : State} {tt : State} (eK : execCodewordFailureLimit b s = .next tt) : Kept s tt := by
  have hK : Kept s s := Kept.refl s
  unfold execCodewordFailureLimit at eK
  repeat' first | (simp only [ifApplies, Host.Outcome.next.injEq, reduceCtorEq] at eK) | (subst eK) | split at eK
  all_goals repeat' first | (intro) | with_reducible (first | assumption | apply Kept.ite | apply drivePins_kept | apply failCart_kept | fail_if_no_progress apply Kept.upd) | split | dsimp only

theorem takeIn_kept {s0 : State} (s : State) (b : Nat) (c : Cartridge) (l : CartLedger) (rates : List (Option (BitVec 2)))  (hK : Kept s0 s) : Kept s0 (takeIn s b c l rates) := by
  unfold takeIn
  repeat' first | (intro) | with_reducible (first | assumption | apply Kept.getD | apply State.modBay_kept | apply raise_kept | apply writeLedger_kept | refine Kept.fst (by assumption) ?_ | fail_if_no_progress apply Kept.upd) | split | dsimp only

theorem execCartVerifyComplete_kept {b : Bay} {parameterPageAgrees : Bool} {rates : List (Option (BitVec 2))} {s : State} {tt : State} (eK : execCartVerifyComplete b parameterPageAgrees rates s = .next tt) : Kept s tt := by
  have hK : Kept s s := Kept.refl s
  unfold execCartVerifyComplete at eK
  repeat' first | (simp only [ifApplies, Host.Outcome.next.injEq, reduceCtorEq] at eK) | (subst eK) | split at eK
  all_goals repeat' first | (intro) | with_reducible (first | assumption | apply Kept.ite | apply drivePins_kept | apply takeIn_kept | apply unpowerBay_kept | apply State.modBay_kept | apply raise_kept | refine Kept.fst (by assumption) ?_ | fail_if_no_progress apply Kept.upd) | split | dsimp only

theorem setWalkCounts_kept {s0 : State} (s : State) (w : Walk)  (hK : Kept s0 s) : Kept s0 (setWalkCounts s w) := by
  unfold setWalkCounts
  repeat' first | (intro) | with_reducible (first | assumption | fail_if_no_progress apply Kept.upd) | dsimp only

theorem startWalk_kept {s0 : State} (s : State) (g : Nat) (p : Nat) (source : Option Nat)  (hK : Kept s0 s) : Kept s0 (startWalk s g p source) := by
  unfold startWalk
  repeat' first | (intro) | with_reducible (first | assumption | apply Kept.foldl | apply State.modBay_kept | apply writeJournal_kept | apply setWalkCounts_kept | apply raise_kept | apply writeLedger_kept | refine Kept.fst (by assumption) ?_ | apply Kept.foldl_fst | fail_if_no_progress apply Kept.upd) | split | dsimp only

theorem startWalks_kept {s0 : State} (s : State)  (hK : Kept s0 s) : Kept s0 (startWalks s) := by
  unfold startWalks
  repeat' first | (intro) | with_reducible (first | assumption | apply Kept.ite | apply drivePins_kept | apply startWalk_kept | refine Kept.fst (by assumption) ?_ | fail_if_no_progress apply Kept.upd) | split | dsimp only

theorem startRetire_kept {s0 : State} {s : State} {b : Nat}  {tt : State} (eK : startRetire s b = some tt) (hK : Kept s0 s) : Kept s0 tt := by
  unfold startRetire at eK
  repeat' first | (simp only [Option.some.injEq, reduceCtorEq] at eK) | (subst eK) | split at eK | exact absurd eK (by simp)
  all_goals repeat' first | (intro) | with_reducible (first | assumption | apply Kept.ite | apply startWalk_kept | apply writeLedger_kept | apply State.modBay_kept | refine Kept.fst (by assumption) ?_ | fail_if_no_progress apply Kept.upd) | split | dsimp only

theorem checkWear_kept {s0 : State} (s : State) (b : Nat) (hK : Kept s0 s) : Kept s0 (checkWear s b) := by
  unfold checkWear
  extract_lets x w u v go
  have hu : Kept s0 u := by
    show Kept s0 (if _ then _ else _)
    split
    · exact raise_kept _ _ _ _ (State.modBay_kept _ _ _ hK)
    · exact hK
  have hv : Kept s0 v := State.modBay_kept _ _ _ hu
  split
  · exact hu
  · refine raise_kept _ _ _ _ (Kept.getD (fun t e => ?_) hv)
    have e : (if _ then startRetire v b else none) = some t := e
    split at e
    · exact startRetire_kept e hv
    · exact absurd e (by simp)

theorem execLedgerWrite_kept {b : Bay} {s : State} {tt : State} (eK : execLedgerWrite b s = .next tt) : Kept s tt := by
  have hK : Kept s s := Kept.refl s
  unfold execLedgerWrite at eK
  repeat' first | (simp only [ifApplies, Host.Outcome.next.injEq, reduceCtorEq] at eK) | (subst eK) | split at eK
  all_goals repeat' first | (intro) | with_reducible (first | assumption | apply Kept.ite | apply drivePins_kept | apply checkWear_kept | apply writeLedger_kept | fail_if_no_progress apply Kept.upd) | split | dsimp only

theorem execEolRepeat_kept {b : Bay} {s : State} {tt : State} (eK : execEolRepeat b s = .next tt) : Kept s tt := by
  have hK : Kept s s := Kept.refl s
  unfold execEolRepeat at eK
  repeat' first | (simp only [ifApplies, Host.Outcome.next.injEq, reduceCtorEq] at eK) | (subst eK) | split at eK
  all_goals repeat' first | (intro) | with_reducible (first | assumption | apply Kept.ite | apply raise_kept | fail_if_no_progress apply Kept.upd) | split | dsimp only

theorem countProgrammed_kept {s0 : State} (s : State) (b : Nat) (n : Nat)  (hK : Kept s0 s) : Kept s0 (countProgrammed s b n) := by
  unfold countProgrammed
  repeat' first | (intro) | with_reducible (first | assumption | apply State.modBay_kept | fail_if_no_progress apply Kept.upd) | dsimp only

theorem walkStripe_kept {s0 : State} (s : State) (w : Walk) (n : Nat)  (hK : Kept s0 s) : Kept s0 (walkStripe s w n) := by
  unfold walkStripe
  repeat' first | (intro) | with_reducible (first | assumption | apply Kept.ite | apply countProgrammed_kept | apply setWalkCounts_kept | refine Kept.fst (by assumption) ?_ | fail_if_no_progress apply Kept.upd) | split | dsimp only

theorem execRebuildStripe_kept {s : State} {tt : State} (eK : execRebuildStripe s = .next tt) : Kept s tt := by
  have hK : Kept s s := Kept.refl s
  unfold execRebuildStripe at eK
  repeat' first | (simp only [ifApplies, Host.Outcome.next.injEq, reduceCtorEq] at eK) | (subst eK) | split at eK
  all_goals repeat' first | (intro) | with_reducible (first | assumption | apply walkStripe_kept | refine Kept.fst (by assumption) ?_ | fail_if_no_progress apply Kept.upd) | split | dsimp only

theorem execRebuildJournalWrite_kept {s : State} {tt : State} (eK : execRebuildJournalWrite s = .next tt) : Kept s tt := by
  have hK : Kept s s := Kept.refl s
  unfold execRebuildJournalWrite at eK
  repeat' first | (simp only [ifApplies, Host.Outcome.next.injEq, reduceCtorEq] at eK) | (subst eK) | split at eK
  all_goals repeat' first | (intro) | with_reducible (first | assumption | apply Kept.ite | apply writeJournal_kept | fail_if_no_progress apply Kept.upd) | split | dsimp only

theorem endWalk_kept {s0 : State} (s : State) (w : Walk)  (hK : Kept s0 s) : Kept s0 (endWalk s w) := by
  unfold endWalk
  repeat' first | (intro) | with_reducible (first | assumption | apply State.modBay_kept | apply writeLedger_kept | apply putJournal_kept | apply unpowerBay_kept | apply checkArray_kept | apply raise_kept | refine Kept.fst (by assumption) ?_ | fail_if_no_progress apply Kept.upd) | split | dsimp only

theorem execRebuildDone_kept {s : State} {tt : State} (eK : execRebuildDone s = .next tt) : Kept s tt := by
  have hK : Kept s s := Kept.refl s
  unfold execRebuildDone at eK
  repeat' first | (simp only [ifApplies, Host.Outcome.next.injEq, reduceCtorEq] at eK) | (subst eK) | split at eK
  all_goals repeat' first | (intro) | with_reducible (first | assumption | apply Kept.ite | apply drivePins_kept | apply endWalk_kept | refine Kept.fst (by assumption) ?_ | fail_if_no_progress apply Kept.upd) | split | dsimp only

theorem assembleArray_kept {s0 : State} (s : State)  (hK : Kept s0 s) : Kept s0 (assembleArray s) := by
  unfold assembleArray
  repeat' first | (intro) | with_reducible (first | assumption | apply Kept.ite | apply Kept.foldl | apply keepShares_kept | refine Kept.fst (by assumption) ?_ | apply Kept.foldl_fst | fail_if_no_progress apply Kept.upd) | split | dsimp only

theorem resumeWalk_kept {s0 : State} (s : State)  (hK : Kept s0 s) : Kept s0 (resumeWalk s) := by
  unfold resumeWalk
  repeat' first | (intro) | with_reducible (first | assumption | apply setWalkCounts_kept | apply startWalk_kept | apply writeLedger_kept | apply State.modBay_kept | refine Kept.fst (by assumption) ?_ | fail_if_no_progress apply Kept.upd) | split | dsimp only

theorem cartQuery_kept {s0 : State} (s : State) (m : MciCall) (hK : Kept s0 s) : Kept s0 (cartQuery s m).1 := by
  unfold cartQuery
  repeat' first | (intro) | with_reducible (first | assumption | apply Kept.ite | apply Kept.getD | apply State.tick_kept | refine Kept.fst (by assumption) ?_ | fail_if_no_progress apply Kept.upd) | split | dsimp only

theorem execCartQuery_kept {via : Path} {input : List Byte} {s : State} {tt : State} (eK : execCartQuery via input s = .next tt) : Kept s tt := by
  have hK : Kept s s := Kept.refl s
  unfold execCartQuery at eK
  repeat' first | (simp only [ifApplies, Host.Outcome.next.injEq, reduceCtorEq] at eK) | (subst eK) | split at eK
  all_goals repeat' first | (intro) | with_reducible (first | assumption | apply mci_kept | apply cartQuery_kept | refine Kept.fst (by assumption) ?_ | fail_if_no_progress apply Kept.upd) | dsimp only

theorem cartRetire_kept {s0 : State} (s : State) (m : MciCall) (hK : Kept s0 s) : Kept s0 (cartRetire s m).1 := by
  unfold cartRetire
  repeat' first | (intro) | with_reducible (first | assumption | apply Kept.ite | refine startRetire_kept (by assumption) ?_ | apply drivePins_kept | refine Kept.fst (by assumption) ?_ | fail_if_no_progress apply Kept.upd) | split | dsimp only

theorem execCartRetire_kept {via : Path} {input : List Byte} {s : State} {tt : State} (eK : execCartRetire via input s = .next tt) : Kept s tt := by
  have hK : Kept s s := Kept.refl s
  unfold execCartRetire at eK
  repeat' first | (simp only [ifApplies, Host.Outcome.next.injEq, reduceCtorEq] at eK) | (subst eK) | split at eK
  all_goals repeat' first | (intro) | with_reducible (first | assumption | apply mci_kept | apply cartRetire_kept | refine Kept.fst (by assumption) ?_ | fail_if_no_progress apply Kept.upd) | dsimp only

end Sys2Proof.Machine
end

