-- ==== Sys2Proof/Laws/KeptRecovery.lean ====
section
/-! SUPPORT. The operations of Machine/Recovery.lean keep the queue and the canonical form of the memory. -/

set_option linter.unusedTactic false
set_option linter.unreachableTactic false
set_option linter.unusedSimpArgs false

namespace Sys2Proof.Machine

theorem giveVerdict_kept {s0 : State} (s : State) (q : Cue) (v : Nat)  (hK : Kept s0 s) : Kept s0 (giveVerdict s q v) := by
  unfold giveVerdict
  repeat' first | (intro) | with_reducible (first | assumption | apply Kept.ite | apply setInt_kept | apply raise_kept | fail_if_no_progress apply Kept.upd) | split | dsimp only

theorem addSuspects_kept {s0 : State} (s : State) (rs : List Nat)  (hK : Kept s0 s) : Kept s0 (addSuspects s rs) := by
  unfold addSuspects
  repeat' first | (intro) | with_reducible (first | assumption | apply Kept.ite | apply Kept.foldl | apply State.modRv_kept | apply Kept.foldl_fst | fail_if_no_progress apply Kept.upd) | split | dsimp only

theorem dropSuspect_kept {s0 : State} (s : State) (r : Nat)  (hK : Kept s0 s) : Kept s0 (dropSuspect s r) := by
  unfold dropSuspect
  repeat' first | (intro) | with_reducible (first | assumption | apply State.modRv_kept | fail_if_no_progress apply Kept.upd) | dsimp only

theorem endTest_kept {s0 : State} (s : State) (q : Cue) (v : Nat)  (hK : Kept s0 s) : Kept s0 (endTest s q v) := by
  unfold endTest
  repeat' first | (intro) | with_reducible (first | assumption | apply Kept.ite | apply State.modRv_kept | apply giveVerdict_kept | fail_if_no_progress apply Kept.upd) | split | dsimp only

theorem requeueTest_kept {s0 : State} (s : State) (c : Ctx) (cause : Nat) (named : List Nat)  (hK : Kept s0 s) : Kept s0 (requeueTest s c cause named) := by
  unfold requeueTest
  repeat' first | (intro) | with_reducible (first | assumption | apply Kept.ite | apply State.modRv_kept | apply endTest_kept | apply addSuspects_kept | refine Kept.fst (by assumption) ?_ | fail_if_no_progress apply Kept.upd) | split | dsimp only

theorem stopCores_kept {s0 : State} (s : State) (c : Ctx)  (hK : Kept s0 s) : Kept s0 (stopCores s c) := by
  unfold stopCores
  repeat' first | (intro) | with_reducible (first | assumption | apply Kept.ite | fail_if_no_progress apply Kept.upd) | split | dsimp only

theorem decideUnpick_kept {s0 : State} (s : State) (c : Ctx) (cause : Nat) (suspects : List Nat) (guilty : List Nat)  (hK : Kept s0 s) : Kept s0 (decideUnpick s c cause suspects guilty) := by
  unfold decideUnpick
  repeat' first | (intro) | with_reducible (first | assumption | apply Kept.ite | apply requeueTest_kept | apply State.modRv_kept | apply stopCores_kept | apply State.modCtx_kept | refine Kept.fst (by assumption) ?_ | fail_if_no_progress apply Kept.upd) | split | dsimp only

theorem unpickBoundary_kept {s0 : State} (s : State)  (hK : Kept s0 s) : Kept s0 (unpickBoundary s) := by
  unfold unpickBoundary
  repeat' first | (intro) | with_reducible (first | assumption | apply Kept.ite | apply Kept.foldl | apply State.modRv_kept | apply Kept.foldl_fst | fail_if_no_progress apply Kept.upd) | split | dsimp only

theorem dropDeviceReqs_kept {s0 : State} (s : State) (c : Ctx)  (hK : Kept s0 s) : Kept s0 (dropDeviceReqs s c) := by
  unfold dropDeviceReqs
  repeat' first | (intro) | with_reducible (first | assumption | refine Kept.fst (by assumption) ?_ | fail_if_no_progress apply Kept.upd) | split | dsimp only

theorem resetChan_kept {s0 : State} (s : State) (k : Nat)  (hK : Kept s0 s) : Kept s0 (resetChan s k) := by
  unfold resetChan
  repeat' first | (intro) | with_reducible (first | assumption | apply Kept.foldl | apply endFlight_kept | apply unpinPages_kept | apply State.modCodec_kept | apply answer_kept | refine Kept.fst (by assumption) ?_ | apply Kept.foldl_fst | fail_if_no_progress apply Kept.upd) | split | dsimp only

theorem resetChans_kept {s0 : State} (s : State) (c : Ctx)  (hK : Kept s0 s) : Kept s0 (resetChans s c) := by
  unfold resetChans
  repeat' first | (intro) | with_reducible (first | assumption | apply Kept.foldl | apply resetChan_kept | apply Kept.foldl_fst | fail_if_no_progress apply Kept.upd) | split | dsimp only

theorem endWalker_kept {s0 : State} (s : State) (c : Ctx) (hub : Bool := false)  (hK : Kept s0 s) : Kept s0 (endWalker s c hub).1 := by
  unfold endWalker
  repeat' first | (intro) | with_reducible (first | assumption | apply Kept.ite | apply Kept.foldl | apply endSwaps_kept | apply resetChans_kept | apply dropChans_kept | apply endFlight_kept | apply dropDeviceReqs_kept | apply unpinAll_kept | apply Kept.foldl_fst | fail_if_no_progress apply Kept.upd) | split | dsimp only

theorem unpinRun_kept {s0 : State} (s : State) (r : Nat)  (hK : Kept s0 s) : Kept s0 (unpinRun s r) := by
  unfold unpinRun
  repeat' first | (intro) | with_reducible (first | assumption | apply unpinAll_kept | fail_if_no_progress apply Kept.upd) | split | dsimp only

theorem endCue_kept {s0 : State} (s : State) (q : Cue) (status : Nat)  (hK : Kept s0 s) : Kept s0 (endCue s q status) := by
  unfold endCue
  repeat' first | (intro) | with_reducible (first | assumption | apply endFlight_kept | refine Kept.fst (by assumption) ?_ | fail_if_no_progress apply Kept.upd) | split | dsimp only

theorem settleCues_kept {s0 : State} (s : State) (j : UnpickJob)  (hK : Kept s0 s) : Kept s0 (settleCues s j).1 := by
  unfold settleCues
  repeat' first | (intro) | with_reducible (first | assumption | apply Kept.foldl | apply unpinRun_kept | apply State.modRv_kept | apply endCue_kept | apply dropSuspect_kept | refine Kept.fst (by assumption) ?_ | apply Kept.foldl_fst | fail_if_no_progress apply Kept.upd) | split | dsimp only

theorem settleDeferred_kept {s0 : State} (s : State) (c : Ctx) (j : UnpickJob)  (hK : Kept s0 s) : Kept s0 (settleDeferred s c j).1 := by
  unfold settleDeferred
  repeat' first | (intro) | with_reducible (first | assumption | apply Kept.ite | apply Kept.foldl | apply endCue_kept | apply dropSuspect_kept | apply State.modRv_kept | apply Kept.foldl_fst | fail_if_no_progress apply Kept.upd) | split | dsimp only

theorem dropSpills_kept {s0 : State} (s : State) (c : Ctx)  (hK : Kept s0 s) : Kept s0 (dropSpills s c) := by
  unfold dropSpills
  repeat' first | (intro) | with_reducible (first | assumption | refine Kept.fst (by assumption) ?_ | fail_if_no_progress apply Kept.upd) | split | dsimp only

theorem idleCores_kept {s0 : State} (s : State) (c : Ctx) (runs : List Nat)  (hK : Kept s0 s) : Kept s0 (idleCores s c runs) := by
  unfold idleCores
  repeat' first | (intro) | with_reducible (first | assumption | apply Kept.ite | apply dropSpills_kept | fail_if_no_progress apply Kept.upd) | split | dsimp only

theorem completeUnpick_kept {s0 : State} (s : State) (c : Ctx) (j : UnpickJob)  (hK : Kept s0 s) : Kept s0 (completeUnpick s c j) := by
  unfold completeUnpick
  repeat' first | (intro) | with_reducible (first | assumption | apply Kept.foldl | (refine Kept.fst (by assumption) ?_; apply endWalker_kept) | apply endWalker_kept | apply idleCores_kept | (refine Kept.fst (by assumption) ?_; apply settleCues_kept) | apply settleCues_kept | (refine Kept.fst (by assumption) ?_; apply settleDeferred_kept) | apply settleDeferred_kept | apply State.modRv_kept | apply State.bump_kept | apply raise_kept | apply answer_kept | refine Kept.fst (by assumption) ?_ | apply Kept.foldl_fst | fail_if_no_progress apply Kept.upd) | split | dsimp only

theorem withoutReplay_kept {s0 : State} (s : State) (cs : List Ctx)  (hK : Kept s0 s) : Kept s0 (withoutReplay s cs) := by
  unfold withoutReplay
  repeat' first | (intro) | with_reducible (first | assumption | apply Kept.ite | apply State.modRv_kept | fail_if_no_progress apply Kept.upd) | split | dsimp only

theorem execUnpickComplete_kept {c : Ctx} {s : State} {tt : State} (eK : execUnpickComplete c s = .next tt) : Kept s tt := by
  have hK : Kept s s := Kept.refl s
  unfold execUnpickComplete at eK
  repeat' first | (simp only [ifApplies, Host.Outcome.next.injEq, reduceCtorEq] at eK) | (subst eK) | split at eK
  all_goals repeat' first | (intro) | with_reducible (first | assumption | apply Kept.ite | apply completeUnpick_kept | refine Kept.fst (by assumption) ?_ | fail_if_no_progress apply Kept.upd) | split | dsimp only

theorem quarantine_kept {s0 : State} (s : State) (c : Ctx)  (hK : Kept s0 s) : Kept s0 (quarantine s c) := by
  unfold quarantine
  repeat' first | (intro) | with_reducible (first | assumption | apply State.modCtx_kept | apply raise_kept | apply decideUnpick_kept | fail_if_no_progress apply Kept.upd) | split | dsimp only

theorem charge_kept {s0 : State} (s : State) (c : Ctx)  (hK : Kept s0 s) : Kept s0 (charge s c) := by
  unfold charge
  repeat' first | (intro) | with_reducible (first | assumption | apply State.modCtx_kept | fail_if_no_progress apply Kept.upd) | dsimp only

theorem findGuilty_kept {s0 : State} (s : State) (r : Nat)  (hK : Kept s0 s) : Kept s0 (findGuilty s r) := by
  unfold findGuilty
  repeat' first | (intro) | with_reducible (first | assumption | apply Kept.ite | apply giveVerdict_kept | apply charge_kept | apply State.modRv_kept | refine Kept.fst (by assumption) ?_ | fail_if_no_progress apply Kept.upd) | split | dsimp only

theorem checkService_kept {s0 : State} (s : State)  (hK : Kept s0 s) : Kept s0 (checkService s) := by
  unfold checkService
  repeat' first | (intro) | with_reducible (first | assumption | apply Kept.ite | apply State.modRv_kept | apply drivePins_kept | apply raiseAll_kept | fail_if_no_progress apply Kept.upd) | split | dsimp only

theorem State.startSelfRef_kept {s0 : State} (s : State) (t : Nat)  (hK : Kept s0 s) : Kept s0 (State.startSelfRef s t) := by
  unfold State.startSelfRef
  repeat' first | (intro) | with_reducible (first | assumption | apply Kept.ite | apply Kept.foldN | apply State.modChan_kept | apply State.modStack_kept | apply Kept.foldN_fst | fail_if_no_progress apply Kept.upd) | split | dsimp only

theorem holdStack_kept {s0 : State} (s : State) (t : Nat)  (hK : Kept s0 s) : Kept s0 (holdStack s t) := by
  unfold holdStack
  repeat' first | (intro) | with_reducible (first | assumption | apply Kept.foldN | apply State.modChan_kept | apply State.startSelfRef_kept | apply Kept.foldN_fst | fail_if_no_progress apply Kept.upd) | split | dsimp only

theorem resetCore_kept {s0 : State} (s : State) (k : Nat)  (hK : Kept s0 s) : Kept s0 (resetCore s k) := by
  unfold resetCore
  repeat' first | (intro) | with_reducible (first | assumption | apply State.modCore_kept | fail_if_no_progress apply Kept.upd) | dsimp only

theorem resetCluster_kept {s0 : State} (s : State) (c : Nat)  (hK : Kept s0 s) : Kept s0 (resetCluster s c) := by
  unfold resetCluster
  repeat' first | (intro) | with_reducible (first | assumption | apply Kept.foldN | apply resetCore_kept | apply Kept.foldN_fst | fail_if_no_progress apply Kept.upd) | split | dsimp only

theorem answerHeld_kept {s0 : State} (s : State)  (hK : Kept s0 s) : Kept s0 (answerHeld s).1 := by
  unfold answerHeld
  repeat' first | (intro) | with_reducible (first | assumption | apply Kept.foldl | apply answerWaits_kept | apply sendRead_kept | apply sendDone_kept | refine Kept.fst (by assumption) ?_ | apply Kept.foldl_fst | fail_if_no_progress apply Kept.upd) | split | dsimp only

theorem endSteward2_kept {s0 : State} (s : State)  (hK : Kept s0 s) : Kept s0 (endSteward2 s) := by
  unfold endSteward2
  repeat' first | (intro) | with_reducible (first | assumption | apply Kept.foldl | apply answer_kept | refine Kept.fst (by assumption) ?_ | apply Kept.foldl_fst | fail_if_no_progress apply Kept.upd) | split | dsimp only

theorem resetEffect_kept {s0 : State} (s : State) (u : ResetUnit)  (hK : Kept s0 s) : Kept s0 (resetEffect s u).1 := by
  unfold resetEffect
  repeat' first | (intro) | with_reducible (first | assumption | apply Kept.ite | apply Kept.foldl | apply Kept.foldN | apply State.modCore_kept | apply resetCore_kept | apply resetCluster_kept | apply holdStack_kept | (refine Kept.fst (by assumption) ?_; apply answerHeld_kept) | apply answerHeld_kept | apply State.modPort_kept | (refine Kept.fst (by assumption) ?_; apply endWalker_kept) | apply endWalker_kept | apply endSteward2_kept | refine Kept.fst (by assumption) ?_ | apply Kept.foldl_fst | apply Kept.foldN_fst | fail_if_no_progress apply Kept.upd) | split | dsimp only

theorem countReset_kept {s0 : State} (s : State) (u : ResetUnit)  (hK : Kept s0 s) : Kept s0 (countReset s u) := by
  unfold countReset
  repeat' first | (intro) | with_reducible (first | assumption | apply State.modRv_kept | refine Kept.fst (by assumption) ?_ | fail_if_no_progress apply Kept.upd) | split | dsimp only

theorem startReset_kept {s0 : State} (s : State) (u : ResetUnit) (cause : Nat) (suspects : List Nat) (affected : List Nat) (waiters : List (Path × Word)) (late : List Nat)  (hK : Kept s0 s) : Kept s0 (startReset s u cause suspects affected waiters late) := by
  unfold startReset
  repeat' first | (intro) | with_reducible (first | assumption | apply State.modRv_kept | (refine Kept.fst (by assumption) ?_; apply resetEffect_kept) | apply resetEffect_kept | apply checkService_kept | apply countReset_kept | refine Kept.fst (by assumption) ?_ | fail_if_no_progress apply Kept.upd) | split | dsimp only

theorem noteHang_kept {s0 : State} (s : State) (h : HangInfo) (sus : Nat) (aff : Nat) (ctxs : List Ctx)  (hK : Kept s0 s) : Kept s0 (noteHang s h sus aff ctxs) := by
  unfold noteHang
  repeat' first | (intro) | with_reducible (first | assumption | apply State.bump_kept | apply State.modRv_kept | apply raise_kept | fail_if_no_progress apply Kept.upd) | dsimp only

theorem retest_kept {s0 : State} (s : State) (keys : List Nat)  (hK : Kept s0 s) : Kept s0 (retest s keys) := by
  unfold retest
  repeat' first | (intro) | with_reducible (first | assumption | apply Kept.ite | apply endTest_kept | refine Kept.fst (by assumption) ?_ | fail_if_no_progress apply Kept.upd) | split | dsimp only

theorem judge_kept {s0 : State} (s : State) (keys : List Nat)  (hK : Kept s0 s) : Kept s0 (judge s keys).1 := by
  unfold judge
  repeat' first | (intro) | with_reducible (first | assumption | apply Kept.ite | apply findGuilty_kept | apply retest_kept | refine Kept.fst (by assumption) ?_ | fail_if_no_progress apply Kept.upd) | split | dsimp only

theorem hang_kept {s0 : State} (s : State) (h : HangInfo) (dom : Nat → Bool) (units : List ResetUnit)  (hK : Kept s0 s) : Kept s0 (hang s h dom units) := by
  unfold hang
  repeat' first | (intro) | with_reducible (first | assumption | apply Kept.ite | apply Kept.foldl | apply noteHang_kept | (refine Kept.fst (by assumption) ?_; apply judge_kept) | apply judge_kept | apply addSuspects_kept | apply startReset_kept | apply decideUnpick_kept | apply withoutReplay_kept | apply quarantine_kept | refine Kept.fst (by assumption) ?_ | apply Kept.foldl_fst | fail_if_no_progress apply Kept.upd) | split | dsimp only

theorem fireOnce_kept {s0 : State} (s : State) (cls : Nat) (unit : Nat) (sub : Nat) (f : State → State) (merged : State → State) (kf : ∀ (v0 : State), Kept s0 v0 → Kept s0 (f v0)) (kmerged : ∀ (v0 : State), Kept s0 v0 → Kept s0 (merged v0)) (hK : Kept s0 s) : Kept s0 (fireOnce s cls unit sub f merged) := by
  unfold fireOnce
  repeat' first | (intro) | with_reducible (first | assumption | apply Kept.ite | apply State.modRv_kept | apply kf | apply kmerged | fail_if_no_progress apply Kept.upd) | split | dsimp only

theorem coreHang_kept {s0 : State} (s : State) (h : HangInfo) (r : Nat) (ks : List Nat) (units : List ResetUnit)  (hK : Kept s0 s) : Kept s0 (coreHang s h r ks units) := by
  unfold coreHang
  repeat' first | (intro) | with_reducible (first | assumption | apply Kept.foldl | apply fireOnce_kept | apply hang_kept | apply startReset_kept | apply Kept.foldl_fst | fail_if_no_progress apply Kept.upd) | dsimp only

theorem execXwaitLimit_kept {k : CoreId} {s : State} {tt : State} (eK : execXwaitLimit k s = .next tt) : Kept s tt := by
  have hK : Kept s s := Kept.refl s
  unfold execXwaitLimit at eK
  repeat' first | (simp only [ifApplies, Host.Outcome.next.injEq, reduceCtorEq] at eK) | (subst eK) | split at eK
  all_goals repeat' first | (intro) | with_reducible (first | assumption | apply Kept.ite | apply coreHang_kept | refine Kept.fst (by assumption) ?_ | fail_if_no_progress apply Kept.upd) | split | dsimp only

theorem execEngineStuck_kept {k : CoreId} {sEngine : Bool} {s : State} {tt : State} (eK : execEngineStuck k sEngine s = .next tt) : Kept s tt := by
  have hK : Kept s s := Kept.refl s
  unfold execEngineStuck at eK
  repeat' first | (simp only [ifApplies, Host.Outcome.next.injEq, reduceCtorEq] at eK) | (subst eK) | split at eK
  all_goals repeat' first | (intro) | with_reducible (first | assumption | apply coreHang_kept | refine Kept.fst (by assumption) ?_ | fail_if_no_progress apply Kept.upd) | split | dsimp only

theorem execUnpickStalled_kept {k : CoreId} {s : State} {tt : State} (eK : execUnpickStalled k s = .next tt) : Kept s tt := by
  have hK : Kept s s := Kept.refl s
  unfold execUnpickStalled at eK
  repeat' first | (simp only [ifApplies, Host.Outcome.next.injEq, reduceCtorEq] at eK) | (subst eK) | split at eK
  all_goals repeat' first | (intro) | with_reducible (first | assumption | apply Kept.ite | apply coreHang_kept | refine Kept.fst (by assumption) ?_ | fail_if_no_progress apply Kept.upd) | split | dsimp only

theorem clusterHang_kept {s0 : State} (s : State) (det : Nat) (c : Cluster)  (hK : Kept s0 s) : Kept s0 (clusterHang s det c) := by
  unfold clusterHang
  repeat' first | (intro) | with_reducible (first | assumption | apply Kept.ite | apply fireOnce_kept | apply hang_kept | fail_if_no_progress apply Kept.upd) | split | dsimp only

theorem execClusterHeartbeatMiss_kept {c : Cluster} {s : State} {tt : State} (eK : execClusterHeartbeatMiss c s = .next tt) : Kept s tt := by
  have hK : Kept s s := Kept.refl s
  unfold execClusterHeartbeatMiss at eK
  repeat' first | (simp only [ifApplies, Host.Outcome.next.injEq, reduceCtorEq] at eK) | (subst eK) | split at eK
  all_goals repeat' first | (intro) | with_reducible (first | assumption | apply clusterHang_kept | fail_if_no_progress apply Kept.upd) | dsimp only

theorem execExchangeStuck_kept {c : Cluster} {s : State} {tt : State} (eK : execExchangeStuck c s = .next tt) : Kept s tt := by
  have hK : Kept s s := Kept.refl s
  unfold execExchangeStuck at eK
  repeat' first | (simp only [ifApplies, Host.Outcome.next.injEq, reduceCtorEq] at eK) | (subst eK) | split at eK
  all_goals repeat' first | (intro) | with_reducible (first | assumption | apply clusterHang_kept | fail_if_no_progress apply Kept.upd) | dsimp only

theorem execStackHeartbeatMiss_kept {t : Cluster} {s : State} {tt : State} (eK : execStackHeartbeatMiss t s = .next tt) : Kept s tt := by
  have hK : Kept s s := Kept.refl s
  unfold execStackHeartbeatMiss at eK
  repeat' first | (simp only [ifApplies, Host.Outcome.next.injEq, reduceCtorEq] at eK) | (subst eK) | split at eK
  all_goals repeat' first | (intro) | with_reducible (first | assumption | apply Kept.ite | apply fireOnce_kept | apply hang_kept | fail_if_no_progress apply Kept.upd) | split | dsimp only

theorem hubHang_kept {s0 : State} (s : State) (det : Nat)  (hK : Kept s0 s) : Kept s0 (hubHang s det) := by
  unfold hubHang
  repeat' first | (intro) | with_reducible (first | assumption | apply fireOnce_kept | apply hang_kept | fail_if_no_progress apply Kept.upd) | dsimp only

theorem execDieHeartbeatMiss_kept {d : Fin 3} {s : State} {tt : State} (eK : execDieHeartbeatMiss d s = .next tt) : Kept s tt := by
  have hK : Kept s s := Kept.refl s
  unfold execDieHeartbeatMiss at eK
  repeat' first | (simp only [ifApplies, Host.Outcome.next.injEq, reduceCtorEq] at eK) | (subst eK) | split at eK
  all_goals repeat' first | (intro) | with_reducible (first | assumption | apply Kept.ite | apply fireOnce_kept | apply hang_kept | apply hubHang_kept | fail_if_no_progress apply Kept.upd) | split | dsimp only

theorem execHubBlockStall_kept {s : State} {tt : State} (eK : execHubBlockStall s = .next tt) : Kept s tt := by
  have hK : Kept s s := Kept.refl s
  unfold execHubBlockStall at eK
  repeat' first | (simp only [ifApplies, Host.Outcome.next.injEq, reduceCtorEq] at eK) | (subst eK) | split at eK
  all_goals repeat' first | (intro) | with_reducible (first | assumption | apply hubHang_kept | fail_if_no_progress apply Kept.upd) | dsimp only

theorem execCommandProgressTimeout_kept {c : Ctx} {tag : Word} {s : State} {tt : State} (eK : execCommandProgressTimeout c tag s = .next tt) : Kept s tt := by
  have hK : Kept s s := Kept.refl s
  unfold execCommandProgressTimeout at eK
  repeat' first | (simp only [ifApplies, Host.Outcome.next.injEq, reduceCtorEq] at eK) | (subst eK) | split at eK
  all_goals repeat' first | (intro) | with_reducible (first | assumption | apply Kept.ite | apply fireOnce_kept | apply decideUnpick_kept | apply noteHang_kept | fail_if_no_progress apply Kept.upd) | split | dsimp only

theorem execStewardWatchdog_kept {s : State} {tt : State} (eK : execStewardWatchdog s = .next tt) : Kept s tt := by
  have hK : Kept s s := Kept.refl s
  unfold execStewardWatchdog at eK
  repeat' first | (simp only [ifApplies, Host.Outcome.next.injEq, reduceCtorEq] at eK) | (subst eK) | split at eK
  all_goals repeat' first | (intro) | with_reducible (first | assumption | apply Kept.ite | apply doPackageReset_kept | apply noteHang_kept | fail_if_no_progress apply Kept.upd) | split | dsimp only

theorem overrunHangs_kept {s0 : State} (s : State) (found : List (Nat × List Nat))  (hK : Kept s0 s) : Kept s0 (overrunHangs s found) := by
  unfold overrunHangs
  repeat' first | (intro) | with_reducible (first | assumption | apply Kept.foldl | apply coreHang_kept | apply fireOnce_kept | apply hang_kept | refine Kept.fst (by assumption) ?_ | apply Kept.foldl_fst | fail_if_no_progress apply Kept.upd) | split | dsimp only

theorem resetEvent_kept {s0 : State} (s : State) (j : ResetJob) (escalated : Bool)  (hK : Kept s0 s) : Kept s0 (resetEvent s j escalated) := by
  unfold resetEvent
  repeat' first | (intro) | with_reducible (first | assumption | apply raise_kept | fail_if_no_progress apply Kept.upd) | dsimp only

theorem leaveSelfRef_kept {s0 : State} (s : State) (t : Nat)  (hK : Kept s0 s) : Kept s0 (leaveSelfRef s t) := by
  unfold leaveSelfRef
  repeat' first | (intro) | with_reducible (first | assumption | apply Kept.foldN | apply State.modStack_kept | apply State.modChan_kept | apply Kept.foldN_fst | fail_if_no_progress apply Kept.upd) | dsimp only

theorem freeStack_kept {s0 : State} (s : State) (t : Nat)  (hK : Kept s0 s) : Kept s0 (freeStack s t) := by
  unfold freeStack
  repeat' first | (intro) | with_reducible (first | assumption | apply Kept.ite | apply State.modStack_kept | apply leaveSelfRef_kept | fail_if_no_progress apply Kept.upd) | split | dsimp only

theorem freeReset_kept {s0 : State} (s : State) (p : Nat → Bool)  (hK : Kept s0 s) : Kept s0 (freeReset s p) := by
  unfold freeReset
  repeat' first | (intro) | with_reducible (first | assumption | apply Kept.ite | fail_if_no_progress apply Kept.upd) | split | dsimp only

theorem resetDone_kept {s0 : State} (s : State) (u : ResetUnit)  (hK : Kept s0 s) : Kept s0 (resetDone s u) := by
  unfold resetDone
  repeat' first | (intro) | with_reducible (first | assumption | apply Kept.foldl | apply Kept.foldN | apply freeReset_kept | apply pagesChanged_kept | apply freeStack_kept | apply State.modPort_kept | refine Kept.fst (by assumption) ?_ | apply Kept.foldl_fst | apply Kept.foldN_fst | fail_if_no_progress apply Kept.upd) | split | dsimp only

theorem lateCue_kept {s0 : State} (s : State) (r : Nat)  (hK : Kept s0 s) : Kept s0 (lateCue s r) := by
  unfold lateCue
  repeat' first | (intro) | with_reducible (first | assumption | apply Kept.ite | apply notchMissed_kept | apply refuseCue_kept | apply dropCue_kept | refine Kept.fst (by assumption) ?_ | fail_if_no_progress apply Kept.upd) | split | dsimp only

theorem execResetComplete_kept {u : ResetUnit} {s : State} {tt : State} (eK : execResetComplete u s = .next tt) : Kept s tt := by
  have hK : Kept s s := Kept.refl s
  unfold execResetComplete at eK
  repeat' first | (simp only [ifApplies, Host.Outcome.next.injEq, reduceCtorEq] at eK) | (subst eK) | split at eK
  all_goals repeat' first | (intro) | with_reducible (first | assumption | apply Kept.foldl | apply State.modRv_kept | apply resetDone_kept | apply resetEvent_kept | apply lateCue_kept | apply answer_kept | refine Kept.fst (by assumption) ?_ | apply Kept.foldl_fst | fail_if_no_progress apply Kept.upd) | split | dsimp only

theorem takeRuns_kept {s0 : State} (s : State) (u : ResetUnit) (isSus : Bool)  (hK : Kept s0 s) : Kept s0 (takeRuns s u isSus) := by
  unfold takeRuns
  repeat' first | (intro) | with_reducible (first | assumption | apply Kept.ite | apply Kept.foldl | apply retest_kept | apply addSuspects_kept | apply decideUnpick_kept | apply Kept.foldl_fst | fail_if_no_progress apply Kept.upd) | split | dsimp only

theorem escalate_kept {s0 : State} (s : State) (j : ResetJob)  (hK : Kept s0 s) : Kept s0 (escalate s j) := by
  unfold escalate
  repeat' first | (intro) | with_reducible (first | assumption | apply Kept.ite | apply Kept.foldl | apply State.modRv_kept | apply setInt_kept | apply resetEvent_kept | apply State.bump_kept | apply answer_kept | apply packageReset_kept | apply startReset_kept | apply takeRuns_kept | refine Kept.fst (by assumption) ?_ | apply Kept.foldl_fst | fail_if_no_progress apply Kept.upd) | split | dsimp only

theorem execResetEscalate_kept {u : ResetUnit} {s : State} {tt : State} (eK : execResetEscalate u s = .next tt) : Kept s tt := by
  have hK : Kept s s := Kept.refl s
  unfold execResetEscalate at eK
  repeat' first | (simp only [ifApplies, Host.Outcome.next.injEq, reduceCtorEq] at eK) | (subst eK) | split at eK
  all_goals repeat' first | (intro) | with_reducible (first | assumption | apply escalate_kept | refine Kept.fst (by assumption) ?_ | fail_if_no_progress apply Kept.upd) | split | dsimp only

theorem armReplay_kept {s0 : State} {s : State} {r : Nat} {q : Cue}  {tt : State} (eK : armReplay s r q = some tt) (hK : Kept s0 s) : Kept s0 tt := by
  unfold armReplay at eK
  repeat' first | (simp only [Option.some.injEq, reduceCtorEq] at eK) | (subst eK) | split at eK | exact absurd eK (by simp)
  all_goals repeat' first | (intro) | with_reducible (first | assumption | apply Kept.ite | apply endCue_kept | apply dropSuspect_kept | apply State.modRv_kept | refine Kept.fst (by assumption) ?_ | fail_if_no_progress apply Kept.upd) | split | dsimp only

theorem endSuspects_kept {s0 : State} (s : State)  (hK : Kept s0 s) : Kept s0 (endSuspects s) := by
  unfold endSuspects
  repeat' first | (intro) | with_reducible (first | assumption | apply Kept.ite | apply Kept.foldl | apply endCue_kept | apply dropSuspect_kept | apply State.modRv_kept | apply Kept.foldl_fst | fail_if_no_progress apply Kept.upd) | split | dsimp only

theorem execReplayArm_kept {s : State} {tt : State} (eK : execReplayArm s = .next tt) : Kept s tt := by
  have hK : Kept s s := Kept.refl s
  unfold execReplayArm at eK
  repeat' first | (simp only [ifApplies, Host.Outcome.next.injEq, reduceCtorEq] at eK) | (subst eK) | split at eK
  all_goals repeat' first | (intro) | with_reducible (first | assumption | apply Kept.ite | apply Kept.foldl | apply Kept.getD | apply endSuspects_kept | refine armReplay_kept (by assumption) ?_ | apply dropSuspect_kept | apply State.modRv_kept | refine Kept.fst (by assumption) ?_ | apply Kept.foldl_fst | fail_if_no_progress apply Kept.upd) | split | dsimp only

theorem testEnds_kept {s0 : State} (s : State) (r : Nat) (q : Cue)  (hK : Kept s0 s) : Kept s0 (testEnds s r q) := by
  unfold testEnds
  repeat' first | (intro) | with_reducible (first | assumption | apply Kept.ite | apply endTest_kept | fail_if_no_progress apply Kept.upd) | split | dsimp only

theorem ctxUnpickH_kept {s0 : State} (s : State) (m : MciCall) (hK : Kept s0 s) : Kept s0 (ctxUnpickH s m).1 := by
  unfold ctxUnpickH
  repeat' first | (intro) | with_reducible (first | assumption | apply Kept.ite | apply decideUnpick_kept | apply State.modRv_kept | fail_if_no_progress apply Kept.upd) | split | dsimp only

theorem execCtxUnpick_kept {via : Path} {input : List Byte} {s : State} {tt : State} (eK : execCtxUnpick via input s = .next tt) : Kept s tt := by
  have hK : Kept s s := Kept.refl s
  unfold execCtxUnpick at eK
  repeat' first | (simp only [ifApplies, Host.Outcome.next.injEq, reduceCtorEq] at eK) | (subst eK) | split at eK
  all_goals repeat' first | (intro) | with_reducible (first | assumption | apply mci_kept | apply ctxUnpickH_kept | refine Kept.fst (by assumption) ?_ | fail_if_no_progress apply Kept.upd) | dsimp only

theorem quarantineReleaseH_kept {s0 : State} (s : State) (m : MciCall) (hK : Kept s0 s) : Kept s0 (quarantineReleaseH s m).1 := by
  unfold quarantineReleaseH
  repeat' first | (intro) | with_reducible (first | assumption | apply Kept.ite | apply State.modCtx_kept | fail_if_no_progress apply Kept.upd) | split | dsimp only

theorem execQuarantineRelease_kept {via : Path} {input : List Byte} {s : State} {tt : State} (eK : execQuarantineRelease via input s = .next tt) : Kept s tt := by
  have hK : Kept s s := Kept.refl s
  unfold execQuarantineRelease at eK
  repeat' first | (simp only [ifApplies, Host.Outcome.next.injEq, reduceCtorEq] at eK) | (subst eK) | split at eK
  all_goals repeat' first | (intro) | with_reducible (first | assumption | apply mci_kept | apply quarantineReleaseH_kept | refine Kept.fst (by assumption) ?_ | fail_if_no_progress apply Kept.upd) | dsimp only

theorem requestReset_kept {s0 : State} (s : State) (m : MciCall) (u : ResetUnit)  (hK : Kept s0 s) : Kept s0 (requestReset s m u).1 := by
  unfold requestReset
  repeat' first | (intro) | with_reducible (first | assumption | apply takeRuns_kept | apply startReset_kept | fail_if_no_progress apply Kept.upd) | dsimp only

theorem resetRequestH_kept {s0 : State} (s : State) (m : MciCall) (hK : Kept s0 s) : Kept s0 (resetRequestH s m).1 := by
  unfold resetRequestH
  repeat' first | (intro) | with_reducible (first | assumption | apply Kept.ite | (refine Kept.fst (by assumption) ?_; apply requestReset_kept) | apply requestReset_kept | refine Kept.fst (by assumption) ?_ | fail_if_no_progress apply Kept.upd) | split | dsimp only

theorem execResetRequest_kept {via : Path} {input : List Byte} {s : State} {tt : State} (eK : execResetRequest via input s = .next tt) : Kept s tt := by
  have hK : Kept s s := Kept.refl s
  unfold execResetRequest at eK
  repeat' first | (simp only [ifApplies, Host.Outcome.next.injEq, reduceCtorEq] at eK) | (subst eK) | split at eK
  all_goals repeat' first | (intro) | with_reducible (first | assumption | apply mci_kept | apply resetRequestH_kept | refine Kept.fst (by assumption) ?_ | fail_if_no_progress apply Kept.upd) | dsimp only

end Sys2Proof.Machine
end

