-- ==== Sys2Proof/Laws/KeptExtents.lean ====
section
/-! SUPPORT. The operations of Machine/Extents.lean keep the queue and the canonical form of the memory. -/

set_option linter.unusedTactic false
set_option linter.unreachableTactic false
set_option linter.unusedSimpArgs false

namespace Sys2Proof.Machine

theorem State.modGrant_kept {s0 : State} (s : State) (base : Nat) (c : Ctx) (f : Grant → Grant)  (hK : Kept s0 s) : Kept s0 (State.modGrant s base c f) := by
  unfold State.modGrant
  repeat' first | (intro) | with_reducible (first | assumption | apply Kept.ite | refine Kept.fst (by assumption) ?_ | fail_if_no_progress apply Kept.upd) | split | dsimp only

theorem State.dropGrant_kept {s0 : State} (s : State) (base : Nat) (c : Ctx)  (hK : Kept s0 s) : Kept s0 (State.dropGrant s base c) := by
  unfold State.dropGrant
  repeat' first | (intro) | with_reducible (first | assumption | apply Kept.ite | refine Kept.fst (by assumption) ?_ | fail_if_no_progress apply Kept.upd) | split | dsimp only

theorem dcRecord_kept {s0 : State} (s : State) (c : Ctx) (type : Nat) (x : Extent)  (hK : Kept s0 s) : Kept s0 (dcRecord s c type x) := by
  unfold dcRecord
  repeat' first | (intro) | with_reducible (first | assumption | apply logRecord_kept | fail_if_no_progress apply Kept.upd) | dsimp only

theorem fmAnswer_kept {s0 : State} (s : State) (n : Fin 2) (rc : Nat)  (hK : Kept s0 s) : Kept s0 (fmAnswer s n rc) := by
  unfold fmAnswer
  repeat' first | (intro) | with_reducible (first | assumption | apply State.emit_kept | fail_if_no_progress apply Kept.upd) | dsimp only

theorem addGrant_kept {s0 : State} {s : State} {c : Ctx} {base : Nat} {length : Nat} {tag : BitVec 128} {shareable : Bool}  {tt : State} (eK : addGrant s c base length tag shareable = some tt) (hK : Kept s0 s) : Kept s0 tt := by
  unfold addGrant at eK
  repeat' first | (simp only [Option.some.injEq, reduceCtorEq] at eK) | (subst eK) | split at eK | exact absurd eK (by simp)
  all_goals repeat' first | (intro) | with_reducible (first | assumption | apply Kept.ite | refine Kept.fst (by assumption) ?_ | fail_if_no_progress apply Kept.upd) | split | dsimp only

theorem fmCommand_kept {s0 : State} (s : State) (n : Fin 2) (host : BitVec 16) (f : Ctx → Option State) (kf : ∀ (v0 : Ctx) t, f v0 = some t → Kept s0 t) (hK : Kept s0 s) : Kept s0 (fmCommand s n host f) := by
  unfold fmCommand
  repeat' first | (intro) | with_reducible (first | assumption | apply Kept.ite | apply fmAnswer_kept | refine kf _ _ (by assumption) | refine Kept.fst (by assumption) ?_ | fail_if_no_progress apply Kept.upd) | split | dsimp only

theorem execFmDcAdd_kept {n : Fin 2} {host : BitVec 16} {base : DWord} {length : DWord} {tag : BitVec 128} {shareable : Bool}
    {s : State} {tt : State} (eK : execFmDcAdd n host base length tag shareable s = .next tt) : Kept s tt := by
  have hK : Kept s s := Kept.refl s
  unfold execFmDcAdd at eK
  injection eK with eK
  subst eK
  refine Kept.ite (fmAnswer_kept _ _ _ hK) (fmCommand_kept _ _ _ _ (fun c t e => ?_) hK)
  simp only [Option.map_eq_some_iff] at e
  obtain ⟨u, hu, rfl⟩ := e
  have h := addGrant_kept hu hK
  split
  · exact dcRecord_kept _ _ _ _ h
  · exact h

theorem execFmDcWithdraw_kept {n : Fin 2} {host : BitVec 16} {base : DWord} {length : DWord}
    {s : State} {tt : State} (eK : execFmDcWithdraw n host base length s = .next tt) : Kept s tt := by
  have hK : Kept s s := Kept.refl s
  unfold execFmDcWithdraw at eK
  injection eK with eK
  subst eK
  refine fmCommand_kept _ _ _ _ (fun c t e => ?_) hK
  repeat' split at e
  all_goals first
    | (exfalso; simp at e; done)
    | (simp only [Option.some.injEq] at e; subst e; exact State.dropGrant_kept _ _ _ hK)

theorem dropHolds_kept {s0 : State} (s : State) (c : Ctx) (p : Nat → Bool)  (hK : Kept s0 s) : Kept s0 (dropHolds s c p).1 := by
  unfold dropHolds
  repeat' first | (intro) | with_reducible (first | assumption | apply Kept.foldl | apply dropChan_kept | apply endView_kept | apply dropPin_kept | apply Kept.foldl_fst | fail_if_no_progress apply Kept.upd) | split | dsimp only

theorem recallOf_kept {s0 : State} (s : State) (c : Ctx) (x : Extent)  (hK : Kept s0 s) : Kept s0 (recallOf s c x) := by
  unfold recallOf
  repeat' first | (intro) | with_reducible (first | assumption | apply Kept.ite | apply Kept.foldl | apply extendRecall_kept | apply startRecall_kept | apply Kept.foldl_fst | fail_if_no_progress apply Kept.upd) | split | dsimp only

theorem releaseHolds_kept {s0 : State} (s : State) (x : Extent) (c : Ctx)  (hK : Kept s0 s) : Kept s0 (releaseHolds s x c) := by
  unfold releaseHolds
  repeat' first | (intro) | with_reducible (first | assumption | apply Kept.ite | apply State.modGrant_kept | apply recallOf_kept | (refine Kept.fst (by assumption) ?_; apply dropHolds_kept) | apply dropHolds_kept | refine Kept.fst (by assumption) ?_ | fail_if_no_progress apply Kept.upd) | split | dsimp only

theorem startRelease_kept {s0 : State} (s : State) (x : Extent) (c : Ctx)  (hK : Kept s0 s) : Kept s0 (startRelease s x c) := by
  unfold startRelease
  repeat' first | (intro) | with_reducible (first | assumption | apply Kept.ite | apply State.modGrant_kept | apply releaseHolds_kept | apply decideUnpick_kept | fail_if_no_progress apply Kept.upd) | split | dsimp only

theorem releaseGrant_kept {s0 : State} {s : State} {c : Ctx} {base : Nat} {length : Nat}  {tt : State} (eK : releaseGrant s c base length = some tt) (hK : Kept s0 s) : Kept s0 tt := by
  unfold releaseGrant at eK
  repeat' first | (simp only [Option.some.injEq, reduceCtorEq] at eK) | (subst eK) | split at eK | exact absurd eK (by simp)
  all_goals repeat' first | (intro) | with_reducible (first | assumption | apply Kept.ite | apply startRelease_kept | refine Kept.fst (by assumption) ?_ | fail_if_no_progress apply Kept.upd) | split | dsimp only

theorem execFmDcForceRelease_kept {n : Fin 2} {host : BitVec 16} {base : DWord} {length : DWord} {s : State} {tt : State} (eK : execFmDcForceRelease n host base length s = .next tt) : Kept s tt := by
  have hK : Kept s s := Kept.refl s
  unfold execFmDcForceRelease at eK
  repeat' first | (simp only [ifApplies, Host.Outcome.next.injEq, reduceCtorEq] at eK) | (subst eK) | split at eK
  all_goals repeat' first | (intro) | with_reducible (first | assumption | apply fmCommand_kept | refine releaseGrant_kept (by assumption) ?_ | fail_if_no_progress apply Kept.upd) | dsimp only

theorem cxlAnswer_kept {s0 : State} (s : State) (p : Port) (b : Bool) (rc : Nat) (out : List Byte)  (hK : Kept s0 s) : Kept s0 (cxlAnswer s p b rc out) := by
  unfold cxlAnswer
  repeat' first | (intro) | with_reducible (first | assumption | apply Kept.ite | apply State.emit_kept | apply sendMsix_kept | fail_if_no_progress apply Kept.upd) | split | dsimp only

theorem cxlForCtx_kept {s0 : State} (s : State) (p : Port) (b : Bool) (f : Ctx → State) (kf : ∀ (v0 : Ctx), Kept s0 (f v0)) (hK : Kept s0 s) : Kept s0 (cxlForCtx s p b f) := by
  unfold cxlForCtx
  repeat' first | (intro) | with_reducible (first | assumption | apply Kept.ite | apply cxlAnswer_kept | apply kf | refine Kept.fst (by assumption) ?_ | fail_if_no_progress apply Kept.upd) | split | dsimp only

theorem respondOffer_kept {s0 : State} (s : State) (p : Port) (b : Bool) (c : Ctx) (base : Nat) (length : Nat) (accept : Bool)  (hK : Kept s0 s) : Kept s0 (respondOffer s p b c base length accept) := by
  unfold respondOffer
  repeat' first | (intro) | with_reducible (first | assumption | apply Kept.ite | apply cxlAnswer_kept | apply stageCommit_kept | apply State.modGrant_kept | apply State.dropGrant_kept | apply State.emit_kept | refine Kept.fst (by assumption) ?_ | fail_if_no_progress apply Kept.upd) | split | dsimp only

theorem execAddDcResponse_kept {p : Port} {secondary : Bool} {base : DWord} {length : DWord} {accept : Bool} {s : State} {tt : State} (eK : execAddDcResponse p secondary base length accept s = .next tt) : Kept s tt := by
  have hK : Kept s s := Kept.refl s
  unfold execAddDcResponse at eK
  repeat' first | (simp only [ifApplies, Host.Outcome.next.injEq, reduceCtorEq] at eK) | (subst eK) | split at eK
  all_goals repeat' first | (intro) | with_reducible (first | assumption | apply cxlForCtx_kept | apply respondOffer_kept | fail_if_no_progress apply Kept.upd) | dsimp only

theorem execReleaseDc_kept {p : Port} {secondary : Bool} {base : DWord} {length : DWord} {s : State} {tt : State} (eK : execReleaseDc p secondary base length s = .next tt) : Kept s tt := by
  have hK : Kept s s := Kept.refl s
  unfold execReleaseDc at eK
  repeat' first | (simp only [ifApplies, Host.Outcome.next.injEq, reduceCtorEq] at eK) | (subst eK) | split at eK
  all_goals repeat' first | (intro) | with_reducible (first | assumption | apply cxlForCtx_kept | refine releaseGrant_kept (by assumption) ?_ | apply cxlAnswer_kept | refine Kept.fst (by assumption) ?_ | fail_if_no_progress apply Kept.upd) | split | dsimp only

theorem execDcOfferTimeout_kept {c : Ctx} {base : DWord} {s : State} {tt : State} (eK : execDcOfferTimeout c base s = .next tt) : Kept s tt := by
  have hK : Kept s s := Kept.refl s
  unfold execDcOfferTimeout at eK
  repeat' first | (simp only [ifApplies, Host.Outcome.next.injEq, reduceCtorEq] at eK) | (subst eK) | split at eK
  all_goals repeat' first | (intro) | with_reducible (first | assumption | apply Kept.ite | apply State.dropGrant_kept | apply State.emit_kept | refine Kept.fst (by assumption) ?_ | fail_if_no_progress apply Kept.upd) | split | dsimp only

theorem stageReleases_kept {s0 : State} (s : State)  (hK : Kept s0 s) : Kept s0 (stageReleases s) := by
  unfold stageReleases
  repeat' first | (intro) | with_reducible (first | assumption | apply Kept.ite | apply Kept.foldl | apply releaseHolds_kept | apply stageCommit_kept | apply State.modGrant_kept | apply Kept.foldl_fst | fail_if_no_progress apply Kept.upd) | split | dsimp only

theorem commitGrants_kept {s0 : State} (s : State) (c : Ctx)  (hK : Kept s0 s) : Kept s0 (commitGrants s c) := by
  unfold commitGrants
  repeat' first | (intro) | with_reducible (first | assumption | apply Kept.ite | fail_if_no_progress apply Kept.upd) | split | dsimp only

theorem unbindDelete_kept {s0 : State} (s : State) (o : Nat)  (hK : Kept s0 s) : Kept s0 (unbindDelete s o) := by
  unfold unbindDelete
  repeat' first | (intro) | with_reducible (first | assumption | apply deleteObject_kept | fail_if_no_progress apply Kept.upd) | split | dsimp only

theorem releaseObjects_kept {s0 : State} (s : State) (x : Extent) (c : Ctx)  (hK : Kept s0 s) : Kept s0 (releaseObjects s x c) := by
  unfold releaseObjects
  repeat' first | (intro) | with_reducible (first | assumption | apply Kept.ite | apply Kept.foldl | apply unbindDelete_kept | apply State.modObj_kept | refine Kept.fst (by assumption) ?_ | apply Kept.foldl_fst | fail_if_no_progress apply Kept.upd) | split | dsimp only

theorem leaveExpired_kept {s0 : State} (s : State) (c : Ctx)  (hK : Kept s0 s) : Kept s0 (leaveExpired s c) := by
  unfold leaveExpired
  repeat' first | (intro) | with_reducible (first | assumption | apply Kept.ite | apply State.modCtx_kept | fail_if_no_progress apply Kept.upd) | split | dsimp only

theorem execGrantReleaseComplete_kept {c : Ctx} {base : DWord} {s : State} {tt : State} (eK : execGrantReleaseComplete c base s = .next tt) : Kept s tt := by
  have hK : Kept s s := Kept.refl s
  unfold execGrantReleaseComplete at eK
  repeat' first | (simp only [ifApplies, Host.Outcome.next.injEq, reduceCtorEq] at eK) | (subst eK) | split at eK
  all_goals repeat' first | (intro) | with_reducible (first | assumption | apply Kept.ite | apply leaveExpired_kept | apply dcRecord_kept | apply releaseObjects_kept | apply State.dropGrant_kept | apply State.emit_kept | refine Kept.fst (by assumption) ?_ | fail_if_no_progress apply Kept.upd) | split | dsimp only

theorem leaseRenewH_kept {s0 : State} (s : State) (m : MciCall) (hK : Kept s0 s) : Kept s0 (leaseRenewH s m).1 := by
  unfold leaseRenewH
  repeat' first | (intro) | with_reducible (first | assumption | apply Kept.ite | apply restartLease_kept | fail_if_no_progress apply Kept.upd) | split | dsimp only

theorem execLeaseRenew_kept {via : Path} {input : List Byte} {s : State} {tt : State} (eK : execLeaseRenew via input s = .next tt) : Kept s tt := by
  have hK : Kept s s := Kept.refl s
  unfold execLeaseRenew at eK
  repeat' first | (simp only [ifApplies, Host.Outcome.next.injEq, reduceCtorEq] at eK) | (subst eK) | split at eK
  all_goals repeat' first | (intro) | with_reducible (first | assumption | apply mci_kept | apply leaseRenewH_kept | refine Kept.fst (by assumption) ?_ | fail_if_no_progress apply Kept.upd) | dsimp only

theorem leaseSetH_kept {s0 : State} (s : State) (m : MciCall) (hK : Kept s0 s) : Kept s0 (leaseSetH s m).1 := by
  unfold leaseSetH
  repeat' first | (intro) | with_reducible (first | assumption | apply Kept.ite | apply State.modCtx_kept | fail_if_no_progress apply Kept.upd) | split | dsimp only

theorem execLeaseSet_kept {via : Path} {input : List Byte} {s : State} {tt : State} (eK : execLeaseSet via input s = .next tt) : Kept s tt := by
  have hK : Kept s s := Kept.refl s
  unfold execLeaseSet at eK
  repeat' first | (simp only [ifApplies, Host.Outcome.next.injEq, reduceCtorEq] at eK) | (subst eK) | split at eK
  all_goals repeat' first | (intro) | with_reducible (first | assumption | apply mci_kept | apply leaseSetH_kept | refine Kept.fst (by assumption) ?_ | fail_if_no_progress apply Kept.upd) | dsimp only

theorem walkEntry_kept {s0 : State} (c : Ctx) (a : State × Nat × Nat) (d : Nat × DirEntry) (h : Kept s0 a.1) :
    Kept s0 (walkEntry c a d).1 := by
  unfold walkEntry
  dsimp only
  repeat' first
    | with_reducible assumption
    | with_reducible apply putDir_kept
    | with_reducible apply poisonDev_kept
    | with_reducible apply endRecall_kept
    | split
    | dsimp only

theorem leaseWalk_kept {s0 : State} (s : State) (c : Ctx)  (hK : Kept s0 s) : Kept s0 (leaseWalk s c).1 := by
  unfold leaseWalk
  repeat' first | (intro) | with_reducible (first | assumption | apply Kept.foldl | (refine Kept.fst (by assumption) ?_; apply walkEntry_kept) | apply walkEntry_kept | refine Kept.fst (by assumption) ?_ | apply Kept.foldl_fst | fail_if_no_progress apply Kept.upd) | dsimp only

theorem leaseActions_kept {s0 : State} (s : State) (c : Ctx)  (hK : Kept s0 s) : Kept s0 (leaseActions s c).1 := by
  unfold leaseActions
  repeat' first | (intro) | with_reducible (first | assumption | (refine Kept.fst (by assumption) ?_; apply dropHolds_kept) | apply dropHolds_kept | apply decideUnpick_kept | (refine Kept.fst (by assumption) ?_; apply leaseWalk_kept) | apply leaseWalk_kept | apply retryEntries_kept | refine Kept.fst (by assumption) ?_ | fail_if_no_progress apply Kept.upd) | split | dsimp only

theorem expireLease_kept {s0 : State} (s : State) (c : Ctx)  (hK : Kept s0 s) : Kept s0 (expireLease s c) := by
  unfold expireLease
  repeat' first | (intro) | with_reducible (first | assumption | apply State.modCtx_kept | (refine Kept.fst (by assumption) ?_; apply leaseActions_kept) | apply leaseActions_kept | apply raise_kept | refine Kept.fst (by assumption) ?_ | fail_if_no_progress apply Kept.upd) | split | dsimp only

theorem execLeaseExpiry_kept {c : Ctx} {s : State} {tt : State} (eK : execLeaseExpiry c s = .next tt) : Kept s tt := by
  have hK : Kept s s := Kept.refl s
  unfold execLeaseExpiry at eK
  repeat' first | (simp only [ifApplies, Host.Outcome.next.injEq, reduceCtorEq] at eK) | (subst eK) | split at eK
  all_goals repeat' first | (intro) | with_reducible (first | assumption | apply Kept.ite | apply expireLease_kept | fail_if_no_progress apply Kept.upd) | dsimp only

end Sys2Proof.Machine
end

