-- ==== Sys2Proof/Laws/KeptLinks.lean ====
section
/-! SUPPORT. The operations of Machine/Links.lean keep the queue and the canonical form of the memory. -/

set_option linter.unusedTactic false
set_option linter.unreachableTactic false
set_option linter.unusedSimpArgs false

namespace Sys2Proof.Machine

theorem raiseFloor_kept {s0 : State} (s : State)  (hK : Kept s0 s) : Kept s0 (raiseFloor s) := by
  unfold raiseFloor
  repeat' first | (intro) | with_reducible (first | assumption | apply Kept.ite | fail_if_no_progress apply Kept.upd) | split | dsimp only

theorem setActive_kept {s0 : State} (s : State) (p : Port)  (hK : Kept s0 s) : Kept s0 (setActive s p) := by
  unfold setActive
  repeat' first | (intro) | with_reducible (first | assumption | apply raiseFloor_kept | apply State.modPort_kept | fail_if_no_progress apply Kept.upd) | dsimp only

theorem linkUp_kept {s0 : State} (s : State) (p : Port) (rate : BitVec 3) (width : BitVec 2) (flit256 : Bool) (pbr : Bool) (bi : Bool) (echo : Bool)  (hK : Kept s0 s) : Kept s0 (linkUp s p rate width flit256 pbr bi echo) := by
  unfold linkUp
  repeat' first | (intro) | with_reducible (first | assumption | apply Kept.ite | apply State.emit_kept | apply State.modPort_kept | apply raise_kept | apply setActive_kept | fail_if_no_progress apply Kept.upd) | split | dsimp only

theorem execLinkUp_kept {p : Port} {rate : BitVec 3} {width : BitVec 2} {flit256 : Bool} {pbr : Bool} {bi : Bool} {revasEcho : Bool} {s : State} {tt : State} (eK : execLinkUp p rate width flit256 pbr bi revasEcho s = .next tt) : Kept s tt := by
  have hK : Kept s s := Kept.refl s
  unfold execLinkUp at eK
  repeat' first | (simp only [ifApplies, Host.Outcome.next.injEq, reduceCtorEq] at eK) | (subst eK) | split at eK
  all_goals repeat' first | (intro) | with_reducible (first | assumption | apply linkUp_kept | fail_if_no_progress apply Kept.upd) | dsimp only

theorem endExchanges_kept {s0 : State} (s : State) (c : Ctx) (status : Nat)  (hK : Kept s0 s) : Kept s0 (endExchanges s c status) := by
  unfold endExchanges
  repeat' first | (intro) | with_reducible (first | assumption | apply Kept.foldl | apply endFlight_kept | apply unpinPages_kept | apply closeIfDone_kept | apply State.modCodec_kept | apply Kept.foldl_fst | fail_if_no_progress apply Kept.upd) | split | dsimp only

theorem stopUpstream_kept {s0 : State} (s : State) (c : Ctx)  (hK : Kept s0 s) : Kept s0 (stopUpstream s c) := by
  unfold stopUpstream
  repeat' first | (intro) | with_reducible (first | assumption | apply endExchanges_kept | apply endSwaps_kept | fail_if_no_progress apply Kept.upd) | dsimp only

theorem vfReset_kept {s0 : State} (s : State) (c : Ctx) (cause : Nat)  (hK : Kept s0 s) : Kept s0 (vfReset s c cause) := by
  unfold vfReset
  repeat' first | (intro) | with_reducible (first | assumption | apply decideUnpick_kept | apply stopUpstream_kept | apply resetRing_kept | apply State.modCtx_kept | apply raise_kept | fail_if_no_progress apply Kept.upd) | dsimp only

theorem execVfFunctionLevelReset_kept {c : Ctx} {s : State} {tt : State} (eK : execVfFunctionLevelReset c s = .next tt) : Kept s tt := by
  have hK : Kept s s := Kept.refl s
  unfold execVfFunctionLevelReset at eK
  repeat' first | (simp only [ifApplies, Host.Outcome.next.injEq, reduceCtorEq] at eK) | (subst eK) | split at eK
  all_goals repeat' first | (intro) | with_reducible (first | assumption | apply Kept.ite | apply vfReset_kept | fail_if_no_progress apply Kept.upd) | dsimp only

theorem removeVfs_kept {s0 : State} (s : State) (p : Port) (n : Nat) (cause : Nat)  (hK : Kept s0 s) : Kept s0 (removeVfs s p n cause) := by
  unfold removeVfs
  repeat' first | (intro) | with_reducible (first | assumption | apply Kept.foldl | apply vfReset_kept | apply State.modCtx_kept | apply State.modPort_kept | apply Kept.foldl_fst | fail_if_no_progress apply Kept.upd) | dsimp only

theorem execVfEnableClear_kept {p : Port} {numVfs : BitVec 7} {s : State} {tt : State} (eK : execVfEnableClear p numVfs s = .next tt) : Kept s tt := by
  have hK : Kept s s := Kept.refl s
  unfold execVfEnableClear at eK
  repeat' first | (simp only [ifApplies, Host.Outcome.next.injEq, reduceCtorEq] at eK) | (subst eK) | split at eK
  all_goals repeat' first | (intro) | with_reducible (first | assumption | apply Kept.ite | apply removeVfs_kept | fail_if_no_progress apply Kept.upd) | dsimp only

theorem addVfs_kept {s0 : State} (s : State) (p : Port) (n : Nat)  (hK : Kept s0 s) : Kept s0 (addVfs s p n) := by
  unfold addVfs
  repeat' first | (intro) | with_reducible (first | assumption | apply Kept.ite | apply Kept.foldl | apply State.modCtx_kept | apply State.modPort_kept | apply Kept.foldl_fst | fail_if_no_progress apply Kept.upd) | split | dsimp only

theorem execVfEnableSet_kept {p : Port} {numVfs : BitVec 7} {s : State} {tt : State} (eK : execVfEnableSet p numVfs s = .next tt) : Kept s tt := by
  have hK : Kept s s := Kept.refl s
  unfold execVfEnableSet at eK
  repeat' first | (simp only [ifApplies, Host.Outcome.next.injEq, reduceCtorEq] at eK) | (subst eK) | split at eK
  all_goals repeat' first | (intro) | with_reducible (first | assumption | apply Kept.ite | apply addVfs_kept | fail_if_no_progress apply Kept.upd) | dsimp only

theorem voidWaiters_kept {s0 : State} (s : State) (p : Port)  (hK : Kept s0 s) : Kept s0 (voidWaiters s p) := by
  unfold voidWaiters
  repeat' first | (intro) | with_reducible (first | assumption | apply State.modRv_kept | apply State.modPw_kept | fail_if_no_progress apply Kept.upd) | split | dsimp only

theorem pfReset_kept {s0 : State} (s : State) (p : Port) (cause : Nat)  (hK : Kept s0 s) : Kept s0 (pfReset s p cause) := by
  unfold pfReset
  repeat' first | (intro) | with_reducible (first | assumption | apply removeVfs_kept | apply losePtm_kept | apply State.modPort_kept | apply voidWaiters_kept | fail_if_no_progress apply Kept.upd) | split | dsimp only

theorem execPfFunctionLevelReset_kept {p : Port} {s : State} {tt : State} (eK : execPfFunctionLevelReset p s = .next tt) : Kept s tt := by
  have hK : Kept s s := Kept.refl s
  unfold execPfFunctionLevelReset at eK
  repeat' first | (simp only [ifApplies, Host.Outcome.next.injEq, reduceCtorEq] at eK) | (subst eK) | split at eK
  all_goals repeat' first | (intro) | with_reducible (first | assumption | apply Kept.ite | apply pfReset_kept | fail_if_no_progress apply Kept.upd) | dsimp only

theorem dropLoads_kept {s0 : State} (s : State) (p : Port)  (hK : Kept s0 s) : Kept s0 (dropLoads s p).1 := by
  unfold dropLoads
  repeat' first | (intro) | with_reducible (first | assumption | fail_if_no_progress apply Kept.upd) | split | dsimp only

theorem endPortRecalls_kept {s0 : State} (s : State) (p : Port)  (hK : Kept s0 s) : Kept s0 (endPortRecalls s p).1 := by
  unfold endPortRecalls
  repeat' first | (intro) | with_reducible (first | assumption | apply Kept.ite | apply Kept.foldl | apply recallExpired_kept | refine Kept.fst (by assumption) ?_ | apply Kept.foldl_fst | fail_if_no_progress apply Kept.upd) | split | dsimp only

theorem linkDown_kept {s0 : State} (s : State) (p : Port)  (hK : Kept s0 s) : Kept s0 (linkDown s p) := by
  unfold linkDown
  repeat' first | (intro) | with_reducible (first | assumption | apply Kept.ite | apply State.modPort_kept | apply pfReset_kept | (refine Kept.fst (by assumption) ?_; apply dropLoads_kept) | apply dropLoads_kept | (refine Kept.fst (by assumption) ?_; apply endPortRecalls_kept) | apply endPortRecalls_kept | apply raise_kept | refine Kept.fst (by assumption) ?_ | fail_if_no_progress apply Kept.upd) | split | dsimp only

theorem execLinkDown_kept {p : Port} {s : State} {tt : State} (eK : execLinkDown p s = .next tt) : Kept s tt := by
  have hK : Kept s s := Kept.refl s
  unfold execLinkDown at eK
  repeat' first | (simp only [ifApplies, Host.Outcome.next.injEq, reduceCtorEq] at eK) | (subst eK) | split at eK
  all_goals repeat' first | (intro) | with_reducible (first | assumption | apply linkDown_kept | fail_if_no_progress apply Kept.upd) | dsimp only

theorem execPerstAssert_kept {p : Port} {s : State} {tt : State} (eK : execPerstAssert p s = .next tt) : Kept s tt := by
  have hK : Kept s s := Kept.refl s
  unfold execPerstAssert at eK
  repeat' first | (simp only [ifApplies, Host.Outcome.next.injEq, reduceCtorEq] at eK) | (subst eK) | split at eK
  all_goals repeat' first | (intro) | with_reducible (first | assumption | apply linkDown_kept | apply State.modPort_kept | fail_if_no_progress apply Kept.upd) | dsimp only

theorem execPerstRelease_kept {p : Port} {s : State} {tt : State} (eK : execPerstRelease p s = .next tt) : Kept s tt := by
  have hK : Kept s s := Kept.refl s
  unfold execPerstRelease at eK
  repeat' first | (simp only [ifApplies, Host.Outcome.next.injEq, reduceCtorEq] at eK) | (subst eK) | split at eK
  all_goals repeat' first | (intro) | with_reducible (first | assumption | apply State.modPort_kept | fail_if_no_progress apply Kept.upd) | dsimp only

theorem recoveryEntry_kept {s0 : State} (s : State) (p : Port) (failed : Bool)  (hK : Kept s0 s) : Kept s0 (recoveryEntry s p failed) := by
  unfold recoveryEntry
  repeat' first | (intro) | with_reducible (first | assumption | apply Kept.ite | apply State.modPort_kept | apply raise_kept | fail_if_no_progress apply Kept.upd) | split | dsimp only

theorem execLinkRecoveryEntry_kept {p : Port} {equalisationFailed : Bool} {s : State} {tt : State} (eK : execLinkRecoveryEntry p equalisationFailed s = .next tt) : Kept s tt := by
  have hK : Kept s s := Kept.refl s
  unfold execLinkRecoveryEntry at eK
  repeat' first | (simp only [ifApplies, Host.Outcome.next.injEq, reduceCtorEq] at eK) | (subst eK) | split at eK
  all_goals repeat' first | (intro) | with_reducible (first | assumption | apply recoveryEntry_kept | fail_if_no_progress apply Kept.upd) | dsimp only

theorem execLinkRetrainComplete_kept {p : Port} {rate : BitVec 3} {s : State} {tt : State} (eK : execLinkRetrainComplete p rate s = .next tt) : Kept s tt := by
  have hK : Kept s s := Kept.refl s
  unfold execLinkRetrainComplete at eK
  repeat' first | (simp only [ifApplies, Host.Outcome.next.injEq, reduceCtorEq] at eK) | (subst eK) | split at eK
  all_goals repeat' first | (intro) | with_reducible (first | assumption | apply Kept.ite | apply serveWaits_kept | apply setActive_kept | apply State.modPort_kept | fail_if_no_progress apply Kept.upd) | dsimp only

theorem sendPending_kept {s0 : State} (s : State) (f : Fn)  (hK : Kept s0 s) : Kept s0 (sendPending s f) := by
  unfold sendPending
  repeat' first | (intro) | with_reducible (first | assumption | apply Kept.ite | apply Kept.foldl | apply State.modPort_kept | apply State.emit_kept | apply State.modCtx_kept | refine Kept.fst (by assumption) ?_ | apply Kept.foldl_fst | fail_if_no_progress apply Kept.upd) | split | dsimp only

theorem execBusMasterEnableSet_kept {f : Fn} {s : State} {tt : State} (eK : execBusMasterEnableSet f s = .next tt) : Kept s tt := by
  have hK : Kept s s := Kept.refl s
  unfold execBusMasterEnableSet at eK
  repeat' first | (simp only [ifApplies, Host.Outcome.next.injEq, reduceCtorEq] at eK) | (subst eK) | split at eK
  all_goals repeat' first | (intro) | with_reducible (first | assumption | apply Kept.ite | apply sendPending_kept | apply State.modPort_kept | apply State.modCtx_kept | refine Kept.fst (by assumption) ?_ | fail_if_no_progress apply Kept.upd) | split | dsimp only

theorem execBusMasterEnableClear_kept {f : Fn} {s : State} {tt : State} (eK : execBusMasterEnableClear f s = .next tt) : Kept s tt := by
  have hK : Kept s s := Kept.refl s
  unfold execBusMasterEnableClear at eK
  repeat' first | (simp only [ifApplies, Host.Outcome.next.injEq, reduceCtorEq] at eK) | (subst eK) | split at eK
  all_goals repeat' first | (intro) | with_reducible (first | assumption | apply Kept.ite | apply State.modPort_kept | apply stopUpstream_kept | apply State.modCtx_kept | refine Kept.fst (by assumption) ?_ | fail_if_no_progress apply Kept.upd) | split | dsimp only

theorem execMsixUnmask_kept {f : Fn} {vector : Fin 8} {s : State} {tt : State} (eK : execMsixUnmask f vector s = .next tt) : Kept s tt := by
  have hK : Kept s s := Kept.refl s
  unfold execMsixUnmask at eK
  repeat' first | (simp only [ifApplies, Host.Outcome.next.injEq, reduceCtorEq] at eK) | (subst eK) | split at eK
  all_goals repeat' first | (intro) | with_reducible (first | assumption | apply Kept.ite | apply sendPending_kept | apply State.modPort_kept | apply State.modCtx_kept | refine Kept.fst (by assumption) ?_ | fail_if_no_progress apply Kept.upd) | split | dsimp only

theorem execFunctionResetComplete_kept {f : Fn} {s : State} {tt : State} (eK : execFunctionResetComplete f s = .next tt) : Kept s tt := by
  have hK : Kept s s := Kept.refl s
  unfold execFunctionResetComplete at eK
  repeat' first | (simp only [ifApplies, Host.Outcome.next.injEq, reduceCtorEq] at eK) | (subst eK) | split at eK
  all_goals repeat' first | (intro) | with_reducible (first | assumption | apply State.modPort_kept | apply State.modCtx_kept | refine Kept.fst (by assumption) ?_ | fail_if_no_progress apply Kept.upd) | split | dsimp only

theorem execPoisonedTlpToBar_kept {p : Port} {s : State} {tt : State} (eK : execPoisonedTlpToBar p s = .next tt) : Kept s tt := by
  have hK : Kept s s := Kept.refl s
  unfold execPoisonedTlpToBar at eK
  repeat' first | (simp only [ifApplies, Host.Outcome.next.injEq, reduceCtorEq] at eK) | (subst eK) | split at eK
  all_goals repeat' first | (intro) | with_reducible (first | assumption | apply Kept.ite | apply setInt_kept | apply State.modPort_kept | fail_if_no_progress apply Kept.upd) | dsimp only

theorem execEndpointIdAssignment_kept {n : Fin 2} {eid : BitVec 8} {s : State} {tt : State} (eK : execEndpointIdAssignment n eid s = .next tt) : Kept s tt := by
  have hK : Kept s s := Kept.refl s
  unfold execEndpointIdAssignment at eK
  repeat' first | (simp only [ifApplies, Host.Outcome.next.injEq, reduceCtorEq] at eK) | (subst eK) | split at eK
  all_goals repeat' first | (intro) | with_reducible (first | assumption | apply Kept.ite | fail_if_no_progress apply Kept.upd) | split | dsimp only

theorem execSidebandAlertRepeat_kept {n : Fin 2} {s : State} {tt : State} (eK : execSidebandAlertRepeat n s = .next tt) : Kept s tt := by
  have hK : Kept s s := Kept.refl s
  unfold execSidebandAlertRepeat at eK
  repeat' first | (simp only [ifApplies, Host.Outcome.next.injEq, reduceCtorEq] at eK) | (subst eK) | split at eK
  all_goals repeat' first | (intro) | with_reducible (first | assumption | apply Kept.ite | apply State.emit_kept | fail_if_no_progress apply Kept.upd) | dsimp only

theorem execDecoderCommitWrite_kept {c : Ctx} {value : Word} {s : State} {tt : State} (eK : execDecoderCommitWrite c value s = .next tt) : Kept s tt := by
  have hK : Kept s s := Kept.refl s
  unfold execDecoderCommitWrite at eK
  repeat' first | (simp only [ifApplies, Host.Outcome.next.injEq, reduceCtorEq] at eK) | (subst eK) | split at eK
  all_goals repeat' first | (intro) | with_reducible (first | assumption | apply Kept.ite | apply stageCommit_kept | fail_if_no_progress apply Kept.upd) | dsimp only

theorem commitDecoders_kept {s0 : State} (s : State) (c : Ctx)  (hK : Kept s0 s) : Kept s0 (commitDecoders s c) := by
  unfold commitDecoders
  repeat' first | (intro) | with_reducible (first | assumption | apply Kept.ite | apply State.modCtx_kept | apply commitWindows_kept | apply commitGrants_kept | fail_if_no_progress apply Kept.upd) | split | dsimp only

theorem boundaryCommits_kept {s0 : State} (s : State)  (hK : Kept s0 s) : Kept s0 (boundaryCommits s) := by
  unfold boundaryCommits
  repeat' first | (intro) | with_reducible (first | assumption | apply Kept.ite | apply Kept.foldl | apply commitDecoders_kept | apply Kept.foldl_fst | fail_if_no_progress apply Kept.upd) | split | dsimp only

theorem execDecoderCommitComplete_kept {c : Ctx} {s : State} {tt : State} (eK : execDecoderCommitComplete c s = .next tt) : Kept s tt := by
  have hK : Kept s s := Kept.refl s
  unfold execDecoderCommitComplete at eK
  repeat' first | (simp only [ifApplies, Host.Outcome.next.injEq, reduceCtorEq] at eK) | (subst eK) | split at eK
  all_goals repeat' first | (intro) | with_reducible (first | assumption | apply Kept.ite | apply State.modCtx_kept | fail_if_no_progress apply Kept.upd) | dsimp only

theorem commitSources_kept {s0 : State} (s : State)  (hK : Kept s0 s) : Kept s0 (commitSources s) := by
  unfold commitSources
  repeat' first | (intro) | with_reducible (first | assumption | apply Kept.ite | fail_if_no_progress apply Kept.upd) | split | dsimp only

end Sys2Proof.Machine
end

