-- ==== Sys2Proof/Laws/KeptKeys.lean ====
section
/-! SUPPORT. The operations of Machine/Keys.lean keep the queue and the canonical form of the memory. -/

set_option linter.unusedTactic false
set_option linter.unreachableTactic false
set_option linter.unusedSimpArgs false

namespace Sys2Proof.Machine

theorem promoteHeld_kept {s0 : State} (s : State) (which : Obj → Bool)  (hK : Kept s0 s) : Kept s0 (promoteHeld s which) := by
  unfold promoteHeld
  repeat' first | (intro) | with_reducible (first | assumption | apply Kept.ite | apply Kept.foldl | apply promotePages_kept | apply Kept.foldl_fst | fail_if_no_progress apply Kept.upd) | split | dsimp only

theorem loadAwaiting_kept {s0 : State} (s : State) (n : Nat) (x : KeySlot) (key : BitVec 512)  (hK : Kept s0 s) : Kept s0 (loadAwaiting s n x key) := by
  unfold loadAwaiting
  repeat' first | (intro) | with_reducible (first | assumption | apply promoteHeld_kept | fail_if_no_progress apply Kept.upd) | dsimp only

theorem keySet_kept {s0 : State} (s : State) (m : MciCall) (hK : Kept s0 s) : Kept s0 (keySet s m).1 := by
  unfold keySet
  repeat' first | (intro) | with_reducible (first | assumption | apply Kept.ite | apply raise_kept | apply loadAwaiting_kept | apply State.modObj_kept | refine Kept.fst (by assumption) ?_ | fail_if_no_progress apply Kept.upd) | split | dsimp only

theorem execKeySet_kept {via : Path} {input : List Byte} {s : State} {tt : State} (eK : execKeySet via input s = .next tt) : Kept s tt := by
  have hK : Kept s s := Kept.refl s
  unfold execKeySet at eK
  repeat' first | (simp only [ifApplies, Host.Outcome.next.injEq, reduceCtorEq] at eK) | (subst eK) | split at eK
  all_goals repeat' first | (intro) | with_reducible (first | assumption | apply mci_kept | apply keySet_kept | refine Kept.fst (by assumption) ?_ | fail_if_no_progress apply Kept.upd) | dsimp only

theorem keyClear_kept {s0 : State} (s : State) (m : MciCall) (hK : Kept s0 s) : Kept s0 (keyClear s m).1 := by
  unfold keyClear
  repeat' first | (intro) | with_reducible (first | assumption | apply Kept.ite | refine Kept.fst (by assumption) ?_ | fail_if_no_progress apply Kept.upd) | split | dsimp only

theorem execKeyClear_kept {via : Path} {input : List Byte} {s : State} {tt : State} (eK : execKeyClear via input s = .next tt) : Kept s tt := by
  have hK : Kept s s := Kept.refl s
  unfold execKeyClear at eK
  repeat' first | (simp only [ifApplies, Host.Outcome.next.injEq, reduceCtorEq] at eK) | (subst eK) | split at eK
  all_goals repeat' first | (intro) | with_reducible (first | assumption | apply mci_kept | apply keyClear_kept | refine Kept.fst (by assumption) ?_ | fail_if_no_progress apply Kept.upd) | dsimp only

theorem reportAwaiting_kept {s0 : State} (s : State)  (hK : Kept s0 s) : Kept s0 (reportAwaiting s) := by
  unfold reportAwaiting
  repeat' first | (intro) | with_reducible (first | assumption | apply Kept.foldl | apply setInt_kept | apply logAll_kept | apply postEvent_kept | refine Kept.fst (by assumption) ?_ | apply Kept.foldl_fst | fail_if_no_progress apply Kept.upd) | split | dsimp only

theorem State.modIde_kept {s0 : State} (s : State) (m : IdeMsg) (cxl : Bool) (f : IdeStream → IdeStream)  (hK : Kept s0 s) : Kept s0 (State.modIde s m cxl f) := by
  unfold State.modIde
  repeat' first | (intro) | with_reducible (first | assumption | fail_if_no_progress apply Kept.upd) | dsimp only

theorem ideAnswer_kept {s0 : State} (s : State) (m : IdeMsg) (obj : Nat) (status : Nat)  (hK : Kept s0 s) : Kept s0 (ideAnswer s m obj status) := by
  unfold ideAnswer
  repeat' first | (intro) | with_reducible (first | assumption | apply State.emit_kept | fail_if_no_progress apply Kept.upd) | dsimp only

theorem ideProg_kept {s0 : State} (s : State) (m : IdeMsg) (cxl : Bool)  (hK : Kept s0 s) : Kept s0 (ideProg s m cxl) := by
  unfold ideProg
  repeat' first | (intro) | with_reducible (first | assumption | apply Kept.ite | apply ideAnswer_kept | apply State.modIde_kept | fail_if_no_progress apply Kept.upd) | split | dsimp only

theorem ideGo_kept {s0 : State} (s : State) (m : IdeMsg) (cxl : Bool)  (hK : Kept s0 s) : Kept s0 (ideGo s m cxl) := by
  unfold ideGo
  repeat' first | (intro) | with_reducible (first | assumption | apply Kept.ite | apply ideAnswer_kept | apply State.modIde_kept | fail_if_no_progress apply Kept.upd) | split | dsimp only

theorem ideStop_kept {s0 : State} (s : State) (m : IdeMsg) (cxl : Bool)  (hK : Kept s0 s) : Kept s0 (ideStop s m cxl) := by
  unfold ideStop
  repeat' first | (intro) | with_reducible (first | assumption | apply Kept.ite | apply ideAnswer_kept | apply State.modIde_kept | fail_if_no_progress apply Kept.upd) | split | dsimp only

theorem ideQuery_kept {s0 : State} (s : State) (m : IdeMsg) (cxl : Bool)  (hK : Kept s0 s) : Kept s0 (ideQuery s m cxl) := by
  unfold ideQuery
  repeat' first | (intro) | with_reducible (first | assumption | apply Kept.ite | apply ideAnswer_kept | fail_if_no_progress apply Kept.upd) | split | dsimp only

theorem execIdeKmQuery_kept {m : IdeMsg} {s : State} {tt : State} (eK : execIdeKmQuery m s = .next tt) : Kept s tt := by
  have hK : Kept s s := Kept.refl s
  unfold execIdeKmQuery at eK
  repeat' first | (simp only [ifApplies, Host.Outcome.next.injEq, reduceCtorEq] at eK) | (subst eK) | split at eK
  all_goals repeat' first | (intro) | with_reducible (first | assumption | apply ideQuery_kept | fail_if_no_progress apply Kept.upd) | dsimp only

theorem execIdeKmKeyProg_kept {m : IdeMsg} {s : State} {tt : State} (eK : execIdeKmKeyProg m s = .next tt) : Kept s tt := by
  have hK : Kept s s := Kept.refl s
  unfold execIdeKmKeyProg at eK
  repeat' first | (simp only [ifApplies, Host.Outcome.next.injEq, reduceCtorEq] at eK) | (subst eK) | split at eK
  all_goals repeat' first | (intro) | with_reducible (first | assumption | apply ideProg_kept | fail_if_no_progress apply Kept.upd) | dsimp only

theorem execIdeKmKSetGo_kept {m : IdeMsg} {s : State} {tt : State} (eK : execIdeKmKSetGo m s = .next tt) : Kept s tt := by
  have hK : Kept s s := Kept.refl s
  unfold execIdeKmKSetGo at eK
  repeat' first | (simp only [ifApplies, Host.Outcome.next.injEq, reduceCtorEq] at eK) | (subst eK) | split at eK
  all_goals repeat' first | (intro) | with_reducible (first | assumption | apply ideGo_kept | fail_if_no_progress apply Kept.upd) | dsimp only

theorem execIdeKmKSetStop_kept {m : IdeMsg} {s : State} {tt : State} (eK : execIdeKmKSetStop m s = .next tt) : Kept s tt := by
  have hK : Kept s s := Kept.refl s
  unfold execIdeKmKSetStop at eK
  repeat' first | (simp only [ifApplies, Host.Outcome.next.injEq, reduceCtorEq] at eK) | (subst eK) | split at eK
  all_goals repeat' first | (intro) | with_reducible (first | assumption | apply ideStop_kept | fail_if_no_progress apply Kept.upd) | dsimp only

theorem execCxlQuery_kept {m : IdeMsg} {s : State} {tt : State} (eK : execCxlQuery m s = .next tt) : Kept s tt := by
  have hK : Kept s s := Kept.refl s
  unfold execCxlQuery at eK
  repeat' first | (simp only [ifApplies, Host.Outcome.next.injEq, reduceCtorEq] at eK) | (subst eK) | split at eK
  all_goals repeat' first | (intro) | with_reducible (first | assumption | apply ideQuery_kept | fail_if_no_progress apply Kept.upd) | dsimp only

theorem execCxlKeyProg_kept {m : IdeMsg} {s : State} {tt : State} (eK : execCxlKeyProg m s = .next tt) : Kept s tt := by
  have hK : Kept s s := Kept.refl s
  unfold execCxlKeyProg at eK
  repeat' first | (simp only [ifApplies, Host.Outcome.next.injEq, reduceCtorEq] at eK) | (subst eK) | split at eK
  all_goals repeat' first | (intro) | with_reducible (first | assumption | apply ideProg_kept | fail_if_no_progress apply Kept.upd) | dsimp only

theorem execCxlKSetGo_kept {m : IdeMsg} {s : State} {tt : State} (eK : execCxlKSetGo m s = .next tt) : Kept s tt := by
  have hK : Kept s s := Kept.refl s
  unfold execCxlKSetGo at eK
  repeat' first | (simp only [ifApplies, Host.Outcome.next.injEq, reduceCtorEq] at eK) | (subst eK) | split at eK
  all_goals repeat' first | (intro) | with_reducible (first | assumption | apply ideGo_kept | fail_if_no_progress apply Kept.upd) | dsimp only

theorem execCxlKSetStop_kept {m : IdeMsg} {s : State} {tt : State} (eK : execCxlKSetStop m s = .next tt) : Kept s tt := by
  have hK : Kept s s := Kept.refl s
  unfold execCxlKSetStop at eK
  repeat' first | (simp only [ifApplies, Host.Outcome.next.injEq, reduceCtorEq] at eK) | (subst eK) | split at eK
  all_goals repeat' first | (intro) | with_reducible (first | assumption | apply ideStop_kept | fail_if_no_progress apply Kept.upd) | dsimp only

theorem getKey_kept {s0 : State} (s : State) (m : IdeMsg)  (hK : Kept s0 s) : Kept s0 (getKey s m) := by
  unfold getKey
  repeat' first | (intro) | with_reducible (first | assumption | apply Kept.ite | apply Kept.getD | apply ideAnswer_kept | apply State.emit_kept | apply State.tick_kept | fail_if_no_progress apply Kept.upd) | split | dsimp only

theorem execCxlGetkey_kept {m : IdeMsg} {s : State} {tt : State} (eK : execCxlGetkey m s = .next tt) : Kept s tt := by
  have hK : Kept s s := Kept.refl s
  unfold execCxlGetkey at eK
  repeat' first | (simp only [ifApplies, Host.Outcome.next.injEq, reduceCtorEq] at eK) | (subst eK) | split at eK
  all_goals repeat' first | (intro) | with_reducible (first | assumption | apply getKey_kept | fail_if_no_progress apply Kept.upd) | dsimp only

theorem fwAnswer_kept {s0 : State} (s : State) (via : Path) (rc : Nat)  (hK : Kept s0 s) : Kept s0 (fwAnswer s via rc) := by
  unfold fwAnswer
  repeat' first | (intro) | with_reducible (first | assumption | apply cxlAnswer_kept | apply State.emit_kept | refine Kept.fst (by assumption) ?_ | fail_if_no_progress apply Kept.upd) | split | dsimp only

theorem endTransfer_kept {s0 : State} (s : State) (via : Path) (img : List Byte)  (hK : Kept s0 s) : Kept s0 (endTransfer s via img) := by
  unfold endTransfer
  repeat' first | (intro) | with_reducible (first | assumption | apply fwAnswer_kept | apply raise_kept | apply State.modMbox_kept | refine Kept.fst (by assumption) ?_ | fail_if_no_progress apply Kept.upd) | split | dsimp only

theorem transferFw_kept {s0 : State} (s : State) (via : Path) (action : BitVec 8) (slot : BitVec 8) (offset : Word) (data : List Byte)  (hK : Kept s0 s) : Kept s0 (transferFw s via action slot offset data) := by
  unfold transferFw
  repeat' first | (intro) | with_reducible (first | assumption | apply Kept.ite | apply fwAnswer_kept | apply endTransfer_kept | refine Kept.fst (by assumption) ?_ | fail_if_no_progress apply Kept.upd) | split | dsimp only

theorem execTransferFw_kept {via : Path} {action : BitVec 8} {slot : BitVec 8} {offset : Word} {data : List Byte} {s : State} {tt : State} (eK : execTransferFw via action slot offset data s = .next tt) : Kept s tt := by
  have hK : Kept s s := Kept.refl s
  unfold execTransferFw at eK
  repeat' first | (simp only [ifApplies, Host.Outcome.next.injEq, reduceCtorEq] at eK) | (subst eK) | split at eK
  all_goals repeat' first | (intro) | with_reducible (first | assumption | apply transferFw_kept | fail_if_no_progress apply Kept.upd) | dsimp only

theorem execActivateFw_kept {via : Path} {action : BitVec 8} {slot : BitVec 8} {s : State} {tt : State} (eK : execActivateFw via action slot s = .next tt) : Kept s tt := by
  have hK : Kept s s := Kept.refl s
  unfold execActivateFw at eK
  repeat' first | (simp only [ifApplies, Host.Outcome.next.injEq, reduceCtorEq] at eK) | (subst eK) | split at eK
  all_goals repeat' first | (intro) | with_reducible (first | assumption | apply Kept.ite | apply fwAnswer_kept | fail_if_no_progress apply Kept.upd) | split | dsimp only

theorem storeWritten_kept {s0 : State} (s : State)  (hK : Kept s0 s) : Kept s0 (storeWritten s) := by
  unfold storeWritten
  repeat' first | (intro) | with_reducible (first | assumption | apply State.modMbox_kept | apply State.emit_kept | refine Kept.fst (by assumption) ?_ | fail_if_no_progress apply Kept.upd) | split | dsimp only

theorem execFwStoreWriteDone_kept {s : State} {tt : State} (eK : execFwStoreWriteDone s = .next tt) : Kept s tt := by
  have hK : Kept s s := Kept.refl s
  unfold execFwStoreWriteDone at eK
  repeat' first | (simp only [ifApplies, Host.Outcome.next.injEq, reduceCtorEq] at eK) | (subst eK) | split at eK
  all_goals repeat' first | (intro) | with_reducible (first | assumption | apply storeWritten_kept | fail_if_no_progress apply Kept.upd) | dsimp only

end Sys2Proof.Machine
end

