-- ==== Sys2Proof/Laws/KeptSpdm.lean ====
section
/-! SUPPORT. The operations of Machine/Spdm.lean keep the queue and the canonical form of the memory. -/

set_option linter.unusedTactic false
set_option linter.unreachableTactic false
set_option linter.unusedSimpArgs false

namespace Sys2Proof.Machine

theorem State.modConn_kept {s0 : State} (s : State) (c : SpdmChan) (f : SpdmConn → SpdmConn)  (hK : Kept s0 s) : Kept s0 (State.modConn s c f) := by
  unfold State.modConn
  repeat' first | (intro) | with_reducible (first | assumption | fail_if_no_progress apply Kept.upd) | dsimp only

theorem spdmReply_kept {s0 : State} (s : State) (c : SpdmChan) (session : Option Word) (body : List Byte)  (hK : Kept s0 s) : Kept s0 (spdmReply s c session body) := by
  unfold spdmReply
  repeat' first | (intro) | with_reducible (first | assumption | apply Kept.ite | apply State.modConn_kept | apply State.emit_kept | fail_if_no_progress apply Kept.upd) | split | dsimp only

theorem doVersion_kept {s0 : State} (s : State) (m : SpdmMsg)  (hK : Kept s0 s) : Kept s0 (doVersion s m) := by
  unfold doVersion
  repeat' first | (intro) | with_reducible (first | assumption | apply spdmReply_kept | apply State.modConn_kept | fail_if_no_progress apply Kept.upd) | dsimp only

theorem doCapabilities_kept {s0 : State} (s : State) (m : SpdmMsg)  (hK : Kept s0 s) : Kept s0 (doCapabilities s m) := by
  unfold doCapabilities
  repeat' first | (intro) | with_reducible (first | assumption | apply Kept.getD | apply spdmReply_kept | apply State.modConn_kept | fail_if_no_progress apply Kept.upd) | dsimp only

theorem doAlgorithms_kept {s0 : State} (s : State) (m : SpdmMsg)  (hK : Kept s0 s) : Kept s0 (doAlgorithms s m) := by
  unfold doAlgorithms
  repeat' first | (intro) | with_reducible (first | assumption | apply spdmReply_kept | apply State.modConn_kept | fail_if_no_progress apply Kept.upd) | dsimp only

theorem doDigests_kept {s0 : State} (s : State) (m : SpdmMsg)  (hK : Kept s0 s) : Kept s0 (doDigests s m) := by
  unfold doDigests
  repeat' first | (intro) | with_reducible (first | assumption | apply spdmReply_kept | fail_if_no_progress apply Kept.upd) | dsimp only

theorem doCertificate_kept {s0 : State} (s : State) (m : SpdmMsg)  (hK : Kept s0 s) : Kept s0 (doCertificate s m) := by
  unfold doCertificate
  repeat' first | (intro) | with_reducible (first | assumption | apply Kept.ite | apply spdmReply_kept | fail_if_no_progress apply Kept.upd) | split | dsimp only

theorem queueSign_kept {s0 : State} (s : State) (m : SpdmMsg)  (hK : Kept s0 s) : Kept s0 (queueSign s m) := by
  unfold queueSign
  repeat' first | (intro) | with_reducible (first | assumption | apply Kept.ite | apply spdmReply_kept | fail_if_no_progress apply Kept.upd) | split | dsimp only

theorem doChallenge_kept {s0 : State} (s : State) (m : SpdmMsg)  (hK : Kept s0 s) : Kept s0 (doChallenge s m) := by
  unfold doChallenge
  repeat' first | (intro) | with_reducible (first | assumption | apply Kept.ite | apply spdmReply_kept | apply queueSign_kept | fail_if_no_progress apply Kept.upd) | split | dsimp only

theorem doMeasurements_kept {s0 : State} (s : State) (m : SpdmMsg)  (hK : Kept s0 s) : Kept s0 (doMeasurements s m) := by
  unfold doMeasurements
  repeat' first | (intro) | with_reducible (first | assumption | apply Kept.ite | apply Kept.getD | apply spdmReply_kept | apply queueSign_kept | apply State.tick_kept | fail_if_no_progress apply Kept.upd) | split | dsimp only

theorem doKeyExchange_kept {s0 : State} (s : State) (m : SpdmMsg)  (hK : Kept s0 s) : Kept s0 (doKeyExchange s m) := by
  unfold doKeyExchange
  repeat' first | (intro) | with_reducible (first | assumption | apply Kept.ite | apply spdmReply_kept | apply queueSign_kept | fail_if_no_progress apply Kept.upd) | split | dsimp only

theorem doFinish_kept {s0 : State} (s : State) (m : SpdmMsg)  (hK : Kept s0 s) : Kept s0 (doFinish s m) := by
  unfold doFinish
  repeat' first | (intro) | with_reducible (first | assumption | apply Kept.ite | apply spdmReply_kept | apply State.modConn_kept | refine Kept.fst (by assumption) ?_ | fail_if_no_progress apply Kept.upd) | split | dsimp only

theorem sessionReply_kept {s0 : State} (s : State) (m : SpdmMsg) (p1 : Nat) (p2 : Nat)  (hK : Kept s0 s) : Kept s0 (sessionReply s m p1 p2) := by
  unfold sessionReply
  repeat' first | (intro) | with_reducible (first | assumption | apply Kept.ite | apply spdmReply_kept | fail_if_no_progress apply Kept.upd) | split | dsimp only

theorem doHeartbeat_kept {s0 : State} (s : State) (m : SpdmMsg)  (hK : Kept s0 s) : Kept s0 (doHeartbeat s m) := by
  unfold doHeartbeat
  repeat' first | (intro) | with_reducible (first | assumption | apply sessionReply_kept | fail_if_no_progress apply Kept.upd) | dsimp only

theorem doKeyUpdate_kept {s0 : State} (s : State) (m : SpdmMsg)  (hK : Kept s0 s) : Kept s0 (doKeyUpdate s m) := by
  unfold doKeyUpdate
  repeat' first | (intro) | with_reducible (first | assumption | apply sessionReply_kept | fail_if_no_progress apply Kept.upd) | dsimp only

theorem doEndSession_kept {s0 : State} (s : State) (m : SpdmMsg)  (hK : Kept s0 s) : Kept s0 (doEndSession s m) := by
  unfold doEndSession
  repeat' first | (intro) | with_reducible (first | assumption | apply sessionReply_kept | apply State.modConn_kept | refine Kept.fst (by assumption) ?_ | fail_if_no_progress apply Kept.upd) | split | dsimp only

theorem doChunkGet_kept {s0 : State} (s : State) (m : SpdmMsg)  (hK : Kept s0 s) : Kept s0 (doChunkGet s m) := by
  unfold doChunkGet
  repeat' first | (intro) | with_reducible (first | assumption | apply Kept.ite | apply spdmReply_kept | apply State.modConn_kept | apply State.emit_kept | fail_if_no_progress apply Kept.upd) | split | dsimp only

theorem doVendor_kept {s0 : State} (s : State) (m : SpdmMsg)  (hK : Kept s0 s) : Kept s0 (doVendor s m) := by
  unfold doVendor
  repeat' first | (intro) | with_reducible (first | assumption | apply Kept.ite | apply spdmReply_kept | refine Kept.fst (by assumption) ?_ | fail_if_no_progress apply Kept.upd) | split | dsimp only

theorem spdmHandle_kept {s0 : State} (s : State) (m : SpdmMsg)  (hK : Kept s0 s) : Kept s0 (spdmHandle s m) := by
  unfold spdmHandle
  repeat' first | (intro) | with_reducible (first | assumption | apply Kept.ite | apply spdmReply_kept | apply doVersion_kept | apply doCapabilities_kept | apply doAlgorithms_kept | apply doDigests_kept | apply doCertificate_kept | apply doChallenge_kept | apply doMeasurements_kept | apply doKeyExchange_kept | apply doFinish_kept | apply doHeartbeat_kept | apply doKeyUpdate_kept | apply doEndSession_kept | apply doChunkGet_kept | apply doVendor_kept | refine Kept.fst (by assumption) ?_ | fail_if_no_progress apply Kept.upd) | split | dsimp only

theorem doChunkSend_kept {s0 : State} (s : State) (m : SpdmMsg)  (hK : Kept s0 s) : Kept s0 (doChunkSend s m) := by
  unfold doChunkSend
  repeat' first | (intro) | with_reducible (first | assumption | apply Kept.ite | apply spdmReply_kept | apply State.modConn_kept | apply State.emit_kept | apply spdmHandle_kept | fail_if_no_progress apply Kept.upd) | split | dsimp only

theorem spdmRow_kept {s0 : State} (s : State) (m : SpdmMsg) (code : Nat)  (hK : Kept s0 s) : Kept s0 (spdmRow s m code) := by
  unfold spdmRow
  repeat' first | (intro) | with_reducible (first | assumption | apply Kept.ite | apply doChunkSend_kept | apply spdmHandle_kept | fail_if_no_progress apply Kept.upd) | split | dsimp only

theorem execGetVersion_kept {m : SpdmMsg} {s : State} {tt : State} (eK : execGetVersion m s = .next tt) : Kept s tt := by
  have hK : Kept s s := Kept.refl s
  unfold execGetVersion at eK
  repeat' first | (simp only [ifApplies, Host.Outcome.next.injEq, reduceCtorEq] at eK) | (subst eK) | split at eK
  all_goals repeat' first | (intro) | with_reducible (first | assumption | apply spdmRow_kept | fail_if_no_progress apply Kept.upd) | dsimp only

theorem execGetCapabilities_kept {m : SpdmMsg} {s : State} {tt : State} (eK : execGetCapabilities m s = .next tt) : Kept s tt := by
  have hK : Kept s s := Kept.refl s
  unfold execGetCapabilities at eK
  repeat' first | (simp only [ifApplies, Host.Outcome.next.injEq, reduceCtorEq] at eK) | (subst eK) | split at eK
  all_goals repeat' first | (intro) | with_reducible (first | assumption | apply spdmRow_kept | fail_if_no_progress apply Kept.upd) | dsimp only

theorem execNegotiateAlgorithms_kept {m : SpdmMsg} {s : State} {tt : State} (eK : execNegotiateAlgorithms m s = .next tt) : Kept s tt := by
  have hK : Kept s s := Kept.refl s
  unfold execNegotiateAlgorithms at eK
  repeat' first | (simp only [ifApplies, Host.Outcome.next.injEq, reduceCtorEq] at eK) | (subst eK) | split at eK
  all_goals repeat' first | (intro) | with_reducible (first | assumption | apply spdmRow_kept | fail_if_no_progress apply Kept.upd) | dsimp only

theorem execGetDigests_kept {m : SpdmMsg} {s : State} {tt : State} (eK : execGetDigests m s = .next tt) : Kept s tt := by
  have hK : Kept s s := Kept.refl s
  unfold execGetDigests at eK
  repeat' first | (simp only [ifApplies, Host.Outcome.next.injEq, reduceCtorEq] at eK) | (subst eK) | split at eK
  all_goals repeat' first | (intro) | with_reducible (first | assumption | apply spdmRow_kept | fail_if_no_progress apply Kept.upd) | dsimp only

theorem execGetCertificate_kept {m : SpdmMsg} {s : State} {tt : State} (eK : execGetCertificate m s = .next tt) : Kept s tt := by
  have hK : Kept s s := Kept.refl s
  unfold execGetCertificate at eK
  repeat' first | (simp only [ifApplies, Host.Outcome.next.injEq, reduceCtorEq] at eK) | (subst eK) | split at eK
  all_goals repeat' first | (intro) | with_reducible (first | assumption | apply spdmRow_kept | fail_if_no_progress apply Kept.upd) | dsimp only

theorem execChallenge_kept {m : SpdmMsg} {s : State} {tt : State} (eK : execChallenge m s = .next tt) : Kept s tt := by
  have hK : Kept s s := Kept.refl s
  unfold execChallenge at eK
  repeat' first | (simp only [ifApplies, Host.Outcome.next.injEq, reduceCtorEq] at eK) | (subst eK) | split at eK
  all_goals repeat' first | (intro) | with_reducible (first | assumption | apply spdmRow_kept | fail_if_no_progress apply Kept.upd) | dsimp only

theorem execGetMeasurements_kept {m : SpdmMsg} {s : State} {tt : State} (eK : execGetMeasurements m s = .next tt) : Kept s tt := by
  have hK : Kept s s := Kept.refl s
  unfold execGetMeasurements at eK
  repeat' first | (simp only [ifApplies, Host.Outcome.next.injEq, reduceCtorEq] at eK) | (subst eK) | split at eK
  all_goals repeat' first | (intro) | with_reducible (first | assumption | apply spdmRow_kept | fail_if_no_progress apply Kept.upd) | dsimp only

theorem execKeyExchange_kept {m : SpdmMsg} {s : State} {tt : State} (eK : execKeyExchange m s = .next tt) : Kept s tt := by
  have hK : Kept s s := Kept.refl s
  unfold execKeyExchange at eK
  repeat' first | (simp only [ifApplies, Host.Outcome.next.injEq, reduceCtorEq] at eK) | (subst eK) | split at eK
  all_goals repeat' first | (intro) | with_reducible (first | assumption | apply spdmRow_kept | fail_if_no_progress apply Kept.upd) | dsimp only

theorem execFinish_kept {m : SpdmMsg} {s : State} {tt : State} (eK : execFinish m s = .next tt) : Kept s tt := by
  have hK : Kept s s := Kept.refl s
  unfold execFinish at eK
  repeat' first | (simp only [ifApplies, Host.Outcome.next.injEq, reduceCtorEq] at eK) | (subst eK) | split at eK
  all_goals repeat' first | (intro) | with_reducible (first | assumption | apply spdmRow_kept | fail_if_no_progress apply Kept.upd) | dsimp only

theorem execHeartbeat_kept {m : SpdmMsg} {s : State} {tt : State} (eK : execHeartbeat m s = .next tt) : Kept s tt := by
  have hK : Kept s s := Kept.refl s
  unfold execHeartbeat at eK
  repeat' first | (simp only [ifApplies, Host.Outcome.next.injEq, reduceCtorEq] at eK) | (subst eK) | split at eK
  all_goals repeat' first | (intro) | with_reducible (first | assumption | apply spdmRow_kept | fail_if_no_progress apply Kept.upd) | dsimp only

theorem execKeyUpdate_kept {m : SpdmMsg} {s : State} {tt : State} (eK : execKeyUpdate m s = .next tt) : Kept s tt := by
  have hK : Kept s s := Kept.refl s
  unfold execKeyUpdate at eK
  repeat' first | (simp only [ifApplies, Host.Outcome.next.injEq, reduceCtorEq] at eK) | (subst eK) | split at eK
  all_goals repeat' first | (intro) | with_reducible (first | assumption | apply spdmRow_kept | fail_if_no_progress apply Kept.upd) | dsimp only

theorem execEndSession_kept {m : SpdmMsg} {s : State} {tt : State} (eK : execEndSession m s = .next tt) : Kept s tt := by
  have hK : Kept s s := Kept.refl s
  unfold execEndSession at eK
  repeat' first | (simp only [ifApplies, Host.Outcome.next.injEq, reduceCtorEq] at eK) | (subst eK) | split at eK
  all_goals repeat' first | (intro) | with_reducible (first | assumption | apply spdmRow_kept | fail_if_no_progress apply Kept.upd) | dsimp only

theorem execChunkSend_kept {m : SpdmMsg} {s : State} {tt : State} (eK : execChunkSend m s = .next tt) : Kept s tt := by
  have hK : Kept s s := Kept.refl s
  unfold execChunkSend at eK
  repeat' first | (simp only [ifApplies, Host.Outcome.next.injEq, reduceCtorEq] at eK) | (subst eK) | split at eK
  all_goals repeat' first | (intro) | with_reducible (first | assumption | apply spdmRow_kept | fail_if_no_progress apply Kept.upd) | dsimp only

theorem execChunkGet_kept {m : SpdmMsg} {s : State} {tt : State} (eK : execChunkGet m s = .next tt) : Kept s tt := by
  have hK : Kept s s := Kept.refl s
  unfold execChunkGet at eK
  repeat' first | (simp only [ifApplies, Host.Outcome.next.injEq, reduceCtorEq] at eK) | (subst eK) | split at eK
  all_goals repeat' first | (intro) | with_reducible (first | assumption | apply spdmRow_kept | fail_if_no_progress apply Kept.upd) | dsimp only

theorem kekRow_kept {s0 : State} (s : State) (m : SpdmMsg) (cmd : Nat)  (hK : Kept s0 s) : Kept s0 (kekRow s m cmd) := by
  unfold kekRow
  repeat' first | (intro) | with_reducible (first | assumption | apply Kept.ite | apply spdmRow_kept | refine Kept.fst (by assumption) ?_ | fail_if_no_progress apply Kept.upd) | split | dsimp only

theorem execKekSet_kept {m : SpdmMsg} {s : State} {tt : State} (eK : execKekSet m s = .next tt) : Kept s tt := by
  have hK : Kept s s := Kept.refl s
  unfold execKekSet at eK
  repeat' first | (simp only [ifApplies, Host.Outcome.next.injEq, reduceCtorEq] at eK) | (subst eK) | split at eK
  all_goals repeat' first | (intro) | with_reducible (first | assumption | apply kekRow_kept | fail_if_no_progress apply Kept.upd) | dsimp only

theorem execKekClear_kept {m : SpdmMsg} {s : State} {tt : State} (eK : execKekClear m s = .next tt) : Kept s tt := by
  have hK : Kept s s := Kept.refl s
  unfold execKekClear at eK
  repeat' first | (simp only [ifApplies, Host.Outcome.next.injEq, reduceCtorEq] at eK) | (subst eK) | split at eK
  all_goals repeat' first | (intro) | with_reducible (first | assumption | apply kekRow_kept | fail_if_no_progress apply Kept.upd) | dsimp only

theorem signedReply_kept {s0 : State} (s : State) (j : SignJob)  (hK : Kept s0 s) : Kept s0 (signedReply s j) := by
  unfold signedReply
  repeat' first | (intro) | with_reducible (first | assumption | apply Kept.getD | apply spdmReply_kept | apply State.tick_kept | apply State.modConn_kept | refine Kept.fst (by assumption) ?_ | fail_if_no_progress apply Kept.upd) | split | dsimp only

theorem signatureDone_kept {s0 : State} (s : State)  (hK : Kept s0 s) : Kept s0 (signatureDone s) := by
  unfold signatureDone
  repeat' first | (intro) | with_reducible (first | assumption | apply Kept.ite | apply State.bump_kept | apply signedReply_kept | refine Kept.fst (by assumption) ?_ | fail_if_no_progress apply Kept.upd) | split | dsimp only

theorem execSpdmSignatureDone_kept {s : State} {tt : State} (eK : execSpdmSignatureDone s = .next tt) : Kept s tt := by
  have hK : Kept s s := Kept.refl s
  unfold execSpdmSignatureDone at eK
  repeat' first | (simp only [ifApplies, Host.Outcome.next.injEq, reduceCtorEq] at eK) | (subst eK) | split at eK
  all_goals repeat' first | (intro) | with_reducible (first | assumption | apply signatureDone_kept | fail_if_no_progress apply Kept.upd) | dsimp only

end Sys2Proof.Machine
end

