-- ==== Sys2Proof/Laws/KeptPower.lean ====
section
/-! SUPPORT. The operations of Machine/Power.lean keep the queue and the canonical form of the memory. -/

set_option linter.unusedTactic false
set_option linter.unreachableTactic false
set_option linter.unusedSimpArgs false

namespace Sys2Proof.Machine

theorem setDom_kept {s0 : State} (s : State) (d : Nat) (x : Dom)  (hK : Kept s0 s) : Kept s0 (setDom s d x) := by
  unfold setDom
  repeat' first | (intro) | with_reducible (first | assumption | apply Kept.ite | apply State.modPw_kept | fail_if_no_progress apply Kept.upd) | split | dsimp only

theorem raiseDom_kept {s0 : State} (s : State) (d : Nat)  (hK : Kept s0 s) : Kept s0 (raiseDom s d) := by
  unfold raiseDom
  repeat' first | (intro) | with_reducible (first | assumption | apply Kept.ite | apply setDom_kept | fail_if_no_progress apply Kept.upd) | split | dsimp only

theorem modeSetH_kept {s0 : State} (s : State) (m : MciCall) (hK : Kept s0 s) : Kept s0 (modeSetH s m).1 := by
  unfold modeSetH
  repeat' first | (intro) | with_reducible (first | assumption | apply Kept.ite | apply State.modPw_kept | fail_if_no_progress apply Kept.upd) | split | dsimp only

theorem execModeSet_kept {via : Path} {input : List Byte} {s : State} {tt : State} (eK : execModeSet via input s = .next tt) : Kept s tt := by
  have hK : Kept s s := Kept.refl s
  unfold execModeSet at eK
  repeat' first | (simp only [ifApplies, Host.Outcome.next.injEq, reduceCtorEq] at eK) | (subst eK) | split at eK
  all_goals repeat' first | (intro) | with_reducible (first | assumption | apply mci_kept | apply modeSetH_kept | refine Kept.fst (by assumption) ?_ | fail_if_no_progress apply Kept.upd) | dsimp only

theorem modeQueryH_kept {s0 : State} (s : State) (m : MciCall) (hK : Kept s0 s) : Kept s0 (modeQueryH s m).1 := by
  unfold modeQueryH
  repeat' first | (intro) | with_reducible (first | assumption | apply State.tick_kept | refine Kept.fst (by assumption) ?_ | fail_if_no_progress apply Kept.upd) | split | dsimp only

theorem execModeQuery_kept {via : Path} {input : List Byte} {s : State} {tt : State} (eK : execModeQuery via input s = .next tt) : Kept s tt := by
  have hK : Kept s s := Kept.refl s
  unfold execModeQuery at eK
  repeat' first | (simp only [ifApplies, Host.Outcome.next.injEq, reduceCtorEq] at eK) | (subst eK) | split at eK
  all_goals repeat' first | (intro) | with_reducible (first | assumption | apply mci_kept | apply modeQueryH_kept | refine Kept.fst (by assumption) ?_ | fail_if_no_progress apply Kept.upd) | dsimp only

theorem applyMode_kept {s0 : State} (s : State) (m : Nat)  (hK : Kept s0 s) : Kept s0 (applyMode s m) := by
  unfold applyMode
  repeat' first | (intro) | with_reducible (first | assumption | apply Kept.ite | apply Kept.foldl | apply State.modPw_kept | apply raiseDom_kept | apply setDom_kept | apply State.modPort_kept | apply Kept.foldl_fst | fail_if_no_progress apply Kept.upd) | split | dsimp only

theorem modeDone_kept {s0 : State} (s : State) (j : ModeJob)  (hK : Kept s0 s) : Kept s0 (modeDone s j) := by
  unfold modeDone
  repeat' first | (intro) | with_reducible (first | assumption | apply State.modPw_kept | apply raise_kept | apply answer_kept | refine Kept.fst (by assumption) ?_ | fail_if_no_progress apply Kept.upd) | split | dsimp only

theorem enterSelfRef_kept {s0 : State} (s : State) (t : Nat)  (hK : Kept s0 s) : Kept s0 (enterSelfRef s t) := by
  unfold enterSelfRef
  repeat' first | (intro) | with_reducible (first | assumption | apply Kept.foldN | apply State.modChan_kept | apply State.startSelfRef_kept | apply Kept.foldN_fst | fail_if_no_progress apply Kept.upd) | dsimp only

theorem loadSet_kept {s0 : State} (s : State) (tset : Nat) (t : Nat)  (hK : Kept s0 s) : Kept s0 (loadSet s tset t) := by
  unfold loadSet
  repeat' first | (intro) | with_reducible (first | assumption | apply enterSelfRef_kept | apply State.modStack_kept | fail_if_no_progress apply Kept.upd) | dsimp only

theorem beginChange_kept {s0 : State} (s : State)  (hK : Kept s0 s) : Kept s0 (beginChange s) := by
  unfold beginChange
  repeat' first | (intro) | with_reducible (first | assumption | apply Kept.ite | apply Kept.foldN | apply State.modPw_kept | apply applyMode_kept | apply loadSet_kept | apply modeDone_kept | refine Kept.fst (by assumption) ?_ | apply Kept.foldN_fst | fail_if_no_progress apply Kept.upd) | split | dsimp only

theorem exitStacks_kept {s0 : State} (s : State)  (hK : Kept s0 s) : Kept s0 (exitStacks s) := by
  unfold exitStacks
  repeat' first | (intro) | with_reducible (first | assumption | apply Kept.ite | apply Kept.foldN | apply leaveSelfRef_kept | apply Kept.foldN_fst | fail_if_no_progress apply Kept.upd) | split | dsimp only

theorem endChange_kept {s0 : State} (s : State)  (hK : Kept s0 s) : Kept s0 (endChange s) := by
  unfold endChange
  repeat' first | (intro) | with_reducible (first | assumption | apply Kept.ite | apply exitStacks_kept | apply pagesChanged_kept | apply modeDone_kept | refine Kept.fst (by assumption) ?_ | fail_if_no_progress apply Kept.upd) | split | dsimp only

theorem renumberChange_kept {s0 : State} (s : State) (n : Int)  (hK : Kept s0 s) : Kept s0 (renumberChange s n) := by
  unfold renumberChange
  repeat' first | (intro) | with_reducible (first | assumption | apply Kept.ite | apply State.modPw_kept | fail_if_no_progress apply Kept.upd) | split | dsimp only

theorem execStackSetChangeTimeout_kept {t : Cluster} {s : State} {tt : State} (eK : execStackSetChangeTimeout t s = .next tt) : Kept s tt := by
  have hK : Kept s s := Kept.refl s
  unfold execStackSetChangeTimeout at eK
  repeat' first | (simp only [ifApplies, Host.Outcome.next.injEq, reduceCtorEq] at eK) | (subst eK) | split at eK
  all_goals repeat' first | (intro) | with_reducible (first | assumption | apply Kept.ite | apply startReset_kept | apply State.modStack_kept | apply State.startSelfRef_kept | fail_if_no_progress apply Kept.upd) | dsimp only

theorem allOff_kept {s0 : State} (s : State)  (hK : Kept s0 s) : Kept s0 (allOff s) := by
  unfold allOff
  repeat' first | (intro) | with_reducible (first | assumption | apply Kept.foldl | apply Kept.foldN | apply linkDown_kept | apply holdStack_kept | apply unpowerBay_kept | apply State.modPw_kept | apply Kept.foldl_fst | apply Kept.foldN_fst | fail_if_no_progress apply Kept.upd) | dsimp only

theorem thermalShutdown_kept {s0 : State} (s : State) (kind : Nat) (unit : Nat) (reading : Int)  (hK : Kept s0 s) : Kept s0 (thermalShutdown s kind unit reading) := by
  unfold thermalShutdown
  repeat' first | (intro) | with_reducible (first | assumption | apply Kept.ite | apply allOff_kept | apply raiseAll_kept | apply drivePins_kept | apply State.modPw_kept | fail_if_no_progress apply Kept.upd) | split | dsimp only

theorem latePackageReset_kept {s0 : State} (s : State)  (hK : Kept s0 s) : Kept s0 (latePackageReset s) := by
  unfold latePackageReset
  repeat' first | (intro) | with_reducible (first | assumption | apply Kept.ite | apply packageReset_kept | fail_if_no_progress apply Kept.upd) | split | dsimp only

theorem logicRead_kept {s0 : State} (s : State) (a : List (Option Int)) (b : List (Option Int)) (h : List (Option Int))  (hK : Kept s0 s) : Kept s0 (logicRead s a b h) := by
  unfold logicRead
  repeat' first | (intro) | with_reducible (first | assumption | apply Kept.ite | apply Kept.getD | apply State.modPw_kept | apply thermalShutdown_kept | apply latePackageReset_kept | fail_if_no_progress apply Kept.upd) | split | dsimp only

theorem execThermalSensorRead_kept {baseA : List (Option Int)} {baseB : List (Option Int)} {hub : List (Option Int)} {s : State} {tt : State} (eK : execThermalSensorRead baseA baseB hub s = .next tt) : Kept s tt := by
  have hK : Kept s s := Kept.refl s
  unfold execThermalSensorRead at eK
  repeat' first | (simp only [ifApplies, Host.Outcome.next.injEq, reduceCtorEq] at eK) | (subst eK) | split at eK
  all_goals repeat' first | (intro) | with_reducible (first | assumption | apply Kept.ite | apply logicRead_kept | fail_if_no_progress apply Kept.upd) | dsimp only

theorem stackRead_kept {s0 : State} (s : State) (t : Nat) (tenths : List (Option Int))  (hK : Kept s0 s) : Kept s0 (stackRead s t tenths) := by
  unfold stackRead
  repeat' first | (intro) | with_reducible (first | assumption | apply Kept.ite | apply Kept.foldl | apply Kept.getD | apply State.modStack_kept | apply thermalShutdown_kept | apply latePackageReset_kept | apply Kept.foldl_fst | fail_if_no_progress apply Kept.upd) | split | dsimp only

theorem execStackSensorRead_kept {t : Cluster} {tenths : List (Option Int)} {s : State} {tt : State} (eK : execStackSensorRead t tenths s = .next tt) : Kept s tt := by
  have hK : Kept s s := Kept.refl s
  unfold execStackSensorRead at eK
  repeat' first | (simp only [ifApplies, Host.Outcome.next.injEq, reduceCtorEq] at eK) | (subst eK) | split at eK
  all_goals repeat' first | (intro) | with_reducible (first | assumption | apply Kept.ite | apply stackRead_kept | fail_if_no_progress apply Kept.upd) | dsimp only

theorem throttleBoundary_kept {s0 : State} (s : State)  (hK : Kept s0 s) : Kept s0 (throttleBoundary s) := by
  unfold throttleBoundary
  repeat' first | (intro) | with_reducible (first | assumption | apply Kept.ite | apply Kept.foldl | apply drivePins_kept | apply raise_kept | apply State.modPw_kept | apply State.bump_kept | apply Kept.foldl_fst | fail_if_no_progress apply Kept.upd) | split | dsimp only

theorem refreshBoundary_kept {s0 : State} (s : State)  (hK : Kept s0 s) : Kept s0 (refreshBoundary s) := by
  unfold refreshBoundary
  repeat' first | (intro) | with_reducible (first | assumption | apply Kept.ite | apply Kept.foldN | apply State.modStack_kept | apply raise_kept | refine Kept.fst (by assumption) ?_ | apply Kept.foldN_fst | fail_if_no_progress apply Kept.upd) | split | dsimp only

theorem powerUp_kept {s0 : State} (s : State)  (hK : Kept s0 s) : Kept s0 (powerUp s) := by
  unfold powerUp
  repeat' first | (intro) | with_reducible (first | assumption | apply Kept.ite | apply State.modPw_kept | fail_if_no_progress apply Kept.upd) | split | dsimp only

theorem loseSupply_kept {s0 : State} (s : State)  (hK : Kept s0 s) : Kept s0 (loseSupply s) := by
  unfold loseSupply
  repeat' first | (intro) | with_reducible (first | assumption | apply doPackageReset_kept | fail_if_no_progress apply Kept.upd) | dsimp only

theorem inputBoundary_kept {s0 : State} (s : State)  (hK : Kept s0 s) : Kept s0 (inputBoundary s) := by
  unfold inputBoundary
  repeat' first | (intro) | with_reducible (first | assumption | apply Kept.foldl | apply raise_kept | apply State.modPw_kept | apply Kept.foldl_fst | fail_if_no_progress apply Kept.upd) | dsimp only

theorem inputRead_kept {s0 : State} (s : State) (mv : BitVec 16) (da : BitVec 16) (m1 : BitVec 12) (m10 : BitVec 12)  (hK : Kept s0 s) : Kept s0 (inputRead s mv da m1 m10) := by
  unfold inputRead
  repeat' first | (intro) | with_reducible (first | assumption | apply Kept.ite | apply powerUp_kept | apply State.modPw_kept | apply inputBoundary_kept | fail_if_no_progress apply Kept.upd) | split | dsimp only

theorem execInputReading_kept {mv : BitVec 16} {deciamps : BitVec 16} {mean1s : BitVec 12} {mean10ms : BitVec 12} {s : State} {tt : State} (eK : execInputReading mv deciamps mean1s mean10ms s = .next tt) : Kept s tt := by
  have hK : Kept s s := Kept.refl s
  unfold execInputReading at eK
  repeat' first | (simp only [ifApplies, Host.Outcome.next.injEq, reduceCtorEq] at eK) | (subst eK) | split at eK
  all_goals repeat' first | (intro) | with_reducible (first | assumption | apply inputRead_kept | fail_if_no_progress apply Kept.upd) | dsimp only

theorem execInputPowerFault_kept {s : State} {tt : State} (eK : execInputPowerFault s = .next tt) : Kept s tt := by
  have hK : Kept s s := Kept.refl s
  unfold execInputPowerFault at eK
  repeat' first | (simp only [ifApplies, Host.Outcome.next.injEq, reduceCtorEq] at eK) | (subst eK) | split at eK
  all_goals repeat' first | (intro) | with_reducible (first | assumption | apply Kept.ite | apply loseSupply_kept | apply State.modPw_kept | fail_if_no_progress apply Kept.upd) | dsimp only

theorem execMrefLoss_kept {s : State} {tt : State} (eK : execMrefLoss s = .next tt) : Kept s tt := by
  have hK : Kept s s := Kept.refl s
  unfold execMrefLoss at eK
  repeat' first | (simp only [ifApplies, Host.Outcome.next.injEq, reduceCtorEq] at eK) | (subst eK) | split at eK
  all_goals repeat' first | (intro) | with_reducible (first | assumption | apply Kept.ite | apply allOff_kept | apply State.modPw_kept | fail_if_no_progress apply Kept.upd) | dsimp only

theorem execMrefStable_kept {s : State} {tt : State} (eK : execMrefStable s = .next tt) : Kept s tt := by
  have hK : Kept s s := Kept.refl s
  unfold execMrefStable at eK
  repeat' first | (simp only [ifApplies, Host.Outcome.next.injEq, reduceCtorEq] at eK) | (subst eK) | split at eK
  all_goals repeat' first | (intro) | with_reducible (first | assumption | apply Kept.ite | apply State.modPw_kept | apply packageReset_kept | fail_if_no_progress apply Kept.upd) | split | dsimp only

theorem execPwrEnRise_kept {s : State} {tt : State} (eK : execPwrEnRise s = .next tt) : Kept s tt := by
  have hK : Kept s s := Kept.refl s
  unfold execPwrEnRise at eK
  repeat' first | (simp only [ifApplies, Host.Outcome.next.injEq, reduceCtorEq] at eK) | (subst eK) | split at eK
  all_goals repeat' first | (intro) | with_reducible (first | assumption | apply Kept.ite | apply powerUp_kept | apply State.modPw_kept | fail_if_no_progress apply Kept.upd) | dsimp only

theorem finishPrograms_kept {s0 : State} (s : State)  (hK : Kept s0 s) : Kept s0 (finishPrograms s) := by
  unfold finishPrograms
  repeat' first | (intro) | with_reducible (first | assumption | apply Kept.foldl | apply stripeProgrammed_kept | apply Kept.foldl_fst | fail_if_no_progress apply Kept.upd) | dsimp only

theorem execPwrEnFall_kept {s : State} {tt : State} (eK : execPwrEnFall s = .next tt) : Kept s tt := by
  have hK : Kept s s := Kept.refl s
  unfold execPwrEnFall at eK
  repeat' first | (simp only [ifApplies, Host.Outcome.next.injEq, reduceCtorEq] at eK) | (subst eK) | split at eK
  all_goals repeat' first | (intro) | with_reducible (first | assumption | apply Kept.ite | apply loseSupply_kept | apply finishPrograms_kept | apply State.modPw_kept | fail_if_no_progress apply Kept.upd) | split | dsimp only

theorem execModRstFall_kept {s : State} {tt : State} (eK : execModRstFall s = .next tt) : Kept s tt := by
  have hK : Kept s s := Kept.refl s
  unfold execModRstFall at eK
  repeat' first | (simp only [ifApplies, Host.Outcome.next.injEq, reduceCtorEq] at eK) | (subst eK) | split at eK
  all_goals repeat' first | (intro) | with_reducible (first | assumption | apply Kept.ite | apply State.modPw_kept | apply packageReset_kept | fail_if_no_progress apply Kept.upd) | split | dsimp only

theorem execModRstRise_kept {s : State} {tt : State} (eK : execModRstRise s = .next tt) : Kept s tt := by
  have hK : Kept s s := Kept.refl s
  unfold execModRstRise at eK
  repeat' first | (simp only [ifApplies, Host.Outcome.next.injEq, reduceCtorEq] at eK) | (subst eK) | split at eK
  all_goals repeat' first | (intro) | with_reducible (first | assumption | apply powerUp_kept | apply State.modPw_kept | fail_if_no_progress apply Kept.upd) | dsimp only

theorem execDomainPowerUpDone_kept {d : Fin 80} {s : State} {tt : State} (eK : execDomainPowerUpDone d s = .next tt) : Kept s tt := by
  have hK : Kept s s := Kept.refl s
  unfold execDomainPowerUpDone at eK
  repeat' first | (simp only [ifApplies, Host.Outcome.next.injEq, reduceCtorEq] at eK) | (subst eK) | split at eK
  all_goals repeat' first | (intro) | with_reducible (first | assumption | apply Kept.ite | apply setDom_kept | fail_if_no_progress apply Kept.upd) | split | dsimp only

theorem domsBoundary_kept {s0 : State} (s : State)  (hK : Kept s0 s) : Kept s0 (domsBoundary s) := by
  unfold domsBoundary
  repeat' first | (intro) | with_reducible (first | assumption | apply Kept.ite | apply State.modPw_kept | apply promoteHeld_kept | fail_if_no_progress apply Kept.upd) | split | dsimp only

theorem portsBoundary_kept {s0 : State} (s : State)  (hK : Kept s0 s) : Kept s0 (portsBoundary s) := by
  unfold portsBoundary
  repeat' first | (intro) | with_reducible (first | assumption | apply Kept.ite | apply Kept.foldl | apply setDom_kept | apply linkDown_kept | apply raiseDom_kept | apply Kept.foldl_fst | fail_if_no_progress apply Kept.upd) | split | dsimp only

theorem holdStart_kept {s0 : State} (s : State) (cause : Nat)  (hK : Kept s0 s) : Kept s0 (holdStart s cause) := by
  unfold holdStart
  repeat' first | (intro) | with_reducible (first | assumption | apply drivePins_kept | apply State.modPw_kept | fail_if_no_progress apply Kept.upd) | dsimp only

theorem loadCaps_kept {s0 : State} (s : State)  (hK : Kept s0 s) : Kept s0 (loadCaps s) := by
  unfold loadCaps
  repeat' first | (intro) | with_reducible (first | assumption | fail_if_no_progress apply Kept.upd) | dsimp only

theorem endStage_kept {s0 : State} (s : State) (ms : BitVec 16)  (hK : Kept s0 s) : Kept s0 (endStage s ms) := by
  unfold endStage
  repeat' first | (intro) | with_reducible (first | assumption | apply Kept.ite | apply Kept.foldl | apply Kept.foldN | apply State.modPw_kept | apply loadCaps_kept | apply raiseDom_kept | apply drivePins_kept | apply startVerify_kept | apply assembleArray_kept | apply State.modFt_kept | apply setActive_kept | apply resumeWalk_kept | apply raise_kept | apply reportAwaiting_kept | refine Kept.fst (by assumption) ?_ | apply Kept.foldl_fst | apply Kept.foldN_fst | fail_if_no_progress apply Kept.upd) | split | dsimp only

theorem stageComplete_kept {s0 : State} (s : State) (r : StageResult) (ms : BitVec 16)  (hK : Kept s0 s) : Kept s0 (stageComplete s r ms) := by
  unfold stageComplete
  repeat' first | (intro) | with_reducible (first | assumption | apply Kept.ite | apply holdStart_kept | apply endStage_kept | refine Kept.fst (by assumption) ?_ | fail_if_no_progress apply Kept.upd) | split | dsimp only

theorem execStartupStageComplete_kept {r : StageResult} {ms : BitVec 16} {s : State} {tt : State} (eK : execStartupStageComplete r ms s = .next tt) : Kept s tt := by
  have hK : Kept s s := Kept.refl s
  unfold execStartupStageComplete at eK
  repeat' first | (simp only [ifApplies, Host.Outcome.next.injEq, reduceCtorEq] at eK) | (subst eK) | split at eK
  all_goals repeat' first | (intro) | with_reducible (first | assumption | apply stageComplete_kept | fail_if_no_progress apply Kept.upd) | dsimp only

end Sys2Proof.Machine
end

