-- ==== Sys2Proof/Laws/KeptSlots.lean ====
section
/-! SUPPORT. The operations of Machine/Slots.lean keep the queue and the canonical form of the memory. -/

set_option linter.unusedTactic false
set_option linter.unreachableTactic false
set_option linter.unusedSimpArgs false

namespace Sys2Proof.Machine

theorem issueRow_kept {s0 : State} (s : State) (st : Nat) (ch : Nat) (a : Access) (keep : Bool)  (hK : Kept s0 s) : Kept s0 (issueRow s st ch a keep) := by
  unfold issueRow
  repeat' first | (intro) | with_reducible (first | assumption | apply Kept.ite | apply State.modChan_kept | apply setInt_kept | fail_if_no_progress apply Kept.upd) | split | dsimp only

theorem issue_kept {s0 : State} (s : State) (st : Nat) (ch : Nat) (a : Access) (keep : Bool)  (hK : Kept s0 s) : Kept s0 (issue s st ch a keep) := by
  unfold issue
  repeat' first | (intro) | with_reducible (first | assumption | apply issueRow_kept | refine Kept.fst (by assumption) ?_ | fail_if_no_progress apply Kept.upd) | split | dsimp only

theorem readBlock_kept {s0 : State} (s : State) (q : Cue) (b : Binding) (core : Nat) (region : Nat) (byte : Nat) (path : Nat)  (hK : Kept s0 s) : Kept s0 (readBlock s q b core region byte path).1 := by
  unfold readBlock
  repeat' first | (intro) | with_reducible (first | assumption | (refine Kept.fst (by assumption) ?_; apply readGranule_kept) | apply readGranule_kept | apply touchPage_kept | refine Kept.fst (by assumption) ?_ | fail_if_no_progress apply Kept.upd) | split | dsimp only

theorem claimRead_kept {s0 : State} (s : State) (q : Cue) (b : Binding) (p : Pattern) (x : LiveClaim) (sd : ClaimStream)  (hK : Kept s0 s) : Kept s0 (claimRead s q b p x sd) := by
  unfold claimRead
  repeat' first | (intro) | with_reducible (first | assumption | (refine Kept.fst (by assumption) ?_; apply readBlock_kept) | apply readBlock_kept | apply State.modCore_kept | refine Kept.fst (by assumption) ?_ | fail_if_no_progress apply Kept.upd) | split | dsimp only

theorem claimDirties_kept {s0 : State} (s : State) (pid : Nat)  (hK : Kept s0 s) : Kept s0 (claimDirties s pid) := by
  unfold claimDirties
  repeat' first | (intro) | with_reducible (first | assumption | apply reservePage_kept | apply State.modPage_kept | refine Kept.fst (by assumption) ?_ | fail_if_no_progress apply Kept.upd) | split | dsimp only

theorem claimWrite_kept {s0 : State} (s : State) (q : Cue) (b : Binding) (p : Pattern) (x : LiveClaim) (sd : ClaimStream)  (hK : Kept s0 s) : Kept s0 (claimWrite s q b p x sd) := by
  unfold claimWrite
  repeat' first | (intro) | with_reducible (first | assumption | apply Kept.ite | apply Kept.getD | apply claimDirties_kept | apply touchPage_kept | apply putGranule_kept | apply storeGranule_kept | apply State.modCore_kept | refine Kept.fst (by assumption) ?_ | fail_if_no_progress apply Kept.upd) | split | dsimp only

theorem readRun_kept {s0 : State} (s : State) (q : Cue) (b : Binding) (core : Nat) (region : Nat) (byte : Nat) (len : Nat) (path : Nat)  (hK : Kept s0 s) : Kept s0 (readRun s q b core region byte len path).1 := by
  unfold readRun
  repeat' first | (intro) | with_reducible (first | assumption | apply Kept.ite | (refine Kept.fst (by assumption) ?_; apply readBlock_kept) | apply readBlock_kept | refine Kept.fst (by assumption) ?_ | fail_if_no_progress apply Kept.upd) | split | dsimp only

theorem moveRow_kept {s0 : State} (s : State) (q : Cue) (b : Binding) (p : Pattern) (core : Nat) (logical : Nat) (j : Nat) (sd : ClaimStream) (w : IndRow) (n : Nat)  (hK : Kept s0 s) : Kept s0 (moveRow s q b p core logical j sd w n) := by
  unfold moveRow
  repeat' first | (intro) | with_reducible (first | assumption | apply Kept.ite | (refine Kept.fst (by assumption) ?_; apply readRun_kept) | apply readRun_kept | apply State.modCore_kept | refine Kept.fst (by assumption) ?_ | fail_if_no_progress apply Kept.upd) | split | dsimp only

theorem claimIndirect_kept {s0 : State} (s : State) (st : Nat) (ch : Nat) (q : Cue) (b : Binding) (p : Pattern) (x : LiveClaim) (sd : ClaimStream)  (hK : Kept s0 s) : Kept s0 (claimIndirect s st ch q b p x sd) := by
  unfold claimIndirect
  repeat' first | (intro) | with_reducible (first | assumption | apply issue_kept | apply moveRow_kept | refine Kept.fst (by assumption) ?_ | fail_if_no_progress apply Kept.upd) | split | dsimp only

theorem serveLive_kept {s0 : State} (s : State) (st : Nat) (ch : Nat) (x : LiveClaim)  (hK : Kept s0 s) : Kept s0 (serveLive s st ch x) := by
  unfold serveLive
  repeat' first | (intro) | with_reducible (first | assumption | apply Kept.ite | apply claimIndirect_kept | apply issue_kept | apply claimWrite_kept | apply claimRead_kept | refine Kept.fst (by assumption) ?_ | fail_if_no_progress apply Kept.upd) | split | dsimp only

theorem spillDone_kept {s0 : State} (s : State) (core : Nat) (arg : Nat)  (hK : Kept s0 s) : Kept s0 (spillDone s core arg) := by
  unfold spillDone
  repeat' first | (intro) | with_reducible (first | assumption | apply moveRow_kept | refine Kept.fst (by assumption) ?_ | fail_if_no_progress apply Kept.upd) | split | dsimp only

theorem State.modFuse_kept {s0 : State} (s : State) (st : Nat) (ch : Nat) (key : Nat) (f : FuseBank → FuseBank)  (hK : Kept s0 s) : Kept s0 (State.modFuse s st ch key f) := by
  unfold State.modFuse
  repeat' first | (intro) | with_reducible (first | assumption | apply State.modChan_kept | fail_if_no_progress apply Kept.upd) | dsimp only

theorem startFuse_kept {s0 : State} (s : State) (st ch key n : Nat) (h : Kept s0 s) : Kept s0 (startFuse s st ch key n) := by
  induction n generalizing s with
  | zero => exact h
  | succ n ih =>
    unfold startFuse
    dsimp only
    split
    · split
      · exact h
      · split
        · exact ih _ (raise_kept _ _ _ _ (State.modFuse_kept _ _ _ _ _ h))
        · exact State.modFuse_kept _ _ _ _ _ (State.modFuse_kept _ _ _ _ _ h)
    · exact h

theorem requestFuse_kept {s0 : State} (s : State) (st : Nat) (ch : Nat) (key : Nat) (j : FuseJob)  (hK : Kept s0 s) : Kept s0 (requestFuse s st ch key j) := by
  unfold requestFuse
  repeat' first | (intro) | with_reducible (first | assumption | apply Kept.ite | apply startFuse_kept | apply State.modFuse_kept | fail_if_no_progress apply Kept.upd) | split | dsimp only

theorem noteSymbol_kept {s0 : State} (s : State) (st : Nat) (ch : Nat) (key : Nat) (row : Nat) (line : Nat) (sym : Nat)  (hK : Kept s0 s) : Kept s0 (noteSymbol s st ch key row line sym) := by
  unfold noteSymbol
  repeat' first | (intro) | with_reducible (first | assumption | apply Kept.ite | apply State.modChan_kept | apply requestFuse_kept | fail_if_no_progress apply Kept.upd) | split | dsimp only

theorem noteFinding_kept {s0 : State} (s : State) (st : Nat) (ch : Nat) (key : Nat) (row : Nat) (line : Nat) (e : LineErr)  (hK : Kept s0 s) : Kept s0 (noteFinding s st ch key row line e) := by
  unfold noteFinding
  repeat' first | (intro) | with_reducible (first | assumption | apply Kept.ite | apply Kept.foldl | apply requestFuse_kept | apply State.modChan_kept | apply noteSymbol_kept | refine Kept.fst (by assumption) ?_ | apply Kept.foldl_fst | fail_if_no_progress apply Kept.upd) | split | dsimp only

theorem innerRead_kept {s0 : State} (s : State) (st : Nat) (ch : Nat) (path : Nat) (rank : Nat) (bank : Nat) (row : Nat) (col : Nat)  (hK : Kept s0 s) : Kept s0 (innerRead s st ch path rank bank row col).1 := by
  unfold innerRead
  repeat' first | (intro) | with_reducible (first | assumption | apply Kept.foldl | apply Kept.getD | (refine Kept.fst (by assumption) ?_; apply readGranule_kept) | apply readGranule_kept | apply State.tick_kept | apply noteFinding_kept | refine Kept.fst (by assumption) ?_ | apply Kept.foldl_fst | fail_if_no_progress apply Kept.upd) | split | dsimp only

theorem rewriteLine_kept {s0 : State} (s : State) (l : Loc) (pl : Nat)  (hK : Kept s0 s) : Kept s0 (rewriteLine s l pl) := by
  unfold rewriteLine
  repeat' first | (intro) | with_reducible (first | assumption | apply presentReq_kept | apply State.putLine_kept | fail_if_no_progress apply Kept.upd) | dsimp only

theorem scrubBlock_kept {s0 : State} (s : State) (st : Nat) (ch : Nat) (rank : Nat) (bank : Nat) (row : Nat) (col : Nat)  (hK : Kept s0 s) : Kept s0 (scrubBlock s st ch rank bank row col) := by
  unfold scrubBlock
  repeat' first | (intro) | with_reducible (first | assumption | apply Kept.ite | apply Kept.foldl | apply Kept.getD | (refine Kept.fst (by assumption) ?_; apply innerRead_kept) | apply innerRead_kept | apply rewriteLine_kept | refine Kept.fst (by assumption) ?_ | apply Kept.foldl_fst | fail_if_no_progress apply Kept.upd) | split | dsimp only

theorem copyLines_kept {s0 : State} (s : State) (b : FuseBank) (skip : List Nat) (cells : Nat → Nat) (col : Nat)  (hK : Kept s0 s) : Kept s0 (copyLines s b skip cells col) := by
  unfold copyLines
  repeat' first | (intro) | with_reducible (first | assumption | apply Kept.foldl | apply State.freshCell_kept | apply Kept.foldl_fst | fail_if_no_progress apply Kept.upd) | dsimp only

theorem copyTransfer_kept {s0 : State} (s : State) (st : Nat) (ch : Nat)  (hK : Kept s0 s) : Kept s0 (copyTransfer s st ch) := by
  unfold copyTransfer
  repeat' first | (intro) | with_reducible (first | assumption | apply Kept.ite | apply issueRow_kept | apply copyLines_kept | (refine Kept.fst (by assumption) ?_; apply innerRead_kept) | apply innerRead_kept | apply State.modChan_kept | refine Kept.fst (by assumption) ?_ | fail_if_no_progress apply Kept.upd) | split | dsimp only

theorem presentFuse_kept {s0 : State} (s : State) (st : Nat) (ch : Nat) (l : List OpenReq)  (hK : Kept s0 s) : Kept s0 (presentFuse s st ch l) := by
  unfold presentFuse
  repeat' first | (intro) | with_reducible (first | assumption | apply State.modChan_kept | fail_if_no_progress apply Kept.upd) | dsimp only

theorem fuseDone_kept {s0 : State} (s : State) (st : Nat) (ch : Nat) (x : OpenReq)  (hK : Kept s0 s) : Kept s0 (fuseDone s st ch x) := by
  unfold fuseDone
  repeat' first | (intro) | with_reducible (first | assumption | apply Kept.ite | (refine Kept.fst (by assumption) ?_; apply innerRead_kept) | apply innerRead_kept | apply State.modFuse_kept | apply presentFuse_kept | apply copyLines_kept | apply State.putLine_kept | refine Kept.fst (by assumption) ?_ | fail_if_no_progress apply Kept.upd) | split | dsimp only

theorem fuseFrame_kept {s0 : State} (s : State) (st : Nat) (ch : Nat) (key : Nat)  (hK : Kept s0 s) : Kept s0 (fuseFrame s st ch key) := by
  unfold fuseFrame
  repeat' first | (intro) | with_reducible (first | assumption | apply Kept.ite | apply presentFuse_kept | refine Kept.fst (by assumption) ?_ | fail_if_no_progress apply Kept.upd) | split | dsimp only

theorem reqDone_kept {s0 : State} (s : State) (st : Nat) (ch : Nat) (x : OpenReq)  (hK : Kept s0 s) : Kept s0 (reqDone s st ch x) := by
  unfold reqDone
  repeat' first | (intro) | with_reducible (first | assumption | apply scrubBlock_kept | apply fuseDone_kept | apply spillDone_kept | refine Kept.fst (by assumption) ?_ | fail_if_no_progress apply Kept.upd) | split | dsimp only

theorem issueReq_kept {s0 : State} (s : State) (st : Nat) (ch : Nat) (tset : Nat) (i : Nat)  (hK : Kept s0 s) : Kept s0 (issueReq s st ch tset i) := by
  unfold issueReq
  repeat' first | (intro) | with_reducible (first | assumption | apply Kept.ite | apply Kept.foldl | apply issue_kept | apply State.modChan_kept | apply reqDone_kept | refine Kept.fst (by assumption) ?_ | apply Kept.foldl_fst | fail_if_no_progress apply Kept.upd) | split | dsimp only

theorem openSlot_kept {s0 : State} (s : State) (st : Nat) (ch : Nat) (tset : Nat)  (hK : Kept s0 s) : Kept s0 (openSlot s st ch tset) := by
  unfold openSlot
  repeat' first | (intro) | with_reducible (first | assumption | apply Kept.ite | apply Kept.getD | apply State.modChan_kept | apply issueReq_kept | refine Kept.fst (by assumption) ?_ | fail_if_no_progress apply Kept.upd) | split | dsimp only

theorem tackPart_kept {s0 : State} (s : State) (st : Nat) (ch : Nat) (tset : Nat)  (hK : Kept s0 s) : Kept s0 (tackPart s st ch tset) := by
  unfold tackPart
  repeat' first | (intro) | with_reducible (first | assumption | apply State.modChan_kept | apply State.bump_kept | fail_if_no_progress apply Kept.upd) | dsimp only

theorem calPart_kept {s0 : State} (s : State) (st : Nat) (ch : Nat)  (hK : Kept s0 s) : Kept s0 (calPart s st ch) := by
  unfold calPart
  repeat' first | (intro) | with_reducible (first | assumption | apply Kept.ite | apply Kept.foldl | apply State.modChan_kept | apply State.bump_kept | apply Kept.foldl_fst | fail_if_no_progress apply Kept.upd) | split | dsimp only

theorem bastedPart_kept {s0 : State} (s : State) (st : Nat) (ch : Nat) (tset : Nat)  (hK : Kept s0 s) : Kept s0 (bastedPart s st ch tset) := by
  unfold bastedPart
  repeat' first | (intro) | with_reducible (first | assumption | apply Kept.ite | apply tackPart_kept | apply calPart_kept | apply State.modChan_kept | fail_if_no_progress apply Kept.upd) | split | dsimp only

theorem withheldSlot_kept {s0 : State} (s : State) (st : Nat) (ch : Nat) (tset : Nat)  (hK : Kept s0 s) : Kept s0 (withheldSlot s st ch tset) := by
  unfold withheldSlot
  repeat' first | (intro) | with_reducible (first | assumption | apply Kept.ite | apply copyTransfer_kept | apply State.modChan_kept | fail_if_no_progress apply Kept.upd) | split | dsimp only

theorem dramSlot_kept {s0 : State} (s : State) (st : Nat) (ch : Nat)  (hK : Kept s0 s) : Kept s0 (dramSlot s st ch) := by
  unfold dramSlot
  repeat' first | (intro) | with_reducible (first | assumption | apply Kept.ite | apply bastedPart_kept | apply serveLive_kept | apply withheldSlot_kept | apply openSlot_kept | apply State.modChan_kept | refine Kept.fst (by assumption) ?_ | fail_if_no_progress apply Kept.upd) | split | dsimp only

theorem execDramSlot_kept {t : Cluster} {h : Chan} {s : State} {tt : State} (eK : execDramSlot t h s = .next tt) : Kept s tt := by
  have hK : Kept s s := Kept.refl s
  unfold execDramSlot at eK
  repeat' first | (simp only [ifApplies, Host.Outcome.next.injEq, reduceCtorEq] at eK) | (subst eK) | split at eK
  all_goals repeat' first | (intro) | with_reducible (first | assumption | apply dramSlot_kept | fail_if_no_progress apply Kept.upd) | dsimp only

theorem calWindow_kept {s0 : State} (s : State) (st : Nat) (ch : Nat) (lane : Nat) (e : Nat) (l : Nat)  (hK : Kept s0 s) : Kept s0 (calWindow s st ch lane e l) := by
  unfold calWindow
  repeat' first | (intro) | with_reducible (first | assumption | apply Kept.ite | apply State.modChan_kept | apply raise_kept | refine Kept.fst (by assumption) ?_ | fail_if_no_progress apply Kept.upd) | split | dsimp only

theorem execCalWindowClose_kept {t : Cluster} {h : Chan} {lane : Fin 32} {early : BitVec 13} {late : BitVec 13} {s : State} {tt : State} (eK : execCalWindowClose t h lane early late s = .next tt) : Kept s tt := by
  have hK : Kept s s := Kept.refl s
  unfold execCalWindowClose at eK
  repeat' first | (simp only [ifApplies, Host.Outcome.next.injEq, reduceCtorEq] at eK) | (subst eK) | split at eK
  all_goals repeat' first | (intro) | with_reducible (first | assumption | apply calWindow_kept | fail_if_no_progress apply Kept.upd) | dsimp only

theorem rankRowCopy_kept {s0 : State} (s : State) (st : Nat) (ch : Nat)  (hK : Kept s0 s) : Kept s0 (rankRowCopy s st ch) := by
  unfold rankRowCopy
  repeat' first | (intro) | with_reducible (first | assumption | apply Kept.ite | apply State.modChan_kept | apply raise_kept | fail_if_no_progress apply Kept.upd) | split | dsimp only

theorem execRankRowCopy_kept {t : Cluster} {h : Chan} {s : State} {tt : State} (eK : execRankRowCopy t h s = .next tt) : Kept s tt := by
  have hK : Kept s s := Kept.refl s
  unfold execRankRowCopy at eK
  repeat' first | (simp only [ifApplies, Host.Outcome.next.injEq, reduceCtorEq] at eK) | (subst eK) | split at eK
  all_goals repeat' first | (intro) | with_reducible (first | assumption | apply rankRowCopy_kept | fail_if_no_progress apply Kept.upd) | dsimp only

theorem presentScrub_kept {s0 : State} (s : State) (st : Nat) (ch : Nat) (n : Nat)  (hK : Kept s0 s) : Kept s0 (presentScrub s st ch n) := by
  unfold presentScrub
  repeat' first | (intro) | with_reducible (first | assumption | apply State.modChan_kept | fail_if_no_progress apply Kept.upd) | dsimp only

theorem presentOwed_kept {s0 : State} (s : State) (st : Nat) (ch : Nat)  (hK : Kept s0 s) : Kept s0 (presentOwed s st ch) := by
  unfold presentOwed
  repeat' first | (intro) | with_reducible (first | assumption | apply Kept.ite | apply presentScrub_kept | apply State.modChan_kept | refine Kept.fst (by assumption) ?_ | fail_if_no_progress apply Kept.upd) | split | dsimp only

theorem scrubInterval_kept {s0 : State} (s : State) (st : Nat) (ch : Nat)  (hK : Kept s0 s) : Kept s0 (scrubInterval s st ch) := by
  unfold scrubInterval
  repeat' first | (intro) | with_reducible (first | assumption | apply Kept.ite | apply presentOwed_kept | apply State.modChan_kept | apply presentScrub_kept | apply setInt_kept | fail_if_no_progress apply Kept.upd) | split | dsimp only

theorem execScrubInterval_kept {t : Cluster} {h : Chan} {s : State} {tt : State} (eK : execScrubInterval t h s = .next tt) : Kept s tt := by
  have hK : Kept s s := Kept.refl s
  unfold execScrubInterval at eK
  repeat' first | (simp only [ifApplies, Host.Outcome.next.injEq, reduceCtorEq] at eK) | (subst eK) | split at eK
  all_goals repeat' first | (intro) | with_reducible (first | assumption | apply scrubInterval_kept | fail_if_no_progress apply Kept.upd) | dsimp only

theorem execDirectedScrub_kept {t : Cluster} {h : Chan} {s : State} {tt : State} (eK : execDirectedScrub t h s = .next tt) : Kept s tt := by
  have hK : Kept s s := Kept.refl s
  unfold execDirectedScrub at eK
  repeat' first | (simp only [ifApplies, Host.Outcome.next.injEq, reduceCtorEq] at eK) | (subst eK) | split at eK
  all_goals repeat' first | (intro) | with_reducible (first | assumption | apply Kept.ite | apply State.modChan_kept | refine Kept.fst (by assumption) ?_ | fail_if_no_progress apply Kept.upd) | split | dsimp only

theorem execBucketLeak_kept {s : State} {tt : State} (eK : execBucketLeak s = .next tt) : Kept s tt := by
  have hK : Kept s s := Kept.refl s
  unfold execBucketLeak at eK
  repeat' first | (simp only [ifApplies, Host.Outcome.next.injEq, reduceCtorEq] at eK) | (subst eK) | split at eK
  all_goals repeat' first | (intro) | with_reducible (first | assumption | fail_if_no_progress apply Kept.upd) | split | dsimp only

theorem rowSpareDone_kept {s0 : State} (s : State) (st : Nat) (ch : Nat) (rank : Nat) (bank : Nat)  (hK : Kept s0 s) : Kept s0 (rowSpareDone s st ch rank bank) := by
  unfold rowSpareDone
  repeat' first | (intro) | with_reducible (first | assumption | apply Kept.ite | apply State.modFuse_kept | refine Kept.fst (by assumption) ?_ | fail_if_no_progress apply Kept.upd) | split | dsimp only

theorem execRowSpareCopyDone_kept {t : Cluster} {h : Chan} {rank : Fin 17} {bank : Fin 16} {s : State} {tt : State} (eK : execRowSpareCopyDone t h rank bank s = .next tt) : Kept s tt := by
  have hK : Kept s s := Kept.refl s
  unfold execRowSpareCopyDone at eK
  repeat' first | (simp only [ifApplies, Host.Outcome.next.injEq, reduceCtorEq] at eK) | (subst eK) | split at eK
  all_goals repeat' first | (intro) | with_reducible (first | assumption | apply rowSpareDone_kept | fail_if_no_progress apply Kept.upd) | dsimp only

theorem columnDone_kept {s0 : State} (s : State) (st : Nat) (ch : Nat) (rank : Nat) (bank : Nat)  (hK : Kept s0 s) : Kept s0 (columnDone s st ch rank bank) := by
  unfold columnDone
  repeat' first | (intro) | with_reducible (first | assumption | apply Kept.ite | apply State.modFuse_kept | refine Kept.fst (by assumption) ?_ | fail_if_no_progress apply Kept.upd) | split | dsimp only

theorem execColumnSpareWalkDone_kept {t : Cluster} {h : Chan} {rank : Fin 17} {bank : Fin 16} {s : State} {tt : State} (eK : execColumnSpareWalkDone t h rank bank s = .next tt) : Kept s tt := by
  have hK : Kept s s := Kept.refl s
  unfold execColumnSpareWalkDone at eK
  repeat' first | (simp only [ifApplies, Host.Outcome.next.injEq, reduceCtorEq] at eK) | (subst eK) | split at eK
  all_goals repeat' first | (intro) | with_reducible (first | assumption | apply columnDone_kept | fail_if_no_progress apply Kept.upd) | dsimp only

theorem dramSpareH_kept {s0 : State} (s : State) (m : MciCall) (hK : Kept s0 s) : Kept s0 (dramSpareH s m).1 := by
  unfold dramSpareH
  repeat' first | (intro) | with_reducible (first | assumption | apply Kept.ite | (refine Kept.fst (by assumption) ?_; apply spareRequest_kept) | apply spareRequest_kept | refine Kept.fst (by assumption) ?_ | fail_if_no_progress apply Kept.upd) | split | dsimp only

theorem execDramSpare_kept {via : Path} {input : List Byte} {s : State} {tt : State} (eK : execDramSpare via input s = .next tt) : Kept s tt := by
  have hK : Kept s s := Kept.refl s
  unfold execDramSpare at eK
  repeat' first | (simp only [ifApplies, Host.Outcome.next.injEq, reduceCtorEq] at eK) | (subst eK) | split at eK
  all_goals repeat' first | (intro) | with_reducible (first | assumption | apply mci_kept | apply dramSpareH_kept | refine Kept.fst (by assumption) ?_ | fail_if_no_progress apply Kept.upd) | dsimp only

end Sys2Proof.Machine
end

