-- ==== Sys2Proof/Laws/KeptArbiters.lean ====
section
/-! SUPPORT. The operations of Machine/Arbiters.lean keep the queue and the canonical form of the memory. -/

set_option linter.unusedTactic false
set_option linter.unreachableTactic false
set_option linter.unusedSimpArgs false

namespace Sys2Proof.Machine

theorem countForced_kept {s0 : State} (s : State) (w : Option Bid)  (hK : Kept s0 s) : Kept s0 (countForced s w) := by
  unfold countForced
  repeat' first | (intro) | with_reducible (first | assumption | apply Kept.ite | apply setInt_kept | apply State.bump_kept | refine Kept.fst (by assumption) ?_ | fail_if_no_progress apply Kept.upd) | split | dsimp only

theorem presentTraining_kept {s0 : State} (s : State) (st : Nat) (ch : Nat)  (hK : Kept s0 s) : Kept s0 (presentTraining s st ch) := by
  unfold presentTraining
  repeat' first | (intro) | with_reducible (first | assumption | apply Kept.ite | apply State.modChan_kept | fail_if_no_progress apply Kept.upd) | split | dsimp only

theorem admitReq_kept {s0 : State} (s : State) (st : Nat) (ch : Nat) (m : Nat)  (hK : Kept s0 s) : Kept s0 (admitReq s st ch m) := by
  unfold admitReq
  repeat' first | (intro) | with_reducible (first | assumption | apply Kept.ite | apply State.bump_kept | apply State.modChan_kept | apply presentOwed_kept | refine Kept.fst (by assumption) ?_ | fail_if_no_progress apply Kept.upd) | split | dsimp only

theorem useAllowance_kept {s0 : State} (s : State) (st : Nat) (ch : Nat) (w : Option Bid) (guar : Nat → Nat)  (hK : Kept s0 s) : Kept s0 (useAllowance s st ch w guar) := by
  unfold useAllowance
  repeat' first | (intro) | with_reducible (first | assumption | apply Kept.ite | apply State.modChan_kept | apply setInt_kept | refine Kept.fst (by assumption) ?_ | fail_if_no_progress apply Kept.upd) | split | dsimp only

theorem admission_kept {s0 : State} (s : State) (st : Nat) (ch : Nat)  (hK : Kept s0 s) : Kept s0 (admission s st ch) := by
  unfold admission
  repeat' first | (intro) | with_reducible (first | assumption | apply Kept.ite | apply State.modChan_kept | apply State.bump_kept | apply presentTraining_kept | apply State.tick_kept | apply admitReq_kept | apply useAllowance_kept | apply countForced_kept | refine Kept.fst (by assumption) ?_ | fail_if_no_progress apply Kept.upd) | split | dsimp only

theorem execDramAdmissionDecision_kept {t : Cluster} {h : Chan} {s : State} {tt : State} (eK : execDramAdmissionDecision t h s = .next tt) : Kept s tt := by
  have hK : Kept s s := Kept.refl s
  unfold execDramAdmissionDecision at eK
  repeat' first | (simp only [ifApplies, Host.Outcome.next.injEq, reduceCtorEq] at eK) | (subst eK) | split at eK
  all_goals repeat' first | (intro) | with_reducible (first | assumption | apply admission_kept | fail_if_no_progress apply Kept.upd) | dsimp only

theorem plainCycle_kept {s0 : State} (s : State) (a : Arb) (n : Nat) (ms : List Nat) (cls : Nat → Nat) (masked : Nat → Bool)  (hK : Kept s0 s) : Kept s0 (plainCycle s a n ms cls masked).1 := by
  unfold plainCycle
  repeat' first | (intro) | with_reducible (first | assumption | apply Kept.ite | apply countForced_kept | apply State.bump_kept | refine Kept.fst (by assumption) ?_ | fail_if_no_progress apply Kept.upd) | split | dsimp only

theorem execLinkArbiterDecision_kept {die : Fin 2} {toHub : Bool} {asks : BitVec 15} {s : State} {tt : State} (eK : execLinkArbiterDecision die toHub asks s = .next tt) : Kept s tt := by
  have hK : Kept s s := Kept.refl s
  unfold execLinkArbiterDecision at eK
  repeat' first | (simp only [ifApplies, Host.Outcome.next.injEq, reduceCtorEq] at eK) | (subst eK) | split at eK
  all_goals repeat' first | (intro) | with_reducible (first | assumption | (refine Kept.fst (by assumption) ?_; apply plainCycle_kept) | apply plainCycle_kept | refine Kept.fst (by assumption) ?_ | fail_if_no_progress apply Kept.upd) | split | dsimp only

theorem execFlashArbiterDecision_kept {b : Bay} {ch : Fin 8} {asks : BitVec 5} {s : State} {tt : State} (eK : execFlashArbiterDecision b ch asks s = .next tt) : Kept s tt := by
  have hK : Kept s s := Kept.refl s
  unfold execFlashArbiterDecision at eK
  repeat' first | (simp only [ifApplies, Host.Outcome.next.injEq, reduceCtorEq] at eK) | (subst eK) | split at eK
  all_goals repeat' first | (intro) | with_reducible (first | assumption | apply Kept.ite | (refine Kept.fst (by assumption) ?_; apply plainCycle_kept) | apply plainCycle_kept | apply State.modBay_kept | apply State.tick_kept | refine Kept.fst (by assumption) ?_ | fail_if_no_progress apply Kept.upd) | split | dsimp only

theorem execMasterMaskChange_kept {m : Fin 15} {raised : Bool} {s : State} {tt : State} (eK : execMasterMaskChange m raised s = .next tt) : Kept s tt := by
  have hK : Kept s s := Kept.refl s
  unfold execMasterMaskChange at eK
  repeat' first | (simp only [ifApplies, Host.Outcome.next.injEq, reduceCtorEq] at eK) | (subst eK) | split at eK
  all_goals repeat' first | (intro) | with_reducible (first | assumption | apply Kept.ite | fail_if_no_progress apply Kept.upd) | split | dsimp only

theorem refill_kept {s0 : State} (s : State)  (hK : Kept s0 s) : Kept s0 (refill s) := by
  unfold refill
  repeat' first | (intro) | with_reducible (first | assumption | fail_if_no_progress apply Kept.upd) | split | dsimp only

theorem recomputeChans_kept {s0 : State} (s : State)  (hK : Kept s0 s) : Kept s0 (recomputeChans s) := by
  unfold recomputeChans
  repeat' first | (intro) | with_reducible (first | assumption | fail_if_no_progress apply Kept.upd) | dsimp only

theorem ledgerInChange_kept {s0 : State} (s : State)  (hK : Kept s0 s) : Kept s0 (ledgerInChange s) := by
  unfold ledgerInChange
  repeat' first | (intro) | with_reducible (first | assumption | apply Kept.ite | apply Kept.getD | apply loadCaps_kept | fail_if_no_progress apply Kept.upd) | split | dsimp only

theorem ledgerBoundary_kept {s0 : State} (s : State)  (hK : Kept s0 s) : Kept s0 (ledgerBoundary s) := by
  unfold ledgerBoundary
  repeat' first | (intro) | with_reducible (first | assumption | apply Kept.ite | apply Kept.foldl | apply Kept.getD | apply ledgerInChange_kept | apply recomputeChans_kept | apply raise_kept | apply Kept.foldl_fst | fail_if_no_progress apply Kept.upd) | split | dsimp only

theorem ledgerSetH_kept {s0 : State} (s : State) (m : MciCall) (hK : Kept s0 s) : Kept s0 (ledgerSetH s m).1 := by
  unfold ledgerSetH
  repeat' first | (intro) | with_reducible (first | assumption | apply Kept.ite | fail_if_no_progress apply Kept.upd) | split | dsimp only

theorem execLedgerSet_kept {via : Path} {input : List Byte} {s : State} {tt : State} (eK : execLedgerSet via input s = .next tt) : Kept s tt := by
  have hK : Kept s s := Kept.refl s
  unfold execLedgerSet at eK
  repeat' first | (simp only [ifApplies, Host.Outcome.next.injEq, reduceCtorEq] at eK) | (subst eK) | split at eK
  all_goals repeat' first | (intro) | with_reducible (first | assumption | apply mci_kept | apply ledgerSetH_kept | refine Kept.fst (by assumption) ?_ | fail_if_no_progress apply Kept.upd) | dsimp only

theorem ledgerQueryH_kept {s0 : State} (s : State) (m : MciCall) (hK : Kept s0 s) : Kept s0 (ledgerQueryH s m).1 := by
  unfold ledgerQueryH
  repeat' first | (intro) | with_reducible (first | assumption | refine Kept.fst (by assumption) ?_ | fail_if_no_progress apply Kept.upd) | split | dsimp only

theorem execLedgerQuery_kept {via : Path} {input : List Byte} {s : State} {tt : State} (eK : execLedgerQuery via input s = .next tt) : Kept s tt := by
  have hK : Kept s s := Kept.refl s
  unfold execLedgerQuery at eK
  repeat' first | (simp only [ifApplies, Host.Outcome.next.injEq, reduceCtorEq] at eK) | (subst eK) | split at eK
  all_goals repeat' first | (intro) | with_reducible (first | assumption | apply mci_kept | apply ledgerQueryH_kept | refine Kept.fst (by assumption) ?_ | fail_if_no_progress apply Kept.upd) | dsimp only

end Sys2Proof.Machine
end

