-- ==== Sys2Proof/Laws/KeptCxlMailbox.lean ====
section
/-! SUPPORT. The operations of Machine/CxlMailbox.lean keep the queue and the canonical form of the memory. -/

set_option linter.unusedTactic false
set_option linter.unreachableTactic false
set_option linter.unusedSimpArgs false

namespace Sys2Proof.Machine

theorem cxlCommand_kept {s0 : State} (s : State) (p : Port) (b : Bool) (okLen : Bool) (okInput : Bool) (f : State → State) (kf : ∀ (v0 : State), Kept s0 v0 → Kept s0 (f v0)) (hK : Kept s0 s) : Kept s0 (cxlCommand s p b okLen okInput f) := by
  unfold cxlCommand
  repeat' first | (intro) | with_reducible (first | assumption | apply Kept.ite | apply cxlAnswer_kept | apply kf | fail_if_no_progress apply Kept.upd) | split | dsimp only

theorem execIdentifyMemoryDevice_kept {p : Port} {secondary : Bool} {input : List Byte} {s : State} {tt : State} (eK : execIdentifyMemoryDevice p secondary input s = .next tt) : Kept s tt := by
  have hK : Kept s s := Kept.refl s
  unfold execIdentifyMemoryDevice at eK
  repeat' first | (simp only [ifApplies, Host.Outcome.next.injEq, reduceCtorEq] at eK) | (subst eK) | split at eK
  all_goals repeat' first | (intro) | with_reducible (first | assumption | apply cxlCommand_kept | apply cxlAnswer_kept | apply State.tick_kept | fail_if_no_progress apply Kept.upd) | dsimp only

theorem execGetSupportedLogs_kept {p : Port} {secondary : Bool} {input : List Byte} {s : State} {tt : State} (eK : execGetSupportedLogs p secondary input s = .next tt) : Kept s tt := by
  have hK : Kept s s := Kept.refl s
  unfold execGetSupportedLogs at eK
  repeat' first | (simp only [ifApplies, Host.Outcome.next.injEq, reduceCtorEq] at eK) | (subst eK) | split at eK
  all_goals repeat' first | (intro) | with_reducible (first | assumption | apply cxlCommand_kept | apply cxlAnswer_kept | fail_if_no_progress apply Kept.upd) | dsimp only

theorem getLogAnswer_kept {s0 : State} (s : State) (p : Port) (b : Bool) (input : List Byte)  (hK : Kept s0 s) : Kept s0 (getLogAnswer s p b input) := by
  unfold getLogAnswer
  repeat' first | (intro) | with_reducible (first | assumption | apply Kept.ite | apply cxlAnswer_kept | fail_if_no_progress apply Kept.upd) | split | dsimp only

theorem execGetLog_kept {p : Port} {secondary : Bool} {input : List Byte} {s : State} {tt : State} (eK : execGetLog p secondary input s = .next tt) : Kept s tt := by
  have hK : Kept s s := Kept.refl s
  unfold execGetLog at eK
  repeat' first | (simp only [ifApplies, Host.Outcome.next.injEq, reduceCtorEq] at eK) | (subst eK) | split at eK
  all_goals repeat' first | (intro) | with_reducible (first | assumption | apply cxlCommand_kept | apply getLogAnswer_kept | fail_if_no_progress apply Kept.upd) | dsimp only

theorem execGetEventRecords_kept {p : Port} {secondary : Bool} {input : List Byte} {s : State} {tt : State} (eK : execGetEventRecords p secondary input s = .next tt) : Kept s tt := by
  have hK : Kept s s := Kept.refl s
  unfold execGetEventRecords at eK
  repeat' first | (simp only [ifApplies, Host.Outcome.next.injEq, reduceCtorEq] at eK) | (subst eK) | split at eK
  all_goals repeat' first | (intro) | with_reducible (first | assumption | apply cxlCommand_kept | apply cxlAnswer_kept | refine Kept.fst (by assumption) ?_ | fail_if_no_progress apply Kept.upd) | split | dsimp only

theorem clearRecords_kept {s0 : State} (s : State) (p : Port) (b : Bool) (input : List Byte) (k : LogKind)  (hK : Kept s0 s) : Kept s0 (clearRecords s p b input k) := by
  unfold clearRecords
  repeat' first | (intro) | with_reducible (first | assumption | apply Kept.ite | apply cxlAnswer_kept | apply State.modPort_kept | fail_if_no_progress apply Kept.upd) | split | dsimp only

theorem execClearEventRecords_kept {p : Port} {secondary : Bool} {input : List Byte} {s : State} {tt : State} (eK : execClearEventRecords p secondary input s = .next tt) : Kept s tt := by
  have hK : Kept s s := Kept.refl s
  unfold execClearEventRecords at eK
  repeat' first | (simp only [ifApplies, Host.Outcome.next.injEq, reduceCtorEq] at eK) | (subst eK) | split at eK
  all_goals repeat' first | (intro) | with_reducible (first | assumption | apply cxlCommand_kept | apply clearRecords_kept | refine Kept.fst (by assumption) ?_ | fail_if_no_progress apply Kept.upd) | split | dsimp only

theorem execGetEventInterruptPolicy_kept {p : Port} {secondary : Bool} {input : List Byte} {s : State} {tt : State} (eK : execGetEventInterruptPolicy p secondary input s = .next tt) : Kept s tt := by
  have hK : Kept s s := Kept.refl s
  unfold execGetEventInterruptPolicy at eK
  repeat' first | (simp only [ifApplies, Host.Outcome.next.injEq, reduceCtorEq] at eK) | (subst eK) | split at eK
  all_goals repeat' first | (intro) | with_reducible (first | assumption | apply Kept.ite | apply Kept.getD | apply cxlCommand_kept | apply cxlAnswer_kept | fail_if_no_progress apply Kept.upd) | split | dsimp only

theorem execSetEventInterruptPolicy_kept {p : Port} {secondary : Bool} {input : List Byte} {s : State} {tt : State} (eK : execSetEventInterruptPolicy p secondary input s = .next tt) : Kept s tt := by
  have hK : Kept s s := Kept.refl s
  unfold execSetEventInterruptPolicy at eK
  repeat' first | (simp only [ifApplies, Host.Outcome.next.injEq, reduceCtorEq] at eK) | (subst eK) | split at eK
  all_goals repeat' first | (intro) | with_reducible (first | assumption | apply cxlCommand_kept | apply cxlAnswer_kept | apply State.modPort_kept | fail_if_no_progress apply Kept.upd) | dsimp only

theorem execGetTimestamp_kept {p : Port} {secondary : Bool} {input : List Byte} {s : State} {tt : State} (eK : execGetTimestamp p secondary input s = .next tt) : Kept s tt := by
  have hK : Kept s s := Kept.refl s
  unfold execGetTimestamp at eK
  repeat' first | (simp only [ifApplies, Host.Outcome.next.injEq, reduceCtorEq] at eK) | (subst eK) | split at eK
  all_goals repeat' first | (intro) | with_reducible (first | assumption | apply cxlCommand_kept | apply cxlAnswer_kept | fail_if_no_progress apply Kept.upd) | dsimp only

theorem execSetTimestamp_kept {p : Port} {secondary : Bool} {input : List Byte} {s : State} {tt : State} (eK : execSetTimestamp p secondary input s = .next tt) : Kept s tt := by
  have hK : Kept s s := Kept.refl s
  unfold execSetTimestamp at eK
  repeat' first | (simp only [ifApplies, Host.Outcome.next.injEq, reduceCtorEq] at eK) | (subst eK) | split at eK
  all_goals repeat' first | (intro) | with_reducible (first | assumption | apply cxlCommand_kept | apply cxlAnswer_kept | fail_if_no_progress apply Kept.upd) | dsimp only

theorem execGetDcConfiguration_kept {p : Port} {secondary : Bool} {input : List Byte} {s : State} {tt : State} (eK : execGetDcConfiguration p secondary input s = .next tt) : Kept s tt := by
  have hK : Kept s s := Kept.refl s
  unfold execGetDcConfiguration at eK
  repeat' first | (simp only [ifApplies, Host.Outcome.next.injEq, reduceCtorEq] at eK) | (subst eK) | split at eK
  all_goals repeat' first | (intro) | with_reducible (first | assumption | apply cxlCommand_kept | apply cxlAnswer_kept | apply State.tick_kept | fail_if_no_progress apply Kept.upd) | dsimp only

theorem execGetDcExtentList_kept {p : Port} {secondary : Bool} {input : List Byte} {s : State} {tt : State} (eK : execGetDcExtentList p secondary input s = .next tt) : Kept s tt := by
  have hK : Kept s s := Kept.refl s
  unfold execGetDcExtentList at eK
  repeat' first | (simp only [ifApplies, Host.Outcome.next.injEq, reduceCtorEq] at eK) | (subst eK) | split at eK
  all_goals repeat' first | (intro) | with_reducible (first | assumption | apply Kept.ite | apply cxlForCtx_kept | apply cxlAnswer_kept | apply State.tick_kept | fail_if_no_progress apply Kept.upd) | split | dsimp only

end Sys2Proof.Machine
end

