-- ==== Sys2Proof/Laws/KeptRegisters.lean ====
section
/-! SUPPORT. The operations of Machine/Registers.lean keep the queue and the canonical form of the memory. -/

set_option linter.unusedTactic false
set_option linter.unreachableTactic false
set_option linter.unusedSimpArgs false

namespace Sys2Proof.Machine

theorem enableWrite_kept {s0 : State} (s : State) (b : Nat) (value : Nat)  (hK : Kept s0 s) : Kept s0 (enableWrite s b value) := by
  unfold enableWrite
  repeat' first | (intro) | with_reducible (first | assumption | apply Kept.ite | apply Kept.getD | apply sendMgmt_kept | apply sendAlerts_kept | fail_if_no_progress apply Kept.upd) | split | dsimp only

theorem writeEffect_kept {s0 : State} (s : State) (off : Nat) (value : Nat)  (hK : Kept s0 s) : Kept s0 (writeEffect s off value) := by
  unfold writeEffect
  repeat' first | (intro) | with_reducible (first | assumption | apply Kept.ite | apply State.modPort_kept | apply checkFlash_kept | fail_if_no_progress apply Kept.upd) | split | dsimp only

theorem keepBuckets_kept {s0 : State} (s : State) (m : Nat) (value : Nat)  (hK : Kept s0 s) : Kept s0 (keepBuckets s m value) := by
  unfold keepBuckets
  repeat' first | (intro) | with_reducible (first | assumption | apply Kept.ite | fail_if_no_progress apply Kept.upd) | split | dsimp only

theorem writeReg_kept {s0 : State} (s : State) (off : Nat) (width : Nat) (value : Nat)  (hK : Kept s0 s) : Kept s0 (writeReg s off width value) := by
  unfold writeReg
  repeat' first | (intro) | with_reducible (first | assumption | apply Kept.ite | apply enableWrite_kept | apply keepBuckets_kept | apply writeEffect_kept | refine Kept.fst (by assumption) ?_ | fail_if_no_progress apply Kept.upd) | split | dsimp only

theorem writeDoorbell_kept {s0 : State} (s : State) (c : Ctx) (off : Nat) (width : Nat) (value : Nat)  (hK : Kept s0 s) : Kept s0 (writeDoorbell s c off width value) := by
  unfold writeDoorbell
  repeat' first | (intro) | with_reducible (first | assumption | apply Kept.ite | apply enableRings_kept | apply setOrders_kept | apply disableRings_kept | apply State.modCtx_kept | apply doorbell_kept | apply headWrite_kept | apply sendMsix_kept | refine Kept.fst (by assumption) ?_ | fail_if_no_progress apply Kept.upd) | split | dsimp only

theorem writeDecoder_kept {s0 : State} (s : State) (c : Ctx) (off : Nat) (width : Nat) (value : Nat)  (hK : Kept s0 s) : Kept s0 (writeDecoder s c off width value) := by
  unfold writeDecoder
  repeat' first | (intro) | with_reducible (first | assumption | apply Kept.ite | apply State.modCtx_kept | apply stageCommit_kept | refine Kept.fst (by assumption) ?_ | fail_if_no_progress apply Kept.upd) | split | dsimp only

theorem hostRegWrite_kept {s0 : State} (s : State) (sp : RegSpace) (off : Nat) (width : Nat) (value : Nat)  (hK : Kept s0 s) : Kept s0 (hostRegWrite s sp off width value) := by
  unfold hostRegWrite
  repeat' first | (intro) | with_reducible (first | assumption | apply Kept.ite | apply writeReg_kept | apply State.modMbox_kept | apply writeDoorbell_kept | apply writeDecoder_kept | refine Kept.fst (by assumption) ?_ | fail_if_no_progress apply Kept.upd) | split | dsimp only

theorem execRegisterWrite_kept {sp : RegSpace} {offset : BitVec 22} {bytes : BitVec 4} {value : DWord} {s : State} {tt : State} (eK : execRegisterWrite sp offset bytes value s = .next tt) : Kept s tt := by
  have hK : Kept s s := Kept.refl s
  unfold execRegisterWrite at eK
  repeat' first | (simp only [ifApplies, Host.Outcome.next.injEq, reduceCtorEq] at eK) | (subst eK) | split at eK
  all_goals repeat' first | (intro) | with_reducible (first | assumption | apply hostRegWrite_kept | fail_if_no_progress apply Kept.upd) | dsimp only

theorem execIntEnableWrite_kept {p : Port} {block : Fin 14} {value : Word} {s : State} {tt : State} (eK : execIntEnableWrite p block value s = .next tt) : Kept s tt := by
  have hK : Kept s s := Kept.refl s
  unfold execIntEnableWrite at eK
  repeat' first | (simp only [ifApplies, Host.Outcome.next.injEq, reduceCtorEq] at eK) | (subst eK) | split at eK
  all_goals repeat' first | (intro) | with_reducible (first | assumption | apply hostRegWrite_kept | fail_if_no_progress apply Kept.upd) | dsimp only

theorem regReadH_kept {s0 : State} (s : State) (m : MciCall) (hK : Kept s0 s) : Kept s0 (regReadH s m).1 := by
  unfold regReadH
  repeat' first | (intro) | with_reducible (first | assumption | apply Kept.ite | fail_if_no_progress apply Kept.upd) | split | dsimp only

theorem execRegRead_kept {via : Path} {input : List Byte} {s : State} {tt : State} (eK : execRegRead via input s = .next tt) : Kept s tt := by
  have hK : Kept s s := Kept.refl s
  unfold execRegRead at eK
  repeat' first | (simp only [ifApplies, Host.Outcome.next.injEq, reduceCtorEq] at eK) | (subst eK) | split at eK
  all_goals repeat' first | (intro) | with_reducible (first | assumption | apply mci_kept | apply regReadH_kept | refine Kept.fst (by assumption) ?_ | fail_if_no_progress apply Kept.upd) | dsimp only

theorem regWriteH_kept {s0 : State} (s : State) (m : MciCall) (hK : Kept s0 s) : Kept s0 (regWriteH s m).1 := by
  unfold regWriteH
  repeat' first | (intro) | with_reducible (first | assumption | apply Kept.ite | apply writeReg_kept | fail_if_no_progress apply Kept.upd) | split | dsimp only

theorem execRegWrite_kept {via : Path} {input : List Byte} {s : State} {tt : State} (eK : execRegWrite via input s = .next tt) : Kept s tt := by
  have hK : Kept s s := Kept.refl s
  unfold execRegWrite at eK
  repeat' first | (simp only [ifApplies, Host.Outcome.next.injEq, reduceCtorEq] at eK) | (subst eK) | split at eK
  all_goals repeat' first | (intro) | with_reducible (first | assumption | apply mci_kept | apply regWriteH_kept | refine Kept.fst (by assumption) ?_ | fail_if_no_progress apply Kept.upd) | dsimp only

end Sys2Proof.Machine
end

