-- ==== Sys2Proof/Laws/KeptBoundary.lean ====
section
/-! SUPPORT. The operations of Machine/Boundary.lean keep the queue and the canonical form of the memory. -/

set_option linter.unusedTactic false
set_option linter.unreachableTactic false
set_option linter.unusedSimpArgs false

namespace Sys2Proof.Machine

theorem timeBoundary_kept {s0 : State} (s : State)  (hK : Kept s0 s) : Kept s0 (timeBoundary s) := by
  unfold timeBoundary
  repeat' first | (intro) | with_reducible (first | assumption | apply Kept.ite | apply Kept.foldl | apply renumberChange_kept | apply renumberNow_kept | apply timeStep_kept | apply beginChange_kept | apply endChange_kept | apply renumberCue_kept | apply Kept.foldl_fst | fail_if_no_progress apply Kept.upd) | split | dsimp only

theorem revasBoundary_kept {s0 : State} (s : State)  (hK : Kept s0 s) : Kept s0 (revasBoundary s) := by
  unfold revasBoundary
  repeat' first | (intro) | with_reducible (first | assumption | apply Kept.ite | apply Kept.foldl | apply State.modPort_kept | apply Kept.foldl_fst | fail_if_no_progress apply Kept.upd) | split | dsimp only

theorem latchRegs_kept {s0 : State} (s : State)  (hK : Kept s0 s) : Kept s0 (latchRegs s) := by
  unfold latchRegs
  repeat' first | (intro) | with_reducible (first | assumption | apply revasBoundary_kept | fail_if_no_progress apply Kept.upd) | dsimp only

theorem powerBoundary_kept {s0 : State} (s : State)  (hK : Kept s0 s) : Kept s0 (powerBoundary s) := by
  unfold powerBoundary
  repeat' first | (intro) | with_reducible (first | assumption | apply portsBoundary_kept | apply domsBoundary_kept | apply inputBoundary_kept | apply refreshBoundary_kept | apply throttleBoundary_kept | fail_if_no_progress apply Kept.upd) | dsimp only

theorem commitBoundary_kept {s0 : State} (s : State)  (hK : Kept s0 s) : Kept s0 (commitBoundary s) := by
  unfold commitBoundary
  repeat' first | (intro) | with_reducible (first | assumption | apply stageReleases_kept | apply commitSources_kept | apply boundaryCommits_kept | fail_if_no_progress apply Kept.upd) | dsimp only

theorem endStep_kept {s0 : State} (s : State) (x : Nat × Cue)  (hK : Kept s0 s) : Kept s0 (endStep s x) := by
  unfold endStep
  repeat' first | (intro) | with_reducible (first | assumption | apply Kept.ite | apply unpinPages_kept | apply testEnds_kept | apply completeRun_kept | refine Kept.fst (by assumption) ?_ | fail_if_no_progress apply Kept.upd) | split | dsimp only

theorem stepsEnd_kept {s0 : State} (s : State)  (hK : Kept s0 s) : Kept s0 (stepsEnd s) := by
  unfold stepsEnd
  repeat' first | (intro) | with_reducible (first | assumption | apply Kept.foldl | apply endStep_kept | apply overrunHangs_kept | apply Kept.foldl_fst | fail_if_no_progress apply Kept.upd) | split | dsimp only

theorem spillRow_kept {s0 : State} (s : State) (q : Cue) (b : Binding) (p : Pattern) (k : Nat) (i : Nat) (j : Nat) (sd : ClaimStream) (w : IndRow)  (hK : Kept s0 s) : Kept s0 (spillRow s q b p k i j sd w) := by
  unfold spillRow
  repeat' first | (intro) | with_reducible (first | assumption | apply Kept.foldl | apply presentReq_kept | apply moveRow_kept | refine Kept.fst (by assumption) ?_ | apply Kept.foldl_fst | fail_if_no_progress apply Kept.upd) | split | dsimp only

theorem spillRun_kept {s0 : State} (s : State) (r : Nat)  (hK : Kept s0 s) : Kept s0 (spillRun s r) := by
  unfold spillRun
  repeat' first | (intro) | with_reducible (first | assumption | apply Kept.ite | apply Kept.foldl | apply countSpills_kept | apply spillRow_kept | refine Kept.fst (by assumption) ?_ | apply Kept.foldl_fst | fail_if_no_progress apply Kept.upd) | split | dsimp only

theorem latchCues_kept {s0 : State} (s : State)  (hK : Kept s0 s) : Kept s0 (latchCues s) := by
  unfold latchCues
  repeat' first | (intro) | with_reducible (first | assumption | apply Kept.ite | fail_if_no_progress apply Kept.upd) | split | dsimp only

theorem deferStart_kept {s0 : State} (s : State) (r : Nat) (key : Nat)  (hK : Kept s0 s) : Kept s0 (deferStart s r key) := by
  unfold deferStart
  repeat' first | (intro) | with_reducible (first | assumption | apply Kept.ite | apply State.modRv_kept | fail_if_no_progress apply Kept.upd) | split | dsimp only

theorem sampleRun_kept {s0 : State} (s : State) (r : Nat)  (hK : Kept s0 s) : Kept s0 (sampleRun s r) := by
  unfold sampleRun
  repeat' first | (intro) | with_reducible (first | assumption | apply Kept.ite | apply sampleStep_kept | apply sampleAhead_kept | fail_if_no_progress apply Kept.upd) | split | dsimp only

theorem samples_kept {s0 : State} (s : State)  (hK : Kept s0 s) : Kept s0 (samples s) := by
  unfold samples
  repeat' first | (intro) | with_reducible (first | assumption | apply Kept.foldl | apply sampleRun_kept | apply Kept.foldl_fst | fail_if_no_progress apply Kept.upd) | dsimp only

theorem starts_kept {s0 : State} (s : State)  (hK : Kept s0 s) : Kept s0 (starts s) := by
  unfold starts
  repeat' first | (intro) | with_reducible (first | assumption | apply Kept.ite | apply Kept.foldl | apply deferStart_kept | apply startStep_kept | refine Kept.fst (by assumption) ?_ | apply Kept.foldl_fst | fail_if_no_progress apply Kept.upd) | split | dsimp only

theorem patternBoundary_kept {s0 : State} (s : State)  (hK : Kept s0 s) : Kept s0 (patternBoundary s) := by
  unfold patternBoundary
  repeat' first | (intro) | with_reducible (first | assumption | apply Kept.ite | apply Kept.foldl | apply stepsEnd_kept | apply spillRun_kept | apply starts_kept | apply samples_kept | apply latchCues_kept | apply Kept.foldl_fst | fail_if_no_progress apply Kept.upd) | split | dsimp only

theorem xwaitBoundary_kept {s0 : State} (s : State)  (hK : Kept s0 s) : Kept s0 (xwaitBoundary s) := by
  unfold xwaitBoundary
  repeat' first | (intro) | with_reducible (first | assumption | fail_if_no_progress apply Kept.upd) | split | dsimp only

theorem stackBoundary_kept {s0 : State} (s : State)  (hK : Kept s0 s) : Kept s0 (stackBoundary s) := by
  unfold stackBoundary
  repeat' first | (intro) | with_reducible (first | assumption | apply Kept.getD | fail_if_no_progress apply Kept.upd) | dsimp only

theorem commitFuse_kept {s0 : State} (s : State) (st : Nat) (ch : Nat) (key : Nat)  (hK : Kept s0 s) : Kept s0 (commitFuse s st ch key) := by
  unfold commitFuse
  repeat' first | (intro) | with_reducible (first | assumption | apply raise_kept | apply State.modFuse_kept | apply State.modChan_kept | apply startFuse_kept | refine Kept.fst (by assumption) ?_ | fail_if_no_progress apply Kept.upd) | split | dsimp only

theorem fuseBoundary_kept {s0 : State} (s : State)  (hK : Kept s0 s) : Kept s0 (fuseBoundary s) := by
  unfold fuseBoundary
  repeat' first | (intro) | with_reducible (first | assumption | apply Kept.foldl | apply fuseFrame_kept | apply commitFuse_kept | apply Kept.foldl_fst | fail_if_no_progress apply Kept.upd) | dsimp only

theorem mediaEvent_kept {s0 : State} (s : State) (e : EvDef) (c : Option Ctx) (words : List Word) (isSeal : Bool)  (hK : Kept s0 s) : Kept s0 (mediaEvent s e c words isSeal) := by
  unfold mediaEvent
  repeat' first | (intro) | with_reducible (first | assumption | apply Kept.ite | apply Kept.getD | apply raise_kept | apply logAll_kept | fail_if_no_progress apply Kept.upd) | split | dsimp only

theorem raiseMerged_kept {s0 : State} (s : State) (m : Nat × Nat × Nat × List Word)  (hK : Kept s0 s) : Kept s0 (raiseMerged s m) := by
  unfold raiseMerged
  repeat' first | (intro) | with_reducible (first | assumption | apply Kept.getD | apply mediaEvent_kept | apply raise_kept | refine Kept.fst (by assumption) ?_ | fail_if_no_progress apply Kept.upd) | split | dsimp only

theorem eventBoundary_kept {s0 : State} (s : State)  (hK : Kept s0 s) : Kept s0 (eventBoundary s) := by
  unfold eventBoundary
  repeat' first | (intro) | with_reducible (first | assumption | apply Kept.foldl | apply raiseMerged_kept | apply Kept.foldl_fst | fail_if_no_progress apply Kept.upd) | dsimp only

theorem serviceBoundary_kept {s0 : State} (s : State)  (hK : Kept s0 s) : Kept s0 (serviceBoundary s) := by
  unfold serviceBoundary
  repeat' first | (intro) | with_reducible (first | assumption | apply ledgerBoundary_kept | apply refill_kept | apply stackBoundary_kept | apply pagesChanged_kept | apply eagerRecall_kept | apply newHeads_kept | apply tieringBoundary_kept | apply eventBoundary_kept | apply fuseBoundary_kept | apply startWalks_kept | apply xwaitBoundary_kept | apply State.modRv_kept | fail_if_no_progress apply Kept.upd) | dsimp only

theorem frameBoundary_kept {s0 : State} (s : State)  (hK : Kept s0 s) : Kept s0 (frameBoundary s) := by
  unfold frameBoundary
  repeat' first | (intro) | with_reducible (first | assumption | apply Kept.ite | apply advanceTime_kept | apply State.bump_kept | apply serviceBoundary_kept | apply patternBoundary_kept | apply powerBoundary_kept | apply commitBoundary_kept | apply timeBoundary_kept | apply unpickBoundary_kept | apply latchRegs_kept | fail_if_no_progress apply Kept.upd) | split | dsimp only

theorem execFrameBoundary_kept {s : State} {tt : State} (eK : execFrameBoundary s = .next tt) : Kept s tt := by
  have hK : Kept s s := Kept.refl s
  unfold execFrameBoundary at eK
  repeat' first | (simp only [ifApplies, Host.Outcome.next.injEq, reduceCtorEq] at eK) | (subst eK) | split at eK
  all_goals repeat' first | (intro) | with_reducible (first | assumption | apply frameBoundary_kept | fail_if_no_progress apply Kept.upd) | dsimp only

end Sys2Proof.Machine
end

