-- ==== Sys2Proof/Laws/KeptSField.lean ====
section
/-! SUPPORT. The operations of Machine/SField.lean keep the queue and the canonical form of the memory. -/

set_option linter.unusedTactic false
set_option linter.unreachableTactic false
set_option linter.unusedSimpArgs false

namespace Sys2Proof.Machine

theorem onS_kept {i : Instr} {k : CoreId} {interval : Nat} {f : CoreState → CoreState} {s : State} {tt : State} (eK : onS i k interval f s = .next tt) : Kept s tt := by
  have hK : Kept s s := Kept.refl s
  unfold onS at eK
  repeat' first | (simp only [ifApplies, Host.Outcome.next.injEq, reduceCtorEq] at eK) | (subst eK) | split at eK
  all_goals repeat' first | (intro) | with_reducible (first | assumption | apply State.issue_kept | fail_if_no_progress apply Kept.upd) | dsimp only

theorem onFpArith_kept {i : Instr} {op : Nat} {srcs : SField → List (BitVec 5)} {k : CoreId} {f : SField} {s : State} {tt : State} (eK : onFpArith i op srcs k f s = .next tt) : Kept s tt := by
  have hK : Kept s s := Kept.refl s
  unfold onFpArith at eK
  repeat' first | exact onS_kept eK | (simp only [ifApplies, Host.Outcome.next.injEq, reduceCtorEq] at eK) | (subst eK) | split at eK
  all_goals repeat' first | (intro) | with_reducible (first | assumption | apply Kept.getD | fail_if_no_progress apply Kept.upd) | dsimp only

theorem onFpRoot_kept {i : Instr} {op : Nat} {srcs : SField → List (BitVec 5)} {k : CoreId} {f : SField} {s : State} {tt : State} (eK : onFpRoot i op srcs k f s = .next tt) : Kept s tt := by
  have hK : Kept s s := Kept.refl s
  unfold onFpRoot at eK
  repeat' first | exact onS_kept eK | (simp only [ifApplies, Host.Outcome.next.injEq, reduceCtorEq] at eK) | (subst eK) | split at eK
  all_goals repeat' first | (intro) | with_reducible (first | assumption | apply Kept.getD | fail_if_no_progress apply Kept.upd) | dsimp only

theorem onPlain_kept {i : Instr} {srcs : SField → List (BitVec 5)} {g : Nat → Nat → Nat} {k : CoreId} {f : SField} {s : State} {tt : State} (eK : onPlain i srcs g k f s = .next tt) : Kept s tt := by
  have hK : Kept s s := Kept.refl s
  unfold onPlain at eK
  repeat' first | exact onS_kept eK | (simp only [ifApplies, Host.Outcome.next.injEq, reduceCtorEq] at eK) | (subst eK) | split at eK
  all_goals repeat' first | (intro) | with_reducible (first | assumption | apply Kept.getD | fail_if_no_progress apply Kept.upd) | dsimp only

theorem onCompare_kept {i : Instr} {name : String} {op : Nat} {k : CoreId} {ty : LaneType} {f : SField} {s : State} {tt : State} (eK : onCompare i name op k ty f s = .next tt) : Kept s tt := by
  have hK : Kept s s := Kept.refl s
  unfold onCompare at eK
  repeat' first | exact onS_kept eK | (simp only [ifApplies, Host.Outcome.next.injEq, reduceCtorEq] at eK) | (subst eK) | split at eK
  all_goals repeat' first | (intro) | with_reducible (first | assumption | refine Kept.fst (by assumption) ?_ | fail_if_no_progress apply Kept.upd) | split | dsimp only

theorem onInt_kept {i : Instr} {name : String} {op : Nat} {lat : Nat} {k : CoreId} {ty : LaneType} {f : SField} {s : State} {tt : State} (eK : onInt i name op lat k ty f s = .next tt) : Kept s tt := by
  have hK : Kept s s := Kept.refl s
  unfold onInt at eK
  repeat' first | exact onS_kept eK | (simp only [ifApplies, Host.Outcome.next.injEq, reduceCtorEq] at eK) | (subst eK) | split at eK
  all_goals repeat' first | (intro) | with_reducible (first | assumption | apply Kept.getD | refine Kept.fst (by assumption) ?_ | fail_if_no_progress apply Kept.upd) | split | dsimp only

theorem onBit_kept {i : Instr} {op : Nat} {srcs : SField → List (BitVec 5)} {k : CoreId} {f : SField} {s : State} {tt : State} (eK : onBit i op srcs k f s = .next tt) : Kept s tt := by
  have hK : Kept s s := Kept.refl s
  unfold onBit at eK
  repeat' first | exact onPlain_kept eK | (simp only [ifApplies, Host.Outcome.next.injEq, reduceCtorEq] at eK) | (subst eK) | split at eK
  all_goals repeat' first | (intro) | with_reducible (first | assumption | fail_if_no_progress apply Kept.upd) | dsimp only

theorem onReduce_kept {i : Instr} {name : String} {op : Nat} {k : CoreId} {ty : LaneType} {f : SField} {s : State} {tt : State} (eK : onReduce i name op k ty f s = .next tt) : Kept s tt := by
  have hK : Kept s s := Kept.refl s
  unfold onReduce at eK
  repeat' first | exact onS_kept eK | (simp only [ifApplies, Host.Outcome.next.injEq, reduceCtorEq] at eK) | (subst eK) | split at eK
  all_goals repeat' first | (intro) | with_reducible (first | assumption | refine Kept.fst (by assumption) ?_ | fail_if_no_progress apply Kept.upd) | split | dsimp only

theorem onAtomic_kept {i : Instr} {op : Nat} {k : CoreId} {ty : LaneType} {f : SField} {s : State} {tt : State} (eK : onAtomic i op k ty f s = .next tt) : Kept s tt := by
  have hK : Kept s s := Kept.refl s
  unfold onAtomic at eK
  repeat' first | exact onS_kept eK | (simp only [ifApplies, Host.Outcome.next.injEq, reduceCtorEq] at eK) | (subst eK) | split at eK
  all_goals repeat' first | (intro) | with_reducible (first | assumption | fail_if_no_progress apply Kept.upd) | dsimp only

theorem execSnop_kept {k : CoreId} {s : State} {tt : State} (eK : execSnop k s = .next tt) : Kept s tt := by
  have hK : Kept s s := Kept.refl s
  unfold execSnop at eK
  repeat' first | (simp only [ifApplies, Host.Outcome.next.injEq, reduceCtorEq] at eK) | (subst eK) | split at eK
  all_goals repeat' first | (intro) | with_reducible (first | assumption | apply State.issue_kept | fail_if_no_progress apply Kept.upd) | dsimp only

theorem execFpAdd_kept {k : CoreId} {f : SField} {s : State} {tt : State} (eK : execFpAdd k f s = .next tt) : Kept s tt := by
  have hK : Kept s s := Kept.refl s
  unfold execFpAdd at eK
  repeat' first | exact onFpArith_kept eK | (simp only [ifApplies, Host.Outcome.next.injEq, reduceCtorEq] at eK) | (subst eK) | split at eK
  all_goals repeat' first | (intro) | with_reducible (first | assumption | fail_if_no_progress apply Kept.upd) | dsimp only

theorem execFpSubtract_kept {k : CoreId} {f : SField} {s : State} {tt : State} (eK : execFpSubtract k f s = .next tt) : Kept s tt := by
  have hK : Kept s s := Kept.refl s
  unfold execFpSubtract at eK
  repeat' first | exact onFpArith_kept eK | (simp only [ifApplies, Host.Outcome.next.injEq, reduceCtorEq] at eK) | (subst eK) | split at eK
  all_goals repeat' first | (intro) | with_reducible (first | assumption | fail_if_no_progress apply Kept.upd) | dsimp only

theorem execFpMultiply_kept {k : CoreId} {f : SField} {s : State} {tt : State} (eK : execFpMultiply k f s = .next tt) : Kept s tt := by
  have hK : Kept s s := Kept.refl s
  unfold execFpMultiply at eK
  repeat' first | exact onFpArith_kept eK | (simp only [ifApplies, Host.Outcome.next.injEq, reduceCtorEq] at eK) | (subst eK) | split at eK
  all_goals repeat' first | (intro) | with_reducible (first | assumption | fail_if_no_progress apply Kept.upd) | dsimp only

theorem execFpFusedMultiplyAdd_kept {k : CoreId} {f : SField} {s : State} {tt : State} (eK : execFpFusedMultiplyAdd k f s = .next tt) : Kept s tt := by
  have hK : Kept s s := Kept.refl s
  unfold execFpFusedMultiplyAdd at eK
  repeat' first | exact onFpArith_kept eK | (simp only [ifApplies, Host.Outcome.next.injEq, reduceCtorEq] at eK) | (subst eK) | split at eK
  all_goals repeat' first | (intro) | with_reducible (first | assumption | fail_if_no_progress apply Kept.upd) | dsimp only

theorem execFpDivide_kept {k : CoreId} {f : SField} {s : State} {tt : State} (eK : execFpDivide k f s = .next tt) : Kept s tt := by
  have hK : Kept s s := Kept.refl s
  unfold execFpDivide at eK
  repeat' first | exact onFpRoot_kept eK | (simp only [ifApplies, Host.Outcome.next.injEq, reduceCtorEq] at eK) | (subst eK) | split at eK
  all_goals repeat' first | (intro) | with_reducible (first | assumption | fail_if_no_progress apply Kept.upd) | dsimp only

theorem execFpSquareRoot_kept {k : CoreId} {f : SField} {s : State} {tt : State} (eK : execFpSquareRoot k f s = .next tt) : Kept s tt := by
  have hK : Kept s s := Kept.refl s
  unfold execFpSquareRoot at eK
  repeat' first | exact onFpRoot_kept eK | (simp only [ifApplies, Host.Outcome.next.injEq, reduceCtorEq] at eK) | (subst eK) | split at eK
  all_goals repeat' first | (intro) | with_reducible (first | assumption | fail_if_no_progress apply Kept.upd) | dsimp only

theorem execFpReciprocal_kept {k : CoreId} {f : SField} {s : State} {tt : State} (eK : execFpReciprocal k f s = .next tt) : Kept s tt := by
  have hK : Kept s s := Kept.refl s
  unfold execFpReciprocal at eK
  repeat' first | exact onFpRoot_kept eK | (simp only [ifApplies, Host.Outcome.next.injEq, reduceCtorEq] at eK) | (subst eK) | split at eK
  all_goals repeat' first | (intro) | with_reducible (first | assumption | fail_if_no_progress apply Kept.upd) | dsimp only

theorem execFpReciprocalSquareRoot_kept {k : CoreId} {f : SField} {s : State} {tt : State} (eK : execFpReciprocalSquareRoot k f s = .next tt) : Kept s tt := by
  have hK : Kept s s := Kept.refl s
  unfold execFpReciprocalSquareRoot at eK
  repeat' first | exact onFpRoot_kept eK | (simp only [ifApplies, Host.Outcome.next.injEq, reduceCtorEq] at eK) | (subst eK) | split at eK
  all_goals repeat' first | (intro) | with_reducible (first | assumption | fail_if_no_progress apply Kept.upd) | dsimp only

theorem execFpMinimum_kept {k : CoreId} {f : SField} {s : State} {tt : State} (eK : execFpMinimum k f s = .next tt) : Kept s tt := by
  have hK : Kept s s := Kept.refl s
  unfold execFpMinimum at eK
  repeat' first | exact onPlain_kept eK | (simp only [ifApplies, Host.Outcome.next.injEq, reduceCtorEq] at eK) | (subst eK) | split at eK
  all_goals repeat' first | (intro) | with_reducible (first | assumption | fail_if_no_progress apply Kept.upd) | dsimp only

theorem execFpMaximum_kept {k : CoreId} {f : SField} {s : State} {tt : State} (eK : execFpMaximum k f s = .next tt) : Kept s tt := by
  have hK : Kept s s := Kept.refl s
  unfold execFpMaximum at eK
  repeat' first | exact onPlain_kept eK | (simp only [ifApplies, Host.Outcome.next.injEq, reduceCtorEq] at eK) | (subst eK) | split at eK
  all_goals repeat' first | (intro) | with_reducible (first | assumption | fail_if_no_progress apply Kept.upd) | dsimp only

theorem execFpAbsoluteValue_kept {k : CoreId} {f : SField} {s : State} {tt : State} (eK : execFpAbsoluteValue k f s = .next tt) : Kept s tt := by
  have hK : Kept s s := Kept.refl s
  unfold execFpAbsoluteValue at eK
  repeat' first | exact onPlain_kept eK | (simp only [ifApplies, Host.Outcome.next.injEq, reduceCtorEq] at eK) | (subst eK) | split at eK
  all_goals repeat' first | (intro) | with_reducible (first | assumption | fail_if_no_progress apply Kept.upd) | dsimp only

theorem execFpNegate_kept {k : CoreId} {f : SField} {s : State} {tt : State} (eK : execFpNegate k f s = .next tt) : Kept s tt := by
  have hK : Kept s s := Kept.refl s
  unfold execFpNegate at eK
  repeat' first | exact onPlain_kept eK | (simp only [ifApplies, Host.Outcome.next.injEq, reduceCtorEq] at eK) | (subst eK) | split at eK
  all_goals repeat' first | (intro) | with_reducible (first | assumption | fail_if_no_progress apply Kept.upd) | dsimp only

theorem execFpCopySign_kept {k : CoreId} {f : SField} {s : State} {tt : State} (eK : execFpCopySign k f s = .next tt) : Kept s tt := by
  have hK : Kept s s := Kept.refl s
  unfold execFpCopySign at eK
  repeat' first | exact onPlain_kept eK | (simp only [ifApplies, Host.Outcome.next.injEq, reduceCtorEq] at eK) | (subst eK) | split at eK
  all_goals repeat' first | (intro) | with_reducible (first | assumption | fail_if_no_progress apply Kept.upd) | dsimp only

theorem execCompareEqual_kept {k : CoreId} {ty : LaneType} {f : SField} {s : State} {tt : State} (eK : execCompareEqual k ty f s = .next tt) : Kept s tt := by
  have hK : Kept s s := Kept.refl s
  unfold execCompareEqual at eK
  repeat' first | exact onCompare_kept eK | (simp only [ifApplies, Host.Outcome.next.injEq, reduceCtorEq] at eK) | (subst eK) | split at eK
  all_goals repeat' first | (intro) | with_reducible (first | assumption | fail_if_no_progress apply Kept.upd) | dsimp only

theorem execCompareLessThan_kept {k : CoreId} {ty : LaneType} {f : SField} {s : State} {tt : State} (eK : execCompareLessThan k ty f s = .next tt) : Kept s tt := by
  have hK : Kept s s := Kept.refl s
  unfold execCompareLessThan at eK
  repeat' first | exact onCompare_kept eK | (simp only [ifApplies, Host.Outcome.next.injEq, reduceCtorEq] at eK) | (subst eK) | split at eK
  all_goals repeat' first | (intro) | with_reducible (first | assumption | fail_if_no_progress apply Kept.upd) | dsimp only

theorem execCompareLessOrEqual_kept {k : CoreId} {ty : LaneType} {f : SField} {s : State} {tt : State} (eK : execCompareLessOrEqual k ty f s = .next tt) : Kept s tt := by
  have hK : Kept s s := Kept.refl s
  unfold execCompareLessOrEqual at eK
  repeat' first | exact onCompare_kept eK | (simp only [ifApplies, Host.Outcome.next.injEq, reduceCtorEq] at eK) | (subst eK) | split at eK
  all_goals repeat' first | (intro) | with_reducible (first | assumption | fail_if_no_progress apply Kept.upd) | dsimp only

theorem execCompareUnordered_kept {k : CoreId} {ty : LaneType} {f : SField} {s : State} {tt : State} (eK : execCompareUnordered k ty f s = .next tt) : Kept s tt := by
  have hK : Kept s s := Kept.refl s
  unfold execCompareUnordered at eK
  repeat' first | exact onCompare_kept eK | (simp only [ifApplies, Host.Outcome.next.injEq, reduceCtorEq] at eK) | (subst eK) | split at eK
  all_goals repeat' first | (intro) | with_reducible (first | assumption | fail_if_no_progress apply Kept.upd) | dsimp only

theorem execIntAdd_kept {k : CoreId} {ty : LaneType} {f : SField} {s : State} {tt : State} (eK : execIntAdd k ty f s = .next tt) : Kept s tt := by
  have hK : Kept s s := Kept.refl s
  unfold execIntAdd at eK
  repeat' first | exact onInt_kept eK | (simp only [ifApplies, Host.Outcome.next.injEq, reduceCtorEq] at eK) | (subst eK) | split at eK
  all_goals repeat' first | (intro) | with_reducible (first | assumption | fail_if_no_progress apply Kept.upd) | dsimp only

theorem execIntSubtract_kept {k : CoreId} {ty : LaneType} {f : SField} {s : State} {tt : State} (eK : execIntSubtract k ty f s = .next tt) : Kept s tt := by
  have hK : Kept s s := Kept.refl s
  unfold execIntSubtract at eK
  repeat' first | exact onInt_kept eK | (simp only [ifApplies, Host.Outcome.next.injEq, reduceCtorEq] at eK) | (subst eK) | split at eK
  all_goals repeat' first | (intro) | with_reducible (first | assumption | fail_if_no_progress apply Kept.upd) | dsimp only

theorem execIntMultiplyLow_kept {k : CoreId} {ty : LaneType} {f : SField} {s : State} {tt : State} (eK : execIntMultiplyLow k ty f s = .next tt) : Kept s tt := by
  have hK : Kept s s := Kept.refl s
  unfold execIntMultiplyLow at eK
  repeat' first | exact onInt_kept eK | (simp only [ifApplies, Host.Outcome.next.injEq, reduceCtorEq] at eK) | (subst eK) | split at eK
  all_goals repeat' first | (intro) | with_reducible (first | assumption | fail_if_no_progress apply Kept.upd) | dsimp only

theorem execIntMultiplyHigh_kept {k : CoreId} {ty : LaneType} {f : SField} {s : State} {tt : State} (eK : execIntMultiplyHigh k ty f s = .next tt) : Kept s tt := by
  have hK : Kept s s := Kept.refl s
  unfold execIntMultiplyHigh at eK
  repeat' first | exact onInt_kept eK | (simp only [ifApplies, Host.Outcome.next.injEq, reduceCtorEq] at eK) | (subst eK) | split at eK
  all_goals repeat' first | (intro) | with_reducible (first | assumption | fail_if_no_progress apply Kept.upd) | dsimp only

theorem execIntMinimum_kept {k : CoreId} {ty : LaneType} {f : SField} {s : State} {tt : State} (eK : execIntMinimum k ty f s = .next tt) : Kept s tt := by
  have hK : Kept s s := Kept.refl s
  unfold execIntMinimum at eK
  repeat' first | exact onInt_kept eK | (simp only [ifApplies, Host.Outcome.next.injEq, reduceCtorEq] at eK) | (subst eK) | split at eK
  all_goals repeat' first | (intro) | with_reducible (first | assumption | fail_if_no_progress apply Kept.upd) | dsimp only

theorem execIntMaximum_kept {k : CoreId} {ty : LaneType} {f : SField} {s : State} {tt : State} (eK : execIntMaximum k ty f s = .next tt) : Kept s tt := by
  have hK : Kept s s := Kept.refl s
  unfold execIntMaximum at eK
  repeat' first | exact onInt_kept eK | (simp only [ifApplies, Host.Outcome.next.injEq, reduceCtorEq] at eK) | (subst eK) | split at eK
  all_goals repeat' first | (intro) | with_reducible (first | assumption | fail_if_no_progress apply Kept.upd) | dsimp only

theorem execBitwiseAnd_kept {k : CoreId} {f : SField} {s : State} {tt : State} (eK : execBitwiseAnd k f s = .next tt) : Kept s tt := by
  have hK : Kept s s := Kept.refl s
  unfold execBitwiseAnd at eK
  repeat' first | exact onBit_kept eK | (simp only [ifApplies, Host.Outcome.next.injEq, reduceCtorEq] at eK) | (subst eK) | split at eK
  all_goals repeat' first | (intro) | with_reducible (first | assumption | fail_if_no_progress apply Kept.upd) | dsimp only

theorem execBitwiseOr_kept {k : CoreId} {f : SField} {s : State} {tt : State} (eK : execBitwiseOr k f s = .next tt) : Kept s tt := by
  have hK : Kept s s := Kept.refl s
  unfold execBitwiseOr at eK
  repeat' first | exact onBit_kept eK | (simp only [ifApplies, Host.Outcome.next.injEq, reduceCtorEq] at eK) | (subst eK) | split at eK
  all_goals repeat' first | (intro) | with_reducible (first | assumption | fail_if_no_progress apply Kept.upd) | dsimp only

theorem execBitwiseExclusiveOr_kept {k : CoreId} {f : SField} {s : State} {tt : State} (eK : execBitwiseExclusiveOr k f s = .next tt) : Kept s tt := by
  have hK : Kept s s := Kept.refl s
  unfold execBitwiseExclusiveOr at eK
  repeat' first | exact onBit_kept eK | (simp only [ifApplies, Host.Outcome.next.injEq, reduceCtorEq] at eK) | (subst eK) | split at eK
  all_goals repeat' first | (intro) | with_reducible (first | assumption | fail_if_no_progress apply Kept.upd) | dsimp only

theorem execBitwiseNot_kept {k : CoreId} {f : SField} {s : State} {tt : State} (eK : execBitwiseNot k f s = .next tt) : Kept s tt := by
  have hK : Kept s s := Kept.refl s
  unfold execBitwiseNot at eK
  repeat' first | exact onBit_kept eK | (simp only [ifApplies, Host.Outcome.next.injEq, reduceCtorEq] at eK) | (subst eK) | split at eK
  all_goals repeat' first | (intro) | with_reducible (first | assumption | fail_if_no_progress apply Kept.upd) | dsimp only

theorem execShiftLeft_kept {k : CoreId} {f : SField} {s : State} {tt : State} (eK : execShiftLeft k f s = .next tt) : Kept s tt := by
  have hK : Kept s s := Kept.refl s
  unfold execShiftLeft at eK
  repeat' first | exact onBit_kept eK | (simp only [ifApplies, Host.Outcome.next.injEq, reduceCtorEq] at eK) | (subst eK) | split at eK
  all_goals repeat' first | (intro) | with_reducible (first | assumption | fail_if_no_progress apply Kept.upd) | dsimp only

theorem execShiftRightLogical_kept {k : CoreId} {f : SField} {s : State} {tt : State} (eK : execShiftRightLogical k f s = .next tt) : Kept s tt := by
  have hK : Kept s s := Kept.refl s
  unfold execShiftRightLogical at eK
  repeat' first | exact onBit_kept eK | (simp only [ifApplies, Host.Outcome.next.injEq, reduceCtorEq] at eK) | (subst eK) | split at eK
  all_goals repeat' first | (intro) | with_reducible (first | assumption | fail_if_no_progress apply Kept.upd) | dsimp only

theorem execShiftRightArithmetic_kept {k : CoreId} {f : SField} {s : State} {tt : State} (eK : execShiftRightArithmetic k f s = .next tt) : Kept s tt := by
  have hK : Kept s s := Kept.refl s
  unfold execShiftRightArithmetic at eK
  repeat' first | exact onBit_kept eK | (simp only [ifApplies, Host.Outcome.next.injEq, reduceCtorEq] at eK) | (subst eK) | split at eK
  all_goals repeat' first | (intro) | with_reducible (first | assumption | fail_if_no_progress apply Kept.upd) | dsimp only

theorem execRotateLeft_kept {k : CoreId} {f : SField} {s : State} {tt : State} (eK : execRotateLeft k f s = .next tt) : Kept s tt := by
  have hK : Kept s s := Kept.refl s
  unfold execRotateLeft at eK
  repeat' first | exact onBit_kept eK | (simp only [ifApplies, Host.Outcome.next.injEq, reduceCtorEq] at eK) | (subst eK) | split at eK
  all_goals repeat' first | (intro) | with_reducible (first | assumption | fail_if_no_progress apply Kept.upd) | dsimp only

theorem execPopulationCount_kept {k : CoreId} {f : SField} {s : State} {tt : State} (eK : execPopulationCount k f s = .next tt) : Kept s tt := by
  have hK : Kept s s := Kept.refl s
  unfold execPopulationCount at eK
  repeat' first | exact onBit_kept eK | (simp only [ifApplies, Host.Outcome.next.injEq, reduceCtorEq] at eK) | (subst eK) | split at eK
  all_goals repeat' first | (intro) | with_reducible (first | assumption | fail_if_no_progress apply Kept.upd) | dsimp only

theorem execSelect_kept {k : CoreId} {f : SField} {s : State} {tt : State} (eK : execSelect k f s = .next tt) : Kept s tt := by
  have hK : Kept s s := Kept.refl s
  unfold execSelect at eK
  repeat' first | exact onS_kept eK | (simp only [ifApplies, Host.Outcome.next.injEq, reduceCtorEq] at eK) | (subst eK) | split at eK
  all_goals repeat' first | (intro) | with_reducible (first | assumption | apply Kept.ite | fail_if_no_progress apply Kept.upd) | split | dsimp only

theorem execConvertFromFp32_kept {k : CoreId} {f : SField} {s : State} {tt : State} (eK : execConvertFromFp32 k f s = .next tt) : Kept s tt := by
  have hK : Kept s s := Kept.refl s
  unfold execConvertFromFp32 at eK
  repeat' first | exact onS_kept eK | (simp only [ifApplies, Host.Outcome.next.injEq, reduceCtorEq] at eK) | (subst eK) | split at eK
  all_goals repeat' first | (intro) | with_reducible (first | assumption | apply Kept.ite | apply Kept.getD | fail_if_no_progress apply Kept.upd) | split | dsimp only

theorem execConvertToFp32_kept {k : CoreId} {f : SField} {s : State} {tt : State} (eK : execConvertToFp32 k f s = .next tt) : Kept s tt := by
  have hK : Kept s s := Kept.refl s
  unfold execConvertToFp32 at eK
  repeat' first | exact onS_kept eK | (simp only [ifApplies, Host.Outcome.next.injEq, reduceCtorEq] at eK) | (subst eK) | split at eK
  all_goals repeat' first | (intro) | with_reducible (first | assumption | apply Kept.ite | apply Kept.getD | fail_if_no_progress apply Kept.upd) | split | dsimp only

theorem execMxQuantise_kept {k : CoreId} {f : SField} {s : State} {tt : State} (eK : execMxQuantise k f s = .next tt) : Kept s tt := by
  have hK : Kept s s := Kept.refl s
  unfold execMxQuantise at eK
  repeat' first | exact onS_kept eK | (simp only [ifApplies, Host.Outcome.next.injEq, reduceCtorEq] at eK) | (subst eK) | split at eK
  all_goals repeat' first | (intro) | with_reducible (first | assumption | refine Kept.fst (by assumption) ?_ | fail_if_no_progress apply Kept.upd) | split | dsimp only

theorem execReduceSum_kept {k : CoreId} {ty : LaneType} {f : SField} {s : State} {tt : State} (eK : execReduceSum k ty f s = .next tt) : Kept s tt := by
  have hK : Kept s s := Kept.refl s
  unfold execReduceSum at eK
  repeat' first | exact onReduce_kept eK | (simp only [ifApplies, Host.Outcome.next.injEq, reduceCtorEq] at eK) | (subst eK) | split at eK
  all_goals repeat' first | (intro) | with_reducible (first | assumption | fail_if_no_progress apply Kept.upd) | dsimp only

theorem execReduceMinimum_kept {k : CoreId} {ty : LaneType} {f : SField} {s : State} {tt : State} (eK : execReduceMinimum k ty f s = .next tt) : Kept s tt := by
  have hK : Kept s s := Kept.refl s
  unfold execReduceMinimum at eK
  repeat' first | exact onReduce_kept eK | (simp only [ifApplies, Host.Outcome.next.injEq, reduceCtorEq] at eK) | (subst eK) | split at eK
  all_goals repeat' first | (intro) | with_reducible (first | assumption | fail_if_no_progress apply Kept.upd) | dsimp only

theorem execReduceMaximum_kept {k : CoreId} {ty : LaneType} {f : SField} {s : State} {tt : State} (eK : execReduceMaximum k ty f s = .next tt) : Kept s tt := by
  have hK : Kept s s := Kept.refl s
  unfold execReduceMaximum at eK
  repeat' first | exact onReduce_kept eK | (simp only [ifApplies, Host.Outcome.next.injEq, reduceCtorEq] at eK) | (subst eK) | split at eK
  all_goals repeat' first | (intro) | with_reducible (first | assumption | fail_if_no_progress apply Kept.upd) | dsimp only

theorem execAccumulatorRead_kept {k : CoreId} {f : SField} {s : State} {tt : State} (eK : execAccumulatorRead k f s = .next tt) : Kept s tt := by
  have hK : Kept s s := Kept.refl s
  unfold execAccumulatorRead at eK
  repeat' first | exact onS_kept eK | (simp only [ifApplies, Host.Outcome.next.injEq, reduceCtorEq] at eK) | (subst eK) | split at eK
  all_goals repeat' first | (intro) | with_reducible (first | assumption | fail_if_no_progress apply Kept.upd) | dsimp only

theorem execAccumulatorWrite_kept {k : CoreId} {f : SField} {s : State} {tt : State} (eK : execAccumulatorWrite k f s = .next tt) : Kept s tt := by
  have hK : Kept s s := Kept.refl s
  unfold execAccumulatorWrite at eK
  repeat' first | exact onS_kept eK | (simp only [ifApplies, Host.Outcome.next.injEq, reduceCtorEq] at eK) | (subst eK) | split at eK
  all_goals repeat' first | (intro) | with_reducible (first | assumption | fail_if_no_progress apply Kept.upd) | dsimp only

theorem execAtomicIntegerAdd_kept {k : CoreId} {ty : LaneType} {f : SField} {s : State} {tt : State} (eK : execAtomicIntegerAdd k ty f s = .next tt) : Kept s tt := by
  have hK : Kept s s := Kept.refl s
  unfold execAtomicIntegerAdd at eK
  repeat' first | exact onAtomic_kept eK | (simp only [ifApplies, Host.Outcome.next.injEq, reduceCtorEq] at eK) | (subst eK) | split at eK
  all_goals repeat' first | (intro) | with_reducible (first | assumption | fail_if_no_progress apply Kept.upd) | dsimp only

theorem execAtomicSignedMinimum_kept {k : CoreId} {ty : LaneType} {f : SField} {s : State} {tt : State} (eK : execAtomicSignedMinimum k ty f s = .next tt) : Kept s tt := by
  have hK : Kept s s := Kept.refl s
  unfold execAtomicSignedMinimum at eK
  repeat' first | exact onAtomic_kept eK | (simp only [ifApplies, Host.Outcome.next.injEq, reduceCtorEq] at eK) | (subst eK) | split at eK
  all_goals repeat' first | (intro) | with_reducible (first | assumption | fail_if_no_progress apply Kept.upd) | dsimp only

theorem execAtomicSignedMaximum_kept {k : CoreId} {ty : LaneType} {f : SField} {s : State} {tt : State} (eK : execAtomicSignedMaximum k ty f s = .next tt) : Kept s tt := by
  have hK : Kept s s := Kept.refl s
  unfold execAtomicSignedMaximum at eK
  repeat' first | exact onAtomic_kept eK | (simp only [ifApplies, Host.Outcome.next.injEq, reduceCtorEq] at eK) | (subst eK) | split at eK
  all_goals repeat' first | (intro) | with_reducible (first | assumption | fail_if_no_progress apply Kept.upd) | dsimp only

theorem execAtomicUnsignedMinimum_kept {k : CoreId} {ty : LaneType} {f : SField} {s : State} {tt : State} (eK : execAtomicUnsignedMinimum k ty f s = .next tt) : Kept s tt := by
  have hK : Kept s s := Kept.refl s
  unfold execAtomicUnsignedMinimum at eK
  repeat' first | exact onAtomic_kept eK | (simp only [ifApplies, Host.Outcome.next.injEq, reduceCtorEq] at eK) | (subst eK) | split at eK
  all_goals repeat' first | (intro) | with_reducible (first | assumption | fail_if_no_progress apply Kept.upd) | dsimp only

theorem execAtomicUnsignedMaximum_kept {k : CoreId} {ty : LaneType} {f : SField} {s : State} {tt : State} (eK : execAtomicUnsignedMaximum k ty f s = .next tt) : Kept s tt := by
  have hK : Kept s s := Kept.refl s
  unfold execAtomicUnsignedMaximum at eK
  repeat' first | exact onAtomic_kept eK | (simp only [ifApplies, Host.Outcome.next.injEq, reduceCtorEq] at eK) | (subst eK) | split at eK
  all_goals repeat' first | (intro) | with_reducible (first | assumption | fail_if_no_progress apply Kept.upd) | dsimp only

theorem execAtomicAnd_kept {k : CoreId} {ty : LaneType} {f : SField} {s : State} {tt : State} (eK : execAtomicAnd k ty f s = .next tt) : Kept s tt := by
  have hK : Kept s s := Kept.refl s
  unfold execAtomicAnd at eK
  repeat' first | exact onAtomic_kept eK | (simp only [ifApplies, Host.Outcome.next.injEq, reduceCtorEq] at eK) | (subst eK) | split at eK
  all_goals repeat' first | (intro) | with_reducible (first | assumption | fail_if_no_progress apply Kept.upd) | dsimp only

theorem execAtomicOr_kept {k : CoreId} {ty : LaneType} {f : SField} {s : State} {tt : State} (eK : execAtomicOr k ty f s = .next tt) : Kept s tt := by
  have hK : Kept s s := Kept.refl s
  unfold execAtomicOr at eK
  repeat' first | exact onAtomic_kept eK | (simp only [ifApplies, Host.Outcome.next.injEq, reduceCtorEq] at eK) | (subst eK) | split at eK
  all_goals repeat' first | (intro) | with_reducible (first | assumption | fail_if_no_progress apply Kept.upd) | dsimp only

theorem execAtomicExclusiveOr_kept {k : CoreId} {ty : LaneType} {f : SField} {s : State} {tt : State} (eK : execAtomicExclusiveOr k ty f s = .next tt) : Kept s tt := by
  have hK : Kept s s := Kept.refl s
  unfold execAtomicExclusiveOr at eK
  repeat' first | exact onAtomic_kept eK | (simp only [ifApplies, Host.Outcome.next.injEq, reduceCtorEq] at eK) | (subst eK) | split at eK
  all_goals repeat' first | (intro) | with_reducible (first | assumption | fail_if_no_progress apply Kept.upd) | dsimp only

theorem execAtomicExchange_kept {k : CoreId} {ty : LaneType} {f : SField} {s : State} {tt : State} (eK : execAtomicExchange k ty f s = .next tt) : Kept s tt := by
  have hK : Kept s s := Kept.refl s
  unfold execAtomicExchange at eK
  repeat' first | exact onAtomic_kept eK | (simp only [ifApplies, Host.Outcome.next.injEq, reduceCtorEq] at eK) | (subst eK) | split at eK
  all_goals repeat' first | (intro) | with_reducible (first | assumption | fail_if_no_progress apply Kept.upd) | dsimp only

theorem execAtomicCompareExchange_kept {k : CoreId} {ty : LaneType} {f : SField} {s : State} {tt : State} (eK : execAtomicCompareExchange k ty f s = .next tt) : Kept s tt := by
  have hK : Kept s s := Kept.refl s
  unfold execAtomicCompareExchange at eK
  repeat' first | exact onAtomic_kept eK | (simp only [ifApplies, Host.Outcome.next.injEq, reduceCtorEq] at eK) | (subst eK) | split at eK
  all_goals repeat' first | (intro) | with_reducible (first | assumption | fail_if_no_progress apply Kept.upd) | dsimp only

theorem execAtomicFp32Add_kept {k : CoreId} {f : SField} {s : State} {tt : State} (eK : execAtomicFp32Add k f s = .next tt) : Kept s tt := by
  have hK : Kept s s := Kept.refl s
  unfold execAtomicFp32Add at eK
  repeat' first | exact onAtomic_kept eK | (simp only [ifApplies, Host.Outcome.next.injEq, reduceCtorEq] at eK) | (subst eK) | split at eK
  all_goals repeat' first | (intro) | with_reducible (first | assumption | fail_if_no_progress apply Kept.upd) | dsimp only

theorem execAtomicFp32Minimum_kept {k : CoreId} {f : SField} {s : State} {tt : State} (eK : execAtomicFp32Minimum k f s = .next tt) : Kept s tt := by
  have hK : Kept s s := Kept.refl s
  unfold execAtomicFp32Minimum at eK
  repeat' first | exact onAtomic_kept eK | (simp only [ifApplies, Host.Outcome.next.injEq, reduceCtorEq] at eK) | (subst eK) | split at eK
  all_goals repeat' first | (intro) | with_reducible (first | assumption | fail_if_no_progress apply Kept.upd) | dsimp only

theorem execAtomicFp32Maximum_kept {k : CoreId} {f : SField} {s : State} {tt : State} (eK : execAtomicFp32Maximum k f s = .next tt) : Kept s tt := by
  have hK : Kept s s := Kept.refl s
  unfold execAtomicFp32Maximum at eK
  repeat' first | exact onAtomic_kept eK | (simp only [ifApplies, Host.Outcome.next.injEq, reduceCtorEq] at eK) | (subst eK) | split at eK
  all_goals repeat' first | (intro) | with_reducible (first | assumption | fail_if_no_progress apply Kept.upd) | dsimp only

theorem execSld_kept {k : CoreId} {mode : AddrMode} {f : SField} {s : State} {tt : State} (eK : execSld k mode f s = .next tt) : Kept s tt := by
  have hK : Kept s s := Kept.refl s
  unfold execSld at eK
  repeat' first | exact onS_kept eK | (simp only [ifApplies, Host.Outcome.next.injEq, reduceCtorEq] at eK) | (subst eK) | split at eK
  all_goals repeat' first | (intro) | with_reducible (first | assumption | fail_if_no_progress apply Kept.upd) | dsimp only

theorem execSst_kept {k : CoreId} {mode : AddrMode} {f : SField} {s : State} {tt : State} (eK : execSst k mode f s = .next tt) : Kept s tt := by
  have hK : Kept s s := Kept.refl s
  unfold execSst at eK
  repeat' first | exact onS_kept eK | (simp only [ifApplies, Host.Outcome.next.injEq, reduceCtorEq] at eK) | (subst eK) | split at eK
  all_goals repeat' first | (intro) | with_reducible (first | assumption | fail_if_no_progress apply Kept.upd) | dsimp only

theorem execSldx_kept {k : CoreId} {f : SField} {s : State} {tt : State} (eK : execSldx k f s = .next tt) : Kept s tt := by
  have hK : Kept s s := Kept.refl s
  unfold execSldx at eK
  repeat' first | exact onS_kept eK | (simp only [ifApplies, Host.Outcome.next.injEq, reduceCtorEq] at eK) | (subst eK) | split at eK
  all_goals repeat' first | (intro) | with_reducible (first | assumption | fail_if_no_progress apply Kept.upd) | dsimp only

theorem execSstx_kept {k : CoreId} {f : SField} {s : State} {tt : State} (eK : execSstx k f s = .next tt) : Kept s tt := by
  have hK : Kept s s := Kept.refl s
  unfold execSstx at eK
  repeat' first | exact onS_kept eK | (simp only [ifApplies, Host.Outcome.next.injEq, reduceCtorEq] at eK) | (subst eK) | split at eK
  all_goals repeat' first | (intro) | with_reducible (first | assumption | fail_if_no_progress apply Kept.upd) | dsimp only

end Sys2Proof.Machine
end

