-- ==== Sys2Proof/Laws/KeptTField.lean ====
section
/-! SUPPORT. The operations of Machine/TField.lean keep the queue and the canonical form of the memory. -/

set_option linter.unusedTactic false
set_option linter.unreachableTactic false
set_option linter.unusedSimpArgs false

namespace Sys2Proof.Machine

theorem execTnop_kept {k : CoreId} {s : State} {tt : State} (eK : execTnop k s = .next tt) : Kept s tt := by
  have hK : Kept s s := Kept.refl s
  unfold execTnop at eK
  repeat' first | (simp only [ifApplies, Host.Outcome.next.injEq, reduceCtorEq] at eK) | (subst eK) | split at eK
  all_goals repeat' first | (intro) | with_reducible (first | assumption | apply State.issue_kept | fail_if_no_progress apply Kept.upd) | dsimp only

theorem execMac_kept {k : CoreId} {start : Bool} {acc : BitVec 7} {rep : BitVec 10} {accStep : Bool} {advance : BitVec 6} {dpuEn : BitVec 8} {s : State} {tt : State} (eK : execMac k start acc rep accStep advance dpuEn s = .next tt) : Kept s tt := by
  have hK : Kept s s := Kept.refl s
  unfold execMac at eK
  repeat' first | (simp only [ifApplies, Host.Outcome.next.injEq, reduceCtorEq] at eK) | (subst eK) | split at eK
  all_goals repeat' first | (intro) | with_reducible (first | assumption | apply State.issue_kept | fail_if_no_progress apply Kept.upd) | dsimp only

end Sys2Proof.Machine
end

