-- ==== Sys2Proof/Laws/Mci.lean ====
section
/-! SUPPORT. What running an MCI command comes to, once for all of them: a command that reaches the steward runs
`runHandler`, and an accepted one is what its handler answers. -/

namespace Sys2Proof.Machine

/-- A return code of 0 means that the opcode has a row. -/
theorem row_of_returnCode {op : Nat} {input : List Byte} (h : returnCode op input = 0) : ∃ row, mciRow op = some row := by
  simp only [returnCode] at h
  split at h
  · cases h
  · exact ⟨_, by assumption⟩

/-- A command that reaches the steward is heard and has return code 0. -/
theorem reachesSteward_heard {s : State} {via : Path} {op : Nat} {input : List Byte} {r : State × Word}
    (h : reachesSteward s via op input = some r) : stewardHears s via = true ∧ returnCode op input = 0 := by
  simp only [reachesSteward] at h
  split at h
  · cases h
  · rename_i hh
    simpa using hh

/-- What a command that reaches the steward does. -/
theorem mci_of_reaches {s : State} {via : Path} {op : Nat} {input : List Byte} {a : State} {tag : Word} {h : Handler}
    {row : MciRow} (hr : reachesSteward s via op input = some (a, tag)) (hw : mciRow op = some row) :
    mci s via op input h = runHandler a via tag op row input h := by
  have hh := reachesSteward_heard hr
  simp only [reachesSteward] at hr
  rw [if_neg (by simp [hh])] at hr
  rw [mci, if_neg (by simp [hh.1])]
  simp only [hh.2]
  cases via with
  | ring c =>
    simp only [Option.map_eq_some_iff] at hr
    obtain ⟨f, h1, h2⟩ := hr
    cases h2
    simp only [h1, hw]
    rw [if_neg (by decide), if_neg (by decide)]
  | sideband n =>
    cases hr
    simp only [hw]
    rw [if_neg (by decide)]
  | mailbox p b =>
    simp only [hw]
    rw [if_neg (by decide)]
    simp only at hr
    split at hr
    · rename_i h1
      split at hr
      · cases hr
      · rename_i h2
        cases hr
        rw [if_pos h1, if_neg h2]
    · rename_i h1
      cases hr
      rw [if_neg h1]

/-- What an accepted command does: its handler, and the answer. -/
theorem mci_of_accepted {s : State} {via : Path} {op : Nat} {input : List Byte} {a : State} {m : MciCall}
    (h : Accepted s via op input a m) (hd : Handler) : mci s via op input hd = finish m op (hd a m) := by
  obtain ⟨row, hw⟩ := row_of_returnCode (reachesSteward_heard h.1).2
  have hv : m.via = via := by rw [h.2.1]
  rw [mci_of_reaches h.1 hw, runHandler]
  simp only [h.2.2 row hw]
  rw [if_neg (by decide), if_neg (by decide), ← h.2.1]
  simp only [finish, hv]
  all_goals (split <;> simp only [*])

/-- The fields of an accepted call. -/
theorem accepted_call {s : State} {via : Path} {op : Nat} {input : List Byte} {a : State} {m : MciCall}
    (h : Accepted s via op input a m) :
    m.input = input ∧ m.via = via ∧ m.ctx = pathCtx a via ∧ m.owner = viaOwner a via := by
  have e := h.2.1
  exact ⟨by rw [e], by rw [e], by rw [e], by rw [e]⟩

end Sys2Proof.Machine
end

