-- ==== Sys2Proof/Machine/ConfigSpace.lean ====
section
/-! DEFINITION. The configuration space of the physical and virtual functions: identifiers, structures and BARs, and the
fields that show the state (R1, R326, R327, R330 to R332). -/

namespace Sys2Proof.Machine

/-- The structures that a configuration space holds (R331). -/
inductive CfgStruct where
  | powerManagement | pciExpress | msix (vectors : Nat) | aer | serialNumber | ari | sriov | ptm | dataLinkFeature
  | phy16 | phy32 | phy64 | laneMargining | doe | ide
  | cxlDvsec (id : Nat)
  | vendorDvsec (vendor id : Nat)
  deriving DecidableEq, Repr

/-- What lies in BAR 0 of a function (R332, R382): a capability of the device registers carries its Capability ID. -/
inductive BarPart where
  | componentRegs | capabilityArray | deviceCap (id : Nat) | doorbellPage | decoderBlock | msixTable | msixPba
  deriving DecidableEq, Repr

/-- What the Flex Bus Port DVSEC reports (R331). -/
structure FlexBus where
  cache   : Bool := false
  io      : Bool := true
  mem     : Bool := true
  flit68  : Bool := true
  flit256 : Bool := true
  pbrFlit : Bool := true
  deriving DecidableEq, Repr

/-- What a mailbox's capabilities report (R382): the Payload Size as a power of 2, the Mailbox Doorbell Interrupt, and background
commands. -/
structure MailboxCaps where
  payloadSize    : Nat := 16
  doorbellInt    : Bool := true
  backgroundCmds : Bool := true
  deriving DecidableEq, Repr

/-- The standard HDM Decoder Capability of a PF (R332): one decoder, which returns Commit Error to every commit. -/
structure HdmCaps where
  decoders    : Nat := 1
  commitError : Bool := true
  deriving DecidableEq, Repr

/-- The configuration space of a function as software reads it. -/
structure CfgSpace where
  vendor     : Nat
  device     : Nat
  revision   : Nat
  classCode  : Nat
  subsystem  : Nat × Nat
  /-- the Device Serial Number, not present in a VF -/
  serial     : Option DWord
  /-- structures by their offset (R331) -/
  structures : List (Nat × CfgStruct)
  /-- BARs, each 64-bit and non-prefetchable: number and size in bytes (R332) -/
  bars       : List (Nat × Nat)
  /-- what BAR 0 holds, by offset (R332, R382) -/
  bar0       : List (Nat × BarPart)
  busMaster  : Bool
  /-- SR-IOV of a PF: TotalVFs, InitialVFs, First VF Offset, VF Stride, NumVFs and VF Enable (R330) -/
  sriov      : Option (Nat × Nat × Nat × Nat × Nat × Bool)
  /-- PTM Enable, of a PF only (R327) -/
  ptmEnable  : Option Bool
  /-- Memory_Active of the CXL Device DVSEC, of a PF only (R331) -/
  memActive  : Option Bool
  /-- the Melust Port DVSEC: Revas Capable, Revas Active, port number and owner-port flag (R331) -/
  melust     : Option (Bool × Bool × Nat × Bool)
  /-- Memory_Active_Timeout of the CXL Device DVSEC in seconds (R471), of a PF only -/
  memTimeout : Option Nat
  /-- the Flex Bus Port DVSEC, the mailboxes' capabilities and the HDM Decoder Capability, of a PF only -/
  flexBus    : Option FlexBus
  mailboxes  : Option MailboxCaps
  hdm        : Option HdmCaps
  deriving DecidableEq, Repr

/-- The structures of a PF (R331). -/
def pfStructures : List (Nat × CfgStruct) :=
  [(0x040, .powerManagement), (0x050, .pciExpress), (0x0B0, .msix 8), (0x100, .aer), (0x150, .serialNumber), (0x160, .ari),
   (0x170, .sriov), (0x1B0, .ptm), (0x1C0, .dataLinkFeature), (0x1D0, .phy16), (0x200, .phy32), (0x240, .phy64),
   (0x260, .laneMargining), (0x2B0, .doe), (0x2D0, .ide)]
  ++ [(0x400, .cxlDvsec 0), (0x440, .cxlDvsec 7), (0x460, .cxlDvsec 8), (0x4A0, .vendorDvsec 0x1F3C 1)]

/-- The structures of a VF (R331). -/
def vfStructures : List (Nat × CfgStruct) := [(0x040, .pciExpress), (0x080, .msix 4), (0x100, .aer), (0x148, .ari)]

/-- What PF BAR 0 holds (R332, R382). -/
def pfBar0 : List (Nat × BarPart) :=
  [(0x00000, .componentRegs), (0x10000, .capabilityArray), (0x10080, .deviceCap 1), (0x10100, .deviceCap 0x4000),
   (0x20000, .deviceCap 2), (0x40000, .deviceCap 3), (0xE0000, .msixTable), (0xF0000, .msixPba)]

/-- What VF BAR 0 holds (R332). -/
def vfBar0 : List (Nat × BarPart) := [(0x0000, .doorbellPage), (0x8000, .decoderBlock), (0xE000, .msixTable), (0xF000, .msixPba)]

/-- The configuration space of a PF (R1, R330 to R332). -/
def pfConfig (s : State) (p : Port) : CfgSpace :=
  let x := s.port p
  { vendor := 0x1F3C, device := 0x4D40, revision := 0xB1, classCode := 0x050210, subsystem := (0x1F3C, 0x0002)
    serial := some Config.serial
    structures := pfStructures
    bars := [(0, 0x100000), (2, 0x400000)], bar0 := pfBar0
    busMaster := x.bme
    sriov := some (64, 64, 1, 1, x.numVfs, x.vfEnable)
    ptmEnable := some x.ptmEnable
    memActive := some x.memActive
    melust := some (true, decide (x.rate = 4), p.val, s.owner == some p)
    memTimeout := some 4, flexBus := some {}, mailboxes := some {}, hdm := some {} }

/-- The configuration space of the VF of a context (R1, R330 to R332, R335). -/
def vfConfig (s : State) (c : Ctx) : CfgSpace :=
  { vendor := 0x1F3C, device := 0x4D41, revision := 0xB1, classCode := 0x050210, subsystem := (0x1F3C, 0x0002)
    serial := none, structures := vfStructures, bars := [(0, 0x10000)], bar0 := vfBar0, busMaster := (s.ctx c).bme
    sriov := none, ptmEnable := none, memActive := none, melust := none
    memTimeout := none, flexBus := none, mailboxes := none, hdm := none }

/-- Configuration requests receive Request Retry Status until the end of FIRMWARE (R469). -/
def configRetry (s : State) : Bool := decide (s.pw.stage < 3)

/-- The configuration space of a function; none while requests are to be retried, and a VF that is not enabled has none (R335, R469). -/
def configSpace (s : State) (f : Fn) : Option CfgSpace :=
  if configRetry s then none else
  match f with
  | .pf p => some (pfConfig s p)
  | .vf c => if ctxEnabled s c then some (vfConfig s c) else none

end Sys2Proof.Machine
end

