-- ==== Sys2Proof/Machine/Connectors.lean ====
section
/-! DEFINITION. The module's connectors: every contact with its signal and direction (R474, R476, R480, R481), the levels that the
module drives on the sideband contacts (R477, R479), its clocks (R467), and the limits that the spec states for its surroundings (R482
to R485). -/

namespace Sys2Proof.Machine

/-- The direction of a contact, seen from the module. -/
inductive Dir where
  | in_ | out | inOut | none_
  deriving DecidableEq, Repr

/-- A signal of a port connector (R474); lanes are 0 to 15. -/
inductive PortSignal where
  | txP (lane : Nat) | txN (lane : Nat) | rxP (lane : Nat) | rxN (lane : Nat)
  | refClkP | refClkN | perst | prsnt | gnd
  deriving DecidableEq, Repr

/-- The signal of a contact of a port connector, 1 to 140 (R474): pairs of contacts in groups of four, each signal pair followed by its
ground pair. -/
def portContact (n : Nat) : Option PortSignal :=
  let pair := fun (p q : Nat → PortSignal) (k : Nat) => match k % 4 with
    | 0 => p (k / 4)
    | 1 => q (k / 4)
    | _ => .gnd
  if n = 0 ∨ 140 < n then none
  else if n ≤ 64 then some (pair .txP .txN (n - 1))
  else if n ≤ 128 then some (pair .rxP .rxN (n - 65))
  else match n with
    | 129 => some .refClkP
    | 130 => some .refClkN
    | 131 => some .perst
    | 132 => some .prsnt
    | _ => some .gnd

/-- The direction of a port signal (R474). -/
def PortSignal.dir : PortSignal → Dir
  | .txP _ | .txN _ | .prsnt => .out
  | .rxP _ | .rxN _ | .refClkP | .refClkN | .perst => .in_
  | .gnd => .none_

/-- A signal of the sideband connector (R476). -/
inductive SidebandSignal where
  | scl (port : Fin 2) | sda (port : Fin 2) | mrefP | mrefN | pwrEn | modRst | prsnt | fault | thermWarn | baySafe (b : Bay)
  | vsbRef | vsbGnd | gnd
  deriving DecidableEq, Repr

/-- The signal of a contact of the sideband connector, 1 to 40 (R476). -/
def sidebandContact (n : Nat) : Option SidebandSignal :=
  if n = 0 ∨ 40 < n then none
  else if h : 16 ≤ n ∧ n ≤ 24 then some (.baySafe ⟨n - 16, by omega⟩)
  else match n with
    | 1 => some (.scl 0)
    | 2 => some (.sda 0)
    | 4 => some (.scl 1)
    | 5 => some (.sda 1)
    | 7 => some .mrefP
    | 8 => some .mrefN
    | 10 => some .pwrEn
    | 11 => some .modRst
    | 12 => some .prsnt
    | 13 => some .fault
    | 14 => some .thermWarn
    | 26 => some .vsbRef
    | 27 => some .vsbGnd
    | _ => some .gnd

/-- The direction of a sideband signal (R476). -/
def SidebandSignal.dir : SidebandSignal → Dir
  | .scl _ | .sda _ => .inOut
  | .prsnt | .fault | .thermWarn | .baySafe _ => .out
  | .mrefP | .mrefN | .pwrEn | .modRst | .vsbRef | .vsbGnd => .in_
  | .gnd => .none_

/-- What the module does to an output contact: it drives it low, releases an open-drain output, which the shelf pulls up, ties it to
ground, or is high-impedance (R476, R477). -/
inductive Level where
  | low | released | ground | highZ
  deriving DecidableEq, Repr

/-- An open-drain output that is low while a condition holds; without the hub main domain every contact but PRSNT# is high-impedance
(R477). -/
def openDrain (s : State) (low : Bool) : Level := if !hubOn s then .highZ else if low then .low else .released

/-- The level of an output of the sideband connector (R477, R479); none for the other contacts. -/
def sidebandLevel (s : State) (x : SidebandSignal) : Option Level :=
  match x with
  | .fault => some (openDrain s s.faultPin)
  | .thermWarn => some (openDrain s s.thermPin)
  | .baySafe b => some (openDrain s (!bit s.baySafe.toNat b.val))
  | .prsnt => some .ground
  | _ => none

/-- A signal of the power connector (R480). -/
inductive PowerSignal where
  | vrtn | vin | vsensePlus | vsenseMinus | presentPwr | reserved
  deriving DecidableEq, Repr

/-- The blades B1 to B8 and the signal contacts S1 to S4 (numbered 9 to 12 here) of the power connector, each with its place in the
order of mating: 0 first, 1 second, 2 last (R480). -/
def powerContact (n : Nat) : Option (PowerSignal × Nat) :=
  if n = 0 then none
  else if n ≤ 4 then some (.vrtn, 0)
  else if n ≤ 8 then some (.vin, 1)
  else match n with
    | 9 => some (.vsensePlus, 1)
    | 10 => some (.vsenseMinus, 1)
    | 11 => some (.presentPwr, 2)
    | 12 => some (.reserved, 2)
    | _ => none

/-- The signals of a bay connector: name, contacts and direction (R481). DQ to R/B_n are those of each of the eight channels. -/
def baySignals : List (String × Nat × Dir) :=
  [("DQ[7:0]", 8 * 8, .inOut), ("DQS_t", 8, .inOut), ("DQS_c", 8, .inOut), ("RE_t", 8, .out), ("RE_c", 8, .out), ("WE_n", 8, .out),
   ("ALE", 8, .out), ("CLE", 8, .out), ("CE_n[7:0]", 8 * 8, .out), ("R/B_n", 8, .in_), ("VCC", 6, .out), ("VCCQ", 6, .out),
   ("ID_SCL", 1, .inOut), ("ID_SDA", 1, .inOut), ("PRSNT#", 1, .in_), ("LATCH#", 1, .in_), ("GND", 32, .none_)]

/-- A bay's supplies VCC and VCCQ are off while the bay is EMPTY, REFUSED, FAILED or OUT (R481). -/
def baySupplied (s : State) (b : Nat) : Bool :=
  match (s.bay b).st with
  | .empty | .refused | .failed | .out => false
  | _ => true

/-- A clock of the module (R467): its name, and its frequencies in kHz. -/
def clocks : List (String × List Nat) :=
  [("Module reference", [100000]), ("Port reference", [100000]), ("Arithmetic, frame timer", [1250000]),
   ("DRAM interface", [750000, 600000, 400000]), ("Steward, die managers", [1000000]), ("Flash controllers", [1250000]),
   ("NAND interface", [1800000])]

/-- The DRAM interface clock of a timing set in kHz (R467). -/
def dramClock (tset : Nat) : Nat := [750000, 600000, 400000].getD tset 750000

/-- A limit: what it bounds, its lowest and highest values, and their unit. -/
structure Limit where
  what : String
  low  : Option Int := none
  high : Option Int
  unit : String
  deriving DecidableEq, Repr

/-- The absolute ratings (R482). -/
def ratings : List Limit :=
  [⟨"input voltage, VIN to VRTN", some (-500), some 72000, "mV"⟩, ⟨"input voltage for 100 ms", none, some 80000, "mV"⟩,
   ⟨"sideband signals", some (-300), some 2100, "mV"⟩, ⟨"sideband signals above VSB_REF", none, some 300, "mV"⟩,
   ⟨"VSB_REF", some (-300), some 2100, "mV"⟩, ⟨"coolant inlet", some 5, some 55, "degree C"⟩,
   ⟨"coolant pressure at the inlet", none, some 600, "kPa gauge"⟩, ⟨"storage temperature", some (-40), some 70, "degree C"⟩,
   ⟨"electrostatic discharge, human-body model", none, some 2000, "V"⟩]

/-- The operating conditions (R483). -/
def conditions : List Limit :=
  [⟨"input voltage at VSENSE", some 40000, some 60000, "mV"⟩, ⟨"input ripple, 20 Hz to 20 MHz", none, some 500, "mV peak to peak"⟩,
   ⟨"input power, sustained", none, some 1400, "W"⟩, ⟨"input power over any 10 ms", none, some 1650, "W"⟩,
   ⟨"VSB_REF", some 1710, some 1890, "mV"⟩, ⟨"references, from 100 MHz", some (-100), some 100, "ppm"⟩,
   ⟨"coolant inlet temperature, above the dew point", some 15, some 40, "degree C"⟩, ⟨"coolant flow", some 2000, some 4000, "mL/min"⟩,
   ⟨"air around the module", some 10, some 45, "degree C"⟩, ⟨"relative humidity", some 8, some 85, "%"⟩,
   ⟨"altitude", none, some 3000, "m"⟩, ⟨"insertions of a port, sideband or power connector", none, some 200, ""⟩,
   ⟨"insertions of a bay", none, some 500, ""⟩]

/-- The most that the hottest sensor of the logic dies, or of the stacks, reads in the operating range, in thousandths of a degree
(R484): inlet temperature in thousandths of a degree, and power in W. -/
def hottestBound (stack : Bool) (inlet power : Nat) : Nat := inlet + (if stack then 30 else 34) * power

/-- The outline (R485) in tenths of a millimetre, and the masses in grams. -/
def outline : List (String × Nat) :=
  [("length", 5400), ("width", 2100), ("height", 860), ("guide pin diameter", 80), ("guide pin reach", 300), ("coupling bore", 95),
   ("bay pitch", 220), ("mass without cartridges", 11800), ("mass of one TC16 cartridge", 420)]

end Sys2Proof.Machine
end

