-- ==== Sys2Proof/Tests/Slice0.lean ====
section
/-! SUPPORT. The model's own tests: for every statement a state and operands that meet its hypotheses (test_witness_...),
ill-formed commands that WellFormed refuses, and a few effects of single commands, with values worked out from the rules that
they cite. -/

namespace Sys2Proof.Tests

set_option Elab.async false

open Sys2Proof Sys2Proof.Machine

/-! ### Small states -/

/-- The fields of an S instruction: mask M0, V1 from V2, V3 and V4. -/
def fld : SField := ⟨0, 1, 2, 3, 4, 0⟩

/-- Core 0 alone. -/
def withCore (c : CoreState) : State := { cores := [(0, c)] }

/-- Core 0 in RUNNING. -/
def running : State := withCore { st := .running }

/-- Core 0 in RUNNING with a word in lane 0 of V2 and V3. -/
def lanes (acw : BitVec 19) (x y : Word) : State := withCore { st := .running, acw := acw, v := [(64, ⟨x, false⟩), (96, ⟨y, false⟩)] }

/-- What an instruction leaves to be written into lane 0 of V1, with the cycle, and the flags. -/
def lane0 (o : Out) : Option (Option Pend × BitVec 9) :=
  match o with
  | .next t => some ((t.core 0).pend.head?, (t.core 0).flags)
  | _ => none

/-- A field of the next state. -/
def after {α : Type} (o : Out) (f : State → α) : Option α := match o with | .next t => some (f t) | _ => none

/-- Nothing changed. -/
def same (o : Out) (s : State) : Bool := match o with | .next t => decide (t = s) | _ => false

/-- A port that carries CXL.mem, with one VF. -/
def portUp : PortState := { up := true, rate := 4, width := 0, flit256 := true, vfEnable := true, numVfs := 1, memActive := true, bme := true, ptmEnable := true }

/-- The decoder of context 0: 256 MiB from 0. -/
def dec0 : Decoder := { base := 0, size := 0x10000000, dpa := 0, ctrl := 1 }

/-- A module after start-up: port 0 owns it and is up, context 0 is enabled with a decoder, a grant and an object of four
pages, of which page 0 is resident. -/
def host : State := {
  eff := [(0x10010, 0x10)], regs := [(0x10010, 0x10)]
  ft := { running := true, run := 5000000, time := 1024000000, anchor := .anchored }
  pw := { stage := 7, doms := (List.range 80).map (fun d => (d, .on)) }
  ports := [(0, portUp)]
  owner := some 0
  srcTab := [(1, { valid := true, ctx := 0, mask := 1 })]
  ctxs := [(0, { bme := true, committed := [(0, dec0)] })]
  extents := [(0, { base := 0, len := 1, tag := 0, shareable := false, grants := [⟨0, .active, true, false, false⟩] })]
  objects := [(0, { base := 0, pages := 4, cls := .warm, layout := .interleaved, owner := 0, head := 0 })]
  contents := [(0, { obj := 0 })]
  nextContent := 1
  pages := [(0, { st := .clean, frames := [0] }), (1, { st := .home })]
  frames := [(0, .used 0)] }

/-- The module with a change to port 0, to its time, or to its power. -/
def hostPort (f : PortState → PortState) : State := { host with ports := [(0, f portUp)] }

def hostFt (f : FtState → FtState) : State := { host with ft := f host.ft }

def hostPw (f : PwState → PwState) : State := { host with pw := f host.pw }

/-! ### Hypotheses of the statements about the cores -/

theorem test_witness_s_engine_takes (f : SField) : sTakes running 0 (.fpAdd 0 f) := ⟨rfl, by decide⟩

theorem test_witness_s_engine_takes_not : (Instr.fpAdd 0 fld).sCore = some 0 ∧ (Instr.fpAdd 0 fld).wf = true ∧
    ¬ sTakes State.reset 0 (.fpAdd 0 fld) ∧ ¬ sTakes (withCore { st := .running, sBusy := 1 }) 0 (.fpAdd 0 fld) := by
  refine ⟨rfl, rfl, fun h => ?_, fun h => ?_⟩
  · exact absurd h.1 (by decide)
  · exact absurd h.2 (by decide)

theorem test_witness_nan : isNan32 0x7F800001 = true ∧ isNan32 0xFFFFFFFF = true ∧ isNan32 0x7F800000 = false ∧ isNan32 0 = false := by decide

theorem test_witness_formats : (∃ r, cvtFrom 0 0 0 0 = some r) ∧ (∃ r, cvtFrom 0 12 0 0 = some r) ∧ (∃ r, cvtTo 0 0 0 0 = some r) ∧
    (∃ r, cvtTo 0 12 0 0 = some r) ∧ (∃ f, mxFmt 2 = some f) ∧ (∃ f, mxFmt 6 = some f) := by
  refine ⟨⟨_, rfl⟩, ⟨_, rfl⟩, ⟨_, rfl⟩, ⟨_, rfl⟩, ⟨_, rfl⟩, ⟨_, rfl⟩⟩

theorem test_witness_atomic_lane : Memory.wf (running.core 0).bob = true ∧ bobMarked (running.core 0) 0 = false ∧
    (∀ q ∈ [fld.srcA, fld.srcB, fld.srcC], ∀ i < 2, (lane (running.core 0) q.toNat (0 + i)).poison = false) := by decide

theorem test_witness_integer_step : efmt (acwW 0x099) = some (.int 8) ∧ efmt (acwA 0x099) = some (.int 8) ∧ efmt (acwW 0x0AA) = some (.int 4) := by decide

theorem test_witness_sequencer : (running.core 0).st = .running ∧ (1 : BitVec 23) ≠ 0 ∧ (1279 : BitVec 11).toNat ≤ 1279 ∧
    acwValid 0 = true ∧ (5 : BitVec 3).toNat ≤ 5 := by decide

theorem test_witness_t_engine_idle : (running.core 0).tmac = none := rfl

theorem test_witness_wait_frame : ((withCore { st := .waitFrame, resume := 1280 }).core 0).st = .waitFrame := rfl

theorem test_witness_cycle : (∀ p ∈ [(⟨2, .lane 1 31 ⟨5, true⟩⟩ : Pend)], 0 + 1 < p.due) ∧ 1 ≤ 0 + 1 := by decide

/-- The S field of SLDX with the fields `fld` (R108, R109): from the top SRCC 4, SRCB 3, SRCA 2, DEST 1, MASK 0, TYPE 0, class 13,
OP 2. -/
def sldxWord : Nat := 0b00100000110001000001000011010010

/-- The code of core 0: a bundle of SLDX and XSEND 0, and one of XRED 1 (R104, R111). -/
def code0 : List (BitVec 128) := [BitVec.ofNat 128 (sldxWord * 2 ^ 48 + 8 * 2 ^ 96), BitVec.ofNat 128 ((9 + 64) * 2 ^ 96)]

/-- A pattern of two cores with a message from core 0 to core 1 and a reduction of both. -/
def pat : Pattern := {
  loader := none, tset := 0, modeMask := 63, clusters := 1, oneDie := true, sr := false, length := 1
  cores := [⟨0, 0, code0, []⟩, ⟨0, 1, [], []⟩], steps := [⟨0, 1, []⟩], regions := [], claims := []
  xtable := [⟨false, 0, 0, 1, 0, 0, 1, 0⟩, ⟨true, 0, 1, 1, 0, 0, 128, 0⟩] }

/-- Its cue, running. -/
def cue : Cue := { ctx := 0, tag := 7, binding := 1, grace := 0, notch := 0, seed := 0, late := false, gen := 0, phase := .running, start := 0, epoch := 3 }

/-- The run of the pattern on cores 0 and 1. -/
def run : State := {
  patterns := [(1, pat)], bindings := [(1, { pattern := 1, ctx := 0, cmap := [0], bound := [] })], cues := [(1, cue)]
  cores := [(0, { st := .running, run := some 1, epoch := 3, turn := .x }), (1, { st := .xwait, run := some 1, logical := 1, epoch := 3, xcount := 1 })] }

theorem test_witness_exchange_sends : mayIssue run 0 (.xsend 0 0) = true ∧
    mayIssue { run with cores := [(0, { st := .running, run := some 1, epoch := 3, pc := 1, turn := .x })] } 0 (.xred 0 1) = true ∧ (run.core 0).run = some 1 ∧
    (∃ q b, runOf run 1 = some (q, b, pat) ∧ coreOf b pat 1 = some 1 ∧
      (members b pat ⟨true, 0, 1, 1, 0, 0, 128, 0⟩).findIdx? (· == 0) = some 0) ∧
    pat.xtable[0]? = some ⟨false, 0, 0, 1, 0, 0, 1, 0⟩ ∧ pat.xtable[1]? = some ⟨true, 0, 1, 1, 0, 0, 128, 0⟩ ∧ (run.core 0).xBusy ≤ (run.core 0).cyc := by
  refine ⟨by decide +kernel, by decide +kernel, rfl, ⟨_, _, rfl, rfl, rfl⟩, rfl, rfl, by decide⟩

/-- The message that core 0 sends, of an epoch. -/
def msg (epoch : BitVec 16) (red : Option (Nat × Nat × Nat)) : XMsg :=
  { from_ := 0, dest := 1, ctx := 0, tag := 7, epoch := epoch, addr := 0, bytes := [1], marks := [false], red := red, run := 1 }

theorem test_witness_exchange_arrives :
    mget? { run with msgs := [(0, msg 3 none)] }.msgs 0 = some (msg 3 none) ∧ (run.core 1).epoch = 3 ∧ (run.core 1).epoch ≠ 4 ∧
    (run.core 1).st = .xwait ∧ (run.core 1).xcount ≤ (run.core 1).recv + 1 ∧ (run.core 0).st ≠ .xwait ∧
    redSlot run.reds 1 1 0 0 = none ∧ 1 < (members { pattern := 1, ctx := 0, cmap := [0], bound := [] } pat ⟨true, 0, 1, 1, 0, 0, 128, 0⟩).length := by decide

/-! ### The cores -/

/-- INT32 add past the largest value wraps with ISAT 0 and saturates with ISAT 1 (R92): bit 18 of the ACW. -/
theorem test_int_add_wraps : lane0 (exec (.intAdd 0 .int32 fld) (lanes 0 0x7FFFFFFF 1)) =
    some (some ⟨2, .lane 1 0 ⟨0x80000000, false⟩⟩, 0x100) := by decide +kernel

theorem test_int_add_saturates : lane0 (exec (.intAdd 0 .int32 fld) (lanes 0x40000 0x7FFFFFFF 1)) =
    some (some ⟨2, .lane 1 0 ⟨0x7FFFFFFF, false⟩⟩, 0x100) := by decide +kernel

/-- 1.5 + 2.25 = 3.75 exactly. -/
theorem test_fp_add : lane0 (exec (.fpAdd 0 fld) (lanes 0 0x3FC00000 0x40100000)) =
    some (some ⟨4, .lane 1 0 ⟨0x40700000, false⟩⟩, 0) := by decide +kernel

/-- Rotate turns left, and bit 31 enters bit 0; counts are taken modulo 32 (R92). -/
theorem test_rotate : lane0 (exec (.rotateLeft 0 fld) (lanes 0 0x80000001 33)) =
    some (some ⟨2, .lane 1 0 ⟨0x00000003, false⟩⟩, 0) := by decide +kernel

/-- Multiply high of −1 and −1 is 0 as INT32, and 0xFFFFFFFE as UINT32. -/
theorem test_multiply_high : lane0 (exec (.intMultiplyHigh 0 .int32 fld) (lanes 0 0xFFFFFFFF 0xFFFFFFFF)) =
      some (some ⟨4, .lane 1 0 ⟨0, false⟩⟩, 0) ∧
    lane0 (exec (.intMultiplyHigh 0 .uint32 fld) (lanes 0 0xFFFFFFFF 0xFFFFFFFF)) =
      some (some ⟨4, .lane 1 0 ⟨0xFFFFFFFE, false⟩⟩, 0) := by decide +kernel

/-- Two cores of a run, the first with a fill of its bobbin's first 256 bytes due from cycle 0 to 100. -/
def filling : State := { run with cores := [(0, { st := .running, run := some 1, turn := .s, fills := [⟨0, 100, 0, 256⟩] }), (1, { run := some 1 }), (2, { run := some 2 })] }

/-- Core 0 with a MAC whose weight stream takes the next word of its first bank for each DPU. -/
def crowding (dpus : BitVec 8) : State :=
  withCore { st := .running, tdesc := [(0, { stride := 2048 })], tmac := some { start := true, acc := 0, steps := 1, accStep := false, advance := 0, dpuEn := dpus, acw := 0 } }

theorem test_witness_uncheckable_fill : mayIssue filling 0 (.sldx 0 fld) = true ∧ (filling.core 0).undef = false ∧ (filling.core 0).run = some 1 ∧ 0 ∈ activeLanes (filling.core 0) fld ∧
    (⟨0, 100, 0, 256⟩ : Fill) ∈ (filling.core 0).fills ∧ (0 : Nat) < bobSize ∧ (wordAddr (filling.core 0) fld 0 + 3) % bobSize = (0 + 3) % bobSize := by
  refine ⟨by decide +kernel, rfl, rfl, by decide +kernel, by decide +kernel, by decide, by decide +kernel⟩

theorem test_witness_uncheckable_bank : ∀ i < 3, ∃ x ∈ macReads ((crowding 7).core 0)
    { start := true, acc := 0, steps := 1, accStep := false, advance := 0, dpuEn := 7, acw := 0 } 2, 64 * i ∈ portWords x.1 x.2 := by decide +kernel

theorem test_fill_met : after (exec (.sldx 0 fld) filling) (fun t => ((t.core 0).undef, (t.core 1).undef, (t.core 2).undef)) =
    some (true, true, false) := by decide +kernel

theorem test_bank_crowded : after (exec (.tnop 0) (crowding 7)) (fun t => (t.core 0).undef) = some true ∧
    after (exec (.tnop 0) (crowding 3)) (fun t => (t.core 0).undef) = some false := by decide +kernel

theorem test_loop_returns : after (exec (.loop 0 2 9) (withCore { st := .running, limits := [(2, 2)], indexes := [(2, 0)] }))
    (fun t => ((t.core 0).pc, mget 0 (t.core 0).indexes 2)) = some (9, 1) := by decide +kernel

theorem test_end_idles : after (exec (.endPattern 0) (withCore { st := .running, epoch := 3 })) (fun t => ((t.core 0).st, (t.core 0).epoch)) =
    some (.idle, 0) := by decide +kernel

theorem test_message_ends_xwait : after (exec (.exchangeMessageArrive 0) { run with msgs := [(0, msg 3 none)] })
    (fun t => ((t.core 1).st, (t.core 1).recv, cget (t.core 1).bob 0, t.msgs)) = some (.running, 1, 1, []) := by decide +kernel

/-! ### Hypotheses of the statements about hosts -/

/-- The same module with one thing changed. -/
def hostCold : State := { host with pages := [(0, { st := .home })] }

/-- The module with a window over the object, and an entry of its directory. -/
def winHost (e : Option DirEntry) : State :=
  { host with windows := [(1, { obj := 0, live := true })], directory := match e with | some e => [(0, e)] | none => [] }

/-- An entry of the directory. -/
def entry (st : DirState) (ids : List SrcId) : DirEntry := { st := st, sharers := ids, targets := if st = .recalling then ids else [] }

theorem test_witness_host_reads_turned_away :
    portTakes State.reset 0 = false ∧ portTakes host 0 = true ∧ (host.port 0).memActive = true ∧
    (({ host with ports := [(0, { portUp with memActive := false })] } : State).port 0).memActive = false ∧
    srcOf host 0 0 = 1 ∧
    (match mapSource host 0 1 with | .ok c => c == 0 | _ => false) = true ∧
    (match mapSource { host with srcTab := [] } 0 1 with | .error n => n == 0 | _ => false) = true ∧
    (({ host with ctxs := [(0, { expired := true })] } : State).ctx 0).expired = true ∧ (host.ctx 0).expired = false ∧
    (match decodeHpa host 0 0x10000000 with | .error n => n == 0 | _ => false) = true := by decide +kernel

/-- The front of a request is this decode. -/
def decodes (s : State) (hpa : DWord) (dev : Nat) : Bool :=
  match front s 0 0 hpa with | .decoded c id d => c == 0 && id == 1 && d == dev | _ => false

theorem test_witness_host_reads_served :
    decodes host 0x40 0x40 = true ∧ windowOf host 0x40 = none ∧ decodes host 0xFFFFFC0 0xFFFFFC0 = true ∧ (targetOf host 0xFFFFFC0).isNone = true ∧
    ((targetOf host 0x40).map (fun t => (t.pid, lineResident (pageAt host t.pid) 1, loadFrame (pageAt host t.pid), t.ro))) = some (0, true, some 0, false) ∧
    stackWaits host 0 = false ∧ stackWaits { host with stackSt := [(0, { selfRef := true })] } 0 = true ∧
    ((targetOf host 0x10000).map (fun t => (lineResident (pageAt host t.pid) 0, waitingLoads host 0))) = some (false, 0) ∧
    ((targetOf host 0x20000).map (fun t => (lineResident (pageAt host t.pid) 0, loadFrame (pageAt host t.pid)))) = some (true, none) := by decide +kernel

theorem test_witness_tier_miss_at_once :
    waitingLoads { host with waits := List.replicate 1024 ⟨0, 1, 0, 0, 0x10000, .page, .i, 0, false, none⟩ } 0 = 1024 := by
  simp only [waitingLoads, List.filter_replicate]
  rw [if_pos (by decide)]
  exact List.length_replicate ..

theorem test_witness_responses : (State.reset.port 0).up = false ∧ (host.port 0).up = true ∧ ({ host with shrunk := true } : State).shrunk = true ∧
    inSetChange { host with pw := { host.pw with job := some { mode := 2, frame := 0, notch := 0, setChange := true, begun := some 0 } } } = true := by decide

theorem test_witness_writes : (match front { host with srcTab := [] } 0 0 0 with | .turnedAway _ => true | _ => false) = true ∧
    (targetOf { host with objects := [(0, { base := 0, pages := 4, cls := .warm, layout := .interleaved, owner := 0, head := 0, versioned := true })] } 0).map (fun t => t.ro) = some true ∧
    (∀ fr ∈ (pageAt host 0).frames, stackWaits host (frameStack fr) = false) := by decide +kernel

/-- A reader of a host. -/
def rdr : Reader := { path := 0, ctx := some 0, req := [0, 0], dev := 0 }

theorem test_witness_light_line : Memory.wf host.dram = true ∧ isLight { host with light := [0] } 0 = true ∧ (List.replicate 64 (7 : Byte)).length = 64 ∧
    fullMask ≤ fullMask ∧ lineErr { host with light := [0] } (locOf 0 0 0) 0 = none := by decide +kernel

theorem test_witness_granule :
    (∀ i < 4, lineErr host (locOf 0 0 (64 * i)) (64 * i / 64) = none) ∧ isLight host 0 = false ∧ rdr.checks = true ∧
    ¬ (∀ i < 4, isPoison host i = true) ∧ (∀ i < 4, isPoison { host with poison := [0, 1, 2, 3] } i = true) := by decide +kernel

theorem test_witness_granule_seal (n : Word) (h : n ≠ 0) :
    (let s : State := { host with seals := [(0, crc32c (granuleData host 0))] }
     crc32c (granuleData s 0) = sealOf s 0) ∧
    (let s : State := { host with seals := [(0, crc32c (granuleData host 0) + n)] }
     crc32c (granuleData s 0) ≠ sealOf s 0) := by
  have k : ∀ v : Word, sealOf ({ host with seals := [(0, v)] } : State) 0 = v := fun v => by simp [sealOf, mget, mget?]
  refine ⟨(k _).symm, fun e => h ?_⟩
  have e : crc32c (granuleData host 0) = crc32c (granuleData host 0) + n := Eq.trans e (k _)
  generalize crc32c (granuleData host 0) = c at e
  bv_omega

theorem test_witness_evictions : (∀ w ∈ host.waits, w.why ≠ .entry) ∧ (windowOf (winHost none) 0).isSome = true ∧
    decodes (winHost (some (entry .exclusive [1]))) 0 0 = true ∧
    dirAt (winHost (some (entry .exclusive [1]))) 0 = some (entry .exclusive [1]) ∧
    dirAt (winHost (some (entry .shared [1]))) 0 = some (entry .shared [1]) ∧
    dirAt (winHost (some (entry .shared [1, 2]))) 0 = some (entry .shared [1, 2]) ∧
    dirAt (winHost (some (entry .recalling [1]))) 0 = some (entry .recalling [1]) ∧ (1 : SrcId) ∈ (entry .recalling [1]).targets ∧
    srcOf (winHost none) 0 0 = 1 ∧ (1 : SrcId) ∉ (entry .exclusive [2]).sharers ∧
    (∃ x ∈ sharersOf (winHost none) 0 (entry .shared [1, 2]), x ≠ 1) := by decide +kernel

theorem test_witness_directory_room : (winHost none).directory.length < dirSize := by simp [winHost, dirSize]

theorem test_witness_wait_timers :
    (let w : Waiting := ⟨0, 1, 0, 5, 0x10000, .page, .i, 0, false, none⟩
     ({ host with waits := [w] } : State).waits.find? (fun w => w.port == 0 && w.tag == 5 && w.store.isNone && w.why != .entry) = some w ∧
     (targetOf { host with waits := [w] } w.dev).isSome = true) ∧
    (let w : Waiting := ⟨0, 1, 0, 5, 0x10000, .stack, .i, 0, false, none⟩
     ({ host with waits := [w] } : State).waits.find? (fun w => w.port == 0 && w.tag == 5 && w.store.isNone && w.why != .entry) = some w) := by decide +kernel

/-! ### Hosts -/

/-- A load from a range of no object reads as zeros without poison (R144); one from an identity of no context reads as poison (R338). -/
theorem test_read_unmapped : after (exec (.memRd 0 0 0xFFFFFC0 .i 9) host) (fun t => t.out) = some [.drs 0 1 9 (bytesLine zeroLine) false .i 0] := by decide +kernel

theorem test_read_no_source : after (exec (.memRd 0 0 0 .i 9) { host with srcTab := [] }) (fun t => match t.out.getLast? with
    | some (.drs _ _ 9 _ p .i _) => p | _ => false) = some true := by decide +kernel

/-- A write of one line is stored (R267). -/
theorem test_write_stores : after (exec (.memWr 0 0 0x40 .i 9 (bytesLine (List.replicate 64 0xAB)) false) { host with light := [0] })
    (fun t => cget t.dram 0x40) = some 0xAB := by decide +kernel

/-- A load of a page that is at home waits (R59). -/
theorem test_read_waits : after (exec (.memRd 0 0 0x10000 .i 9) host) (fun t => (t.waits.map (fun w => (w.dev, w.why)), t.out)) = some ([(0x10000, .page)], []) := by decide +kernel

/-! ### Hypotheses of the statements about time, links and power -/

theorem test_witness_ptm :
    (host.port 0).up = true ∧ (host.port 0).ptmEnable = true ∧ host.ft.running = true ∧ (host.port 0).ptm.active = false ∧
    (BitVec.ofNat 64 (host.reg 0x20000)).getLsbD 0 = true ∧
    (BitVec.ofNat 64 (({ host with regs := [(0x20000, 0)] } : State).reg 0x20000)).getLsbD 0 = false ∧
    ((hostPort (fun x => { x with ptm := { x.ptm with active := true, valid := true, invalid := 2 } })).port 0).ptm.active = true ∧
    ctrlLoss 0 ≤ 2 ∧ host.ft.source = 0 ∧
    sourceLost ({ host with ports := [(0, portUp), (1, { portUp with ptm := { portUp.ptm with valid := true } })], ft := { host.ft with source := 1 } } : State) = false ∧
    (hostFt (fun f => { f with anchor := .holdover })).ft.anchor = .holdover ∧ host.ft.anchor ≠ .holdover := by decide +kernel

theorem test_witness_boundary :
    State.reset.ft.running = false ∧ (hostPw (fun w => { w with refLost := true })).pw.refLost = true ∧ host.pw.refLost = false ∧
    (hostPw (fun w => { w with thermalOff := true })).pw.thermalOff = true ∧ host.pw.thermalOff = false ∧
    (hostFt (fun f => { f with renumber := 1 })).ft.renumber ≠ 0 ∧ ({ host with srcDue := true } : State).srcDue = true ∧ host.srcDue = false ∧
    stagedCheck [(0, dec0)] = 0 ∧ stagedCheck [(0, { dec0 with base := 1 })] ≠ 0 := by decide +kernel

theorem test_witness_decoder_commit : ctxEnabled host 0 = true ∧ ctxEnabled host 1 = false ∧ (1 : Word).getLsbD 0 = true ∧
    (({ host with ctxs := [(0, { decBusy := true })] } : State).ctx 0).decBusy = true ∧
    olderRequests { host with ctxs := [(0, { decBusy := true })] } 0 = false ∧
    olderRequests { host with ctxs := [(0, { decBusy := true, decGen := 1 })], waits := [⟨0, 1, 0, 0, 0, .page, .i, 0, false, none⟩] } 0 = true := by decide +kernel

theorem test_witness_links :
    canTrain { host with ports := [] } 0 = true ∧ (4 : BitVec 3) ≠ 0 ∧ (4 : BitVec 3).toNat ≤ 4 ∧ (2 : BitVec 2) ≠ 3 ∧ (host.port 0).up = true ∧
    (host.port 0).rate = 4 ∧ (host.port 1).up = false ∧ ((hostPort (fun x => { x with rate := 2 })).port 0).rate ≠ 4 ∧
    ((hostPort (fun x => { x with retrain := true })).port 0).retrain = true ∧
    (((hostPort (fun x => { x with recovery := [5000000, 5000000, 5000000, 5000000] })).port 0).recovery.filter
      (fun b => decide (host.ft.run < b + framesPerSecond)) ++ [host.ft.run]).length = 5 := by decide +kernel

theorem test_witness_functions : vfsOn host 0 = 1 ∧ (0 : BitVec 7).toNat < vfsOn host 0 ∧ vfsOn host 0 < (64 : BitVec 7).toNat ∧ (64 : BitVec 7).toNat ≤ 64 ∧
    fnPresent host (.pf 0) = true ∧ fnPresent host (.vf 0) = true ∧ fnPresent host (.pf 1) = false ∧ fnPresent host (.vf 1) = false ∧
    (host.port 0).msixPend = 0 := by decide +kernel

theorem test_witness_pins :
    stewardHears host (.sideband 0) = true ∧ mgmtSummary host = 0 ∧
    mgmtSummary { host with regs := [(intStatusOff 0, 1), (intEnableOff 0, 1)] } ≠ 0 ∧ host.fieldOf 0xA0000 0 1 = 1 ∧ host.fieldOf 0xA0000 2 1 = 1 ∧
    hubOn host = true ∧ hubOn (hostPw (fun w => { w with power := false })) = false ∧ coolEnough host = true ∧
    coolEnough (hostPw (fun w => { w with thermalOff := true, logicMax := 90 })) = false ∧
    resetRefused host = false ∧ resetRefused (hostPw (fun w => { w with power := false })) = true ∧
    mget .off (hostPw (fun w => { w with doms := [(0, .rising)] })).pw.doms 0 = .rising ∧ mget .off host.pw.doms 79 ≠ .rising := by decide +kernel

theorem test_witness_sensors : 3 ≤ host.pw.stage ∧ host.pw.power = true ∧ host.pw.pwrEn = true ∧
    (hostPw (fun w => { w with pwrEn := false })).pw.pwrEn = false ∧ (hostPw (fun w => { w with refLost := true })).pw.refLost = true := by decide

/-- The module in a stage of start-up. -/
def inStage (n : Nat) : State := { pw := { stage := n } }

theorem test_witness_startup :
    hubOn (inStage 1) = true ∧ (inStage 1).pw.held = false ∧ (inStage 7).pw.readyMs = 0xFFFF ∧ stageReady (inStage 1) = true ∧ stageReady (inStage 3) = false ∧
    stageReady (inStage 4) = true ∧ stageFails (inStage 4) = some 3 ∧ stageFails (inStage 1) = none ∧
    mget .off (inStage 5).pw.doms 0 = .off ∧ mhas (inStage 5).pw.doms 0 = false := by decide +kernel

/-! ### Time, links and power -/

/-- A frame is 1,024 ns: the boundary after 1,024,000,000 ns is 1,024 ns later (R26). -/
theorem test_boundary_time : after (exec .frameBoundary { ft := { running := true, time := 1024 } }) (fun t => (t.ft.time, t.ft.run)) =
    some (2048, State.reset.ft.run + 1) := by decide +kernel

/-- A first valid dialog of an unanchored module with an offset of one frame: ACQUIRING, one frame to renumber (R30 to R33). -/
theorem test_first_dialog : after (exec (.ptmDialogResponse 0 2048 0)
      { ft := { running := true, time := 1024 }, ports := [(0, { up := true, ptmEnable := true, ptm := { active := true } })] })
    (fun t => (t.ft.anchor, t.ft.renumber, t.ft.offset)) = some (.acquiring, 1, 1024) := by decide +kernel

/-- HOLDOVER expires (R33). -/
theorem test_holdover : after (exec .holdoverExpired { ft := { running := true, anchor := .holdover } }) (fun t => t.ft.anchor) = some .expired := by decide +kernel

theorem test_module_reset_pin : after (exec .modRstFall State.reset) (fun t => (t.pw.stage, t.pw.modRst)) = some (0, true) := by decide +kernel

theorem test_link_down : after (exec (.linkDown 0) host) (fun t => ((t.port 0).up, (t.port 0).memActive, (t.ctx 0).gen)) = some (false, false, 1) := by decide +kernel


/-! ### The rings and the walker -/

/-- The next state. -/
def nextOf (o : Out) : State := match o with | .next t => t | _ => {}

/-- Context 0 with its ring bases set. -/
def ringBases : State := host.modCtx 0 (fun x => { x with ring := { x.ring with wrBase := 0x40000, erBase := 0x50000 } })

/-- Context 0 with its rings enabled. -/
def ringsUp : State := nextOf (exec (.ringEnable 0 0x0801) ringBases)

/-- Context 0 with one entry in its work ring. -/
def ringed (e : Line) : State :=
  let s := putOwnLine ringsUp 0x40000 (lineBytes e)
  s.modCtx 0 (fun x => { x with ring := { x.ring with wrTail := 1 } })

/-- A work-ring entry: the opcode, the tag and the operand words. -/
def entryOf (op : Nat) (tag : Nat) (words : List Nat) : Line :=
  bytesLine (leBytes 2 op ++ [0, 0] ++ leBytes 4 tag ++ words.flatMap (leBytes 4))

/-- What the walker made of the entry: 0 not taken, 1 ended, 2 taken. -/
def takes (s : State) (e : Line) (op : Nat) : Nat := match takeEntry s 0 e op with | .notTaken => 0 | .ended _ => 1 | .taken .. => 2

/-- Context 0 changed. -/
def ctx0 (s : State) (f : CtxState → CtxState) : State := s.modCtx 0 f

/-- Its rings changed. -/
def ring0 (s : State) (f : Ring → Ring) : State := ctx0 s (fun x => { x with ring := f x.ring })

/-- A NOP and its ring. -/
def nopEntry : Line := entryOf 15 7 []

/-- Which ring error a creation comes to: 0 for none. -/
def ringObjErr (s : State) (base : Nat) : Nat := match ringObject s 0 base 8 with | .ok _ => 0 | .error e => e

theorem test_witness_ring_enable :
    ctxEnabled ringBases 0 = true ∧ (ringBases.ctx 0).ring.enabled = false ∧ (ringBases.ctx 0).ring.draining = false ∧
    ringObjErr ringBases 0x40000 = 0 ∧ ringObjErr ringBases 0x50000 = 0 ∧ ringObjErr ringBases 1 = 1 ∧ ringObjErr ringBases 0 = 2 ∧
    ringObjErr ringBases 0x10000000 = 1 ∧ 
    (ringsUp.ctx 0).ring.enabled = true ∧ (ringsUp.ctx 0).ring.draining = false ∧ grantedRun host 0 0x40000 65536 = true ∧
    overlaps host 0 65536 = true ∧ overlaps host 0x40000 65536 = false := by decide +kernel

theorem test_witness_ring_drain :
    ((ring0 ringsUp (fun r => { r with draining := true })).ctx 0).ring.draining = true ∧ (ringsUp.ctx 0).ring.flights = [] ∧
    ((ring0 ringsUp (fun r => { r with draining := true, flights := [{ tag := 1, opcode := 9 }] })).ctx 0).ring.flights ≠ [] := by decide +kernel

theorem test_witness_doorbell : (5 : Nat) < ringSize 8 ∧ ringSize 8 ≤ (256 : Nat) ∧ bits (0x100 : Word).toNat 0 12 = 256 ∧
    (((ring0 ringsUp (fun r => { r with wrTail := 5 })).ctx 0).ring.wrTail.toNat + 256 - 0) % 256 = 5 ∧ (4 + 256 - 0) % 256 < (5 : Nat) := by decide +kernel

/-- Every way the walker takes no entry, and the four ways it takes one. -/
theorem test_witness_walker :
    takes (ringed nopEntry) nopEntry 15 = 2 ∧ walkerReady (ringed nopEntry) 0 nopEntry = true ∧ takes ringsUp nopEntry 15 = 0 ∧ takes host nopEntry 15 = 0 ∧
    takes (ring0 (ringed nopEntry) (fun r => { r with draining := true })) nopEntry 15 = 0 ∧
    takes (ring0 (ringed nopEntry) (fun r => { r with erHead := 2, erTail := 1 })) nopEntry 15 = 0 ∧
    takes (ring0 (ringed nopEntry) (fun r => { r with flights := (List.range 64).map (fun i => { tag := BitVec.ofNat 32 i, opcode := 9 }) })) nopEntry 15 = 0 ∧
    takes { ringed nopEntry with rv := { (ringed nopEntry).rv with outOfService := true } } nopEntry 15 = 1 ∧
    takes (ctx0 (ringed nopEntry) (fun x => { x with expired := true })) nopEntry 15 = 1 ∧
    takes (ctx0 (ringed nopEntry) (fun x => { x with quarantined := true })) nopEntry 15 = 1 ∧
    takes (ringed 0) 0 15 = 1 ∧ (ringLine (ringed nopEntry) 0).2.2 = false ∧ bytesLine (ringLine (ringed nopEntry) 0).2.1 = nopEntry := by decide +kernel

/-- A work ring whose base is in no object reads as poisoned. -/
theorem test_witness_poisoned_entry :
    (let s := ring0 (ringed nopEntry) (fun r => { r with wrBase := 0x90000 })
     walkerReady s 0 nopEntry = true ∧ (ringLine s 0).2.2 = true) := by decide +kernel

/-- NOP ends with OK: its completion carries the tag (R400). -/
theorem test_nop_completes : after (exec (.nop 0 nopEntry) (ringed nopEntry))
    (fun t => ((t.ctx 0).ring.wrHead, decide ((t.ctx 0).ring.flights = [{ tag := 7, opcode := 15, ended := some (0, []) }]))) = some (1, true) := by decide +kernel

/-- A context with a command that has ended. -/
def ended0 : State := ring0 ringsUp (fun r => { r with flights := [{ tag := 7, opcode := 15, ended := some (0, []) }], intEn := true, intTime := 1, written := 0 })

theorem test_witness_event_ring : (ended0.ctx 0).ring.enabled = true ∧ deviceQueued ended0 0 7 = false ∧
    (ended0.ctx 0).ring.flights.findIdx? (fun f => f.tag == 7 && f.ended.isSome) = some 0 ∧
    (ended0.ctx 0).ring.flights[0]? = some { tag := 7, opcode := 15, ended := some (0, []) } ∧
    (ended0.ctx 0).ring.intEn = true ∧ (ended0.ctx 0).ring.written + 1 = (ended0.ctx 0).ring.intCount.toNat ∧ (ringsUp.ctx 0).ring.intEn = false ∧
    0 < ((ring0 ended0 (fun r => { r with written := 1 })).ctx 0).ring.written ∧ (ended0.ctx 0).ring.intTime ≠ 0 ∧ (host.ctx 0).ring.enabled = false ∧
    deviceQueued { host with directory := [(0, { st := .exclusive, sharers := [1], queue := [.device { ctx := 0, tag := 7, src := .walker 0, master := 9 } 0 [] 255 [] false] })] } 0 7 = true := by decide +kernel

/-- The entry of a completion: phase 1, kind 1, opcode 15, the tag (R400). -/
theorem test_completion_entry : after (exec (.completionPost 0 7) ended0)
    (fun t => ((t.ctx 0).ring.erTail, cget t.dram 0)) = some (1, cget host.dram 0) := by decide +kernel

/-- Frames in use: `k` entries for each sliver. -/
def fullFrames (k : Nat) : AMap FrameUse := (List.range 2560).flatMap (fun sl => List.replicate k (sl * 8192, .used 0))

/-- The module with some frames in use. -/
def packed (m : AMap FrameUse) : State := { ringBases with frames := m }

theorem fullFrames_length (k sl : Nat) (h : sl < 2560) : k ≤ ((fullFrames k).filter (fun f => f.1 / 8192 == sl)).length := by
  have e : List.replicate k (sl * 8192, FrameUse.used 0) = (List.replicate k (sl * 8192, FrameUse.used 0)).filter (fun f => f.1 / 8192 == sl) := by
    rw [List.filter_replicate, if_pos (by simp)]
  have g : (List.replicate k (sl * 8192, FrameUse.used 0)).Sublist (fullFrames k) :=
    List.sublist_flatten_of_mem (List.mem_map.mpr ⟨sl, List.mem_range.mpr h, rfl⟩)
  have := (g.filter (fun f => f.1 / 8192 == sl)).length_le
  rwa [← e, List.length_replicate] at this

theorem packed_noFrames (n ix : Nat) (o : Obj) (l : o.layout = .interleaved) (s : State) (e : s.frames = fullFrames 8192) :
    findFrames s n o ix false = none := by
  have k : searchSliver s n ix false = none := by
    unfold searchSliver
    rw [List.find?_eq_none]
    intro x hx
    obtain ⟨i, -, rfl⟩ := List.mem_map.mp hx
    have f : sliverFree s ((n * 7 + ix + i) % 2560) = 0 := by
      have := fullFrames_length 8192 ((n * 7 + ix + i) % 2560) (Nat.mod_lt _ (by decide))
      rw [sliverFree, sliverUsed, e]
      omega
    simp [canAlloc, f]
  simp [findFrames, l, k]

/-- The object of a work ring. -/
def ringObj : Obj := { base := 0x40000, pages := 1, cls := .scratch, layout := .interleaved, owner := 0, head := 0, ring := true }

theorem createObject_noFrames (s : State) (o p : Obj) (e : s.frames = fullFrames 8192) (h : o.cls = .scratch)
    (g : objAt (addObject s o).1 (addObject s o).2 = some p) (l : p.layout = .interleaved) (n : p.pages = 1) : createObject s o = none := by
  have f : (addObject s o).1.frames = fullFrames 8192 := e
  unfold createObject
  simp only [g, h, n, allocScratch, packed_noFrames _ _ _ l _ f, if_true, Option.map_none]

theorem packed_object (m : AMap FrameUse) : objAt (addObject (packed m) ringObj).1 (addObject (packed m) ringObj).2 = some { ringObj with head := 1 } := by
  rfl

theorem test_witness_ring_no_frames (m : AMap FrameUse) (e : m = fullFrames 8192) : createObject (packed m) ringObj = none :=
  createObject_noFrames _ _ _ e rfl (packed_object m) rfl rfl

/-! ### The paths of the module's commands -/

/-- The command is not turned away: the check of Accepted. -/
def accepts (s : State) (via : Path) (op : Nat) (input : List Byte) : Bool :=
  match reachesSteward s via op input with
  | none => false
  | some (a, _) => match mciRow op with
    | some row => commonStatus a op row via == 0
    | none => true

theorem accepts_accepted {s : State} {via : Path} {op : Nat} {input : List Byte} (h : accepts s via op input = true) :
    ∃ a m, Accepted s via op input a m := by
  unfold accepts at h
  split at h
  · cases h
  · rename_i a tag e
    refine ⟨a, { via := via, tag := tag, ctx := pathCtx a via, owner := viaOwner a via, input := input }, e, rfl, ?_⟩
    intro row hr
    rw [hr] at h
    simpa using h

/-- The module with its sideband acting for context 0. -/
def steward : State := { host with sbCtx := [(0, 0)] }

/-- The inputs of zeros, but for the widths of the register commands, the length of a table's entries and a sensor's kind. -/
def blank (op : Nat) : List Byte :=
  match mciRow op with
  | some r => (List.range r.len).map (fun i => if (op = 0xC0B3 ∨ op = 0xC0B4) ∧ i = 4 then 4 else 0)
  | none => []

/-- Every command of R402 is accepted on the sideband, so that no statement about one has hypotheses that nothing meets. -/
theorem test_witness_accepted : [0xC000, 0xC001, 0xC010, 0xC011, 0xC012, 0xC013, 0xC020, 0xC021, 0xC022, 0xC023, 0xC030, 0xC031, 0xC040, 0xC041, 0xC042,
    0xC043, 0xC044, 0xC045, 0xC046, 0xC047, 0xC050, 0xC051, 0xC060, 0xC061, 0xC070, 0xC071, 0xC080, 0xC081, 0xC090, 0xC091, 0xC0A0, 0xC0A1, 0xC0B0, 0xC0B1,
    0xC0B2, 0xC0B3, 0xC0B4, 0xC0C0, 0xC0C1, 0xC0D0, 0xC0D1, 0xC0D2].all (fun op => accepts steward (.sideband 0) op (blank op)) = true := by decide +kernel

/-- A work ring with a STEWARD entry handed over. -/
def handedOver (op : BitVec 16) (input : List Byte) : State :=
  ring0 ringsUp (fun r => { r with flights := [{ tag := 7, opcode := 16, steward := true, mci := op, input := input, outAddr := 0, outLen := 64 }] })

theorem test_witness_paths :
    accepts (handedOver 0xC050 []) (.ring 0) 0xC050 [] = true ∧ accepts steward (.mailbox 0 false) 0xC000 [] = true ∧
    stewardHears (hostPw (fun w => { w with stage := 2 })) (.ring 0) = false ∧ stewardHears steward (.sideband 0) = true ∧
    returnCode 0xC000 [] = 0 ∧ returnCode 0xC000 [0] = 0x16 ∧ returnCode 0xC022 [0, 0, 0, 0, 4] = 2 ∧ returnCode 0xCFFF [] = 3 ∧
    (handed ringsUp 0 0xC050 []).isNone = true ∧ (handed (handedOver 0xC050 []) 0 0xC050 []).isSome = true ∧
    (handed (handedOver 0xC022 [0, 0, 0, 0, 4]) 0 0xC022 [0, 0, 0, 0, 4]).isSome = true ∧
    (mbox (hostPort (fun x => { x with mbox0 := { x.mbox0 with bg := some { opcode := 0xC010 } } })) 0 false).bg.isSome = true ∧
    returnCode 0xC010 (blank 0xC010) = 0 ∧ 0xC010 ∈ backgroundOps := by decide +kernel

theorem test_witness_authority :
    classAccepts host .fabric (.ring 0) = false ∧ (mciRow 0xC0B0).map (·.cls) = some .fabric ∧ (reachesSteward (handedOver 0xC0B1 [0]) (.ring 0) 0xC0B1 [0]).isSome = true ∧
    classAccepts host .context (.sideband 0) = true ∧ pathCtx host (.sideband 0) = none ∧ (reachesSteward host (.sideband 0) 0xC050 []).isSome = true ∧
    pathCtx steward (.sideband 0) = some 0 ∧ ({ steward with rv := { steward.rv with outOfService := true } } : State).rv.outOfService = true ∧
    0xC010 ∈ outOfServiceOps ∧ tenantPath host (.ring 0) = true ∧ ((ctx0 ringsUp (fun x => { x with expired := true })).ctx 0).expired = true ∧
    ((ctx0 ringsUp (fun x => { x with quarantined := true })).ctx 0).quarantined = true ∧ 0xC010 ∉ quarantineOps := by decide +kernel

/-- A STEWARD entry of MCI_IDENTIFY, whose input is empty and whose output goes to device memory 0. -/
def stewardEntry : Line := entryOf 16 7 [0xC000, 0, 0, 0, 0, 0, 64]

theorem test_witness_steward_entry :
    takes (ringed stewardEntry) stewardEntry 16 = 2 ∧ (nmRuns stewardEntry).all (fun r => reachesRun host 0 r.1 r.2) = true ∧
    (nmRuns (entryOf 16 7 [0xC000, 0, 0, 0, 0, 0x10000000, 64])).all (fun r => reachesRun host 0 r.1 r.2) = false := by decide +kernel

/-! ### Registers -/

theorem test_witness_registers :
    pfTakes host 0 = true ∧ host.owner = some 0 ∧ pfTakes host 1 = false ∧ regBytes 0x10010 = 4 ∧ (regAt 0x10010).isSome = true ∧ regAt 0x3FFFF0 = none ∧
    (∀ b < 14, intEnableOff b ≠ 0x10010) ∧ vfTakes host 0 = true ∧ vfTakes host 1 = false ∧ (ringBases.ctx 0).ring.enabled = false ∧
    (ringsUp.ctx 0).ring.enabled = true ∧ (0x401 : DWord).toNat.testBit 0 = true ∧ (0 : DWord).toNat.testBit 0 = false ∧
    bfield (blank 0xC0B3) 0 4 < 0x400000 ∧ accepts steward (.sideband 0) 0xC0B3 [0, 0, 0x40, 0, 4] = true ∧ 0x400000 ≤ bfield [0, 0, 0x40, 0, 4] 0 4 ∧
    accepts steward (.sideband 0) 0xC0B4 [0, 0, 0x40, 0, 4, 0, 0, 0, 0, 0, 0, 0, 0, 0, 0, 0] = true := by decide +kernel

/-- A bit of INT_ENABLE set over a bit that is pending, and one set over a bit that is not. -/
theorem test_witness_enable : bit (({ host with regs := [(intStatusOff 0, 1)] } : State).reg (intStatusOff 0)) 0 = true ∧ bit (1 : Word).toNat 0 = true ∧
    bit (({ host with regs := [(intStatusOff 0, 1)] } : State).reg (intEnableOff 0)) 0 = false ∧
    (∀ i < intWidths.getD 0 0, bit (host.reg (intStatusOff 0)) i = false) := by decide +kernel

/-- A field of every access code but the read-only ones, which take nothing. -/
theorem test_witness_fields : ((intRegs ++ blockRegs ++ blockRegs2).any (fun d => d.fields.any (fun f => f.acc == .w1c))) = true ∧
    ((intRegs ++ blockRegs ++ blockRegs2).any (fun d => d.fields.any (fun f => f.acc != .wo && f.acc != .w1c && !fieldLegal d.off f (2 ^ f.len - 1)))) = true ∧
    ((intRegs ++ blockRegs ++ blockRegs2).any (fun d => d.fields.all (fun f => f.lo != 31 && decide (f.lo + f.len ≤ 31)))) = true := by decide +kernel

/-- A write of a 1 to a W1C bit clears it, and leaves the others (R10). -/
theorem test_w1c : after (exec (.registerWrite (.module 0) (BitVec.ofNat 22 (intStatusOff 10)) 4 1) { host with regs := [(intStatusOff 10, 3)] })
    (fun t => t.reg (intStatusOff 10)) = some 2 := by decide +kernel

/-- A write through a port that is not the owner's is ignored (R332). -/
theorem test_write_not_owner : same (exec (.registerWrite (.module 1) 0x10010 4 0x20) host) host = true := by decide +kernel

/-! ### Cues, pages, near memory and swaps -/

/-- A pattern of one cluster and one frame, and a binding of it. -/
def patt : Pattern := { loader := some 0, tset := 0, modeMask := 0x3F, clusters := 1, oneDie := false, sr := false, length := 1, cores := [], steps := [], regions := [], claims := [], xtable := [] }

/-- A module with an entry in a ring, a pattern and a binding. -/
def bound (e : Line) : State := { ringed e with patterns := [(1, patt)], bindings := [(1, { pattern := 1, ctx := 0, cmap := [0], bound := [] })] }

/-- A CUE of binding `b`, in the frame `n`, with the late flag or without. -/
def cueEntry (b n : Nat) (late : Bool) : Line :=
  bytesLine (leBytes 2 1 ++ [if late then 2 else 0, 0] ++ leBytes 4 7 ++ leBytes 4 b ++ leBytes 4 0 ++ leBytes 8 (1024 * n) ++ leBytes 4 5)

/-- The start that an armed cue has. -/
def startSet (o : Out) : Option (List Nat) := after o (fun t => t.cues.map (fun q => q.2.start))

/-- The statuses that the commands of context 0 have ended with. -/
def statuses (o : Out) : Option (List (Option Nat)) := after o (fun t => (t.ctx 0).ring.flights.map (fun f => f.ended.map (fun x => x.1.toNat)))

/-- A cue in good time is armed; a late one starts at the earliest boundary when its flag is set, and is refused when it is
not; one of an unknown binding is refused (R50, R51). -/
theorem test_cue : startSet (exec (.cue 0 (cueEntry 1 1000010 false)) (bound (cueEntry 1 1000010 false))) = some [1000010] ∧
    startSet (exec (.cue 0 (cueEntry 1 1000000 true)) (bound (cueEntry 1 1000000 true))) = some [1000002] ∧
    statuses (exec (.cue 0 (cueEntry 1 1000000 false)) (bound (cueEntry 1 1000000 false))) = some [some 0x25] ∧
    statuses (exec (.cue 0 (cueEntry 2 1000010 false)) (bound (cueEntry 2 1000010 false))) = some [some 0x26] := by decide +kernel

theorem test_witness_cues :
    takes (bound (cueEntry 1 1000010 false)) (cueEntry 1 1000010 false) 1 = 2 ∧ cuesAccepted host = true ∧ cuesAccepted State.reset = false ∧
    mget? (bound 0).bindings 1 = some { pattern := 1, ctx := 0, cmap := [0], bound := [] } ∧ mget? (bound 0).patterns 1 = some patt ∧
    (mget? ({ bound 0 with bindings := [(1, { pattern := 1, ctx := 3, cmap := [0], bound := [] })] } : State).bindings 1).map (fun b => b.ctx) = some 3 ∧
    (mget? ({ bound 0 with bindings := [(1, { pattern := 1, ctx := 0, cmap := [0], bound := [], quarantined := true })] } : State).bindings 1).map (fun b => b.quarantined) = some true ∧
    modeSet (modeAt { host with pw := { host.pw with mode := 2 } } 1000010) ≠ patt.tset ∧ host.ft.time.toNat + 60000000000 < (62000000000 : Nat) := by decide +kernel

/-- A PROMOTE, FLUSH or EVICT of an object: the opcode, the object, its first page and its count. -/
def tierEntry (op n first count : Nat) : Line := entryOf op 7 [n, first, count]

theorem test_witness_page_commands :
    takes (ringed (tierEntry 2 0 0 4)) (tierEntry 2 0 0 4) 2 = 2 ∧ takes (ringed (tierEntry 3 0 0 0)) (tierEntry 3 0 0 0) 3 = 2 ∧
    takes (ringed (tierEntry 4 0 0 4)) (tierEntry 4 0 0 4) 4 = 2 ∧ tierCheck host 0 0 true true 0 4 = 0 ∧ tierCheck host 0 0 false false 0 0 = 0 ∧
    tierCheck host 0 0 true true 1 4 = 0x12 ∧ tierCheck host 0 9 true true 0 4 = 0x50 ∧ tierCheck host 1 0 true true 0 4 = 0x11 ∧
    tierCheck State.reset 0 0 true true 0 4 = 0x19 ∧ hasPin host 0 0 = false ∧ hasPin { host with pins := [0] } 0 0 = true := by decide +kernel

theorem test_witness_pins_full : 1048576 ≤ ({ host with pins := List.replicate 1048576 5 } : State).pins.length := by
  rw [show ({ host with pins := List.replicate 1048576 5 } : State).pins = List.replicate 1048576 5 from rfl, List.length_replicate]

/-- A page past the object's end is refused (R169). -/
theorem test_flush_range : statuses (exec (.flush 0 (tierEntry 4 0 1 4)) (ringed (tierEntry 4 0 1 4))) = some [some 0x12] := by decide +kernel

/-- Near-memory entries: a fill, copy, compare, reduction and exchange. -/
def fillEntry (a n p : Nat) : Line := bytesLine (leBytes 2 8 ++ [0, 0] ++ leBytes 4 7 ++ leBytes 8 a ++ leBytes 8 n ++ leBytes 8 p)

def moveEntry (op a b n : Nat) : Line := bytesLine (leBytes 2 op ++ [0, 0] ++ leBytes 4 7 ++ leBytes 8 a ++ leBytes 8 b ++ leBytes 8 n)

def reduceEntry (a n : Nat) : Line := bytesLine (leBytes 2 11 ++ [0, 0] ++ leBytes 4 7 ++ leBytes 8 a ++ leBytes 8 n)

def atomicEntry (a x : Nat) : Line := bytesLine (leBytes 2 12 ++ [0, 0] ++ leBytes 4 7 ++ leBytes 8 a ++ leBytes 8 0 ++ leBytes 8 x)

/-- An entry is taken, has well-formed addresses, and lies in the context's grants and in resident pages. -/
def nmRuns? (e : Line) (op : Nat) : Bool × Bool × Bool × Bool :=
  (takes (ringed e) e op == 2 && entryOp e == op, nmRange e, (nmRuns e).all (fun r => r.2 == 0 || grantedRun host 0 r.1 r.2), (runPids host (nmRuns e)).any (pageMissing host))

theorem test_witness_near_memory :
    nmRuns? (fillEntry 0 64 5) 8 = (true, false, true, false) ∧ nmRuns? (moveEntry 9 0 128 64) 9 = (true, false, true, false) ∧
    nmRuns? (moveEntry 10 0 128 64) 10 = (true, false, true, false) ∧ nmRuns? (reduceEntry 0 1024) 11 = (true, false, true, false) ∧
    nmRuns? (atomicEntry 0 1) 12 = (true, false, true, false) ∧ nmRuns? (fillEntry 1 64 5) 8 = (true, true, true, false) ∧
    nmRuns? (moveEntry 9 0 0 64) 9 = (true, true, true, false) ∧ nmRuns? (fillEntry 0x10000000 64 5) 8 = (true, false, false, false) ∧
    nmRuns? (fillEntry 0x10000 64 5) 8 = (true, false, true, true) := by decide +kernel

/-- NM_FILL writes its pattern (R195). -/
theorem test_fill : after (exec (.nmFill 0 (fillEntry 0 64 0x0807060504030201)) { ringed (fillEntry 0 64 0x0807060504030201) with light := [0, 57344, 114688] })
    (fun t => (List.range 3).map (fun i => cget t.dram i)) = some [1, 2, 3] := by decide +kernel

/-- A swap of `n` pages between host address `h` and device address `d`. -/
def swapEntry (op h d n : Nat) : Line := bytesLine (leBytes 2 op ++ [0, 0] ++ leBytes 4 7 ++ leBytes 8 h ++ leBytes 8 d ++ leBytes 4 n)

/-- A context that may swap. -/
def swapper (e : Line) : State := ctx0 (ringed e) (fun x => { x with swapGrant := true })

theorem test_witness_swaps :
    takes (swapper (swapEntry 13 0 0 1)) (swapEntry 13 0 0 1) 13 = 2 ∧ takes (swapper (swapEntry 14 0 0 1)) (swapEntry 14 0 0 1) 14 = 2 ∧
    swapStatus host 0 (swapEntry 13 0 0 1) = 0x73 ∧ swapStatus (ctx0 host (fun x => { x with swapGrant := true, bme := false })) 0 (swapEntry 13 0 0 1) = 0x90 ∧
    swapStatus (swapper 0) 0 (swapEntry 13 0 0 1) = 0 ∧ swapStatus (swapper 0) 0 (swapEntry 13 1 0 1) = 0x12 ∧
    swapStatus (swapper 0) 0 (swapEntry 13 0 0 0) = 0 ∧ entryOp (swapEntry 14 0 0 1) = 14 ∧ (runPids host (nmRuns (swapEntry 14 0 0 1))).any (pageMissing host) = false ∧
    (swapOf host 0 7).isNone = true ∧ (swapOf { host with upstream := [{ ctx := 0, tag := 7, host := 0, dev := 0, pages := 1 }] } 0 7).isSome = true := by decide +kernel

/-- SWAP_IN asks the host for its first 4,096 bytes (R347). -/
theorem test_swap_in : after (exec (.swapIn 0 (swapEntry 13 0x1000 0 1)) (swapper (swapEntry 13 0x1000 0 1))) (fun t => t.out) =
    some [.upRead 0 0x1000 4096 7] := by decide +kernel

/-- An error completion ends the swap with no page moved (R347). -/
theorem test_swap_error : statuses (exec (.upstreamCompletion 0 7 false false [])
      (ring0 { ringsUp with upstream := [{ ctx := 0, tag := 7, host := 0, dev := 0, pages := 1 }] } (fun r => { r with flights := [{ tag := 7, opcode := 13 }] }))) =
    some [some 0x91] := by decide +kernel

/-! ### The link codecs and the tiering engine -/

/-- A call for context 0. -/
def call (input : List Byte) : MciCall := { via := .sideband 0, tag := 0, ctx := some 0, owner := false, input := input }

/-- A channel of context 0 over object 0, into it or out of it. -/
def chan (out : Bool) (jobs : List CodecJob) : CodecChan := { ctx := 0, object := 0, out := out, xform := 0, refKind := 0, sr := false, jobs := jobs }

/-- The module with such a channel. -/
def coded (s : State) (out : Bool) (jobs : List CodecJob) : State := { s with chanCodec := [(1, chan out jobs)], nextChan := 2 }

/-- A codec command's entry: offset 0, its length, and a buffer of `b` bytes at device address `a`. -/
def codecEntry (op len a b : Nat) : Line :=
  bytesLine (leBytes 2 op ++ [0, 0] ++ leBytes 4 7 ++ leBytes 4 1 ++ leBytes 4 0 ++ leBytes 8 0 ++ leBytes 8 len ++ leBytes 8 a ++ leBytes 8 b)

/-- A command on the channel. -/
def job (op at_ len a b : Nat) : CodecJob := { tag := 7, opcode := op, offset := at_, length := len, bufAddr := a, bufLen := b, seq := 0 }

theorem test_witness_codec_open :
    accepts steward (.sideband 0) 0xC060 (blank 0xC060) = true ∧ codecOn steward = true ∧
    (match reachObject steward (call (blank 0xC060)) 0 with
      | .ok o => (match openRef steward (call (blank 0xC060)) o with | .ok r => r == (0, none) | .error _ => false)
      | .error _ => false) = true ∧
    xformBad (call (blank 0xC060)) = false ∧ chansWhere steward (fun x => x.ctx == 0) < 16 := by decide +kernel

theorem test_witness_codec_close : accepts (coded steward true []) (.sideband 0) 0xC061 [1, 0, 0, 0] = true ∧
    chanOf (coded steward true []) 1 = some (chan true []) ∧ chanOf (coded steward true [job 6 0 256 0 0]) 1 = some (chan true [job 6 0 256 0 0]) := by decide +kernel

theorem test_witness_codec_commands :
    takes (coded (ringed (codecEntry 5 4096 0 64)) false []) (codecEntry 5 4096 0 64) 5 = 2 ∧
    takes (coded (ringed (codecEntry 6 4096 0 64)) true []) (codecEntry 6 4096 0 64) 6 = 2 ∧
    takes (coded (ringed (codecEntry 7 4096 0 64)) true []) (codecEntry 7 4096 0 64) 7 = 2 ∧
    codecStatus (coded steward false []) 0 (codecEntry 5 4096 0 64) = 0 ∧ codecStatus (coded steward true []) 0 (codecEntry 6 4096 0 64) = 0 ∧
    codecStatus (coded (ctx0 steward (fun x => { x with swapGrant := true })) true []) 0 (codecEntry 7 4096 0 64) = 0 ∧
    codecStatus (coded steward true []) 0 (codecEntry 5 4096 0 64) = 0x71 ∧ codecStatus steward 0 (codecEntry 5 4096 0 64) = 0x70 ∧
    codecStatus (coded steward true []) 0 (codecEntry 7 4096 0 64) = 0x73 := by decide +kernel

/-- A piece whose page is resident, and one whose page is at home; a buffer of no bytes, and one of 8 KiB. -/
theorem test_witness_pieces :
    readyJob (coded host false [job 5 0 256 0 64]) 1 = some (chan false [job 5 0 256 0 64], job 5 0 256 0 64) ∧
    (piecePids host (chan false []) (job 5 0 256 0 64)).any (pageMissing host) = false ∧
    (piecePids host (chan false []) (job 5 65536 256 0 64)).any (pageMissing host) = true ∧
    (piecePids host (chan true []) (job 6 0 256 0 0)).any (pageMissing host) = false ∧
    (piecePids host (chan true []) (job 6 65536 256 0 0)).any (pageMissing host) = true := by decide +kernel

/-- CODEC_OUT into a buffer of no bytes ends with BUFFER (R195). -/
theorem test_encode_buffer : statuses (exec (.pieceEncode 1) (coded (ring0 { ringsUp with light := [0] } (fun r => { r with flights := [{ tag := 7, opcode := 6 }] })) true [job 6 0 256 0 0])) =
    some [some 0x72] := by decide +kernel

/-- A module whose object 0 is at work. -/
def moving (m : Mover) : State := { host with objects := [(0, { base := 0, pages := 4, cls := .warm, layout := .interleaved, owner := 0, head := 0, mover := m })] }

theorem test_witness_moves :
    domOn host 78 = true ∧ nextMove host = none ∧ nextMove (moving { moves := [{ pid := 1, kind := .miss }] }) = some (0, { pid := 1, kind := .miss }) ∧
    domOn State.reset 78 = false ∧ nextMove (moving { moves := [{ pid := 1, kind := .sched }, { pid := 2, kind := .miss }] }) = some (0, { pid := 2, kind := .miss }) := by decide +kernel

/-- The module with one page changed. -/
def paged (p : Page) : State := { host with pages := [(0, p)] }

theorem test_witness_flash_read :
    (let s := paged { st := .fetching, home := some {} }
     (pageAt s 0).st = .fetching ∧ (pageAt s 0).copyOf = none ∧ (pageAt s 0).home = some {} ∧ degraded s {} 0 = (0, false)) ∧
    (let s := { paged { st := .fetching, home := some {} } with stripes := [(0, { pids := [0], shares := 0xFF })] }
     (degraded s {} 1).2 = false ∧ (degraded s {} 0xFF).2 = true) := by decide +kernel

/-- A module with its array of eight cartridges. -/
def arrayed : State := { host with bays := (List.range 8).map (fun b => (b, { st := .active, position := some b })) }

theorem test_witness_stripes :
    openStripe { host with stripes := [(0, { pids := [0] })] } = some (0, { pids := [0] }) ∧
    (mget? ({ host with stripes := [(0, { pids := [0], closed := true })] } : State).stripes 0) = some { pids := [0], closed := true } ∧
    arrayBroken arrayed = false ∧ arrayBroken host = true ∧ livePids host 0 = [] ∧ livePids (paged { st := .home, home := some {} }) 0 = [0] ∧
    (pageAt (paged { st := .clean, home := some {} }) 0).newHome = none := by decide +kernel

theorem test_witness_movers :
    (objAt (moving { st := .promoting }) 0).map (fun o => (o.mover.st, o.mover.moves.any (fun x => isFetch x.kind))) = some (.promoting, false) ∧
    (objAt (moving { st := .evicting }) 0).map (fun o => (o.mover.st, o.mover.targets)) = some (.evicting, []) ∧
    (objAt (moving { st := .flushing, flushes := [{ ctx := none, tag := 7, opcode := 4 }] }) 0).map (fun o => (o.mover.st, o.mover.flushes.length)) = some (.flushing, 1) ∧
    mget? ({ host with frames := [(0, .dirtyFree)] } : State).frames 0 = some .dirtyFree ∧
    (pageAt (paged { st := .fetching, copyOf := some 5 }) 0).copyOf = some 5 ∧ pageMissing host 1 = true ∧ pageMissing host 0 = false := by decide +kernel

/-- A stripe that no page uses is erased by garbage collection (R310). -/
theorem test_gc_empty : after (exec (.garbageCollection 0) { arrayed with stripes := [(0, { pids := [], closed := true, programmed := true })] }) (fun t => t.stripes.length) =
    some 0 := by decide +kernel

/-- The sweep clears the reference bits (R163). -/
theorem test_sweep : after (exec .referenceBitSweep (paged { st := .clean, frames := [0], refBit := true })) (fun t => (pageAt t 0).refBit) = some false := by decide +kernel

/-! ### Patterns, objects and versions -/

/-- A container of one core, one step and one region, whose code is END (R47, R136). -/
def container : List Byte := leBytes 208 0x200000000000000000000000000000000000000000000000000000000000000000001000000000000000000000000000000000000000000010000000000000000000000010000000000000000000000000000000000000000000000000000000000000000000000000000000000000010000000c000000000000000800000000000000080000000000000008000000020000000a00000000000000080000000100000009000000010000000800000000100000001000100010001010057172db5000000d00080000231445247

/-- The container passes every check of R137; its CRC was worked out outside the model. -/
theorem test_container : formatOk container = true ∧ crcOk container = true ∧ limitsOk container = true ∧
    loadStatus (readPattern container (some 0)) = 0 := by decide +kernel

theorem test_container_wrong : formatOk (container.set 0 0) = false ∧ crcOk (container.set 127 1) = false ∧ limitsOk (container.set 18 0) = false ∧
    loadStatus (readPattern (container.set 204 12) (some 0)) ≠ 0 := by decide +kernel

/-- The module with the container at device address 0. -/
def stored : State := foldN 4 (fun i s => putOwnLine s (64 * i) ((container ++ zeroLine).drop (64 * i) |>.take 64)) { steward with light := [0] }

/-- PAT_LOAD of it: answered OK with pattern 1, which is stored. -/
theorem test_pat_load : after (exec (.patLoad (.sideband 0) (leBytes 8 0 ++ leBytes 4 208)) stored)
    (fun t => (t.patterns.map (·.1), t.out)) = some ([1], [.mailbox (.sideband 0) 0 (leBytes 2 0 ++ [0, 0] ++ leBytes 4 1)]) := by decide +kernel

theorem test_witness_pat_load :
    accepts stored (.sideband 0) 0xC010 (leBytes 8 0 ++ leBytes 4 208) = true ∧ grantedRun stored 0 0 208 = true ∧
    (runPids stored [(0, 208)]).any (pageMissing stored) = false ∧ (runPids stored [(65536, 208)]).any (pageMissing stored) = true ∧
    (devBytes stored (stewardOf 0 0) 0 208).2 = (container, false) ∧ (devBytes { stored with poison := [0] } (stewardOf 0 0) 0 208).2.2 = true ∧
    grantedRun stored 0 0x10000000 208 = false := by decide +kernel

/-- The module with the pattern, and with an object placed for its region on cluster 3. -/
def patterned : State := { steward with
  patterns := [(1, readPattern container (some 0))], nextPattern := 2
  objects := [(0, { base := 0, pages := 4, cls := .warm, layout := .placed, owner := 0, pattern := 1, region := 0, cmap := [3], shares := [[384]], share := 4, head := 0 })] }

/-- A PAT_BIND of pattern 1 to cluster 3 with object 0. -/
def bindInput : List Byte := leBytes 4 1 ++ [1, 0, 0, 0] ++ [3] ++ List.replicate 19 0xFF ++ leBytes 4 0 ++ leBytes 4 0

theorem test_pat_bind : after (exec (.patBind (.sideband 0) bindInput) patterned)
    (fun t => (t.bindings.map (fun b => (b.1, b.2.cmap, b.2.bound)), t.out)) =
    some ([(1, [3], [.object 0])], [.mailbox (.sideband 0) 0 (leBytes 2 0 ++ [0, 0] ++ leBytes 4 1)]) := by decide +kernel

/-- A PAT_BIND whose map names cluster 20 is refused (R139). -/
theorem test_pat_bind_refused : after (exec (.patBind (.sideband 0) (bindInput.set 8 20)) patterned) (fun t => t.bindings.length) = some 0 := by decide +kernel

/-- The module with the pattern bound. -/
def boundPat : State := { patterned with bindings := [(1, { pattern := 1, ctx := 0, cmap := [3], bound := [.object 0] })], nextBinding := 2 }

theorem test_witness_patterns :
    accepts patterned (.sideband 0) 0xC011 [1, 0, 0, 0] = true ∧ (patternFor patterned (call [1, 0, 0, 0]) 1).isSome = true ∧ (patternFor steward (call [1, 0, 0, 0]) 1).isNone = true ∧
    boundPat.bindings.any (fun b => b.2.pattern == 1) = true ∧ patterned.bindings.any (fun b => b.2.pattern == 1) = false ∧
    accepts patterned (.sideband 0) 0xC012 bindInput = true ∧ accepts boundPat (.sideband 0) 0xC013 [1, 0, 0, 0] = true ∧
    (mget? boundPat.bindings 1).isSome = true ∧ cueNames boundPat 1 = false ∧
    cueNames { boundPat with cues := [(1, { ctx := 0, tag := 0, binding := 1, grace := 0, notch := 0, seed := 0, late := false, gen := 0, start := 0 })] } 1 = true := by decide +kernel

/-- An OBJ_CREATE of 16 pages at a device address. -/
def createInput (base cls : Nat) : List Byte := leBytes 8 base ++ leBytes 4 16 ++ [BitVec.ofNat 8 cls, 0, 0, 0] ++ leBytes 4 0 ++ leBytes 4 0 ++ List.replicate 20 0

/-- The status of a new object, 0 for one that may be made. -/
def newStatus (base : Nat) : Nat := match newObject steward (call (createInput base 1)) with | .ok _ => 0 | .error e => e

theorem test_obj_create : after (exec (.objCreate (.sideband 0) (createInput 0x100000 1)) steward) (fun t => (t.objects.map (fun o => (o.1, o.2.base, o.2.pages)), t.out)) =
    some ([(0, 0, 4), (1, 0x100000, 16)], [.mailbox (.sideband 0) 0 (leBytes 2 0 ++ [0, 0] ++ leBytes 4 1)]) := by decide +kernel

theorem test_witness_obj_create : accepts steward (.sideband 0) 0xC020 (createInput 0x100000 1) = true ∧ newStatus 0x100000 = 0 ∧ newStatus 0x20000 = 0x52 ∧ newStatus 0 = 0x52 ∧ newStatus 1 = 0x12 := by decide +kernel

/-- The module with object 0 changed. -/
def objd (f : Obj → Obj) : State := steward.modObj 0 f

theorem test_witness_objects :
    ownsObj (call []) { base := 0, pages := 4, cls := .warm, layout := .interleaved, owner := 0, head := 0 } = true ∧
    ownsObj (call []) { base := 0, pages := 4, cls := .warm, layout := .interleaved, owner := 3, head := 0 } = false ∧
    objAt steward 9 = none ∧ (objAt steward 0).map (fun o => (o.mover.st, o.cls)) = some (.idle, .warm) ∧ objBound steward 0 = false ∧ objBound boundPat 0 = true ∧
    (objAt steward 0).map (framesFor steward) = some true ∧ boundForWriting steward 0 = false ∧
    (objAt (objd (fun o => { o with cls := .held })) 0).map (fun o => (o.cls, o.versioned)) = some (.held, false) ∧
    windowBytes steward + 4 * 65536 ≤ 0x4000000000 ∧ accepts steward (.sideband 0) 0xC022 [0, 0, 0, 0, 1] = true ∧
    mget? ({ steward with windows := [(1, { obj := 0 })] } : State).windows 1 = some { obj := 0 } ∧ (mget? steward.windows 0).isNone = true ∧
    mget? ({ steward with windows := [(1, { obj := 0, deleting := true })] } : State).windows 1 = some { obj := 0, deleting := true } ∧
    accepts steward (.sideband 0) 0xC070 (leBytes 8 0 ++ leBytes 4 1 ++ [0, 0]) = true ∧ grantedRun steward 0 0 0x10000000 = true ∧ residentPids steward 0 ≠ [] ∧
    residentPids { steward with pages := [] } 0 = [] := by decide +kernel

/-- An object in windows, bound or at work keeps its class; a window needs a Held object (R147, R211). -/
theorem test_win_create : after (exec (.winCreate (.sideband 0) [0, 0, 0, 0]) (objd (fun o => { o with cls := .held }))) (fun t => t.windows.map (fun w => (w.1, w.2.obj))) = some [(0, 0)] ∧
    after (exec (.winCreate (.sideband 0) [0, 0, 0, 0]) steward) (fun t => t.windows.length) = some 0 := by decide +kernel

/-- The module with object 0 versioned, and a draft on its first version. -/
def versioned : State := nextOf (exec (.verInit (.sideband 0) [0, 0, 0, 0]) steward)

def drafted : State := nextOf (exec (.verDraft (.sideband 0) (leBytes 4 0 ++ leBytes 4 0 ++ leBytes 8 0x200000)) versioned)

/-- The first draft of the first version: view 1; published, it is version 2 (R221, R223, R226). -/
theorem test_versions : versioned.contents.map (fun k => k.2.version) = [1] ∧ drafted.views.map (fun v => (v.1, v.2.draft, v.2.base)) = [(1, true, 0x200000)] ∧
    after (exec (.verPublish (.sideband 0) [1, 0, 0, 0]) drafted) (fun t => (t.contents.map (fun k => k.2.version), t.views.length)) = some ([1, 2], 0) := by decide +kernel

theorem test_witness_versions :
    liveTotal steward < 262144 ∧ (objAt versioned 0).map (fun o => (findVersion versioned 0 o 0, viewStatus versioned 0 o 0x200000)) = some (some 0, 0) ∧
    accepts versioned (.sideband 0) 0xC041 (leBytes 4 0 ++ leBytes 4 0 ++ leBytes 8 0x200000) = true ∧ (liveContents versioned 0).length < 64 ∧
    accepts versioned (.sideband 0) 0xC045 (leBytes 4 0 ++ leBytes 4 0 ++ leBytes 8 0x200000) = true ∧ handleCount versioned < 65536 ∧
    ((draftOf drafted (call [1, 0, 0, 0]) 1).map (fun x => x.obj)) = some 0 ∧ viewBusy drafted 1 = false ∧
    viewBusy { drafted with bindings := [(1, { pattern := 1, ctx := 0, cmap := [], bound := [.view 1] })], cues := [(1, { ctx := 0, tag := 0, binding := 1, grace := 0, notch := 0, seed := 0, late := false, gen := 0, start := 0 })] } 1 = true ∧
    (objAt drafted 0).map (fun o => ((contentAt drafted 1).base == some (currentHead o))) = some true ∧
    (objAt (drafted.modObj 0 (fun o => { o with newHead := some 7 })) 0).map (fun o => ((contentAt drafted 1).base == some (currentHead o))) = some false ∧
    (objAt ({ drafted with contents := mmod { obj := 0 } drafted.contents 0 (fun k => { k with version := 0xFFFFFFFF }) } : State) 0).map
      (fun o => versionOf ({ drafted with contents := mmod { obj := 0 } drafted.contents 0 (fun k => { k with version := 0xFFFFFFFF }) } : State) (currentHead o)) = some 0xFFFFFFFF ∧
    copying drafted 1 = false ∧ copying { drafted with pages := [(pageKey 1 0, { copyOf := some 0 })] } 1 = true ∧ objLocked drafted 0 = false ∧
    objLocked { drafted with pages := [(0, { lock := true })] } 0 = true ∧ (objAt versioned 0).map (fun o => o.versioned) = some true := by decide +kernel

theorem test_witness_handles :
    (let s := nextOf (exec (.verOpen (.sideband 0) (leBytes 4 0 ++ leBytes 4 0 ++ leBytes 8 0x200000)) versioned)
     accepts s (.sideband 0) 0xC046 [1, 0, 0, 0] = true ∧ (mget? s.views 1).map (fun x => (x.draft, x.hidden, x.ctx)) = some (false, false, 0) ∧ viewBusy s 1 = false ∧ objLocked s 0 = false) ∧
    (let x : MciCall := call [1, 0, 0, 0]
     ({ drafted with lockWaits := [(0xC044, x)] } : State).lockWaits.find? (fun x => x.1 != 0xC010 && x.1 == (0xC044 : BitVec 16).toNat && x.2.via == .sideband 0 && x.2.tag == 0) = some (0xC044, x)) ∧
    ((pidObj (paged { lock := true }) 0).map (·.1) = some 0 ∧
      ((moving { moves := [{ pid := 0, kind := .evict }] }).objects.map (fun o => o.2.mover.moves.find? (fun m => m.pid == 0 && !m.running))) = [some { pid := 0, kind := .evict }] ∧
      (pageAt (paged { lock := true }) 0).lock = true) := by decide +kernel

/-! ### Leases, grants, mailboxes, keys and sessions -/

/-- A context with a mailbox bound to it, and an extent of which it holds a grant in a state. -/
def granted (st : GrantState) (leaving : Bool) : State := { (hostPort (fun x => { x with mbox0 := { x.mbox0 with ctx := some 0 } })) with
  extents := [(0, { base := 0, len := 1, tag := 0, shareable := false, grants := [⟨0, st, false, leaving, leaving⟩] })] }

theorem test_witness_leases :
    ((ctx0 steward (fun x => { x with expired := true })).ctx 0).expired = true ∧ (steward.ctx 0).expired = false ∧
    accepts steward (.sideband 0) 0xC051 [0, 0, 1, 0, 0xE8, 3, 0, 0] = true ∧ bfield [0, 0, 1, 0, 0xE8, 3, 0, 0] 4 4 = 1000 ∧ bfield [0, 0, 0, 0, 0x80, 0xEE, 0x36, 0] 4 4 = 3600000 ∧
    bfield [0xFF, 1, 0, 0, 0, 0, 0, 0] 0 2 = 511 ∧ bfield [0, 2, 0, 0, 0, 0, 0, 0] 0 2 = 512 ∧
    ((ctx0 host (fun x => { x with leaseRun := true })).ctx 0).leaseRun = true ∧ (host.ctx 0).leaseRun = false := by decide +kernel

/-- LEASE_SET at the ends of its range (R208). -/
theorem test_lease_set : after (exec (.leaseSet (.sideband 0) [0, 0, 0, 0, 0xE8, 3, 0, 0]) steward) (fun t => (t.ctx 0).leaseMs) = some 1000 ∧
    after (exec (.leaseSet (.sideband 0) [0, 0, 0, 0, 0xE7, 3, 0, 0]) steward) (fun t => (t.ctx 0).leaseMs) = some 30000 := by decide +kernel

theorem test_witness_grants :
    stewardHears host (.sideband 0) = true ∧ host.rv.outOfService = false ∧ (addGrant host 0 0x10000000 0x10000000 0 false).isSome = true ∧
    ((addGrant host 0 0x10000000 0x10000000 0 false).map (fun t => (mget? t.extents 1).isSome)) = some true ∧ (addGrant host 0 1 0x10000000 0 false).isNone = true ∧
    (extentAt (granted .offered false) 0 0x10000000).map (fun x => (grantOf x 0).map (·.st)) = some (some .offered) ∧
    (extentAt (granted .active false) 0 0x10000000).map (fun x => (grantOf x 0).map (·.st)) = some (some .active) ∧
    (extentAt (granted .releasing true) 0 0x10000000).map (fun x => (grantOf x 0).map (fun g => (g.st, g.leaving, g.live))) = some (some (.releasing, true, false)) ∧
    stewardHears (granted .active false) (.mailbox 0 false) = true ∧ (mbox (granted .active false) 0 false).ctx = some 0 ∧ ((granted .releasing true).ctx 0).decBusy = false ∧
    unitBytes = 0x10000000 := by decide +kernel

/-- An offered grant becomes active, and a release of one that is not is refused (R206). -/
theorem test_dc_response : after (exec (.addDcResponse 0 false 0 0x10000000 true) (granted .offered false)) (fun t => t.extents.map (fun x => x.2.grants.map (·.st))) = some [[.active]] ∧
    after (exec (.dcOfferTimeout 0 0) (granted .offered false)) (fun t => t.extents.length) = some 0 := by decide +kernel

theorem test_witness_mailbox :
    stewardHears host (.mailbox 0 false) = true ∧ logOf (bfield [0] 0 1) = some .informational ∧ logOf (bfield [5] 0 1) = none ∧
    ((celUuid ++ leBytes 4 0 ++ leBytes 4 4).length = 24 ∧ (celUuid ++ leBytes 4 0 ++ leBytes 4 4).take 16 = celUuid ∧ 0 + 4 ≤ celBytes.length) ∧
    (∀ x ∈ ([1, 1, 2, 0] : List Byte), bits x.toNat 0 2 < 3 ∧ bits x.toNat 2 2 = 0) ∧
    (mbox (granted .active false) 0 false).ctx = some 0 ∧ bfield (leBytes 4 1 ++ leBytes 4 0) 4 4 ≤ (acceptedExtents (granted .active false) 0).length := by decide +kernel

/-- A record in the informational log of port 0, and the input that clears it. -/
def logged : State := hostPort (fun x => { x with logs := { x.logs with records := [(.informational, { kind := .vendor, code := 1, ctx := 0xFFFF, words := [], time := 0, handle := 1 })] } })

theorem test_witness_clear : (∀ h ∈ (List.range (bfield [0, 0, 1, 0, 0, 0, 1, 0] 2 1)).map (fun i => bfield [0, 0, 1, 0, 0, 0, 1, 0] (6 + 2 * i) 2),
    (logRecords (logged.port 0).logs .informational).any (fun r => r.handle == h) = true) := by decide +kernel

/-- The cleared record is gone (R353). -/
theorem test_clear : after (exec (.clearEventRecords 0 false [0, 0, 1, 0, 0, 0, 1, 0]) logged) (fun t => (t.port 0).logs.records.length) = some 0 := by decide +kernel

theorem test_witness_firmware :
    fwHears host (.mailbox 0 false) = true ∧ host.fwWrite.isNone = true ∧ pathBusy host (.mailbox 0 false) = false ∧ host.fwXfer = none ∧
    (({ host with fwXfer := some (List.replicate 128 0) } : State).fwXfer).map (·.length) = some ((1 : Nat) * 128) ∧ imageCause host [] = some 0 := by decide +kernel

/-- A session on sideband port 0, and a request in it. -/
def sessioned : State := { host with aliasReady := true, spdm := [(chanNo (.sideband 0), { version := true, caps := true, algs := true, sessions := [(5, 1)] })] }

def spdmReq (code : Nat) (rest : List Byte) : SpdmMsg := { chan := .sideband 0, session := some 5, body := [0x14, BitVec.ofNat 8 code, 0, 0] ++ rest }

/-- KEK_SET and KEK_CLEAR for context 0. -/
def kekBody (cmd key : Nat) : List Byte := leBytes 2 3 ++ [2] ++ leBytes 2 0x1F3C ++ leBytes 2 36 ++ leBytes 2 cmd ++ leBytes 2 0 ++ leBytes 32 key

theorem test_witness_spdm :
    spdmHears sessioned (.sideband 0) = true ∧ spdmHears host (.doe 0) = false ∧ reqCode (spdmReq 0xE8 []).body = 0xE8 ∧ bfield (spdmReq 0xE8 []).body 0 1 = 0x14 ∧
    sessionOpen sessioned (spdmReq 0xE8 []) = true ∧ connStage (sessioned.conn (.sideband 0)) 0xE8 = true ∧ connStage (sessioned.conn (.doe 0)) 0xE8 = false ∧
    vendorPayload (spdmReq 0xFE (kekBody 1 9)).body = some (leBytes 2 1 ++ leBytes 2 0 ++ leBytes 32 9) ∧
    kekStatus sessioned (spdmReq 0xFE (kekBody 1 9)) (leBytes 2 1 ++ leBytes 2 0 ++ leBytes 32 9) = 0 ∧
    kekStatus sessioned (spdmReq 0xFE (kekBody 2 9)) (leBytes 2 2 ++ leBytes 2 0 ++ leBytes 32 9) ≠ 0 ∧
    host.aliasReady = false ∧ 3 ≤ host.pw.stage := by decide +kernel

/-- KEY_CLEAR of an own slot that no object uses, of one in use, and of one of another context (R441). -/
theorem test_key_clear :
    (let s : State := { steward with keys := [(1, ⟨0, some 0, 0, 0, some 0⟩)] }
     after (exec (.keyClear (.sideband 0) [1, 0]) s) (fun t => t.keys.length) = some 0) ∧
    (let s : State := { objd (fun o => { o with slot := 1 }) with keys := [(1, ⟨0, some 0, 0, 0, some 0⟩)] }
     after (exec (.keyClear (.sideband 0) [1, 0]) s) (fun t => t.keys.length) = some 1 ∧ slotUsers s 1 ≠ 0) ∧
    (let s : State := { steward with keys := [(1, ⟨0, some 3, 0, 0, some 0⟩)] }
     after (exec (.keyClear (.sideband 0) [1, 0]) s) (fun t => t.keys.length) = some 1) := by decide +kernel

theorem test_witness_keys : mget? steward.keks 0 = none ∧ (mget? ({ steward with keks := [(0, 5)] } : State).keks 0) = some 5 ∧ mget? steward.keys 1 = none ∧
    (mget? ({ steward with keys := [(1, ⟨0, some 0, 0, 0, none⟩)] } : State).keys 1).map (fun x => (x.kind, x.ctx, x.key)) = some (0, some 0, none) ∧
    keyChecks steward 0 1 0 0 (leBytes 64 1) 0 = 0 ∧ keyChecks steward 0 1 0 0 (leBytes 64 0) 0 = 0x12 := by decide +kernel

/-- A message of IDE_KM for stream 0. -/
def ideMsg (ks : Fin 2) : IdeMsg := { port := 0, secured := true, stream := 0, tx := false, sub := 0, keySet := ks, key := 5 }

theorem test_witness_ide : ideHeard sessioned (ideMsg 0) true = true ∧ ideHeard sessioned (ideMsg 0) false = true ∧
    (let s : State := { sessioned with ide := [(ideKey 0 true 0 false, { keys := [(ideKeyNo (ideMsg 0), 5)], active := [(0, 0)] })] }
     let x := mget {} s.ide (ideKey 0 true 0 false)
     mget? x.active 0 = some (ideMsg 0).keySet.val ∧ mget? x.active 0 ≠ some (ideMsg 1).keySet.val ∧ mhas x.keys (ideKeyNo (ideMsg 0)) = true ∧
     mhas x.keys (ideKeyNo (ideMsg 1)) = false) := by decide +kernel

/-- The inactive key set is programmed and takes over; the active one is not programmed (R328, R449). -/
theorem test_ide : after (exec (.ideKmKSetGo (ideMsg 1)) (nextOf (exec (.ideKmKeyProg (ideMsg 1)) sessioned)))
    (fun t => (mget {} t.ide (ideKey 0 false 0 false)).active) = some [(0, 1)] := by decide +kernel

/-! ### Bays, channels, arbiters, roles, hangs and recovery -/

/-- A cartridge of no content, and one with a ledger. -/
def cart : Cartridge := { record := List.replicate 256 0, sig := [], ledgers := [], journal := none }

def ledger0 : CartLedger := { cartId := 0, writer := 0, lstate := 2, position := 0, tb := 0, meanPe := 0, maxPe := 0, bad := 0, hours := 0 }

/-- The module with bay 0 changed. -/
def bay0 (f : BayState → BayState) : State := host.modBay 0 f

theorem test_witness_bays :
    (host.bay 0).st = .empty ∧ (host.bay 0).cart.isNone = true ∧ baysPowered host = true ∧ baysPowered (inStage 3) = false ∧
    ((bay0 (fun x => { x with st := .active, cart := some cart })).bay 0).cart.isSome = true ∧ inArray .active = true ∧ inArray .gusset = false ∧
    ((bay0 (fun x => { x with st := .gusset })).bay 0).st = .gusset ∧ ((bay0 (fun x => { x with latch := true })).bay 0).latch = true ∧
    ((bay0 (fun x => { x with st := .target })).bay 0).st = .target ∧ host.walk = none ∧
    ((bay0 (fun x => { x with st := .verifying, cart := some cart })).bay 0).cart = some cart ∧ 7 ≤ host.pw.stage := by decide +kernel

/-- A ROM whose keys are all revoked verifies no cartridge: cause 1. -/
theorem test_witness_refused (s : State) (h : s.revoked = [0, 1, 2, 3, 4, 5, 6, 7]) (c : Cartridge) (p : Bool) (r : List (Option (BitVec 2))) :
    verifyCause s c p r = 1 := by
  have : ∀ i : Fin 8, s.revoked.contains i.val = true := by rw [h]; decide
  simp only [verifyCause, romVerifies, this]
  simp

/-- A member whose latch opens fails with cause 1, and its position is vacated (R311, R313). -/
theorem test_latch : after (exec (.bayLatchOpen 0) ({ arrayed with bays := arrayed.bays ++ [(8, { st := .empty })] } : State))
    (fun t => ((t.bay 0).st, (t.bay 0).position, t.vacated)) = some (.failed, none, 1) := by decide +kernel

/-- A rebuild of position 0 into bay 8 over one live stripe. -/
def walking : State := { arrayed with
  bays := arrayed.bays ++ [(8, { st := .target, powered := true, position := some 0, ledger := some ledger0 })]
  stripes := [(0, { pids := [0], closed := true, programmed := true, shares := 0xFE })]
  pages := [(0, { st := .home, home := some {} })]
  walk := some { position := 0, target := 8, source := none, copy := false, next := 0, last := 0, cartId := 0 } }

theorem test_witness_walks :
    (walking.bay 8).powered = true ∧ (walking.bay 8).ledger = some ledger0 ∧ inArray (walking.bay 8).st = true ∧ walkRuns walking = true ∧
    walkRuns { walking with pw := { walking.pw with stage := 6 } } = false ∧ walkStripes walking 0 0 = [0] ∧ walkStripes walking 1 0 = [] ∧
    (mget? walking.stripes 0).isSome = true ∧ (lostShares { pids := [0], shares := 0xFE } 0).length ≤ 2 ∧ 2 < (lostShares { pids := [0], shares := 0x1F } 0).length ∧
    ((bay0 (fun x => { x with st := .active, eol := true })).bay 0).eol = true ∧ arrayed.walk = none ∧ (arrayed.bay 0).st = .active ∧ bayIn arrayed .gusset = none ∧
    bayIn { arrayed with bays := arrayed.bays ++ [(8, { st := .gusset })] } .gusset = some 8 ∧ (arrayed.bay 0).position = some 0 ∧
    accepts steward (.sideband 0) 0xC081 [8] = true ∧ accepts steward (.sideband 0) 0xC080 [9] = true := by decide +kernel

/-- The walk writes the target's share, and its end makes the target ACTIVE (R315, R316). -/
theorem test_walk : after (exec .rebuildStripe walking) (fun t => t.stripes.map (fun x => x.2.shares)) = some [0xFF] ∧
    after (exec .rebuildDone { walking with walk := some { position := 0, target := 8, source := none, copy := false, next := 1, last := 0, cartId := 0 } })
      (fun t => (t.bay 8).st) = some .active := by decide +kernel

/-- Bids of three masters in two classes and priorities, and the pointer's wrap (R360). -/
theorem test_decision :
    (winner [] [⟨1, 2, 1⟩, ⟨4, 3, 2⟩, ⟨6, 3, 2⟩]).map (·.m) = some 4 ∧ (winner [(2, 5)] [⟨1, 2, 1⟩, ⟨4, 3, 2⟩, ⟨6, 3, 2⟩]).map (·.m) = some 6 ∧
    (winner [(2, 7)] [⟨1, 2, 1⟩, ⟨4, 3, 2⟩, ⟨6, 3, 2⟩]).map (·.m) = some 4 ∧ (winner [] [⟨1, 3, 3⟩, ⟨4, 3, 2⟩]).map (·.m) = some 4 := by decide +kernel

theorem test_witness_bids : ([⟨1, 2, 1⟩, ⟨4, 3, 2⟩, ⟨6, 3, 2⟩] : List Bid).Pairwise (fun x y => x.m < y.m) ∧ risesFrom 0 ([] : AMap Nat) = true := by decide

/-- A channel of stack 0 changed. -/
def chan0 (f : ChanState → ChanState) : State := host.modChan 0 0 f

/-- A request of master 9. -/
def openReq : OpenReq := { rank := 0, bank := 0, row := 0, col := 0, write := false, mask := 15, keep := false, source := .scrubber }

theorem test_witness_arbiters :
    stackReady host 0 = true ∧ stackReady State.reset 0 = false ∧ (host.chan 0 0).arb.grant = none ∧
    ((chan0 (fun c => { c with arb := { c.arb with grant := some 9 } })).chan 0 0).arb.grant = some 9 ∧
    masterMasked host 9 = false ∧ masterMasked host 1 = true ∧
    (((chan0 (fun c => { c with present := [openReq] })).chan 0 0).present.find? (fun x => x.master == 9 && !x.recallW)) = some openReq ∧ openReq.job ≠ 1 ∧
    ((bay0 (fun x => { x with powered := true })).bay 0).powered = true ∧ (host.bay 0).powered = false := by decide +kernel

theorem test_witness_slots :
    host.ft.running = true ∧ host.pw.refLost = false ∧ (host.chan 0 0).slot < slotsN 0 ∧
    bastedUse 0 (host.chan 0 0) = false ∧ bastedUse 0 { slot := 0, refreshed := true } = true ∧ bastedB 0 ≤ ({ slot := 24 } : ChanState).slot ∧
    liveClaims host 0 0 = [] ∧ withholds host (host.chan 0 0) = false ∧
    withholds host { spare := .migrating, withheld := 0 } = true ∧ slotsN 0 ≤ ({ slot := 192 } : ChanState).slot := by decide +kernel

/-- A slot of no use passes (R38). -/
theorem test_slot : after (exec (.dramSlot 0 0) (chan0 (fun c => { c with slot := 191 }))) (fun t => (t.chan 0 0).slot) = some 192 ∧
    same (exec (.dramSlot 0 0) (chan0 (fun c => { c with slot := 192 }))) (chan0 (fun c => { c with slot := 192 })) = true := by decide +kernel

theorem test_witness_upkeep :
    (host.chan 0 0).probed < (0 : Nat) + 4096 ∧ (0 : Nat) + 4096 ≤ ((chan0 (fun c => { c with probed := 4096 })).chan 0 0).probed ∧ scrubRuns host 0 = true ∧ scrubRuns State.reset 0 = false ∧
    (host.chan 0 0).present.any (fun x => x.job == 1) = false ∧ [{ openReq with job := 1 }].any (fun x => x.job == 1) = true ∧
    (bankFuse (chan0 (fun c => { c with fuse := [(0, { job := some (.row 5) })] })) 0 0 0).job = some (.row 5) ∧
    (bankFuse (chan0 (fun c => { c with fuse := [(0, { job := some (.row 5), done := true })] })) 0 0 0).done = true ∧ host.cellErr = [] ∧
    accepts steward (.sideband 0) 0xC071 [19, 31, 15] = true ∧ spareState 0 { spare := .migrating } ≠ .free := by decide +kernel

/-- The buckets leak by one and stay at 0 (R285). -/
theorem test_leak : after (exec .bucketLeak (chan0 (fun c => { c with level := [(0, 2)] }))) (fun t => mget 0 (t.chan 0 0).level 0) = some 1 ∧
    after (exec .bucketLeak host) (fun t => mget 0 (t.chan 0 0).level 0) = some 0 := by decide +kernel

/-- Inputs at the ends of their ranges. -/
theorem test_witness_roles :
    accepts steward (.sideband 0) 0xC001 [0xFF, 1] = true ∧ accepts steward (.mailbox 0 false) 0xC001 [0, 2] = true ∧ bfield [0, 2] 0 2 = 512 ∧
    accepts steward (.sideband 0) 0xC0B1 [0xFF] = true ∧ accepts steward (.sideband 0) 0xC0B2 [0, 0, 1] = true ∧ ctxEnabled steward 0 = true ∧ ctxEnabled steward 1 = false ∧
    accepts steward (.sideband 0) 0xC0B0 [1, 0, 0, 0, 1, 0x10, 0, 0] = true ∧ bfield [1, 0, 0, 0, 1, 0x10, 0, 0] 4 4 % 4096 = 1 ∧
    accepts steward (.sideband 0) 0xC0A0 ([1] ++ List.replicate 15 0) = true ∧ cuesAccepted steward = true ∧ steward.pw.job = none ∧ steward.patterns = [] ∧
    accepts steward (.sideband 0) 0xC090 ([1] ++ List.replicate 7 0 ++ [3, 1, 4, 0, 1, 0, 0, 0]) = true ∧
    (ledgerEntries (call ([1] ++ List.replicate 7 0 ++ [3, 1, 4, 0, 1, 0, 0, 0]))).map (fun e => (e.master, e.cls, e.value)) = [(3, 1, 4)] := by decide +kernel

/-- MODE_SET waits for its boundary (R64, R66); MODE_SET without an anchor is refused. -/
theorem test_mode_set : after (exec (.modeSet (.sideband 0) ([1] ++ List.replicate 15 0)) steward) (fun t => t.pw.job.map (fun j => (j.mode, j.frame))) = some (some (1, 1000001)) ∧
    after (exec (.modeSet (.sideband 0) ([1] ++ List.replicate 15 0)) { steward with ft := { steward.ft with anchor := .expired } }) (fun t => t.pw.job.isNone) = some true := by decide +kernel

theorem test_witness_ledger_caps : ∀ k < 640, covering [⟨3, 1, 4, 1⟩] (k / 32) ≤ capOf steward [] k := by decide +kernel

/-- A run of context 0 on core 0. -/
def runningCue : State := { boundPat with
  cues := [(1, { ctx := 0, tag := 7, binding := 1, grace := 0, notch := 0, seed := 5, late := false, gen := 0, start := 1000000, phase := .running, began := 5000000, curStart := 5000000, cur := some 0 })]
  cores := [(384, { st := .xwait, run := some 1, ctx := some 0, xbounds := 8 })] }

theorem test_witness_hangs :
    (runningCue.core 384).run = some 1 ∧ (runningCue.core 384).st = .xwait ∧ runningCue.fieldEff 0xB0000 4 12 = 0 ∧
    (let s : State := { runningCue with regs := [(0xB0000, 0x80)], eff := [(0xB0000, 0x80)] }
     s.fieldEff 0xB0000 4 12 ≠ 0 ∧ s.fieldEff 0xB0000 4 12 ≤ (s.core 384).xbounds) ∧
    (host.core 0).run = none ∧ domOn host 6 = true ∧ domOn State.reset 6 = false ∧ (4, 3, 0) ∉ host.rv.fired ∧ (host.stackOf 0).selfRef = false ∧ domOn host 40 = true ∧
    (∃ f ∈ ((ring0 ringsUp (fun r => { r with flights := [{ tag := 7, opcode := 9 }] })).ctx 0).ring.flights, f.tag = 7 ∧ f.ended = none ∧ 5 ≤ f.opcode.toNat ∧ f.opcode.toNat ≤ 14) := by
  decide +kernel

theorem test_witness_recovery :
    mget? host.rv.unpicks 0 = none ∧ host.rv.testing = none ∧
    (let s : State := { host with rv := { host.rv with unpicks := [(0, { cause := 1, off := true })], resets := [(resetKey (.cluster 3), { unit_ := .cluster 3, cause := 0, began := 0 })] } }
     (mget? s.rv.unpicks 0).map (fun j => j.off) = some true ∧ (mget? s.rv.resets (resetKey (.cluster 3))).map (fun j => (j.lateCues, j.waiters, j.suspects)) = some ([], [], [])) ∧
    (nextLevel (.cluster 3)).isSome = true ∧ mget? host.rv.resets (resetKey .hubDie) = none ∧
    (let q : Cue := { ctx := 0, tag := 7, binding := 1, grace := 0, notch := 0, seed := 5, late := false, gen := 0, start := 0 }
     let s : State := { boundPat with rv := { boundPat.rv with replays := [(1, q)] } }
     (cueRun s q).isSome = true ∧ s.rv.suspects = [] ∧ s.rv.resets = [] ∧
     (cueRun s q).map (fun x => (x.1.quarantined, slotConflict s x.1 x.2 (runAt s (frameNo s + 2)) (runAt s (frameNo s + 2) + 1))) = some (false, false)) ∧
    inSetChange host = false ∧ (host.stackOf 0).stuck = false ∧ accepts steward (.sideband 0) 0xC0D0 [0xFF, 1] = true ∧ accepts steward (.sideband 0) 0xC0D1 [0, 2] = true ∧
    ((ctx0 steward (fun x => { x with quarantined := true })).ctx 0).quarantined = true ∧ accepts steward (.sideband 0) 0xC0D2 [1, 2] = true := by decide +kernel

/-- An unpick stops the context's cores and starts a new generation; the release of a quarantine ends it (R405, R410, R419). -/
theorem test_unpick : after (exec (.ctxUnpick (.sideband 0) [0, 0]) { runningCue with cores := [(384, { st := .running, run := some 1, ctx := some 0 })] })
    (fun t => ((t.core 384).st, (t.ctx 0).gen)) = some (.unpicking, 1) ∧
    after (exec (.quarantineRelease (.sideband 0) [0, 0]) (ctx0 steward (fun x => { x with quarantined := true }))) (fun t => (t.ctx 0).quarantined) = some false := by decide +kernel

/-! ### Hypotheses about code, recalls, waits and copies -/

/-- The words of one command of each field, written out from R105, R108 and R111. -/
theorem test_bundle_words : decodeT 0 0b1111111100001110000000011000010110001 = some (.mac 0 true 5 3 true 3 0xFF) ∧
    decodeS 0 0b00100000110001000001000101010000 = some (.intAdd 0 .int32 fld) ∧ decodeS 0 sldxWord = some (.sldx 0 fld) ∧
    decodeX 0 0b000000001001010000100 = some (.loop 0 2 9) ∧ decodeX 0 0b0000001100000000101000101 = some (.waitf 0 5 3) := by decide +kernel

/-- A core of a run issues what its bundle holds, and nothing else; a core that no run holds issues what it is sent (R103). -/
theorem test_witness_code : (storedCode run (run.core 0)).map (·.length) = some 2 ∧ mayIssue run 0 (.xclr 0) = false ∧
    fieldCommand 0 (run.core 0).turn (code0.getD 0 0) ≠ some (.xclr 0) ∧ mayIssue running 0 (.xclr 0) = true ∧
    (Instr.xclr 0).txCore = some 0 ∧ (Instr.xclr 0).wf = true := by decide +kernel

theorem test_witness_beats : (running.core 0).undef = false ∧ (64 : Nat) % 32 = 0 ∧ (∀ p ∈ (running.core 0).pend, (running.core 0).cyc + 4 ≤ p.due) ∧
    (msg 3 none).red = none ∧ ({ msg 3 (some (0, 0, 0)) with bytes := [], marks := [false, false] } : XMsg).red = some (0, 0, 0) := by decide +kernel

/-- A target's write to a line under recall is of recall class (R231, R232). -/
theorem test_witness_recall_write :
    portTakesRecall (winHost (some (entry .recalling [1]))) 0 = true ∧
    (match frontTaken (winHost (some (entry .recalling [1]))) 0 0 0 with | .decoded c id d => c == 0 && id == 1 && d == 0 | _ => false) = true ∧
    (entry .recalling [1]).st = .recalling := by decide +kernel

/-- The source's PTM is lost, or another port than the source has a dialog (R28, R29). -/
theorem test_witness_source :
    sourceLost (hostFt (fun f => { f with anchor := .anchored })) = true ∧
    (let s : State := { host with ports := [(0, { portUp with ptm := { portUp.ptm with valid := true } }), (1, { portUp with ptm := { portUp.ptm with active := true } })] }
     (s.port 1).ptm.active = true ∧ (s.port 1).up = true ∧ s.ft.source ≠ 1 ∧ ptmValid s s.ft.source = true ∧ ctrlSource (s.port 1).ptm.ctrl ≠ 1) := by decide +kernel

theorem test_witness_reference : resetRefused (hostPw (fun w => { w with refLost := true })) = false ∧ hubOn (hostPw (fun w => { w with refLost := true })) = true ∧
    (let s := hostPw (fun w => { w with refLost := true, thermalOff := true, logicMax := 90 })
     hubOn s = true ∧ resetRefused s = true) := by decide +kernel

theorem test_witness_object_limit : 16777216 ≤ ({ host with objects := List.replicate 16777216 (0, { base := 0, pages := 4, cls := .warm, layout := .interleaved, owner := 0, head := 0 }) } : State).objects.length := by
  rw [show ∀ l, ({ host with objects := l } : State).objects = l from fun _ => rfl, List.length_replicate]

/-- A page whose stack changes its timing set waits (R65). -/
theorem test_witness_page_waits :
    pageWaits { host with stackSt := [(0, { selfRef := true })] } 0 = true ∧ pageWaits host 0 = false ∧
    same (exec (.cowCopyComplete 0) { paged { st := .fetching, frames := [0], copyOf := some 0 } with stackSt := [(0, { selfRef := true })] })
      { paged { st := .fetching, frames := [0], copyOf := some 0 } with stackSt := [(0, { selfRef := true })] } = true := by decide +kernel

/-- A dirty frame of a deleted window whose line a host still holds, and one that none holds (R217). -/
theorem test_witness_window_frame :
    (let s : State := { host with frames := [(0, .dirtyFree)], windowDirty := [(0, 0)] }
     mget? s.windowDirty 0 = some 0 ∧ heldLines s 0 = []) ∧
    (let s : State := { winHost (some (entry .exclusive [1])) with frames := [(0, .dirtyFree)], windowDirty := [(0, 0)] }
     mget? s.windowDirty 0 = some 0 ∧ heldLines (recallFill s 0) 0 ≠ []) := by decide +kernel

/-- A mode change that is pending keeps a set and a half from use (R64, R138), and a context whose grant is being released
has no commands on the extent's objects (R207). -/
theorem test_witness_leaving :
    (let s := hostPw (fun w => { w with job := some { mode := 2, frame := 0, notch := 0, setChange := true, old := 0 } })
     leavesSet s 0 = true ∧ leavesSet s 1 = false ∧ leavesSet host 0 = false) ∧
    leaving (granted .releasing true) (some 0) 0 = true ∧ leaving (granted .active false) (some 0) 0 = false := by decide +kernel

/-- The newest ledger copy with a valid seal counts (R304). -/
theorem test_newest_ledger :
    newestLedger { cart with ledgers := [⟨ledger0, crc32c (ledgerBytes ledger0) + 1⟩, ⟨{ ledger0 with tb := 5 }, crc32c (ledgerBytes { ledger0 with tb := 5 })⟩] } =
      some { ledger0 with tb := 5 } ∧ newestLedger cart = none := by decide +kernel

/-- P and Q of six bytes (R306), with 2·0x80 = 0x1D modulo 0x11D. -/
theorem test_parity : parityP [1, 2, 4, 8, 16, 32] = 0x3F ∧ parityQ [1, 1, 0, 0, 0, 0] = 3 ∧ parityQ [0, 0x80, 0, 0, 0, 0] = 0x1D := by decide

theorem test_witness_upkeep_parts :
    ({ spare := .migrating, copyAt := 8 } : ChanState).copyAt = 8 ∧ ({ spare := .migrating, copyAt := 8, pointer := 131071 } : ChanState).pointer = 131071 ∧
    ((chan0 (fun c => { c with owed := [0] })).chan 0 0).owed = [0] ∧ 64 ≤ ((chan0 (fun c => { c with owed := List.replicate 64 0 })).chan 0 0).owed.length ∧
    stackAwake host 0 = true ∧ stackAwake { host with stackSt := [(0, { selfRef := true })] } 0 = false ∧
    reqStands host 0 openReq = true ∧ reqStands (hostFt (fun f => { f with running := false })) 0 { openReq with job := 1 } = false ∧
    slotWithheld host 0 0 0 = false ∧ slotWithheld (chan0 (fun c => { c with slot := 24, spare := .migrating, copyAt := 8 })) 0 0 0 = true ∧
    (0 * 0x1000000 + 0) ∉ pinsComing host ∧ tackFirst 0 = 16 ∧ calFirst 1 = 16 ∧ bastedB 2 = 14 := by decide +kernel

/-- The mailbox's interrupt enables (R334, R382). -/
theorem test_mailbox_control : after (exec (.registerWrite (.mailbox 0 false) 4 4 6) host) (fun t => ((mbox t 0 false).dbInt, (mbox t 0 false).bgInt)) =
    some (true, true) := by decide +kernel

/-! ### Well-formed commands -/

/-- One ill-formed term for each check, beside a well-formed one. -/
theorem test_wf_compare : (Instr.compareEqual 0 .w64 fld).wf = false ∧ (Instr.compareEqual 0 .fp32 fld).wf = true ∧
    (Instr.compareLessThan 0 .w64 fld).wf = false ∧ (Instr.compareLessOrEqual 0 .w64 fld).wf = false ∧ (Instr.compareUnordered 0 .w64 fld).wf = false := by decide

theorem test_wf_integer : (Instr.intAdd 0 .fp32 fld).wf = false ∧ (Instr.intAdd 0 .uint32 fld).wf = true ∧ (Instr.intSubtract 0 .w64 fld).wf = false ∧
    (Instr.intMultiplyLow 0 .fp32 fld).wf = false ∧ (Instr.intMultiplyHigh 0 .fp32 fld).wf = false ∧ (Instr.intMinimum 0 .fp32 fld).wf = false ∧
    (Instr.intMaximum 0 .w64 fld).wf = false := by decide

theorem test_wf_select : (Instr.select 0 { fld with srcC := 4 }).wf = false ∧ (Instr.select 0 { fld with srcC := 3 }).wf = true := by decide

theorem test_wf_formats : (Instr.convertFromFp32 0 { fld with srcC := 9 }).wf = false ∧ (Instr.convertFromFp32 0 { fld with srcC := 8 }).wf = true ∧
    (Instr.convertToFp32 0 { fld with srcC := 5 }).wf = false ∧ (Instr.convertToFp32 0 { fld with srcC := 12 }).wf = true ∧
    (Instr.mxQuantise 0 { fld with srcC := 7 }).wf = false ∧ (Instr.mxQuantise 0 { fld with srcC := 6 }).wf = true := by decide

theorem test_wf_reduce : (Instr.reduceSum 0 .uint32 fld).wf = false ∧ (Instr.reduceMinimum 0 .uint32 fld).wf = false ∧ (Instr.reduceMaximum 0 .w64 fld).wf = false ∧
    (Instr.reduceMaximum 0 .int32 fld).wf = true := by decide

theorem test_wf_control : (Instr.lcnt 0 0 0).wf = false ∧ (Instr.lcnt 0 0 1).wf = true ∧ (Instr.waitf 0 1280 0).wf = false ∧ (Instr.waitf 0 1279 0).wf = true ∧
    (Instr.tsd 0 6 0).wf = false ∧ (Instr.tsd 0 5 0).wf = true ∧ (Instr.acw 0 0).wf = true ∧ (Instr.acw 0 (BitVec.allOnes 19)).wf = false := by decide

/-- The format codes that are well formed are those to which the arithmetic gives a meaning. -/
theorem test_formats : (∀ c : BitVec 5, formatFrom c = (cvtFrom 0 c.toNat 0 0).isSome) ∧ (∀ c : BitVec 5, formatTo c = (cvtTo 0 c.toNat 0 0).isSome) ∧
    ∀ c : BitVec 5, formatMx c = (mxFmt c.toNat).isSome := by decide +kernel

/-! ### The queue -/

/-- The command at the front is carried out with the queue's rest, and an empty queue leaves the block as it is. -/
theorem test_queue : after (step { ({} : State) with pending := [.frameBoundary, .holdoverExpired], ft := { running := true, time := 0 } })
      (fun t => (t.pending, t.ft.time)) = some ([.holdoverExpired], 1024) ∧ same (step State.reset) State.reset = true := by decide +kernel

theorem test_witness_invariant : State.reset.Inv ∧ host.Inv := ⟨by unfold State.Inv; decide, by unfold State.Inv; decide⟩

/-- A refused command names itself. -/
theorem test_refused : (match exec (.waitf 0 1280 0) running with | .refused (.reservedEncoding n) => n == "WAITF" | _ => false) = true := by decide +kernel

end Sys2Proof.Tests
end

/-! ## Commands of the engines: what they do by their codes

The `S` commands share one shape: the S-engine takes the command, or a reserved code is refused by its name. -/

namespace Sys2Proof.Machine

/-- A compare takes the TYPE codes that R91 gives it. -/
theorem onCompare_eq (i : Instr) (name : String) (op : Nat) (k : CoreId) (ty : LaneType) (f : SField) (s : State) :
    onCompare i name op k ty f s =
      if typeCompares ty = true then onS i k 1 (compareOp f ty op) s else .refused (.reservedEncoding name) := by
  cases ty <;> rfl

/-- An integer operation takes the TYPE codes that R89 gives it. -/
theorem onInt_eq (i : Instr) (name : String) (op lat : Nat) (k : CoreId) (ty : LaneType) (f : SField) (s : State) :
    onInt i name op lat k ty f s =
      if typeInteger ty = true then
        onS i k 1 (fun c => laneOp f [f.srcA, f.srcB] lat (fun _ xs => intOp c.acw ty op (xs.getD 0 0) (xs.getD 1 0)) c) s
      else .refused (.reservedEncoding name) := by
  cases ty <;> rfl

/-- A lane reduction takes the TYPE codes that R89 gives it. -/
theorem onReduce_eq (i : Instr) (name : String) (op : Nat) (k : CoreId) (ty : LaneType) (f : SField) (s : State) :
    onReduce i name op k ty f s =
      if typeReduces ty = true then onS i k 2 (reduceOp f ty op) s else .refused (.reservedEncoding name) := by
  cases ty <;> rfl

/-- The format codes that are well formed are those to which the conversions give a meaning (R95). -/
theorem cvtFrom_isSome (c : BitVec 5) : (cvtFrom 0 c.toNat 0 0).isSome = formatFrom c := by
  revert c; decide +kernel

theorem cvtTo_isSome (c : BitVec 5) : (cvtTo 0 c.toNat 0 0).isSome = formatTo c := by
  revert c; decide +kernel

theorem mxFmt_isSome (c : BitVec 5) : (mxFmt c.toNat).isSome = formatMx c := by
  revert c; decide +kernel

/-- An S command goes to the S-engine of its core, or, with a reserved code, is refused by its name. -/
theorem sCore_exec {i : Instr} {k : CoreId} (h : i.sCore = some k) (s : State) :
    ∃ n f name, exec i s = if i.wf = true then onS i k n f s else .refused (.reservedEncoding name) := by
  cases i with
  | compareEqual | compareLessThan | compareLessOrEqual | compareUnordered =>
    cases h; exact ⟨_, _, _, onCompare_eq ..⟩
  | intAdd | intSubtract | intMultiplyLow | intMultiplyHigh | intMinimum | intMaximum =>
    cases h; exact ⟨_, _, _, onInt_eq ..⟩
  | reduceSum | reduceMinimum | reduceMaximum =>
    cases h; exact ⟨_, _, _, onReduce_eq ..⟩
  | select =>
    cases h; exact ⟨_, _, _, by simp only [exec_select, execSelect, Instr.wf, beq_iff_eq]; rfl⟩
  | convertFromFp32 =>
    cases h; exact ⟨_, _, _, by simp only [exec_convertFromFp32, execConvertFromFp32, Instr.wf, cvtFrom_isSome]; rfl⟩
  | convertToFp32 =>
    cases h; exact ⟨_, _, _, by simp only [exec_convertToFp32, execConvertToFp32, Instr.wf, cvtTo_isSome]; rfl⟩
  | mxQuantise k f =>
    cases h
    have e := mxFmt_isSome f.srcC
    simp only [exec_mxQuantise, execMxQuantise, Instr.wf, ← e]
    cases mxFmt f.srcC.toNat with
    | none => exact ⟨0, id, _, rfl⟩
    | some fmt => exact ⟨_, _, "", rfl⟩
  | _ =>
    simp only [Instr.sCore, Option.some.injEq, reduceCtorEq] at h <;> subst h <;> exact ⟨_, _, "", rfl⟩

end Sys2Proof.Machine

namespace Sys2Proof.Machine

/-- A taken S-engine leaves the core as it is (R89). -/
theorem issueS_busy {c : CoreState} (n : Nat) (f : CoreState → CoreState) (h : ¬ c.sBusy ≤ c.cyc) : issueS c n f = c := by
  rw [issueS, if_neg h]

/-- A change of a core that gives the core back changes no core. -/
theorem core_runCore_fixed (s : State) (k j : Nat) (f : CoreState → CoreState) (h : f (s.core k) = s.core k) :
    (s.runCore k f).core j = s.core j := by
  rw [State.core_runCore, h]
  by_cases e : j = k
  · rw [if_pos e, e]
  · rw [if_neg e, if_neg (by simp)]

/-- An S command that its sequencer does not issue, or that meets a taken S-engine, changes no core, and nothing else. -/
theorem onS_not (s : State) (k : CoreId) (i : Instr) (n : Nat) (f : CoreState → CoreState) (h : ¬ sTakes s k i) :
    ∃ t, onS i k n f s = .next t ∧ (∀ j, t.core j = s.core j) ∧ t = { s with cores := t.cores } := by
  refine ⟨_, rfl, ?_⟩
  cases m : mayIssue s k i with
  | false => rw [issue_not s k i _ m]; exact ⟨fun _ => rfl, rfl⟩
  | true =>
    have busy : ¬ (s.core k.val).sBusy ≤ (s.core k.val).cyc := fun g => h ⟨m, g⟩
    rw [State.issue, if_pos m]
    exact ⟨fun j => core_runCore_fixed s k.val j _ (issueS_busy n f busy), rfl⟩

/-- SNOP of a core whose sequencer issues it makes the X field next. -/
theorem snop_core (s : State) (k : CoreId) (j : Nat) :
    (s.issue k (.snop k) (fun c => { c with turn := .x })).core j =
      if j = k.val ∧ mayIssue s k (.snop k) = true then { s.core k.val with turn := .x } else s.core j := by
  cases m : mayIssue s k (.snop k) with
  | false => simp [issue_not s k _ _ m]
  | true =>
    rw [State.issue, if_pos m, State.core_runCore]
    by_cases e : j = k.val <;> simp [e]

/-- Issuing a command of a core's field changes nothing outside the cores. -/
theorem issue_outside (s : State) (k : CoreId) (i : Instr) (f : CoreState → CoreState) :
    s.issue k i f = { s with cores := (s.issue k i f).cores } := by
  unfold State.issue
  split <;> rfl

end Sys2Proof.Machine

namespace Sys2Proof.Proofs
open Machine

/-- Settles O8: SNOP through `snop_core`; every other S command is one `onS` by `sCore_exec`, which `onS_not` answers. -/
theorem sEngineTakesNothing : Obligations.SEngineTakesNothing := by
  refine ⟨fun s k => ⟨_, rfl, issue_outside .., snop_core s k⟩, fun s i k hk wf ht => ?_⟩
  obtain ⟨n, f, name, e⟩ := sCore_exec hk s
  rw [e, if_pos wf]
  exact onS_not s k i n f ht

end Sys2Proof.Proofs

namespace Sys2Proof.Machine

/-- Every command keeps the queue and the canonical form of the memory. -/
theorem exec_kept {c : Instr} {s t : State} (h : exec c s = .next t) : Kept s t := by
  cases c with
  | frameBoundary => exact execFrameBoundary_kept h
  | ptmDialogStart => exact execPtmDialogStart_kept h
  | ptmDialogResponse => exact execPtmDialogResponse_kept h
  | ptmDialogTimeout => exact execPtmDialogTimeout_kept h
  | ptmLost => exact execPtmLost_kept h
  | holdoverExpired => exact execHoldoverExpired_kept h
  | stackSetChangeTimeout => exact execStackSetChangeTimeout_kept h
  | decoderCommitComplete => exact execDecoderCommitComplete_kept h
  | dramSlot => exact execDramSlot_kept h
  | dramAdmissionDecision => exact execDramAdmissionDecision_kept h
  | linkArbiterDecision => exact execLinkArbiterDecision_kept h
  | flashArbiterDecision => exact execFlashArbiterDecision_kept h
  | masterMaskChange => exact execMasterMaskChange_kept h
  | tnop => exact execTnop_kept h
  | mac => exact execMac_kept h
  | snop => exact execSnop_kept h
  | fpAdd => exact execFpAdd_kept h
  | fpSubtract => exact execFpSubtract_kept h
  | fpMultiply => exact execFpMultiply_kept h
  | fpFusedMultiplyAdd => exact execFpFusedMultiplyAdd_kept h
  | fpDivide => exact execFpDivide_kept h
  | fpSquareRoot => exact execFpSquareRoot_kept h
  | fpReciprocal => exact execFpReciprocal_kept h
  | fpReciprocalSquareRoot => exact execFpReciprocalSquareRoot_kept h
  | fpMinimum => exact execFpMinimum_kept h
  | fpMaximum => exact execFpMaximum_kept h
  | fpAbsoluteValue => exact execFpAbsoluteValue_kept h
  | fpNegate => exact execFpNegate_kept h
  | fpCopySign => exact execFpCopySign_kept h
  | compareEqual => exact execCompareEqual_kept h
  | compareLessThan => exact execCompareLessThan_kept h
  | compareLessOrEqual => exact execCompareLessOrEqual_kept h
  | compareUnordered => exact execCompareUnordered_kept h
  | intAdd => exact execIntAdd_kept h
  | intSubtract => exact execIntSubtract_kept h
  | intMultiplyLow => exact execIntMultiplyLow_kept h
  | intMultiplyHigh => exact execIntMultiplyHigh_kept h
  | intMinimum => exact execIntMinimum_kept h
  | intMaximum => exact execIntMaximum_kept h
  | bitwiseAnd => exact execBitwiseAnd_kept h
  | bitwiseOr => exact execBitwiseOr_kept h
  | bitwiseExclusiveOr => exact execBitwiseExclusiveOr_kept h
  | bitwiseNot => exact execBitwiseNot_kept h
  | shiftLeft => exact execShiftLeft_kept h
  | shiftRightLogical => exact execShiftRightLogical_kept h
  | shiftRightArithmetic => exact execShiftRightArithmetic_kept h
  | rotateLeft => exact execRotateLeft_kept h
  | populationCount => exact execPopulationCount_kept h
  | select => exact execSelect_kept h
  | convertFromFp32 => exact execConvertFromFp32_kept h
  | convertToFp32 => exact execConvertToFp32_kept h
  | mxQuantise => exact execMxQuantise_kept h
  | reduceSum => exact execReduceSum_kept h
  | reduceMinimum => exact execReduceMinimum_kept h
  | reduceMaximum => exact execReduceMaximum_kept h
  | accumulatorRead => exact execAccumulatorRead_kept h
  | accumulatorWrite => exact execAccumulatorWrite_kept h
  | atomicIntegerAdd => exact execAtomicIntegerAdd_kept h
  | atomicSignedMinimum => exact execAtomicSignedMinimum_kept h
  | atomicSignedMaximum => exact execAtomicSignedMaximum_kept h
  | atomicUnsignedMinimum => exact execAtomicUnsignedMinimum_kept h
  | atomicUnsignedMaximum => exact execAtomicUnsignedMaximum_kept h
  | atomicAnd => exact execAtomicAnd_kept h
  | atomicOr => exact execAtomicOr_kept h
  | atomicExclusiveOr => exact execAtomicExclusiveOr_kept h
  | atomicExchange => exact execAtomicExchange_kept h
  | atomicCompareExchange => exact execAtomicCompareExchange_kept h
  | atomicFp32Add => exact execAtomicFp32Add_kept h
  | atomicFp32Minimum => exact execAtomicFp32Minimum_kept h
  | atomicFp32Maximum => exact execAtomicFp32Maximum_kept h
  | sld => exact execSld_kept h
  | sst => exact execSst_kept h
  | sldx => exact execSldx_kept h
  | sstx => exact execSstx_kept h
  | xnop => exact execXnop_kept h
  | step => exact execStep_kept h
  | endPattern => exact execEndPattern_kept h
  | lcnt => exact execLcnt_kept h
  | loop => exact execLoop_kept h
  | waitf => exact execWaitf_kept h
  | waitfResume => exact execWaitfResume_kept h
  | acw => exact execAcw_kept h
  | tsd => exact execTsd_kept h
  | xsend => exact execXsend_kept h
  | xred => exact execXred_kept h
  | xwait => exact execXwait_kept h
  | xclr => exact execXclr_kept h
  | exchangeMessageArrive => exact execExchangeMessageArrive_kept h
  | memRd => exact execMemRd_kept h
  | memRdData => exact execMemRdData_kept h
  | memInv => exact execMemInv_kept h
  | memInvNt => exact execMemInvNt_kept h
  | memClnEvct => exact execMemClnEvct_kept h
  | memSpecRd p src hpa => exact execMemSpecRd_kept (_p := p) (_src := src) (_hpa := hpa) h
  | memWr => exact execMemWr_kept h
  | memWrPtl => exact execMemWrPtl_kept h
  | biRsp => exact execBiRsp_kept h
  | biConflict => exact execBiConflict_kept h
  | stallBudgetExpired => exact execStallBudgetExpired_kept h
  | recallWaitExpired => exact execRecallWaitExpired_kept h
  | lockWaitExpired => exact execLockWaitExpired_kept h
  | pageMoveStart => exact execPageMoveStart_kept h
  | referenceBitSweep => exact execReferenceBitSweep_kept h
  | flashReadComplete => exact execFlashReadComplete_kept h
  | stripeCloseTimeout => exact execStripeCloseTimeout_kept h
  | stripeProgramComplete => exact execStripeProgramComplete_kept h
  | moverMovesDone => exact execMoverMovesDone_kept h
  | frameZeroFillDone => exact execFrameZeroFillDone_kept h
  | cowCopyComplete => exact execCowCopyComplete_kept h
  | garbageCollection => exact execGarbageCollection_kept h
  | pieceDecode => exact execPieceDecode_kept h
  | pieceEncode => exact execPieceEncode_kept h
  | completionPost => exact execCompletionPost_kept h
  | backgroundCommandComplete => exact execBackgroundCommandComplete_kept h
  | workRingDoorbell => exact execWorkRingDoorbell_kept h
  | eventRingHeadWrite => exact execEventRingHeadWrite_kept h
  | ringEnable => exact execRingEnable_kept h
  | ringDisable => exact execRingDisable_kept h
  | ringDrainComplete => exact execRingDrainComplete_kept h
  | eventRingInterruptTimer => exact execEventRingInterruptTimer_kept h
  | decoderCommitWrite => exact execDecoderCommitWrite_kept h
  | intEnableWrite => exact execIntEnableWrite_kept h
  | registerWrite => exact execRegisterWrite_kept h
  | msixUnmask => exact execMsixUnmask_kept h
  | cue => exact execCue_kept h
  | promote => exact execPromote_kept h
  | evict => exact execEvict_kept h
  | flush => exact execFlush_kept h
  | codecIn => exact execCodecIn_kept h
  | codecOut => exact execCodecOut_kept h
  | codecExchange => exact execCodecExchange_kept h
  | nmFill => exact execNmFill_kept h
  | nmCopy => exact execNmCopy_kept h
  | nmCompare => exact execNmCompare_kept h
  | nmReduce => exact execNmReduce_kept h
  | nmAtomic => exact execNmAtomic_kept h
  | swapIn => exact execSwapIn_kept h
  | swapOut => exact execSwapOut_kept h
  | nop => exact execNop_kept h
  | steward => exact execSteward_kept h
  | upstreamCompletion => exact execUpstreamCompletion_kept h
  | upstreamCompletionTimeout => exact execUpstreamCompletionTimeout_kept h
  | poisonedTlpToBar => exact execPoisonedTlpToBar_kept h
  | mciIdentify => exact execMciIdentify_kept h
  | ctxSelect => exact execCtxSelect_kept h
  | patLoad => exact execPatLoad_kept h
  | patUnload => exact execPatUnload_kept h
  | patBind => exact execPatBind_kept h
  | patUnbind => exact execPatUnbind_kept h
  | objCreate => exact execObjCreate_kept h
  | objDelete => exact execObjDelete_kept h
  | objSetClass => exact execObjSetClass_kept h
  | objQuery => exact execObjQuery_kept h
  | winCreate => exact execWinCreate_kept h
  | winDelete => exact execWinDelete_kept h
  | verInit => exact execVerInit_kept h
  | verDraft => exact execVerDraft_kept h
  | verPublish => exact execVerPublish_kept h
  | verRebase => exact execVerRebase_kept h
  | verDiscard => exact execVerDiscard_kept h
  | verOpen => exact execVerOpen_kept h
  | verClose => exact execVerClose_kept h
  | verQuery => exact execVerQuery_kept h
  | leaseRenew => exact execLeaseRenew_kept h
  | leaseSet => exact execLeaseSet_kept h
  | leaseExpiry => exact execLeaseExpiry_kept h
  | codecOpen => exact execCodecOpen_kept h
  | codecClose => exact execCodecClose_kept h
  | dramOrderSet => exact execDramOrderSet_kept h
  | dramSpare => exact execDramSpare_kept h
  | cartQuery => exact execCartQuery_kept h
  | cartRetire => exact execCartRetire_kept h
  | ledgerSet => exact execLedgerSet_kept h
  | ledgerQuery => exact execLedgerQuery_kept h
  | modeSet => exact execModeSet_kept h
  | modeQuery => exact execModeQuery_kept h
  | srcidSet => exact execSrcidSet_kept h
  | portRoleSet => exact execPortRoleSet_kept h
  | swapGrant => exact execSwapGrant_kept h
  | regRead => exact execRegRead_kept h
  | regWrite => exact execRegWrite_kept h
  | keySet => exact execKeySet_kept h
  | keyClear => exact execKeyClear_kept h
  | ctxUnpick => exact execCtxUnpick_kept h
  | quarantineRelease => exact execQuarantineRelease_kept h
  | resetRequest => exact execResetRequest_kept h
  | identifyMemoryDevice => exact execIdentifyMemoryDevice_kept h
  | getSupportedLogs => exact execGetSupportedLogs_kept h
  | getLog => exact execGetLog_kept h
  | getEventRecords => exact execGetEventRecords_kept h
  | clearEventRecords => exact execClearEventRecords_kept h
  | getEventInterruptPolicy => exact execGetEventInterruptPolicy_kept h
  | setEventInterruptPolicy => exact execSetEventInterruptPolicy_kept h
  | getTimestamp => exact execGetTimestamp_kept h
  | setTimestamp => exact execSetTimestamp_kept h
  | getDcConfiguration => exact execGetDcConfiguration_kept h
  | getDcExtentList => exact execGetDcExtentList_kept h
  | addDcResponse => exact execAddDcResponse_kept h
  | releaseDc => exact execReleaseDc_kept h
  | fmDcAdd => exact execFmDcAdd_kept h
  | fmDcWithdraw => exact execFmDcWithdraw_kept h
  | fmDcForceRelease => exact execFmDcForceRelease_kept h
  | dcOfferTimeout => exact execDcOfferTimeout_kept h
  | grantReleaseComplete => exact execGrantReleaseComplete_kept h
  | transferFw => exact execTransferFw_kept h
  | activateFw => exact execActivateFw_kept h
  | fwStoreWriteDone => exact execFwStoreWriteDone_kept h
  | kekSet => exact execKekSet_kept h
  | kekClear => exact execKekClear_kept h
  | getVersion => exact execGetVersion_kept h
  | getCapabilities => exact execGetCapabilities_kept h
  | negotiateAlgorithms => exact execNegotiateAlgorithms_kept h
  | getDigests => exact execGetDigests_kept h
  | getCertificate => exact execGetCertificate_kept h
  | challenge => exact execChallenge_kept h
  | getMeasurements => exact execGetMeasurements_kept h
  | keyExchange => exact execKeyExchange_kept h
  | finish => exact execFinish_kept h
  | heartbeat => exact execHeartbeat_kept h
  | keyUpdate => exact execKeyUpdate_kept h
  | endSession => exact execEndSession_kept h
  | chunkSend => exact execChunkSend_kept h
  | chunkGet => exact execChunkGet_kept h
  | spdmSignatureDone => exact execSpdmSignatureDone_kept h
  | ideKmQuery => exact execIdeKmQuery_kept h
  | ideKmKeyProg => exact execIdeKmKeyProg_kept h
  | ideKmKSetGo => exact execIdeKmKSetGo_kept h
  | ideKmKSetStop => exact execIdeKmKSetStop_kept h
  | cxlQuery => exact execCxlQuery_kept h
  | cxlKeyProg => exact execCxlKeyProg_kept h
  | cxlKSetGo => exact execCxlKSetGo_kept h
  | cxlKSetStop => exact execCxlKSetStop_kept h
  | cxlGetkey => exact execCxlGetkey_kept h
  | linkUp => exact execLinkUp_kept h
  | linkDown => exact execLinkDown_kept h
  | linkRecoveryEntry => exact execLinkRecoveryEntry_kept h
  | busMasterEnableClear => exact execBusMasterEnableClear_kept h
  | vfFunctionLevelReset => exact execVfFunctionLevelReset_kept h
  | vfEnableClear => exact execVfEnableClear_kept h
  | pfFunctionLevelReset => exact execPfFunctionLevelReset_kept h
  | perstAssert => exact execPerstAssert_kept h
  | perstRelease => exact execPerstRelease_kept h
  | stackSensorRead => exact execStackSensorRead_kept h
  | thermalSensorRead => exact execThermalSensorRead_kept h
  | calWindowClose => exact execCalWindowClose_kept h
  | rankRowCopy => exact execRankRowCopy_kept h
  | scrubInterval => exact execScrubInterval_kept h
  | directedScrub => exact execDirectedScrub_kept h
  | bucketLeak => exact execBucketLeak_kept h
  | rowSpareCopyDone => exact execRowSpareCopyDone_kept h
  | columnSpareWalkDone => exact execColumnSpareWalkDone_kept h
  | bayPresence => exact execBayPresence_kept h
  | bayPresenceLost => exact execBayPresenceLost_kept h
  | bayLatchOpen => exact execBayLatchOpen_kept h
  | latchPowerRemove => exact execLatchPowerRemove_kept h
  | cartVerifyComplete => exact execCartVerifyComplete_kept h
  | channelStatusTimeout => exact execChannelStatusTimeout_kept h
  | codewordFailureLimit => exact execCodewordFailureLimit_kept h
  | ledgerWrite => exact execLedgerWrite_kept h
  | eolRepeat => exact execEolRepeat_kept h
  | rebuildStripe => exact execRebuildStripe_kept h
  | rebuildJournalWrite => exact execRebuildJournalWrite_kept h
  | rebuildDone => exact execRebuildDone_kept h
  | xwaitLimit => exact execXwaitLimit_kept h
  | engineStuck => exact execEngineStuck_kept h
  | unpickStalled => exact execUnpickStalled_kept h
  | clusterHeartbeatMiss => exact execClusterHeartbeatMiss_kept h
  | exchangeStuck => exact execExchangeStuck_kept h
  | stackHeartbeatMiss => exact execStackHeartbeatMiss_kept h
  | dieHeartbeatMiss => exact execDieHeartbeatMiss_kept h
  | hubBlockStall => exact execHubBlockStall_kept h
  | commandProgressTimeout => exact execCommandProgressTimeout_kept h
  | stewardWatchdog => exact execStewardWatchdog_kept h
  | unpickComplete => exact execUnpickComplete_kept h
  | resetComplete => exact execResetComplete_kept h
  | resetEscalate => exact execResetEscalate_kept h
  | replayArm => exact execReplayArm_kept h
  | packageReset => exact execPackageReset_kept h
  | startupStageComplete => exact execStartupStageComplete_kept h
  | domainPowerUpDone => exact execDomainPowerUpDone_kept h
  | inputReading => exact execInputReading_kept h
  | inputPowerFault => exact execInputPowerFault_kept h
  | mrefLoss => exact execMrefLoss_kept h
  | mrefStable => exact execMrefStable_kept h
  | pwrEnRise => exact execPwrEnRise_kept h
  | pwrEnFall => exact execPwrEnFall_kept h
  | modRstFall => exact execModRstFall_kept h
  | modRstRise => exact execModRstRise_kept h
  | sidebandAlertRepeat => exact execSidebandAlertRepeat_kept h
  | vfEnableSet => exact execVfEnableSet_kept h
  | busMasterEnableSet => exact execBusMasterEnableSet_kept h
  | ptmEnableWrite => exact execPtmEnableWrite_kept h
  | linkRetrainComplete => exact execLinkRetrainComplete_kept h
  | functionResetComplete => exact execFunctionResetComplete_kept h
  | endpointIdAssignment => exact execEndpointIdAssignment_kept h

/-- A well-formed S command runs. -/
theorem sCore_next {c : Instr} {k : CoreId} (hk : c.sCore = some k) (h : c.wf = true) (s : State) :
    ∃ t, exec c s = .next t := by
  obtain ⟨n, f, name, e⟩ := sCore_exec hk s
  exact ⟨_, e.trans (if_pos h)⟩

/-- An S command with a reserved code is refused by name. -/
theorem sCore_refused {c : Instr} {k : CoreId} (hk : c.sCore = some k) (h : c.wf = false) (s : State) :
    ∃ name, exec c s = .refused (.reservedEncoding name) := by
  obtain ⟨n, f, name, e⟩ := sCore_exec hk s
  exact ⟨_, e.trans (if_neg (by simp [h]))⟩

/-- A well-formed command runs: most commands always do, the S commands by `sCore_next`, and the X commands with reserved
codes (R107, R111) when their code is none of these. -/
theorem exec_next {c : Instr} (h : c.wf = true) (s : State) : ∃ t, exec c s = .next t := by
  cases c with
  | compareEqual | compareLessThan | compareLessOrEqual | compareUnordered | intAdd | intSubtract | intMultiplyLow
  | intMultiplyHigh | intMinimum | intMaximum | reduceSum | reduceMinimum | reduceMaximum | select | convertFromFp32
  | convertToFp32 | mxQuantise => exact sCore_next rfl h s
  | lcnt => exact ⟨_, if_neg (by simpa [Instr.wf] using h)⟩
  | waitf => exact ⟨_, if_neg (by simp [Instr.wf] at h; omega)⟩
  | acw => exact ⟨_, if_pos h⟩
  | tsd => exact ⟨_, if_neg (by simp [Instr.wf] at h; omega)⟩
  | exchangeMessageArrive msg =>
    rw [exec_exchangeMessageArrive, execExchangeMessageArrive]
    cases mget? s.msgs msg <;> exact ⟨_, rfl⟩
  | upstreamCompletion c tag successful ep data =>
    rw [exec_upstreamCompletion, execUpstreamCompletion]
    cases swapOf s c tag <;> exact ⟨_, rfl⟩
  | upstreamCompletionTimeout c tag =>
    rw [exec_upstreamCompletionTimeout, execUpstreamCompletionTimeout]
    cases swapOf s c tag <;> exact ⟨_, rfl⟩
  | _ => exact ⟨_, rfl⟩

/-- A command with a reserved code is refused by name. -/
theorem exec_refused {c : Instr} (h : c.wf = false) (s : State) : ∃ name, exec c s = .refused (.reservedEncoding name) := by
  cases c with
  | compareEqual | compareLessThan | compareLessOrEqual | compareUnordered | intAdd | intSubtract | intMultiplyLow
  | intMultiplyHigh | intMinimum | intMaximum | reduceSum | reduceMinimum | reduceMaximum | select | convertFromFp32
  | convertToFp32 | mxQuantise => exact sCore_refused rfl h s
  | lcnt => exact ⟨_, if_pos (by simpa [Instr.wf] using h)⟩
  | waitf => exact ⟨_, if_pos (by simp [Instr.wf] at h; omega)⟩
  | acw => exact ⟨_, if_neg (by simpa [Instr.wf] using h)⟩
  | tsd => exact ⟨_, if_pos (by simp [Instr.wf] at h; omega)⟩
  | _ => cases h

end Sys2Proof.Machine

namespace Sys2Proof.Proofs
open Machine

/-- Settles O60: the queue by `exec_kept`, the rest by `exec_next` and `exec_refused`. -/
theorem everyCommandRuns : Obligations.EveryCommandRuns := by
  refine ⟨⟨fun c s t h => (exec_kept h).queue, ?_⟩, fun c s h => exec_next h s, fun c s h => exec_refused h s⟩
  intro c rest s t hs h
  rw [step, hs] at h
  exact (exec_kept h).queue

end Sys2Proof.Proofs

/-! ## Bits of numbers, and the fields of a register (R5, R10, R13) -/

namespace Sys2Proof.Machine

theorem bit_eq_testBit (x i : Nat) : bit x i = x.testBit i := by
  rw [bit, Nat.testBit_eq_decide_div_mod_eq]; rfl

theorem testBit_bits (x lo len i : Nat) : (bits x lo len).testBit i = (decide (i < len) && x.testBit (lo + i)) := by
  rw [bits, Nat.testBit_mod_two_pow, Nat.testBit_div_two_pow, Nat.add_comm lo]

/-- A field depends on its own bits only. -/
theorem bits_congr {x y lo len : Nat} (h : ∀ i, lo ≤ i → i < lo + len → x.testBit i = y.testBit i) :
    bits x lo len = bits y lo len := by
  refine Nat.eq_of_testBit_eq fun i => ?_
  rw [testBit_bits, testBit_bits]
  by_cases hi : i < len
  · rw [h (lo + i) (by omega) (by omega)]
  · simp [hi]

theorem bits_lt (x lo len : Nat) : bits x lo len < 2 ^ len := Nat.mod_lt _ (Nat.two_pow_pos len)

/-- A replaced field: the bits above it, its new value, and the bits below it. -/
theorem setBits_eq (x lo len v : Nat) :
    setBits x lo len v = 2 ^ lo * (2 ^ len * (x / 2 ^ lo / 2 ^ len) + v % 2 ^ len) + x % 2 ^ lo := by
  have hx := Nat.div_add_mod x (2 ^ lo)
  have hy := Nat.div_add_mod (x / 2 ^ lo) (2 ^ len)
  have hz : x = 2 ^ lo * (2 ^ len * (x / 2 ^ lo / 2 ^ len)) + bits x lo len * 2 ^ lo + x % 2 ^ lo := by
    rw [bits, Nat.mul_comm (_ % _), ← Nat.mul_add, hy, hx]
  rw [setBits, Nat.mul_add, Nat.mul_comm (v % 2 ^ len)]
  omega

/-- The bits of a number with a field replaced. -/
theorem testBit_setBits (x lo len v i : Nat) :
    (setBits x lo len v).testBit i = if lo ≤ i ∧ i < lo + len then v.testBit (i - lo) else x.testBit i := by
  rw [setBits_eq, Nat.testBit_two_pow_mul_add _ (Nat.mod_lt _ (Nat.two_pow_pos lo))]
  by_cases h1 : i < lo
  · rw [if_pos h1, if_neg (by omega), Nat.testBit_mod_two_pow]; simp [h1]
  · rw [if_neg h1, Nat.testBit_two_pow_mul_add _ (Nat.mod_lt _ (Nat.two_pow_pos len))]
    by_cases h2 : i - lo < len
    · rw [if_pos h2, if_pos (by omega), Nat.testBit_mod_two_pow]; simp [h2]
    · rw [if_neg h2, if_neg (by omega), Nat.testBit_div_two_pow, Nat.testBit_div_two_pow]
      congr 1; omega

theorem bits_setBits_same {v len : Nat} (h : v < 2 ^ len) (x lo : Nat) : bits (setBits x lo len v) lo len = v := by
  refine Nat.eq_of_testBit_eq fun i => ?_
  rw [testBit_bits, testBit_setBits]
  by_cases hi : i < len
  · rw [if_pos (by omega)]; simp [hi]
  · have : v < 2 ^ i := Nat.lt_of_lt_of_le h (Nat.pow_le_pow_right (by decide) (by omega))
    simp [hi, Nat.testBit_lt_two_pow this]

/-- What a write of a register makes of the bits `b` of one field (R10, R13). -/
def fieldResult (d : RegDesc) (old new : Nat) (f : RegField) (b : Nat) : Nat :=
  match f.acc with
  | .w1c => (BitVec.ofNat 64 b &&& ~~~ BitVec.ofNat 64 (bits new f.lo f.len)).toNat
  | .wo => b
  | _ => if fieldLegal d.off f (bits new f.lo f.len) && crossLegal d.off old new f then bits new f.lo f.len else b

theorem fieldResult_lt {d : RegDesc} {old new : Nat} {f : RegField} {b : Nat} (h : b < 2 ^ f.len) :
    fieldResult d old new f b < 2 ^ f.len := by
  unfold fieldResult
  split
  · refine Nat.lt_of_le_of_lt ?_ h
    rw [BitVec.toNat_and, BitVec.toNat_ofNat]
    exact Nat.and_le_left.trans (Nat.mod_le _ _)
  · exact h
  · split
    · exact bits_lt ..
    · exact h

/-- A number with one field written. -/
def writeField (d : RegDesc) (old new v : Nat) (f : RegField) : Nat :=
  setBits v f.lo f.len (fieldResult d old new f (bits v f.lo f.len))

theorem setBits_bits (x lo len : Nat) : setBits x lo len (bits x lo len) = x := by
  refine Nat.eq_of_testBit_eq fun i => ?_
  rw [testBit_setBits, testBit_bits]
  split
  · rw [show lo + (i - lo) = i by omega]; simp; omega
  · rfl

/-- A write of a register writes its fields in turn. -/
theorem regWritten_eq_foldl (d : RegDesc) (old new : Nat) :
    regWritten d old new = d.fields.foldl (writeField d old new) old := by
  rw [regWritten]
  congr 1
  funext v f
  cases h : f.acc <;> simp only [writeField, fieldResult, h, setBits_bits] <;> split <;> simp only [setBits_bits]

theorem testBit_writeField {d : RegDesc} {old new v i : Nat} {f : RegField} (h : i < f.lo ∨ f.lo + f.len ≤ i) :
    (writeField d old new v f).testBit i = v.testBit i := by
  rw [writeField, testBit_setBits, if_neg (by omega)]

theorem testBit_writeFields {d : RegDesc} {old new i : Nat} {fs : List RegField}
    (h : ∀ f ∈ fs, i < f.lo ∨ f.lo + f.len ≤ i) (v : Nat) :
    (fs.foldl (writeField d old new) v).testBit i = v.testBit i := by
  induction fs generalizing v with
  | nil => rfl
  | cons f fs ih =>
    rw [List.foldl_cons, ih (fun g hg => h g (.tail _ hg)), testBit_writeField (h f (.head _))]

theorem bits_writeField_same (d : RegDesc) (old new v : Nat) (f : RegField) :
    bits (writeField d old new v f) f.lo f.len = fieldResult d old new f (bits v f.lo f.len) :=
  bits_setBits_same (fieldResult_lt (bits_lt ..)) ..

/-- Two fields share no bit. -/
def RegField.apart (f g : RegField) : Bool := decide (f.lo + f.len ≤ g.lo) || decide (g.lo + g.len ≤ f.lo)

/-- Of fields that share no bit, each is written as if it stood alone. -/
theorem bits_writeFields {d : RegDesc} {old new : Nat} {fs : List RegField}
    (apart : fs.Pairwise (fun f g => f.apart g = true)) {f : RegField} (hf : f ∈ fs) (v : Nat) :
    bits (fs.foldl (writeField d old new) v) f.lo f.len = fieldResult d old new f (bits v f.lo f.len) := by
  induction fs generalizing v with
  | nil => cases hf
  | cons g fs ih =>
    obtain ⟨hg, hfs⟩ := List.pairwise_cons.mp apart
    rw [List.foldl_cons]
    cases hf with
    | head =>
      rw [← bits_writeField_same]
      refine bits_congr fun i h1 h2 => testBit_writeFields (fun g hgs => ?_) _
      have := hg g hgs
      simp only [RegField.apart, Bool.or_eq_true, decide_eq_true_eq] at this
      omega
    | tail _ hf =>
      rw [ih hfs hf]
      refine congrArg _ (bits_congr fun i h1 h2 => testBit_writeField ?_)
      have := hg f hf
      simp only [RegField.apart, Bool.or_eq_true, decide_eq_true_eq] at this
      omega

/-- The fields of every register share no bit. -/
theorem fields_apart {off : Nat} {d : RegDesc} (h : regAt off = some d) :
    d.fields.Pairwise (fun f g => f.apart g = true) := by
  have stack : ∀ d ∈ stackRegs, d.fields.Pairwise (fun f g => f.apart g = true) := by decide
  have block : ∀ d ∈ intRegs ++ blockRegs ++ blockRegs2, d.fields.Pairwise (fun f g => f.apart g = true) := by decide
  rw [regAt] at h
  split at h
  · obtain ⟨r, hr, rfl⟩ := Option.map_eq_some_iff.mp h
    exact stack r (List.mem_of_find?_eq_some hr)
  · exact block d (List.mem_of_find?_eq_some h)

end Sys2Proof.Machine

namespace Sys2Proof.Proofs
open Machine

/-- Settles O34: the fields of a register share no bit (`fields_apart`), so a write takes each by its own code. -/
theorem registerFields : Obligations.RegisterFields := by
  intro off d h old new
  rw [regWritten_eq_foldl]
  exact ⟨fun f hf => bits_writeFields (fields_apart h) hf old, fun i hi => testBit_writeFields hi old⟩

end Sys2Proof.Proofs

/-! ## Register writes (R9, R10, R332, R334) -/

namespace Sys2Proof.Machine

/-- A field below the bits that an access carries. -/
theorem bits_mod {x n lo len : Nat} (h : lo + len ≤ n) : bits (x % 2 ^ n) lo len = bits x lo len :=
  bits_congr fun i _ hi => by rw [Nat.testBit_mod_two_pow]; simp; omega

theorem bit_mod {x n i : Nat} (h : i < n) : bit (x % 2 ^ n) i = x.testBit i := by
  rw [bit_eq_testBit, Nat.testBit_mod_two_pow]; simp [h]

/-- A register other than the one written reads as before. -/
theorem State.reg_mput_other (s : State) {a off : Nat} (x : DWord) (h : off ≠ a) :
    ({ s with regs := mput s.regs a x } : State).reg off = s.reg off := by
  simp [State.reg, regIn, regKey, mget?_mput', h]

/-! ### The module register space -/

theorem hostRegWrite_module (s : State) (p : Port) (off width value : Nat) :
    hostRegWrite s (.module p) off width value =
      if pfTakes s p = true ∧ s.owner = some p then writeReg s off width value else s := by
  simp [hostRegWrite]

/-- An access of another width or alignment than the register's is ignored (R9). -/
theorem writeReg_ignored (s : State) {off width : Nat} (value : Nat) (h : width ≠ regBytes off ∨ off % width ≠ 0) :
    writeReg s off width value = s := if_pos h

/-- A write of an INT_ENABLE register (R334). -/
theorem writeReg_intEnable (s : State) (b : Fin 14) (value : Nat) :
    writeReg s (intEnableOff b.val) 4 value = enableWrite s b.val value := by
  have hb : ∀ b : Fin 14, ¬ (4 ≠ regBytes (intEnableOff b.val) ∨ intEnableOff b.val % 4 ≠ 0) ∧
      (List.range 14).find? (fun c => intEnableOff c == intEnableOff b.val) = some b.val := by decide
  rw [writeReg, if_neg (hb b).1, (hb b).2]

/-- A write of any other register (R10, R13). -/
theorem writeReg_other (s : State) {off width : Nat} (value : Nat) (hw : width = regBytes off) (ha : off % width = 0)
    (hb : ∀ b < 14, intEnableOff b ≠ off) :
    (regAt off = none → writeReg s off width value = s) ∧
    ∀ d, regAt off = some d → writeReg s off width value =
      let new := regWritten d (s.reg off (regIndex s off)) (ownerBit s off value)
      let u := if off = 0x90020 then keepBuckets s (regIndex s off) new else s
      writeEffect { u with regs := mput u.regs (regKey off (regIndex s off)) (BitVec.ofNat 64 new) } off value := by
  have hf : (List.range 14).find? (fun b => intEnableOff b == off) = none := by
    simpa using hb
  rw [writeReg, if_neg (not_or.mpr ⟨not_not.mpr hw, not_not.mpr ha⟩), hf]
  exact ⟨fun h => by simp only [h], fun d h => by simp only [h]⟩

/-- Software that enables a bit already set raises the management interrupt; otherwise the write only stores (R334). -/
theorem enableWrite_eq (s : State) (b value : Nat) :
    let w := intWidths.getD b 0
    let a : State := { s with regs := mput s.regs (intEnableOff b) (BitVec.ofNat 64 (value % 2 ^ w)) }
    enableWrite s b value =
      if (List.range w).any (fun i =>
          bit (s.reg (intStatusOff b)) i && bit value i && !bit (s.reg (intEnableOff b)) i) = true
      then (if mgmtSummary s = 0 then sendAlerts (sendMgmt a) else sendMgmt a) else a := by
  have hne : intStatusOff b ≠ intEnableOff b := by simp [intEnableOff]
  simp only [enableWrite, State.reg_mput_other s _ hne, beq_iff_eq]

/-! ### The pages of a context -/

theorem hostRegWrite_doorbell (s : State) (c : Ctx) (off width value : Nat) :
    hostRegWrite s (.doorbell c) off width value = if vfTakes s c = true then writeDoorbell s c off width value else s :=
  rfl

theorem hostRegWrite_decoder (s : State) (c : Ctx) (off width value : Nat) :
    hostRegWrite s (.decoder c) off width value = if vfTakes s c = true then writeDecoder s c off width value else s :=
  rfl

/-- A base of a ring takes a write while the rings are off (R389). -/
theorem writeDoorbell_base (s : State) (c : Ctx) (value : Nat) :
    ((s.ctx c).ring.enabled = false → (s.ctx c).ring.draining = false →
      writeDoorbell s c 8 8 value = s.modCtx c (fun x => { x with
        ring := { x.ring with wrBase := BitVec.ofNat 64 (bits value 16 31 * 65536) } }) ∧
      writeDoorbell s c 16 8 value = s.modCtx c (fun x => { x with
        ring := { x.ring with erBase := BitVec.ofNat 64 (bits value 16 31 * 65536) } })) ∧
    ((s.ctx c).ring.enabled = true ∨ (s.ctx c).ring.draining = true →
      writeDoorbell s c 8 8 value = s ∧ writeDoorbell s c 16 8 value = s) := by
  constructor
  · intro he hd
    simp [writeDoorbell, he, hd]
  · intro h
    have idle : (!(s.ctx c).ring.enabled && !(s.ctx c).ring.draining) = false := by
      rcases h with h | h <;> simp [h]
    simp [writeDoorbell, idle]

end Sys2Proof.Machine

namespace Sys2Proof.Machine

/-- A write of the doorbell page's register of the interrupt's conditions (R395). -/
theorem writeDoorbell_interrupt (s : State) (c : Ctx) (value : Nat) :
    let n := bits value 4 12
    let x := s.modCtx c (fun x => { x with ring := { x.ring with
      intEn := value.testBit 0, intCount := if n = 0 then x.ring.intCount else BitVec.ofNat 12 n
      intTime := BitVec.ofNat 16 (bits value 16 16) } })
    writeDoorbell s c 0x20 4 value =
      if entriesDue (x.ctx c).ring = true ∧ entriesDue (s.ctx c).ring = false then sendMsix x (.vf c) 0 else x := by
  simp only [writeDoorbell, bit_eq_testBit, Bool.and_eq_true, Bool.not_eq_true']

/-- A write of a decoder's base, size or device address is staged (R339, R341). -/
theorem writeDecoder_staged (s : State) (c : Ctx) (value i : Nat) (hi : i < 8) :
    let set := fun (f : Decoder → Decoder) => s.modCtx c (fun x => { x with staged := mmod {} x.staged i f })
    writeDecoder s c (32 * i) 8 value = set (fun d => { d with base := BitVec.ofNat 64 (bits value 28 36 * 0x10000000) }) ∧
    writeDecoder s c (32 * i + 8) 8 value = set (fun d => { d with size := BitVec.ofNat 64 (bits value 28 36 * 0x10000000) }) ∧
    writeDecoder s c (32 * i + 16) 8 value = set (fun d => { d with dpa := BitVec.ofNat 64 (bits value 28 19 * 0x10000000) }) := by
  have place : ∀ r, r < 32 → 32 * i + r ≠ 0x100 ∧ ¬ 0x100 < 32 * i + r ∧ (32 * i + r) / 32 = i ∧ (32 * i + r) % 32 = r := by
    omega
  have p0 := place 0 (by decide)
  have p8 := place 8 (by decide)
  have p16 := place 16 (by decide)
  rw [Nat.add_zero] at p0
  simp only [writeDecoder, p0, p8, p16, if_false, and_self]

/-! ### REG_READ and REG_WRITE (R402) -/

/-- An accepted command whose handler is done is answered on its path. -/
theorem mci_done {s : State} {via : Path} {op : Nat} {input : List Byte} {a : State} {m : MciCall}
    (h : Accepted s via op input a m) {hd : Handler} {b : State} {st : Nat} {out : List Byte} (e : hd a m = (b, .done st out)) :
    mci s via op input hd = answer b via m.tag op st out := by
  obtain ⟨-, hv, -, -⟩ := accepted_call h
  rw [mci_of_accepted h, e, finish, hv]

theorem regReadH_eq (a : State) (m : MciCall) :
    (bfield m.input 0 4 < 0x400000 →
      regReadH a m = (a, .done 0 (leBytes 8 (readReg a (bfield m.input 0 4) (bfield m.input 4 1))))) ∧
    (0x400000 ≤ bfield m.input 0 4 → regReadH a m = (a, .done 0x12 [])) :=
  ⟨fun h => if_neg (Nat.not_le.mpr h), fun h => if_pos h⟩

theorem regWriteH_eq (a : State) (m : MciCall) :
    (bfield m.input 0 4 < 0x400000 → regWriteH a m =
      (writeReg a (bfield m.input 0 4) (bfield m.input 4 1) (bfield m.input 8 8 % 2 ^ (8 * bfield m.input 4 1)), .done 0 [])) ∧
    (0x400000 ≤ bfield m.input 0 4 → regWriteH a m = (a, .done 0x12 [])) :=
  ⟨fun h => if_neg (Nat.not_le.mpr h), fun h => if_pos h⟩

/-- What REG_READ and REG_WRITE answer. -/
theorem regReadWrite_answers (s : State) (via : Path) (input : List Byte) (a : State) (m : MciCall) :
    (Accepted s via 0xC0B3 input a m → bfield input 0 4 < 0x400000 → exec (.regRead via input) s =
      .next (answer a via m.tag 0xC0B3 0 (leBytes 8 (readReg a (bfield input 0 4) (bfield input 4 1))))) ∧
    (Accepted s via 0xC0B3 input a m → 0x400000 ≤ bfield input 0 4 →
      exec (.regRead via input) s = .next (answer a via m.tag 0xC0B3 0x12 [])) ∧
    (Accepted s via 0xC0B4 input a m → bfield input 0 4 < 0x400000 → exec (.regWrite via input) s =
      .next (answer (writeReg a (bfield input 0 4) (bfield input 4 1) (bfield input 8 8 % 2 ^ (8 * bfield input 4 1)))
        via m.tag 0xC0B4 0 [])) ∧
    (Accepted s via 0xC0B4 input a m → 0x400000 ≤ bfield input 0 4 →
      exec (.regWrite via input) s = .next (answer a via m.tag 0xC0B4 0x12 [])) := by
  have rd := regReadH_eq a m
  have wr := regWriteH_eq a m
  refine ⟨fun h o => ?_, fun h o => ?_, fun h o => ?_, fun h o => ?_⟩ <;> rw [(accepted_call h).1] at rd wr
  · exact congrArg Host.Outcome.next (mci_done h (rd.1 o))
  · exact congrArg Host.Outcome.next (mci_done h (rd.2 o))
  · exact congrArg Host.Outcome.next (mci_done h (wr.1 o))
  · exact congrArg Host.Outcome.next (mci_done h (wr.2 o))

/-! ### What a write of the host comes to -/

/-- The host's writes of the module register space (R9, R10, R332). -/
theorem module_writes (s : State) (p : Port) (off : BitVec 22) (bytes : BitVec 4) (value : DWord) :
    let o := off.toNat
    let v := value.toNat % 2 ^ (8 * bytes.toNat)
    (pfTakes s p = false ∨ s.owner ≠ some p → exec (.registerWrite (.module p) off bytes value) s = .next s) ∧
    (pfTakes s p = true → s.owner = some p →
      exec (.registerWrite (.module p) off bytes value) s = .next (writeReg s o bytes.toNat v)) := by
  simp only [exec_registerWrite, execRegisterWrite, hostRegWrite_module]
  refine ⟨fun h => ?_, fun h1 h2 => by rw [if_pos ⟨h1, h2⟩]⟩
  rw [if_neg (by rintro ⟨h1, h2⟩; simp [h1, h2] at h)]

/-- A write of INT_ENABLE through the owner port. -/
theorem intEnable_write {s : State} {p : Port} (h1 : pfTakes s p = true) (h2 : s.owner = some p) (b : Fin 14) (x : Word) :
    exec (.intEnableWrite p b x) s = .next (enableWrite s b.val x.toNat) := by
  rw [exec_intEnableWrite, execIntEnableWrite, hostRegWrite_module, if_pos ⟨h1, h2⟩, writeReg_intEnable]

/-- A write of a mailbox's Mailbox Control. -/
theorem mailbox_write {s : State} {p : Port} (h : pfTakes s p = true) (b : Bool) (value : DWord) :
    exec (.registerWrite (.mailbox p b) 4 4 value) s =
      .next (s.modMbox p b (fun m => { m with dbInt := value.getLsbD 1, bgInt := value.getLsbD 2 })) := by
  have e : ∀ i < 32, bit (value.toNat % 2 ^ 32) i = value.getLsbD i := fun i hi => bit_mod hi
  simp only [exec_registerWrite, execRegisterWrite, hostRegWrite, h]
  rw [← e 1 (by decide), ← e 2 (by decide)]
  rfl

theorem doorbell_write {s : State} {c : Ctx} (h : vfTakes s c = true) (off : BitVec 22) (n : BitVec 4) (value : DWord) :
    exec (.registerWrite (.doorbell c) off n value) s =
      .next (writeDoorbell s c off.toNat n.toNat (value.toNat % 2 ^ (8 * n.toNat))) := by
  rw [exec_registerWrite, execRegisterWrite, hostRegWrite_doorbell, if_pos h]

theorem decoder_write {s : State} {c : Ctx} (h : vfTakes s c = true) (off : BitVec 22) (n : BitVec 4) (value : DWord) :
    exec (.registerWrite (.decoder c) off n value) s =
      .next (writeDecoder s c off.toNat n.toNat (value.toNat % 2 ^ (8 * n.toNat))) := by
  rw [exec_registerWrite, execRegisterWrite, hostRegWrite_decoder, if_pos h]

theorem context_write_ignored {s : State} {c : Ctx} (h : vfTakes s c = false) (off : BitVec 22) (n : BitVec 4) (value : DWord) :
    exec (.registerWrite (.doorbell c) off n value) s = .next s ∧ exec (.registerWrite (.decoder c) off n value) s = .next s := by
  simp [execRegisterWrite, hostRegWrite_doorbell, hostRegWrite_decoder, h]

end Sys2Proof.Machine

namespace Sys2Proof.Machine

/-- The four-byte writes of the doorbell page: EN, the pointers and the interrupt's conditions (R389, R391, R395). -/
theorem doorbell_words {s : State} {c : Ctx} (h : vfTakes s c = true) (value : DWord) :
    let v := value.toNat
    let w : Word := BitVec.ofNat 32 (v % 2 ^ 32)
    (let n := bits v 4 12
     let x := s.modCtx c (fun x => { x with ring := { x.ring with
       intEn := v.testBit 0, intCount := if n = 0 then x.ring.intCount else BitVec.ofNat 12 n
       intTime := BitVec.ofNat 16 (bits v 16 16) } })
     exec (.registerWrite (.doorbell c) 0x20 4 value) s = .next
       (if entriesDue (x.ctx c).ring = true ∧ entriesDue (s.ctx c).ring = false then sendMsix x (.vf c) 0 else x)) ∧
    (v.testBit 0 = true → exec (.registerWrite (.doorbell c) 0 4 value) s = .next (enableRings (setOrders s c w) c)) ∧
    (v.testBit 0 = false → exec (.registerWrite (.doorbell c) 0 4 value) s = .next (disableRings (setOrders s c w) c)) ∧
    exec (.registerWrite (.doorbell c) 0x18 4 value) s = .next (doorbell s c w) ∧
    exec (.registerWrite (.doorbell c) 0x1C 4 value) s = .next (headWrite s c w) := by
  have low : (value.toNat % 2 ^ 32).testBit 0 = value.toNat.testBit 0 := by rw [← bit_eq_testBit, bit_mod (by decide)]
  refine ⟨?_, fun e => ?_, fun e => ?_, ?_, ?_⟩ <;> refine (doorbell_write h ..).trans (congrArg Host.Outcome.next ?_)
  · refine (writeDoorbell_interrupt s c (value.toNat % 2 ^ 32)).trans ?_
    rw [low, bits_mod (by decide), bits_mod (by decide)]
  · exact if_pos ((bit_eq_testBit ..).trans (low.trans e))
  · exact if_neg (by simpa [bit_eq_testBit] using low.trans e)
  · rfl
  · rfl

/-- The bases of the rings are written while the rings are off (R389). -/
theorem doorbell_bases {s : State} {c : Ctx} (h : vfTakes s c = true) (value : DWord) :
    let v := value.toNat
    ((s.ctx c).ring.enabled = false → (s.ctx c).ring.draining = false →
      exec (.registerWrite (.doorbell c) 8 8 value) s = .next (s.modCtx c (fun x => { x with
        ring := { x.ring with wrBase := BitVec.ofNat 64 (bits v 16 31 * 65536) } })) ∧
      exec (.registerWrite (.doorbell c) 16 8 value) s = .next (s.modCtx c (fun x => { x with
        ring := { x.ring with erBase := BitVec.ofNat 64 (bits v 16 31 * 65536) } }))) ∧
    ((s.ctx c).ring.enabled = true ∨ (s.ctx c).ring.draining = true →
      exec (.registerWrite (.doorbell c) 8 8 value) s = .next s ∧ exec (.registerWrite (.doorbell c) 16 8 value) s = .next s) := by
  obtain ⟨off, on⟩ := writeDoorbell_base s c (value.toNat % 2 ^ 64)
  rw [bits_mod (by decide)] at off
  refine ⟨fun he hd => ?_, fun e => ?_⟩
  · obtain ⟨wr, er⟩ := off he hd
    exact ⟨(doorbell_write h ..).trans (congrArg _ wr), (doorbell_write h ..).trans (congrArg _ er)⟩
  · obtain ⟨wr, er⟩ := on e
    exact ⟨(doorbell_write h ..).trans (congrArg _ wr), (doorbell_write h ..).trans (congrArg _ er)⟩

/-- The writes of the decoder block: COMMIT, and the staged fields of each decoder (R339, R341). -/
theorem decoder_writes {s : State} {c : Ctx} (h : vfTakes s c = true) (value : DWord) :
    let v := value.toNat
    exec (.registerWrite (.decoder c) 0x100 4 value) s = .next (if v.testBit 0 then stageCommit s c else s) ∧
    ∀ i < 8,
      let set := fun (f : Decoder → Decoder) => s.modCtx c (fun x => { x with staged := mmod {} x.staged i f })
      exec (.registerWrite (.decoder c) (BitVec.ofNat 22 (32 * i)) 8 value) s =
        .next (set (fun d => { d with base := BitVec.ofNat 64 (bits v 28 36 * 0x10000000) })) ∧
      exec (.registerWrite (.decoder c) (BitVec.ofNat 22 (32 * i + 8)) 8 value) s =
        .next (set (fun d => { d with size := BitVec.ofNat 64 (bits v 28 36 * 0x10000000) })) ∧
      exec (.registerWrite (.decoder c) (BitVec.ofNat 22 (32 * i + 16)) 8 value) s =
        .next (set (fun d => { d with dpa := BitVec.ofNat 64 (bits v 28 19 * 0x10000000) })) := by
  refine ⟨?_, fun i hi => ?_⟩
  · have low : bit (value.toNat % 2 ^ 32) 0 = value.toNat.testBit 0 := bit_mod (by decide)
    rw [← low]
    exact decoder_write h ..
  · have at_ : ∀ r, r < 32 → (BitVec.ofNat 22 (32 * i + r)).toNat = 32 * i + r := fun r hr => by
      rw [BitVec.toNat_ofNat, Nat.mod_eq_of_lt (by omega)]
    obtain ⟨hb, hs, hd⟩ := writeDecoder_staged s c (value.toNat % 2 ^ 64) i hi
    rw [bits_mod (by decide)] at hb hs hd
    refine ⟨?_, ?_, ?_⟩ <;> refine (decoder_write h ..).trans (congrArg Host.Outcome.next ?_)
    · rw [show (BitVec.ofNat 22 (32 * i)).toNat = 32 * i from at_ 0 (by decide)]; exact hb
    · rw [at_ 8 (by decide)]; exact hs
    · rw [at_ 16 (by decide)]; exact hd

end Sys2Proof.Machine

namespace Sys2Proof.Proofs
open Machine

/-- Settles O33: the module space by `module_writes`, `writeReg_other` and `enableWrite_eq`, the MCI commands by
`regReadWrite_answers`, and a context's pages by `doorbell_words`, `doorbell_bases` and `decoder_writes`. -/
theorem registerWrites : Obligations.RegisterWrites := by
  refine ⟨fun s p off bytes value => ?_, fun s c value => ?_⟩
  · obtain ⟨ignored, taken⟩ := module_writes s p off bytes value
    refine ⟨ignored, fun h1 h2 => ⟨fun h => ?_, fun hw ha hb => ?_, fun b x => ?_⟩, fun b h => mailbox_write h b value,
      fun via input a m => regReadWrite_answers s via input a m⟩
    · rw [taken h1 h2, writeReg_ignored s _ h]
    · rw [taken h1 h2]
      obtain ⟨none, some⟩ := writeReg_other s (value.toNat % 2 ^ (8 * bytes.toNat)) hw ha hb
      exact ⟨fun h => congrArg _ (none h), fun d h => congrArg _ (some d h)⟩
    · rw [intEnable_write h1 h2, enableWrite_eq]
      exact ⟨fun h => congrArg _ (if_neg (by simp only [h]; decide)), fun h => congrArg _ (if_pos h)⟩
  · refine ⟨fun h off n => context_write_ignored h off n value, fun h => ?_⟩
    obtain ⟨interrupt, enable, disable, tail, head⟩ := doorbell_words h value
    obtain ⟨basesOff, basesOn⟩ := doorbell_bases h value
    obtain ⟨commit, staged⟩ := decoder_writes h value
    exact ⟨interrupt, enable, disable, basesOff, basesOn, tail, head, commit, staged⟩

end Sys2Proof.Proofs

/-! ## The frame boundary (R31, R36, R67) -/

namespace Sys2Proof.Machine

/-- Without FT_TIME, or without the reference, there is no boundary. -/
theorem frameBoundary_none {s : State} (h : s.ft.running = false ∨ s.pw.refLost = true) : frameBoundary s = s :=
  if_pos (by rcases h with h | h <;> simp [h])

/-- A boundary of a running FT_TIME in a thermal shutdown: time moves on, and the throttled frame is counted (R466). -/
theorem frameBoundary_thermalOff {s : State} (h1 : s.ft.running = true) (h2 : s.pw.refLost = false) (h3 : s.pw.thermalOff = true) :
    frameBoundary s = (advanceTime s).bump 0xD0030 1 := by
  have off : (advanceTime s).pw.thermalOff = true := h3
  rw [frameBoundary, if_neg (by simp [h1, h2])]
  exact if_pos off

/-- The actions of any other boundary, in the order of R67. -/
theorem frameBoundary_runs {s : State} (h1 : s.ft.running = true) (h2 : s.pw.refLost = false) (h3 : s.pw.thermalOff = false) :
    frameBoundary s = serviceBoundary (patternBoundary (powerBoundary (commitBoundary (timeBoundary (unpickBoundary
      (latchRegs (advanceTime s))))))) := by
  have on : ¬ (advanceTime s).pw.thermalOff = true := by rw [show (advanceTime s).pw.thermalOff = false from h3]; decide
  rw [frameBoundary, if_neg (by simp [h1, h2])]
  exact if_neg on

/-- The registers that act from a boundary on are those written. -/
theorem latchRegs_eff (s : State) : (latchRegs s).eff = (latchRegs s).regs := rfl

/-- The events of a frame are raised in its boundary, and none is left. -/
theorem serviceBoundary_merged (s : State) : (serviceBoundary s).merged = [] := rfl

end Sys2Proof.Machine

namespace Sys2Proof.Proofs
open Machine

/-- Settles O23: the branches of the boundary by `frameBoundary_none`, `frameBoundary_thermalOff` and `frameBoundary_runs`; the
renumbering and the commits by the branches of their definitions. -/
theorem frameBoundary : Obligations.FrameBoundary := by
  refine ⟨fun s => ⟨fun h => ?_, fun h1 h2 => ⟨fun h3 => ?_, fun h3 => ?_⟩⟩, fun s => ⟨fun due => ?_, fun due => ?_, fun due => ?_,
    fun c => ⟨fun bad => ?_, fun good => ?_⟩⟩⟩
  · exact congrArg Host.Outcome.next (frameBoundary_none h)
  · exact congrArg Host.Outcome.next (frameBoundary_thermalOff h1 h2 h3)
  · exact ⟨_, _, congrArg Host.Outcome.next (frameBoundary_runs h1 h2 h3), rfl, latchRegs_eff _, rfl, serviceBoundary_merged _⟩
  · exact if_neg due
  · exact if_pos due
  · exact if_neg (by simp [due])
  · exact if_pos bad
  · exact if_neg (not_not.mpr good)

end Sys2Proof.Proofs

/-! ## Start-up (R469 to R471) -/

namespace Sys2Proof.Machine

/-- A reading that no step of a fold changes. -/
theorem foldl_keeps {α β γ : Type} (g : β → γ) {f : β → α → β} (h : ∀ x a, g (f x a) = g x) (l : List α) (x : β) :
    g (l.foldl f x) = g x := by
  induction l generalizing x with
  | nil => rfl
  | cons a l ih => rw [List.foldl_cons, ih, h]

theorem foldN_keeps {β γ : Type} (g : β → γ) {f : Nat → β → β} (h : ∀ i x, g (f i x) = g x) (n : Nat) (x : β) :
    g (foldN n f x) = g x := foldl_keeps g (fun x i => h i x) _ x

theorem mget?_map_range' {α : Type} (f : Nat → α) (n a k : Nat) (h1 : a ≤ k) (h2 : k < a + n) :
    mget? ((List.range' a n).map (fun k => (k, f k))) k = some (f k) := by
  induction n generalizing a with
  | zero => omega
  | succ n ih =>
    rw [List.range'_succ, List.map_cons, mget?]
    by_cases e : k = a
    · rw [if_pos e, e]
    · rw [if_neg e, if_neg (by omega), ih (a + 1) (by omega) (by omega)]

/-- The entry of a map that lists every key below `n`. -/
theorem mget_map_range {α : Type} (d : α) (f : Nat → α) {n k : Nat} (h : k < n) :
    mget d ((List.range n).map (fun k => (k, f k))) k = f k := by
  rw [mget, List.range_eq_range', mget?_map_range' f n 0 k (by omega) (by omega)]; rfl

/-! ### The domains -/

/-- The power-up of a domain begins if it is off, and no other domain changes. -/
theorem mget?_raiseDom (s : State) (d e : Nat) :
    mget? (raiseDom s e).pw.doms d = if mget? s.pw.doms d = none ∧ d = e then some .rising else mget? s.pw.doms d := by
  rw [raiseDom, mhas]
  cases h : mget? s.pw.doms e with
  | some x =>
    rw [if_pos Option.isSome_some, if_neg]
    rintro ⟨hn, rfl⟩
    simp [hn] at h
  | none =>
    have put : (setDom s e .rising).pw.doms = mput s.pw.doms e .rising := rfl
    rw [if_neg (by rw [Option.isSome_none]; decide), put, mget?_mput']
    by_cases e' : d = e
    · rw [if_pos e', if_pos ⟨e' ▸ h, e'⟩]
    · rw [if_neg e', if_neg (fun g => e' g.2)]

theorem mget?_raiseDoms (l : List Nat) (s : State) (d : Nat) :
    mget? (l.foldl raiseDom s).pw.doms d = if mget? s.pw.doms d = none ∧ d ∈ l then some .rising else mget? s.pw.doms d := by
  induction l generalizing s with
  | nil => simp
  | cons e l ih =>
    rw [List.foldl_cons, ih, mget?_raiseDom]
    cases h : mget? s.pw.doms d with
    | some x => simp
    | none => by_cases e' : d = e <;> simp [e']

/-- Raising a domain changes the domains only. -/
theorem raiseDom_keeps {γ : Type} (g : State → γ)
    (h : ∀ (s : State) (m : AMap Dom), g (s.modPw (fun w => { w with doms := m })) = g s)
    (s : State) (d : Nat) : g (raiseDom s d) = g s := by
  unfold raiseDom
  split
  · rfl
  · exact h s (mput s.pw.doms d .rising)

/-! ### The stages -/

/-- Start-up is under way, and nothing holds it: the conditions under which a stage's result counts (R469, R470). -/
structure StartsUp (s : State) : Prop where
  hub : hubOn s = true
  held : s.pw.held = false
  ref : s.pw.refLost = false
  cool : s.pw.thermalOff = false
  first : 1 ≤ s.pw.stage
  open_ : s.pw.readyMs = 0xFFFF

/-- A result that names a cause holds start-up: each in its own stage, and the input's in any (R470). -/
theorem stageComplete_cause {s : State} (h : StartsUp s) {r : StageResult} (ms : BitVec 16)
    (hr : r = .input ∨ (r = .fwImage ∧ s.pw.stage = 2) ∨ (r = .dramTrain ∧ s.pw.stage = 3) ∨
      (r = .flashArray ∧ s.pw.stage = 4) ∨ (r = .reference ∧ s.pw.stage = 1)) :
    stageComplete s r ms = holdStart s (causeOf r) := by
  have hs : ¬ s.pw.stage = 0 := Nat.ne_of_gt h.first
  unfold stageComplete
  rw [if_neg (by simp [h.hub, h.held, h.ref, h.cool, h.open_, hs])]
  rcases hr with rfl | ⟨rfl, e⟩ | ⟨rfl, e⟩ | ⟨rfl, e⟩ | ⟨rfl, e⟩ <;> simp [*]

/-- The end of a stage is judged once its work stands. -/
theorem stageComplete_done {s : State} (h : StartsUp s) (ms : BitVec 16) :
    stageComplete s .done ms =
      if stageReady s = true then (stageFails s).elim (endStage s ms) (holdStart s) else s := by
  have hs : ¬ s.pw.stage = 0 := Nat.ne_of_gt h.first
  unfold stageComplete
  rw [if_neg (by simp [h.hub, h.held, h.ref, h.cool, h.open_, hs])]
  cases stageReady s <;> cases stageFails s <;> simp

/-- Start-up held with a cause, and FAULT# asserted (R470, R479): nothing but the pins changes beside. -/
theorem holdStart_eq (s : State) (c : Nat) :
    (holdStart s c).pw = { s.pw with held := true, cause := c } ∧ (holdStart s c).faultPin = true ∧
    holdStart s c = { s with pw := (holdStart s c).pw, faultPin := (holdStart s c).faultPin,
                             thermPin := (holdStart s c).thermPin, baySafe := (holdStart s c).baySafe } :=
  ⟨rfl, rfl, rfl⟩

/-- Each channel's capacity is loaded (R12, R372). -/
theorem loadCaps_cap (s : State) {k : Nat} (h : k < 640) :
    (mget {} (loadCaps s).chans k).cap = capOf s (claimedSlots s) k := by
  simp only [loadCaps, mget_map_range _ _ h]

/-- The end of stage 2 loads the capacities, before registers can first be read (R12). -/
theorem endStage_two_cap {s : State} (h : s.pw.stage = 2) (ms : BitVec 16) {k : Nat} (hk : k < 640) :
    (mget {} (endStage s ms).chans k).cap = capOf s (claimedSlots s) k := by
  have chans : ∀ (s : State) d, (raiseDom s d).chans = s.chans := raiseDom_keeps State.chans (fun _ _ => rfl)
  rw [endStage, h]
  simp only
  rw [foldN_keeps State.chans (fun i x => chans x _), foldN_keeps State.chans (fun i x => by split <;> simp only [chans]),
    loadCaps_cap _ hk]
  rfl

/-- The end of stage 5 begins the power-up of the domains once FT_TIME runs. -/
theorem endStage_five_eq {s : State} (h : s.pw.stage = 5) (ms : BitVec 16) :
    ∃ t : State, endStage s ms = modeDoms.foldl raiseDom t ∧ t.ft = { s.ft with running := true } ∧ t.pw.stage = 6 ∧
      t.pw.doms = s.pw.doms := by
  rw [endStage, h]
  exact ⟨_, rfl, rfl, rfl, rfl⟩

/-- The end of stage 5 lets FT_TIME run and begins the power-up of the domains that are off (R22, R469). -/
theorem endStage_five {s : State} (h : s.pw.stage = 5) (ms : BitVec 16) :
    (endStage s ms).ft = { s.ft with running := true } ∧ (endStage s ms).pw.stage = 6 ∧
    ∀ d ∈ modeDoms, mhas s.pw.doms d = false → mget .off (endStage s ms).pw.doms d = .rising := by
  obtain ⟨t, e, hft, hstage, hdoms⟩ := endStage_five_eq h ms
  rw [e, ← hft, ← hstage, ← hdoms]
  refine ⟨foldl_keeps State.ft (raiseDom_keeps State.ft (fun _ _ => rfl)) .., ?_, fun d hd hn => ?_⟩
  · exact foldl_keeps (fun s : State => s.pw.stage) (raiseDom_keeps (fun s : State => s.pw.stage) (fun _ _ => rfl)) ..
  · rw [mget, mget?_raiseDoms, if_pos ⟨by simpa [mhas] using hn, hd⟩]; rfl

end Sys2Proof.Machine

namespace Sys2Proof.Proofs
open Machine

/-- Settles O29: a result of the present stage by `stageComplete_cause` and `stageComplete_done`, the ends of the stages by
their lemmas. -/
theorem startupStages : Obligations.StartupStages := by
  intro s r ms hub held ref cool first last ready
  have up : StartsUp s := ⟨hub, held, ref, cool, first, ready⟩
  refine ⟨fun hr => ⟨_, congrArg Host.Outcome.next (stageComplete_cause up ms hr), holdStart_eq ..⟩, ?_, ?_, ?_, fun h1 => ?_,
    fun h2 k hk => endStage_two_cap h2 ms hk, fun h5 => ?_⟩
  · rintro rfl hready c hc
    obtain ⟨hpw, hpin, -⟩ := holdStart_eq s c
    refine ⟨_, congrArg Host.Outcome.next ?_, hpw, hpin⟩
    rw [stageComplete_done up, if_pos hready, hc, Option.elim_some]
  · rintro rfl hready
    refine congrArg Host.Outcome.next ?_
    rw [stageComplete_done up, if_neg (by simp [hready])]
  · rintro rfl hready hc
    refine congrArg Host.Outcome.next ?_
    rw [stageComplete_done up, if_pos hready, hc, Option.elim_none]
  · rw [endStage, h1]
    rfl
  · obtain ⟨hft, hstage, hdoms⟩ := endStage_five h5 ms
    exact ⟨hft, hstage, fun d hd _ hn => hdoms d hd hn⟩

end Sys2Proof.Proofs

/-! ## What reporting an event leaves of a port: its PTM requester

Reporting touches a port's interrupts and logs only (R334, R353). -/

namespace Sys2Proof.Machine

theorem ptm_modPort (s : State) (p q : Port) {f : PortState → PortState} (h : ∀ x, (f x).ptm = x.ptm) :
    ((s.modPort p f).port q).ptm = (s.port q).ptm := by
  rw [State.port_modPort]
  split
  · rename_i e; rw [h, e]
  · rfl

@[simp] theorem sendMsix_ptm (s : State) (f : Fn) (v : Nat) (q : Port) : ((sendMsix s f v).port q).ptm = (s.port q).ptm := by
  cases f with
  | pf p =>
    unfold sendMsix
    dsimp only
    split
    · exact ptm_modPort s p q (fun _ => rfl)
    · rfl
  | vf c =>
    unfold sendMsix
    dsimp only
    split <;> rfl

theorem sendMsix_ite_ptm (c : Prop) [Decidable c] (s : State) (f : Fn) (v : Nat) (q : Port) :
    ((if c then sendMsix s f v else s).port q).ptm = (s.port q).ptm := by
  split
  · exact sendMsix_ptm ..
  · rfl

@[simp] theorem sendMgmt_ptm (s : State) (q : Port) : ((sendMgmt s).port q).ptm = (s.port q).ptm := by
  unfold sendMgmt
  split
  · split
    · rfl
    · exact sendMsix_ptm ..
  · rfl

@[simp] theorem sendAlerts_ptm (s : State) (q : Port) : ((sendAlerts s).port q).ptm = (s.port q).ptm :=
  foldl_keeps (fun s : State => (s.port q).ptm) (fun s n => by split <;> rfl) _ s

@[simp] theorem setInt_ptm (s : State) (b i : Nat) (q : Port) : ((setInt s b i).port q).ptm = (s.port q).ptm := by
  have stored : ∀ m, (({ s with regs := m } : State).port q).ptm = (s.port q).ptm := fun _ => rfl
  unfold setInt
  dsimp only
  split
  · rfl
  · split
    · split
      · rw [sendAlerts_ptm, sendMgmt_ptm, stored]
      · rw [sendMgmt_ptm, stored]
    · exact stored _

@[simp] theorem putLine_ports (s : State) (l : Loc) (pl : Nat) (bs : List Byte) (poison hint : Bool) :
    (s.putLine l pl bs poison hint).ports = s.ports := by
  have skip : ∀ (s : State) l, (s.noteSkip l).ports = s.ports := fun s l => by
    unfold State.noteSkip
    dsimp only
    split <;> split <;> rfl
  rw [State.putLine, State.writeCells, skip, foldl_keeps State.ports (f := fun s x => s.freshCell l.line _ x) (fun _ _ => rfl)]

@[simp] theorem putOwnLine_port (s : State) (dev : Nat) (bs : List Byte) (q : Port) : (putOwnLine s dev bs).port q = s.port q := by
  unfold putOwnLine
  split
  · exact foldl_keeps (fun s : State => s.port q) (fun s fr => by simp [State.port]) _ _
  · rfl

@[simp] theorem ringEntry_ptm (s : State) (c : Ctx) (kind code status : Nat) (ws : List Word) (q : Port) :
    ((ringEntry s c kind code status ws).port q).ptm = (s.port q).ptm := by
  unfold ringEntry
  dsimp only
  rw [sendMsix_ite_ptm, State.port_modCtx, putOwnLine_port]

@[simp] theorem flushOverflow_ptm (s : State) (c : Ctx) (q : Port) : ((flushOverflow s c).port q).ptm = (s.port q).ptm := by
  unfold flushOverflow
  dsimp only
  split <;> simp

@[simp] theorem postEvent_ptm (s : State) (code : Nat) (ws : List Word) (c : Ctx) (q : Port) :
    ((postEvent s code ws c).port q).ptm = (s.port q).ptm := by
  unfold postEvent
  dsimp only
  split
  · rfl
  · split <;> simp

@[simp] theorem logRecord_ptm (s : State) (p : Port) (k : LogKind) (kind : RecordKind) (code : Nat) (ctx : BitVec 16)
    (ws : List Word) (q : Port) : ((logRecord s p k kind code ctx ws).port q).ptm = (s.port q).ptm := by
  unfold logRecord
  dsimp only
  split
  · exact ptm_modPort s p q (fun _ => rfl)
  · rw [sendMsix_ite_ptm]
    exact ptm_modPort s p q (fun _ => rfl)

/-- An event of the whole module changes no port's PTM requester. -/
@[simp] theorem raiseAll_ptm (s : State) (e : EvDef) (ws : List Word) (q : Port) :
    ((raiseAll s e ws).port q).ptm = (s.port q).ptm := by
  have posts : ∀ (cs : List Ctx) (s : State),
      ((cs.foldl (fun s c => postEvent s e.code ws c) s).port q).ptm = (s.port q).ptm :=
    foldl_keeps (fun s : State => (s.port q).ptm) (fun s c => postEvent_ptm s _ ws c q)
  have logs : ∀ (s : State) (k : LogKind), ((logAll s k .vendor e.code 0xFFFF ws).port q).ptm = (s.port q).ptm :=
    fun s k => foldl_keeps (fun s : State => (s.port q).ptm) (fun s p => logRecord_ptm s p k ..) allPorts s
  unfold raiseAll
  dsimp only
  rw [posts]
  split <;> split <;> simp only [logs, setInt_ptm]

@[simp] theorem raiseAll_ft (s : State) (e : EvDef) (ws : List Word) : (raiseAll s e ws).ft = s.ft := by
  rw [show raiseAll s e ws = _ from raiseAll_reported s e ws]

end Sys2Proof.Machine

/-! ## PTM dialogs (R28, R29) -/

namespace Sys2Proof.Machine

theorem port_modPtm_self (s : State) (p : Port) (f : PtmPort → PtmPort) :
    (s.modPtm p f).port p = { s.port p with ptm := f (s.port p).ptm } := State.port_modPort_self ..

theorem port_modPtm_other (s : State) {p q : Port} (f : PtmPort → PtmPort) (h : q ≠ p) : (s.modPtm p f).port q = s.port q :=
  (State.port_modPort ..).trans (if_neg h)

theorem ctrlEn_eq (c : DWord) : ctrlEn c = c.getLsbD 0 := bit_eq_testBit ..

/-- A dialog that begins takes FT_CTRL, and PTM_EN decides whether it runs. -/
theorem dialogStart_eq {s : State} {p : Port} (up : (s.port p).up = true) (en : (s.port p).ptmEnable = true)
    (run : s.ft.running = true) (idle : (s.port p).ptm.active = false) :
    let c : DWord := BitVec.ofNat 64 (s.reg 0x20000)
    let u := s.modPtm p (fun y => { y with ctrl := c })
    dialogStart s p = if c.getLsbD 0 = true
      then onSourceLost ((u.modPtm p (fun y => { y with active := true })).emit (.ptmRequest p))
      else losePtm u p := by
  rw [dialogStart, if_neg (by simp [up, en, run, idle])]
  simp only [ctrlEn_eq]

/-- The state in which a dialog's request has left: only the port's requester and what the module sends differ. -/
theorem dialog_requested (s : State) (p : Port) (c : DWord) :
    let u := ((s.modPtm p (fun y => { y with ctrl := c })).modPtm p (fun y => { y with active := true })).emit (.ptmRequest p)
    u = { s with ports := u.ports, out := s.out ++ [.ptmRequest p] } ∧
    u.port p = { s.port p with ptm := { (s.port p).ptm with ctrl := c, active := true } } ∧
    ∀ q, q ≠ p → u.port q = s.port q := by
  refine ⟨rfl, ?_, fun q hq => ?_⟩
  · rw [State.port_emit, port_modPtm_self, port_modPtm_self]
  · rw [State.port_emit, port_modPtm_other _ _ hq, port_modPtm_other _ _ hq]

/-- A dialog that times out counts as not valid. -/
theorem dialogTimeout_eq {s : State} {p : Port} (h : (s.port p).ptm.active = true) :
    dialogTimeout s p = s.modPtm p (fun x => { x with active := false, invalid := x.invalid + 1 }) := if_pos h

/-- A source that is not lost leaves everything as it is. -/
theorem onSourceLost_not {s : State} (h : sourceLost s = false) : onSourceLost s = s := if_pos (by rw [h]; rfl)

/-- The anchoring state once the source is lost (R33). -/
def anchorLost (a : Anchor) : Anchor :=
  match a with
  | .acquiring => .unanchored
  | .anchored => .holdover
  | .reacquiring => .holdover
  | a => a

/-- What the loss of the source makes of the fabric time. -/
theorem onSourceLost_ft {s : State} (h : sourceLost s = true) : (onSourceLost s).ft = { s.ft with
    anchor := anchorLost s.ft.anchor
    qualify := if s.ft.anchor = .acquiring ∨ s.ft.anchor = .anchored ∨ s.ft.anchor = .reacquiring then 0 else s.ft.qualify } := by
  unfold onSourceLost
  rw [if_neg (by simp [h])]
  cases e : s.ft.anchor with
  | acquiring | anchored | reacquiring => simp [anchorLost, timeEvent]
  | unanchored | holdover | expired =>
    simp only [anchorLost, reduceCtorEq, or_self, if_false]
    rw [← e]

/-- The source keeps its place in a dialog of its own. -/
theorem chooseSource_source {s : State} {p : Port} (h : s.ft.source = p) : chooseSource s p = s := by
  have same : setSource s p = s := if_pos h
  unfold chooseSource
  simp only [same, ite_self]

/-- A valid source keeps its place in a dialog of a port that FT_CTRL does not name. -/
theorem chooseSource_other {s : State} {p : Port} (hc : ctrlSource (s.port p).ptm.ctrl ≠ p.val)
    (hv : ptmValid s s.ft.source = true) : chooseSource s p = s := by
  unfold chooseSource
  simp only [hv]
  rw [if_neg hc]
  rfl

/-- A response in time measures the port's offset, and the source's dialog sets FT_TIME's. -/
theorem dialogResponse_eq {s : State} {p : Port} (act : (s.port p).ptm.active = true) (up : (s.port p).up = true)
    (master : DWord) (sub : BitVec 10) :
    let d := (master - s.ft.time - sub.setWidth 64).toInt
    let u := chooseSource (s.modPtm p (fun x => { x with active := false, invalid := 0, valid := true, offset := d })) p
    dialogResponse s p master sub = if u.ft.source = p then sourceDialog u d else u := by
  rw [dialogResponse, if_neg (by simp [act, up])]

/-! ## Steering and anchoring (R30 to R33) -/

/-- The anchoring state after a valid dialog of the source, `f` its frames part and `q` the dialogs in a row that qualify (R33). -/
def anchorAfter (a : Anchor) (f : Int) (q : Nat) : Anchor :=
  match a with
  | .unanchored => .acquiring
  | .expired => .acquiring
  | .holdover => .reacquiring
  | .acquiring => if 3 ≤ q then .anchored else .acquiring
  | .reacquiring => if 3 ≤ q then .anchored else .reacquiring
  | .anchored => if f = 0 then .anchored else .reacquiring

/-- What a correction sets (R30 to R32). -/
theorem correct_ft (s : State) (d : Int) (report : Bool) :
    ∃ rate step, -100000 ≤ rate ∧ rate ≤ 100000 ∧ (correct s d report).ft = { s.ft with
      offset := d, renumber := (d + 512) / 1024, reportStep := step, restTenth := (d - (d + 512) / 1024 * 1024) * 10000,
      lastRest := d - (d + 512) / 1024 * 1024, rate := rate } :=
  ⟨_, _, by omega, by omega, rfl⟩

/-- A valid dialog of the source corrects FT_TIME and moves the anchoring state; of the ports' PTM it changes nothing. -/
theorem sourceDialog_sets (s : State) {d f r : Int} {q : Nat} (hd : splitOffset d = (f, r))
    (hq : (if f = 0 ∧ -20 ≤ r ∧ r ≤ 20 then s.ft.qualify + 1 else 0) = q) :
    ∃ report n h, (sourceDialog s d).ft =
        { (correct s d report).ft with anchor := anchorAfter s.ft.anchor f q, qualify := n, holdover := h } ∧
      ∀ p, ((sourceDialog s d).port p).ptm = (s.port p).ptm := by
  have ptm : ∀ p, ((correct s d (s.ft.anchor != .unanchored)).port p).ptm = (s.port p).ptm := fun _ => rfl
  have anchor : (correct s d (s.ft.anchor != .unanchored)).ft.anchor = s.ft.anchor := rfl
  refine ⟨s.ft.anchor != .unanchored, ?_⟩
  simp only [sourceDialog, hd, Bool.and_eq_true, beq_iff_eq, decide_eq_true_eq, and_assoc, hq]
  generalize correct s d (s.ft.anchor != .unanchored) = c at ptm anchor ⊢
  cases e : s.ft.anchor with
  | unanchored | expired | holdover => exact ⟨_, _, rfl, ptm⟩
  | acquiring | reacquiring =>
    rw [e] at anchor
    simp only [anchorAfter]
    by_cases h : 3 ≤ q
    · simp only [h, if_true]
      exact ⟨_, _, raiseAll_ft .., fun p => (raiseAll_ptm ..).trans (ptm p)⟩
    · simp only [h, if_false, ← anchor]
      exact ⟨_, _, rfl, ptm⟩
  | anchored =>
    rw [e] at anchor
    simp only [anchorAfter]
    by_cases h : f = 0
    · simp only [h, if_true, ← anchor]
      exact ⟨_, _, rfl, ptm⟩
    · simp only [h, if_false]
      exact ⟨_, _, rfl, ptm⟩

end Sys2Proof.Machine

namespace Sys2Proof.Machine

/-- A response on a port that is not the source measures that port's offset, and does nothing else (R28). -/
theorem dialogResponse_other {s : State} {p : Port} (act : (s.port p).ptm.active = true) (up : (s.port p).up = true)
    (hs : s.ft.source ≠ p) (hv : ptmValid s s.ft.source = true) (hc : ctrlSource (s.port p).ptm.ctrl ≠ p.val)
    (master : DWord) (sub : BitVec 10) :
    dialogResponse s p master sub = s.modPtm p (fun x => { x with
      active := false, invalid := 0, valid := true, offset := (master - s.ft.time - sub.setWidth 64).toInt }) := by
  rw [dialogResponse_eq act up, chooseSource_other]
  · exact if_neg hs
  · rw [port_modPtm_self]; exact hc
  · have same := port_modPtm_other s (fun x => { x with
      active := false, invalid := 0, valid := true, offset := (master - s.ft.time - sub.setWidth 64).toInt }) hs
    exact (congrArg (·.ptm.valid) same).trans hv

/-- A response on the source's port: what becomes of FT_TIME's offset, of the anchoring state and of the port (R28 to R33). -/
theorem dialogResponse_source {s : State} {p : Port} (act : (s.port p).ptm.active = true) (up : (s.port p).up = true)
    (hs : s.ft.source = p) (master : DWord) (sub : BitVec 10) :
    let d := (master - s.ft.time - sub.setWidth 64).toInt
    let f := (d + 512) / 1024
    let r := d - f * 1024
    let q := if f = 0 ∧ -20 ≤ r ∧ r ≤ 20 then s.ft.qualify + 1 else 0
    let t := dialogResponse s p master sub
    t.ft.offset = d ∧ t.ft.renumber = f ∧ t.ft.restTenth = r * 10000 ∧ -100000 ≤ t.ft.rate ∧ t.ft.rate ≤ 100000 ∧
    t.ft.time = s.ft.time ∧ t.ft.source = p ∧ t.ft.anchor = anchorAfter s.ft.anchor f q ∧
    (t.port p).ptm.active = false ∧ (t.port p).ptm.valid = true ∧ (t.port p).ptm.invalid = 0 ∧ (t.port p).ptm.offset = d := by
  intro d f r q t
  let u := s.modPtm p (fun x => { x with active := false, invalid := 0, valid := true, offset := d })
  have ht : t = sourceDialog u d := by
    refine (dialogResponse_eq act up master sub).trans ?_
    rw [chooseSource_source (s := s.modPtm p _) hs]
    exact if_pos hs
  obtain ⟨report, n, h, hft, hptm⟩ := sourceDialog_sets u (d := d) (f := f) (r := r) (q := q) rfl rfl
  obtain ⟨rate, step, lo, hi, hc⟩ := correct_ft u d report
  have port : (t.port p).ptm = { (s.port p).ptm with active := false, invalid := 0, valid := true, offset := d } := by
    rw [ht, hptm, port_modPtm_self]
  rw [port, ht, hft, hc]
  exact ⟨rfl, rfl, rfl, lo, hi, rfl, hs, rfl, rfl, rfl, rfl, rfl⟩

/-- The holdover timer at its limit, or above one written since (R33, R69). -/
theorem holdoverExpired_eq (s : State) :
    exec .holdoverExpired s = .next (if s.ft.anchor = .holdover then
      raiseAll { s with ft := { s.ft with
        anchor := .expired, qualify := 0, holdover := max s.ft.holdover (s.fieldOf 0x20020 0 11 * 1000000) } } evTimeExpired
          (w1 (s.fieldOf 0x20020 0 11) ++ w2 (s.ft.time.toNat / 1024))
      else s) := by
  simp only [exec_holdoverExpired, execHoldoverExpired, ifApplies, beq_iff_eq]
  rfl

/-- PTM that LOSS_COUNT dialogs in a row were not valid of is lost (R29). -/
theorem ptmLost_eq {s : State} {p : Port} (hv : (s.port p).ptm.valid = true)
    (hl : ctrlLoss (s.port p).ptm.ctrl ≤ (s.port p).ptm.invalid) : exec (.ptmLost p) s = .next (losePtm s p) :=
  congrArg Host.Outcome.next (if_pos (by simp [hv, hl]))

end Sys2Proof.Machine

namespace Sys2Proof.Proofs
open Machine

/-- Settles O22: the dialogs by `dialogStart_eq` and `dialogResponse_other`, the source's by `dialogResponse_source`, and
the loss of the source by `onSourceLost_ft`. -/
theorem timeDialogs : Obligations.TimeDialogs := by
  refine ⟨fun s p => ⟨fun up en run idle => ⟨fun hc => ?_, fun hc => ?_⟩, fun act => ?_, ptmLost_eq, rfl, rfl,
    onSourceLost_not, onSourceLost_not, onSourceLost_ft, fun master sub act up hs hv hc => ?_⟩,
    fun s p master sub act up hs => ?_, fun s => ⟨fun h => ?_, fun h => ?_⟩⟩
  · exact ⟨_, congrArg Host.Outcome.next ((dialogStart_eq up en run idle).trans (if_pos hc)), dialog_requested s p _⟩
  · exact congrArg Host.Outcome.next ((dialogStart_eq up en run idle).trans (if_neg (by rw [hc]; decide)))
  · exact ⟨_, congrArg Host.Outcome.next (dialogTimeout_eq act), rfl, port_modPtm_self ..,
      fun q hq => port_modPtm_other _ _ hq⟩
  · exact congrArg Host.Outcome.next (dialogResponse_other act up hs hv hc master sub)
  · exact ⟨_, rfl, dialogResponse_source act up hs master sub⟩
  · exact ⟨_, (holdoverExpired_eq s).trans (congrArg _ (if_pos h)), by rw [raiseAll_ft], rfl⟩
  · exact (holdoverExpired_eq s).trans (congrArg _ (if_neg h))

end Sys2Proof.Proofs

/-! ## A package reset that reports FLASH_LOW afresh (R155, R424)

The journalled tables lose their superseded versions while TR_FLASH_LOW still holds what software wrote; only then does the
threshold return to its reset value. Between the two the free units can lie above the one threshold and below the other, so
that a condition reported before the reset ends, and is reported again in the registers that the reset has just cleared. -/

namespace Sys2Proof.Machine

/-- Flash is full, and FLASH_LOW stands with a threshold of 0. The one object has published version 1, which shares page 1 of
the superseded version and has replaced page 0. Page 1 stands for all the rest of flash. -/
def fullFlash : State where
  regs := [(0x30018, 0)]
  flashLow := true
  unitsUsed := unitsCap
  objects := [(0, { base := 0, pages := 2, cls := .warm, layout := .interleaved, owner := 0, head := 0, newHead := some 1,
                    versioned := true })]
  contents := [(0, { obj := 0 }), (1, { obj := 0, version := 1, base := some 0, own := [0] })]
  nextContent := 2
  pages := [(pageKey 0 0, { st := .home, home := some { units := 1 } }),
            (pageKey 0 1, { st := .home, home := some { units := unitsCap - 2 } }),
            (pageKey 1 0, { st := .home, home := some { units := 1 } })]

theorem fullFlash_resetRefused : resetRefused fullFlash = false := by decide +kernel

/-- Retirement ends the condition; after the reset FLASH_LOW stands as before, but EV_FLASH_LOW has set its bit of the tiering
block's INT_STATUS. -/
theorem fullFlash_reset_reportsAgain :
    (keepTables fullFlash).flashLow = false ∧
    (doPackageReset fullFlash 0 1).flashLow = true ∧
    (doPackageReset fullFlash 0 1).regs = [(intStatusOff evFlashLow.block, 0x20)] := by decide +kernel

end Sys2Proof.Machine

namespace Sys2Proof.Proofs
open Machine

/-- Refutes O27: PACKAGE_RESET of `fullFlash` leaves FLASH_LOW as it stood, yet the registers are not empty. Retiring the
superseded page frees a unit, which lifts the free units above the written threshold of 0 and ends the condition; the reset
value of the threshold, 205,078,125, then lies above them, and EV_FLASH_LOW is raised again. -/
theorem not_pinsAndDomains : ¬ Obligations.PinsAndDomains := by
  rintro ⟨-, resets⟩
  obtain ⟨-, -, -, -, -, reset, -⟩ := resets fullFlash
  obtain ⟨t, -, rfl, -, -, -, -, -, -, -, cleared, -⟩ := reset fullFlash_resetRefused
  obtain ⟨-, low, regs⟩ := fullFlash_reset_reportsAgain
  obtain ⟨-, empty⟩ := cleared low
  exact List.cons_ne_nil _ _ (regs.symm.trans empty)

end Sys2Proof.Proofs

/-! ## What reset leaves (R33, R62, R424, R459, R469) -/

namespace Sys2Proof.Machine

/-- A register that nothing has written reads its reset value (R12). -/
theorem State.reg_unwritten {s : State} (h : s.regs = []) {off : Nat} {d : RegDesc} (hd : regAt off = some d) (ix : Nat) :
    s.reg off ix = regReset d ix := by
  simp only [State.reg, regIn, h, mget?, hd]

end Sys2Proof.Machine

namespace Sys2Proof.Proofs
open Machine

/-- Settles O58: every part of the state stands at its initial value, and a register that nothing has written reads its reset
value (`State.reg_unwritten`). -/
theorem resetValues : Obligations.ResetValues := by
  refine ⟨rfl, rfl, rfl, rfl, rfl, rfl, fun _ => rfl, rfl, rfl, rfl, rfl, rfl, rfl, rfl, rfl, rfl, rfl, rfl, rfl, rfl, fun _ => rfl,
    fun _ => rfl, fun _ ix _ hd => ?_⟩
  exact State.reg_unwritten rfl hd ix

end Sys2Proof.Proofs

/-! ## Identity, roles, mode changes and the ledger: what the handlers do (R331, R337, R347, R373, R380, R402, R460) -/

namespace Sys2Proof.Machine

/-- An accepted command whose handler waits has no answer yet. -/
theorem mci_waits {s : State} {via : Path} {op : Nat} {input : List Byte} {a : State} {m : MciCall}
    (h : Accepted s via op input a m) {hd : Handler} {b : State} (e : hd a m = (b, .waits)) :
    mci s via op input hd = b := by
  rw [mci_of_accepted h, e, finish]

/-- The step of an accepted command whose handler is done. -/
theorem next_mci_done {s : State} {via : Path} {op : Nat} {input : List Byte} {a : State} {m : MciCall}
    (h : Accepted s via op input a m) {hd : Handler} {b : State} {st : Nat} {out : List Byte} (e : hd a m = (b, .done st out)) :
    Host.Outcome.next (mci s via op input hd) = (.next (answer b via m.tag op st out) : Out) :=
  congrArg Host.Outcome.next (mci_done h e)

@[simp] theorem length_leBytes (n x : Nat) : (leBytes n x).length = n := by
  induction n generalizing x with
  | zero => rfl
  | succ n ih => rw [leBytes, List.length_cons, ih]

/-! ### MCI_IDENTIFY -/

theorem identify_eq (a : State) (m : MciCall) : ∃ out, identify a m = (a, .done 0 out) ∧
    out.length = 20 ∧ out.take 2 = [0xB1, 0] ∧ out.drop 12 = leBytes 8 Config.serial.toNat := by
  refine ⟨_, rfl, by simp, rfl, ?_⟩
  rw [List.drop_append_of_le_length (by simp)]
  simp

/-! ### CTX_SELECT -/

theorem selectCtx_mailbox {a : State} {m : MciCall} {p : Port} {b : Bool} (hv : m.via = .mailbox p b) :
    (m.owner = false → m.f 0 2 / 64 ≠ p.val → selectCtx a m = (a, .done 0x11 [])) ∧
    (m.owner = true ∨ m.f 0 2 / 64 = p.val →
      (512 ≤ m.f 0 2 → selectCtx a m = (a, .done 0x12 [])) ∧
      (m.f 0 2 < 512 → selectCtx a m =
        (a.modMbox p b (fun x => { x with ctx := some (toCtx (m.f 0 2)) }), .done 0 []))) := by
  unfold selectCtx
  rw [hv]
  refine ⟨fun ho hp => if_pos (by simp [ho, hp]), fun h => ?_⟩
  have may : ¬ (!m.owner && m.f 0 2 / 64 != p.val) = true := by rcases h with h | h <;> simp [h]
  dsimp only
  rw [if_neg may]
  exact ⟨fun hn => if_pos hn, fun hn => if_neg (Nat.not_le.mpr hn)⟩

theorem selectCtx_sideband {a : State} {m : MciCall} {k : Fin 2} (hv : m.via = .sideband k) :
    (512 ≤ m.f 0 2 → selectCtx a m = (a, .done 0x12 [])) ∧
    (m.f 0 2 < 512 → selectCtx a m = ({ a with sbCtx := mput a.sbCtx k.val (m.f 0 2) }, .done 0 [])) := by
  unfold selectCtx
  rw [hv]
  exact ⟨fun hn => if_pos hn, fun hn => if_neg (Nat.not_le.mpr hn)⟩

/-! ### PORT_ROLE_SET -/

/-- The current contexts of the port's mailboxes are forgotten (R380). -/
def PortState.forgetCtxs (x : PortState) : PortState :=
  { x with mbox0 := { x.mbox0 with ctx := none }, mbox1 := { x.mbox1 with ctx := none } }

/-- A change of every port of a list without repeats, port by port. -/
theorem port_foldl_modPort (f : PortState → PortState) (l : List Port) (hl : l.Nodup) (s : State) (q : Port) :
    (l.foldl (fun s p => s.modPort p f) s).port q = if q ∈ l then f (s.port q) else s.port q := by
  induction l generalizing s with
  | nil => simp
  | cons p l ih =>
    obtain ⟨hp, hl⟩ := List.nodup_cons.mp hl
    rw [List.foldl_cons, ih hl, State.port_modPort]
    by_cases e : q = p
    · subst e; simp [hp]
    · simp [e]

theorem mem_allPorts (p : Port) : p ∈ allPorts := List.mem_finRange p

theorem foldl_modPort_outside (f : PortState → PortState) (l : List Port) (s : State) :
    l.foldl (fun s p => s.modPort p f) s = { s with ports := (l.foldl (fun s p => s.modPort p f) s).ports } := by
  induction l generalizing s with
  | nil => rfl
  | cons p l ih => rw [List.foldl_cons, ih]; rfl

theorem setRole_range {a : State} {m : MciCall} (h : 8 ≤ m.f 0 1) (h' : m.f 0 1 ≠ 0xFF) : setRole a m = (a, .done 0x12 []) :=
  if_pos (by simp [h, h'])

/-- The owner port changes when another port is named, and then every mailbox loses its current context. -/
theorem setRole_port {a : State} {m : MciCall} {p : Port} (h : m.f 0 1 = p.val) :
    setRole a m = if some p = a.owner then (a, .done 0 []) else
      (allPorts.foldl (fun s p => s.modPort p PortState.forgetCtxs) { a with owner := some p }, .done 0 []) := by
  have lt := p.isLt
  have port : (Fin.ofNat 8 p.val : Port) = p := Fin.ext (Nat.mod_eq_of_lt lt)
  unfold setRole
  dsimp only
  rw [h, if_neg (by simp), port, if_neg (show p.val ≠ 255 by omega)]
  rfl

theorem forgetCtxs_all (a : State) (o : Option Port) :
    let t := allPorts.foldl (fun s p => s.modPort p PortState.forgetCtxs) { a with owner := o }
    t = { a with owner := o, ports := t.ports } ∧ ∀ q : Port, (t.port q).mbox0.ctx = none ∧ (t.port q).mbox1.ctx = none ∧
      (t.port q).up = (a.port q).up ∧ (t.port q).mbox0.bg = (a.port q).mbox0.bg := by
  refine ⟨foldl_modPort_outside .., fun q => ?_⟩
  rw [port_foldl_modPort _ allPorts (List.nodup_finRange 8), if_pos (mem_allPorts q)]
  exact ⟨rfl, rfl, rfl, rfl⟩

/-! ### SWAP_GRANT and SRCID_SET -/

theorem swapGrantSet_eq (a : State) (m : MciCall) :
    (512 ≤ m.f 0 2 → swapGrantSet a m = (a, .done 0x12 [])) ∧
    (m.f 0 2 < 512 → ctxEnabled a (toCtx (m.f 0 2)) = false → swapGrantSet a m = (a, .done 0x14 [])) ∧
    (m.f 0 2 < 512 → ctxEnabled a (toCtx (m.f 0 2)) = true → swapGrantSet a m =
      (a.modCtx (toCtx (m.f 0 2)) (fun x => { x with swapGrant := m.f 2 1 == 1 }), .done 0 [])) := by
  refine ⟨fun h => if_pos h, fun h he => ?_, fun h he => ?_⟩
  · exact (if_neg (Nat.not_le.mpr h)).trans (if_pos (by simp [he]))
  · exact (if_neg (Nat.not_le.mpr h)).trans (if_neg (by simp [he]))

/-- The entry of the identity table that a word of SRCID_SET spells (R337). -/
def srcEntryOf (e : Nat) : SrcEntry := { valid := bit e 12, ctx := toCtx (bits e 13 9), mask := BitVec.ofNat 8 (bits e 22 8) }

theorem bits_low (e n : Nat) : bits e 0 n = e % 2 ^ n := by rw [bits, Nat.pow_zero, Nat.div_one]

theorem setSources_eq (a : State) (m : MciCall) :
    let es := (List.range (m.f 0 2)).map (fun i => m.f (4 + 4 * i) 4)
    ((∃ e ∈ es, e % 4096 = 0) → setSources a m = (a, .done 0x12 [])) ∧
    ((∀ e ∈ es, e % 4096 ≠ 0) → setSources a m =
      ({ a with srcStaged := es.foldl (fun t e => mput t (e % 4096) (srcEntryOf e)) a.srcStaged, srcDue := true }, .done 0 [])) := by
  intro es
  have zero : es.any (fun e => bits e 0 12 == 0) = true ↔ ∃ e ∈ es, e % 4096 = 0 := by
    simp only [List.any_eq_true, beq_iff_eq, bits_low]
    rfl
  refine ⟨fun h => if_pos (zero.mpr h), fun h => (if_neg fun z => ?_).trans ?_⟩
  · obtain ⟨e, he, h0⟩ := zero.mp z
    exact h e he h0
  · simp only [bits_low]
    rfl

/-! ### MODE_SET and MODE_QUERY -/

theorem modeSetH_refused {a : State} {m : MciCall} {st : Nat} (h : modeChecks a (m.f 0 1) = st) (hst : st ≠ 0) :
    modeSetH a m = (a, .done st []) := by
  subst h
  exact if_pos hst

theorem modeSetH_accepted {a : State} {m : MciCall} (h : modeChecks a (m.f 0 1) = 0) :
    modeSetH a m = (a.modPw (fun w => { w with job := some {
      mode := m.f 0 1, frame := max (startOf (m.f 8 8)) (frameNo a + 1), notch := m.f 8 8,
      setChange := modeSet (m.f 0 1) != modeSet a.pw.mode, old := a.pw.mode, waiter := some (m.via, m.tag) } }), .waits) :=
  if_neg (not_not.mpr h)

theorem modeChecks_unanchored {a : State} (n : Nat) (h : cuesAccepted a = false) : modeChecks a n = 0x19 :=
  if_pos (by simp [h])

theorem modeChecks_busy {a : State} (n : Nat) (h : cuesAccepted a = true) (hj : a.pw.job ≠ none) : modeChecks a n = 0x13 :=
  (if_neg (by simp [h])).trans (if_pos (Option.isSome_iff_ne_none.mpr hj))

theorem modeChecks_timingSet {a : State} {n : Nat} (h : cuesAccepted a = true) (hj : a.pw.job = none)
    (hn : modeSet n ≠ modeSet a.pw.mode) (hp : ∃ x ∈ a.patterns, x.2.tset = modeSet a.pw.mode) : modeChecks a n = 0x20 := by
  have compiled : a.patterns.any (fun p => p.2.tset == modeSet a.pw.mode) = true := by simpa using hp
  unfold modeChecks
  dsimp only
  rw [if_neg (by simp [h]), if_neg (by simp [hj]), if_pos (by simp [hn, compiled])]

/-- Nothing that a mode can rule out stands. -/
theorem modeChecks_ok {a : State} {n : Nat} (h : cuesAccepted a = true) (hj : a.pw.job = none)
    (hp : modeSet n = modeSet a.pw.mode ∨ a.patterns = []) (hc : a.cues = []) (hb : a.bindings = []) : modeChecks a n = 0 := by
  have set : ¬ (modeSet n ≠ modeSet a.pw.mode && a.patterns.any (fun p => p.2.tset == modeSet a.pw.mode)) = true := by
    rcases hp with hp | hp <;> simp [hp]
  have mask : maskExcludes a n = false := by rw [maskExcludes, hc]; rfl
  have upper : upperHeld a = false := by rw [upperHeld, hb]; rfl
  unfold modeChecks
  dsimp only
  rw [if_neg (by simp [h]), if_neg (by simp [hj]), if_neg set, if_neg (by simp [mask]), if_neg (by simp [upper, hb])]
  rfl

theorem modeQueryH_job {a : State} (m : MciCall) {j : ModeJob} (h : a.pw.job = some j) : modeQueryH a m =
    (a, .done 0 (leBytes 1 a.pw.mode ++ leBytes 1 j.mode ++ [0, 0] ++ leBytes 8 j.notch)) := by
  simp only [modeQueryH, h]; rfl

theorem modeQueryH_none {a : State} (m : MciCall) (h : a.pw.job = none) : ∃ out, modeQueryH a m = (a.tick, .done 0 out) ∧
    out.length = 12 ∧ out.take 4 = leBytes 1 a.pw.mode ++ [0xFF, 0, 0] := by
  simp only [modeQueryH, h]
  exact ⟨_, rfl, by simp, rfl⟩

/-! ### LEDGER_SET and LEDGER_QUERY -/

theorem ledgerSetH_tooMany {a : State} {m : MciCall} (h : 64 < (ledgerEntries m).length) :
    ledgerSetH a m = (a, .done 0x84 []) := if_pos h

theorem ledgerSetH_eq {a : State} {m : MciCall} (hl : (ledgerEntries m).length ≤ 64) :
    ((∃ e ∈ ledgerEntries m, 14 < e.master ∨ 3 < e.cls ∨ e.value = 0 ∨ 168 < e.value) → ledgerSetH a m = (a, .done 0x12 [])) ∧
    ((∀ e ∈ ledgerEntries m, e.master ≤ 14 ∧ e.cls ≤ 3 ∧ e.value ≠ 0 ∧ e.value ≤ 168) →
      ((∃ k, k < 640 ∧ capOf a (claimedSlots a) k < covering (ledgerEntries m) (k / 32)) → ledgerSetH a m = (a, .done 0x83 [])) ∧
      ((∀ k, k < 640 → covering (ledgerEntries m) (k / 32) ≤ capOf a (claimedSlots a) k) →
        ledgerSetH a m = ({ a with ledgerNext := some (ledgerEntries m) }, .done 0 []))) := by
  unfold ledgerSetH
  dsimp only
  rw [if_neg (Nat.not_lt.mpr hl)]
  refine ⟨fun h => if_pos ?_, fun h => ?_⟩
  · simpa [or_assoc] using h
  · rw [if_neg (by simpa [or_assoc, and_assoc] using h)]
    refine ⟨fun hk => if_pos ?_, fun hk => if_neg ?_⟩
    · simpa using hk
    · simpa using hk

/-- What LEDGER_QUERY says of a place of the ledger. -/
def ledgerRow (a : State) (i : Nat) : List Byte :=
  match a.ledger[i]? with
  | some e => leBytes 1 e.master ++ leBytes 1 e.cls ++ leBytes 1 e.value ++ leBytes 1 (effMin a i e) ++ leBytes 4 e.clusters.toNat
  | none => []

theorem length_ledgerRow {a : State} {i : Nat} (h : i < a.ledger.length) : (ledgerRow a i).length = 8 := by
  rw [ledgerRow, List.getElem?_eq_getElem h]
  simp

theorem ledgerQueryH_eq (a : State) (m : MciCall) : ∃ out, ledgerQueryH a m = (a, .done 0 out) ∧
    out.take 4 = leBytes 4 a.ledger.length ∧ out.length = 4 + 8 * a.ledger.length := by
  refine ⟨_, rfl, List.take_left' (length_leBytes ..), ?_⟩
  have row : ∀ n ∈ (List.range a.ledger.length).map (fun i => (ledgerRow a i).length), n = 8 := by
    intro n hn
    obtain ⟨i, hi, rfl⟩ := List.mem_map.mp hn
    exact length_ledgerRow (List.mem_range.mp hi)
  have rows := List.sum_eq_card_nsmul _ _ row
  rw [List.length_map, List.length_range, smul_eq_mul, Nat.mul_comm] at rows
  rw [List.length_append, length_leBytes, List.length_flatMap]
  exact congrArg (4 + ·) rows

end Sys2Proof.Machine

namespace Sys2Proof.Proofs
open Machine

/-- Settles O54: each command is what its handler does (`next_mci_done`, and `mci_waits` for the accepted MODE_SET). -/
theorem roleModeLedgerCommands : Obligations.RoleModeLedgerCommands := by
  refine fun s via input a m => ⟨fun h => ?identify, fun h => ?ctxSelect, fun h => ?portRole, fun h => ?swapGrant, fun h => ?srcid,
    fun h => ?modeSet, fun h => ?modeQuery, fun h => ?ledgerSet, fun h => ?ledgerQuery⟩
  case identify =>
    obtain ⟨out, e, bytes⟩ := identify_eq a m
    exact ⟨out, next_mci_done h e, bytes⟩
  case ctxSelect =>
    obtain ⟨-, hv, -, -⟩ := accepted_call h
    refine ⟨fun big => ⟨fun k e => ?_, fun p b e => ?_⟩, fun small => ⟨fun p b e => ?_, fun k e => ?_⟩⟩ <;> rw [e] at hv
    · exact next_mci_done h ((selectCtx_sideband hv).1 big)
    · obtain ⟨other, own⟩ := selectCtx_mailbox (a := a) hv
      cases ho : m.owner with
      | false => exact next_mci_done h (other ho (by omega))
      | true => exact next_mci_done h ((own (.inl ho)).1 big)
    · obtain ⟨other, own⟩ := selectCtx_mailbox (a := a) hv
      exact ⟨fun ho hp => next_mci_done h (other ho hp), fun may => next_mci_done h ((own may).2 small)⟩
    · exact next_mci_done h ((selectCtx_sideband hv).2 small)
  case portRole =>
    refine ⟨fun h1 h2 => ?_, fun p hp ho => ?_, fun p hp ho => ⟨_, ?_, forgetCtxs_all a (some p)⟩⟩
    · exact next_mci_done h (setRole_range h1 h2)
    · exact next_mci_done h ((setRole_port hp).trans (if_pos ho.symm))
    · exact next_mci_done h ((setRole_port hp).trans (if_neg (Ne.symm ho)))
  case swapGrant =>
    obtain ⟨range, off, on⟩ := swapGrantSet_eq a m
    exact ⟨fun h1 => next_mci_done h (range h1), fun h1 h2 => next_mci_done h (off h1 h2), fun h1 h2 => next_mci_done h (on h1 h2)⟩
  case srcid =>
    obtain ⟨zero, staged⟩ := setSources_eq a m
    refine ⟨fun hz => next_mci_done h (zero hz), fun hn => ⟨_, next_mci_done h (staged hn), rfl, fun he => ?_, fun e he => ?_⟩⟩
    · rw [he]; rfl
    · rw [he]; rfl
  case modeSet =>
    refine ⟨fun hc => ?_, fun hc hj => ?_, fun hc hj hn hp => ?_, fun hc hj hp hq hb => ?_⟩
    · exact next_mci_done h (modeSetH_refused (modeChecks_unanchored _ hc) (by decide))
    · exact next_mci_done h (modeSetH_refused (modeChecks_busy _ hc hj) (by decide))
    · exact next_mci_done h (modeSetH_refused (modeChecks_timingSet hc hj hn hp) (by decide))
    · exact congrArg Host.Outcome.next (mci_waits h (modeSetH_accepted (modeChecks_ok hc hj hp hq hb)))
  case modeQuery =>
    refine ⟨fun j hj => next_mci_done h (modeQueryH_job m hj), fun hj => ?_⟩
    obtain ⟨out, e, bytes⟩ := modeQueryH_none m hj
    exact ⟨out, next_mci_done h e, bytes⟩
  case ledgerSet =>
    refine ⟨fun many => next_mci_done h (ledgerSetH_tooMany many), fun few bad => next_mci_done h ((ledgerSetH_eq few).1 bad),
      fun few good => ?_⟩
    obtain ⟨short, fits⟩ := (ledgerSetH_eq few).2 good
    exact ⟨fun hk => next_mci_done h (short hk), fun hk => next_mci_done h (fits hk)⟩
  case ledgerQuery =>
    obtain ⟨out, e, bytes⟩ := ledgerQueryH_eq a m
    exact ⟨out, next_mci_done h e, bytes⟩

end Sys2Proof.Proofs

/-! ## The timers of host waits (R59, R61, R65, R214, R233) -/

namespace Sys2Proof.Machine

/-- Which content owns a page depends on the contents only (R224). -/
theorem ownerOf_congr {s t : State} (h : t.contents = s.contents) (n c ix : Nat) : ownerOf t n c ix = ownerOf s n c ix := by
  induction n generalizing c with
  | zero => rfl
  | succ n ih => simp only [ownerOf, h, ih]

theorem pidOf_congr {s t : State} (h : t.contents = s.contents) (c ix : Nat) : pidOf t c ix = pidOf s c ix := by
  rw [pidOf, pidOf, h, ownerOf_congr h]

theorem viewOf_congr {s t : State} (ho : t.objects = s.objects) (hv : t.views = s.views) (dev : Nat) :
    viewOf t dev = viewOf s dev := by
  unfold viewOf objAt
  rw [ho, hv]

/-- What a device address names depends on the objects, contents, views and orders only (R143, R223). -/
theorem targetOf_congr {s t : State} (ho : t.objects = s.objects) (hc : t.contents = s.contents) (hv : t.views = s.views)
    (hr : t.orders = s.orders) (dev : Nat) : targetOf t dev = targetOf s dev := by
  have pids := pidOf_congr hc
  unfold targetOf objOf orderOf objAt
  rw [viewOf_congr ho hv, ho, hr]
  simp only [pids]

theorem targetOf_waits (s : State) (ws : List Waiting) (dev : Nat) : targetOf { s with waits := ws } dev = targetOf s dev :=
  targetOf_congr (s := s) (t := { s with waits := ws }) rfl rfl rfl rfl dev

/-- The wait that a stall budget's expiry ends: a load of the port with the tag, waiting for a page or a stack. -/
def stalledLoad (s : State) (p : Port) (tag : BitVec 16) : Option Waiting :=
  s.waits.find? (fun w => w.port == p && w.tag == tag && w.store.isNone && w.why != .entry)

/-- What a load whose stall budget has ended is answered with, its wait taken out of `s`. -/
theorem stallBudgetExpired_eq {s : State} {p : Port} {tag : BitVec 16} {w : Waiting} (h : stalledLoad s p tag = some w) :
    let s1 := { s with waits := s.waits.erase w }
    (∀ t, w.why = .page → targetOf s w.dev = some t → exec (.stallBudgetExpired p tag) s = .next (tierMiss s1 w t false)) ∧
    (w.why = .stack → exec (.stallBudgetExpired p tag) s = .next
      (raise (sendRead s1 w.port w.src w.tag w.noData zeroLine true w.mv) evStallPoison [w.ctx]
        (w2 (w.dev / 64 * 64) ++ w1 w.port.val ++ w1 w.src.toNat))) := by
  intro s1
  have target : targetOf s1 w.dev = targetOf s w.dev := targetOf_waits ..
  rw [exec_stallBudgetExpired, execStallBudgetExpired, show s.waits.find? _ = some w from h]
  refine ⟨fun t why ht => ?_, fun why => ?_⟩
  · dsimp only
    rw [why, target, ht]
  · dsimp only
    rw [why]

/-- The wait timer of a recall (R214, R233). -/
theorem recallWaitExpired_eq (s : State) (dev : BitVec 47) :
    (∀ e, dirAt s dev.toNat = some e → e.st = .recalling →
      exec (.recallWaitExpired dev) s = .next (recallExpired s dev.toNat e)) ∧
    ((∀ e, dirAt s dev.toNat = some e → e.st ≠ .recalling) → exec (.recallWaitExpired dev) s = .next s) := by
  rw [exec_recallWaitExpired, execRecallWaitExpired]
  cases dirAt s dev.toNat with
  | none => exact ⟨fun e he => (nomatch he), fun _ => rfl⟩
  | some e =>
    refine ⟨fun x he hr => ?_, fun h => ?_⟩
    · obtain rfl := Option.some.inj he
      exact congrArg Host.Outcome.next (if_pos hr)
    · exact congrArg Host.Outcome.next (if_neg (h e rfl))

end Sys2Proof.Machine

namespace Sys2Proof.Proofs
open Machine

/-- Settles O21: loads by `stallBudgetExpired_eq`, recalls by `recallWaitExpired_eq`. -/
theorem hostWaitTimers : Obligations.HostWaitTimers := by
  exact ⟨fun s p tag w h => stallBudgetExpired_eq h, fun s dev e he hr => (recallWaitExpired_eq s dev).1 e he hr,
    fun s dev => (recallWaitExpired_eq s dev).2⟩

end Sys2Proof.Proofs

/-! ## Reads of CXL.mem (R329, R338, R340, R354, R458) -/

namespace Sys2Proof.Machine

/-! ### The front of a request -/

theorem front_notTaken {s : State} {p : Port} (h : portTakes s p = false) (src : SrcId) (hpa : DWord) :
    front s p src hpa = .notTaken := if_pos (by simp [h])

/-- A request that a port takes comes to what its identity and address are mapped to. -/
theorem front_taken {s : State} {p : Port} (h : portTakes s p = true) (src : SrcId) (hpa : DWord) :
    front s p src hpa = frontTaken s p src hpa := if_neg (by simp [h])

theorem frontTaken_inactive {s : State} {p : Port} (h : (s.port p).memActive = false) (src : SrcId) (hpa : DWord) :
    frontTaken s p src hpa = .turnedAway s := if_pos (by simp [h])

theorem frontTaken_active {s : State} {p : Port} (h : (s.port p).memActive = true) (src : SrcId) (hpa : DWord) :
    (∀ cause, mapSource s p (srcOf s p src) = .error cause →
      frontTaken s p src hpa = .turnedAway (missSource s p (srcOf s p src) cause)) ∧
    (∀ c, mapSource s p (srcOf s p src) = .ok c → (s.ctx c).expired = true → frontTaken s p src hpa = .turnedAway s) ∧
    (∀ c cause, mapSource s p (srcOf s p src) = .ok c → (s.ctx c).expired = false →
      decodeHpa s c (hpa.toNat / 64 * 64) = .error cause →
      frontTaken s p src hpa = .turnedAway (missDecode s c p (srcOf s p src) hpa.toNat cause)) := by
  rw [frontTaken, if_neg (by simp [h])]
  dsimp only
  refine ⟨fun cause e => by rw [e], fun c e hx => ?_, fun c cause e hx hd => ?_⟩
  · rw [e]; exact if_pos hx
  · rw [e]
    dsimp only
    rw [if_neg (by simp [hx]), hd]

/-- The lease of the context of a decoded request has not expired (R210). -/
theorem front_decoded_lease {s : State} {p : Port} {src id : SrcId} {hpa : DWord} {c : Ctx} {dev : Nat}
    (h : front s p src hpa = .decoded c id dev) : (s.ctx c).expired = false := by
  unfold front frontTaken at h
  dsimp only at h
  split at h
  · cases h
  split at h
  · cases h
  split at h
  · cases h
  split at h
  · cases h
  rename_i live
  split at h
  · cases h
  · cases h
    simpa using live

/-! ### Reads -/

/-- A read that the front turns away is answered with poison. -/
theorem hostRead_turnedAway {s t : State} {p : Port} {src : SrcId} {hpa : DWord} (h : front s p src hpa = .turnedAway t)
    (mv : MetaValue) (tag : BitVec 16) (noData : Bool) :
    hostRead s p src hpa mv tag noData = sendRead t p src tag noData zeroLine true .i := by
  rw [hostRead, h]

/-- The request of a load, as it waits for its page. -/
def loadAsked (s : State) (p : Port) (id : SrcId) (tag : BitVec 16) (c : Ctx) (dev : Nat) : Waiting :=
  (senderOf s p id c tag).asks dev .page .i false

/-- A decoded read outside the coherent windows. -/
theorem hostRead_decoded {s : State} {p : Port} {src id : SrcId} {hpa : DWord} {c : Ctx} {dev : Nat}
    (h : front s p src hpa = .decoded c id dev) (hw : windowOf s dev = none) (mv : MetaValue) (tag : BitVec 16) :
    hostRead s p src hpa mv tag true = sendDone s p id tag .i ∧
    hostRead s p src hpa mv tag false = serveLoad s (loadAsked s p id tag c dev) := by
  simp only [hostRead, h, hw]
  exact ⟨rfl, rfl⟩

/-- A load of a range of no object (R144). -/
theorem serveLoad_unmapped {s : State} {w : Waiting} (hx : (s.ctx w.ctx).expired = false) (ht : targetOf s w.dev = none) :
    serveLoad s w = sendRead (unmapped s) w.port w.src w.tag w.noData zeroLine false w.mv := by
  rw [serveLoad, if_neg (by simp [hx]), ht]

/-- A load of a line that is not resident waits, or is a tier miss (R59, R61). -/
theorem serveLoad_missing {s : State} {w : Waiting} {t : Target} (hx : (s.ctx w.ctx).expired = false)
    (ht : targetOf s w.dev = some t) (hr : lineResident (pageAt s t.pid) (w.dev % 65536 / 64) = false) :
    serveLoad s w = if 1024 ≤ waitingLoads s w.port then tierMiss s w t true
      else { s with waits := s.waits ++ [{ w with why := .page }] } := by
  rw [serveLoad, if_neg (by simp [hx]), ht]
  exact if_neg (by simp [hr])

/-- A load of a page without content reads zeros. -/
theorem serveLoad_empty {s : State} {w : Waiting} {t : Target} (hx : (s.ctx w.ctx).expired = false)
    (ht : targetOf s w.dev = some t) (hr : lineResident (pageAt s t.pid) (w.dev % 65536 / 64) = true)
    (hf : loadFrame (pageAt s t.pid) = none) :
    serveLoad s w = sendRead s w.port w.src w.tag w.noData zeroLine false w.mv := by
  rw [serveLoad, if_neg (by simp [hx]), ht]
  dsimp only
  rw [if_pos hr, hf]

/-- A load of a line that a frame holds is read, or waits for the frame's stack (R65, R357). -/
theorem serveLoad_resident {s : State} {w : Waiting} {t : Target} {fr : Nat} (hx : (s.ctx w.ctx).expired = false)
    (ht : targetOf s w.dev = some t) (hr : lineResident (pageAt s t.pid) (w.dev % 65536 / 64) = true)
    (hf : loadFrame (pageAt s t.pid) = some fr) :
    serveLoad s w = if stackWaits s (frameStack fr) then
        (if 1024 ≤ waitingLoads s w.port then tierMiss s w t true else { s with waits := s.waits ++ [{ w with why := .stack }] })
      else
        let a := accessTraffic s t.order fr (w.dev % 65536) false (keepOf s t.o) (.host w.port w.src) w.port.val false w.dev
        let r := readPage a (hostReader w.ctx w.port w.src) t.order t.pid w.dev
        sendRead r.1 w.port w.src w.tag w.noData r.2.1 r.2.2 w.mv := by
  rw [serveLoad, if_neg (by simp [hx]), ht]
  dsimp only
  rw [if_pos hr, hf]

end Sys2Proof.Machine

namespace Sys2Proof.Proofs
open Machine

/-- Settles O15: the front by `frontTaken_active` and its kin, the decoded reads by `hostRead_decoded` and `serveLoad`'s cases. -/
theorem hostReads : Obligations.HostReads := by
  refine ⟨fun s p src hpa mv tag r hr => ?_, fun s p src hpa mv tag c id dev h hw => ?_⟩
  · have run : exec r.1 s = .next (hostRead s p src hpa mv tag r.2) := by
      simp only [List.mem_cons, List.not_mem_nil, or_false] at hr
      rcases hr with rfl | rfl | rfl | rfl <;> rfl
    have away : ∀ {t}, portTakes s p = true → frontTaken s p src hpa = .turnedAway t →
        exec r.1 s = .next (sendRead t p src tag r.2 zeroLine true .i) := fun ht e =>
      run.trans (congrArg _ (hostRead_turnedAway ((front_taken ht src hpa).trans e) mv tag r.2))
    refine ⟨fun ht => ?_, fun ht ha => away ht (frontTaken_inactive ha src hpa), fun ht ha => ?_⟩
    · rw [run, hostRead, front_notTaken ht]
    · obtain ⟨source, lease, decode⟩ := frontTaken_active ha src hpa
      exact ⟨fun cause e => away ht (source cause e), fun c e hx => away ht (lease c e hx),
        fun c cause e hx hd => away ht (decode c cause e hx hd)⟩
  · obtain ⟨done, load⟩ := hostRead_decoded h hw mv tag
    have hx := front_decoded_lease h
    refine ⟨congrArg _ done, congrArg _ done, fun i hi => ?_⟩
    have run : exec i s = .next (serveLoad s (loadAsked s p id tag c dev)) := by
      rw [← load]
      simp only [List.mem_cons, List.not_mem_nil, or_false] at hi
      rcases hi with rfl | rfl <;> rfl
    rw [run]
    refine ⟨fun ht => congrArg _ (serveLoad_unmapped hx ht), fun t ht => ⟨fun hr hf => congrArg _ (serveLoad_empty hx ht hr hf),
      fun fr hr hf => ?_, fun hr => ?_⟩⟩
    · rw [serveLoad_resident hx ht hr hf]
      refine ⟨fun hs hn => congrArg _ ?_, fun hs hn => congrArg _ ?_, fun hs => congrArg _ ?_⟩
      · exact (if_pos hs).trans (if_neg (Nat.not_le.mpr hn))
      · exact (if_pos hs).trans (if_pos hn)
      · exact if_neg (by simp [hs])
    · rw [serveLoad_missing hx ht hr]
      exact ⟨fun hn => congrArg _ (if_neg (Nat.not_le.mpr hn)), fun hn => congrArg _ (if_pos hn)⟩

end Sys2Proof.Proofs

/-! ## CUE: its checks and its arming (R50 to R52, R132) -/

namespace Sys2Proof.Machine

/-- A command of the work ring whose entry is taken does its effect. -/
theorem ringCmd_taken {s : State} {c : Ctx} {e : Line} {op : Nat} {a : State} {tag : Word}
    (h : takeEntry s c e op = .taken a tag) (f : State → Word → State) : ringCmd s c e op f = f a tag := by
  rw [ringCmd, h]

/-- Checks in order: the first that fails gives the status. -/
theorem first_check {α : Type} (f : Nat → α) (z : α) {P : Prop} [Decidable P] {n st : Nat} (hn : n ≠ 0) :
    (if (if P then n else st) ≠ 0 then f (if P then n else st) else z) = if P then f n else if st ≠ 0 then f st else z := by
  by_cases h : P
  · simp only [if_pos h, if_pos hn]
  · simp only [if_neg h]

/-- GRACE of a CUE, 0xFFFF for the module's own (R51). -/
def cueGrace (a : State) (e : Line) : Nat := if entryField e 12 2 = 0xFFFF then a.fieldOf 0x20024 0 11 else entryField e 12 2

/-- The late flag of a CUE (R50). -/
def cueLate (e : Line) : Bool := bit (entryField e 2 1) 1

/-- The boundary at which a CUE asks to start (R48). -/
def cueWant (e : Line) : Nat := startOf (entryField e 16 8)

/-- The boundary at which a CUE starts: a late one that may be late takes the earliest (R50). -/
def cueStart (a : State) (e : Line) : Nat := if cueWant e < earliestStart a ∧ cueLate e = true then earliestStart a else cueWant e

/-- The cue that a CUE arms. -/
def cueOf (a : State) (c : Ctx) (e : Line) (tag : Word) : Cue :=
  { ctx := c, tag := tag, binding := entryField e 8 4, grace := cueGrace a e, notch := entryField e 16 8,
    seed := BitVec.ofNat 32 (entryField e 24 4), late := cueLate e, gen := 0, start := cueStart a e }

/-- The status of the first check of R51 that fails once the binding and its pattern are found, or 0. -/
def cueStatus (a : State) (e : Line) (b : Binding) (p : Pattern) : Nat :=
  if modeSet (modeAt a (cueStart a e)) ≠ p.tset then 0x20
  else if bit p.modeMask.toNat (modeAt a (cueStart a e)) = false then 0x21
  else if a.ft.time.toNat + 60000000000 < entryField e 16 8 then 0x22
  else if startInChange a (cueStart a e) then 0x20
  else if b.cmap.any (fun k => decide (32 ≤ armedIn a k)) then 0x23
  else if slotConflict a b p (runAt a (cueStart a e)) (runAt a (cueStart a e) + p.length + cueGrace a e) then 0x24
  else 0

theorem cueTaken_unanchored {a : State} (h : cuesAccepted a = false) (c : Ctx) (e : Line) (tag : Word) :
    cueTaken a c e tag = endFlight a c tag 1 0x19 [] := if_pos (by simp [h])

/-- A CUE that names no binding of its context. -/
theorem cueTaken_unbound {a : State} {c : Ctx} {e : Line} (h : cuesAccepted a = true)
    (hb : mget? a.bindings (entryField e 8 4) = none ∨ ∃ b, mget? a.bindings (entryField e 8 4) = some b ∧ b.ctx ≠ c) (tag : Word) :
    cueTaken a c e tag = endFlight a c tag 1 0x26 [] := by
  rw [cueTaken, if_neg (by simp [h])]
  rcases hb with hb | ⟨b, hb, hc⟩
  · rw [hb]; rfl
  · rw [hb]; exact if_pos (by simp [hc])

theorem cueTaken_quarantined {a : State} {c : Ctx} {e : Line} {b : Binding} (h : cuesAccepted a = true)
    (hb : mget? a.bindings (entryField e 8 4) = some b) (hc : b.ctx = c) (hq : b.quarantined = true) (tag : Word) :
    cueTaken a c e tag = endFlight a c tag 1 0x16 [] := by
  rw [cueTaken, if_neg (by simp [h]), hb]
  dsimp only
  rw [if_neg (by simp [hc]), if_pos hq]
  rfl

/-- What becomes of a CUE whose binding and pattern are found: the first check that fails refuses it; one that passes them
starts at its notch, or as late as its flag lets it. -/
theorem cueTaken_checked {a : State} {c : Ctx} {e : Line} {b : Binding} {p : Pattern} (h : cuesAccepted a = true)
    (hb : mget? a.bindings (entryField e 8 4) = some b) (hc : b.ctx = c) (hq : b.quarantined = false)
    (hp : mget? a.patterns b.pattern = some p) (tag : Word) :
    cueTaken a c e tag =
      if cueStatus a e b p ≠ 0 then endFlight a c tag 1 (cueStatus a e b p) []
      else if earliestStart a ≤ cueWant e then armCue a (cueOf a c e tag)
      else if cueLate e = true then
        armCue (notchMissed a (cueOf a c e tag) (cueWant e) (earliestStart a) (earliestStart a)) (cueOf a c e tag)
      else endFlight (notchMissed a (cueOf a c e tag) (cueWant e) (earliestStart a) 0) c tag 1 0x25 [] := by
  have start : (if (decide (cueWant e < earliestStart a) && cueLate e) = true then earliestStart a else cueWant e) = cueStart a e := by
    simp only [cueStart, Bool.and_eq_true, decide_eq_true_eq]
  rw [cueTaken, if_neg (by simp [h]), hb]
  dsimp only
  rw [if_neg (by simp [hc]), if_neg (by simp [hq]), hp]
  dsimp only
  rw [show startOf (entryField e 16 8) = cueWant e from rfl, show bit (entryField e 2 1) 1 = cueLate e from rfl, start]
  simp only [bne_iff_ne, Bool.not_eq_true', refuseCue]
  rw [cueStatus]
  iterate 6 rw [first_check (fun st => endFlight a c tag 1 st []) _ (by decide)]
  rw [if_neg (not_not.mpr rfl)]
  congr 6
  by_cases late : cueWant e < earliestStart a
  · rw [if_neg (Nat.not_le.mpr late)]
    cases may : cueLate e <;> simp [late, may, cueOf, cueGrace]
  · simp only [late, Nat.not_lt.mp late]
    rfl

end Sys2Proof.Machine

namespace Sys2Proof.Proofs
open Machine

/-- Settles O36: the checks of R51 by `cueTaken_checked` and its kin. -/
theorem cueChecksAndArming : Obligations.CueChecksAndArming := by
  intro s c e a tag h
  have run : exec (.cue c e) s = .next (cueTaken a c e tag) := congrArg Host.Outcome.next (ringCmd_taken h _)
  rw [run]
  refine ⟨fun hx => congrArg _ (cueTaken_unanchored hx c e tag), fun hx => ⟨fun hb => congrArg _ (cueTaken_unbound hx hb tag),
    fun b p hb hc => ⟨fun hq => congrArg _ (cueTaken_quarantined hx hb hc hq tag), fun hq hp => ?_⟩⟩, fun q => rfl⟩
  have checked := cueTaken_checked hx hb hc hq hp tag
  refine ⟨fun bad => congrArg _ (checked.trans (if_pos bad)), fun good => ?_⟩
  have passed := checked.trans (if_neg (not_not.mpr good))
  refine ⟨fun soon => congrArg _ (passed.trans (if_pos soon)), fun late may => ?_, fun late never => ?_⟩
  · exact congrArg _ (passed.trans ((if_neg (Nat.not_le.mpr late)).trans (if_pos may)))
  · exact congrArg _ (passed.trans ((if_neg (Nat.not_le.mpr late)).trans (if_neg (Bool.eq_false_iff.mp never))))

end Sys2Proof.Proofs

/-! ## The slots of a channel (R38 to R46, R120, R244, R253, R258, R261) -/

namespace Sys2Proof.Machine

/-- A mode's timing set is one of the three. -/
theorem modeSet_lt (m : Nat) : modeSet m < 3 := by
  unfold modeSet
  have all : ∀ i < 6, [0, 0, 1, 0, 2, 2].getD i 0 < 3 := by decide
  by_cases h : m < 6
  · exact all m h
  · rw [List.getD_eq_default _ _ (by simpa using h)]; decide

/-- The parts of the basted block follow each other (R39). -/
theorem basted_order (q : Nat) (h : q < 3) : tackFirst q < calFirst q ∧ calFirst q < bastedB q := by
  have all : ∀ q < 3, tackFirst q < calFirst q ∧ calFirst q < bastedB q := by decide
  exact all q h

/-! ### What begins at a slot of the basted block -/

theorem bastedPart_none {s : State} {st ch q : Nat} (h1 : (s.chan st ch).slot ≠ tackFirst q) (h2 : (s.chan st ch).slot ≠ calFirst q)
    (h3 : (s.chan st ch).slot ≠ bastedB q) : bastedPart s st ch q = s := by
  unfold bastedPart
  dsimp only
  rw [if_neg h1, if_neg h2, if_neg h3]

theorem bastedPart_tack {s : State} {st ch q : Nat} (h : (s.chan st ch).slot = tackFirst q) :
    bastedPart s st ch q = tackPart s st ch q := if_pos h

theorem bastedPart_cal {s : State} {st ch q : Nat} (hq : q < 3) (h : (s.chan st ch).slot = calFirst q) :
    bastedPart s st ch q = calPart s st ch := by
  obtain ⟨h1, -⟩ := basted_order q hq
  unfold bastedPart
  dsimp only
  rw [if_neg (by omega), if_pos h]

theorem bastedPart_end {s : State} {st ch q : Nat} (hq : q < 3) (h : (s.chan st ch).slot = bastedB q) :
    bastedPart s st ch q = s.modChan st ch (fun c => { c with rows := [] }) := by
  obtain ⟨h1, h2⟩ := basted_order q hq
  unfold bastedPart
  dsimp only
  rw [if_neg (by omega), if_neg (by omega), if_pos h]

theorem State.chan_bump (s : State) (off n len ix st ch : Nat) : (s.bump off n len ix).chan st ch = s.chan st ch := rfl

/-- From the end of the basted block on, a slot begins with the queue as it was. -/
theorem bastedPart_queue {s : State} {st ch q : Nat} (hq : q < 3) (h : bastedB q ≤ (s.chan st ch).slot) :
    ((bastedPart s st ch q).chan st ch).queue = (s.chan st ch).queue := by
  obtain ⟨h1, h2⟩ := basted_order q hq
  by_cases e : (s.chan st ch).slot = bastedB q
  · rw [bastedPart_end hq e, State.chan_modChan_self]
  · rw [bastedPart_none (by omega) (by omega) e]

theorem tackPart_chan (s : State) (st ch q : Nat) :
    let r := takeVictims (tackRows q) (s.chan st ch).victims []
    (tackPart s st ch q).chan st ch = { s.chan st ch with victims := r.2, tacked := r.1 != 0 } :=
  (State.chan_bump ..).trans (State.chan_modChan_self ..)

theorem calPart_unmarked {s : State} {st ch : Nat} (h : (s.chan st ch).marked = []) : calPart s st ch = s :=
  if_pos (by simp [h])

/-! ### The slot -/

/-- The slot is over. -/
def State.pastSlot (s : State) (st ch : Nat) : State := s.modChan st ch (fun c => { c with slot := c.slot + 1, abs := c.abs + 1 })

/-- What a slot after the basted block is used for: a claim, the sparing copy, or an open request. -/
def afterBasted (u : State) (st ch q slot : Nat) : State :=
  match (liveClaims u st ch).find? (fun x => x.claim.slot == slot && decide (bastedB q ≤ slot)) with
  | some x => serveLive u st ch x
  | none => if decide (bastedB q ≤ slot) && slotWithheld u st ch q then withheldSlot u st ch q else openSlot u st ch q

theorem dramSlot_none {s : State} {st ch : Nat} (h : s.ft.running = false ∨ s.pw.refLost = true ∨ stackReady s st = false ∨
    slotsN (modeSet s.pw.mode) ≤ (s.chan st ch).slot) : dramSlot s st ch = s :=
  if_pos (by rcases h with h | h | h | h <;> simp [h])

theorem dramSlot_runs {s : State} {st ch : Nat} (h1 : s.ft.running = true) (h2 : s.pw.refLost = false) (h3 : stackReady s st = true)
    (h4 : (s.chan st ch).slot < slotsN (modeSet s.pw.mode)) :
    let q := modeSet s.pw.mode
    let n := (s.chan st ch).slot
    let u := bastedPart s st ch q
    dramSlot s st ch = (if n < bastedB q ∧ bastedUse q (u.chan st ch) = true then u else afterBasted u st ch q n).pastSlot st ch := by
  intro q n u
  have runs : ¬ (!s.ft.running || s.pw.refLost || !stackReady s st || decide (slotsN q ≤ n)) = true := by
    simpa [h1, h2, h3] using h4
  have basted : (decide (n < bastedB q) && bastedUse q (u.chan st ch)) = true ↔ n < bastedB q ∧ bastedUse q (u.chan st ch) = true := by
    rw [Bool.and_eq_true, decide_eq_true_iff]
  exact (if_neg runs).trans (congrArg (State.pastSlot · st ch) (if_congr basted rfl rfl))

/-- No claim is served in the basted block. -/
theorem afterBasted_before {u : State} {st ch q slot : Nat} (h : slot < bastedB q) :
    afterBasted u st ch q slot = openSlot u st ch q := by
  have no : (liveClaims u st ch).find? (fun x => x.claim.slot == slot && decide (bastedB q ≤ slot)) = none := by
    simp [h]
  rw [afterBasted, no]
  exact if_neg (by simp [h])

theorem afterBasted_claim {u : State} {st ch q slot : Nat} {x : LiveClaim}
    (h : (liveClaims u st ch).find? (fun x => x.claim.slot == slot && decide (bastedB q ≤ slot)) = some x) :
    afterBasted u st ch q slot = serveLive u st ch x := by
  rw [afterBasted, h]

theorem afterBasted_free {u : State} {st ch q slot : Nat} (h : bastedB q ≤ slot) (hc : ∀ x ∈ liveClaims u st ch, x.claim.slot ≠ slot) :
    afterBasted u st ch q slot = if slotWithheld u st ch q = true then withheldSlot u st ch q else openSlot u st ch q := by
  have no : (liveClaims u st ch).find? (fun x => x.claim.slot == slot && decide (bastedB q ≤ slot)) = none := by
    simpa [h] using hc
  rw [afterBasted, no]
  simp only [h, decide_true, Bool.true_and]

/-- An open slot without requests changes nothing (R244). -/
theorem openSlot_empty {s : State} {st ch : Nat} (h : (s.chan st ch).queue = []) (q : Nat) : openSlot s st ch q = s := by
  unfold openSlot
  simp [h]

end Sys2Proof.Machine

namespace Sys2Proof.Proofs
open Machine

/-- Settles O52: the uses of a slot by `dramSlot_runs` and the cases of `afterBasted`, the parts of the basted block by
`bastedPart_tack` and its kin. -/
theorem dramSlots : Obligations.DramSlots := by
  intro s t h q c u d past
  have hq : q < 3 := modeSet_lt _
  refine ⟨fun no => congrArg _ (dramSlot_none no), fun h1 h2 h3 h4 => ?_, bastedPart_none, fun tack => ?_, fun cal unmarked => ?_,
    bastedPart_end hq⟩
  · have run := dramSlot_runs h1 h2 h3 h4
    have use : ∀ {x : State}, (if c.slot < bastedB q ∧ bastedUse q d = true then u else afterBasted u t.val h.val q c.slot) = x →
        exec (.dramSlot t h) s = past x := fun e => congrArg Host.Outcome.next (run.trans (congrArg (·.pastSlot t.val h.val) e))
    refine ⟨fun hb hu => use (if_pos ⟨hb, hu⟩), fun hb hu => use ?_, fun x hb hx => use ?_, fun hb hc => ?_⟩
    · exact (if_neg fun e => Bool.false_ne_true (hu.symm.trans e.2)).trans (afterBasted_before hb)
    · exact (if_neg fun e => Nat.not_lt.mpr hb e.1).trans (afterBasted_claim hx)
    · have free : (if c.slot < bastedB q ∧ bastedUse q d = true then u else afterBasted u t.val h.val q c.slot) = _ :=
        (if_neg fun e => Nat.not_lt.mpr hb e.1).trans (afterBasted_free hb hc)
      have opens : slotWithheld u t.val h.val q = false → exec (.dramSlot t h) s = past (openSlot u t.val h.val q) := fun w =>
        use (free.trans (if_neg (Bool.eq_false_iff.mp w)))
      refine ⟨fun w => use (free.trans (if_pos w)), opens, fun w empty => ?_⟩
      rw [opens w, openSlot_empty ((bastedPart_queue hq hb).trans empty)]
  · have chan : d = _ := (congrArg (·.chan t.val h.val) (bastedPart_tack tack)).trans (tackPart_chan s t.val h.val q)
    rw [chan]
    exact ⟨rfl, rfl⟩
  · exact (bastedPart_cal hq cal).trans (calPart_unmarked unmarked)

end Sys2Proof.Proofs

/-! ## Patterns and bindings: what the handlers do (R64, R137 to R139, R402) -/

namespace Sys2Proof.Machine

/-! ### PAT_LOAD -/

/-- The pages of a PAT_LOAD's container. -/
def loadPids (a : State) (m : MciCall) : List Nat := runPids a [(m.f 0 8, m.f 8 4)]

/-- The container of a PAT_LOAD as the steward reads it, with whether a line was poisoned. -/
def containerRead (a : State) (m : MciCall) : State × Bytes × Bool := devBytes a (stewardOf m.c m.tag) (m.f 0 8) (m.f 8 4)

theorem patLoadH_range {a : State} {m : MciCall} (h : grantedRun a m.c (m.f 0 8) (m.f 8 4) = false) :
    patLoadH a m = (a, .done 0x12 []) := if_pos (by simp [h])

theorem patLoadH_waits {a : State} {m : MciCall} (h : grantedRun a m.c (m.f 0 8) (m.f 8 4) = true)
    (hw : (loadPids a m).any (fun p => pageMissing a p || pageWaits a p) = true) :
    patLoadH a m = ({ fetchMissing a (loadPids a m) with lockWaits := a.lockWaits ++ [(0xC010, m)] }, .waits) :=
  (if_neg (by simp [h])).trans (if_pos hw)

/-- Once its pages are resident, the container is judged by its poison, and then by its checks. -/
theorem patLoadH_read {a : State} {m : MciCall} (h : grantedRun a m.c (m.f 0 8) (m.f 8 4) = true)
    (hw : (loadPids a m).any (fun p => pageMissing a p || pageWaits a p) = false) :
    patLoadH a m = if (containerRead a m).2.2 = true then ((containerRead a m).1, .done 0x31 [])
      else storePattern (containerRead a m).1 (refuseOld (containerRead a m).1 (loadContainer (containerRead a m).2.1 m.ctx)) :=
  (if_neg (by simp [h])).trans (if_neg (Bool.eq_false_iff.mp hw))

/-- The checks of a container before its pattern is read (R137). -/
theorem loadContainer_refused (bs : Bytes) (c : Option Ctx) :
    (formatOk bs = false → loadContainer bs c = .error 0x30) ∧
    (formatOk bs = true → crcOk bs = false → loadContainer bs c = .error 0x31) ∧
    (formatOk bs = true → crcOk bs = true → limitsOk bs = false → loadContainer bs c = .error 0x32) := by
  unfold loadContainer
  refine ⟨fun h1 => if_pos (by simp [h1]), fun h1 h2 => ?_, fun h1 h2 h3 => ?_⟩
  · rw [if_neg (by simp [h1])]
    exact if_pos (by simp [h2])
  · rw [if_neg (by simp [h1]), if_neg (by simp [h2])]
    exact if_pos (by simp [h3])

theorem loadContainer_checked {bs : Bytes} (h1 : formatOk bs = true) (h2 : crcOk bs = true) (h3 : limitsOk bs = true) (c : Option Ctx) :
    (loadStatus (readPattern bs c) ≠ 0 → loadContainer bs c = .error (loadStatus (readPattern bs c))) ∧
    (loadStatus (readPattern bs c) = 0 → loadContainer bs c = .ok (readPattern bs c)) := by
  unfold loadContainer
  rw [if_neg (by simp [h1]), if_neg (by simp [h2]), if_neg (by simp [h3])]
  exact ⟨fun bad => if_neg bad, fun good => if_pos good⟩

/-- A pattern is stored under the next number, unless its set is being left or the store is full (R64, R137). -/
theorem storePattern_ok (s : State) (p : Pattern) :
    (leavesSet s p.tset = true → storePattern s (refuseOld s (.ok p)) = (s, .done 0x20 [])) ∧
    (leavesSet s p.tset = false → 1024 ≤ s.patterns.length → storePattern s (refuseOld s (.ok p)) = (s, .done 0x39 [])) ∧
    (leavesSet s p.tset = false → s.patterns.length < 1024 → storePattern s (refuseOld s (.ok p)) =
      ({ s with patterns := mput s.patterns s.nextPattern p, nextPattern := s.nextPattern + 1 }, .done 0 (leBytes 4 s.nextPattern))) := by
  have stays : leavesSet s p.tset = false → refuseOld s (.ok p) = .ok p := fun h => if_neg (Bool.eq_false_iff.mp h)
  refine ⟨fun h => ?_, fun h hn => ?_, fun h hn => ?_⟩
  · rw [show refuseOld s (.ok p) = .error 0x20 from if_pos h]; rfl
  · rw [stays h]; exact if_pos hn
  · rw [stays h]; exact if_neg (Nat.not_le.mpr hn)

/-! ### PAT_UNLOAD and PAT_UNBIND -/

theorem patUnloadH_none {a : State} {m : MciCall} (h : patternFor a m (m.f 0 4) = none) : patUnloadH a m = (a, .done 0x3A []) := by
  simp only [patUnloadH, h]

theorem patUnloadH_some {a : State} {m : MciCall} {p : Pattern} (h : patternFor a m (m.f 0 4) = some p) :
    patUnloadH a m = if a.bindings.any (fun b => b.2.pattern == m.f 0 4) = true then (a, .done 0x13 [])
      else ({ a with patterns := mdel a.patterns (m.f 0 4) }, .done 0 []) := by
  simp only [patUnloadH, h]; rfl

theorem patUnbindH_eq {a : State} {m : MciCall} {b : Binding} (h : mget? a.bindings (m.f 0 4) = some b)
    (may : m.owner = true ∨ m.ctx = some b.ctx) :
    patUnbindH a m = if cueNames a (m.f 0 4) = true then (a, .done 0x13 [])
      else ({ a with bindings := mdel a.bindings (m.f 0 4), recompute := Nat.lor a.recompute 8 }, .done 0 []) := by
  simp only [patUnbindH, h]
  exact if_neg (by rcases may with e | e <;> simp [e])

/-! ### PAT_BIND -/

/-- What the OBJECT entries of a PAT_BIND name. -/
def boundEntries (a : State) (m : MciCall) (p : Pattern) : List (Except Nat Bound) :=
  (List.range p.regions.length).map (fun i =>
    boundOf a m (m.f 0 4) p (inputMap m 8 p.clusters) i (p.regions.getD i ⟨0, false, false, false, 0, 0⟩) (m.f (32 + 4 * i) 4))

/-- The binding that PAT_BIND makes, but for its objects. -/
def bindingOf (m : MciCall) (p : Pattern) : Binding :=
  { pattern := m.f 0 4, ctx := m.c, cmap := inputMap m 8 p.clusters, bound := [] }

/-- A half stays for a binding while it is on and no accepted change of mode switches it off (R138). -/
theorem halfStays_of_on {a : State} {d : Nat} (on : domOn a d = true) (job : ∀ j, a.pw.job = some j → modeHalf j.mode d = true) :
    halfStays a d = true := by
  rw [halfStays, on, Bool.true_and]
  cases h : a.pw.job with
  | none => rfl
  | some j => exact job j h

/-- PAT_BIND whose map, halves, stores and objects pass their checks makes the next binding (R138). -/
theorem patBindH_binds {a : State} {m : MciCall} {p : Pattern} (hp : patternFor a m (m.f 0 4) = some p)
    (map : mapOk p (inputMap m 8 p.clusters) = true) (rest : ∀ k, p.clusters ≤ k → k < 20 → m.f (8 + k) 1 = 0xFF)
    (halves : ∀ k ∈ placement (bindingOf m p) p, halfStays a (k / 64) = true)
    (code : ∀ i c, p.cores[i]? = some c → codeUsed a ((placement (bindingOf m p) p).getD i 0) + c.code.length ≤ 4096)
    (claims : ∀ l < p.clusters, claimsUsed a ((inputMap m 8 p.clusters).getD l 0) + claimsIn p l ≤ 65536)
    (count : m.f 4 1 = p.regions.length) (objects : ∀ e ∈ boundEntries a m p, ∃ y, e = .ok y)
    (room : a.bindings.length < 4096) (perCluster : ∀ k ∈ inputMap m 8 p.clusters, bindingsIn a k < 64) :
    patBindH a m = ({ a with
      bindings := mput a.bindings a.nextBinding { bindingOf m p with
        bound := (boundEntries a m p).filterMap (fun x => match x with | .ok y => some y | .error _ => none) }
      nextBinding := a.nextBinding + 1
      recompute := Nat.lor a.recompute 8 }, .done 0 (leBytes 4 a.nextBinding)) := by
  have noError : (boundEntries a m p).findSome? (fun x => match x with | .error e => some e | .ok _ => none) = none := by
    rw [List.findSome?_eq_none_iff]
    intro x hx
    obtain ⟨y, rfl⟩ := objects x hx
    rfl
  have c1 : ¬ (!mapOk p (inputMap m 8 p.clusters) || (List.range 20).any (fun k => decide (p.clusters ≤ k) && m.f (8 + k) 1 != 0xFF)) = true := by
    simp only [map, Bool.not_true, Bool.false_or, List.any_eq_true, List.mem_range, Bool.and_eq_true, decide_eq_true_eq, bne_iff_ne]
    rintro ⟨k, hk, low, bad⟩
    exact bad (rest k low hk)
  have c2 : ¬ (placement (bindingOf m p) p).any (fun k => !halfStays a (k / 64)) = true := by
    simpa using halves
  have c3 : ¬ (List.range p.cores.length).any (fun i => match p.cores[i]? with
      | some c => decide (4096 < codeUsed a ((placement (bindingOf m p) p).getD i 0) + c.code.length) | none => false) = true := by
    simp only [List.any_eq_true, List.mem_range]
    rintro ⟨i, hi, bad⟩
    have fits := code i _ (List.getElem?_eq_getElem hi)
    rw [List.getElem?_eq_getElem hi] at bad
    exact Nat.not_lt.mpr fits (of_decide_eq_true bad)
  have c4 : ¬ (List.range p.clusters).any (fun cl =>
      decide (65536 < claimsUsed a ((inputMap m 8 p.clusters).getD cl 0) + claimsIn p cl)) = true := by
    simpa using claims
  have c5 : ¬ (decide (4096 ≤ a.bindings.length) || (inputMap m 8 p.clusters).any (fun k => decide (64 ≤ bindingsIn a k))) = true := by
    simpa [room] using perCluster
  simp only [patBindH, hp]
  refine (if_neg c1).trans ((if_neg c2).trans ((if_neg c3).trans ((if_neg c4).trans ((if_neg (by simp [count])).trans ?_))))
  generalize found : List.findSome? _ _ = e
  obtain rfl : e = none := found.symm.trans noError
  exact if_neg c5

end Sys2Proof.Machine

namespace Sys2Proof.Proofs
open Machine

/-- Settles O42: each command by what its handler does, PAT_LOAD's container by `loadContainer_checked` and `storePattern_ok`. -/
theorem patternCommands : Obligations.PatternCommands := by
  refine fun s via input a m => ⟨fun h => ?load, fun h => ?unload, fun h => ?bind, fun h => ?unbind⟩
  case load =>
    refine ⟨fun hg => next_mci_done h (patLoadH_range hg), fun hg => ⟨fun hw => ?_, fun hw => ?_⟩⟩
    · exact congrArg Host.Outcome.next (mci_waits h (patLoadH_waits hg hw))
    · have read := patLoadH_read hg hw
      refine ⟨fun bad => next_mci_done h (read.trans (if_pos bad)), fun sound => ?_⟩
      have judged := read.trans (if_neg (Bool.eq_false_iff.mp sound))
      obtain ⟨format, crc, limits⟩ := loadContainer_refused (containerRead a m).2.1 m.ctx
      have refused : ∀ {st : Nat}, loadContainer (containerRead a m).2.1 m.ctx = .error st →
          exec (.patLoad via input) s = .next (answer (containerRead a m).1 via m.tag 0xC010 st []) := fun e =>
        next_mci_done h (judged.trans (by rw [e]; rfl))
      refine ⟨fun h1 => refused (format h1), fun h1 h2 => refused (crc h1 h2), fun h1 h2 h3 => refused (limits h1 h2 h3), fun h1 h2 h3 => ?_⟩
      obtain ⟨status, passes⟩ := loadContainer_checked (bs := (containerRead a m).2.1) h1 h2 h3 m.ctx
      obtain ⟨leaving, full, stored⟩ := storePattern_ok (containerRead a m).1 (readPattern (containerRead a m).2.1 m.ctx)
      refine ⟨fun bad => refused (status bad), fun good hl => ?_, fun good hl hn => ?_, fun good hl hn => ?_⟩ <;>
        rw [passes good] at judged
      · exact next_mci_done h (judged.trans (leaving hl))
      · exact next_mci_done h (judged.trans (full hl hn))
      · exact next_mci_done h (judged.trans (stored hl hn))
  case unload =>
    refine ⟨fun missing => next_mci_done h (patUnloadH_none missing), fun p hp => ⟨fun named => ?_, fun free => ?_⟩⟩
    · exact next_mci_done h ((patUnloadH_some hp).trans (if_pos named))
    · exact next_mci_done h ((patUnloadH_some hp).trans (if_neg (Bool.eq_false_iff.mp free)))
  case bind =>
    intro p hp cmap b ks bs map rest halves code claims count objects room perCluster
    exact next_mci_done h (patBindH_binds hp map rest (fun k hk => halfStays_of_on (halves k hk).1 (halves k hk).2) code claims count
      objects room perCluster)
  case unbind =>
    refine fun b hb may => ⟨fun named => ?_, fun free => ?_⟩
    · exact next_mci_done h ((patUnbindH_eq hb may).trans (if_pos named))
    · exact next_mci_done h ((patUnbindH_eq hb may).trans (if_neg (Bool.eq_false_iff.mp free)))

end Sys2Proof.Proofs

/-! ## The tiering engine (R65, R151, R156, R161 to R164, R217, R224, R306 to R310) -/

namespace Sys2Proof.Machine

/-! ### The next page move (R164) -/

/-- The better of the best move so far and one more. -/
def pickMove (b : Option (Nat × Move)) (x : Nat × Move) : Option (Nat × Move) :=
  match b with
  | some y => if moveBefore x y then some x else b
  | none => some x

/-- The moves that may start, with their objects. -/
def startableMoves (s : State) : List (Nat × Move) :=
  s.objects.flatMap (fun o => (o.2.mover.moves.filter (startable s o.2.mover)).map (fun m => (o.1, m)))

theorem nextMove_eq (s : State) : nextMove s = (startableMoves s).foldl pickMove none := rfl

theorem mem_startableMoves {s : State} {o : Nat × Obj} (ho : o ∈ s.objects) {y : Move} (hy : y ∈ o.2.mover.moves)
    (h : startable s o.2.mover y = true) : (o.1, y) ∈ startableMoves s :=
  List.mem_flatMap.mpr ⟨o, ho, List.mem_map.mpr ⟨y, List.mem_filter.mpr ⟨hy, h⟩, rfl⟩⟩

/-- A move that comes before another is of no later kind, and one that does not is of no earlier. -/
theorem moveBefore_rank (a b : Nat × Move) :
    (moveBefore a b = true → moveRank a.2.kind ≤ moveRank b.2.kind) ∧ (moveBefore a b = false → moveRank b.2.kind ≤ moveRank a.2.kind) := by
  unfold moveBefore
  dsimp only
  split
  · simp only [decide_eq_true_eq, decide_eq_false_iff_not]; omega
  · omega

theorem pickMove_rank (b : Option (Nat × Move)) (x : Nat × Move) :
    ∃ y, pickMove b x = some y ∧ moveRank y.2.kind ≤ moveRank x.2.kind ∧ ∀ z, b = some z → moveRank y.2.kind ≤ moveRank z.2.kind := by
  cases b with
  | none => exact ⟨x, rfl, Nat.le_refl _, fun z h => nomatch h⟩
  | some z =>
    obtain ⟨before, after⟩ := moveBefore_rank x z
    cases h : moveBefore x z with
    | true => exact ⟨x, if_pos h, Nat.le_refl _, fun w hw => Option.some.inj hw ▸ before h⟩
    | false => exact ⟨z, if_neg (Bool.eq_false_iff.mp h), after h, fun w hw => Option.some.inj hw ▸ Nat.le_refl _⟩

/-- No move of the list, nor the one that stood before, precedes in kind the one that is picked. -/
theorem foldl_pickMove_rank {l : List (Nat × Move)} {b : Option (Nat × Move)} {r : Nat × Move} (h : l.foldl pickMove b = some r) :
    (∀ y ∈ l, moveRank r.2.kind ≤ moveRank y.2.kind) ∧ ∀ z, b = some z → moveRank r.2.kind ≤ moveRank z.2.kind := by
  induction l generalizing b with
  | nil => exact ⟨fun y hy => (List.not_mem_nil hy).elim, fun z hz => Option.some.inj (h.symm.trans hz) ▸ Nat.le_refl _⟩
  | cons x l ih =>
    obtain ⟨later, best⟩ := ih h
    obtain ⟨y, hy, hx, hb⟩ := pickMove_rank b x
    have first := best y hy
    refine ⟨fun w hw => ?_, fun z hz => Nat.le_trans first (hb z hz)⟩
    rcases List.mem_cons.mp hw with rfl | hw
    · exact Nat.le_trans first hx
    · exact later w hw

/-- No move that may start precedes the next one in kind. -/
theorem nextMove_rank {s : State} {n : Nat} {x : Move} (h : nextMove s = some (n, x)) {o : Nat × Obj} (ho : o ∈ s.objects) {y : Move}
    (hy : y ∈ o.2.mover.moves) (hs : startable s o.2.mover y = true) : moveRank x.kind ≤ moveRank y.kind := by
  rw [nextMove_eq] at h
  exact (foldl_pickMove_rank h).1 _ (mem_startableMoves ho hy hs)

theorem pageMoveStart_eq {s : State} (h : domOn s 78 = true) :
    (nextMove s = none → exec .pageMoveStart s = .next s) ∧
    ∀ n x, nextMove s = some (n, x) → exec .pageMoveStart s = .next (pagesChanged (startMove s n x)) := by
  rw [exec_pageMoveStart, execPageMoveStart, if_pos h]
  exact ⟨fun e => by rw [e], fun n x e => by rw [e]⟩

/-! ### The end of a flash read (R156, R310) -/

theorem flashRead_waits {s : State} {pid : Nat} (h : pageWaits s pid = true) (unc : BitVec 8) : flashRead s pid unc = s :=
  if_pos (.inr (.inr h))

/-- The shares of a stripe that a read has found uncorrectable are noted, where the record could be rebuilt (R310). -/
def noteShares (s : State) (h : FlashPage) (unc : BitVec 8) (gone : Bool) : State :=
  if unc = 0 ∨ gone = true then s
  else { s with stripes := mmod { pids := [] } s.stripes h.stripe (fun x => { x with bad := x.bad ||| unc }) }

theorem flashRead_ends {s : State} {pid : Nat} {h : FlashPage} (hf : (pageAt s pid).st = .fetching) (hc : (pageAt s pid).copyOf = none)
    (hh : (pageAt s pid).home = some h) (hw : pageWaits s pid = false) (unc : BitVec 8) :
    let d := degraded s h unc
    let g := noteShares (s.bump 0x80038 d.1) h unc d.2
    flashRead s pid unc = pagesChanged (endMove (readComplete g pid d.2).1 pid true (readComplete g pid d.2).2 true) := by
  have goes : ¬ ((pageAt s pid).st ≠ .fetching ∨ (pageAt s pid).copyOf.isSome = true ∨ pageWaits s pid = true) := by
    simp [hf, hc, hw]
  have note : ∀ x : State, (if (decide (unc = 0) || (degraded s h unc).2) = true then x else
      { x with stripes := mmod { pids := [] } x.stripes h.stripe (fun y => { y with bad := y.bad ||| unc }) }) =
      noteShares x h unc (degraded s h unc).2 := fun x => if_congr (by simp) rfl rfl
  unfold flashRead
  dsimp only
  rw [if_neg goes]
  simp only [hh, note]

/-! ### Stripes (R306 to R308) -/

theorem stripeProgrammed_eq {s : State} {n : Nat} {x : Stripe} (h : mget? s.stripes n = some x) (hc : x.closed = true)
    (hp : x.programmed = false) (hb : arrayBroken s = false) :
    stripeProgrammed s n = pagesChanged (x.pids.foldl (fun t p => writeEnds t n p)
      (countShares { s with stripes := mput s.stripes n { x with programmed := true, shares := programMask s } })) := by
  rw [stripeProgrammed, h]
  exact if_neg (by simp [hc, hp, hb])

/-! ### Movers whose moves are done (R161) -/

theorem movesDone_promoting {s : State} {n : Nat} {o : Obj} (h : objAt s n = some o) (hs : o.mover.st = .promoting)
    (hm : o.mover.moves.any (fun x => isFetch x.kind) = false) : movesDone s n = moverIdle (endPromos s n) n := by
  simp only [movesDone, h, hs]
  exact if_neg (Bool.eq_false_iff.mp hm)

theorem movesDone_evicting {s : State} {n : Nat} {o : Obj} (h : objAt s n = some o) (hs : o.mover.st = .evicting)
    (ht : o.mover.targets = []) (hm : o.mover.moves.any (fun x => x.kind == .evict) = false) :
    movesDone s n = moverIdle (endEvict s n 0) n := by
  simp only [movesDone, h, hs]
  exact if_pos (by rw [ht, hm]; rfl)

theorem movesDone_flushing {s : State} {n : Nat} {o : Obj} {f : MoverCmd} {fs : List MoverCmd} (h : objAt s n = some o)
    (hs : o.mover.st = .flushing) (hm : o.mover.moves.any (fun x => x.kind == .flush) = false) (hf : o.mover.flushes = f :: fs) :
    movesDone s n = moverIdle ((endMoverCmd s f 0 (w1 f.n1 ++ w1 f.n2)).modMover n (fun m => { m with flushes := fs })) n := by
  simp only [movesDone, h, hs, hf]
  exact if_neg (Bool.eq_false_iff.mp hm)

/-! ### Zero fills (R151, R217) -/

/-- The frame joins the zeroed free frames. -/
def frameZeroed (s : State) (fr : Nat) : State :=
  (pageTraffic { s with frames := mdel s.frames fr, windowDirty := mdel s.windowDirty fr } 0 fr true).zeroFrame fr false

theorem startRecall_windowDirty (s : State) (dev : Nat) (e : DirEntry) (ts : List SrcId) (data : Bool) (r : Option LineReq) :
    (startRecall s dev e ts data r).windowDirty = s.windowDirty := by
  unfold startRecall
  exact foldl_keeps State.windowDirty (fun s t => by split <;> rfl) ..

theorem recallFill_windowDirty (s : State) (dev : Nat) : (recallFill s dev).windowDirty = s.windowDirty := by
  unfold recallFill
  refine foldl_keeps State.windowDirty (fun s d => ?_) ..
  dsimp only
  split
  · rfl
  · split
    · rfl
    · exact startRecall_windowDirty ..

theorem recallFill_unheld {s : State} {dev : Nat} (h : heldLines s dev = []) : recallFill s dev = s := by
  rw [recallFill, h]; rfl

theorem zeroFillDone_waits {s : State} {fr : Nat} (h : mget? s.frames fr = some .dirtyFree) (hw : stackWaits s (frameStack fr) = true) :
    zeroFillDone s fr = s := by
  rw [zeroFillDone, h]
  exact if_pos hw

theorem zeroFillDone_plain {s : State} {fr : Nat} (h : mget? s.frames fr = some .dirtyFree) (hw : stackWaits s (frameStack fr) = false)
    (hd : mget? s.windowDirty fr = none) : zeroFillDone s fr = frameZeroed s fr := by
  simp only [zeroFillDone, h, hw, hd]
  rfl

/-- The fill of a frame of a deleted window's page recalls the lines that hosts hold, and waits for them. -/
theorem zeroFillDone_window {s : State} {fr dev : Nat} (h : mget? s.frames fr = some .dirtyFree)
    (hw : stackWaits s (frameStack fr) = false) (hd : mget? s.windowDirty fr = some dev) :
    zeroFillDone s fr = if heldLines (recallFill s dev) dev ≠ [] then recallFill s dev else frameZeroed (recallFill s dev) fr := by
  simp only [zeroFillDone, h, hw, hd, recallFill_windowDirty]
  refine (if_neg Bool.false_ne_true).trans (if_congr ?_ rfl ?_)
  · simp
  · rw [frameZeroed, recallFill_windowDirty]

/-! ### Copies of shared pages (R224) -/

theorem cowDone_eq {s : State} {pid b : Nat} (h : (pageAt s pid).copyOf = some b) :
    cowDone s pid = if (pageMissing s b || pageWaits s b || pageWaits s pid) = true then s else pagesChanged (copyComplete s pid) := by
  rw [cowDone, h]

/-! ### Garbage collection (R307, R310) -/

/-- A live record's place in the new stripe. -/
def recordMoved (k : Nat) (y : State × Nat) (p : Nat) : State × Nat :=
  match (pageAt y.1 p).home with
  | some h => (y.1.modPage p (fun q => { q with home := some { h with stripe := k, at_ := y.2 } }), y.2 + h.units * 4096)
  | none => y

/-- Moving records changes nothing but the pages' homes. -/
theorem foldl_recordMoved_outside (k : Nat) (l : List Nat) (y : State × Nat) :
    (l.foldl (recordMoved k) y).1 = { y.1 with pages := (l.foldl (recordMoved k) y).1.pages } := by
  induction l generalizing y with
  | nil => rfl
  | cons p l ih =>
    have one : (recordMoved k y p).1 = { y.1 with pages := (recordMoved k y p).1.pages } := by
      unfold recordMoved
      split <;> rfl
    rw [List.foldl_cons, ih, one]

/-- The record of a page's home can be read or rebuilt (R310). -/
def homeReadable (s : State) (p : Nat) : Bool :=
  match (pageAt s p).home with
  | some h => !(degraded s h 0).2
  | none => false

/-- The reconstructions that reading the records of some pages takes. -/
def rebuilds (s : State) (pids : List Nat) : Nat :=
  (pids.map (fun p => match (pageAt s p).home with | some h => (degraded s h 0).1 | none => 0)).sum

/-- The bytes of the records of some pages. -/
def homeBytes (s : State) (pids : List Nat) : Nat :=
  (pids.map (fun p => match (pageAt s p).home with | some h => h.units * 4096 | none => 0)).sum

theorem homeBytes_eq (s : State) (pids : List Nat) :
    homeBytes s pids = (pids.map (fun p => ((pageAt s p).home.map (fun h => h.units * 4096)).getD 0)).sum := by
  unfold homeBytes
  congr 2
  funext p
  cases (pageAt s p).home <;> rfl

/-- The state in which the live records of a stripe have moved, and the reconstructions are counted. -/
def recordsMoved (s : State) (live : List Nat) : State :=
  (live.foldl (recordMoved s.nextStripe) (s.bump 0x80038 (rebuilds s live), 0)).1

theorem recordsMoved_outside (s : State) (live : List Nat) :
    recordsMoved s live = { s.bump 0x80038 (rebuilds s live) with pages := (recordsMoved s live).pages } :=
  foldl_recordMoved_outside ..

/-- The stripe that garbage collection makes of live records, as it stands in the state `t`. -/
def newStripe (s t : State) (live : List Nat) : Stripe :=
  { pids := live, bytes := homeBytes s live, first := t.ft.run, closed := true, programmed := true, shares := programMask t }

/-- The live records of a stripe move into a new one, and its blocks are free. -/
def collectInto (s : State) (n : Nat) (live : List Nat) : State :=
  let t := recordsMoved s live
  if live.isEmpty then { t with stripes := mdel t.stripes n }
  else countShares { t with stripes := mput (mdel t.stripes n) s.nextStripe (newStripe s t live), nextStripe := s.nextStripe + 1 }

theorem collectInto_nil (s : State) (n : Nat) : collectInto s n [] = { s.bump 0x80038 0 with stripes := mdel s.stripes n } := rfl

/-- What garbage collection into a new stripe changes of the stripes, and some of what it leaves. -/
theorem collectInto_stripes {s : State} {n : Nat} {live : List Nat} (h : live ≠ []) :
    let t := collectInto s n live
    t.stripes = mput (mdel s.stripes n) s.nextStripe (newStripe s s live) ∧ t.nextStripe = s.nextStripe + 1 ∧
    t.dram = s.dram ∧ t.frames = s.frames ∧ t.objects = s.objects := by
  have full : ¬ live.isEmpty = true := by simpa using h
  simp only [collectInto, if_neg full]
  rw [recordsMoved_outside]
  exact ⟨rfl, rfl, rfl, rfl, rfl⟩

/-- Garbage collection of a programmed stripe none of whose records is being replaced. -/
theorem collect_eq {s : State} {n : Nat} {x : Stripe} (h : mget? s.stripes n = some x) (hp : x.programmed = true)
    (hb : arrayBroken s = false) (hw : ∀ p ∈ x.pids, ∀ h, (pageAt s p).newHome = some h → h.stripe ≠ n) :
    collect s n = if ((livePids s n).filter (homeReadable s)).length ≠ (livePids s n).length then s
      else collectInto s n ((livePids s n).filter (homeReadable s)) := by
  have replaced : ¬ (x.pids.any (fun p => match (pageAt s p).newHome with | some h => h.stripe == n | none => false)) = true := by
    rw [List.any_eq_true]
    rintro ⟨p, hp, e⟩
    cases hn : (pageAt s p).newHome with
    | none => rw [hn] at e; exact Bool.false_ne_true e
    | some h => rw [hn] at e; exact hw p hp h hn (beq_iff_eq.mp e)
  rw [collect, h]
  exact (if_neg (by simp [hp, hb])).trans (if_neg replaced)

theorem homesReadable {s : State} {pids : List Nat} (h : ∀ p ∈ pids, ∃ h, (pageAt s p).home = some h ∧ (degraded s h 0).2 = false) :
    pids.filter (homeReadable s) = pids := by
  rw [List.filter_eq_self]
  intro p hp
  obtain ⟨x, hx, hd⟩ := h p hp
  simp only [homeReadable, hx, hd]
  rfl

end Sys2Proof.Machine

namespace Sys2Proof.Proofs
open Machine

/-- Settles O41: the next move by `nextMove_rank`, flash reads by `flashRead_ends`, zero fills by `zeroFillDone_window`, garbage
collection by `collect_eq` and `collectInto_stripes`, the rest by the branches of their definitions. -/
theorem tieringEngine : Obligations.TieringEngine := by
  intro s
  refine ⟨fun on => (pageMoveStart_eq on).1, fun n x on next => ?move, fun on => congrArg Host.Outcome.next (if_pos on), fun off => ?off,
    fun pid unc h hf hc hh => ?read, fun n x hx => ?close, fun n x hx hc hp hb => ?program, fun n o ho => ?movers,
    fun k f hd => ?zero, fun pid b hb => ?copy, fun n x hx hp hb hw => ?collect⟩
  case move => exact ⟨(pageMoveStart_eq on).2 n x next, fun o ho y hy hs => nextMove_rank next ho hy hs⟩
  case off =>
    have not_on : ¬ domOn s 78 = true := Bool.eq_false_iff.mp off
    exact ⟨congrArg Host.Outcome.next (if_neg not_on), congrArg Host.Outcome.next (if_neg not_on)⟩
  case read =>
    exact ⟨fun waits => congrArg Host.Outcome.next (flashRead_waits waits unc),
      fun goes => congrArg Host.Outcome.next (flashRead_ends hf hc hh goes unc)⟩
  case close => rw [exec_stripeCloseTimeout, execStripeCloseTimeout, hx]
  case program => exact congrArg Host.Outcome.next (stripeProgrammed_eq hx hc hp hb)
  case movers =>
    exact ⟨fun hs hm => congrArg Host.Outcome.next (movesDone_promoting ho hs hm),
      fun hs ht hm => congrArg Host.Outcome.next (movesDone_evicting ho hs ht hm),
      fun f fs hs hm hf => congrArg Host.Outcome.next (movesDone_flushing ho hs hm hf)⟩
  case zero =>
    refine ⟨fun waits => congrArg Host.Outcome.next (zeroFillDone_waits hd waits), fun goes =>
      ⟨fun plain => congrArg Host.Outcome.next (zeroFillDone_plain hd goes plain), fun dev hdev => ⟨fun held => ?_, fun free => ?_⟩⟩⟩
    · exact congrArg Host.Outcome.next ((zeroFillDone_window hd goes hdev).trans (if_pos held))
    · have fill := zeroFillDone_window hd goes hdev
      rw [recallFill_unheld free] at fill
      exact congrArg Host.Outcome.next (fill.trans (if_neg (not_not.mpr free)))
  case copy =>
    exact ⟨fun waits => congrArg Host.Outcome.next ((cowDone_eq hb).trans (if_pos waits)),
      fun goes => congrArg Host.Outcome.next ((cowDone_eq hb).trans (if_neg (Bool.eq_false_iff.mp goes)))⟩
  case collect =>
    have moves := collect_eq hx hp hb hw
    refine ⟨fun dead => ?_, fun live readable => ?_⟩
    · rw [dead] at moves
      exact congrArg Host.Outcome.next moves
    · rw [homesReadable readable, if_neg (not_not.mpr rfl)] at moves
      have stripes := collectInto_stripes (s := s) (n := n.toNat) live
      rw [newStripe, homeBytes_eq] at stripes
      exact ⟨_, congrArg Host.Outcome.next moves, stripes⟩

end Sys2Proof.Proofs

/-! ## The S-engine and the DPU step: results, flags and timing (R85, R88 to R95, R97, R100, R108, R109, R112) -/

namespace Sys2Proof.Machine

/-! ### Results of lanes (R89, R100, R101) -/

theorem foldl_or_ofNat (w : BitVec 9) (fl : List Nat) : fl.foldl (fun w f => w ||| BitVec.ofNat 9 f) w = w ||| orAll fl := by
  induction fl generalizing w with
  | nil => simp [orAll]
  | cons f fl ih =>
    have first : orAll (f :: fl) = BitVec.ofNat 9 f ||| orAll fl := (ih (0 ||| BitVec.ofNat 9 f)).trans (by simp)
    rw [List.foldl_cons, ih, first, BitVec.or_assoc]

theorem orAll_append (fl gl : List Nat) : orAll (fl ++ gl) = orAll fl ||| orAll gl := by
  rw [orAll, List.foldl_append, foldl_or_ofNat, ← orAll]

/-- The core with flags set and actions put off. -/
def emits (c : CoreState) (fl : List Nat) (ps : List Pend) : CoreState :=
  { c with flags := c.flags ||| orAll fl, pend := c.pend ++ ps }

theorem emits_nil (c : CoreState) : emits c [] [] = c := by simp [emits, orAll]

theorem emits_emits (c : CoreState) (f g : List Nat) (p q : List Pend) : emits (emits c f p) g q = emits c (f ++ g) (p ++ q) := by
  simp [emits, orAll_append, BitVec.or_assoc]

/-- An operation that sets flags and puts off actions lane by lane. -/
theorem foldl_emits {step : CoreState → Nat → CoreState} {fl : Nat → Nat} {ps : Nat → List Pend}
    (h : ∀ k l, step k l = emits k [fl l] (ps l)) (ls : List Nat) (c : CoreState) :
    ls.foldl step c = emits c (ls.map fl) (ls.flatMap ps) := by
  induction ls generalizing c with
  | nil => exact (emits_nil c).symm
  | cons l ls ih => rw [List.foldl_cons, ih, h, emits_emits]; rfl

theorem later_setFlags (k : CoreState) (f due : Nat) (a : PendAct) : later (setFlags k f) due a = emits k [f] [⟨due, a⟩] := by
  simp [later, setFlags, emits, orAll]

/-- The results of lanes: their cells are put off for the latency, and their flags are set at once. -/
def lanesPut (c : CoreState) (f : SField) (lat : Nat) (ls : List Nat) (g : Nat → Cell32 × Nat) : CoreState :=
  emits c (ls.map (fun l => (g l).2)) (ls.map (fun l => ⟨c.cyc + lat, .lane f.dest.toNat l (g l).1⟩))

theorem foldl_lanesPut {step : CoreState → Nat → CoreState} {c : CoreState} {f : SField} {lat : Nat} {g : Nat → Cell32 × Nat}
    (h : ∀ k l, step k l = later (setFlags k (g l).2) (c.cyc + lat) (.lane f.dest.toNat l (g l).1)) (ls : List Nat) :
    ls.foldl step c = lanesPut c f lat ls g := by
  rw [foldl_emits (fun k l => (h k l).trans (later_setFlags ..)), lanesPut, ← List.map_eq_flatMap]

theorem laneOp_eq (f : SField) (srcs : List (BitVec 5)) (lat : Nat) (g : Nat → List Nat → Nat × Nat) (c : CoreState) :
    laneOp f srcs lat g c = lanesPut c f lat (activeLanes c f) (fun l => laneResult c srcs (g l) l) := by
  unfold laneOp
  exact foldl_lanesPut (by intros; rfl) _

theorem selectOp_eq (f : SField) (c : CoreState) :
    selectOp f c = lanesPut c f 1 (activeLanes c f) (fun l =>
      let x := if bit (laneMask c (f.srcC.toNat % 4)) l then lane c f.srcA.toNat l else lane c f.srcB.toNat l
      (x, poisonFlag x.poison)) := by
  unfold selectOp
  exact foldl_lanesPut (by intros; rfl) _

theorem accReadOp_eq (f : SField) (c : CoreState) :
    accReadOp f c = lanesPut c f 2 ((activeLanes c f).filter (fun l => decide (l < 8))) (fun l =>
      let x := accCell c (l * 128 + f.imm.toNat % 128)
      (x, poisonFlag x.poison)) := by
  unfold accReadOp
  exact foldl_lanesPut (by intros; rfl) _

/-! ### S instructions that a free S-engine takes -/

section
variable {s : State} {k : CoreId} {i : Instr} {f : SField} (h : sTakes s k i)
include h

/-- An S instruction whose operation gives results of lanes. -/
theorem onS_lanes {op : CoreState → CoreState} {lat : Nat} {ls : List Nat} {g : Nat → Cell32 × Nat}
    (e : op (s.core k.val) = lanesPut (s.core k.val) f lat ls g) (n : Nat) :
    ∃ t, onS i k n op s = .next t ∧ coreBecomes s t k (lanesIssued (s.core k.val) f lat n ls g) := by
  obtain ⟨t, ht, hc⟩ := onS_takes s k i n op h
  rw [e] at hc
  exact ⟨t, ht, hc⟩

/-- A lane operation, issued with its interval. -/
theorem onS_laneOp (n lat : Nat) (srcs : List (BitVec 5)) (g : CoreState → Nat → List Nat → Nat × Nat) :
    ∃ t, onS i k n (fun c => laneOp f srcs lat (g c) c) s = .next t ∧
      coreBecomes s t k (lanesIssued (s.core k.val) f lat n (activeLanes (s.core k.val) f)
        (fun l => laneResult (s.core k.val) srcs (g (s.core k.val) l) l)) :=
  onS_lanes h (op := fun c => laneOp f srcs lat (g c) c) (laneOp_eq f srcs lat (g (s.core k.val)) (s.core k.val)) n

theorem onFpArith_lanes (op : Nat) (srcs : SField → List (BitVec 5)) :
    ∃ t, onFpArith i op srcs k f s = .next t ∧ coreBecomes s t k (lanesIssued (s.core k.val) f 4 1 (activeLanes (s.core k.val) f)
      (laneResult (s.core k.val) (srcs f) (fun xs => fpArith (s.core k.val).acw op (xs.getD 0 0) (xs.getD 1 0) (xs.getD 2 0)))) :=
  onS_laneOp h 1 4 (srcs f) (fun c _ xs => fpArith c.acw op (xs.getD 0 0) (xs.getD 1 0) (xs.getD 2 0))

theorem onFpRoot_lanes (op : Nat) (srcs : SField → List (BitVec 5)) :
    ∃ t, onFpRoot i op srcs k f s = .next t ∧ coreBecomes s t k (lanesIssued (s.core k.val) f 18 8 (activeLanes (s.core k.val) f)
      (laneResult (s.core k.val) (srcs f) (fun xs => fpRoot (s.core k.val).acw op (xs.getD 0 0) (xs.getD 1 0)))) :=
  onS_laneOp h 8 18 (srcs f) (fun c _ xs => fpRoot c.acw op (xs.getD 0 0) (xs.getD 1 0))

theorem onPlain_lanes (srcs : SField → List (BitVec 5)) (g : Nat → Nat → Nat) :
    ∃ t, onPlain i srcs g k f s = .next t ∧ coreBecomes s t k (lanesIssued (s.core k.val) f 2 1 (activeLanes (s.core k.val) f)
      (laneResult (s.core k.val) (srcs f) (fun xs => (g (xs.getD 0 0) (xs.getD 1 0), 0)))) :=
  onS_laneOp h 1 2 (srcs f) (fun _ _ xs => (g (xs.getD 0 0) (xs.getD 1 0), 0))

theorem onInt_lanes {ty : LaneType} (hty : typeInteger ty = true) (name : String) (op lat : Nat) {g : List Nat → Nat × Nat}
    (hg : ∀ xs, intOp (s.core k.val).acw ty op (xs.getD 0 0) (xs.getD 1 0) = g xs) :
    ∃ t, onInt i name op lat k ty f s = .next t ∧ coreBecomes s t k (lanesIssued (s.core k.val) f lat 1 (activeLanes (s.core k.val) f)
      (laneResult (s.core k.val) [f.srcA, f.srcB] g)) := by
  rw [onInt_eq, if_pos hty, ← funext hg]
  exact onS_laneOp h 1 lat [f.srcA, f.srcB] (fun c _ xs => intOp c.acw ty op (xs.getD 0 0) (xs.getD 1 0))

end

/-! ### Minimum, maximum and compares (R91, R108) -/

theorem fpMinMax_one_nan {x y : Nat} (hx : isNan32 x = true) (hy : isNan32 y = false) :
    fpMin32 x y = y ∧ fpMin32 y x = y ∧ fpMax32 x y = y ∧ fpMax32 y x = y := by
  simp [fpMin32, fpMax32, hx, hy]

theorem fpMinMax_two_nan {x y : Nat} (hx : isNan32 x = true) (hy : isNan32 y = true) : fpMin32 x y = nan32 ∧ fpMax32 x y = nan32 := by
  simp [fpMin32, fpMax32, hx, hy]

theorem fpSign_nan {x : Nat} (hx : isNan32 x = true) (y : Nat) : fpAbs32 x = nan32 ∧ fpNeg32 x = nan32 ∧ fpCopySign32 x y = nan32 :=
  ⟨if_pos hx, if_pos hx, if_pos hx⟩

/-- A NaN operand compares false but for unordered. -/
theorem cmpOp_nan {x y : Nat} (h : (isNan32 x || isNan32 y) = true) :
    cmpOp .fp32 0 x y = false ∧ cmpOp .fp32 1 x y = false ∧ cmpOp .fp32 2 x y = false ∧ cmpOp .fp32 3 x y = true := by
  have no : (!isNan32 x && !isNan32 y) = false := by rw [← Bool.not_or, h]; rfl
  have eq : fpEq32 x y = false := by rw [fpEq32, no, Bool.false_and]
  have lt : fpLt32 x y = false := by rw [fpLt32, no, Bool.false_and, Bool.false_and]
  exact ⟨eq, lt, by rw [cmpOp, fpLe32, eq, lt]; rfl, h⟩

/-- The bits of a number put together from bits of rising places. -/
theorem testBit_foldl_add_two_pow (p : Nat → Bool) (i : Nat) (ls : List Nat) (v : Nat) (rises : ls.Pairwise (· < ·))
    (low : ∀ l ∈ ls, v < 2 ^ l) :
    (ls.foldl (fun v l => if p l then v + 2 ^ l else v) v).testBit i = (v.testBit i || (ls.contains i && p i)) := by
  induction ls generalizing v with
  | nil => simp
  | cons a ls ih =>
    obtain ⟨first, rises⟩ := List.pairwise_cons.mp rises
    obtain ⟨lowA, low⟩ := List.forall_mem_cons.mp low
    rw [List.foldl_cons, List.contains_cons]
    cases hp : p a with
    | false =>
      rw [if_neg Bool.false_ne_true, ih v rises low]
      by_cases e : i = a
      · subst e; simp [hp]
      · simp only [beq_eq_false_iff_ne.mpr e, Bool.false_or]
    | true =>
      have next : ∀ l ∈ ls, v + 2 ^ a < 2 ^ l := fun l hl => by
        have := Nat.pow_le_pow_right (Nat.zero_lt_two) (first l hl)
        rw [Nat.succ_eq_add_one, Nat.pow_succ] at this
        omega
      have sum : v + 2 ^ a = 2 ^ a ||| v := by
        have := Nat.two_pow_add_eq_or_of_lt lowA 1
        rwa [Nat.mul_one, Nat.add_comm] at this
      rw [if_pos rfl, ih _ rises next, sum, Nat.testBit_or, Nat.testBit_two_pow]
      by_cases e : i = a
      · subst e; simp [hp]
      · simp only [beq_eq_false_iff_ne.mpr e, decide_eq_false (Ne.symm e), Bool.false_or]

theorem activeLanes_rise (c : CoreState) (f : SField) : (activeLanes c f).Pairwise (· < ·) :=
  List.pairwise_lt_range.filter _

/-- The outcomes of a compare as bits of a mask. -/
def compareMask (c : CoreState) (f : SField) (ty : LaneType) (op : Nat) : Word :=
  BitVec.ofNat 32 ((activeLanes c f).foldl (fun v l =>
    if cmpOp ty op (lane c f.srcA.toNat l).val.toNat (lane c f.srcB.toNat l).val.toNat then v + 2 ^ l else v) 0)

theorem compareMask_getLsbD (c : CoreState) (f : SField) (ty : LaneType) (op : Nat) {l : Nat} (h : l < 32) :
    (compareMask c f ty op).getLsbD l = ((activeLanes c f).contains l &&
      cmpOp ty op (lane c f.srcA.toNat l).val.toNat (lane c f.srcB.toNat l).val.toNat) := by
  have fold := testBit_foldl_add_two_pow
    (fun l => cmpOp ty op (lane c f.srcA.toNat l).val.toNat (lane c f.srcB.toNat l).val.toNat) l (activeLanes c f) 0
    (activeLanes_rise c f) (fun l _ => Nat.two_pow_pos l)
  rw [compareMask, BitVec.getLsbD_ofNat, fold, Nat.zero_testBit, Bool.false_or]
  simp [h]

/-- The core after a compare of its active lanes: bits of the destination mask are put off for two cycles. -/
def maskIssued (c : CoreState) (f : SField) (v : Word) : CoreState :=
  { c with
    sBusy := c.cyc + 1
    turn := .x
    flags := c.flags ||| BitVec.ofNat 9 (poisonFlag ((activeLanes c f).any (fun l =>
      (lane c f.srcA.toNat l).poison || (lane c f.srcB.toNat l).poison)))
    pend := c.pend ++ [⟨c.cyc + 2, .mask (f.dest.toNat % 4) (BitVec.ofNat 32 (laneMask c f.mask.toNat)) v⟩] }

theorem onCompare_mask {s : State} {k : CoreId} {i : Instr} {f : SField} {ty : LaneType} (h : sTakes s k i)
    (hty : typeCompares ty = true) (name : String) (op : Nat) :
    ∃ t v, onCompare i name op k ty f s = .next t ∧ coreBecomes s t k (maskIssued (s.core k.val) f v) ∧
      ∀ l < 32, v.getLsbD l = ((activeLanes (s.core k.val) f).contains l &&
        cmpOp ty op (lane (s.core k.val) f.srcA.toNat l).val.toNat (lane (s.core k.val) f.srcB.toNat l).val.toNat) := by
  rw [onCompare_eq, if_pos hty]
  obtain ⟨t, ht, hc⟩ := onS_takes s k i 1 (compareOp f ty op) h
  exact ⟨t, compareMask (s.core k.val) f ty op, ht, hc, fun l hl => compareMask_getLsbD _ f ty op hl⟩

end Sys2Proof.Machine

namespace Sys2Proof.Proofs
open Machine

/-- Settles O1: each operation is one `onFpArith` or `onFpRoot`, a lane operation. -/
theorem fpArithmeticResults : Obligations.FpArithmeticResults := by
  intro s k f
  simp only [List.forall_mem_cons]
  exact ⟨fun h => onFpArith_lanes h 0 srcAB, fun h => onFpArith_lanes h 1 srcAB, fun h => onFpArith_lanes h 2 srcAB,
    fun h => onFpArith_lanes h 3 (fun f => [f.srcA, f.srcB, f.srcC]), fun h => onFpRoot_lanes h 0 srcAB,
    fun h => onFpRoot_lanes h 1 srcA1, fun h => onFpRoot_lanes h 2 srcA1, fun h => onFpRoot_lanes h 3 srcA1, List.forall_mem_nil _⟩

/-- Settles O2: the operations by `onPlain_lanes` and `onCompare_mask`, the mask's bits by `compareMask_getLsbD`, the NaN
operands by the branches of the operations. -/
theorem selectionAndCompareResults : Obligations.SelectionAndCompareResults := by
  refine ⟨⟨fun s k f => ?plain, fun x y => fpMinMax_one_nan, fun x y => fpMinMax_two_nan, by decide +kernel, by decide +kernel,
    by decide +kernel, by decide +kernel, fun x => fpSign_nan⟩, fun s k f ty hty => ?compare, fun x y => cmpOp_nan, fun x y hx hy => ?_⟩
  case plain =>
    simp only [List.forall_mem_cons]
    exact ⟨fun h => onPlain_lanes h srcAB fpMin32, fun h => onPlain_lanes h srcAB fpMax32,
      fun h => onPlain_lanes h srcA1 (fun x _ => fpAbs32 x), fun h => onPlain_lanes h srcA1 (fun x _ => fpNeg32 x),
      fun h => onPlain_lanes h srcAB fpCopySign32, List.forall_mem_nil _⟩
  case compare =>
    have may : typeCompares ty = true := by
      cases ty with
      | w64 => exact absurd rfl hty
      | _ => rfl
    simp only [List.forall_mem_cons]
    exact ⟨fun h => onCompare_mask h may _ 0, fun h => onCompare_mask h may _ 1, fun h => onCompare_mask h may _ 2,
      fun h => onCompare_mask h may _ 3, List.forall_mem_nil _⟩
  · exact (congrArg₂ or hx hy : (isNan32 x || isNan32 y) = false)

end Sys2Proof.Proofs

/-! ### Integer and bitwise operations (R85, R92) -/

namespace Sys2Proof.Machine

/-- What leaves its range saturates at the limit passed, or wraps. -/
theorem intResult_eq (signed isat : Bool) (v : Int) :
    intResult signed isat v =
      if v < (if signed then -0x80000000 else 0) then
        (if isat then wrapN 32 (if signed then -0x80000000 else 0) else wrapN 32 v, fIntOvf)
      else if (if signed then 0x7FFFFFFF else 0xFFFFFFFF) < v then
        (if isat then wrapN 32 (if signed then 0x7FFFFFFF else 0xFFFFFFFF) else wrapN 32 v, fIntOvf)
      else (wrapN 32 v, 0) := by
  cases isat <;> rfl

section
variable {ty : LaneType} (h : ty = .int32 ∨ ty = .uint32)
include h

theorem typeInteger_of_cases : typeInteger ty = true := by
  rcases h with rfl | rfl <;> rfl

theorem intVal_eq (x : Nat) : intVal ty x = if decide (ty = .int32) then sgn32 x else (x : Int) := by
  rcases h with rfl | rfl <;> rfl

theorem signed_eq : (ty != .uint32) = decide (ty = .int32) := by
  rcases h with rfl | rfl <;> rfl

end

theorem popCount_eq (x : Word) : popCount x.toNat = ((List.range 32).filter (fun i => x.getLsbD i)).length := by
  have count : ∀ (ls : List Nat) (n : Nat), ls.foldl (fun n i => n + b2n (bit x.toNat i)) n = n + (ls.filter (fun i => x.getLsbD i)).length := by
    intro ls
    induction ls with
    | nil => intro n; rfl
    | cons i ls ih =>
      intro n
      have same : bit x.toNat i = x.getLsbD i := bit_eq_testBit ..
      rw [List.foldl_cons, ih, same]
      cases hi : x.getLsbD i <;> simp [hi, b2n]; omega
  exact (count _ 0).trans (Nat.zero_add _)

theorem bitOp_popCount (x y : Word) : bitOp 8 x y = BitVec.ofNat 32 ((List.range 32).filter (fun i => x.getLsbD i)).length :=
  congrArg (BitVec.ofNat 32) (popCount_eq x)

/-- The result of a bitwise operation in a lane: no flag but that of poison. -/
theorem onBit_lanes {s : State} {k : CoreId} {i : Instr} {f : SField} (h : sTakes s k i) (op : Nat) (two : Bool) {g : Word → Word → Word}
    (hg : ∀ x y, bitOp op x y = g x y) :
    ∃ t, onBit i op (if two then srcAB else srcA1) k f s = .next t ∧ coreBecomes s t k
      (lanesIssued (s.core k.val) f 2 1 (activeLanes (s.core k.val) f) (fun l =>
        let x := lane (s.core k.val) f.srcA.toNat l
        let y := if two then lane (s.core k.val) f.srcB.toNat l else {}
        (⟨g x.val y.val, x.poison || y.poison⟩, poisonFlag (x.poison || y.poison)))) := by
  obtain ⟨t, ht, hc⟩ := onPlain_lanes (f := f) h (if two then srcAB else srcA1) (fun x y => (bitOp op (lowWord x) (lowWord y)).toNat)
  refine ⟨t, ht, ?_⟩
  have lanes : laneResult (s.core k.val) ((if two then srcAB else srcA1) f)
      (fun xs => ((bitOp op (lowWord (xs.getD 0 0)) (lowWord (xs.getD 1 0))).toNat, 0)) = fun l =>
        let x := lane (s.core k.val) f.srcA.toNat l
        let y := if two then lane (s.core k.val) f.srcB.toNat l else {}
        (⟨g x.val y.val, x.poison || y.poison⟩, poisonFlag (x.poison || y.poison)) := by
    funext l
    cases two <;> simp [laneResult, srcAB, srcA1, lowWord, hg, orF]
  rwa [lanes] at hc

end Sys2Proof.Machine

namespace Sys2Proof.Proofs
open Machine

/-- Settles O3: the operations by `onInt_lanes` and `onBit_lanes`, the range of add and subtract by `intResult_eq`. -/
theorem integerResults : Obligations.IntegerResults := by
  refine ⟨fun s k f ty hty => ?int, fun s k f => ?bitwise⟩
  case int =>
    have may := typeInteger_of_cases hty
    simp only [List.forall_mem_cons]
    refine ⟨fun h => onInt_lanes h may _ 0 2 (fun xs => ?add), fun h => onInt_lanes h may _ 1 2 (fun xs => ?subtract),
      fun h => onInt_lanes h may _ 2 4 (fun xs => ?low), fun h => onInt_lanes h may _ 3 4 (fun xs => ?high),
      fun h => onInt_lanes h may _ 4 2 (fun xs => ?minimum), fun h => onInt_lanes h may _ 5 2 (fun xs => ?maximum), List.forall_mem_nil _⟩
    case add | subtract => simp only [intOp, intVal_eq hty, signed_eq hty, intResult_eq]
    case low | high | minimum | maximum => simp only [intOp, intVal_eq hty]
  case bitwise =>
    simp only [List.forall_mem_cons]
    exact ⟨fun h => onBit_lanes h 0 true (fun _ _ => rfl), fun h => onBit_lanes h 1 true (fun _ _ => rfl),
      fun h => onBit_lanes h 2 true (fun _ _ => rfl), fun h => onBit_lanes h 3 false (fun _ _ => rfl),
      fun h => onBit_lanes h 4 true (fun _ _ => rfl), fun h => onBit_lanes h 5 true (fun _ _ => rfl),
      fun h => onBit_lanes h 6 true (fun _ _ => rfl), fun h => onBit_lanes h 7 true (fun _ _ => rfl),
      fun h => onBit_lanes h 8 false bitOp_popCount, List.forall_mem_nil _⟩

end Sys2Proof.Proofs

/-! ### Select, conversions and MX quantise (R95, R97, R99, R109) -/

namespace Sys2Proof.Machine

theorem countSr_eq (c : CoreState) : countSr c = { c with srCount := if acwCvt c.acw = 4 then c.srCount + 1 else c.srCount } := by
  unfold countSr
  split <;> rfl

/-- A lane operation that counts under stochastic rounding. -/
theorem onS_laneOp_counts {s : State} {k : CoreId} {i : Instr} {f : SField} (h : sTakes s k i) (n lat : Nat) (srcs : List (BitVec 5))
    (g : CoreState → Nat → List Nat → Nat × Nat) :
    ∃ t, onS i k n (fun c => countSr (laneOp f srcs lat (g c) c)) s = .next t ∧
      coreBecomes s t k (countSr (lanesIssued (s.core k.val) f lat n (activeLanes (s.core k.val) f)
        (fun l => laneResult (s.core k.val) srcs (g (s.core k.val) l) l))) := by
  obtain ⟨t, ht, hc⟩ := onS_takes s k i n (fun c => countSr (laneOp f srcs lat (g c) c)) h
  rw [laneOp_eq, countSr_eq] at hc
  rw [countSr_eq]
  exact ⟨t, ht, hc⟩

theorem foldl_later (due : Nat) (act : Nat → PendAct) (ls : List Nat) (c : CoreState) :
    ls.foldl (fun k l => later k due (act l)) c = { c with pend := c.pend ++ ls.map (fun l => ⟨due, act l⟩) } := by
  induction ls generalizing c with
  | nil => simp
  | cons l ls ih => rw [List.foldl_cons, ih]; simp [later]

/-- An MX quantise puts off the words of the block that the mask enables. -/
theorem onS_quantiseOp {s : State} {k : CoreId} {i : Instr} (h : sTakes s k i) (f : SField) (fmt : Fmt × Int) :
    let c := s.core k.val
    let xs := (List.range 32).map (fun l => ((lane c f.srcA.toNat l).val.toNat, (activeLanes c f).contains l))
    let q := mxQuantise fmt.1 fmt.2 (fun l => cvtRnd c.acw (laneRandom s c l)) xs
    let p := (activeLanes c f).any (fun l => (lane c f.srcA.toNat l).poison)
    let blk := (List.range 32).foldl (fun v i => v + q.2.1.getD i 0 * 2 ^ (fmt.1.width * i)) 0
    ∃ t, onS i k 2 (quantiseOp s f fmt) s = .next t ∧ coreBecomes s t k (countSr { c with
      sBusy := c.cyc + 2
      turn := .x
      flags := c.flags ||| BitVec.ofNat 9 (orF q.2.2 (poisonFlag p))
      pend := c.pend ++ (activeLanes c f).map (fun l => ⟨c.cyc + 8, .lane f.dest.toNat l
        ⟨BitVec.ofNat 32 (bits blk (32 * l) 32 + (if l = 31 then q.1 else 0)), p⟩⟩) }) := by
  intro c xs q p blk
  have words : quantiseOp s f fmt c = _ := foldl_later (c.cyc + 8)
    (fun l => .lane f.dest.toNat l ⟨BitVec.ofNat 32 (bits blk (32 * l) 32 + (if l = 31 then q.1 else 0)), p⟩)
    (activeLanes c f) (countSr (setFlags c (orF q.2.2 (poisonFlag p))))
  obtain ⟨t, ht, hc⟩ := onS_takes s k i 2 (quantiseOp s f fmt) h
  rw [words, countSr_eq] at hc
  rw [countSr_eq]
  exact ⟨t, ht, hc⟩

end Sys2Proof.Machine

namespace Sys2Proof.Proofs
open Machine

/-- Settles O4: select by `selectOp_eq`, the conversions by `onS_laneOp_counts`, MX quantise by `onS_quantiseOp`. -/
theorem selectConvertQuantise : Obligations.SelectConvertQuantise := by
  intro s k f c sr
  refine ⟨fun hc h => ?select, ?convert, fun fmt hf => ?quantise⟩
  case select =>
    have code : f.srcC.toNat / 4 = 0 := Nat.div_eq_of_lt hc
    have e := selectOp_eq f c
    rw [Nat.mod_eq_of_lt hc] at e
    rw [exec_select, execSelect, if_pos code]
    exact onS_lanes h e 1
  case convert =>
    refine List.forall_mem_cons.mpr ⟨fun hf h => ?_, List.forall_mem_cons.mpr ⟨fun hf h => ?_, List.forall_mem_nil _⟩⟩
    · rw [exec_convertFromFp32, execConvertFromFp32, if_pos ((cvtFrom_isSome _).trans hf)]
      exact onS_laneOp_counts h 1 4 [f.srcA] (fun c l xs => (cvtFrom c.acw f.srcC.toNat (xs.getD 0 0) (laneRandom s c l)).getD (0, 0))
    · rw [exec_convertToFp32, execConvertToFp32, if_pos ((cvtTo_isSome _).trans hf)]
      exact onS_laneOp_counts h 1 4 [f.srcA] (fun c l xs => (cvtTo c.acw f.srcC.toNat (xs.getD 0 0) (laneRandom s c l)).getD (0, 0))
  case quantise =>
    intro xs q p blk h
    rw [exec_mxQuantise, execMxQuantise, hf]
    exact onS_quantiseOp h f fmt

end Sys2Proof.Proofs

/-! ### Reductions and accumulators (R88, R93, R109) -/

namespace Sys2Proof.Machine

/-- The value of place `i` after some levels of a tree of pairs. -/
def levelTree {α : Type} (g : α → α → α) (enter : Nat → α) : Nat → Nat → α
  | 0, i => enter i
  | d + 1, i => g (levelTree g enter d (2 * i)) (levelTree g enter d (2 * i + 1))

theorem pairLevel_range {α : Type} (g : α → α → α) (e : Nat → α) (n : Nat) :
    pairLevel g ((List.range (2 * n)).map e) = (List.range n).map (fun i => g (e (2 * i)) (e (2 * i + 1))) := by
  induction n generalizing e with
  | zero => rfl
  | succ n ih =>
    rw [Nat.mul_succ, List.range_succ_eq_map, List.range_succ_eq_map, List.range_succ_eq_map]
    simp only [List.map_cons, List.map_map, pairLevel]
    exact congrArg _ (ih _)

/-- Five levels over 32 places leave one value. -/
theorem pairLevel_five {α : Type} (g : α → α → α) (e : Nat → α) (d : α) :
    (pairLevel g (pairLevel g (pairLevel g (pairLevel g (pairLevel g ((List.range 32).map e)))))).headD d = levelTree g e 5 0 := by
  have level : ∀ n j, pairLevel g ((List.range (2 * n)).map (levelTree g e j)) = (List.range n).map (levelTree g e (j + 1)) :=
    fun n j => pairLevel_range g (levelTree g e j) n
  have first : (List.range 32).map e = (List.range 32).map (levelTree g e 0) := rfl
  rw [first, level 16, level 8, level 4, level 2, level 1]
  rfl

theorem levelTree_five {α : Type} (g : α → α → α) (enter : Nat → α) :
    let v1 := fun i => g (enter (2 * i)) (enter (2 * i + 1))
    let v2 := fun i => g (v1 (2 * i)) (v1 (2 * i + 1))
    let v3 := fun i => g (v2 (2 * i)) (v2 (2 * i + 1))
    let v4 := fun i => g (v3 (2 * i)) (v3 (2 * i + 1))
    levelTree g enter 5 0 = g (v4 0) (v4 1) := rfl

/-- What a lane enters a reduction as (R93). -/
def reduceEnter (c : CoreState) (f : SField) (ty : LaneType) (op l : Nat) : Nat × Nat :=
  if (activeLanes c f).contains l then
    (if ty = .fp32 then ftzIn (acwFtz c.acw) (lane c f.srcA.toNat l).val.toNat else (lane c f.srcA.toNat l).val.toNat, 0)
  else (reduceFill ty op, 0)

/-- The core with the value of a reduction put off to lane 0, where its mask enables that lane. -/
def reducePut (c : CoreState) (f : SField) (v : Nat × Nat) (p : Bool) : CoreState :=
  { c with
    flags := c.flags ||| BitVec.ofNat 9 (orF v.2 (poisonFlag p))
    pend := c.pend ++ (if (activeLanes c f).contains 0 then [⟨c.cyc + 12, .lane f.dest.toNat 0 ⟨BitVec.ofNat 32 v.1, p⟩⟩] else []) }

theorem reduceOp_eq (f : SField) (ty : LaneType) (op : Nat) (c : CoreState) :
    reduceOp f ty op c = reducePut c f (levelTree (reduceStep c.acw ty op) (reduceEnter c f ty op) 5 0)
      ((activeLanes c f).any (fun l => (lane c f.srcA.toNat l).poison)) := by
  have put : ∀ v p, (if (activeLanes c f).contains 0 then
      later (setFlags c (orF v.2 (poisonFlag p))) (c.cyc + 12) (.lane f.dest.toNat 0 ⟨BitVec.ofNat 32 v.1, p⟩)
      else setFlags c (orF v.2 (poisonFlag p))) = reducePut c f v p := by
    intro v p
    unfold reducePut
    split
    · rfl
    · rw [List.append_nil]; rfl
  rw [← pairLevel_five _ _ (0, 0), ← put]
  rfl

/-- A lane reduction that a free S-engine takes. -/
theorem onReduce_takes (s : State) (k : CoreId) (f : SField) {ty : LaneType} (hty : typeReduces ty = true) (i : Instr) (name : String)
    (op : Nat) :
    let c := s.core k.val
    let enter := fun l => if (activeLanes c f).contains l then
        (if ty = .fp32 then ftzIn (acwFtz c.acw) (lane c f.srcA.toNat l).val.toNat else (lane c f.srcA.toNat l).val.toNat, 0)
      else (reduceFill ty op, 0)
    let g := reduceStep c.acw ty op
    let v1 := fun i => g (enter (2 * i)) (enter (2 * i + 1))
    let v2 := fun i => g (v1 (2 * i)) (v1 (2 * i + 1))
    let v3 := fun i => g (v2 (2 * i)) (v2 (2 * i + 1))
    let v4 := fun i => g (v3 (2 * i)) (v3 (2 * i + 1))
    let v := g (v4 0) (v4 1)
    let p := (activeLanes c f).any (fun l => (lane c f.srcA.toNat l).poison)
    sTakes s k i → ∃ t, onReduce i name op k ty f s = .next t ∧ coreBecomes s t k
      { c with
        sBusy := c.cyc + 2
        turn := .x
        flags := c.flags ||| BitVec.ofNat 9 (orF v.2 (poisonFlag p))
        pend := c.pend ++ (if (activeLanes c f).contains 0 then [⟨c.cyc + 12, .lane f.dest.toNat 0 ⟨BitVec.ofNat 32 v.1, p⟩⟩]
          else []) } := by
  intro c enter g v1 v2 v3 v4 v p h
  have value : levelTree (reduceStep c.acw ty op) (reduceEnter c f ty op) 5 0 = v := levelTree_five g enter
  obtain ⟨t, ht, hc⟩ := onS_takes s k i 2 (reduceOp f ty op) h
  rw [reduceOp_eq, value] at hc
  rw [onReduce_eq, if_pos hty]
  exact ⟨t, ht, hc⟩

theorem flatMap_filter {α β : Type} (p : α → Bool) (g : α → List β) (ls : List α) :
    (ls.filter p).flatMap g = ls.flatMap (fun l => if p l then g l else []) := by
  induction ls with
  | nil => rfl
  | cons l ls ih => cases hl : p l <;> simp [hl, ih]

/-- An accumulator write of the lanes of the eight DPUs, but where the T-engine updates the entry in this cycle. -/
theorem accWriteOp_eq (f : SField) (c : CoreState) :
    accWriteOp f c = emits c (((activeLanes c f).filter (fun l => decide (l < 8))).map (fun l => poisonFlag (lane c f.srcA.toNat l).poison))
      (((activeLanes c f).filter (fun l => decide (l < 8) && !accNow c (l * 128 + f.imm.toNat % 128))).flatMap (fun l =>
        [⟨c.cyc + 1, .accIn (l * 128 + f.imm.toNat % 128) (lane c f.srcA.toNat l)⟩,
         ⟨c.cyc + 2, .accSet (l * 128 + f.imm.toNat % 128) (lane c f.srcA.toNat l)⟩])) := by
  have dpus : (activeLanes c f).filter (fun l => decide (l < 8) && !accNow c (l * 128 + f.imm.toNat % 128)) =
      ((activeLanes c f).filter (fun l => decide (l < 8))).filter (fun l => !accNow c (l * 128 + f.imm.toNat % 128)) := by
    rw [List.filter_filter]
    exact congrArg (List.filter · _) (funext fun l => Bool.and_comm ..)
  rw [dpus, flatMap_filter]
  refine foldl_emits (fun k l => ?_) _ c
  dsimp only
  cases accNow c (l * 128 + f.imm.toNat % 128) with
  | true => simp [setFlags, emits, orAll]
  | false => simp [later, setFlags, emits, orAll]

end Sys2Proof.Machine

namespace Sys2Proof.Proofs
open Machine

/-- Settles O5: the tree of a reduction by `onReduce_takes`, accumulator reads by `accReadOp_eq`, writes by `accWriteOp_eq`. -/
theorem reductionsAndAccumulators : Obligations.ReductionsAndAccumulators := by
  intro s k f c
  refine ⟨fun ty hty => ?reduce, fun h => onS_lanes h (accReadOp_eq f c) 1, fun h => ?write⟩
  case reduce =>
    have may : typeReduces ty = true := by rcases hty with rfl | rfl <;> rfl
    exact List.forall_mem_cons.mpr ⟨onReduce_takes s k f may (.reduceSum k ty f) "REDUCE_SUM" 0, List.forall_mem_cons.mpr
      ⟨onReduce_takes s k f may (.reduceMinimum k ty f) "REDUCE_MINIMUM" 1, List.forall_mem_cons.mpr
        ⟨onReduce_takes s k f may (.reduceMaximum k ty f) "REDUCE_MAXIMUM" 2, List.forall_mem_nil _⟩⟩⟩
  case write =>
    obtain ⟨t, ht, becomes⟩ := onS_takes s k (.accumulatorWrite k f) 1 (accWriteOp f) h
    rw [accWriteOp_eq] at becomes
    exact ⟨t, ht, becomes⟩

end Sys2Proof.Proofs

/-! ### Atomics of a pattern (R94, R109, R112) -/

namespace Sys2Proof.Machine

/-- An atomic that a free S-engine takes: its active lanes, or lane pairs, one after another. -/
theorem onAtomic_takes {s : State} {k : CoreId} {i : Instr} (h : sTakes s k i) (op : Nat) (ty : LaneType) (f : SField) :
    ∃ t, onAtomic i op k ty f s = .next t ∧ coreBecomes s t k
      { ((activeLanes (s.core k.val) f).filter (fun l => ty != .w64 || l % 2 == 0)).foldl
          (fun x l => atomicLane f ty op (s.core k.val) x l) (s.core k.val)
        with sBusy := (s.core k.val).cyc + 32, turn := .x } :=
  onS_takes s k i 32 (atomicS f ty op) h

/-! #### Bytes of the bobbin (R114, R118) -/

theorem leBytes_getD {n i : Nat} (h : i < n) (x : Nat) : (leBytes n x).getD i 0 = BitVec.ofNat 8 (x / 256 ^ i) := by
  induction n generalizing i x with
  | zero => exact absurd h (Nat.not_lt_zero i)
  | succ n ih =>
    cases i with
    | zero => simp [leBytes]
    | succ i => rw [leBytes, List.getD_cons_succ, ih (Nat.lt_of_succ_lt_succ h), Nat.div_div_eq_div_mul, Nat.pow_succ']

/-- Bytes that end within the bobbin are stored one after another. -/
theorem bobPut_bob (k : CoreState) {a : Nat} {bs : List Byte} (h : a + bs.length ≤ bobSize) : (bobPut k a bs).bob = cwrites k.bob a bs := by
  have stored : ∀ (bs : List Byte) (a : Nat) (m : List Host.Cell), a + bs.length ≤ bobSize →
      (List.range bs.length).foldl (fun m i => cput m ((a + i) % bobSize) (bs.getD i 0)) m = cwrites m a bs := by
    intro bs
    induction bs with
    | nil => intro a m _; rfl
    | cons b bs ih =>
      intro a m hb
      rw [List.length_cons] at hb ⊢
      rw [List.range_succ_eq_map, List.foldl_cons, List.foldl_map, cwrites, ← ih (a + 1) _ (by omega)]
      have place : a % bobSize = a := Nat.mod_eq_of_lt (by omega)
      simp only [Nat.add_zero, place, List.getD_cons_zero, List.getD_cons_succ, Nat.succ_eq_add_one, Nat.add_assoc, Nat.add_comm 1]
  exact stored bs a k.bob h

/-- The marks that a write of bytes sets leave the bytes as written, and what is put off. -/
theorem bobWrite_bob (k : CoreState) (a : Nat) (bs : List Byte) (ps : List Bool) : (bobWrite k a bs ps).bob = (bobPut k a bs).bob := by
  refine foldl_keeps CoreState.bob (fun x i => ?_) _ _
  dsimp only
  split <;> rfl

theorem bobWrite_pend (k : CoreState) (a : Nat) (bs : List Byte) (ps : List Bool) : (bobWrite k a bs ps).pend = k.pend := by
  refine foldl_keeps CoreState.pend (fun x i => ?_) _ (bobPut k a bs)
  dsimp only
  split <;> rfl

/-- Bytes within one unmarked granule read as they are stored. -/
theorem bobRead_unmarked {k : CoreState} {a n : Nat} (hu : k.undef = false) (hm : bobMarked k a = false) (ha : a + n ≤ bobSize)
    (hg : a % 64 + n ≤ 64) : bobRead k a n = ((List.range n).map (fun i => cget k.bob (a + i)), false) := by
  have inside : ∀ i < n, (a + i) % bobSize = a + i := fun i hi => Nat.mod_eq_of_lt (by omega)
  have marked : ∀ i < n, bobMarked k (a + i) = false := by
    intro i hi
    have start := inside 0 (by omega)
    rw [Nat.add_zero] at start
    have granule : (a + i) % bobSize / 64 = a % bobSize / 64 := by rw [inside i hi, start]; omega
    rw [bobMarked, granule]
    exact hm
  refine Prod.ext (List.map_congr_left fun i hi => ?_) ?_
  · have hi := List.mem_range.mp hi
    rw [marked i hi, if_neg Bool.false_ne_true, bobByte, hu, inside i hi, if_neg Bool.false_ne_true]
  · simpa [bobRead] using marked

/-! #### One lane -/

/-- The bytes of an atomic's word. -/
def atomicBytes (ty : LaneType) : Nat := if ty = .w64 then 8 else 4

/-- The aligned address that a lane names. -/
def atomicAddr (c : CoreState) (f : SField) (ty : LaneType) (l : Nat) : Nat :=
  (lane c f.srcA.toNat l).val.toNat % bobSize / atomicBytes ty * atomicBytes ty

/-- An operand of an atomic: a lane, or for 64 bits a pair of lanes. -/
def atomicWord (c : CoreState) (ty : LaneType) (l : Nat) (q : BitVec 5) : Nat :=
  (lane c q.toNat l).val.toNat + (if atomicBytes ty = 8 then (lane c q.toNat (l + 1)).val.toNat * 0x100000000 else 0)

def atomicWordPoison (c : CoreState) (ty : LaneType) (l : Nat) (q : BitVec 5) : Bool :=
  (lane c q.toNat l).poison || (atomicBytes ty == 8 && (lane c q.toNat (l + 1)).poison)

/-- The poison that an atomic of a lane carries: of its granule, its address and the operands that it takes. -/
def atomicPoison (c x : CoreState) (f : SField) (ty : LaneType) (op l : Nat) : Bool :=
  (bobRead x (atomicAddr c f ty l) (atomicBytes ty)).2 || (lane c f.srcA.toNat l).poison || atomicWordPoison c ty l f.srcB ||
    (op == 9 && atomicWordPoison c ty l f.srcC)

/-- The word that a lane finds. -/
def atomicOld (c x : CoreState) (f : SField) (ty : LaneType) (l : Nat) : Nat :=
  leNat (bobRead x (atomicAddr c f ty l) (atomicBytes ty)).1

/-- The word that a lane leaves. -/
def atomicNew (c x : CoreState) (f : SField) (ty : LaneType) (op l : Nat) : Nat :=
  (atomicOp op (8 * atomicBytes ty) (atomicOld c x f ty l) (atomicWord c ty l f.srcB) (atomicWord c ty l f.srcC)).1

theorem atomicBytes_cases (ty : LaneType) : atomicBytes ty = 4 ∨ atomicBytes ty = 8 := by
  unfold atomicBytes
  split <;> simp

/-- The core with a lane's word stored, and the flags set. -/
def atomicStored (c x : CoreState) (f : SField) (ty : LaneType) (op l : Nat) : CoreState :=
  let n := atomicBytes ty
  setFlags (bobWrite (engineTouch x (c.cyc + l) (atomicAddr c f ty l) n true) (atomicAddr c f ty l)
      (leBytes n (atomicNew c x f ty op l)) (List.replicate n (atomicPoison c x f ty op l)))
    (orF (atomicFlags ty op (atomicOld c x f ty l) (atomicWord c ty l f.srcB)) (poisonFlag (atomicPoison c x f ty op l)))

theorem atomicStored_bob (c x : CoreState) (f : SField) (ty : LaneType) (op l : Nat) :
    (atomicStored c x f ty op l).bob = (bobPut x (atomicAddr c f ty l) (leBytes (atomicBytes ty) (atomicNew c x f ty op l))).bob :=
  bobWrite_bob ..

theorem atomicStored_pend (c x : CoreState) (f : SField) (ty : LaneType) (op l : Nat) : (atomicStored c x f ty op l).pend = x.pend :=
  bobWrite_pend ..

/-- The old word that returns to the destination lane, or to its pair. -/
def atomicReturns (c x : CoreState) (f : SField) (ty : LaneType) (op l : Nat) : List Pend :=
  (List.range (atomicBytes ty / 4)).map (fun i =>
    ⟨c.cyc + 36, .lane f.dest.toNat (l + i) ⟨BitVec.ofNat 32 (atomicOld c x f ty l / 0x100000000 ^ i), atomicPoison c x f ty op l⟩⟩)

theorem atomicLane_eq (c x : CoreState) (f : SField) (ty : LaneType) (op l : Nat) :
    atomicLane f ty op c x l = { atomicStored c x f ty op l with pend := x.pend ++ atomicReturns c x f ty op l } := by
  have returns : ∀ k : CoreState, k.pend = x.pend →
      (if atomicBytes ty = 8 then
        later (later k (c.cyc + 36) (.lane f.dest.toNat (l + 0) ⟨BitVec.ofNat 32 (atomicOld c x f ty l), atomicPoison c x f ty op l⟩))
          (c.cyc + 36) (.lane f.dest.toNat (l + 1) ⟨BitVec.ofNat 32 (atomicOld c x f ty l / 0x100000000), atomicPoison c x f ty op l⟩)
      else later k (c.cyc + 36) (.lane f.dest.toNat (l + 0) ⟨BitVec.ofNat 32 (atomicOld c x f ty l), atomicPoison c x f ty op l⟩)) =
      { k with pend := x.pend ++ atomicReturns c x f ty op l } := by
    intro k hk
    rcases atomicBytes_cases ty with h | h
    all_goals simp [h, later, hk, atomicReturns, List.range_succ]
  exact returns (atomicStored c x f ty op l) (atomicStored_pend c x f ty op l)

/-! #### A lane whose operands and granule carry no poison -/

section
variable {c x : CoreState} {f : SField} {ty : LaneType} {op l : Nat}

/-- The word lies within one granule of the bobbin. -/
theorem atomicAddr_inside : atomicAddr c f ty l + atomicBytes ty ≤ bobSize ∧ atomicAddr c f ty l % 64 + atomicBytes ty ≤ 64 := by
  have low : (lane c f.srcA.toNat l).val.toNat % bobSize < 262144 := Nat.mod_lt _ (by decide)
  unfold atomicAddr bobSize at *
  generalize (lane c f.srcA.toNat l).val.toNat % 262144 = y at *
  rcases atomicBytes_cases ty with h | h <;> rw [h] <;> omega

theorem atomicRead_unmarked (hu : x.undef = false) (hm : bobMarked x (atomicAddr c f ty l) = false) :
    bobRead x (atomicAddr c f ty l) (atomicBytes ty) =
      ((List.range (atomicBytes ty)).map (fun i => cget x.bob (atomicAddr c f ty l + i)), false) :=
  bobRead_unmarked hu hm atomicAddr_inside.1 atomicAddr_inside.2

theorem atomicWordPoison_none {q : BitVec 5} (h : ∀ i < atomicBytes ty / 4, (lane c q.toNat (l + i)).poison = false) :
    atomicWordPoison c ty l q = false := by
  rcases atomicBytes_cases ty with hn | hn <;> rw [hn] at h
  · simpa [atomicWordPoison, hn] using h 0 (by decide)
  · simpa [atomicWordPoison, hn] using And.intro (h 0 (by decide)) (h 1 (by decide))

theorem atomicPoison_none (hu : x.undef = false) (hm : bobMarked x (atomicAddr c f ty l) = false)
    (h : ∀ q ∈ [f.srcA, f.srcB, f.srcC], ∀ i < atomicBytes ty / 4, (lane c q.toNat (l + i)).poison = false) :
    atomicPoison c x f ty op l = false := by
  have address : (lane c f.srcA.toNat l).poison = false :=
    h f.srcA (by simp) 0 (by rcases atomicBytes_cases ty with hn | hn <;> rw [hn] <;> decide)
  have word := atomicWordPoison_none (h f.srcB (by simp))
  have compared := atomicWordPoison_none (h f.srcC (by simp))
  rw [atomicPoison, atomicRead_unmarked hu hm, address, word, compared, Bool.and_false]
  rfl

theorem atomicLane_bob (hw : Memory.wf x.bob = true) (b : Nat) :
    cget (atomicLane f ty op c x l).bob b =
      if atomicAddr c f ty l ≤ b ∧ b < atomicAddr c f ty l + atomicBytes ty then
        (leBytes (atomicBytes ty) (atomicNew c x f ty op l)).getD (b - atomicAddr c f ty l) 0
      else cget x.bob b := by
  have fits : atomicAddr c f ty l + (leBytes (atomicBytes ty) (atomicNew c x f ty op l)).length ≤ bobSize := by
    rw [length_leBytes]; exact atomicAddr_inside.1
  have stored : (atomicLane f ty op c x l).bob = cwrites x.bob (atomicAddr c f ty l) (leBytes (atomicBytes ty) (atomicNew c x f ty op l)) := by
    rw [atomicLane_eq]
    exact (atomicStored_bob ..).trans (bobPut_bob x fits)
  rw [stored, cget_cwrites _ _ _ _ hw, length_leBytes]

end

end Sys2Proof.Machine

namespace Sys2Proof.Proofs
open Machine

/-- Settles O6: the order of the lanes by `onAtomic_takes`, one lane by `atomicLane_bob` and `atomicLane_eq`. -/
theorem atomicInstructions : Obligations.AtomicInstructions := by
  refine ⟨fun s k f ty => ?lanes, fun c x f ty op l => ?lane⟩
  case lanes =>
    intro c
    simp only [List.forall_mem_cons]
    exact ⟨fun h => onAtomic_takes h 0 ty f, fun h => onAtomic_takes h 1 ty f, fun h => onAtomic_takes h 2 ty f,
      fun h => onAtomic_takes h 3 ty f, fun h => onAtomic_takes h 4 ty f, fun h => onAtomic_takes h 5 ty f,
      fun h => onAtomic_takes h 6 ty f, fun h => onAtomic_takes h 7 ty f, fun h => onAtomic_takes h 8 ty f,
      fun h => onAtomic_takes h 9 ty f, fun h => onAtomic_takes h 10 .fp32 f, fun h => onAtomic_takes h 11 .fp32 f,
      fun h => onAtomic_takes h 12 .fp32 f, List.forall_mem_nil _⟩
  case lane =>
    intro n a word old _ hu hw hm hp
    have read : old = atomicOld c x f ty l := (congrArg (fun r => leNat r.1) (atomicRead_unmarked hu hm)).symm
    refine ⟨fun i hi => ?_, fun b hb => ?_, ?_⟩
    · have inside : a ≤ a + i ∧ a + i < a + n := by omega
      have digit : (leBytes n (atomicNew c x f ty op l)).getD (a + i - a) 0 = BitVec.ofNat 8 (atomicNew c x f ty op l / 256 ^ i) := by
        rw [Nat.add_sub_cancel_left]; exact leBytes_getD hi _
      rw [read]
      exact ((atomicLane_bob hw (a + i)).trans (if_pos inside)).trans digit
    · exact (atomicLane_bob hw b).trans (if_neg (by change ¬ (a ≤ b ∧ b < a + n); omega))
    · rw [read, atomicLane_eq, atomicReturns, atomicPoison_none hu hm hp]
      rfl

end Sys2Proof.Proofs

/-! ### The integer step of a DPU (R85) -/

namespace Sys2Proof.Proofs
open Machine

/-- Settles O10: the exact sum goes through `intResult_eq`. -/
theorem dpuIntegerStep : Obligations.DpuIntegerStep := by
  intro a ops acc w x hw hx v
  have sum : dpuStep a ops acc = intResult true (acwIsat a) v := by
    simp only [dpuStep, hw, hx, dpuInt, ← List.sum_eq_foldl]
    rfl
  rw [sum, intResult_eq]
  rfl

end Sys2Proof.Proofs

/-! ## The T field: the MAC's reads of the bobbin, and the core that issues it (R103, R105, R106, R115) -/

namespace Sys2Proof.Machine

/-! ### Words that the engine port is asked for (R115) -/

theorem mem_linsert {a b : Nat} {l : List Nat} : b ∈ linsert a l ↔ b = a ∨ b ∈ l := by
  induction l with
  | nil => simp [linsert]
  | cons x l ih =>
    unfold linsert
    split
    next e => simp [e]
    next =>
      split
      · simp
      · simp [ih, or_left_comm]

theorem mem_foldl_linsert {b : Nat} {ws m : List Nat} : b ∈ ws.foldl (fun m w => linsert w m) m ↔ b ∈ m ∨ b ∈ ws := by
  induction ws generalizing m with
  | nil => simp
  | cons w ws ih => rw [List.foldl_cons, ih, mem_linsert, List.mem_cons, or_assoc, or_left_comm]

/-- The words that the engine port has been asked for in the present cycle once it is asked for runs of bytes too. -/
def portAsked (k : CoreState) (l : List (Nat × Nat)) : List Nat :=
  l.foldl (fun m x => (portWords x.1 x.2).foldl (fun m w => linsert w m) m) (if k.port.1 = k.cyc then k.port.2 else [])

theorem mem_foldl_portWords {w : Nat} {l : List (Nat × Nat)} {m : List Nat} :
    w ∈ l.foldl (fun m x => (portWords x.1 x.2).foldl (fun m w => linsert w m) m) m ↔ w ∈ m ∨ ∃ x ∈ l, w ∈ portWords x.1 x.2 := by
  induction l generalizing m with
  | nil => simp
  | cons x l ih => rw [List.foldl_cons, ih, mem_foldl_linsert]; simp only [List.exists_mem_cons_iff, or_assoc]

theorem mem_portAsked {k : CoreState} {l : List (Nat × Nat)} {w : Nat} (h : ∃ x ∈ l, w ∈ portWords x.1 x.2) : w ∈ portAsked k l :=
  mem_foldl_portWords.mpr (Or.inr h)

/-- More than two words of one bank break the rule of the engine port. -/
theorem engineReads_crowded {k : CoreState} {l : List (Nat × Nat)} {ws : List Nat} (distinct : ws.Nodup) (many : 2 < ws.length)
    {bank : Nat} (one : ∀ w ∈ ws, w % 64 = bank) (asked : ∀ w ∈ ws, w ∈ portAsked k l) : (engineReads k l).undef = true := by
  obtain ⟨v, hv⟩ := List.exists_mem_of_length_pos (Nat.zero_lt_of_lt many)
  have inBank : ws ⊆ (portAsked k l).filter (fun x => x % 64 == v % 64) := fun w hw =>
    List.mem_filter.mpr ⟨asked w hw, by rw [one w hw, one v hv, beq_self_eq_true]⟩
  have crowded : (portAsked k l).any (fun w => decide (2 < ((portAsked k l).filter (fun x => x % 64 == w % 64)).length)) = true :=
    List.any_eq_true.mpr ⟨v, asked v hv, decide_eq_true (many.trans_le (distinct.subperm inBank).length_le)⟩
  have reads : (engineReads k l).undef = (k.undef || (portAsked k l).any (fun w => decide
      (2 < ((portAsked k l).filter (fun x => x % 64 == w % 64)).length)) || l.any (fun x => inWindow k.fills k.cyc x.1 x.2)) := rfl
  rw [reads, crowded, Bool.or_true, Bool.true_or]

/-! ### The T-engine's cycle (R87, R106) -/

theorem advanceStream_undef (k : CoreState) (s : Nat) : (advanceStream k s).undef = k.undef := rfl

/-- Updating the entries and advancing the streams breaks no rule of the bobbin. -/
theorem macUpdate_undef (k : CoreState) (m : TMac) (reads : List (Nat × List (List Byte) × Bool)) (at_ : Nat) :
    (macUpdate k m reads at_).undef = k.undef := by
  refine (foldl_keeps CoreState.undef (fun x i => ?_) _ _).trans (foldl_keeps CoreState.undef (fun x r => ?_) _ _)
  · split <;> rfl
  · rfl

/-- The part of a step's bytes that a MAC reads in the present cycle: at the 16-bit rate one half and then the other. -/
def macPart (m : TMac) : Nat := if acwRate m.acw = .r16 then (if m.held.isEmpty then 0 else 1) else 2

/-- The MAC's work of a cycle is under the rules of its reads. -/
theorem tStep_undef {c : CoreState} {m : TMac} (h : c.tmac = some m) :
    (tStep c).undef = (engineReads c (macReads c m (macPart m))).undef := by
  cases rate : acwRate m.acw with
  | r16 =>
    simp only [tStep, h, rate, macPart, if_true]
    split
    · rfl
    · exact macUpdate_undef ..
  | r4 | r8 =>
    simp only [tStep, h, rate, macPart, reduceCtorEq, if_false]
    exact macUpdate_undef ..

/-- A MAC goes to a free T-engine, and an occupied one goes on. -/
theorem issueMac_eq (c : CoreState) (m : TMac) :
    issueMac c m = issueT { c with tmac := match c.tmac with | none => some m | some x => some x } := by
  cases h : c.tmac with
  | none => simp only [issueMac, h, Option.isSome_none, Bool.false_eq_true, if_false]
  | some x => simp only [issueMac, h, Option.isSome_some, if_true]; rw [← h]

end Sys2Proof.Machine

namespace Sys2Proof.Proofs
open Machine

/-- Settles O9: the core by `issue_becomes`, the MAC that occupies the T-engine by `issueMac_eq`, the crowded bank by
`engineReads_crowded`. -/
theorem tFieldCommands : Obligations.TFieldCommands := by
  intro s k c
  refine ⟨fun h => ⟨_, rfl, issue_becomes s k _ issueT h⟩, fun h => by rw [tStep, h], ?crowded, ?mac⟩
  case crowded =>
    intro m w hm asked n01 n02 n12 b1 b2
    rw [tStep_undef hm]
    refine engineReads_crowded (ws := [w 0, w 1, w 2]) (by simp [n01, n02, n12]) (by simp) (bank := w 0 % 64) ?_ ?_
    · simp [b1, b2]
    · simp only [List.forall_mem_cons]
      exact ⟨mem_portAsked (asked 0 (by decide)), mem_portAsked (asked 1 (by decide)), mem_portAsked (asked 2 (by decide)),
        List.forall_mem_nil _⟩
  case mac =>
    intro start acc rep accStep advance dpuEn h
    refine ⟨_, rfl, ?_⟩
    have e := issue_becomes s k _ (fun c => issueMac c
      { start := start, acc := acc, steps := rep.toNat + 1, accStep := accStep, advance := advance, dpuEn := dpuEn, acw := c.acw }) h
    rw [issueMac_eq] at e
    exact e

end Sys2Proof.Proofs

/-! ## The X field: the sequencer's instructions (R103, R111, R112, R128, R132) -/

namespace Sys2Proof.Machine

/-! ### The next cycle leaves the count of steps that a core has ended -/

theorem applyPend_ended (k : CoreState) (a : PendAct) : (applyPend k a).ended = k.ended := by
  cases a with
  | mask m act v =>
    simp only [applyPend, putMask]
    split <;> rfl
  | bob addr bs ps =>
    refine foldl_keeps CoreState.ended (fun x i => ?_) _ (bobPut k addr bs)
    dsimp only
    split <;> rfl
  | _ => rfl

theorem land_ended (k : CoreState) : (land k).ended = k.ended := by
  unfold land
  exact foldl_keeps CoreState.ended (fun x (p : Pend) => applyPend_ended x p.act) ..

theorem sendBeat_ended (k : CoreState) : (sendBeat k).ended = k.ended := by
  unfold sendBeat
  split
  · rfl
  · dsimp only
    split <;> split <;> rfl

theorem tick_ended (k : CoreState) : (tick k).ended = k.ended := (sendBeat_ended _).trans (land_ended _)

/-! ### Each instruction as the meaning of a core that issues it -/

/-- END after the cycle that its bundle takes. -/
theorem endPart_tick (c : CoreState) :
    endPart (tick c) = { coast (tick c) ((tick c).cyc + 4096) with st := .idle, epoch := 0, ended := c.ended + 1 } := by
  rw [endPart, tick_ended]

theorem execLcnt_of_legal {limit : BitVec 23} (h : limit ≠ 0) (k : CoreId) (n : BitVec 3) (s : State) :
    execLcnt k n limit s = onX (.lcnt k n limit) k (fun c =>
      advance { c with limits := mput c.limits n.toNat limit.toNat, indexes := mput c.indexes n.toNat 0 }) s :=
  if_neg h

theorem execWaitf_of_legal {cycle : BitVec 11} (h : cycle.toNat ≤ 1279) (k : CoreId) (frames : BitVec 8) (s : State) :
    execWaitf k cycle frames s = onX (.waitf k cycle frames) k (fun c =>
      let t := waitfTarget c.cyc cycle.toNat frames.toNat
      if t ≤ c.cyc + 1 then advance c else { advance c with st := .waitFrame, resume := t }) s :=
  if_neg (Nat.not_lt.mpr h)

theorem execAcw_of_legal {value : BitVec 19} (h : acwValid value = true) (k : CoreId) (s : State) :
    execAcw k value s = onX (.acw k value) k (fun c => advance { c with acw := value }) s :=
  if_pos h

theorem execTsd_of_legal {stream : BitVec 3} (h : stream.toNat ≤ 5) (k : CoreId) (addr16 : BitVec 14) (s : State) :
    execTsd k stream addr16 s = onX (.tsd k stream addr16) k (fun c =>
      let r := bobRead c (addr16.toNat * 16) 16
      advance (later (setFlags (engineReads c [(addr16.toNat * 16, 16)]) (poisonFlag r.2)) (c.cyc + 2)
        (.desc stream.toNat (descOf r.1)))) s :=
  if_neg (Nat.not_lt.mpr h)

end Sys2Proof.Machine

namespace Sys2Proof.Proofs
open Machine

/-- Settles O11: each instruction is one `onX`, which `onX_sends` answers. -/
theorem sequencerCommands : Obligations.SequencerCommands := by
  intro s k c next becomes
  refine ⟨onX_sends s k _ _, onX_sends s k _ _, fun h => ?endPattern, fun n limit legal h => ?lcnt, fun n target => onX_sends s k _ _,
    fun cycle frames legal => ?waitf, fun value legal h => ?acw, fun stream addr16 legal h => ?tsd, fun count => onX_sends s k _ _,
    onX_sends s k _ _⟩
  case endPattern =>
    have e := onX_sends s k _ (fun c => endPart (tick c)) h
    rw [endPart_tick] at e
    exact e
  case lcnt =>
    rw [exec_lcnt, execLcnt_of_legal legal]
    exact onX_sends s k _ _ h
  case waitf =>
    intro at_ h
    rw [exec_waitf, execWaitf_of_legal legal]
    exact onX_sends s k _ _ h
  case acw =>
    rw [exec_acw, execAcw_of_legal legal]
    exact onX_sends s k _ _ h
  case tsd =>
    rw [exec_tsd, execTsd_of_legal legal]
    exact onX_sends s k _ _ h

end Sys2Proof.Proofs

/-! ## The exchange: what XSEND and XRED read and send (R111, R118, R127, R129, R131, R133) -/

namespace Sys2Proof.Machine

/-! ### Bytes and marks of beats (R114, R118) -/

theorem bobRaw_append (c : CoreState) (a n m : Nat) : bobRaw c a (n + m) = bobRaw c a n ++ bobRaw c (a + n) m := by
  simp [bobRaw, List.range_add, List.map_map, Function.comp_def, Nat.add_assoc]

theorem bobRead_append (c : CoreState) (a n m : Nat) :
    bobRead c a (n + m) = ((bobRead c a n).1 ++ (bobRead c (a + n) m).1, (bobRead c a n).2 || (bobRead c (a + n) m).2) := by
  simp [bobRead, List.range_add, List.map_map, Function.comp_def, List.any_map, Nat.add_assoc]

/-- A beat lies in one granule. -/
theorem bobMarked_beat (c : CoreState) {a i : Nat} (ha : a % 32 = 0) (hi : i < 32) : bobMarked c (a + i) = bobMarked c a := by
  have granule : (a + i) % bobSize / 64 = a % bobSize / 64 := by unfold bobSize; omega
  rw [bobMarked, bobMarked, granule]

theorem bobRead_beat_mark (c : CoreState) {a : Nat} (ha : a % 32 = 0) : (bobRead c a 32).2 = bobMarked c a := by
  rw [Bool.eq_iff_iff, bobRead, List.any_eq_true]
  exact ⟨fun ⟨i, hi, h⟩ => bobMarked_beat c ha (List.mem_range.mp hi) ▸ h, fun h => ⟨0, by decide, h⟩⟩

/-- The marks of whole runs of 64 bytes. -/
theorem bobMarks_whole (c : CoreState) (a h : Nat) :
    bobMarks c a (64 * h) = (List.range h).map (fun i => (bobRead c (a + 64 * i) 64).2) := by
  have count : ceilDiv (64 * h) 64 = h := by unfold ceilDiv; omega
  rw [bobMarks, count]
  refine List.map_congr_left fun i hi => ?_
  have size : min 64 (64 * h - 64 * i) = 64 := by have := List.mem_range.mp hi; omega
  rw [size, bobRead]

theorem length_bobMarks_whole (c : CoreState) (a h : Nat) : (bobMarks c a (64 * h)).length = h := by
  rw [bobMarks_whole, List.length_map, List.length_range]

theorem bobMarks_whole_succ (c : CoreState) (a h : Nat) :
    bobMarks c a (64 * (h + 1)) = bobMarks c a (64 * h) ++ [(bobRead c (a + 64 * h) 64).2] := by
  rw [bobMarks_whole, bobMarks_whole, List.range_succ, List.map_append, List.map_singleton]

/-- The mark of a last beat after whole runs of 64 bytes. -/
theorem bobMarks_half (c : CoreState) (a h : Nat) :
    bobMarks c a (64 * h + 32) = bobMarks c a (64 * h) ++ [(bobRead c (a + 64 * h) 32).2] := by
  have count : ceilDiv (64 * h + 32) 64 = h + 1 := by unfold ceilDiv; omega
  have last : min 64 (64 * h + 32 - 64 * h) = 32 := by omega
  rw [bobMarks_whole, bobMarks, count, List.range_succ, List.map_append, List.map_singleton, last]
  refine congrArg (· ++ _) (List.map_congr_left fun i hi => ?_)
  have size : min 64 (64 * h + 32 - 64 * i) = 64 := by have := List.mem_range.mp hi; omega
  rw [size, bobRead]

/-- A beat more adds the mark of new 64 bytes, or joins that of the 64 bytes that it completes. -/
theorem bobMarks_beat (c : CoreState) {a : Nat} (ha : a % 32 = 0) (i : Nat) :
    bobMarks c a (32 * (i + 1)) =
      if i % 2 = 0 then bobMarks c a (32 * i) ++ [bobMarked c (a + 32 * i)]
      else (bobMarks c a (32 * i)).modify (i / 2) (fun q => q || bobMarked c (a + 32 * i)) := by
  have aligned : (a + 32 * i) % 32 = 0 := by omega
  rw [← bobRead_beat_mark c aligned]
  obtain ⟨h, rfl | rfl⟩ := Nat.even_or_odd' i
  · rw [if_pos (by omega), show 32 * (2 * h) = 64 * h by omega, show 32 * (2 * h + 1) = 64 * h + 32 by omega]
    exact bobMarks_half c a h
  · rw [if_neg (by omega), show 32 * (2 * h + 1) = 64 * h + 32 by omega, show 32 * (2 * h + 1 + 1) = 64 * (h + 1) by omega,
      show (2 * h + 1) / 2 = (bobMarks c a (64 * h)).length by rw [length_bobMarks_whole]; omega,
      bobMarks_whole_succ, bobMarks_half, bobRead_append c _ 32 32, Nat.add_assoc]
    simp [List.modify_eq_take_drop]

/-! ### Cycles of a core that reads for the exchange (R131) -/

/-- The core `i` cycles on, when nothing else takes effect in them: what it is reading, and what it has sent. -/
def sendingAt (c : CoreState) (i : Nat) (job : Option SendJob) (out : List XMsg) : CoreState :=
  { c with cyc := c.cyc + i, send := job, sent := c.sent ++ out }

/-- No action is due. -/
theorem land_none {c : CoreState} (h : ∀ p ∈ c.pend, c.cyc < p.due) : land c = c := by
  have due : c.pend.filter (fun p => decide (p.due ≤ c.cyc)) = [] :=
    List.filter_eq_nil_iff.mpr fun p hp => by simpa using h p hp
  have left : c.pend.filter (fun p => decide (c.cyc < p.due)) = c.pend :=
    List.filter_eq_self.mpr fun p hp => decide_eq_true (h p hp)
  simp only [land, due, left]
  rfl

/-- A core that reads beat after beat has, in each cycle, read one more. -/
theorem iterate_beats {c : CoreState} {n : Nat} {job : Nat → Option SendJob} {out : Nat → List XMsg}
    (later : ∀ p ∈ c.pend, c.cyc + n ≤ p.due)
    (beat : ∀ i < n, sendBeat (sendingAt c i (job i) (out i)) = sendingAt c i (job (i + 1)) (out (i + 1))) {i : Nat} (hi : i < n) :
    tick^[i] (sendBeat (sendingAt c 0 (job 0) (out 0))) = sendingAt c i (job (i + 1)) (out (i + 1)) := by
  induction i with
  | zero => exact beat 0 hi
  | succ i ih =>
    have landed : land (sendingAt c (i + 1) (job (i + 1)) (out (i + 1))) = sendingAt c (i + 1) (job (i + 1)) (out (i + 1)) :=
      land_none fun p hp => Nat.lt_of_lt_of_le (Nat.add_lt_add_left hi c.cyc) (later p hp)
    rw [Function.iterate_succ_apply', ih (Nat.lt_of_succ_lt hi)]
    exact (congrArg sendBeat landed).trans (beat (i + 1) hi)

section
variable {c : CoreState} (hu : c.undef = false) (i : Nat) (job : Option SendJob) (out : List XMsg)
include hu

theorem bobByte_sendingAt (a : Nat) : bobByte (sendingAt c i job out) a = bobByte c a := by
  simp [bobByte, sendingAt, hu]

theorem bobMarked_sendingAt (a : Nat) : bobMarked (sendingAt c i job out) a = bobMarked c a := by
  simp [bobMarked, sendingAt, hu]

theorem bobRaw_sendingAt (a n : Nat) : bobRaw (sendingAt c i job out) a n = bobRaw c a n := by
  simp [bobRaw, bobByte_sendingAt hu]

theorem bobRead_sendingAt (a n : Nat) : bobRead (sendingAt c i job out) a n = bobRead c a n := by
  simp [bobRead, bobByte_sendingAt hu, bobMarked_sendingAt hu]

end

/-- What is left to read, and how far it has come, after `i` beats of `n`. -/
def jobAt (m : Nat → XMsg) (src n i : Nat) : Option SendJob :=
  if i = n then none else some { msg := m i, src := src, beats := n, done := i }

/-- With its last beat a core has done reading, and what it read has been sent. -/
theorem beats_done {c : CoreState} {m : Nat → XMsg} {src n : Nat} {out : Nat → List XMsg} (hn : 0 < n)
    (later : ∀ p ∈ c.pend, c.cyc + n ≤ p.due) (unsent : out 0 = [])
    (beat : ∀ i < n, sendBeat (sendingAt c i (jobAt m src n i) (out i)) = sendingAt c i (jobAt m src n (i + 1)) (out (i + 1))) :
    let d := tick^[n - 1] (sendBeat { c with send := some { msg := m 0, src := src, beats := n, done := 0 } })
    d.send = none ∧ d.sent = c.sent ++ out n := by
  have first : sendingAt c 0 (jobAt m src n 0) (out 0) = { c with send := some { msg := m 0, src := src, beats := n, done := 0 } } := by
    rw [jobAt, if_neg hn.ne, unsent, sendingAt, List.append_nil, Nat.add_zero]
  have last := iterate_beats later beat (Nat.sub_one_lt hn.ne')
  rw [first, Nat.sub_add_cancel hn] at last
  dsimp only
  rw [last]
  exact ⟨if_pos rfl, rfl⟩

/-! ### A message (R118, R127, R131) -/

/-- The beat of a message. -/
theorem sendBeat_of_message {k : CoreState} {j : SendJob} (hj : k.send = some j) (hm : j.msg.red = none) :
    sendBeat k =
      let a := j.src + 32 * j.done
      let m := { j.msg with
        bytes := j.msg.bytes ++ bobRaw k a 32
        marks := if j.done % 2 = 0 then j.msg.marks ++ [bobMarked k a]
          else j.msg.marks.modify (j.done / 2) (fun q => q || bobMarked k a) }
      if j.done + 1 = j.beats then { k with send := none, sent := k.sent ++ [m] }
      else { k with send := some { j with msg := m, done := j.done + 1 } } := by
  simp only [sendBeat, hj, hm, beq_iff_eq]

/-- A message as far as `i` beats give it. -/
def messageRead (c : CoreState) (m : XMsg) (src i : Nat) : XMsg :=
  { m with bytes := bobRaw c src (32 * i), marks := bobMarks c src (32 * i) }

theorem messageRead_zero (c : CoreState) {m : XMsg} (src : Nat) (bytes : m.bytes = []) (marks : m.marks = []) :
    messageRead c m src 0 = m := by
  rw [messageRead]
  change { m with bytes := [], marks := [] } = m
  rw [← bytes, ← marks]

/-- The messages that have left after `i` beats of `n`. -/
def messageSent (c : CoreState) (m : XMsg) (src n i : Nat) : List XMsg := if i = n then [messageRead c m src i] else []

theorem messageRead_succ (c : CoreState) (m : XMsg) {src : Nat} (hs : src % 32 = 0) (i : Nat) :
    messageRead c m src (i + 1) = { messageRead c m src i with
      bytes := (messageRead c m src i).bytes ++ bobRaw c (src + 32 * i) 32
      marks := if i % 2 = 0 then (messageRead c m src i).marks ++ [bobMarked c (src + 32 * i)]
        else (messageRead c m src i).marks.modify (i / 2) (fun q => q || bobMarked c (src + 32 * i)) } := by
  rw [messageRead, bobMarks_beat c hs i, Nat.mul_succ, bobRaw_append]
  rfl

theorem sendBeat_message {c : CoreState} (hu : c.undef = false) {m : XMsg} (hm : m.red = none) {src : Nat} (hs : src % 32 = 0)
    {n i : Nat} (hi : i < n) :
    sendBeat (sendingAt c i (jobAt (messageRead c m src) src n i) (messageSent c m src n i)) =
      sendingAt c i (jobAt (messageRead c m src) src n (i + 1)) (messageSent c m src n (i + 1)) := by
  have job : jobAt (messageRead c m src) src n i = some { msg := messageRead c m src i, src := src, beats := n, done := i } :=
    if_neg hi.ne
  have out : messageSent c m src n i = [] := if_neg hi.ne
  rw [job, out, sendBeat_of_message rfl hm]
  simp only [bobRaw_sendingAt hu, bobMarked_sendingAt hu, ← messageRead_succ c m hs i]
  unfold jobAt messageSent
  split
  · simp [sendingAt]
  · rfl

/-! ### The contributions of a reduction (R100, R129, R131) -/

/-- The beat of a contribution: with the fourth of its vector it leaves, and the next vector's follows. -/
theorem sendBeat_of_contribution {k : CoreState} {j : SendJob} {ix v place : Nat} (hj : k.send = some j)
    (hm : j.msg.red = some (ix, v, place)) :
    sendBeat k =
      let a := j.src + 32 * j.done
      let m := { j.msg with bytes := j.msg.bytes ++ (bobRead k a 32).1, marks := j.msg.marks.map (fun q => q || bobMarked k a) }
      if j.done % 4 = 3 then
        let next := { m with addr := m.addr + 128, bytes := [], marks := [false, false], red := some (ix, v + 1, place) }
        { k with send := if j.done + 1 = j.beats then none else some { j with msg := next, done := j.done + 1 }
                 sent := k.sent ++ [m] }
      else { k with send := some { j with msg := m, done := j.done + 1 } } := by
  simp only [sendBeat, hj, hm, beq_iff_eq]

/-- The contribution of vector `v` as far as `b` of its bytes give it. -/
def contributionRead (c : CoreState) (m : XMsg) (src ix place v b : Nat) : XMsg :=
  let r := bobRead c (src + 128 * v) b
  { m with addr := m.addr + 128 * v, bytes := r.1, red := some (ix, v, place), marks := [r.2, r.2] }

/-- The contributions that have left after `i` beats. -/
def contributionsSent (c : CoreState) (m : XMsg) (src ix place i : Nat) : List XMsg :=
  (List.range (i / 4)).map (fun v => contributionRead c m src ix place v 128)

theorem contributionRead_beat (c : CoreState) (m : XMsg) {src : Nat} (hs : src % 32 = 0) (ix place i : Nat) :
    contributionRead c m src ix place (i / 4) (32 * (i % 4) + 32) =
      let x := contributionRead c m src ix place (i / 4) (32 * (i % 4))
      { x with bytes := x.bytes ++ (bobRead c (src + 32 * i) 32).1
               marks := x.marks.map (fun q => q || bobMarked c (src + 32 * i)) } := by
  have start : src + 128 * (i / 4) + 32 * (i % 4) = src + 32 * i := by omega
  have aligned : (src + 32 * i) % 32 = 0 := by omega
  rw [contributionRead, bobRead_append, start, bobRead_beat_mark c aligned]
  rfl

/-- Vector `v + 1` follows vector `v` with nothing read of it. -/
theorem contributionRead_next (c : CoreState) (m : XMsg) (src ix place v b : Nat) :
    contributionRead c m src ix place (v + 1) 0 =
      let x := contributionRead c m src ix place v b
      { x with addr := x.addr + 128, bytes := [], marks := [false, false], red := some (ix, v + 1, place) } := by
  rw [contributionRead, Nat.mul_succ, ← Nat.add_assoc m.addr]
  rfl

theorem contributionsSent_fourth (c : CoreState) (m : XMsg) (src ix place : Nat) {i : Nat} (h : i % 4 = 3) :
    contributionsSent c m src ix place (i + 1) =
      contributionsSent c m src ix place i ++ [contributionRead c m src ix place (i / 4) 128] := by
  have vectors : (i + 1) / 4 = i / 4 + 1 := by omega
  rw [contributionsSent, vectors, List.range_succ, List.map_append]
  rfl

theorem contributionsSent_other (c : CoreState) (m : XMsg) (src ix place : Nat) {i : Nat} (h : i % 4 ≠ 3) :
    contributionsSent c m src ix place (i + 1) = contributionsSent c m src ix place i := by
  have vectors : (i + 1) / 4 = i / 4 := by omega
  rw [contributionsSent, vectors, contributionsSent]

/-- The contribution being read after `i` beats. -/
def contributionAt (c : CoreState) (m : XMsg) (src ix place i : Nat) : XMsg :=
  contributionRead c m src ix place (i / 4) (32 * (i % 4))

theorem contributionAt_zero (c : CoreState) {m : XMsg} (src : Nat) {ix place : Nat} (red : m.red = some (ix, 0, place))
    (bytes : m.bytes = []) (marks : m.marks = [false, false]) : contributionAt c m src ix place 0 = m := by
  change { m with bytes := [], marks := [false, false], red := some (ix, 0, place) } = m
  rw [← red, ← bytes, ← marks]

theorem sendBeat_contribution {c : CoreState} (hu : c.undef = false) (m : XMsg) {src : Nat} (hs : src % 32 = 0) (ix place : Nat)
    {n i : Nat} (hn : n % 4 = 0) (hi : i < n) :
    sendBeat (sendingAt c i (jobAt (contributionAt c m src ix place) src n i) (contributionsSent c m src ix place i)) =
      sendingAt c i (jobAt (contributionAt c m src ix place) src n (i + 1)) (contributionsSent c m src ix place (i + 1)) := by
  have job : jobAt (contributionAt c m src ix place) src n i =
      some { msg := contributionAt c m src ix place i, src := src, beats := n, done := i } := if_neg hi.ne
  have beat := contributionRead_beat c m hs ix place i
  dsimp only at beat
  rw [job, sendBeat_of_contribution rfl rfl]
  simp only [bobRead_sendingAt hu, bobMarked_sendingAt hu, contributionAt, ← beat]
  by_cases fourth : i % 4 = 3
  · have whole : 32 * (i % 4) + 32 = 128 := by omega
    have next : contributionAt c m src ix place (i + 1) = contributionRead c m src ix place (i / 4 + 1) 0 := by
      rw [contributionAt, show (i + 1) / 4 = i / 4 + 1 by omega, show (i + 1) % 4 = 0 by omega]
    rw [if_pos fourth, whole, jobAt, next, contributionRead_next c m src ix place (i / 4) (32 * (i % 4)),
      contributionsSent_fourth c m src ix place fourth]
    simp [sendingAt]
  · have more : i + 1 ≠ n := by omega
    have next : contributionAt c m src ix place (i + 1) = contributionRead c m src ix place (i / 4) (32 * (i % 4) + 32) := by
      rw [contributionAt, show (i + 1) / 4 = i / 4 by omega, show (i + 1) % 4 = i % 4 + 1 by omega, Nat.mul_succ]
    rw [if_neg fourth, jobAt, if_neg more, next, contributionsSent_other c m src ix place fourth]
    rfl

/-! ### What an instruction begins to read (R127, R129, R130, R133) -/

section
variable {s : State} {k : CoreId} {ix r d : Nat} {q : Cue} {b : Binding} {p : Pattern} {e : XEntry}
  (hr : (s.core k.val).run = some r) (hrun : runOf s r = some (q, b, p)) (he : p.xtable[ix]? = some e) (hd : coreOf b p e.dest = some d)
include hr hrun he hd

/-- XSEND of an entry for a message. -/
theorem entryJob_message (h : e.reduction = false) :
    entryJob s k.val ix false = some { msg := messageOf s k d r q e.dst [] [] none, src := e.src, beats := (e.len + 31) / 32 } := by
  simp only [entryJob, hr, hrun, he, hd, h, Option.bind_some, Option.map_some, sendJob, Fin.ofNat_val_eq_self]
  rfl

/-- XRED of an entry for a reduction of which the core is a member. -/
theorem entryJob_contribution (h : e.reduction = true) {place : Nat} (hp : (members b p e).findIdx? (· == k.val) = some place) :
    entryJob s k.val ix true =
      some { msg := messageOf s k d r q e.dst [] [false, false] (some (ix, 0, place)), src := e.src, beats := e.len / 128 * 4 } := by
  simp only [entryJob, hr, hrun, he, hd, h, hp, Option.bind_some, Option.map_some, sendJob, Fin.ofNat_val_eq_self]
  rfl

end

/-- A core that is not reading begins with the first beat. -/
theorem beginSend_free {c : CoreState} (free : c.xBusy ≤ c.cyc) {j : SendJob} (hj : j.beats ≠ 0) :
    beginSend c (some j) = sendBeat { c with send := some j, xBusy := c.cyc + j.beats } := by
  simp [beginSend, free, hj]

/-- An XSEND or XRED that a core issues while it is not reading. -/
theorem onExchange_sends {s : State} {k : CoreId} {i : Instr} {ix : Nat} {reduction : Bool} {j : SendJob}
    (h : mayIssue s k i = true) (free : (s.core k.val).xBusy ≤ (s.core k.val).cyc) (hj : entryJob s k.val ix reduction = some j)
    (beats : j.beats ≠ 0) :
    ∃ t, onExchange i k ix reduction s = .next t ∧
      coreSends s t k (advance (sendBeat { s.core k.val with send := some j, xBusy := (s.core k.val).cyc + j.beats })) := by
  rw [onExchange, hj, ← beginSend_free free beats]
  exact onX_sends s k i _ h

end Sys2Proof.Machine

namespace Sys2Proof.Proofs
open Machine

/-- Settles O13: what is read by `onExchange_sends` and `entryJob_message` or `entryJob_contribution`, the beats by
`iterate_beats` over `sendBeat_message` or `sendBeat_contribution`. -/
theorem exchangeSends : Obligations.ExchangeSends := by
  refine ⟨fun s k ix r d q b p e => ?issue, fun c m src n hu hn hs later => ⟨?message, ?contributions⟩⟩
  case issue =>
    intro c next reads hr hrun he hd free
    refine ⟨fun h kind len => ?_, fun place h kind len member => ?_⟩
    · have sends := onExchange_sends h free (entryJob_message hr hrun he hd kind) (by dsimp only; omega)
      exact sends
    · have sends := onExchange_sends h free (entryJob_contribution hr hrun he hd kind member) (by dsimp only; omega)
      exact sends
  case message =>
    intro red bytes marks
    have done := beats_done hn later (if_neg hn.ne) fun i hi => sendBeat_message hu red hs hi
    rw [messageRead_zero c src bytes marks, messageSent, if_pos rfl] at done
    exact done
  case contributions =>
    intro ix place whole red bytes marks
    have done := beats_done hn later rfl fun i hi => sendBeat_contribution hu m hs ix place whole hi
    rw [contributionAt_zero c src red bytes marks] at done
    exact done

end Sys2Proof.Proofs

/-! ## Writes of CXL.mem (R144, R210, R214, R221, R223, R322, R340) -/

namespace Sys2Proof.Machine

/-! ### The front of a write -/

/-- The lease of the context of a request that is decoded as taken has not expired (R210). -/
theorem frontTaken_decoded_lease {s : State} {p : Port} {src id : SrcId} {hpa : DWord} {c : Ctx} {dev : Nat}
    (h : frontTaken s p src hpa = .decoded c id dev) : (s.ctx c).expired = false := by
  cases hm : (s.port p).memActive with
  | false => rw [frontTaken_inactive hm] at h; cases h
  | true =>
    obtain ⟨source, lease, -⟩ := frontTaken_active hm src hpa
    cases hs : mapSource s p (srcOf s p src) with
    | error cause => rw [source cause hs] at h; cases h
    | ok d =>
      cases hx : (s.ctx d).expired with
      | true => rw [lease d hs hx] at h; cases h
      | false =>
        rw [frontTaken, if_neg (by simp [hm])] at h
        dsimp only at h
        rw [hs] at h
        dsimp only at h
        rw [if_neg (by simp [hx])] at h
        split at h
        · cases h
        · cases h; exact hx

theorem writeFront_notTaken {s : State} {p : Port} (h : portTakes s p = false) (hr : portTakesRecall s p = false) (src : SrcId)
    (hpa : DWord) : writeFront s p src hpa = .notTaken :=
  (if_neg (by simp [hr])).trans (front_notTaken h src hpa)

/-- A write of recall class is taken on a reserved entry of its port (R322, R340). -/
theorem writeFront_recall {s : State} {p : Port} {src : SrcId} {hpa : DWord} (hr : portTakesRecall s p = true)
    (hc : recallClass s (frontTaken s p src hpa) = true) : writeFront s p src hpa = frontTaken s p src hpa :=
  if_pos (by simp [hr, hc])

theorem writeFront_decoded_lease {s : State} {p : Port} {src id : SrcId} {hpa : DWord} {c : Ctx} {dev : Nat}
    (h : writeFront s p src hpa = .decoded c id dev) : (s.ctx c).expired = false := by
  rw [writeFront] at h
  split at h
  · exact frontTaken_decoded_lease h
  · exact front_decoded_lease h

/-- The write-back of a target of a running recall is of recall class. -/
theorem recallClass_of_target {s : State} {c : Ctx} {id : SrcId} {dev : Nat} {e : DirEntry} (hw : windowOf s dev ≠ none)
    (he : dirAt s dev = some e) (hr : e.st = .recalling) (ht : id ∈ e.targets) : recallClass s (.decoded c id dev) = true := by
  simp [recallClass, he, hr, ht, Option.isSome_iff_ne_none, hw]

/-! ### Stores -/

section
variable {s : State} {w : Waiting} (hx : (s.ctx w.ctx).expired = false) (data : Line) (be : DWord) (poison hint recall_ : Bool)
include hx

/-- A store to a range of no object (R144). -/
theorem serveStore_unmapped (ht : targetOf s w.dev = none) :
    serveStore s w data be poison hint recall_ = sendDone (setInt s 2 7) w.port w.src w.tag w.mv := by
  rw [serveStore, if_neg (by simp [hx]), ht]
  rfl

/-- A store to a versioned object or through a handle (R221, R223). -/
theorem serveStore_readOnly {t : Target} (ht : targetOf s w.dev = some t) (ro : t.ro = true) :
    serveStore s w data be poison hint recall_ = sendDone (setInt s 4 3) w.port w.src w.tag w.mv := by
  rw [serveStore, if_neg (by simp [hx]), ht]
  exact if_pos ro

/-- A store to a page none of whose frames stands in a stack that waits. -/
theorem serveStore_stored {t : Target} (ht : targetOf s w.dev = some t) (ro : t.ro = false)
    (ready : ∀ fr ∈ (pageAt s t.pid).frames, stackWaits s (frameStack fr) = false) :
    let a := storePage s (hostReader w.ctx w.port w.src) ⟨some w.ctx, w.port.val, w.src.toNat⟩ t w.dev (lineBytes data) be.toNat
      poison hint true
    serveStore s w data be poison hint recall_ = sendDone ((pageAt a t.storePid).frames.foldl (fun s' fr =>
      accessTraffic s' t.order fr (w.dev % 65536) true (keepOf s' t.o) (.host w.port w.src) w.port.val recall_ w.dev be.toNat) a)
      w.port w.src w.tag w.mv := by
  rw [serveStore, if_neg (by simp [hx]), ht]
  exact (if_neg (by simp [ro])).trans (if_neg (by simpa using ready))

end

/-! ### Writes -/

section
variable {s : State} {p : Port} {src id : SrcId} {hpa : DWord} {c : Ctx} {dev : Nat} (mv : MetaValue) (tag : BitVec 16) (data : Line)
  (be : DWord) (poison : Bool)

/-- A decoded write outside the coherent windows is a store, after which waiting requests try again (R59). -/
theorem hostWrite_decoded (h : writeFront s p src hpa = .decoded c id dev) (hw : windowOf s dev = none) :
    hostWrite s p src hpa mv tag data be poison = serveWaits (serveStore s (loadAsked s p id tag c dev) data be poison false false) := by
  simp only [hostWrite, h, hw]
  rfl

/-- The write-back of a target of a running recall (R214). -/
theorem hostWrite_recall {e : DirEntry} (hr : portTakesRecall s p = true) (h : frontTaken s p src hpa = .decoded c id dev)
    (hw : windowOf s dev ≠ none) (he : dirAt s dev = some e) (recalls : e.st = .recalling) (target : id ∈ e.targets) :
    hostWrite s p src hpa mv tag data be poison = applyReq s dev (.write (senderOf s p id c tag) mv data be poison) .i true := by
  have front : writeFront s p src hpa = .decoded c id dev :=
    (writeFront_recall hr (by rw [h]; exact recallClass_of_target hw he recalls target)).trans h
  have lease : expiredReq s (.write (senderOf s p id c tag) mv data be poison) = none :=
    if_neg (by simp [senderOf, frontTaken_decoded_lease h])
  rw [hostWrite, front]
  dsimp only
  rw [if_pos (Option.isSome_iff_ne_none.mpr hw)]
  simp only [dirRequest, lease, he, recalls]
  exact if_pos (by simpa [senderOf] using target)

end

end Sys2Proof.Machine

namespace Sys2Proof.Proofs
open Machine

/-- Settles O17: the front by `writeFront_notTaken` and `hostWrite_recall`, the decoded writes by `hostWrite_decoded` and
`serveStore`'s cases. -/
theorem hostWrites : Obligations.HostWrites := by
  intro s p src hpa mv tag data be0 poison r hr
  have run : exec r.1 s = .next (hostWrite s p src hpa mv tag data r.2 poison) := by
    simp only [List.mem_cons, List.not_mem_nil, or_false] at hr
    rcases hr with rfl | rfl <;> rfl
  rw [run]
  refine ⟨fun ht hc => ?_, fun t away => ?_, fun c id dev e hp h hw he recalls target => ?_, fun c id dev h hw => ?_⟩
  · rw [hostWrite, writeFront_notTaken ht hc]
  · rw [hostWrite, away]
  · rw [hostWrite_recall mv tag data r.2 poison hp h hw he recalls target]
  · have hx := writeFront_decoded_lease h
    rw [hostWrite_decoded mv tag data r.2 poison h hw]
    refine ⟨fun ht => ?_, fun t ht => ⟨fun ro => ?_, fun ro ready => ?_⟩⟩
    · exact congrArg (fun x => Host.Outcome.next (serveWaits x)) (serveStore_unmapped hx data r.2 poison false false ht)
    · exact congrArg (fun x => Host.Outcome.next (serveWaits x)) (serveStore_readOnly hx data r.2 poison false false ht ro)
    · exact congrArg (fun x => Host.Outcome.next (serveWaits x)) (serveStore_stored hx data r.2 poison false false ht ro ready)

end Sys2Proof.Proofs

/-! ## The rings of a context (R143, R389 to R391, R395) -/

namespace Sys2Proof.Machine

/-! ### The ring objects -/

/-- The object of a ring: a scratch run of whole pages of its context. -/
def ringObjOf (c : Ctx) (base : Nat) (order : BitVec 4) : Obj :=
  { base := base, pages := ceilDiv (ringSize order * 64) 65536, cls := .scratch, layout := .interleaved, owner := c, head := 0, ring := true }

/-- A ring asked for outside the grants of its context, or off a page boundary, is error 1. -/
theorem ringObject_outside {s : State} {c : Ctx} {base : Nat} {order : BitVec 4}
    (h : grantedRun s c base ((ringObjOf c base order).pages * 65536) = false ∨ base % 65536 ≠ 0) :
    ringObject s c base order = .error 1 := if_pos (by simpa [ringObjOf] using h)

section
variable {s : State} {c : Ctx} {base : Nat} {order : BitVec 4}
  (granted : grantedRun s c base ((ringObjOf c base order).pages * 65536) = true) (aligned : base % 65536 = 0)
include granted aligned

/-- What a ring in the grants of its context comes to. -/
theorem ringObject_inside :
    ringObject s c base order =
      if overlaps s base ((ringObjOf c base order).pages * 65536) then .error 2
      else if 16777216 ≤ s.objects.length then .error 3
      else match createObject s (ringObjOf c base order) with
        | some r => .ok r
        | none => .error 3 := by
  rw [ringObject]
  refine (if_neg ?_).trans rfl
  simp only [Bool.or_eq_true, Bool.not_eq_true', bne_iff_ne, not_or, Bool.not_eq_false, not_not]
  exact ⟨granted, aligned⟩

theorem ringObject_overlaps (h : overlaps s base ((ringObjOf c base order).pages * 65536) = true) :
    ringObject s c base order = .error 2 := (ringObject_inside granted aligned).trans (if_pos h)

theorem ringObject_full (h : overlaps s base ((ringObjOf c base order).pages * 65536) = false) (full : 16777216 ≤ s.objects.length) :
    ringObject s c base order = .error 3 :=
  (ringObject_inside granted aligned).trans ((if_neg (by simp [h])).trans (if_pos full))

/-- A ring that meets no object, within the limit of objects, stands and falls with its frames. -/
theorem ringObject_room (h : overlaps s base ((ringObjOf c base order).pages * 65536) = false) (room : s.objects.length < 16777216) :
    (∀ r, createObject s (ringObjOf c base order) = some r → ringObject s c base order = .ok r) ∧
    (createObject s (ringObjOf c base order) = none → ringObject s c base order = .error 3) := by
  have asked := (ringObject_inside granted aligned).trans ((if_neg (by simp [h])).trans (if_neg (Nat.not_le.mpr room)))
  exact ⟨fun r made => by rw [asked, made], fun made => by rw [asked, made]⟩

end

/-! ### EN -/

/-- A write of EN leaves the ring sizes of rings that are enabled or drain. -/
theorem setOrders_running {s : State} {c : Ctx} (h : (s.ctx c).ring.enabled = true ∨ (s.ctx c).ring.draining = true) (value : Word) :
    setOrders s c value = s := if_pos (by simpa using h)

/-- Taking the ring sizes neither enables the rings nor drains them. -/
theorem setOrders_enabled (s : State) (c : Ctx) (value : Word) :
    ((setOrders s c value).ctx c).ring.enabled = (s.ctx c).ring.enabled ∧
    ((setOrders s c value).ctx c).ring.draining = (s.ctx c).ring.draining := by
  simp only [setOrders]
  split
  · exact ⟨rfl, rfl⟩
  · simp only [State.ctx_modCtx_self, and_self]

theorem enableRings_off {s : State} {c : Ctx} (he : (s.ctx c).ring.enabled = false) (hd : (s.ctx c).ring.draining = false) :
    enableRings s c = makeRings s c := by
  rw [enableRings, if_neg (by simp [hd]), if_neg (by simp [he])]

theorem enableRings_on {s : State} {c : Ctx} (he : (s.ctx c).ring.enabled = true) (hd : (s.ctx c).ring.draining = false) :
    enableRings s c = s.modCtx c (fun x => { x with ring := { x.ring with error := false, errCode := 0 } }) := by
  rw [enableRings, if_neg (by simp [hd]), if_pos he]

/-- Enabling makes the work ring's object, then the event ring's; the first that cannot be made gives the error. -/
theorem makeRings_outcomes (s : State) (c : Ctx) :
    (∀ e, ringObject s c (s.ctx c).ring.wrBase.toNat (s.ctx c).ring.wrOrder = .error e → makeRings s c = ringError s c e) ∧
    ∀ b n, ringObject s c (s.ctx c).ring.wrBase.toNat (s.ctx c).ring.wrOrder = .ok (b, n) →
      (∀ e, ringObject b c (s.ctx c).ring.erBase.toNat (s.ctx c).ring.erOrder = .error e → makeRings s c = ringError s c e) ∧
      ∀ d m, ringObject b c (s.ctx c).ring.erBase.toNat (s.ctx c).ring.erOrder = .ok (d, m) → makeRings s c = ringsOn d c n m := by
  unfold makeRings
  refine ⟨fun e work => by rw [work]; rfl, fun b n work => ⟨fun e events => ?_, fun d m events => ?_⟩⟩ <;>
    · rw [work, ringOutcome, events]; rfl

/-! ### The doorbell -/

/-- How far a place of the work ring lies past HEAD. -/
def pastHead (r : Ring) (t : Nat) : Nat := (t + ringSize r.wrOrder - r.wrHead.toNat) % ringSize r.wrOrder

theorem doorbell_off {s : State} {c : Ctx} (h : (s.ctx c).ring.enabled = false) (value : Word) : doorbell s c value = s :=
  if_pos (by simp [h])

/-- TAIL moves forward to a place of the ring; any other value is error 4. -/
theorem doorbell_on {s : State} {c : Ctx} (h : (s.ctx c).ring.enabled = true) (value : Word) :
    doorbell s c value =
      if bits value.toNat 0 12 < ringSize (s.ctx c).ring.wrOrder ∧
          pastHead (s.ctx c).ring (s.ctx c).ring.wrTail.toNat ≤ pastHead (s.ctx c).ring (bits value.toNat 0 12) then
        s.modCtx c (fun x => { x with ring := { x.ring with wrTail := BitVec.ofNat 12 (bits value.toNat 0 12) } })
      else ringError s c 4 := if_neg (by simp [h])

end Sys2Proof.Machine

namespace Sys2Proof.Proofs
open Machine

/-- Settles O30: EN by `makeRings_outcomes` and `enableRings_on`, the ring objects by `ringObject_room` and its kin, the doorbell
by `doorbell_on`. -/
theorem ringsEnableAndDrain : Obligations.RingsEnableAndDrain := by
  refine fun s c value => ⟨fun on he hd => ?enable, fun base order => ?object, fun on he hd => ?running, fun hd idle => ?drained,
    fun h => ?draining, fun h => congrArg _ (doorbell_off h value), fun h => ?doorbell⟩
  case enable =>
    obtain ⟨enabled, draining⟩ := setOrders_enabled s c value
    have run : exec (.ringEnable c value) s = .next (makeRings (setOrders s c value) c) := by
      rw [exec_ringEnable, execRingEnable, ifApplies, if_pos on, enableRings_off (enabled.trans he) (draining.trans hd)]
    obtain ⟨noWork, rest⟩ := makeRings_outcomes (setOrders s c value) c
    refine ⟨fun e work => ?_, fun b n e work events => ?_, fun b n d m work events => ?_⟩
    · rw [run, noWork e work]
    · rw [run, (rest b n work).1 e events]
    · rw [run, (rest b n work).2 d m events]; rfl
  case object =>
    exact ⟨ringObject_outside, fun granted aligned => ⟨ringObject_overlaps granted aligned, ringObject_full granted aligned,
      ringObject_room granted aligned⟩⟩
  case running =>
    constructor
    · rw [exec_ringEnable, execRingEnable, ifApplies, if_pos on, setOrders_running (.inl he), enableRings_on he hd]
    · rw [exec_ringDisable, execRingDisable, ifApplies, if_pos on, setOrders_running (.inl he), disableRings, if_pos he]
  case drained =>
    refine ⟨deleteRings s c, ?_, ?_⟩
    · rw [exec_ringDrainComplete, execRingDrainComplete, ifApplies, if_pos (by simp [hd, idle])]
    · simp [deleteRings]
  case draining =>
    rw [exec_ringDrainComplete, execRingDrainComplete, ifApplies, if_neg (by rcases h with h | h <;> simp [h])]
  case doorbell =>
    refine ⟨fun inside forward => ?_, fun bad => ?_⟩
    · exact congrArg Host.Outcome.next ((doorbell_on h value).trans (if_pos ⟨inside, forward⟩))
    · exact congrArg Host.Outcome.next ((doorbell_on h value).trans (if_neg (by simp only [pastHead]; omega)))

end Sys2Proof.Proofs

/-! ## PROMOTE, EVICT and FLUSH (R160, R165, R169) -/

namespace Sys2Proof.Machine

/-! ### The checks of R169 -/

theorem tierCheck_unanchored {a : State} (h : cuesAccepted a = false) (c : Ctx) (n : Nat) (range pin : Bool) (first count : Nat) :
    tierCheck a c n range pin first count = 0x19 := if_pos (by simp [h])

/-- A command that names no object. -/
theorem tierCheck_none {a : State} {n : Nat} (h : cuesAccepted a = true) (ho : objAt a n = none) (c : Ctx) (range pin : Bool)
    (first count : Nat) : tierCheck a c n range pin first count = 0x50 := by
  rw [tierCheck, if_neg (by simp [h]), ho]
  rfl

/-- The pin table has no room for a pin that the context neither holds nor has coming (R160). -/
def pinTableFull (a : State) (c : Ctx) (n : Nat) : Bool :=
  !hasPin a c n && (!(pinsComing a).contains (c.val * 0x1000000 + n) && decide (1048576 ≤ a.pins.length + (pinsComing a).length))

/-- What the checks of a command refuse it for once its object is found, in their order. -/
theorem tierCheck_object {a : State} {n : Nat} {o : Obj} (h : cuesAccepted a = true) (ho : objAt a n = some o) (c : Ctx)
    (range pin : Bool) (first count : Nat) :
    tierCheck a c n range pin first count =
      if !reaches a c o then 0x11 else if range && !pagesOk o first count then 0x12
      else if pin && pinTableFull a c n then 0x57 else 0 := by
  rw [tierCheck, if_neg (by simp [h]), ho]
  simp only [pinTableFull, Bool.and_assoc]
  rfl

/-- The step of a command that ends at once where its checks give a status. -/
theorem next_of_status {r : Out} {st : Nat} {bad good : State} (h : r = .next (if st ≠ 0 then bad else good)) :
    (st ≠ 0 → r = .next bad) ∧ (st = 0 → r = .next good) :=
  ⟨fun hs => h.trans (congrArg _ (if_pos hs)), fun hs => h.trans (congrArg _ (if_neg (not_not.mpr hs)))⟩

end Sys2Proof.Machine

namespace Sys2Proof.Proofs
open Machine

/-- Settles O37: an entry taken ends by its status or has its effect (`next_of_status`), the checks by `tierCheck_object`. -/
theorem pageCommands : Obligations.PageCommands := by
  refine fun s c e a tag => ⟨fun taken => ?promote, fun taken => ?flush, fun taken => ?evict, fun range pin first count => ?checks⟩
  case promote => exact next_of_status (congrArg _ (ringCmd_taken taken _))
  case flush => exact next_of_status (congrArg _ (ringCmd_taken taken _))
  case evict => exact next_of_status (congrArg _ (ringCmd_taken taken _))
  case checks =>
    refine ⟨fun h => tierCheck_unanchored h .., fun h ho => tierCheck_none h ho .., fun o h ho => ?_⟩
    rw [tierCheck_object h ho]
    refine ⟨fun hr => if_pos (by simp [hr]), fun hr ranged counted past => ?_, fun hr inside => ?_⟩
    · rw [if_neg (by simp [hr]), if_pos (by simp [ranged, pagesOk, counted, past])]
    · rw [if_neg (by simp [hr]), if_neg (by rcases inside with h | h | h <;> simp [pagesOk, h])]
      refine ⟨fun pins new absent full => if_pos ?_, fun room => if_neg ?_⟩
      · simp [pins, pinTableFull, new, absent, full]
      · rcases room with h | h | h | h <;> simp [pinTableFull, h]

end Sys2Proof.Proofs

/-! ## Objects, windows and the DRAM address order: what the handlers do (R147, R168, R207, R211, R220, R241) -/

namespace Sys2Proof.Machine

/-! ### OBJ_CREATE -/

theorem objCreateH_refused {a : State} {m : MciCall} {st : Nat} (h : newObject a m = .error st) : objCreateH a m = (a, .done st []) := by
  rw [objCreateH, h]

/-- An object whose conditions hold is made unless frames are missing (R168). -/
theorem objCreateH_made {a : State} {m : MciCall} {o : Obj} (h : newObject a m = .ok o) :
    (createObject a o = none → objCreateH a m = (a, .done 0x55 [])) ∧
    ∀ t k, createObject a o = some (t, k) → objCreateH a m = (t, .done 0 (leBytes 4 k)) := by
  unfold objCreateH
  rw [h]
  dsimp only
  exact ⟨fun made => by rw [made], fun t k made => by rw [made]; rfl⟩

/-! ### Commands on one's own object -/

/-- The object that a command names: missing, another's, being released from the caller, or found (R168, R207). -/
theorem ownObject_cases (a : State) (m : MciCall) (n : Nat) :
    (objAt a n = none → ownObject a m n = .error 0x50) ∧
    ∀ o, objAt a n = some o →
      (ownsObj m o = false → ownObject a m n = .error 0x51) ∧
      (ownsObj m o = true → leaving a m.ctx n = true → ownObject a m n = .error 0x11) ∧
      (ownsObj m o = true → leaving a m.ctx n = false → ownObject a m n = .ok o) := by
  unfold ownObject
  refine ⟨fun missing => by rw [missing]; rfl, fun o found => ?_⟩
  rw [found]
  dsimp only
  refine ⟨fun foreign => if_pos (by simp [foreign]), fun own gone => ?_, fun own stays => ?_⟩
  · rw [if_neg (by simp [own]), if_pos gone]; rfl
  · rw [if_neg (by simp [own]), if_neg (by simp [stays])]

/-- The commands on one's own object, each with its handler. -/
def ownCommands (via : Path) (input : List Byte) : List (Nat × Instr × Handler) :=
  [(0xC021, .objDelete via input, objDeleteH), (0xC022, .objSetClass via input, objSetClassH), (0xC023, .objQuery via input, objQueryH),
    (0xC030, .winCreate via input, winCreateH), (0xC040, .verInit via input, verInitH)]

/-- A command on one's own object is refused as its object is. -/
theorem ownCommands_refused {s a : State} {via : Path} {input : List Byte} {m : MciCall} {x : Nat × Instr × Handler}
    (hx : x ∈ ownCommands via input) (h : Accepted s via x.1 input a m) {e : Nat} (he : ownObject a m (m.f 0 4) = .error e) :
    exec x.2.1 s = .next (answer a via m.tag x.1 e []) := by
  have run : exec x.2.1 s = .next (mci s via x.1 input x.2.2) ∧ x.2.2 a m = (a, .done e []) := by
    simp only [ownCommands, List.mem_cons, List.not_mem_nil, or_false] at hx
    rcases hx with rfl | rfl | rfl | rfl | rfl <;> refine ⟨rfl, ?_⟩
    · simp only [objDeleteH, he]
    · simp only [objSetClassH, he]
    · simp only [objQueryH, he]
    · simp only [winCreateH, he]
    · simp only [verInitH, he]
  rw [run.1, next_mci_done h run.2]

/-- The class that a class code asks for (R147). -/
def codedClass (x : Nat) : Class := match x with | 0 => .held | 1 => .warm | 2 => .cold | _ => .scratch

theorem codedClass_scratch {x : Nat} : codedClass x = .scratch ↔ 3 ≤ x := by
  match x with
  | 0 | 1 | 2 => decide
  | n + 3 => exact ⟨fun _ => Nat.le_add_left 3 n, fun _ => rfl⟩

section
variable {a : State} {m : MciCall} {o : Obj} (own : ownObject a m (m.f 0 4) = .ok o)
include own

/-- OBJ_DELETE of a bound object, or of one whose mover is at work, is refused (R168). -/
theorem objDeleteH_own : objDeleteH a m =
    if o.mover.st ≠ .idle || objBound a (m.f 0 4) then (a, .done 0x13 [])
    else (serveWaits (deleteObject a (m.f 0 4)), .done 0 []) := by
  rw [objDeleteH, own]
  rfl

/-! ### OBJ_SET_CLASS (R147) -/

theorem objSetClassH_busy (busy : o.mover.st ≠ .idle) : objSetClassH a m = (a, .done 0x13 []) := by
  rw [objSetClassH, own]
  exact if_pos busy

/-- An object whose mover is at rest takes the class asked for, unless one of the classes is SCRATCH, it has a window, or frames
are missing. -/
theorem objSetClassH_idle (idle : o.mover.st = .idle) : objSetClassH a m =
    if o.cls == .scratch || codedClass (m.f 4 1) == .scratch || a.windows.any (fun w => w.2.obj == m.f 0 4) then
      (a, .done (if o.cls == .scratch && codedClass (m.f 4 1) == .scratch then 0 else 0x56) [])
    else if codedClass (m.f 4 1) == .held && o.cls != .held && !framesFor a o then (a, .done 0x55 [])
    else
      let b := a.modObj (m.f 0 4) (fun o => { o with cls := codedClass (m.f 4 1) })
      (if codedClass (m.f 4 1) == .held && o.cls != .held then promotePages b (m.f 0 4) none 0 o.pages else b, .done 0 []) := by
  rw [objSetClassH, own]
  exact if_neg (not_not.mpr idle)

/-- A class that cannot change: to or from SCRATCH, or of an object with a window. -/
theorem objSetClassH_fixed (idle : o.mover.st = .idle)
    (h : (o.cls = .scratch ∧ m.f 4 1 < 3) ∨ (o.cls ≠ .scratch ∧ 3 ≤ m.f 4 1) ∨
      (o.cls ≠ .scratch ∧ a.windows.any (fun w => w.2.obj == m.f 0 4) = true)) :
    objSetClassH a m = (a, .done 0x56 []) := by
  rw [objSetClassH_idle own idle]
  rcases h with ⟨scratch, other⟩ | ⟨paged, new⟩ | ⟨paged, window⟩
  · rw [if_pos (by simp [scratch]), if_neg (by simpa [scratch, codedClass_scratch] using other)]
  · rw [if_pos (by simp [codedClass_scratch.mpr new]), if_neg (by simp [paged])]
  · rw [if_pos (by rw [window, Bool.or_true]), if_neg (by simp [paged])]

section
variable (idle : o.mover.st = .idle) (paged : o.cls ≠ .scratch) (noWindow : a.windows.any (fun w => w.2.obj == m.f 0 4) = false)
include idle paged noWindow

/-- OBJ_SET_CLASS to HELD brings the object's pages in, where there are frames for them. -/
theorem objSetClassH_held (h0 : m.f 4 1 = 0) (new : o.cls ≠ .held) :
    objSetClassH a m = if framesFor a o = true then
        (promotePages (a.modObj (m.f 0 4) (fun o => { o with cls := .held })) (m.f 0 4) none 0 o.pages, .done 0 [])
      else (a, .done 0x55 []) := by
  have held : codedClass (m.f 4 1) = .held := by rw [h0]; rfl
  rw [objSetClassH_idle own idle, held, if_neg (by simp [paged, noWindow])]
  cases framesFor a o with
  | false => exact if_pos (by simp [new])
  | true => exact (if_neg (by simp)).trans (congrArg (·, Answer.done 0 []) (if_pos (by simp [new])))

theorem objSetClassH_warm (h1 : m.f 4 1 = 1) :
    objSetClassH a m = (a.modObj (m.f 0 4) (fun o => { o with cls := .warm }), .done 0 []) := by
  have warm : codedClass (m.f 4 1) = .warm := by rw [h1]; rfl
  rw [objSetClassH_idle own idle, warm, if_neg (by simp [paged, noWindow])]
  rfl

end

/-! ### OBJ_QUERY and WIN_CREATE -/

/-- What OBJ_QUERY reports: 40 bytes, of which the first three are the class, the layout and the mover (R168). -/
theorem objQueryH_own : ∃ out, objQueryH a m = (a, .done 0 out) ∧ out.length = 40 ∧
    out.take 3 = leBytes 1 (classCode o.cls) ++ leBytes 1 (layoutCode o.layout) ++ leBytes 1 (moverCode o.mover.st) := by
  simp only [objQueryH, own]
  exact ⟨_, rfl, by simp, by simp [leBytes]⟩

/-- A window is made of an unversioned held object that nothing writes or moves (R211). -/
theorem winCreateH_made (held : o.cls = .held) (plain : o.versioned = false) (unbound : boundForWriting a (m.f 0 4) = false)
    (idle : o.mover.st = .idle) (noWindow : a.windows.any (fun w => w.2.obj == m.f 0 4) = false) (number : a.windows.length < 4096)
    (size : windowBytes a + o.pages * 65536 ≤ 0x4000000000) :
    winCreateH a m = (({ a with windows := mput a.windows a.nextWindow { obj := m.f 0 4 }, nextWindow := a.nextWindow + 1 }.modCtx
      o.owner (fun x => { x with decDue := true })), .done 0 (leBytes 4 a.nextWindow)) := by
  rw [winCreateH, own]
  exact (if_neg (by simp [held])).trans ((if_neg (by simp [plain])).trans ((if_neg (by simp [unbound, idle, noWindow])).trans
    (if_neg (by simp [number, size]))))

end

/-! ### WIN_DELETE (R220) -/

theorem winDeleteH_none {a : State} {m : MciCall} (h : mget? a.windows (m.f 0 4) = none) : winDeleteH a m = (a, .done 0x62 []) := by
  simp only [winDeleteH, h]

/-- WIN_DELETE of a window of one's own recalls the window's lines and waits; the decoders follow at their commit (R220). -/
theorem winDeleteH_own {a : State} {m : MciCall} {w : Window} {o : Obj} (hw : mget? a.windows (m.f 0 4) = some w)
    (ho : objAt a w.obj = some o) (own : ownsObj m o = true) (stays : leaving a m.ctx w.obj = false) :
    (w.deleting = true → winDeleteH a m = (a, .done 0x13 [])) ∧
    (w.deleting = false → winDeleteH a m =
      ((recallRun { a with windows := mput a.windows (m.f 0 4) { w with deleting := true, waiter := some (m.via, m.tag) } }
        o.base (o.pages * 65536)).modCtx o.owner (fun x => { x with decDue := true }), .waits)) := by
  simp only [winDeleteH, hw, ho]
  rw [if_neg (by simp [own]), if_neg (by simp [stays])]
  exact ⟨fun gone => if_pos gone, fun live => if_neg (by simp [live])⟩

/-! ### DRAM_ORDER_SET (R241) -/

/-- The objects of the units that a DRAM_ORDER_SET names. -/
def orderedObjects (a : State) (m : MciCall) : List (Nat × Obj) :=
  a.objects.filter (fun o => decide (m.f 0 8 / 0x10000000 ≤ o.2.base / 0x10000000) &&
    decide (o.2.base / 0x10000000 < m.f 0 8 / 0x10000000 + m.f 8 4))

/-- An order of whole units that the caller holds is set while no object in them is bound or resident. -/
theorem orderSetH_granted {a : State} {m : MciCall} (aligned : m.f 0 8 % 0x10000000 = 0)
    (range : m.f 0 8 / 0x10000000 + m.f 8 4 ≤ 524288)
    (granted : m.owner = true ∨ grantedRun a m.c (m.f 0 8) (m.f 8 4 * 0x10000000) = true) :
    ((∀ o ∈ orderedObjects a m, objBound a o.1 = false ∧ residentPids a o.1 = []) → orderSetH a m = ({ a with
      orders := (List.range (m.f 8 4)).foldl (fun t i => mput t (m.f 0 8 / 0x10000000 + i) (BitVec.ofNat 2 (m.f 12 1), m.f 13 1 == 1))
        a.orders }, .done 0 [])) ∧
    ((∃ o ∈ orderedObjects a m, objBound a o.1 = true ∨ residentPids a o.1 ≠ []) → orderSetH a m = (a, .done 0x13 [])) := by
  have used : (orderedObjects a m).any (fun o => objBound a o.1 || !(residentPids a o.1).isEmpty) = true ↔
      ∃ o ∈ orderedObjects a m, objBound a o.1 = true ∨ residentPids a o.1 ≠ [] := by simp
  have taken : orderSetH a m = if (orderedObjects a m).any (fun o => objBound a o.1 || !(residentPids a o.1).isEmpty) = true then
      (a, .done 0x13 []) else ({ a with orders := (List.range (m.f 8 4)).foldl (fun t i =>
        mput t (m.f 0 8 / 0x10000000 + i) (BitVec.ofNat 2 (m.f 12 1), m.f 13 1 == 1)) a.orders }, .done 0 []) :=
    (if_neg (by simp [aligned, range])).trans (if_neg (by rcases granted with h | h <;> simp [h]))
  refine ⟨fun free => taken.trans (if_neg fun h => ?_), fun held => taken.trans (if_pos (used.mpr held))⟩
  obtain ⟨o, ho, bad⟩ := used.mp h
  obtain ⟨unbound, absent⟩ := free o ho
  rcases bad with b | r
  · exact Bool.false_ne_true (unbound.symm.trans b)
  · exact r absent

end Sys2Proof.Machine

namespace Sys2Proof.Proofs
open Machine

/-- Settles O43: each command by what its handler does, the refusals of an object by `ownObject_cases` and `ownCommands_refused`. -/
theorem objectCommands : Obligations.ObjectCommands := by
  refine fun s via input a m => ⟨fun h => ?create, fun op i hi h => ?refusals, fun o ho mine stays => ?own, fun h => ?delete,
    fun h => ?order⟩
  case create =>
    exact ⟨fun st bad => next_mci_done h (objCreateH_refused bad), fun o made =>
      ⟨fun short => next_mci_done h ((objCreateH_made made).1 short), fun t k done => next_mci_done h ((objCreateH_made made).2 t k done)⟩⟩
  case refusals =>
    obtain ⟨hd, command⟩ : ∃ hd, (op, i, hd) ∈ ownCommands via input := by
      simp only [List.mem_cons, List.not_mem_nil, or_false, Prod.mk.injEq] at hi
      rcases hi with ⟨rfl, rfl⟩ | ⟨rfl, rfl⟩ | ⟨rfl, rfl⟩ | ⟨rfl, rfl⟩ | ⟨rfl, rfl⟩ <;> simp [ownCommands]
    obtain ⟨missing, found⟩ := ownObject_cases a m (m.f 0 4)
    refine ⟨fun ho => ownCommands_refused command h (missing ho), fun o ho => ?_⟩
    obtain ⟨foreign, released, -⟩ := found o ho
    exact ⟨fun other => ownCommands_refused command h (foreign other), fun mine gone => ownCommands_refused command h (released mine gone)⟩
  case own =>
    have own := ((ownObject_cases a m (m.f 0 4)).2 o ho).2.2 mine stays
    refine ⟨fun h => ⟨fun used => ?_, fun idle unbound => ?_⟩, fun h busy => next_mci_done h (objSetClassH_busy own busy),
      fun h idle fixed => next_mci_done h (objSetClassH_fixed own idle fixed), fun h idle paged noWindow => ⟨fun h0 new short => ?_,
      fun h0 new room => ?_, fun h1 => next_mci_done h (objSetClassH_warm own idle paged noWindow h1)⟩, fun h => ?_,
      fun h held plain unbound idle noWindow number size =>
        next_mci_done h (winCreateH_made own held plain unbound idle noWindow number size)⟩
    · exact next_mci_done h ((objDeleteH_own own).trans (if_pos (by simpa using used)))
    · exact next_mci_done h ((objDeleteH_own own).trans (if_neg (by simp [idle, unbound])))
    · exact next_mci_done h ((objSetClassH_held own idle paged noWindow h0 new).trans (if_neg (by simp [short])))
    · exact next_mci_done h ((objSetClassH_held own idle paged noWindow h0 new).trans (if_pos room))
    · obtain ⟨out, query, length, front⟩ := objQueryH_own own
      exact ⟨out, next_mci_done h query, length, front⟩
  case delete =>
    refine ⟨fun hw => next_mci_done h (winDeleteH_none hw), fun w o hw ho mine stays => ?_⟩
    obtain ⟨again, first⟩ := winDeleteH_own hw ho mine stays
    exact ⟨fun gone => next_mci_done h (again gone), fun live => ⟨_, rfl, congrArg Host.Outcome.next (mci_waits h (first live))⟩⟩
  case order =>
    refine fun aligned range granted => ⟨fun free => ?_, fun held => ?_⟩
    · exact next_mci_done h ((orderSetH_granted aligned range granted).1 free)
    · exact next_mci_done h ((orderSetH_granted aligned range granted).2 held)

end Sys2Proof.Proofs

/-! ## Clean evictions and back-invalidate responses (R214, R215, R322) -/

namespace Sys2Proof.Machine

theorem sendDone_waits (s : State) (p : Port) (src : SrcId) (tag : BitVec 16) (mv : MetaValue) :
    (sendDone s p src tag mv).waits = s.waits := by
  unfold sendDone
  dsimp only
  split <;> rfl

theorem putDir_some_waits (s : State) (dev : Nat) (e : DirEntry) : (putDir s dev (some e)).waits = s.waits := rfl

/-- With no request that waits for a directory entry, a retry of those does nothing (R216). -/
theorem retryEntries_none {s : State} (h : ∀ w ∈ s.waits, w.why ≠ .entry) : retryEntries s = s := by
  have kept : s.waits.filter (fun w => w.why != .entry) = s.waits := List.filter_eq_self.mpr (by simpa using h)
  have retried : s.waits.filter (fun w => w.why == .entry) = [] := List.filter_eq_nil_iff.mpr (by simpa using h)
  rw [retryEntries, kept, retried]
  rfl

section
variable {s : State} {p : Port} {src id : SrcId} {hpa : DWord} {c : Ctx} {dev : Nat}

/-- A clean eviction outside the windows completes and changes no directory entry. -/
theorem execMemClnEvct_plain (h : front s p src hpa = .decoded c id dev) (hw : windowOf s dev = none) (tag : BitVec 16) :
    execMemClnEvct p src hpa tag s = .next (sendDone s p id tag .i) := by
  simp only [execMemClnEvct, h, hw]
  rfl

/-- A clean eviction of a line of a window that has an entry: it joins the queue of a running recall, and otherwise the copy is
dropped and the request completes. -/
theorem execMemClnEvct_window (h : front s p src hpa = .decoded c id dev) (idle : ∀ w ∈ s.waits, w.why ≠ .entry)
    (hw : windowOf s dev ≠ none) {e : DirEntry} (he : dirAt s dev = some e) (tag : BitVec 16) :
    (e.st = .recalling → execMemClnEvct p src hpa tag s =
      .next (putDir s dev (some { e with queue := e.queue ++ [.evict (senderOf s p id c tag)] }))) ∧
    (e.st ≠ .recalling → (dropCopy s dev id).waits = s.waits → execMemClnEvct p src hpa tag s =
      .next (sendDone (dropCopy s dev id) p id tag .i)) := by
  have run : execMemClnEvct p src hpa tag s = .next (retryEntries (dirRequest s dev (.evict (senderOf s p id c tag)))) := by
    simp only [execMemClnEvct, h]
    rw [if_pos (Option.isSome_iff_ne_none.mpr hw)]
  rw [run]
  simp only [dirRequest, expiredReq, he]
  refine ⟨fun recalls => ?_, fun settled kept => ?_⟩
  · simp only [recalls]
    exact congrArg Host.Outcome.next (retryEntries_none idle)
  · have done : ∀ w ∈ (sendDone (dropCopy s dev id) p id tag .i).waits, w.why ≠ .entry := by
      rw [sendDone_waits, kept]
      exact idle
    cases st : e.st with
    | recalling => exact absurd st settled
    | shared => exact congrArg Host.Outcome.next (retryEntries_none done)
    | exclusive => exact congrArg Host.Outcome.next (retryEntries_none done)

end

/-- What a clean eviction leaves of an entry that no recall runs on (R214). -/
theorem dropCopy_entry {s : State} {dev : Nat} {id : SrcId} {e : DirEntry} (he : dirAt s dev = some e) :
    (e.st = .exclusive → id ∈ e.sharers → dropCopy s dev id = { s with directory := mdel s.directory (dev / 64) }) ∧
    (e.st = .shared → (∀ x ∈ e.sharers, x = id) → e.broad = false →
      dropCopy s dev id = { s with directory := mdel s.directory (dev / 64) }) ∧
    (e.st = .shared → (∃ x ∈ e.sharers, x ≠ id) →
      dropCopy s dev id = putDir s dev (some { e with sharers := e.sharers.filter (fun x => x != id) })) := by
  rw [dropCopy, he]
  dsimp only
  refine ⟨fun st holder => ?_, fun st last narrow => ?_, fun st others => ?_⟩
  · rw [st]
    exact if_pos (by simpa using holder)
  · rw [st]
    exact if_pos (by simpa [narrow] using last)
  · rw [st]
    exact if_neg (by simp [others])

/-- A response of a target is recorded, and that of the last target ends the recall. -/
theorem recordRsp_target {s : State} {dev : Nat} {id : SrcId} {e : DirEntry} (he : dirAt s dev = some e)
    (recalls : e.st = .recalling) (target : id ∈ e.targets) (shared : Bool) :
    let e' := { e with targets := e.targets.filter (fun x => x != id), kept := if shared then e.kept ++ [id] else e.kept }
    recordRsp s dev id shared = if (∀ x ∈ e.targets, x = id) then endRecall s dev e' else putDir s dev (some e') := by
  simp only [recordRsp, he]
  rw [if_pos ⟨recalls, by simpa using target⟩]
  exact if_congr (by simp) rfl rfl

end Sys2Proof.Machine

namespace Sys2Proof.Proofs
open Machine

/-- Settles O19: clean evictions by `execMemClnEvct_window` with `dropCopy_entry`, responses by `recordRsp_target`. -/
theorem cleanEvictionsAndResponses : Obligations.CleanEvictionsAndResponses := by
  intro s p src hpa tag dev shared
  refine ⟨rfl, fun c id d h idle => ⟨fun hw => execMemClnEvct_plain h hw tag, fun hw e he => ?evict⟩,
    fun e he recalls target => ⟨?conflict, fun c hc => ?response⟩⟩
  case evict =>
    obtain ⟨queued, dropped⟩ := execMemClnEvct_window h idle hw he tag
    obtain ⟨holder, last, leaves⟩ := dropCopy_entry (id := id) he
    refine ⟨fun st hid => ?_, fun st hall narrow => ?_, fun st others => ?_, queued⟩
    · exact holder st hid ▸ dropped (by simp [st]) (by rw [holder st hid])
    · exact last st hall narrow ▸ dropped (by simp [st]) (by rw [last st hall narrow])
    · exact leaves st others ▸ dropped (by simp [st]) (by rw [leaves st others, putDir_some_waits])
  case conflict =>
    refine congrArg Host.Outcome.next ?_
    simp only [he]
    exact if_pos ⟨recalls, by simpa using target⟩
  case response =>
    refine congrArg Host.Outcome.next ?_
    simp only [hc]
    exact recordRsp_target he recalls target shared

end Sys2Proof.Proofs

/-! ## Functions: resets, VF Enable, Bus Master Enable and MSI-X (R208, R334, R335, R346, R348 to R350, R352) -/

namespace Sys2Proof.Machine

theorem ifApplies_of {b : Bool} (h : b = true) (s t : State) : ifApplies b s t = .next t :=
  congrArg Host.Outcome.next (if_pos h)

theorem ifApplies_not {b : Bool} (h : b = false) (s t : State) : ifApplies b s t = .next s :=
  congrArg Host.Outcome.next (if_neg (by simp [h]))

/-! ### VF Enable (R208, R335) -/

theorem mem_portCtxs (p : Port) (lo hi : Nat) (d : Ctx) (h : hi ≤ 64) :
    d ∈ portCtxs p lo hi ↔ ctxPort d = p ∧ lo ≤ d.val % 64 ∧ d.val % 64 < hi := by
  have hp := p.isLt
  have number : ∀ i < 64, (toCtx (p.val * 64 + i)).val = p.val * 64 + i := fun i hi => Nat.mod_eq_of_lt (by omega)
  simp only [portCtxs, List.mem_filterMap, List.mem_range, Option.ite_none_right_eq_some, Option.some.injEq, Nat.min_eq_left h]
  constructor
  · rintro ⟨i, below, above, rfl⟩
    have hv := number i (by omega)
    refine ⟨Fin.ext ?_, ?_⟩
    · show (toCtx (p.val * 64 + i)).val / 64 = p.val
      omega
    · omega
  · rintro ⟨rfl, above, below⟩
    refine ⟨d.val % 64, below, above, Fin.ext ?_⟩
    rw [number _ (Nat.mod_lt _ (by decide))]
    show d.val / 64 * 64 + d.val % 64 = d.val
    omega

/-- A context's lease starts at its full length, unless it has expired (R208, R210). -/
def CtxState.startLease (run : Nat) (x : CtxState) : CtxState := if x.expired then x else { x with leaseRun := true, leaseFrom := run }

theorem CtxState.startLease_startLease (run : Nat) (x : CtxState) : (x.startLease run).startLease run = x.startLease run := by
  cases h : x.expired <;> simp [startLease, h]

/-- The leases of a list of contexts start. -/
def startLeases (s : State) (cs : List Ctx) : State :=
  cs.foldl (fun s c => s.modCtx c (CtxState.startLease s.ft.run)) s

theorem startLeases_outside (s : State) (cs : List Ctx) : startLeases s cs = { s with ctxs := (startLeases s cs).ctxs } := by
  induction cs generalizing s with
  | nil => rfl
  | cons c cs ih => exact (ih _).trans rfl

@[simp] theorem port_startLeases (s : State) (cs : List Ctx) (q : Port) : (startLeases s cs).port q = s.port q := by
  rw [startLeases_outside]; rfl

theorem ctx_startLeases (s : State) (cs : List Ctx) (d : Ctx) :
    (startLeases s cs).ctx d = if d ∈ cs then (s.ctx d).startLease s.ft.run else s.ctx d := by
  induction cs generalizing s with
  | nil => rfl
  | cons c cs ih =>
    have step : startLeases s (c :: cs) = startLeases (s.modCtx c (CtxState.startLease s.ft.run)) cs := rfl
    rw [step, ih, State.ctx_modCtx, State.modCtx_ft]
    by_cases e : d = c
    · subst e; simp [CtxState.startLease_startLease]
    · simp [e]

theorem addVfs_eq (s : State) (p : Port) (n : Nat) : addVfs s p n =
    startLeases (s.modPort p (fun x => { x with vfEnable := true, numVfs := n })) (portCtxs p (vfsOn s p) n) := rfl

/-! ### MSI-X messages that are pending (R334) -/

/-- A port with nothing pending sends nothing. -/
theorem sendPending_none {s : State} {p : Port} (h : (s.port p).msixPend = 0) : sendPending s (.pf p) = s :=
  List.foldl_fixed' (fun v => if_neg (by simp [h, bit])) _

end Sys2Proof.Machine

namespace Sys2Proof.Proofs
open Machine

/-- Settles O26: the commands by their conditions (`ifApplies_of`, `ifApplies_not`), the leases of new VFs by `ctx_startLeases`. -/
theorem functionResets : Obligations.FunctionResets := by
  refine ⟨fun s p c => ⟨fun on => ?_, fun off => ?_, fun n fewer => ?_, fun n up more room => ?added, fun up => ?_, rfl, rfl⟩,
    fun s p c => ⟨fun up => ⟨?_, ?_, fun v => ?_, ?_⟩, fun here => ⟨?_, ?_, fun v hv => ?_⟩,
      fun f gone => ⟨?_, ?_, fun v => ?_⟩, sendPending_none⟩⟩
  case added =>
    have run : exec (.vfEnableSet p n) s = .next (addVfs s p n.toNat) := ifApplies_of (by simp [up, more, room]) ..
    rw [addVfs_eq] at run
    refine ⟨_, run, ?_, ?_, fun q hq => ?_, fun d => ?_⟩
    · rw [startLeases_outside]; rfl
    · rw [port_startLeases, State.port_modPort_self]
    · rw [port_startLeases, State.port_modPort, if_neg hq]
    · simp only [ctx_startLeases, mem_portCtxs p _ _ d room, State.ctx_modPort, State.modPort_ft]
      cases h : (s.ctx d).expired <;> simp [CtxState.startLease, h]
  · exact ifApplies_of on ..
  · exact ifApplies_not off ..
  · exact ifApplies_of (by simp [fewer]) ..
  · exact ifApplies_of up ..
  · exact ifApplies_of up ..
  · exact ifApplies_of up ..
  · exact ifApplies_of up ..
  · exact ifApplies_of up ..
  · exact ifApplies_of here ..
  · exact ifApplies_of here ..
  · exact (ifApplies_of here ..).trans (congrArg Host.Outcome.next (if_pos hv))
  · exact ifApplies_not gone ..
  · exact ifApplies_not gone ..
  · exact ifApplies_not gone ..

end Sys2Proof.Proofs

/-! ## The walker: which entry of a work ring is taken (R208, R391, R392, R396, R403, R410) -/

namespace Sys2Proof.Machine

theorem takeEntry_notReady {s : State} {c : Ctx} {e : Line} (h : walkerReady s c e = false) (op : Nat) :
    takeEntry s c e op = .notTaken := if_pos (by simp [h])

/-- The walker takes no entry while the rings are off or draining, no entry is visible, the context is being unpicked, a FENCE
waits, 64 walker commands or four steward entries are in flight, or no event-ring entry is free (R392, R410). -/
theorem walkerReady_false {s : State} {c : Ctx} {e : Line}
    (h : (s.ctx c).ring.enabled = false ∨ (s.ctx c).ring.draining = true ∨ (s.ctx c).ring.wrHead = (s.ctx c).ring.wrTail ∨
      mhas s.rv.unpicks c.val = true ∨ (bits e.toNat 16 1 = 1 ∧ (s.ctx c).ring.flights ≠ []) ∨
      64 ≤ ((s.ctx c).ring.flights.filter (fun f => !f.steward)).length ∨
      (bits e.toNat 0 16 = 16 ∧ 4 ≤ ((s.ctx c).ring.flights.filter (·.steward)).length) ∨ erFree (s.ctx c).ring = 0) :
    walkerReady s c e = false := by
  rw [walkerReady]
  rcases h with off | drains | empty | unpicked | ⟨fence, busy⟩ | full | ⟨steward, four⟩ | noEntry
  · simp [off]
  · simp [drains]
  · simp [empty]
  · simp [unpicked]
  · have bar : bit (entryField e 2 1) 0 = true := by
      simp only [bits] at fence
      simp [bit, entryField, bits]
      omega
    simp [bar, busy]
  · simp [Nat.not_lt.mpr full]
  · simp [entryOp, steward, four]
  · simp [noEntry]

/-- HEAD of a context's work ring advances by one entry (R391). -/
def advanceHead (s : State) (c : Ctx) : State :=
  s.modCtx c (fun x => { x with ring := { x.ring with
    wrHead := BitVec.ofNat 12 ((x.ring.wrHead.toNat + 1) % ringSize x.ring.wrOrder) } })

/-- A context after the entry at HEAD of its ring has been taken: HEAD has advanced, the completion is reserved and the lease
restarts (R208, R392). -/
def entryTaken (s : State) (c : Ctx) (f : Flight) : State :=
  restartLease (s.modCtx c (fun x => { x with ring := { x.ring with
    wrHead := BitVec.ofNat 12 ((x.ring.wrHead.toNat + 1) % ringSize x.ring.wrOrder), flights := x.ring.flights ++ [f] } })) c

/-- The common status of an entry (R403). -/
def entryStatus (s : State) (c : Ctx) (e : Line) : Nat :=
  if entryReserved e then stReserved else if s.rv.outOfService then stOutOfService
  else if (s.ctx c).expired then stLeaseExpired else if (s.ctx c).quarantined && entryOp e != 16 then stQuarantined else stOK

/-- Taking an entry changes nothing that its common status is judged by. -/
theorem entryStatus_entryTaken (s : State) (c : Ctx) (f : Flight) (e : Line) : entryStatus (entryTaken s c f) c e = entryStatus s c e := by
  have context : ((entryTaken s c f).ctx c).expired = (s.ctx c).expired ∧ ((entryTaken s c f).ctx c).quarantined = (s.ctx c).quarantined := by
    simp only [entryTaken, restartLease, State.ctx_modCtx_self]
    split <;> exact ⟨rfl, rfl⟩
  obtain ⟨expired, quarantined⟩ := context
  rw [entryStatus, expired, quarantined]
  rfl

section
variable {s a : State} {c : Ctx} {e : Line} {op : Nat} {bs : List Byte} (ready : walkerReady s c e = true) (code : entryOp e = op)
include ready code

/-- An entry that is read as poisoned is ring error 5, and HEAD passes it. -/
theorem takeEntry_poisoned (line : ringLine s c = (a, bs, true)) : takeEntry s c e op = .ended (ringError (advanceHead a c) c 5) := by
  rw [takeEntry, if_neg (by simp [ready, code]), line]
  exact if_pos rfl

/-- An entry that is read without poison is taken; its common status ends it at once or lets its command run. -/
theorem takeEntry_read (line : ringLine s c = (a, bs, false)) (same : bytesLine bs = e) :
    let tag : Word := BitVec.ofNat 32 (entryField e 4 4)
    let b := entryTaken a c { tag := tag, opcode := BitVec.ofNat 16 op, steward := op == 16 }
    takeEntry s c e op = if entryStatus a c e = stOK then .taken b tag
      else .ended (endFlight b c tag (BitVec.ofNat 16 op) (entryStatus a c e) []) := by
  subst code
  intro tag b
  rw [← entryStatus_entryTaken a c { tag := tag, opcode := BitVec.ofNat 16 (entryOp e), steward := entryOp e == 16 } e, takeEntry,
    if_neg (by simp [ready]), line]
  dsimp only
  rw [if_neg Bool.false_ne_true, if_neg (by simp [same])]
  rfl

end

/-- NOP of an entry that is not taken changes nothing. -/
theorem execNop_notTaken {s : State} {c : Ctx} {e : Line} (h : takeEntry s c e 15 = .notTaken) : execNop c e s = .next s := by
  rw [execNop, ringCmd, h]

end Sys2Proof.Machine

namespace Sys2Proof.Proofs
open Machine

/-- Settles O31: the entries not taken by `walkerReady_false`, the others by `takeEntry_read` and `takeEntry_poisoned`. -/
theorem workRingEntriesTaken : Obligations.WorkRingEntriesTaken := by
  refine fun s c e op => ⟨fun idle => ?waits, fun a bs ready code line same _ _ => ?read,
    fun a bs ready code line => takeEntry_poisoned ready code line, fun a taken => ?nop⟩
  case waits =>
    have none := takeEntry_notReady (walkerReady_false idle)
    exact ⟨none op, execNop_notTaken (none 15)⟩
  case read =>
    have status : entryStatus a c e = if entryReserved e then 0x10 else if a.rv.outOfService then 0x17
        else if (a.ctx c).expired then 0x15 else if (a.ctx c).quarantined ∧ op ≠ 16 then 0x16 else 0 := by
      have op' : entryOp e = op := code
      simp only [entryStatus, op', stReserved, stOutOfService, stLeaseExpired, stQuarantined, stOK, Bool.and_eq_true, bne_iff_ne]
    rw [takeEntry_read ready code line same, status]
    exact ⟨fun ok => if_pos ok, fun bad => if_neg bad⟩
  case nop => exact congrArg Host.Outcome.next (ringCmd_taken taken _)

end Sys2Proof.Proofs

/-! ## Versions: what the handlers do (R221 to R234, R387) -/

namespace Sys2Proof.Machine

/-- The step of an accepted command whose handler waits. -/
theorem next_mci_waits {s : State} {via : Path} {op : Nat} {input : List Byte} {a : State} {m : MciCall}
    (h : Accepted s via op input a m) {hd : Handler} {b : State} (e : hd a m = (b, .waits)) :
    Host.Outcome.next (mci s via op input hd) = (.next b : Out) :=
  congrArg Host.Outcome.next (mci_waits h e)

/-! ### VER_INIT, VER_DRAFT and VER_OPEN (R221 to R224) -/

/-- VER_INIT makes the first version of an object that has neither a window nor a mover at work. -/
theorem verInitH_made {a : State} {m : MciCall} {o : Obj} (own : ownObject a m (m.f 0 4) = .ok o) (paged : o.cls ≠ .scratch)
    (noWindow : a.windows.any (fun w => w.2.obj == m.f 0 4) = false) (unbound : objBound a (m.f 0 4) = false)
    (idle : o.mover.st = .idle) (plain : o.versioned = false) (room : liveTotal a < 262144) :
    let b := a.modObj (m.f 0 4) (fun o => { o with versioned := true })
    verInitH a m = ({ b with contents := mmod { obj := m.f 0 4 } b.contents o.head (fun c => { c with version := 1 }) },
      .done 0 (leBytes 4 1)) := by
  rw [verInitH, own]
  exact (if_neg (by simp [paged])).trans ((if_neg (by simp [noWindow])).trans ((if_neg (by simp [unbound, idle, plain])).trans
    (if_neg (by omega))))

section
variable {a : State} {m : MciCall} {o : Obj} (ho : objAt a (m.f 0 4) = some o) (reached : reaches a m.c o = true)
include ho reached

theorem reachObject_reached : reachObject a m (m.f 0 4) = .ok o := by
  rw [reachObject, ho]
  exact if_pos reached

/-- VER_QUERY tells the head's version and the number of live versions. -/
theorem verQueryH_versioned (versioned : o.versioned = true) :
    ∃ rows, verQueryH a m = (a, .done 0 (leBytes 4 (versionOf a (currentHead o)) ++ leBytes 4 (liveContents a (m.f 0 4)).length
      ++ leBytes 4 0 ++ rows)) := by
  simp only [verQueryH, reachObject_reached ho reached, versioned, if_true]
  exact ⟨_, rfl⟩

variable {k : Nat} (hk : findVersion a (m.f 0 4) o (m.f 4 4) = some k) (free : viewStatus a m.c o (m.f 8 8) = 0)
include hk free

/-- VER_DRAFT makes a draft on a live version, at a free place. -/
theorem verDraftH_made (few : (liveContents a (m.f 0 4)).length < 64) (room : liveTotal a < 262144) :
    verDraftH a m = ({ a with
      contents := mput a.contents a.nextContent { obj := m.f 0 4, base := some k, draft := some a.nextView }
      nextContent := a.nextContent + 1
      views := mput a.views a.nextView { obj := m.f 0 4, content := a.nextContent, ctx := m.c, base := m.f 8 8, draft := true }
      nextView := a.nextView + 1 }, .done 0 (leBytes 4 a.nextView ++ leBytes 4 (versionOf a k))) := by
  simp only [verDraftH, reachObject_reached ho reached, hk]
  exact (if_neg (by simp [few, room])).trans (if_neg (not_not.mpr free))

/-- VER_OPEN makes a handle on a live version, at a free place. -/
theorem verOpenH_made (room : handleCount a < 65536) :
    verOpenH a m = ({ a with
      views := mput a.views a.nextView { obj := m.f 0 4, content := k, ctx := m.c, base := m.f 8 8, draft := false }
      nextView := a.nextView + 1 }, .done 0 (leBytes 4 a.nextView ++ leBytes 4 (versionOf a k))) := by
  simp only [verOpenH, reachObject_reached ho reached, hk]
  exact (if_neg (Nat.not_le.mpr room)).trans (if_neg (not_not.mpr free))

end

/-! ### Commands on a draft of one's own (R226 to R229) -/

/-- The state when a draft has become the next version of its object (R226, R227). -/
def published (a : State) (v : Nat) (x : View) (o : Obj) : State :=
  serveWaits ({ a with
    contents := mput a.contents x.content { contentAt a x.content with version := versionOf a (currentHead o) + 1, draft := none }
    views := mdel a.views v }.modObj x.obj (fun o => { o with newHead := some x.content }))

/-- The state when a draft has taken its object's head as its base (R228). -/
def rebased (a : State) (x : View) (o : Obj) : State :=
  retire { a with contents := mput a.contents x.content { contentAt a x.content with base := some (currentHead o) } } x.obj

/-- The pages of a draft's own that its base and the head do not have alike (R228). -/
def rebaseCount (a : State) (x : View) (o : Obj) (base : Nat) : Nat :=
  ((contentAt a x.content).own.filter (fun ix => !sameContent a (pidOf a base ix) (pidOf a (currentHead o) ix))).length

section
variable {a : State} {m : MciCall} {x : View} {o : Obj} (hx : draftOf a m (m.f 0 4) = some x) (ho : objAt a x.obj = some o)
  (stays : leaving a m.ctx x.obj = false)
include hx ho stays

/-- A command on a draft that a cue is bound to is refused (R226, R234). -/
theorem draftCommands_busy (busy : viewBusy a (m.f 0 4) = true) :
    verPublishH a m = (a, .done 0x13 []) ∧ verRebaseH a m = (a, .done 0x13 []) ∧ verDiscardH a m = (a, .done 0x13 []) := by
  simp only [verPublishH, verRebaseH, verDiscardH, hx, ho]
  have kept : ¬ leaving a m.ctx x.obj = true := by simp [stays]
  exact ⟨(if_neg kept).trans (if_pos busy), (if_neg kept).trans (if_pos busy), (if_neg kept).trans (if_pos busy)⟩

variable (idle : viewBusy a (m.f 0 4) = false)
include idle

/-- VER_PUBLISH of a draft whose base is no longer the head reports the conflict and changes no version (R227). -/
theorem verPublishH_conflict (other : (contentAt a x.content).base ≠ some (currentHead o)) :
    ∃ t, verPublishH a m = (t, .done 0x67 []) ∧ t.contents = a.contents ∧ t.views = a.views ∧ t.objects = a.objects := by
  simp only [verPublishH, hx, ho]
  rw [if_neg (by simp [stays]), if_neg (by simp [idle]), if_pos other]
  refine ⟨_, rfl, raise_contents .., ?_, raise_objects ..⟩
  rw [raise_reported]
  rfl

section
variable (head : (contentAt a x.content).base = some (currentHead o))
include head

theorem verPublishH_last (last : versionOf a (currentHead o) = 0xFFFFFFFF) : verPublishH a m = (a, .done 0x64 []) := by
  simp only [verPublishH, hx, ho]
  rw [if_neg (by simp [stays]), if_neg (by simp [idle]), if_neg (not_not.mpr head)]
  exact if_pos last

/-- VER_PUBLISH of a draft on the head makes it the next version, and waits while copies into it are in flight. -/
theorem verPublishH_next (more : versionOf a (currentHead o) ≠ 0xFFFFFFFF) :
    let b := published a (m.f 0 4) x o
    (copying b x.content = true → verPublishH a m = ({ b with pubs := b.pubs ++ [(x.obj, x.content, m.via, m.tag)] }, .waits)) ∧
    (copying b x.content = false → verPublishH a m = (b, .done 0 (leBytes 4 (versionOf a (currentHead o) + 1)))) := by
  simp only [verPublishH, hx, ho]
  rw [if_neg (by simp [stays]), if_neg (by simp [idle]), if_neg (not_not.mpr head), if_neg more]
  exact ⟨fun copies => if_pos copies, fun copied => if_neg (ne_true_of_eq_false copied)⟩

end

/-- VER_REBASE and VER_DISCARD wait for a page lock of the draft's object (R387). -/
theorem draftCommands_locked (locked : objLocked a x.obj = true) :
    verRebaseH a m = ({ a with lockWaits := a.lockWaits ++ [(0xC043, m)] }, .waits) ∧
    verDiscardH a m = ({ a with lockWaits := a.lockWaits ++ [(0xC044, m)] }, .waits) := by
  simp only [verRebaseH, verDiscardH, hx, ho]
  have kept : ¬ leaving a m.ctx x.obj = true := by simp [stays]
  have calm : ¬ viewBusy a (m.f 0 4) = true := by simp [idle]
  exact ⟨(if_neg kept).trans ((if_neg calm).trans (if_pos locked)), (if_neg kept).trans ((if_neg calm).trans (if_pos locked))⟩

variable (unlocked : objLocked a x.obj = false)
include unlocked

omit ho in
theorem verDiscardH_done : verDiscardH a m = (endView a (m.f 0 4), .done 0 []) := by
  simp only [verDiscardH, hx]
  rw [if_neg (by simp [stays]), if_neg (by simp [idle])]
  exact if_neg (by simp [unlocked])

theorem verRebaseH_done {b : Nat} (hb : (contentAt a x.content).base = some b) : verRebaseH a m =
    (rebased a x o, .done 0 (leBytes 4 (versionOf a (currentHead o)) ++ leBytes 4 (rebaseCount a x o b))) := by
  simp only [verRebaseH, hx, ho]
  rw [if_neg (by simp [stays]), if_neg (by simp [idle]), if_neg (by simp [unlocked]), hb]
  rfl

end

/-! ### VER_CLOSE (R234) -/

/-- VER_CLOSE of a handle of one's own ends it, or waits for a page lock of its object. -/
theorem verCloseH_handle {a : State} {m : MciCall} {x : View} (hx : mget? a.views (m.f 0 4) = some x) (handle : x.draft = false)
    (shown : x.hidden = false) (own : m.ctx = some x.ctx) (stays : leaving a m.ctx x.obj = false) (idle : viewBusy a (m.f 0 4) = false) :
    (objLocked a x.obj = true → verCloseH a m = ({ a with lockWaits := a.lockWaits ++ [(0xC046, m)] }, .waits)) ∧
    (objLocked a x.obj = false → verCloseH a m = (endView a (m.f 0 4), .done 0 [])) := by
  simp only [verCloseH, hx]
  rw [if_neg (by simp [handle, shown, own]), if_neg (by simp [stays]), if_neg (by simp [idle])]
  exact ⟨fun locked => if_pos locked, fun unlocked => if_neg (by simp [unlocked])⟩

/-! ### Waits for a lock that run out (R233) -/

/-- The wait of a steward's command ends with BUSY. -/
theorem lockExpired_steward {s : State} {via : Path} {op : BitVec 16} {tag : Word} {x : Nat × MciCall}
    (h : s.lockWaits.find? (fun x => x.1 != 0xC010 && x.1 == op.toNat && x.2.via == via && x.2.tag == tag) = some x) :
    lockExpired s (.steward via op tag) = answer (raise ({ s with lockWaits := s.lockWaits.erase x }.bump 0x50028 1) evWaitBroken
      x.2.ctx.toList (w1 2 ++ w2 (lockObject s x.2) ++ w2 tag.toNat ++ w1 0 ++ w1 0)) via tag x.1 0x13 [] := by
  simp only [lockExpired, h]
  rfl

/-- The wait of a mover's page puts the move off to the next boundary. -/
theorem lockExpired_mover {s : State} {pid k : Nat} {o : Obj} {x : Move} (object : pidObj s pid = some (k, o))
    (h : o.mover.moves.find? (fun m => m.pid == pid && !m.running) = some x) (locked : (pageAt s pid).lock = true) :
    lockExpired s (.mover pid) = raise ((setMove s k x false (s.ft.run + 1)).bump 0x50028 1) evWaitBroken [o.owner]
      (w1 1 ++ w2 (o.base + pidIx pid * 65536) ++ w2 k ++ w1 0 ++ w1 0) := by
  simp only [lockExpired, object, h]
  exact if_neg (by simp [locked])

end Sys2Proof.Machine

namespace Sys2Proof.Proofs
open Machine

/-- Settles O44: each command by what its handler does (`next_mci_done`, and `next_mci_waits` where it waits), the timers by
`lockExpired_steward` and `lockExpired_mover`. -/
theorem versionCommands : Obligations.VersionCommands := by
  refine fun s via input a m => ⟨fun o h ho own paged stays noWindow unbound idle plain room => ?init, fun o k ho reached hk free =>
    ⟨fun h few room => ?draft, fun h room => ?handle⟩, fun x o hx ho stays => ⟨fun busy op i hi h => ?busy, fun idle h => ?publish,
    fun idle locked => ?locked, fun idle unlocked => ?unlocked⟩, fun x h hx handle shown own stays idle => ?close,
    fun o h ho reached versioned => ?query, fun op tag x h => congrArg Host.Outcome.next (lockExpired_steward h),
    fun pid k o x object h locked => congrArg Host.Outcome.next (lockExpired_mover object h locked)⟩
  case init =>
    have mine := ((ownObject_cases a m (m.f 0 4)).2 o ho).2.2 own stays
    exact ⟨_, rfl, next_mci_done h (verInitH_made mine paged noWindow unbound idle plain room)⟩
  case draft => exact next_mci_done h (verDraftH_made ho reached hk free few room)
  case handle => exact next_mci_done h (verOpenH_made ho reached hk free room)
  case busy =>
    obtain ⟨publish, rebase, discard⟩ := draftCommands_busy hx ho stays busy
    simp only [List.mem_cons, List.not_mem_nil, or_false, Prod.mk.injEq] at hi
    rcases hi with ⟨rfl, rfl⟩ | ⟨rfl, rfl⟩ | ⟨rfl, rfl⟩
    · exact next_mci_done h publish
    · exact next_mci_done h rebase
    · exact next_mci_done h discard
  case publish =>
    refine ⟨fun other => ?_, fun head last => next_mci_done h (verPublishH_last hx ho stays idle head last), fun head more => ?_⟩
    · obtain ⟨t, conflict, kept⟩ := verPublishH_conflict hx ho stays idle other
      exact ⟨t, next_mci_done h conflict, kept⟩
    · obtain ⟨waits, done⟩ := verPublishH_next hx ho stays idle head more
      exact ⟨fun copies => next_mci_waits h (waits copies), fun copied => next_mci_done h (done copied)⟩
  case locked =>
    obtain ⟨rebase, discard⟩ := draftCommands_locked hx ho stays idle locked
    exact ⟨fun h => next_mci_waits h rebase, fun h => next_mci_waits h discard⟩
  case unlocked =>
    exact ⟨fun h => next_mci_done h (verDiscardH_done hx stays idle unlocked),
      fun b h hb => next_mci_done h (verRebaseH_done hx ho stays idle unlocked hb)⟩
  case close =>
    obtain ⟨waits, closed⟩ := verCloseH_handle hx handle shown own stays idle
    exact ⟨fun locked => next_mci_waits h (waits locked), fun unlocked => next_mci_done h (closed unlocked)⟩
  case query =>
    obtain ⟨rows, query⟩ := verQueryH_versioned ho reached versioned
    exact ⟨rows, next_mci_done h query⟩

end Sys2Proof.Proofs

/-! ## Leases and grants (R205 to R210, R381) -/

namespace Sys2Proof.Machine

/-! ### LEASE_RENEW and LEASE_SET (R208, R210) -/

theorem leaseRenewH_eq (a : State) (m : MciCall) :
    ((a.ctx m.c).expired = true → leaseRenewH a m = (a, .done 0x15 [])) ∧
    ((a.ctx m.c).expired = false → leaseRenewH a m = (restartLease a m.c, .done 0 (leBytes 4 (a.ctx m.c).leaseMs))) :=
  ⟨fun h => if_pos h, fun h => if_neg (by simp [h])⟩

theorem leaseSetH_refused {a : State} {m : MciCall} :
    (512 ≤ m.f 0 2 → leaseSetH a m = (a, .done 0x14 [])) ∧
    (m.f 0 2 < 512 → m.f 4 4 < 1000 ∨ 3600000 < m.f 4 4 → leaseSetH a m = (a, .done 0x12 [])) :=
  ⟨fun h => if_pos h, fun h range => (if_neg (Nat.not_le.mpr h)).trans (if_pos range)⟩

/-- A lease length between 1 s and 1 h is set, and with REARM the lease restarts and EXPIRED ends. -/
theorem leaseSetH_set {a : State} {m : MciCall} (h : m.f 0 2 < 512) (low : 1000 ≤ m.f 4 4) (high : m.f 4 4 ≤ 3600000) :
    let b := a.modCtx (toCtx (m.f 0 2)) (fun x => { x with leaseMs := m.f 4 4 })
    (m.f 2 1 ≠ 1 → leaseSetH a m = (b, .done 0 [])) ∧
    (m.f 2 1 = 1 → leaseSetH a m = (b.modCtx (toCtx (m.f 0 2)) (fun x => { x with
      expired := false, leaseRun := ctxEnabled b (toCtx (m.f 0 2)), leaseFrom := b.ft.run }), .done 0 [])) := by
  have inRange : ¬ (m.f 4 4 < 1000 ∨ 3600000 < m.f 4 4) := by omega
  rw [leaseSetH]
  dsimp only
  rw [if_neg (Nat.not_le.mpr h), if_neg inRange]
  exact ⟨fun keep => if_neg keep, fun rearm => if_pos rearm⟩

/-! ### The fabric manager's commands (R206, R381) -/

/-- A command of the fabric manager that the steward hears acts for the context of its host identifier. -/
theorem fmCommand_heard {s : State} {n : Fin 2} (heard : stewardHears s (.sideband n) = true) (c : Ctx) (f : Ctx → Option State) :
    fmCommand s n (BitVec.ofNat 16 c.val) f = (f c).elim (s.emit (.fm n 2 [])) (fun t => t.emit (.fm n 0 [])) := by
  have lt := c.isLt
  have number : (BitVec.ofNat 16 c.val).toNat = c.val := by
    rw [BitVec.toNat_ofNat]
    exact Nat.mod_eq_of_lt (by omega)
  have context : ∀ h, (⟨(BitVec.ofNat 16 c.val).toNat, h⟩ : Ctx) = c := fun h => Fin.ext number
  rw [fmCommand, if_neg (by simp [heard]), dif_pos (number.trans_lt lt), context]
  cases f c <;> rfl

/-- Only an ACTIVE grant is released. -/
theorem releaseGrant_grant {s : State} {c : Ctx} {base length : Nat} {x : Extent} {g : Grant}
    (hx : extentAt s base length = some x) (hg : grantOf x c = some g) :
    releaseGrant s c base length = if g.st = .active then some (startRelease s x c) else none := by
  simp only [releaseGrant, hx, hg]

section
variable {s : State} {n : Fin 2} (heard : stewardHears s (.sideband n) = true) {c : Ctx} {base length : DWord}
include heard

/-- FM_DC_ADD while the vault serves: the offer is made and recorded, or fails where R205 and R206 let it. -/
theorem execFmDcAdd_heard (serving : s.rv.outOfService = false) (tag : BitVec 128) (sh : Bool) :
    (∀ t x, addGrant s c base.toNat length.toNat tag sh = some t → mget? t.extents (base.toNat / unitBytes) = some x →
      execFmDcAdd n (BitVec.ofNat 16 c.val) base length tag sh s = .next ((dcRecord t c 0 x).emit (.fm n 0 []))) ∧
    (addGrant s c base.toNat length.toNat tag sh = none →
      execFmDcAdd n (BitVec.ofNat 16 c.val) base length tag sh s = .next (s.emit (.fm n 2 []))) := by
  simp only [execFmDcAdd, serving, fmCommand_heard heard, Bool.false_and]
  refine ⟨fun t x added here => ?_, fun refused => ?_⟩
  · simp only [added, Option.map_some, here]
    rfl
  · rw [refused]
    rfl

variable {x : Extent} {g : Grant} (hx : extentAt s base.toNat length.toNat = some x) (hg : grantOf x c = some g)
include hx hg

theorem execFmDcWithdraw_grant : execFmDcWithdraw n (BitVec.ofNat 16 c.val) base length s =
    .next (if g.st = .offered then (s.dropGrant x.base c).emit (.fm n 0 []) else s.emit (.fm n 2 [])) := by
  simp only [execFmDcWithdraw, fmCommand_heard heard, hx, hg]
  by_cases h : g.st = .offered <;> simp [h]

theorem execFmDcForceRelease_grant : execFmDcForceRelease n (BitVec.ofNat 16 c.val) base length s =
    .next (if g.st = .active then (startRelease s x c).emit (.fm n 0 []) else s.emit (.fm n 2 [])) := by
  simp only [execFmDcForceRelease, fmCommand_heard heard, releaseGrant_grant hx hg]
  by_cases h : g.st = .active <;> simp [h]

end

/-! ### The host's commands (R206, R381) -/

/-- A CXL command of a mailbox that the steward hears acts for the mailbox's current context. -/
theorem cxlForCtx_heard {s : State} {p : Port} {b : Bool} (heard : stewardHears s (.mailbox p b) = true) {c : Ctx}
    (hc : (mbox s p b).ctx = some c) (f : Ctx → State) : cxlForCtx s p b f = f c := by
  rw [cxlForCtx, if_neg (by simp [heard]), hc]

/-- The host's answer to an offer. -/
theorem respondOffer_offered {s : State} {c : Ctx} {base length : Nat} {x : Extent} {g : Grant}
    (hx : extentAt s base length = some x) (hg : grantOf x c = some g) (offered : g.st = .offered) (p : Port) (b accept : Bool) :
    respondOffer s p b c base length accept =
      if accept then cxlAnswer (stageCommit (s.modGrant x.base c (fun g => { g with st := .active })) c) p b 0 []
      else cxlAnswer ((s.dropGrant x.base c).emit (.fmReport c x.base 0)) p b 0 [] := by
  simp only [respondOffer, hx, hg]
  exact if_neg (not_not.mpr offered)

/-! ### The ends of offers and of releases (R206, R207) -/

section
variable {s : State} {c : Ctx} {base : DWord} {x : Extent} {g : Grant} (hx : mget? s.extents (base.toNat / unitBytes) = some x)
  (hg : grantOf x c = some g) (aligned : base.toNat % unitBytes = 0)
include hx hg aligned

theorem execDcOfferTimeout_offered (offered : g.st = .offered) :
    execDcOfferTimeout c base s = .next ((s.dropGrant x.base c).emit (.fmReport c x.base 1)) := by
  simp only [execDcOfferTimeout, hx, hg]
  exact congrArg Host.Outcome.next (if_pos ⟨offered, aligned⟩)

theorem execGrantReleaseComplete_done (releasing : g.st = .releasing) (leaves : g.leaving = true) (dead : g.live = false)
    (settled : (s.ctx c).decBusy = false) : execGrantReleaseComplete c base s =
      .next (leaveExpired (dcRecord (((releaseObjects s x c).dropGrant x.base c).emit (.fmReport c x.base 2)) c 1 x) c) := by
  simp only [execGrantReleaseComplete, hx, hg]
  exact congrArg Host.Outcome.next (if_pos ⟨releasing, leaves, dead, settled, aligned⟩)

end

end Sys2Proof.Machine

namespace Sys2Proof.Proofs
open Machine

/-- Settles O45: leases by `leaseRenewH_eq` and `leaseSetH_set`, the fabric manager's commands by `fmCommand_heard`, the host's by
`cxlForCtx_heard`, the end of a release by `execGrantReleaseComplete_done`. -/
theorem leasesAndGrants : Obligations.LeasesAndGrants := by
  refine fun s => ⟨fun via input a m => ⟨fun h => ?renew, fun h => ?set⟩, fun c => ⟨fun runs live => ?expires, fun idle => ?stays⟩,
    fun n c base length heard => ?manager, fun p b c base length x g heard hc hx hg => ?host, fun c base x g hx hg aligned =>
    ⟨execDcOfferTimeout_offered hx hg aligned, execGrantReleaseComplete_done hx hg aligned⟩⟩
  case renew =>
    obtain ⟨expired, live⟩ := leaseRenewH_eq a m
    exact ⟨fun e => next_mci_done h (expired e), fun e => next_mci_done h (live e)⟩
  case set =>
    obtain ⟨noContext, range⟩ := leaseSetH_refused (a := a) (m := m)
    refine ⟨fun n => next_mci_done h (noContext n), fun n r => next_mci_done h (range n r), fun n low high => ?_⟩
    obtain ⟨keep, rearm⟩ := leaseSetH_set (a := a) n low high
    exact ⟨fun k => next_mci_done h (keep k), fun r => next_mci_done h (rearm r)⟩
  case expires =>
    refine (ifApplies_of (by simp [runs, live]) ..).trans ?_
    simp only [expireLease, leaseActions, leaseWalk, List.flatMap_cons, List.flatMap_nil, List.append_assoc, List.append_nil]
  case stays => exact ifApplies_not (by rcases idle with h | h <;> simp [h]) ..
  case manager =>
    refine ⟨fun tag sh t x serving => (execFmDcAdd_heard heard serving tag sh).1 t x,
      fun tag sh serving => (execFmDcAdd_heard heard serving tag sh).2, fun x g hx hg => ?_⟩
    rw [exec_fmDcWithdraw, exec_fmDcForceRelease, execFmDcWithdraw_grant heard hx hg, execFmDcForceRelease_grant heard hx hg]
    exact ⟨fun h => congrArg _ (if_pos h), fun h => congrArg _ (if_neg h), fun h => congrArg _ (if_pos h), fun h => congrArg _ (if_neg h)⟩
  case host =>
    rw [exec_addDcResponse, exec_addDcResponse, exec_releaseDc]
    simp only [execAddDcResponse, execReleaseDc, cxlForCtx_heard heard hc, releaseGrant_grant hx hg]
    refine ⟨fun offered => ?_, fun active => ?_, fun other => ?_⟩
    · simp only [respondOffer_offered hx hg offered]
      exact ⟨rfl, rfl⟩
    · rw [if_pos active]
      rfl
    · rw [if_neg other]
      rfl

end Sys2Proof.Proofs

/-! ## Sensor readings, input power and the module reference (R250, R455, R464, R466, R468, R473, R478) -/

namespace Sys2Proof.Machine

/-! ### What a package reset leaves of the power state (R424) -/

@[simp] theorem raiseAll_pw (s : State) (e : EvDef) (ws : List Word) : (raiseAll s e ws).pw = s.pw := by
  rw [show raiseAll s e ws = _ from raiseAll_reported s e ws]

@[simp] theorem checkFlash_pw (s : State) : (checkFlash s).pw = s.pw := by
  unfold checkFlash
  dsimp only
  split
  · exact raiseAll_pw ..
  · split <;> rfl

@[simp] theorem checkFlash_ft (s : State) : (checkFlash s).ft = s.ft := by
  unfold checkFlash
  dsimp only
  split
  · exact raiseAll_ft ..
  · split <;> rfl

theorem freeFrames_pw (s : State) (pid : Nat) : (freeFrames s pid).pw = s.pw := by
  unfold freeFrames
  refine foldl_keeps State.pw (fun s f => ?_) ..
  rfl

theorem freeHome_pw (s : State) (pid : Nat) : (freeHome s pid).pw = s.pw := by
  unfold freeHome
  split <;> rfl

theorem dropPage_pw (s : State) (pid : Nat) : (dropPage s pid).pw = s.pw :=
  (checkFlash_pw _).trans ((freeHome_pw ..).trans (freeFrames_pw ..))

theorem retire_pw (s : State) (n : Nat) : (retire s n).pw = s.pw := foldl_keeps State.pw dropPage_pw ..

/-- Bringing the journalled tables to what they are after a package reset leaves the power state. -/
theorem keepTables_pw (s : State) : (keepTables s).pw = s.pw := by
  unfold keepTables
  refine foldl_keeps State.pw (fun s o => ?_) ..
  exact retire_pw s o.1

/-- The power state after a package reset: what the input and the pins give, and the last temperatures, stand. -/
def PwState.afterReset (w : PwState) (cause stage : Nat) : PwState :=
  { stage := stage, cause := cause, lastCause := w.cause, power := w.power, pwrEn := w.pwrEn, modRst := w.modRst
    tempA := w.tempA, tempB := w.tempB, tempHub := w.tempHub }

theorem doPackageReset_pw (s : State) (cause stage : Nat) : (doPackageReset s cause stage).pw = s.pw.afterReset cause stage := by
  rw [← keepTables_pw s]
  exact checkFlash_pw _

theorem doPackageReset_running (s : State) (cause stage : Nat) : (doPackageReset s cause stage).ft.running = false :=
  congrArg FtState.running (checkFlash_ft _)

/-- Start-up begins where the hub main domain is on, start-up has not begun and MOD_RST# is high; nothing else changes. -/
theorem powerUp_eq (s : State) : powerUp s = { s with pw := { s.pw with
    stage := if hubOn s = true ∧ s.pw.stage = 0 ∧ s.pw.modRst = false then 1 else s.pw.stage } } := by
  have begins : (hubOn s && s.pw.stage == 0 && !s.pw.modRst) = true ↔ hubOn s = true ∧ s.pw.stage = 0 ∧ s.pw.modRst = false := by
    simp [and_assoc]
  unfold powerUp
  by_cases h : hubOn s = true ∧ s.pw.stage = 0 ∧ s.pw.modRst = false
  · rw [if_pos (begins.mpr h), if_pos h]; rfl
  · rw [if_neg (mt begins.mp h), if_neg h]

/-! ### A reading of the input (R455, R463) -/

/-- The state of the input after a reading of the voltage, the current and the power means. -/
def PwState.measured (w : PwState) (mv da : BitVec 16) (m1 m10 : BitVec 12) (limit : Nat) : PwState :=
  let out := if 40000 ≤ mv.toNat ∧ mv.toNat ≤ 60000 then 0 else w.outRun + 1
  let inn := if 40500 ≤ mv.toNat ∧ mv.toNat ≤ 59500 then w.inRun + 1 else 0
  { w with
    mv := mv, deciamps := da, mean1s := m1, mean10ms := m10, limit := limit, outRun := out, inRun := inn
    outRange := if w.outRange then decide (inn < 1024) else decide (16 ≤ out)
    inputDue := w.inputDue ++ (if w.outRange = false ∧ 16 ≤ out then [false]
      else if w.outRange = true ∧ 1024 ≤ inn then [true] else []) }

theorem inRange_iff (mv : Nat) : inRange mv = true ↔ 40000 ≤ mv ∧ mv ≤ 60000 := by
  rw [inRange, Bool.and_eq_true, decide_eq_true_iff, decide_eq_true_iff]

/-- While FT_TIME runs, a reading of the powered module changes the state of the input and nothing else. -/
theorem inputRead_on {s : State} (power : s.pw.power = true) (en : s.pw.pwrEn = true) (run : s.ft.running = true)
    (mv da : BitVec 16) (m1 m10 : BitVec 12) :
    inputRead s mv da m1 m10 = { s with pw := s.pw.measured mv da m1 m10 (s.fieldOf 0xD0004 0 11) } := by
  unfold inputRead PwState.measured
  rw [if_neg (by simp [power]), if_neg (by simp [en])]
  simp only [State.modPw, inRange_iff]
  generalize (if 40000 ≤ mv.toNat ∧ mv.toNat ≤ 60000 then 0 else s.pw.outRun + 1) = out
  generalize (if 40500 ≤ mv.toNat ∧ mv.toNat ≤ 59500 then s.pw.inRun + 1 else 0) = inn
  cases range : s.pw.outRange with
  | false => by_cases h : 16 ≤ out <;> simp [h, run]
  | true => rcases Nat.lt_or_ge inn 1024 with h | h <;> simp [h, run, Nat.not_le.mpr, Nat.not_lt.mpr]

end Sys2Proof.Machine

namespace Sys2Proof.Proofs
open Machine

/-- Settles O28: sensors and reference by the conditions of their commands (`ifApplies_of`, `ifApplies_not`), a reading of the input by
`inputRead_on`, the losses of power by `doPackageReset_pw`, the rise of PWR_EN by `powerUp_eq`. -/
theorem sensorsInputAndReference : Obligations.SensorsInputAndReference := by
  refine fun s => ⟨fun a b h on => ifApplies_of on .., fun t tenths on ready => ifApplies_of (by simp [on, ready]) ..,
    fun a b h t tenths off => ⟨ifApplies_not off .., ifApplies_not (by simp [off]) ..⟩, fun mv da m1 m10 power en run => ?reading,
    fun power => ?fault, fun off => ifApplies_not off .., fun en => ?falls, fun low => ?rises, fun on stable => ?lost,
    fun on lost may => ?returns, fun on lost refused => ?waits⟩
  case reading =>
    have read := inputRead_on power en run mv da m1 m10
    exact ⟨_, congrArg Host.Outcome.next read, rfl, rfl⟩
  case fault =>
    refine ⟨_, ifApplies_of power .., rfl, ?_, ?_, doPackageReset_running .., ?_⟩ <;> rw [loseSupply, doPackageReset_pw] <;> rfl
  case falls =>
    have hub : hubOn s = s.pw.power := by rw [hubOn, en, Bool.and_true]
    refine ⟨_, _, (ifApplies_of en ..).trans ?_, rfl, rfl, ?_, ?_, ?_⟩
    · rw [hub]; rfl
    all_goals rw [doPackageReset_pw]; rfl
  case rises =>
    refine ⟨_, (ifApplies_of (by simp [low]) ..).trans (congrArg _ (powerUp_eq _)), rfl, rfl, ?_⟩
    simp [hubOn]
  case lost => exact ⟨_, ifApplies_of (by simp [on, stable]) .., rfl, rfl, rfl⟩
  case returns => exact (ifApplies_of (by simp [on, lost]) ..).trans (congrArg _ (if_neg (by simp [may])))
  case waits => exact (ifApplies_of (by simp [on, lost]) ..).trans (congrArg _ (if_pos refused))

end Sys2Proof.Proofs

/-! ## The upkeep of a channel: calibration, sparing and scrubbing (R257 to R263, R285 to R294) -/

namespace Sys2Proof.Machine

/-! ### Calibration (R257, R258) -/

/-- The mark that a window's two counts give its lane, by the lane's threshold (R258). -/
def laneMark (x : Lane) (e l : Nat) : Option Bool :=
  if l + x.thresh ≤ e then some true else if e + x.thresh ≤ l then some false else none

/-- A channel after a lane's window of probed reads closes: the lane's next window begins, with the threshold that then stands, and the
lane takes a mark if it is given one. -/
def ChanState.windowClosed (c : ChanState) (lane : Nat) (x : Lane) (thresh : Nat) (mark : Option Bool) : ChanState :=
  { c with
    lanes := mput c.lanes lane { x with probes := c.probed, thresh := thresh }
    marked := match mark with | some d => mput c.marked lane d | none => c.marked }

section
variable {s : State} {st ch lane e l : Nat}

theorem calWindow_short (short : (s.chan st ch).probed < (laneOf (chanKey st ch) (s.chan st ch) lane).probes + 4096) :
    calWindow s st ch lane e l = s := if_pos short

/-- A full window that reports no lost margin. A mark is given while AUTO_CAL is 1. -/
theorem calWindow_full (full : (laneOf (chanKey st ch) (s.chan st ch) lane).probes + 4096 ≤ (s.chan st ch).probed)
    (inside : ¬ (128 ≤ e ∧ 128 ≤ l)) :
    let x := laneOf (chanKey st ch) (s.chan st ch) lane
    calWindow s st ch lane e l = s.modChan st ch (fun c => c.windowClosed lane x (s.fieldOf 0x60008 8 8)
      (if s.fieldEff 0x60000 1 1 = 1 then laneMark x e l else none)) := by
  unfold calWindow
  dsimp only
  rw [if_neg (Nat.not_lt.mpr full), if_neg inside]
  congr 1
  funext c
  unfold ChanState.windowClosed laneMark
  by_cases auto : s.fieldEff 0x60000 1 1 = 1
  · simp only [auto, if_true] <;> rfl
  · simp only [auto, if_false]; split <;> rfl

end

/-! ### Sparing a rank (R260 to R263) -/

/-- A channel whose spare rank takes the place of a rank: the copy begins in a frame (R261). -/
def ChanState.copying (c : ChanState) (rank frame : Nat) : ChanState :=
  { c with spare := .migrating, spareRank := rank, pointer := 0, copyPoison := 0, spareFrom := frame }

/-- A channel whose copy is complete: the spare answers for its rank (R262). -/
def ChanState.spared (c : ChanState) (frame : Nat) : ChanState :=
  { c with spare := .spared, sparedAt := some frame, level := mput c.level 16 0 }

/-- A sparing copy begins in a channel, whose capacity is to be computed again. -/
def copyBegun (s : State) (st ch rank : Nat) : State :=
  { s.modChan st ch (fun c => c.copying rank s.ft.run) with recompute := Nat.lor s.recompute 2 }

/-- The steering of a channel is switched, and its capacity is to be computed again. -/
def steeringSwitched (s : State) (st ch : Nat) : State :=
  { s.modChan st ch (fun c => c.spared s.ft.run) with recompute := Nat.lor s.recompute 2 }

section
variable {s : State} {st ch : Nat}

theorem copyBegun_chan (s : State) (st ch rank : Nat) : (copyBegun s st ch rank).chan st ch = (s.chan st ch).copying rank s.ft.run :=
  State.chan_modChan_self s st ch (·.copying rank s.ft.run)

theorem steeringSwitched_chan (s : State) (st ch : Nat) : (steeringSwitched s st ch).chan st ch = (s.chan st ch).spared s.ft.run :=
  State.chan_modChan_self s st ch (·.spared s.ft.run)

theorem rankRowCopy_idle (h : (s.chan st ch).spare ≠ .migrating ∨ (s.chan st ch).copyAt < 8) : rankRowCopy s st ch = s :=
  if_pos (by simpa using h)

/-- A row of the copy is written: the next one begins, or, after the last, the steering is switched. -/
theorem rankRowCopy_written (migrates : (s.chan st ch).spare = .migrating) (written : 8 ≤ (s.chan st ch).copyAt) :
    let c := s.chan st ch
    let u := s.modChan st ch (fun c => { c with copyAt := 0, skip := [] })
    rankRowCopy s st ch = if c.pointer < 131071 then u.modChan st ch (fun c => { c with pointer := c.pointer + 1 })
      else raise (steeringSwitched u st ch) evSpared []
        (w1 st ++ w1 ch ++ w1 c.spareRank ++ wSat c.copyPoison ++ wSat (s.ft.run - c.spareFrom)) :=
  if_neg (by simp [migrates, written])

theorem spareRequest_free (free : spareState (chanKey st ch) (s.chan st ch) = .free) (rank cause : Nat) :
    spareRequest s st ch rank cause =
      (raise (copyBegun s st ch rank) evSpareStart [] (w1 st ++ w1 ch ++ w1 rank ++ w1 cause), true) := by
  rw [spareRequest, free]
  rfl

theorem spareRequest_used (used : spareState (chanKey st ch) (s.chan st ch) ≠ .free) (rank cause : Nat) :
    spareRequest s st ch rank cause = (raise s evNoSpare []
      (w1 st ++ w1 ch ++ w1 rank ++ w1 (spareCode (spareState (chanKey st ch) (s.chan st ch)))), false) := by
  rw [spareRequest]
  cases state : spareState (chanKey st ch) (s.chan st ch) with
  | free => exact absurd state used
  | migrating => rfl
  | spared => rfl
  | unavailable => rfl

end

/-! ### DRAM_SPARE (R260) -/

theorem dramSpareH_range {a : State} {m : MciCall} (bad : 20 ≤ m.f 0 1 ∨ 32 ≤ m.f 1 1 ∨ 16 ≤ m.f 2 1) :
    dramSpareH a m = (a, .done 0x12 []) := if_pos bad

/-- A request for a rank that there is: it is taken, or the spare rank is not free. -/
theorem dramSpareH_request {a : State} {m : MciCall} (h1 : m.f 0 1 < 20) (h2 : m.f 1 1 < 32) (h3 : m.f 2 1 < 16) :
    let st := m.f 0 1
    let ch := m.f 1 1
    let rank := m.f 2 1
    let spare := spareState (chanKey st ch) (a.chan st ch)
    (spare = .free → dramSpareH a m =
      (raise (copyBegun a st ch rank) evSpareStart [] (w1 st ++ w1 ch ++ w1 rank ++ w1 1), .done 0 [])) ∧
    (spare ≠ .free → dramSpareH a m =
      (raise a evNoSpare [] (w1 st ++ w1 ch ++ w1 rank ++ w1 (spareCode spare)), .done 0x80 [])) := by
  intro st ch rank spare
  have asks : dramSpareH a m = ((spareRequest a st ch rank 1).1, .done (if (spareRequest a st ch rank 1).2 then 0 else 0x80) []) :=
    if_neg (by omega)
  refine ⟨fun free => ?_, fun used => ?_⟩
  · rw [asks, spareRequest_free free, if_pos rfl]
  · rw [asks, spareRequest_used used, if_neg Bool.false_ne_true]

/-! ### Scrubbing (R286 to R289) -/

theorem scrubReq_job (s : State) (st ch n job : Nat) : (scrubReq s st ch n job).job = job := rfl

theorem scrubOn_present (c : ChanState) : (scrubOn c).present = c.present := by unfold scrubOn; split <;> rfl

theorem scrubOn_owed (c : ChanState) : (scrubOn c).owed = c.owed := by unfold scrubOn; split <;> rfl

theorem scrubOn_abs (c : ChanState) : (scrubOn c).abs = c.abs := by unfold scrubOn; split <;> rfl

theorem scrubOn_scrubAt (c : ChanState) : (scrubOn c).scrubAt = if c.scrubAt + 1 < chanBlocks then c.scrubAt + 1 else 0 := by
  unfold scrubOn; split <;> rfl

/-- Of the channel, a scrub read names the slot only. -/
theorem scrubReq_modChan (s : State) (st ch : Nat) {f : ChanState → ChanState} (h : ∀ c, (f c).abs = c.abs) (n job : Nat) :
    scrubReq (s.modChan st ch f) st ch n job = scrubReq s st ch n job := by
  have slot : ((s.modChan st ch f).chan st ch).abs = (s.chan st ch).abs := by rw [State.chan_modChan_self, h]
  unfold scrubReq
  rw [slot]
  rfl

/-- A read of the walk is presented: no other is then. -/
def walkPresented (c : ChanState) : Bool := c.present.any (fun x => x.job == 1)

section
variable {s u : State} {st ch : Nat}

theorem presentScrub_chan (s : State) (st ch n : Nat) : (presentScrub s st ch n).chan st ch =
    { s.chan st ch with present := (s.chan st ch).present ++ [scrubReq s st ch n 1] } := State.chan_modChan_self ..

theorem presentOwed_stays (h : (s.chan st ch).owed = [] ∨ walkPresented (s.chan st ch) = true) : presentOwed s st ch = s := by
  rw [presentOwed]
  cases owed : (s.chan st ch).owed with
  | nil => rfl
  | cons n rest => exact if_pos (h.resolve_left (by simp [owed]))

theorem presentOwed_presents {n : Nat} {rest : List Nat} (owed : (s.chan st ch).owed = n :: rest)
    (idle : walkPresented (s.chan st ch) = false) :
    presentOwed s st ch = presentScrub (s.modChan st ch (fun c => { c with owed := rest })) st ch n := by
  simp only [presentOwed, owed]
  exact if_neg (by simpa [walkPresented] using idle)

theorem presentOwed_chan {n : Nat} {rest : List Nat} (owed : (s.chan st ch).owed = n :: rest)
    (idle : walkPresented (s.chan st ch) = false) : (presentOwed s st ch).chan st ch =
      { s.chan st ch with owed := rest, present := (s.chan st ch).present ++ [scrubReq s st ch n 1] } := by
  rw [presentOwed_presents owed idle, presentScrub_chan, scrubReq_modChan, State.chan_modChan_self]
  exact fun c => rfl

theorem scrubInterval_stopped (h : scrubRuns s st = false) : scrubInterval s st ch = s := if_pos (by rw [h]; rfl)

section
variable (runs : scrubRuns s st = true) (hu : presentOwed s st ch = u)
include runs hu

/-- The walk's next read is presented. -/
theorem scrubInterval_presents (idle : walkPresented (u.chan st ch) = false) :
    scrubInterval s st ch = presentScrub (u.modChan st ch scrubOn) st ch (u.chan st ch).scrubAt := by
  rw [scrubInterval, hu, if_neg (by simp [runs])]
  exact if_pos (by simpa [walkPresented] using idle)

/-- The walk's next read is owed. -/
theorem scrubInterval_owes (busy : walkPresented (u.chan st ch) = true) (room : (u.chan st ch).owed.length < 63) :
    scrubInterval s st ch = (u.modChan st ch scrubOn).modChan st ch (fun d => { d with owed := d.owed ++ [(u.chan st ch).scrubAt] }) := by
  rw [scrubInterval, hu, if_neg (by simp [runs])]
  exact (if_neg (by simpa [walkPresented] using busy)).trans ((if_pos (by omega)).trans (if_neg (by omega)))

/-- The walk's next block is skipped. -/
theorem scrubInterval_skips (busy : walkPresented (u.chan st ch) = true) (full : 64 ≤ (u.chan st ch).owed.length) :
    scrubInterval s st ch = u.modChan st ch scrubOn := by
  rw [scrubInterval, hu, if_neg (by simp [runs])]
  exact (if_neg (by simpa [walkPresented] using busy)).trans (if_neg (by omega))

end

theorem execDirectedScrub_queued {t : Cluster} {h : Chan} {n : Nat} {rest : List Nat} (queued : (s.chan t.val h.val).directed = n :: rest)
    (runs : scrubRuns s t.val = true) : execDirectedScrub t h s = .next (s.modChan t.val h.val (fun c =>
      { c with directed := rest, present := scrubReq s t.val h.val n 2 :: c.present })) := by
  simp only [execDirectedScrub, queued]
  exact congrArg Host.Outcome.next (if_pos runs)

theorem execDirectedScrub_none {t : Cluster} {h : Chan} (idle : (s.chan t.val h.val).directed = [] ∨ scrubRuns s t.val = false) :
    execDirectedScrub t h s = .next s := by
  cases queue : (s.chan t.val h.val).directed with
  | nil => simp only [execDirectedScrub, queue]
  | cons n rest =>
    simp only [execDirectedScrub, queue]
    exact congrArg Host.Outcome.next (if_neg (by simpa [queue] using idle))

end

/-! ### Buckets (R285) -/

/-- The buckets of a channel's ranks leak by one. -/
def leaked (c : ChanState) : ChanState := { c with level := c.level.map (fun l => (l.1, l.2 - 1)) }

theorem leaked_level (c : ChanState) (rank : Nat) : mget 0 (leaked c).level rank = mget 0 c.level rank - 1 :=
  mget_map (· - 1) 0 rfl ..

theorem chan_leaked (s : State) (st ch : Nat) :
    State.chan { s with chans := s.chans.map (fun c => (c.1, leaked c.2)) } st ch = leaked (s.chan st ch) :=
  mget_map leaked {} rfl ..

/-! ### The ends of row and column sparing (R291, R292) -/

section
variable {s : State} {st ch rank bank : Nat}

/-- The spare that is being made is ready for the map. -/
def spareReady (s : State) (st ch rank bank : Nat) : State := s.modFuse st ch (bankKey rank bank) (fun x => { x with done := true })

theorem sparesDone_row {row : Nat} (h : (bankFuse s st ch (bankKey rank bank)).job = some (.row row)) :
    columnDone s st ch rank bank = s ∧
    rowSpareDone s st ch rank bank =
      if 8 ≤ (bankFuse s st ch (bankKey rank bank)).at_ then spareReady s st ch rank bank else s := by
  simp only [columnDone, rowSpareDone, h]
  exact ⟨trivial, rfl⟩

theorem sparesDone_column {o y : Nat} (h : (bankFuse s st ch (bankKey rank bank)).job = some (.col o y)) :
    rowSpareDone s st ch rank bank = s ∧
    columnDone s st ch rank bank =
      if 8192 ≤ (bankFuse s st ch (bankKey rank bank)).at_ then spareReady s st ch rank bank else s := by
  simp only [columnDone, rowSpareDone, h]
  exact ⟨trivial, rfl⟩

theorem sparesDone_none (h : (bankFuse s st ch (bankKey rank bank)).job = none) :
    rowSpareDone s st ch rank bank = s ∧ columnDone s st ch rank bank = s := by
  simp only [columnDone, rowSpareDone, h]
  exact ⟨trivial, trivial⟩

end

end Sys2Proof.Machine

namespace Sys2Proof.Proofs
open Machine

/-- Settles O53: windows by `calWindow_full`, the sparing copy by `rankRowCopy_written`, the walk by `scrubInterval_presents` and its kin
on what `presentOwed` leaves, the spares of a bank by `sparesDone_row` and its kin, DRAM_SPARE by `dramSpareH_request`. -/
theorem dramUpkeep : Obligations.DramUpkeep := by
  intro s t h c st ch
  refine ⟨fun lane e l => ⟨fun short => congrArg Host.Outcome.next (calWindow_short short), fun full inside => ?calibrates⟩,
    fun idle => congrArg Host.Outcome.next (rankRowCopy_idle idle), fun migrates written => ⟨fun more => ?row, fun last => ?switches⟩,
    fun stopped => congrArg Host.Outcome.next (scrubInterval_stopped stopped), fun runs idle owed => ?presents,
    fun n rest runs idle owed room => ?owed,
    fun runs busy room => ?owes, fun runs busy full => ?skips, fun n rest directed runs => ?directed, fun idle => ?undirected,
    ⟨_, rfl, rfl, fun a b rank => ?leaks⟩, fun rank bank => ⟨fun row job => ?rowSpare, fun o y job => ?columnSpare, fun noJob => ?noSpare⟩,
    fun via input a m accepted => ⟨fun bad => ?range, fun h1 h2 h3 => ⟨fun free => ?begins, fun used => ?refused⟩⟩⟩
  case calibrates =>
    let x := laneOf (chanKey st ch) c lane.val
    have closed : (calWindow s st ch lane.val e.toNat l.toNat).chan st ch = c.windowClosed lane.val x (s.fieldOf 0x60008 8 8)
        (if s.fieldEff 0x60000 1 1 = 1 then laneMark x e.toNat l.toNat else none) := by
      rw [calWindow_full full inside, State.chan_modChan_self]
    refine ⟨_, rfl, ?_, fun auto early => ?_, fun auto notEarly late => ?_, fun notEarly notLate => ?_⟩ <;> rw [closed]
    · rfl
    · rw [if_pos auto, laneMark, if_pos early]; rfl
    · rw [if_pos auto, laneMark, if_neg notEarly, if_pos late]; rfl
    · rw [laneMark, if_neg notEarly, if_neg notLate, ite_self]; rfl
  case row =>
    refine ⟨_, congrArg Host.Outcome.next ((rankRowCopy_written migrates written).trans (if_pos more)), rfl, ?_⟩
    rw [State.chan_modChan_self, State.chan_modChan_self]
  case switches =>
    refine ⟨_, ?_, ?_, congrArg Host.Outcome.next ((rankRowCopy_written migrates written).trans (if_neg (Nat.not_lt.mpr last)))⟩
    · rw [steeringSwitched_chan]; rfl
    · rw [steeringSwitched_chan, State.chan_modChan_self]; rfl
  case presents =>
    have run := scrubInterval_presents runs (presentOwed_stays (.inl owed)) idle
    have chan := presentScrub_chan (s.modChan st ch scrubOn) st ch c.scrubAt
    rw [State.chan_modChan_self, scrubReq_modChan s st ch scrubOn_abs] at chan
    refine ⟨_, congrArg Host.Outcome.next run, rfl, ?_, ?_⟩ <;> rw [chan]
    · exact congrArg (· ++ _) (scrubOn_present c)
    · exact scrubOn_scrubAt c
  case owed =>
    have chan := presentOwed_chan owed idle
    have busy : walkPresented ((presentOwed s st ch).chan st ch) = true := by
      rw [chan]; simp [walkPresented, scrubReq_job]
    refine ⟨_, congrArg Host.Outcome.next (scrubInterval_owes runs rfl busy (by rw [chan]; exact room)), ?_, ?_⟩ <;>
      rw [State.chan_modChan_self, State.chan_modChan_self]
    · exact (scrubOn_present _).trans (congrArg _ chan)
    · rw [scrubOn_owed, chan]
  case owes =>
    have run := scrubInterval_owes runs (presentOwed_stays (.inr busy)) busy room
    refine ⟨_, congrArg Host.Outcome.next run, rfl, ?_⟩
    rw [State.chan_modChan_self, State.chan_modChan_self, scrubOn_owed]
  case skips => exact congrArg Host.Outcome.next (scrubInterval_skips runs (presentOwed_stays (.inr busy)) busy full)
  case directed => exact execDirectedScrub_queued directed runs
  case undirected => exact execDirectedScrub_none idle
  case leaks => exact (congrArg (fun d => mget 0 d.level rank) (chan_leaked s a b)).trans (leaked_level ..)
  case rowSpare =>
    obtain ⟨one, other⟩ := sparesDone_row job
    exact ⟨congrArg Host.Outcome.next one, congrArg Host.Outcome.next other⟩
  case columnSpare =>
    obtain ⟨one, other⟩ := sparesDone_column job
    exact ⟨congrArg Host.Outcome.next one, congrArg Host.Outcome.next other⟩
  case noSpare =>
    obtain ⟨one, other⟩ := sparesDone_none noJob
    exact ⟨congrArg Host.Outcome.next one, congrArg Host.Outcome.next other⟩
  case range => exact next_mci_done accepted (dramSpareH_range bad)
  case begins =>
    have chan := copyBegun_chan a (m.f 0 1) (m.f 1 1) (m.f 2 1)
    refine ⟨_, congrArg ChanState.spare chan, congrArg ChanState.spareRank chan, congrArg ChanState.pointer chan, ?_⟩
    exact next_mci_done accepted ((dramSpareH_request h1 h2 h3).1 free)
  case refused => exact ⟨_, next_mci_done accepted ((dramSpareH_request h1 h2 h3).2 used)⟩

end Sys2Proof.Proofs

/-! ## The invariant of a step -/

namespace Sys2Proof.Machine

/-- A step keeps the canonical form of the memory: an idle step changes nothing, and another carries out one command. -/
theorem step_keeps_inv {s t : State} (inv : s.Inv) (h : step s = .next t) : t.Inv := by
  unfold step at h
  split at h
  case h_1 => cases h; exact inv
  case h_2 c rest _ => exact (exec_kept h).mem inv

end Sys2Proof.Machine

namespace Sys2Proof.Proofs
open Machine

/-- Settles O59: every command keeps the memory canonical by `exec_kept`, an idle step keeps the whole state. -/
theorem stepKeepsInv : Obligations.StepKeepsInv := fun _ _ => step_keeps_inv

end Sys2Proof.Proofs

/-! ## Lines and seals (R267, R268, R270, R277, R278) -/

namespace Sys2Proof.Machine

/-- A reading that does not look at the cells, STEER or the channels is as it was after a write of a line's cells. -/
theorem writeCells_keeps {γ : Type} (g : State → γ) (h : ∀ s e y c, g { s with cellErr := e, steer := y, chans := c } = g s)
    (s : State) (l : Loc) (whole : Nat → Bool) : g (s.writeCells l whole) = g s := by
  have skip (s : State) : g (s.noteSkip l) = g s := by
    unfold State.noteSkip
    dsimp only
    split <;> split
    · exact (h _ _ _ _).trans (h _ _ _ _)
    · exact h _ _ _ _
    · exact h _ _ _ _
    · rfl
  rw [State.writeCells, skip]
  exact foldl_keeps g (fun s _ => h s _ _ s.chans) _ s

@[simp] theorem writeCells_dram (s : State) (l : Loc) (whole : Nat → Bool) : (s.writeCells l whole).dram = s.dram :=
  writeCells_keeps State.dram (fun _ _ _ _ => rfl) ..

@[simp] theorem writeCells_poison (s : State) (l : Loc) (whole : Nat → Bool) : (s.writeCells l whole).poison = s.poison :=
  writeCells_keeps State.poison (fun _ _ _ _ => rfl) ..

@[simp] theorem writeCells_hint (s : State) (l : Loc) (whole : Nat → Bool) : (s.writeCells l whole).hint = s.hint :=
  writeCells_keeps State.hint (fun _ _ _ _ => rfl) ..

@[simp] theorem writeCells_seals (s : State) (l : Loc) (whole : Nat → Bool) : (s.writeCells l whole).seals = s.seals :=
  writeCells_keeps State.seals (fun _ _ _ _ => rfl) ..

/-- The light codes find nothing exactly where no wrong bit lies in a part that they cover. -/
theorem lightErr_eq_none {bs parts : List Nat} : lightErr bs parts = none ↔ ∀ j ∈ parts, ∀ b ∈ bs, lightPart b ≠ some j := by
  have empty (j : Nat) : bs.filter (fun b => lightPart b == some j) = [] ↔ ∀ b ∈ bs, lightPart b ≠ some j := by
    simp [List.filter_eq_nil_iff]
  simp only [← empty]
  unfold lightErr
  constructor
  · intro h
    dsimp only at h
    split at h
    · cases h
    · split at h
      case h_1 e => exact List.flatMap_eq_nil_iff.mp e
      case h_2 => cases h
  · intro h
    rw [if_neg (by simpa using fun j hj => by simp [h j hj]), List.flatMap_eq_nil_iff.mpr h]

/-- The firm code finds every wrong bit. -/
theorem firmErr_eq_none {bs : List Nat} (h : firmErr bs = none) : bs = [] := by
  cases bs with
  | nil => rfl
  | cons b bs =>
    have grows : symbolsOf (b :: bs) ≠ [] :=
      List.foldlRecOn (motive := (· ≠ [])) bs _ (List.cons_ne_nil _ []) fun l hl a _ => by split <;> simp [hl]
    unfold firmErr at h
    split at h
    case h_1 e => exact absurd e grows
    case h_2 => cases h
    case h_3 => cases h

/-- A line without an error: its CODE bit agrees, and no wrong bit lies in a part that the light codes cover. -/
theorem lineErr_eq_none {s : State} {l : Loc} {pl : Nat} (h : lineErr s l pl = none) :
    s.badCode.contains pl = false ∧ lightErr (cellBits s l) [0, 1, 2, 3, 4] = none := by
  unfold lineErr at h
  split at h
  · cases h
  · next code =>
    refine ⟨Bool.eq_false_of_not_eq_true code, ?_⟩
    split at h
    · exact h
    · rw [firmErr_eq_none h]; rfl

/-- A line has four granules of 16 bytes. -/
theorem lt_of_mem_partParts {j be : Nat} (h : j ∈ partParts be) : j < 4 :=
  List.mem_range.mp (List.mem_of_mem_filter (List.mem_of_mem_filter h))

/-- The read of a narrow write finds nothing in a line without an error. -/
theorem partErr_eq_none {s : State} {l : Loc} {pl : Nat} (h : lineErr s l pl = none) (be : Nat) : partErr s l pl be = none := by
  obtain ⟨code, parts⟩ := lineErr_eq_none h
  rw [lightErr_eq_none] at parts
  unfold partErr
  rw [code, if_neg Bool.false_ne_true]
  refine ite_eq_left_iff.mpr fun _ => lightErr_eq_none.mpr fun j hj => parts j ?_
  show j ∈ List.range 5
  rw [List.mem_range]
  rcases List.mem_append.mp hj with granule | tag
  · exact (lt_of_mem_partParts granule).trans (by decide)
  · rw [List.mem_singleton.mp tag]; decide

theorem bit_fullMask {i : Nat} (h : i < 64) : bit fullMask i = true := by
  rw [bit_eq_testBit, show fullMask = 2 ^ 64 - 1 from rfl, Nat.testBit_two_pow_sub_one, decide_eq_true h]

@[simp] theorem lineData_length (s : State) (pl : Nat) : (lineData s pl).length = 64 := by simp [lineData, creads]

theorem lineData_getD (s : State) (pl : Nat) {i : Nat} (h : i < 64) : (lineData s pl).getD i 0 = cget s.dram (pl * 64 + i) := by
  simp [lineData, creads, List.getD_eq_getElem?_getD, h]

@[simp] theorem mergeBytes_length (be : Nat) (old new : List Byte) : (mergeBytes be old new).length = old.length := by
  simp [mergeBytes]

theorem mergeBytes_getD (be : Nat) (old new : List Byte) {i : Nat} (h : i < old.length) :
    (mergeBytes be old new).getD i 0 = if bit be i then new.getD i 0 else old.getD i 0 := by
  simp [mergeBytes, List.getD_eq_getElem?_getD, h]

/-- A merge that enables every byte of a line leaves the new bytes. -/
theorem mergeBytes_fullMask {old new : List Byte} (ho : old.length = 64) (hn : new.length = 64) : mergeBytes fullMask old new = new := by
  refine List.ext_getElem (by simp [ho, hn]) fun i h1 h2 => ?_
  simp [mergeBytes, bit_fullMask (hn ▸ h2), h2]

/-- What a write of a line changes of the memory and of the line's tag, where it enables `be` and carries `poison` (R267, R270). -/
structure LineWritten (s t : State) (pl : Nat) (bs : List Byte) (be : Nat) (poison hint : Bool) : Prop where
  dram : t.dram = cwrites s.dram (pl * 64) (mergeBytes be (lineData s pl) bs)
  poison : t.poison = setTag s.poison pl (poison || (decide (be ≠ fullMask) && isPoison s pl))
  hint : t.hint = setTag s.hint pl hint
  seals : t.seals = s.seals

/-- A write to a light frame writes a line without an error: whole, or merged with the bytes that it does not enable (R270). -/
theorem writeLight_written {s : State} {order fr q : Nat} {bs : List Byte} (len : bs.length = 64)
    (clean : lineErr s (locOf order fr (q / 64 * 64)) ((fr * 65536 + q / 64 * 64) / 64) = none)
    (r : Reader) (be : Nat) (poison hint : Bool) :
    LineWritten s (writeLight s r order fr q bs be poison hint) ((fr * 65536 + q / 64 * 64) / 64) bs be poison hint := by
  unfold writeLight
  dsimp only
  split
  · next full =>
    subst full
    refine ⟨?_, ?_, ?_, ?_⟩ <;> simp [State.putLine, mergeBytes_fullMask, List.take_of_length_le, len]
  · next part =>
    rw [partErr_eq_none clean]
    refine ⟨?_, ?_, ?_, ?_⟩ <;> simp [part, Bool.or_comm]

/-- A write to a light frame that enables a byte or carries poison is `writeLight`'s (R270). -/
theorem writeLine_light {s : State} {fr be : Nat} {poison : Bool} (light : isLight s fr = true) (enables : ¬(be = 0 ∧ poison = false))
    (r : Reader) (order q : Nat) (bs : List Byte) (hint : Bool) :
    writeLine s r order fr q bs be poison hint = writeLight s r order fr q bs be poison hint := by
  rw [writeLine, if_neg (by simpa using enables), if_pos light]

/-- The bytes of the memory after a write of a line: the enabled bytes of the line are the new ones (R270). -/
theorem LineWritten.cget {s t : State} {pl : Nat} {bs : List Byte} {be : Nat} {poison hint : Bool}
    (h : LineWritten s t pl bs be poison hint) (wf : Memory.wf s.dram = true) (b : Nat) :
    cget t.dram b = if pl * 64 ≤ b ∧ b < pl * 64 + 64 ∧ bit be (b - pl * 64) = true then bs.getD (b - pl * 64) 0 else cget s.dram b := by
  rw [h.dram, cget_cwrites _ _ _ _ wf, mergeBytes_length, lineData_length]
  by_cases inside : pl * 64 ≤ b ∧ b < pl * 64 + 64
  · have lt : b - pl * 64 < 64 := by omega
    rw [if_pos inside, mergeBytes_getD _ _ _ (by simpa using lt), lineData_getD _ _ lt, Nat.add_sub_cancel' inside.1]
    simp [inside]
  · rw [if_neg inside, if_neg (fun k => inside ⟨k.1, k.2.1⟩)]

/-- The granule as its lines without an error are decoded: `pl` is its first line. -/
def cleanGranule (s : State) (pl : Nat) : Granule :=
  { lines := (List.range 4).map fun i => (lineData s (pl + i), isPoison s (pl + i)), uncorr := false }

/-- The four lines of the granule of byte `q` of frame `fr` have no error. -/
def GranuleClean (s : State) (order fr q : Nat) : Prop :=
  ∀ i < 4, lineErr s (locOf order fr (q / 256 * 256 + 64 * i)) ((fr * 65536 + (q / 256 * 256 + 64 * i)) / 64) = none

theorem granule_line (fr q i : Nat) :
    (fr * 65536 + (q / 256 * 256 + 64 * i)) / 64 = (fr * 65536 + q / 256 * 256) / 64 + i := by omega

/-- The decode of a granule whose lines have no error changes nothing (R277). -/
theorem decodeGranule_clean {s : State} {order fr q : Nat} (h : GranuleClean s order fr q) (r : Reader) :
    decodeGranule s r order fr q = (s, cleanGranule s ((fr * 65536 + q / 256 * 256) / 64)) := by
  simp only [GranuleClean, granule_line] at h
  simp only [decodeGranule, cleanGranule, show List.range 4 = [0, 1, 2, 3] from rfl, List.foldl_cons, List.foldl_nil, granule_line,
    h 0 (by decide), h 1 (by decide), h 2 (by decide), h 3 (by decide)]
  rfl

theorem creads_add (m : List Host.Cell) (a n k : Nat) : creads m a (n + k) = creads m a n ++ creads m (a + n) k := by
  simp [creads, List.range_add, Nat.add_assoc]

/-- The bytes of a granule are those of its four lines. -/
theorem cleanGranule_data (s : State) (g : Nat) : (cleanGranule s (4 * g)).lines.flatMap (·.1) = granuleData s g := by
  have place (i : Nat) : (4 * g + i) * 64 = g * 256 + i * 64 := by omega
  rw [granuleData, show 256 = 64 + (64 + (64 + 64)) from rfl, creads_add, creads_add, creads_add]
  simp [cleanGranule, show List.range 4 = [0, 1, 2, 3] from rfl, lineData, place, Nat.add_assoc]

/-- The check at exit of a granule without an error fails where R277 says so. -/
theorem sealFails_clean (s : State) (r : Reader) (fr q : Nat) :
    sealFails s r fr q (cleanGranule s ((fr * 65536 + q / 256 * 256) / 64)) = true ↔
      r.checks = true ∧ isLight s fr = false ∧ (¬ ∀ i < 4, isPoison s ((fr * 65536 + q / 256 * 256) / 64 + i) = true) ∧
      crc32c (granuleData s ((fr * 65536 + q / 256 * 256) / 64 / 4)) ≠ sealOf s ((fr * 65536 + q / 256 * 256) / 64 / 4) := by
  have four : (fr * 65536 + q / 256 * 256) / 64 = 4 * ((fr * 65536 + q) / 256) := by omega
  have number : 4 * ((fr * 65536 + q) / 256) / 4 = (fr * 65536 + q) / 256 := by omega
  rw [sealFails, four, cleanGranule_data, number]
  simp [cleanGranule, and_assoc]

/-- The place of a line in its granule. -/
theorem cleanGranule_getD (s : State) (fr q : Nat) (d : List Byte × Bool) :
    (cleanGranule s ((fr * 65536 + q / 256 * 256) / 64)).lines.getD (bits q 6 2) d =
      (lineData s ((fr * 65536 + q) / 64), isPoison s ((fr * 65536 + q) / 64)) := by
  have lt : bits q 6 2 < 4 := bits_lt ..
  have place : (fr * 65536 + q / 256 * 256) / 64 + bits q 6 2 = (fr * 65536 + q) / 64 := by simp only [bits]; omega
  simp [cleanGranule, List.getD_eq_getElem?_getD, lt, place]

/-- A read of a line of a granule without an error whose check at exit does not fail answers with the line and changes nothing. -/
theorem readLine_sealed {s : State} {r : Reader} {order fr q : Nat} (clean : GranuleClean s order fr q)
    (agrees : sealFails s r fr q (cleanGranule s ((fr * 65536 + q / 256 * 256) / 64)) = false) :
    readLine s r order fr q = (s, lineData s ((fr * 65536 + q) / 64), isPoison s ((fr * 65536 + q) / 64)) := by
  simp only [readLine, readGranule, decodeGranule_clean clean, agrees, Bool.false_eq_true, if_false, cleanGranule_getD]

/-- Where the check fails, the line leaves poisoned (R278). -/
theorem readLine_sealFails {s : State} {r : Reader} {order fr q : Nat} (clean : GranuleClean s order fr q)
    (fails : sealFails s r fr q (cleanGranule s ((fr * 65536 + q / 256 * 256) / 64)) = true) :
    (readLine s r order fr q).2 = (lineData s ((fr * 65536 + q) / 64), true) := by
  have marked (ls : List (List Byte × Bool)) (n : Nat) (d : List Byte) :
      (ls.map fun x => (x.1, true)).getD n (d, true) = ((ls.getD n (d, true)).1, true) := by
    simp only [List.getD_eq_getElem?_getD, List.getElem?_map]
    cases ls[n]? <;> rfl
  simp only [readLine, readGranule, decodeGranule_clean clean, fails, if_true, marked, cleanGranule_getD]

/-- The bits of a tag of four booleans. -/
theorem tagBits (p c h y : Bool) :
    let t := BitVec.ofNat 8 (b2n p + 2 * b2n c + 4 * b2n h + 8 * b2n y)
    t.getLsbD 0 = p ∧ t.getLsbD 1 = c ∧ t.getLsbD 2 = h ∧ t.getLsbD 3 = y ∧ t < 16 := by
  revert p c h y; decide

end Sys2Proof.Machine

namespace Sys2Proof.Proofs
open Machine

/-- Settles O18: a write to a light frame by `writeLight_written`, a read by the check at exit (`sealFails_clean`), a tag by its bits. -/
theorem linesAndSeals : Obligations.LinesAndSeals := by
  refine ⟨fun s r order fr q bs be poison hint wf light len _ clean => ?_, fun s r order fr q _ clean => ⟨fun h => ?_, fun l c a p => ?_⟩,
    fun s l pl => tagBits ..⟩
  · have line : (fr * 65536 + q / 64 * 64) / 64 * 64 = fr * 65536 + q / 64 * 64 := by omega
    by_cases nothing : be = 0 ∧ poison = false
    · obtain ⟨rfl, rfl⟩ := nothing
      have same : writeLine s r order fr q bs 0 false hint = s := rfl
      simp [same, bit]
    · have written := writeLight_written len clean r be poison hint
      rw [← writeLine_light light nothing] at written
      refine ⟨fun z p => absurd ⟨z, p⟩ nothing, fun b out => ?_, fun i hi => ?_, fun _ => ⟨written.poison, written.hint⟩, written.seals⟩
      · rw [written.cget wf, line, if_neg (by omega)]
      · rw [written.cget wf, line]
        simp [hi]
  · refine readLine_sealed clean (Bool.eq_false_of_not_eq_true fun f => ?_)
    obtain ⟨checks, firm, notAll, differs⟩ := (sealFails_clean ..).mp f
    rcases h with light | unchecked | agree | all
    · exact Bool.false_ne_true (firm.symm.trans light)
    · exact Bool.false_ne_true (unchecked.symm.trans checks)
    · exact differs agree
    · exact notAll all
  · exact readLine_sealFails clean ((sealFails_clean ..).mpr ⟨c, l, p, a⟩)

end Sys2Proof.Proofs

/-! ## The parity of a stripe (R306, R310) -/

namespace Sys2Proof.Machine

/-! ### Multiples in GF(2^8) -/

theorem xor_xor_xor_comm (a b c d : Byte) : a ^^^ b ^^^ (c ^^^ d) = a ^^^ c ^^^ (b ^^^ d) := by ac_rfl

theorem gfDouble_xor (a b : Byte) : gfDouble (a ^^^ b) = gfDouble a ^^^ gfDouble b := by
  have carry (u v : Bool) : (if u ^^ v then (0x1D : Byte) else 0) = (if u then 0x1D else 0) ^^^ (if v then 0x1D else 0) := by
    cases u <;> cases v <;> rfl
  rw [gfDouble, BitVec.shiftLeft_xor_distrib, BitVec.msb_xor, carry, xor_xor_xor_comm]
  rfl

theorem gfScale_xor (j : Nat) (a b : Byte) : gfScale j (a ^^^ b) = gfScale j a ^^^ gfScale j b := by
  induction j with
  | zero => rfl
  | succ j ih => rw [gfScale, ih, gfDouble_xor]; rfl

@[simp] theorem gfScale_of_zero (j : Nat) : gfScale j 0#8 = 0#8 := by
  induction j with
  | zero => rfl
  | succ j ih => rw [gfScale, ih]; rfl

theorem gfScale_add (i j : Nat) (b : Byte) : gfScale (i + j) b = gfScale i (gfScale j b) := by
  induction i with
  | zero => rw [Nat.zero_add]; rfl
  | succ i ih => rw [Nat.succ_add, gfScale, ih]; rfl

theorem eq_zero_of_gfDouble : ∀ b : Byte, gfDouble b = 0#8 → b = 0#8 := by decide

theorem eq_zero_of_gfScale {j : Nat} {b : Byte} (h : gfScale j b = 0#8) : b = 0#8 := by
  induction j with
  | zero => exact h
  | succ j ih => exact ih (eq_zero_of_gfDouble _ h)

theorem gfScale_injective (j : Nat) : Function.Injective (gfScale j) := fun a b h => by
  rw [← BitVec.xor_eq_zero_iff] at h ⊢
  exact eq_zero_of_gfScale ((gfScale_xor j a b).trans h)

/-- The powers g to g^5 of the field's generator are not 1. -/
theorem eq_zero_of_gfScale_self : ∀ (k : Fin 5) (b : Byte), gfScale (k.val + 1) b = b → b = 0#8 := by decide

/-- The factors 1 to g^5 of the six data units are distinct. -/
theorem eq_zero_of_gfScale_eq {i j : Nat} {b : Byte} (ij : i < j) (hj : j < 6) (h : gfScale i b = gfScale j b) : b = 0#8 := by
  obtain ⟨k, rfl⟩ := Nat.exists_eq_add_of_lt ij
  rw [Nat.add_assoc, gfScale_add] at h
  exact eq_zero_of_gfScale_self ⟨k, by omega⟩ b (gfScale_injective i h).symm

/-! ### P and Q, unit by unit -/

/-- Q over the units from number `k` on. -/
def parityFrom (k : Nat) (d : List Byte) : Byte := parityP ((d.zipIdx k).map (fun x => gfScale x.2 x.1))

theorem parityQ_eq (d : List Byte) : parityQ d = parityFrom 0 d := rfl

@[simp] theorem parityP_cons (b : Byte) (d : List Byte) : parityP (b :: d) = b ^^^ parityP d := by
  rw [parityP, List.foldl_cons, BitVec.xor_comm, List.foldl_assoc]
  rfl

@[simp] theorem parityFrom_cons (k : Nat) (b : Byte) (d : List Byte) :
    parityFrom k (b :: d) = gfScale k b ^^^ parityFrom (k + 1) d := by
  rw [parityFrom, List.zipIdx_cons, List.map_cons, parityP_cons]
  rfl

/-- P and Q are linear: those of the differences of two columns are the differences of theirs. -/
theorem parity_zipWith_xor {d e : List Byte} (h : d.length = e.length) (k : Nat) :
    parityP (List.zipWith (· ^^^ ·) d e) = parityP d ^^^ parityP e ∧
    parityFrom k (List.zipWith (· ^^^ ·) d e) = parityFrom k d ^^^ parityFrom k e := by
  induction d generalizing e k with
  | nil => obtain rfl := List.length_eq_zero_iff.mp h.symm; exact ⟨rfl, (BitVec.xor_self (x := 0#8)).symm⟩
  | cons a d ih =>
    cases e with
    | nil => cases h
    | cons b e =>
      obtain ⟨p, q⟩ := ih (Nat.succ.inj h) (k + 1)
      simp only [List.zipWith_cons_cons, parityP_cons, parityFrom_cons, p, q, gfScale_xor]
      exact ⟨xor_xor_xor_comm .., xor_xor_xor_comm ..⟩

/-! ### Columns with few units that are not zero -/

/-- How many bytes of a column are not zero. -/
def weight (d : List Byte) : Nat := d.countP (· != 0)

@[simp] theorem weight_cons_zero (d : List Byte) : weight (0#8 :: d) = weight d := rfl

theorem weight_cons {b : Byte} (h : b ≠ 0#8) (d : List Byte) : weight (b :: d) = weight d + 1 :=
  List.countP_cons_of_pos (by simpa using h)

theorem weight_append (d e : List Byte) : weight (d ++ e) = weight d + weight e := List.countP_append

theorem parity_of_weight_zero {d : List Byte} (h : weight d = 0) (k : Nat) : parityP d = 0#8 ∧ parityFrom k d = 0#8 := by
  induction d generalizing k with
  | nil => exact ⟨rfl, rfl⟩
  | cons b d ih =>
    by_cases z : b = 0#8
    · subst z
      simpa using ih h (k + 1)
    · rw [weight_cons z] at h; cases h

/-- One unit that is not zero is P, and its multiple is Q. -/
theorem parity_of_weight_one {d : List Byte} (h : weight d = 1) (k : Nat) :
    parityP d ≠ 0#8 ∧ ∃ i, k ≤ i ∧ i < k + d.length ∧ parityFrom k d = gfScale i (parityP d) := by
  induction d generalizing k with
  | nil => cases h
  | cons b d ih =>
    by_cases z : b = 0#8
    · subst z
      obtain ⟨nz, i, low, high, q⟩ := ih h (k + 1)
      exact ⟨by simpa using nz, i, by omega, by rw [List.length_cons]; omega, by simpa using q⟩
    · rw [weight_cons z] at h
      obtain ⟨p, q⟩ := parity_of_weight_zero (Nat.succ.inj h) (k + 1)
      rw [parityP_cons, parityFrom_cons, p, q, BitVec.xor_zero, BitVec.xor_zero]
      exact ⟨z, k, Nat.le_refl k, by simp, rfl⟩

/-- Two units that are not zero leave P or Q that is not zero. -/
theorem parity_of_weight_two {d : List Byte} {k : Nat} (h : weight d = 2) (len : k + d.length ≤ 6) (p : parityP d = 0#8) :
    parityFrom k d ≠ 0#8 := by
  induction d generalizing k with
  | nil => cases h
  | cons b d ih =>
    rw [List.length_cons] at len
    by_cases z : b = 0#8
    · subst z
      simpa using ih h (by omega) (by simpa using p)
    · rw [weight_cons z] at h
      obtain ⟨-, i, low, high, q⟩ := parity_of_weight_one (Nat.succ.inj h) (k + 1)
      rw [parityP_cons, BitVec.xor_eq_zero_iff] at p
      rw [parityFrom_cons, q, ← p]
      exact fun same => z (eq_zero_of_gfScale_eq low (by omega) (BitVec.xor_eq_zero_iff.mp same))

theorem weight_pair_pos {p q : Byte} (h : p = 0#8 → q ≠ 0#8) : 1 ≤ weight [p, q] := by
  by_cases z : p = 0#8
  · rw [z, weight_cons_zero, weight_cons (h z)]
    exact Nat.le_add_left ..
  · rw [weight_cons z]
    exact Nat.le_add_left ..

/-- The code of R306 has distance 3: a column of data that is not all zero has three units, with P and Q, that are not zero. -/
theorem three_le_weight {d : List Byte} (len : d.length ≤ 6) (h : weight d ≠ 0) : 3 ≤ weight (d ++ [parityP d, parityQ d]) := by
  rw [weight_append, parityQ_eq]
  by_cases one : weight d = 1
  · obtain ⟨p, i, -, -, q⟩ := parity_of_weight_one one 0
    have q' : parityFrom 0 d ≠ 0#8 := fun z => p (eq_zero_of_gfScale (q.symm.trans z))
    rw [one, weight_cons p, weight_cons q']
    exact Nat.le_add_left ..
  · by_cases two : weight d = 2
    · rw [two, Nat.add_comm 2]
      exact Nat.add_le_add_right (weight_pair_pos (parity_of_weight_two two (by omega))) 2
    · omega

/-! ### Two columns that differ in two units at most -/

theorem eq_of_weight_zero {d e : List Byte} (h : d.length = e.length) (w : weight (List.zipWith (· ^^^ ·) d e) = 0) : d = e := by
  induction d generalizing e with
  | nil => exact (List.length_eq_zero_iff.mp h.symm).symm
  | cons a d ih =>
    cases e with
    | nil => cases h
    | cons b e =>
      rw [List.zipWith_cons_cons] at w
      by_cases z : a ^^^ b = 0#8
      · rw [z, weight_cons_zero] at w
        rw [BitVec.xor_eq_zero_iff.mp z, ih (Nat.succ.inj h) w]
      · rw [weight_cons z] at w; cases w

/-- The places at which two columns differ are as many as the bytes of their difference that are not zero. -/
theorem length_differing {d e : List Byte} {n : Nat} (hd : d.length = n) (he : e.length = n) :
    ((List.range n).filter (fun i => d[i]? != e[i]?)).length = weight (List.zipWith (· ^^^ ·) d e) := by
  rw [← List.countP_eq_length_filter]
  induction n generalizing d e with
  | zero => obtain rfl := List.length_eq_zero_iff.mp hd; rfl
  | succ n ih =>
    obtain ⟨a, d, rfl⟩ := List.exists_cons_of_length_eq_add_one hd
    obtain ⟨b, e, rfl⟩ := List.exists_cons_of_length_eq_add_one he
    have rest := ih (Nat.succ.inj hd) (Nat.succ.inj he)
    rw [List.range_succ_eq_map, List.zipWith_cons_cons]
    by_cases z : a ^^^ b = 0#8
    · obtain rfl := BitVec.xor_eq_zero_iff.mp z
      rw [z, weight_cons_zero, List.countP_cons_of_neg (by simp), List.countP_map, ← rest]
      rfl
    · rw [weight_cons z, List.countP_cons_of_pos (by simpa [BitVec.xor_eq_zero_iff] using z), List.countP_map, ← rest]
      rfl

/-- The shares of a stripe of which two at most are lost determine its data (R306, R310). -/
theorem data_of_six_shares {d e : List Byte} (hd : d.length = 6) (he : e.length = 6)
    (h : ((List.range 8).filter (fun i => (d ++ [parityP d, parityQ d])[i]? != (e ++ [parityP e, parityQ e])[i]?)).length ≤ 2) : d = e := by
  have len : d.length = e.length := hd.trans he.symm
  rw [length_differing (by simp [hd]) (by simp [he]), List.zipWith_append len] at h
  obtain ⟨p, q⟩ := parity_zipWith_xor len 0
  refine eq_of_weight_zero len (by_contra fun w => ?_)
  have three := three_le_weight (by simp [hd, he]) w
  rw [parityQ_eq, p, q] at three
  exact Nat.not_lt.mpr h three

end Sys2Proof.Machine

/-! ## Wear, walks and retirement of cartridges (R304 to R306, R312 to R317, R319) -/

namespace Sys2Proof.Machine

/-! ### Writing the ledger of a bay (R304) -/

/-- A bay whose cartridge takes a new copy of its ledger (R304). -/
def BayState.ledgered (x : BayState) (f : CartLedger → CartLedger) : BayState :=
  match x.ledger with
  | some l =>
    let l := f { l with writer := Config.serial, tb := BitVec.ofNat 32 (x.written / 1000000000000) }
    { x with ledger := some l, cart := x.cart.map (fun c => { c with ledgers := (ledgerCopy l :: c.ledgers).take 2 }) }
  | none => x

theorem bay_writeLedger (s : State) (b d : Nat) (f : CartLedger → CartLedger) :
    (writeLedger s b f).bay d = if d = b then (s.bay b).ledgered f else s.bay d := State.bay_modBay ..

@[simp] theorem bay_writeLedger_self (s : State) (b : Nat) (f : CartLedger → CartLedger) :
    (writeLedger s b f).bay b = (s.bay b).ledgered f := State.bay_modBay_self ..

@[simp] theorem writeLedger_walk (s : State) (b : Nat) (f : CartLedger → CartLedger) : (writeLedger s b f).walk = s.walk := rfl

theorem ledgered_none {x : BayState} (h : x.ledger = none) (f : CartLedger → CartLedger) : x.ledgered f = x := by
  rw [BayState.ledgered, h]

theorem ledgered_some {x : BayState} {l : CartLedger} (h : x.ledger = some l) (f : CartLedger → CartLedger) :
    let k := f { l with writer := Config.serial, tb := BitVec.ofNat 32 (x.written / 1000000000000) }
    x.ledgered f = { x with
      ledger := some k, cart := x.cart.map (fun c => { c with ledgers := (ledgerCopy k :: c.ledgers).take 2 }) } := by
  rw [BayState.ledgered, h]

/-- A ledger write touches the ledger and the cartridge of a bay only, and a cartridge stays in its bay. -/
theorem ledgered_keeps (x : BayState) (f : CartLedger → CartLedger) :
    ∃ l c, x.ledgered f = { x with ledger := l, cart := c } ∧ c.isSome = x.cart.isSome := by
  cases h : x.ledger with
  | none => exact ⟨none, x.cart, by rw [ledgered_none h, ← h], rfl⟩
  | some l => exact ⟨_, _, ledgered_some h f, Option.isSome_map⟩

@[simp] theorem ledgered_st (x : BayState) (f : CartLedger → CartLedger) : (x.ledgered f).st = x.st := by
  obtain ⟨l, c, e, -⟩ := ledgered_keeps x f
  rw [e]

@[simp] theorem ledgered_warned (x : BayState) (f : CartLedger → CartLedger) : (x.ledgered f).warned = x.warned := by
  obtain ⟨l, c, e, -⟩ := ledgered_keeps x f
  rw [e]

@[simp] theorem ledgered_cart_isSome (x : BayState) (f : CartLedger → CartLedger) : (x.ledgered f).cart.isSome = x.cart.isSome := by
  obtain ⟨l, c, e, h⟩ := ledgered_keeps x f
  rw [e, h]

/-- The copy in front is sealed over its own bytes, so it is the newest with a valid seal. -/
theorem newestLedger_cons (c : Cartridge) (l : CartLedger) (ls : List LedgerCopy) :
    newestLedger { c with ledgers := (ledgerCopy l :: ls).take 2 } = some l := by
  rw [newestLedger, List.take_succ_cons, List.find?_cons_of_pos]
  · rfl
  · exact beq_self_eq_true _

/-- The new copy is the cartridge's newest. -/
theorem ledgered_newest {x : BayState} {l : CartLedger} (h : x.ledger = some l) {c : Cartridge} (hc : x.cart = some c)
    (f : CartLedger → CartLedger) : (x.ledgered f).cart.map newestLedger = some (x.ledgered f).ledger := by
  rw [ledgered_some h]
  simp only [hc, Option.map_some, newestLedger_cons]

/-! ### Wear (R304, R305) -/

/-- What a ledger write leaves open grows, and the rest is as the copy before had it. -/
theorem growLedger_fields (n : Nat) (l : CartLedger) :
    (growLedger n l).cartId = l.cartId ∧ (growLedger n l).writer = l.writer ∧ (growLedger n l).lstate = l.lstate ∧
    (growLedger n l).position = l.position ∧ (growLedger n l).tb = l.tb := ⟨rfl, rfl, rfl, rfl, rfl⟩

/-- Wear below both thresholds, or noted already, raises nothing. -/
theorem checkWear_below {s : State} {b : Nat} (low : (s.bay b).warned = true ∨ (bayWear s b).1 < s.fieldEff 0x80000 8 7)
    (life : (bayWear s b).1 < 100) : checkWear s b = s := by
  have noWarning : ¬ (!(s.bay b).warned && decide (s.fieldEff 0x80000 8 7 ≤ (bayWear s b).1)) = true := by
    rcases low with h | h
    · simp [h]
    · simp [Nat.not_le.mpr h]
  rw [checkWear]
  dsimp only
  rw [if_neg noWarning, if_pos (by simp [life])]

/-- LEDGER_WRITE of a bay of the array, or of a gusset, with power and a ledger. -/
theorem ledgerWrite_eq {s : State} {b : Bay} {l : CartLedger} (power : (s.bay b.val).powered = true)
    (hl : (s.bay b.val).ledger = some l) (st : inArray (s.bay b.val).st = true ∨ (s.bay b.val).st = .gusset) :
    exec (.ledgerWrite b) s =
      .next (drivePins (checkWear (writeLedger { s with free := s.free + 4 } b.val (growLedger s.free)) b.val)) :=
  congrArg Host.Outcome.next (if_pos (by rcases st with st | st <;> simp [power, hl, st]))

/-- EOL_REPEAT repeats the event for an ACTIVE cartridge at the end of its life, and for no other. -/
theorem eolRepeat_eq (s : State) (b : Bay) :
    ((s.bay b.val).st = .active → (s.bay b.val).eol = true → exec (.eolRepeat b) s =
      .next (raise s evCartEol [] (w1 b.val ++ w1 (bayWear s b.val).1 ++ w1 0))) ∧
    ((s.bay b.val).st ≠ .active ∨ (s.bay b.val).eol = false → exec (.eolRepeat b) s = .next s) :=
  ⟨fun st eol => congrArg Host.Outcome.next (if_pos (by simp [st, eol])),
    fun h => congrArg Host.Outcome.next (if_neg (by rcases h with h | h <;> simp [h]))⟩

/-! ### The journal (R316) -/

/-- A bay of the array whose cartridge takes a copy of the journal. -/
def BayState.journalled (x : BayState) (j : JournalCopy) : BayState :=
  if inArray x.st then { x with cart := x.cart.map (fun c => { c with journal := some j }) } else x

theorem bay_putJournal (s : State) (w : Walk) (ended : Bool) (k : Nat) :
    (putJournal s w ended).bay k = (s.bay k).journalled (journalCopy s w ended) :=
  mget_map (BayState.journalled · (journalCopy s w ended)) {} rfl s.bays k

theorem journalled_member {x : BayState} {c : Cartridge} (h : inArray x.st = true) (hc : x.cart = some c) (j : JournalCopy) :
    (x.journalled j).cart = some { c with journal := some j } := by
  rw [BayState.journalled, if_pos h, hc]
  rfl

@[simp] theorem journalled_st (x : BayState) (j : JournalCopy) : (x.journalled j).st = x.st := by
  unfold BayState.journalled
  split <;> rfl

theorem rebuildJournalWrite_some {s : State} {w : Walk} (h : s.walk = some w) :
    exec .rebuildJournalWrite s = .next (putJournal s w false) := by
  rw [exec_rebuildJournalWrite, execRebuildJournalWrite, writeJournal, h]
  rfl

theorem rebuildJournalWrite_none {s : State} (h : s.walk = none) : exec .rebuildJournalWrite s = .next s := by
  rw [exec_rebuildJournalWrite, execRebuildJournalWrite, h]
  rfl

@[simp] theorem writeJournal_walk (s : State) : (writeJournal s).walk = s.walk := by
  unfold writeJournal
  split <;> rfl

/-! ### A stripe of a walk (R314) -/

/-- The target's share of a stripe can be copied, or reconstructed. -/
def shareWritable (w : Walk) (st : Stripe) : Bool :=
  (w.copy && !bit st.bad.toNat w.position && bit st.shares.toNat w.position) || decide ((lostShares st 0).length ≤ 2)

/-- The walk once stripe `n` is handled. -/
def Walk.past (w : Walk) (n : Nat) (ok : Bool) : Walk :=
  { w with next := n + 1, doneBytes := w.doneBytes + (if ok then 1048576 else 0), unrec := w.unrec + b2n (!ok) }

/-- The target's share of stripe `n` is written. -/
def shareWritten (s : State) (w : Walk) (n : Nat) (st : Stripe) : State :=
  countProgrammed { s with stripes := mput s.stripes n { st with
    shares := st.shares ||| BitVec.ofNat 8 (2 ^ w.position), bad := st.bad &&& ~~~ BitVec.ofNat 8 (2 ^ w.position) } } w.target.val 1048576

theorem walkStripe_eq {s : State} {n : Nat} {st : Stripe} (h : mget? s.stripes n = some st) (w : Walk) :
    walkStripe s w n = setWalkCounts { (if shareWritable w st = true then shareWritten s w n st else s) with
      walk := some (w.past n (shareWritable w st)) } (w.past n (shareWritable w st)) := by
  rw [walkStripe, h]
  rfl

@[simp] theorem setWalkCounts_walk (s : State) (w : Walk) : (setWalkCounts s w).walk = s.walk := rfl

theorem walkStripe_walk {s : State} {n : Nat} {st : Stripe} (h : mget? s.stripes n = some st) (w : Walk) :
    (walkStripe s w n).walk = some (w.past n (shareWritable w st)) := by
  rw [walkStripe_eq h, setWalkCounts_walk]

/-- A share that cannot be reconstructed leaves stripes and bays as they are. -/
theorem walkStripe_lost {s : State} {n : Nat} {st : Stripe} (h : mget? s.stripes n = some st) {w : Walk}
    (no : shareWritable w st = false) : (walkStripe s w n).stripes = s.stripes ∧ (walkStripe s w n).bays = s.bays := by
  rw [walkStripe_eq h, no, if_neg Bool.false_ne_true]
  exact ⟨rfl, rfl⟩

theorem shareWritten_written (s : State) (w : Walk) (n : Nat) (st : Stripe) :
    ((shareWritten s w n st).bay w.target.val).written = (s.bay w.target.val).written + 1048576 := by
  rw [shareWritten, countProgrammed, State.bay_modBay_self]
  rfl

/-- The target's share is written, readable, and counted on its cartridge. -/
theorem walkStripe_written {s : State} {n : Nat} {st : Stripe} (h : mget? s.stripes n = some st) {w : Walk}
    (ok : shareWritable w st = true) :
    (walkStripe s w n).stripes = mput s.stripes n { st with
      shares := st.shares ||| BitVec.ofNat 8 (2 ^ w.position), bad := st.bad &&& ~~~ BitVec.ofNat 8 (2 ^ w.position) } ∧
    ((walkStripe s w n).bay w.target.val).written = (s.bay w.target.val).written + 1048576 := by
  rw [walkStripe_eq h, ok, if_pos rfl]
  exact ⟨rfl, shareWritten_written s w n st⟩

theorem rebuildStripe_eq {s : State} {w : Walk} {n : Nat} {rest : List Nat} (h : s.walk = some w) (runs : walkRuns s = true)
    (next : walkStripes s w.next w.last = n :: rest) : exec .rebuildStripe s = .next (walkStripe s w n) := by
  rw [exec_rebuildStripe, execRebuildStripe, h]
  dsimp only
  rw [runs, next]

/-- Without a walk, or while none may go on, the walk's commands change nothing (R317). -/
theorem walk_stands {s : State} (h : s.walk = none ∨ walkRuns s = false) :
    exec .rebuildStripe s = .next s ∧ exec .rebuildDone s = .next s := by
  simp only [exec_rebuildStripe, exec_rebuildDone, execRebuildStripe, execRebuildDone]
  rcases h with h | h
  · simp only [h, and_self]
  · cases s.walk <;> simp [h]

/-! ### The end of a walk (R312, R316) -/

theorem bay_unpowerBay (s : State) (b d : Nat) :
    (unpowerBay s b).bay d = if d = b then { s.bay b with powered := false, latch := false } else s.bay d :=
  State.bay_modBay s b d (fun x => { x with powered := false, latch := false })

@[simp] theorem checkArray_bay (s : State) (b : Nat) : (checkArray s).bay b = s.bay b := by
  unfold checkArray
  split
  · rfl
  · split
    · exact raise_bay ..
    · rfl

@[simp] theorem checkArray_walk (s : State) : (checkArray s).walk = s.walk := by
  unfold checkArray
  split
  · rfl
  · split
    · exact raise_walk ..
    · rfl

@[simp] theorem unpowerBay_walk (s : State) (b : Nat) : (unpowerBay s b).walk = s.walk := rfl

/-- The ledger of an ACTIVE cartridge of a position (R304). -/
def activeLedger (p : Nat) (l : CartLedger) : CartLedger := { l with lstate := 2, position := BitVec.ofNat 8 p }

/-- The target is ACTIVE, as its ledger says. -/
def targetActive (s : State) (w : Walk) : State :=
  writeLedger (s.modBay w.target.val (fun x => { x with st := .active })) w.target.val (activeLedger w.position)

/-- The target takes the walk's position, and every member's journal says that the walk has ended. -/
def targetTaken (s : State) (w : Walk) : State :=
  putJournal { targetActive s w with
    walk := none, vacated := (targetActive s w).vacated &&& ~~~ BitVec.ofNat 8 (2 ^ w.position) } w true

/-- A copy's source is retired: OUT, without position and without power. -/
def retireSource (s : State) (b : Nat) : State :=
  unpowerBay (writeLedger (s.modBay b (fun x => { x with st := .out, position := none })) b (fun l => { l with lstate := 3 })) b

/-- What the end of a walk does with its source. -/
def sourceDone (s : State) (w : Walk) : State :=
  match w.copy, w.source with
  | true, some b => retireSource s b.val
  | _, _ => s

theorem endWalk_eq (s : State) (w : Walk) :
    ∃ ws, endWalk s w = checkArray (raise (sourceDone (targetTaken s w) w) evRebuildDone [] ws) := by
  unfold endWalk sourceDone
  cases w.copy <;> cases w.source <;>
    exact ⟨_, congrArg checkArray (congrArg (raise · evRebuildDone [] _) rfl)⟩

theorem bay_endWalk (s : State) (w : Walk) (k : Nat) : (endWalk s w).bay k = (sourceDone (targetTaken s w) w).bay k := by
  obtain ⟨ws, e⟩ := endWalk_eq s w
  rw [e, checkArray_bay, raise_bay]

theorem sourceDone_copy {w : Walk} {c : Bay} (copy : w.copy = true) (h : w.source = some c) (s : State) :
    sourceDone s w = retireSource s c.val := by
  rw [sourceDone, copy, h]

@[simp] theorem sourceDone_walk (s : State) (w : Walk) : (sourceDone s w).walk = s.walk := by
  unfold sourceDone
  split
  · rw [retireSource, unpowerBay_walk, writeLedger_walk, State.modBay_walk]
  · rfl

theorem bay_retireSource_self (s : State) (b : Nat) :
    ((retireSource s b).bay b).st = .out ∧ ((retireSource s b).bay b).powered = false := by
  simp [retireSource, bay_unpowerBay]

/-- The end of a walk leaves every bay but the source's as it is. -/
theorem bay_sourceDone_other {w : Walk} {k : Bay} (h : w.source ≠ some k) (s : State) : (sourceDone s w).bay k.val = s.bay k.val := by
  unfold sourceDone
  split
  · next b _ source =>
    have other : k.val ≠ b.val := fun e => h (source.trans (congrArg some (Fin.ext e.symm)))
    rw [retireSource, bay_unpowerBay, if_neg other, bay_writeLedger, if_neg other, State.bay_modBay, if_neg other]
  · rfl

theorem endWalk_walk (s : State) (w : Walk) : (endWalk s w).walk = none := by
  obtain ⟨ws, e⟩ := endWalk_eq s w
  rw [e, checkArray_walk, raise_walk, sourceDone_walk]
  rfl

theorem bay_targetActive (s : State) (w : Walk) : (targetActive s w).bay w.target.val =
    ({ s.bay w.target.val with st := .active } : BayState).ledgered (activeLedger w.position) := by
  rw [targetActive, bay_writeLedger_self, State.bay_modBay_self]

/-- The target's bay at the end of a walk: ACTIVE, with a new ledger and the journal of the walk's end. -/
theorem bay_targetTaken (s : State) (w : Walk) : (targetTaken s w).bay w.target.val =
    (({ s.bay w.target.val with st := .active } : BayState).ledgered (activeLedger w.position)).journalled (journalCopy s w true) := by
  rw [targetTaken, bay_putJournal]
  exact congrArg (BayState.journalled · (journalCopy s w true)) (bay_targetActive s w)

theorem targetTaken_st (s : State) (w : Walk) : ((targetTaken s w).bay w.target.val).st = .active := by
  rw [bay_targetTaken, journalled_st, ledgered_st]

/-- The target's cartridge bears the journal of the walk's end. -/
theorem targetTaken_journal {s : State} {w : Walk} {c : Cartridge} (h : (s.bay w.target.val).cart = some c) :
    ((targetTaken s w).bay w.target.val).cart.bind (·.journal) = some (journalCopy s w true) := by
  have present : ((({ s.bay w.target.val with st := .active } : BayState).ledgered (activeLedger w.position))).cart.isSome = true := by
    rw [ledgered_cart_isSome, h]
    rfl
  obtain ⟨d, hd⟩ := Option.isSome_iff_exists.mp present
  rw [bay_targetTaken, journalled_member (by rw [ledgered_st]; rfl) hd]
  rfl

theorem rebuildDone_eq {s : State} {w : Walk} (h : s.walk = some w) (runs : walkRuns s = true)
    (done : walkStripes s w.next w.last = []) : exec .rebuildDone s = .next (drivePins (endWalk s w)) := by
  rw [exec_rebuildDone, execRebuildDone, h]
  exact congrArg Host.Outcome.next (if_pos (by simp [runs, done]))

/-! ### CART_RETIRE (R312, R319) -/

theorem lt_of_bayIn {s : State} {st : BaySt} {g : Nat} (h : bayIn s st = some g) : g < 9 :=
  List.mem_range.mp (List.mem_of_find?_eq_some h)

/-- A copy of the cartridge in bay `n` starts on the gusset of bay `g`. -/
theorem startWalk_copy (s : State) {g n : Nat} (hg : g < 9) (hn : n < 9) (p : Nat) :
    ∃ v, (startWalk s g p (some n)).walk = some v ∧ v.copy = true ∧ v.position = p ∧ v.target.val = g ∧
      v.source.map (·.val) = some n := by
  unfold startWalk
  dsimp only
  rw [raise_walk, writeLedger_walk, writeJournal_walk, setWalkCounts_walk]
  exact ⟨_, rfl, rfl, rfl, Nat.mod_eq_of_lt hg, congrArg some (Nat.mod_eq_of_lt hn)⟩

theorem startRetire_none {a : State} (h : bayIn a .gusset = none) (b : Nat) : startRetire a b = none := by
  rw [startRetire, h]

theorem startRetire_some {a : State} {b g p : Nat} (hg : bayIn a .gusset = some g) (hp : (a.bay b).position = some p)
    (idle : a.walk = none) :
    startRetire a b = some (startWalk (writeLedger (a.modBay b (fun y => { y with st := .retiring })) b id) g p (some b)) := by
  rw [startRetire, hg, hp]
  exact if_neg (by simp [idle])

/-- The refusals of CART_RETIRE before it looks for a gusset. -/
theorem cartRetire_refused (a : State) (m : MciCall) :
    (9 ≤ m.f 0 1 → cartRetire a m = (a, .done 0x12 [])) ∧
    (m.f 0 1 < 9 → (a.bay (m.f 0 1)).st ≠ .active → cartRetire a m = (a, .done 0x81 [])) ∧
    (m.f 0 1 < 9 → (a.bay (m.f 0 1)).st = .active → a.walk ≠ none → cartRetire a m = (a, .done 0x13 [])) := by
  refine ⟨fun h => if_pos h, fun h st => (if_neg (Nat.not_le.mpr h)).trans (if_pos st), fun h st busy => ?_⟩
  exact (if_neg (Nat.not_le.mpr h)).trans ((if_neg (not_not.mpr st)).trans (if_pos (Option.isSome_iff_ne_none.mpr busy)))

/-- CART_RETIRE of an ACTIVE cartridge while no walk runs. -/
theorem cartRetire_idle {a : State} {m : MciCall} (h : m.f 0 1 < 9) (st : (a.bay (m.f 0 1)).st = .active) (idle : a.walk = none) :
    (startRetire a (m.f 0 1) = none → cartRetire a m = (a, .done 0x82 [])) ∧
    ∀ t, startRetire a (m.f 0 1) = some t → cartRetire a m = (drivePins t, .done 0 []) := by
  rw [cartRetire, if_neg (Nat.not_le.mpr h), if_neg (not_not.mpr st), if_neg (by simp [idle])]
  exact ⟨fun e => by rw [e], fun t e => by rw [e]; rfl⟩

/-! ### CART_QUERY (R319, R402) -/

@[simp] theorem length_ledgerBytes (l : CartLedger) : (ledgerBytes l).length = 40 := by simp [ledgerBytes]

theorem map_getD_range {d : List Byte} {n : Nat} (h : d.length = n) : (List.range n).map (fun i => d.getD i 0) = d :=
  List.ext_getElem (by simp [h]) fun i _ hi => by simp [hi]

theorem cartQuery_range {a : State} {m : MciCall} (h : 9 ≤ m.f 0 1) : cartQuery a m = (a, .done 0x12 []) := if_pos h

/-- What CART_QUERY gives for a bay: its state, position and cause, its identity record and its ledger. -/
theorem cartQuery_eq {a : State} {m : MciCall} (h : m.f 0 1 < 9) :
    ∃ pos record ledger, cartQuery a m = (a.tick, .done 0 (leBytes 1 (bayCode (a.bay (m.f 0 1)).st) ++ pos
        ++ leBytes 1 (a.bay (m.f 0 1)).cause.toNat ++ [0] ++ record ++ ledger)) ∧
      pos.length = 1 ∧ record.length = 256 ∧ ledger.length = 40 ∧
      ∀ c, (a.bay (m.f 0 1)).cart = some c → c.record.length = 256 → record = c.record := by
  refine ⟨_, _, _, if_neg (Nat.not_le.mpr h), ?_, ?_, ?_, fun c hc len => ?_⟩
  · split <;> simp
  · split <;> simp
  · split <;> simp
  · rw [hc]; exact map_getD_range len

end Sys2Proof.Machine

namespace Sys2Proof.Proofs
open Machine

/-- Settles O49: ledgers by `ledgered_some` and `ledgered_newest`, a stripe's data by `data_of_six_shares`, the journal by
`bay_putJournal`, the walk's stripes by `walkStripe_eq`, its end by `bay_endWalk`, the commands by what their handlers do. -/
theorem wearAndWalks : Obligations.WearAndWalks := by
  intro s b x
  refine ⟨fun l power hl st => ?ledger, fun off => congrArg Host.Outcome.next (if_neg (by rw [off]; exact Bool.false_ne_true)),
    (eolRepeat_eq s b).1, (eolRepeat_eq s b).2, fun w hw => ?walk,
    fun hw => ⟨(walk_stands (.inl hw)).1, (walk_stands (.inl hw)).2, rebuildJournalWrite_none hw⟩,
    fun d e hd he => data_of_six_shares hd he, fun via input a m => ⟨fun h => ?retire, fun h => ?query⟩⟩
  case ledger =>
    intro t
    have bay : t.bay b.val = x.ledgered (growLedger s.free) := bay_writeLedger_self ..
    obtain ⟨cartId, writer, lstate, position, tb⟩ := growLedger_fields s.free
      { l with writer := Config.serial, tb := BitVec.ofNat 32 (x.written / 1000000000000) }
    refine ⟨ledgerWrite_eq power hl st, ?_, fun c hc => ?_, fun low life => checkWear_below ?_ life⟩
    · rw [bay, ledgered_some hl]
      simp only [Option.map_some, cartId, writer, lstate, position, tb]
    · rw [bay]
      exact ledgered_newest hl hc _
    · rw [bay, ledgered_warned]
      exact low
  case walk =>
    refine ⟨rebuildJournalWrite_some hw, fun k c member hc => ?_, fun n rest st runs next hst => ?_, fun runs done => ?_,
      fun stands => walk_stands (.inr stands)⟩
    · rw [bay_putJournal]
      exact journalled_member member hc _
    · exact ⟨_, rebuildStripe_eq hw runs next, walkStripe_walk hst w, walkStripe_lost hst, walkStripe_written hst⟩
    · refine ⟨rebuildDone_eq hw runs done, endWalk_walk s w, fun c other hc => ?_, fun other => ?_, fun c copy source => ?_⟩
      · rw [bay_endWalk, bay_sourceDone_other other, targetTaken_journal hc]
      · rw [bay_endWalk, bay_sourceDone_other other, targetTaken_st]
      · rw [bay_endWalk, sourceDone_copy copy source]
        exact bay_retireSource_self ..
  case retire =>
    obtain ⟨range, notActive, busy⟩ := cartRetire_refused a m
    refine ⟨fun hn => next_mci_done h (range hn), fun hn st => next_mci_done h (notActive hn st),
      fun hn st walks => next_mci_done h (busy hn st walks), fun hn st idle none => ?_, fun g p hn st idle hg hp => ?_⟩
    · exact next_mci_done h ((cartRetire_idle hn st idle).1 (startRetire_none none _))
    · exact ⟨_, next_mci_done h ((cartRetire_idle hn st idle).2 _ (startRetire_some hg hp idle)), rfl,
        startWalk_copy _ (lt_of_bayIn hg) hn p⟩
  case query =>
    refine ⟨fun hn => next_mci_done h (cartQuery_range hn), fun hn => ?_⟩
    obtain ⟨pos, record, ledger, run, hpos, hrecord, hledger, same⟩ := cartQuery_eq (a := a) hn
    refine ⟨_, next_mci_done h run, by simp [hpos, hrecord, hledger], rfl, fun c hc len => ?_⟩
    rw [List.append_assoc, List.drop_append_of_le_length (by simp [hpos]), List.drop_of_length_le (by simp [hpos]), List.nil_append,
      List.take_append_of_le_length hrecord.ge, List.take_of_length_le hrecord.le, same c hc len]

end Sys2Proof.Proofs

/-! ## Responses to a host, with DevLoad (R344, R351) -/

namespace Sys2Proof.Machine

/-- A response leaves with the port's DevLoad, which the port keeps (R344). -/
def respond (s : State) (p : Port) (o : Output) : State := (s.modPort p (fun x => { x with devLoad := devLoadOf s p })).emit o

/-- Data leaves on a link that is up, and is discarded on one that is down (R351). -/
theorem sendData_eq (s : State) (p : Port) (id : SrcId) (tag : BitVec 16) (bs : List Byte) (poison : Bool) (mv : MetaValue) :
    sendData s p id tag bs poison mv =
      if (s.port p).up then respond s p (.drs p id tag (bytesLine bs) poison mv (devLoadOf s p)) else s := rfl

/-- A completion leaves, or is discarded, likewise (R351). -/
theorem sendDone_eq (s : State) (p : Port) (id : SrcId) (tag : BitVec 16) (mv : MetaValue) :
    sendDone s p id tag mv = if (s.port p).up then respond s p (.ndr p id tag mv (devLoadOf s p)) else s := rfl

/-- A response changes what the module has sent and the DevLoad of its port. -/
theorem respond_frame (s : State) (p : Port) (o : Output) :
    respond s p o = { s with ports := (respond s p o).ports, out := (respond s p o).out } ∧
    (respond s p o).port p = { s.port p with devLoad := devLoadOf s p } ∧ ∀ q, q ≠ p → (respond s p o).port q = s.port q :=
  ⟨rfl, by rw [respond, State.port_emit, State.port_modPort_self],
    fun q other => by rw [respond, State.port_emit, State.port_modPort, if_neg other]⟩

theorem devLoadOf_shrunk {s : State} (h : s.shrunk = true) (p : Port) : devLoadOf s p = 3 := if_pos h

theorem two_le_devLoadOf {s : State} (h : inSetChange s = true) (p : Port) : 2 ≤ devLoadOf s p := by
  cases shrunk : s.shrunk with
  | true => rw [devLoadOf_shrunk shrunk]; decide
  | false =>
    simp only [devLoadOf, shrunk, h, if_true]
    exact le_max_right _ _

end Sys2Proof.Machine

namespace Sys2Proof.Proofs
open Machine

/-- Settles O16: both responses by `respond_frame`, DevLoad by `devLoadOf_shrunk` and `two_le_devLoadOf`. -/
theorem hostResponses : Obligations.HostResponses := by
  intro s p id tag bs poison mv
  rw [sendData_eq, sendDone_eq]
  refine ⟨fun down => ?discarded, fun up => ?sent, fun h => devLoadOf_shrunk h p, fun h => two_le_devLoadOf h p⟩
  case discarded => simp [down]
  case sent =>
    rw [if_pos up, if_pos up]
    refine ⟨rfl, rfl, ?_⟩
    simpa only [List.forall_mem_cons, List.not_mem_nil, false_imp_iff, implies_true, and_true] using
      And.intro (respond_frame s p _) (respond_frame s p _)

end Sys2Proof.Proofs

/-! ## Commits of decoders (R341) -/

namespace Sys2Proof.Proofs
open Machine

/-- Settles O24: both commands apply under one condition each (`ifApplies_of`, `ifApplies_not`). -/
theorem decoderCommit : Obligations.DecoderCommit := by
  intro s c value
  have commit : bit value.toNat 0 = value.getLsbD 0 := bit_eq_testBit ..
  refine ⟨fun on set => ?_, fun h => ?_, fun busy done => ?_, fun h => ?_⟩
  · exact ifApplies_of (by rw [commit, on, set]; rfl) ..
  · exact ifApplies_not (by rw [commit]; exact Bool.and_eq_false_iff.mpr h) ..
  · exact ifApplies_of (by simp [busy, done]) ..
  · exact ifApplies_not (by rcases h with h | h <;> simp [h]) ..

end Sys2Proof.Proofs

/-! ## Links: training, loss, Recovery and retrain (R322 to R325, R351, R354, R471) -/

namespace Sys2Proof.Machine

/-! ### The rate that a link takes (R322 to R324, R459) -/

/-- A rate coded 3 where 4 is not allowed is no higher. -/
theorem revasRate_le (r : Nat) (c : Prop) [Decidable c] : (if r = 4 ∧ c then 3 else r) ≤ r := by
  split <;> omega

theorem cappedRate_le (s : State) (p : Port) (rate width : Nat) (flit256 partner : Bool) :
    cappedRate s p rate width flit256 partner ≤ min rate (modeRate s.pw.mode) := by
  have revas := revasRate_le (min rate (modeRate s.pw.mode)) (!(revasAllowed s p width && partner && flit256))
  cases flit256 with
  | true => exact revas
  | false => exact (min_le_left _ 2).trans revas

/-- 68-byte flits stop at 32 GT/s (R322). -/
theorem cappedRate_flit68 (s : State) (p : Port) (rate width : Nat) (partner : Bool) :
    cappedRate s p rate width false partner ≤ 2 := min_le_right _ 2

/-! ### Training and loss -/

/-- A link that can train comes up; the offer of Revas mode changes neither the mode nor what the port allows. -/
theorem linkUp_trained {s : State} {p : Port} {rate : BitVec 3} {width : BitVec 2} (trains : canTrain s p = true) (nonzero : rate ≠ 0)
    (known : rate.toNat ≤ 4) (wide : width ≠ 3) (flit256 pbr bi echo : Bool) :
    let r := cappedRate s p rate.toNat width.toNat flit256 echo
    linkUp s p rate width flit256 pbr bi echo =
      raise (setActive ((if revasAllowed s p 0 then s.emit (.revasOffer p) else s).modPort p (fun x => { x with
        up := true, rate := BitVec.ofNat 3 r, width := width, flit256 := flit256, pbr := flit256 && pbr, bi := flit256 && bi,
        retrain := false, recovery := [] })) p) evPortUp [] (w1 p.val ++ w1 r ++ w1 width.toNat ++ w1 (if flit256 then 256 else 68)
          ++ w1 (b2n (flit256 && pbr)) ++ w1 (b2n (r == 4))) := by
  have offered : ∀ a : State, a = s.emit (.revasOffer p) ∨ a = s →
      cappedRate a p rate.toNat width.toNat flit256 echo = cappedRate s p rate.toNat width.toNat flit256 echo := by
    rintro a (rfl | rfl) <;> rfl
  refine (if_neg (by simpa [trains, known] using ⟨nonzero, wide⟩)).trans ?_
  dsimp only
  rw [offered _ (by split <;> simp)]

theorem linkDown_up {s : State} {p : Port} (up : (s.port p).up = true) :
    let a := pfReset (s.modPort p (fun x => { x with
      up := false, rate := 0, width := 0, flit256 := false, pbr := false, bi := false, retrain := false, recovery := [],
      revasOk := true, memActive := false })) p 3
    let b := dropLoads a p
    let c := endPortRecalls b.1 p
    linkDown s p = raise c.1 evPortDown [] (w1 p.val ++ w1 (vfsOn s p) ++ w1 b.2 ++ w1 c.2) := by
  rw [linkDown, if_neg (by simp [up])]

theorem linkDown_down {s : State} {p : Port} (down : (s.port p).up = false) : linkDown s p = s := if_pos (by simp [down])

/-! ### Recovery (R325) -/

/-- The entries into Recovery that count with one more: those of the last second. -/
def recentEntries (s : State) (p : Port) : List Nat :=
  ((s.port p).recovery.filter (fun b => decide (s.ft.run < b + framesPerSecond))) ++ [s.ft.run]

theorem recoveryEntry_down {s : State} {p : Port} (down : (s.port p).up = false) (failed : Bool) : recoveryEntry s p failed = s :=
  if_pos (by simp [down])

/-- A link that enters Recovery retrains, and one in Revas mode may fall back. -/
theorem recoveryEntry_up {s : State} {p : Port} (up : (s.port p).up = true) (failed : Bool) :
    let a := s.modPort p (fun x => { x with retrain := true, recovery := recentEntries s p })
    recoveryEntry s p failed = if (s.port p).rate = 4 ∧ (failed ∨ 4 < (recentEntries s p).length) then
      raise (a.modPort p (fun x => { x with revasOk := false })) evRevasFallback [] (w1 p.val ++ w1 (if failed then 0 else 1)) else a := by
  intro a
  have kept : (a.port p).rate = (s.port p).rate := by simp only [a, State.port_modPort_self]
  rw [← kept]
  exact if_neg (by simp [up])

end Sys2Proof.Machine

namespace Sys2Proof.Proofs
open Machine

/-- Settles O25: the rate by `cappedRate_le` and `cappedRate_flit68`, the link's events by what `linkUp`, `linkDown` and
`recoveryEntry` come to, the retrain by its condition. -/
theorem linkEvents : Obligations.LinkEvents := by
  intro s p
  refine ⟨fun rate width flit256 pbr bi echo trains nonzero known wide => ?trained, fun up => ⟨?lost, fun failed => ?recovery⟩,
    fun rate up retrains nonzero known => ?retrained, fun down => ?down⟩
  case trained =>
    have le := cappedRate_le s p rate.toNat width.toNat flit256 echo
    refine ⟨le.trans (min_le_left ..), le.trans (min_le_right ..), fun flit68 => ?_,
      congrArg Host.Outcome.next (linkUp_trained trains nonzero known wide flit256 pbr bi echo)⟩
    subst flit68
    exact cappedRate_flit68 ..
  case lost => exact congrArg Host.Outcome.next (linkDown_up up)
  case recovery =>
    have run := recoveryEntry_up up failed
    refine ⟨fun stays => congrArg Host.Outcome.next (run.trans (if_neg ?_)),
      fun revas falls => congrArg Host.Outcome.next (run.trans (if_pos ⟨revas, falls⟩))⟩
    rintro ⟨revas, falls⟩
    rcases stays with other | ⟨good, few⟩
    · exact other revas
    · exact falls.elim (by simp [good]) (Nat.not_lt.mpr few)
  case retrained => exact ifApplies_of (by simpa [up, retrains, known] using nonzero) ..
  case down =>
    exact ⟨congrArg Host.Outcome.next (linkDown_down down), fun failed => congrArg Host.Outcome.next (recoveryEntry_down down failed)⟩

end Sys2Proof.Proofs

/-! ## Swaps (R346 to R348, R399) -/

namespace Sys2Proof.Machine

/-! ### The status that refuses a swap -/

theorem swapStatus_ungranted {a : State} {c : Ctx} (h : (a.ctx c).swapGrant = false) (e : Line) : swapStatus a c e = 0x73 :=
  if_pos (by simp [h])

theorem swapStatus_noMaster {a : State} {c : Ctx} (granted : (a.ctx c).swapGrant = true) (h : (a.ctx c).bme = false) (e : Line) :
    swapStatus a c e = 0x90 :=
  (if_neg (by simp [granted])).trans (if_pos (by simp [h]))

/-- A swap that may be made is refused for its range alone. -/
theorem swapStatus_range {a : State} {c : Ctx} (granted : (a.ctx c).swapGrant = true) (master : (a.ctx c).bme = true) (e : Line) :
    swapStatus a c e = if entryField e 8 8 % 4096 ≠ 0 ∨ entryField e 16 8 % 65536 ≠ 0
      ∨ swapRange a c (entryField e 16 8) (entryField e 24 4) = false then 0x12 else 0 := by
  refine (if_neg (by simp [granted])).trans ((if_neg (by simp [master])).trans (if_congr ?_ rfl rfl))
  simp [or_assoc]

/-! ### The reads of a SWAP_IN (R347) -/

/-- SWAP_IN of no page ends at once; otherwise its first 4,096 bytes are asked for. -/
theorem swapInRun_eq (a : State) (c : Ctx) (e : Line) (tag : Word) :
    swapInRun a c e tag = if entryField e 24 4 = 0 then endFlight a c tag 13 0 (w1 0) else { a with
      upstream := a.upstream ++ [{ ctx := c, tag := tag, host := entryField e 8 8, dev := entryField e 16 8, pages := entryField e 24 4 }]
      out := a.out ++ [.upRead c (BitVec.ofNat 64 (entryField e 8 8)) 4096 tag] } := rfl

/-- SWAP_IN taken: it is refused by its status, or starts. -/
theorem execSwapIn_taken {s : State} {c : Ctx} {e : Line} {a : State} {tag : Word} (taken : takeEntry s c e 13 = .taken a tag) :
    execSwapIn c e s = .next (if swapStatus a c e = 0 then swapInRun a c e tag else endFlight a c tag 13 (swapStatus a c e) (w1 0)) :=
  congrArg Host.Outcome.next (ringCmd_taken taken _)

/-! ### SWAP_OUT -/

/-- SWAP_OUT taken: it is refused by its status, or runs when its pages are resident. -/
theorem execSwapOut_taken {s : State} {c : Ctx} {e : Line} {a : State} {tag : Word} (taken : takeEntry s c e 14 = .taken a tag) :
    execSwapOut c e s = .next (if swapStatus a c e = 0 then nmRun a c e else endFlight a c tag 14 (swapStatus a c e) (w1 0)) :=
  congrArg Host.Outcome.next (ringCmd_taken taken _)

/-- SWAP_OUT whose pages are resident runs at once. -/
theorem nmRun_swapOut {a : State} {e : Line} (out : entryOp e = 14)
    (resident : (runPids a (nmRuns e)).any (fun p => pageMissing a p || pageWaits a p) = false) (c : Ctx) :
    nmRun a c e = unpinPages (swapOutRun a c (BitVec.ofNat 32 (entryField e 4 4)) (entryField e 8 8) (entryField e 16 8) (entryField e 24 4))
      (cmdPin c (BitVec.ofNat 32 (entryField e 4 4))) := by
  have act : nmAct a c e = swapOutRun a c (BitVec.ofNat 32 (entryField e 4 4)) (entryField e 8 8) (entryField e 16 8) (entryField e 24 4) := by
    rw [nmAct, out]
    rfl
  rw [← act]
  exact if_neg (by simp [resident])

/-! ### Completions (R347, R348) -/

theorem upstreamCompletion_none {s : State} {c : Ctx} {tag : Word} (h : swapOf s c tag = none) (good ep : Bool) (data : List Line) :
    execUpstreamCompletion c tag good ep data s = .next s := by
  rw [execUpstreamCompletion, h]

theorem upstreamCompletion_some {s : State} {c : Ctx} {tag : Word} {u : Upstream} (h : swapOf s c tag = some u) (good ep : Bool)
    (data : List Line) : execUpstreamCompletion c tag good ep data s = .next (if good then swapData s u ep data else endSwap s u 0x91) := by
  rw [execUpstreamCompletion, h]

theorem upstreamCompletionTimeout_none {s : State} {c : Ctx} {tag : Word} (h : swapOf s c tag = none) :
    execUpstreamCompletionTimeout c tag s = .next s := by
  rw [execUpstreamCompletionTimeout, h]

theorem upstreamCompletionTimeout_some {s : State} {c : Ctx} {tag : Word} {u : Upstream} (h : swapOf s c tag = some u) :
    execUpstreamCompletionTimeout c tag s = .next (endSwap s u 0x92) := by
  rw [execUpstreamCompletionTimeout, h]

/-- A swap with the data of a completion, of which no more counts than the read that it answers asked for. -/
def Upstream.advanced (u : Upstream) (data : List Line) : Upstream :=
  { u with moved := u.moved + 64 * min data.length ((4096 - u.moved % 4096) / 64) }

/-- The state once a completion's data is written and its swap has advanced. -/
def swapWritten (s : State) (u : Upstream) (ep : Bool) (data : List Line) : State :=
  let b := foldN (min data.length ((4096 - u.moved % 4096) / 64))
    (fun i x => deviceWrite x (walkerOf u.ctx u.tag) (u.dev + u.moved + 64 * i) (lineBytes (data.getD i 0)) ep) s
  { b with upstream := b.upstream.map (fun x => if x == u then u.advanced data else x) }

/-- A completion's data ends the swap with its last page, asks for the next read at the end of one, or leaves it to go on. -/
theorem swapData_eq (s : State) (u : Upstream) (ep : Bool) (data : List Line) :
    swapData s u ep data =
      if (u.advanced data).moved = (u.advanced data).pages * 65536 then endSwap (swapWritten s u ep data) (u.advanced data) 0
      else if (u.advanced data).moved % 4096 = 0 then swapRead (swapWritten s u ep data) (u.advanced data)
      else swapWritten s u ep data := rfl

end Sys2Proof.Machine

namespace Sys2Proof.Proofs
open Machine

/-- Settles O39: the statuses by `swapStatus_range` and its kin, entries taken end by their status or run (`next_of_status`,
`swapInRun_eq`, `nmRun_swapOut`), completions by the swap that they belong to. -/
theorem swaps : Obligations.Swaps := by
  intro s c e a tag f bad
  refine ⟨fun h => swapStatus_ungranted h e, fun granted h => swapStatus_noMaster granted h e, fun granted master => ?status,
    fun taken => ?swapIn, fun taken => ?swapOut, fun good ep data none => ?none, fun u found => ?ends⟩
  case status =>
    rw [swapStatus_range granted master]
    exact ⟨fun h => if_pos h, fun h => if_neg h⟩
  case swapIn =>
    have run := execSwapIn_taken taken
    refine ⟨fun refused => run.trans (congrArg _ (if_neg refused)), fun ok pages => ⟨_, run.trans (congrArg _ (if_pos ok)), ?_⟩,
      fun ok none => run.trans (congrArg _ ((if_pos ok).trans ?_))⟩
    · rw [swapInRun_eq, if_neg pages]
    · rw [swapInRun_eq, if_pos none]
      rfl
  case swapOut =>
    have run := execSwapOut_taken taken
    exact ⟨fun refused => run.trans (congrArg _ (if_neg refused)),
      fun ok out resident => run.trans (congrArg _ ((if_pos ok).trans (nmRun_swapOut out resident c)))⟩
  case none => exact ⟨upstreamCompletion_none none good ep data, upstreamCompletionTimeout_none none⟩
  case ends =>
    refine ⟨upstreamCompletionTimeout_some found, fun ep data => upstreamCompletion_some found false ep data, fun ep data => ?_⟩
    have run : exec (.upstreamCompletion c tag true ep data) s = .next (swapData s u ep data) := upstreamCompletion_some found true ep data
    rw [swapData_eq] at run
    refine ⟨fun all => ?_, fun more aligned => ?_, fun more inside => ?_⟩
    · exact run.trans (congrArg _ (if_pos all))
    · exact run.trans (congrArg _ ((if_neg more).trans (if_pos aligned)))
    · exact run.trans (congrArg _ ((if_neg more).trans (if_neg inside)))

end Sys2Proof.Proofs

/-! ## The CXL mailbox commands and the firmware transfer (R353, R381, R384, R443 to R447) -/

namespace Sys2Proof.Machine

/-! ### The CXL commands of a PF mailbox (R353, R381, R384) -/

/-- A CXL command that the steward hears acts where its input has the right length and is legal. -/
theorem next_cxlCommand {s : State} {p : Port} {b : Bool} (heard : stewardHears s (.mailbox p b) = true) {okLen okInput : Bool}
    (len : okLen = true) (legal : okInput = true) (f : State → State) :
    Host.Outcome.next (cxlCommand s p b okLen okInput f) = (.next (f s) : Out) := by
  rw [cxlCommand, if_neg (by simp [heard]), if_neg (by simp [len]), if_neg (by simp [legal])]

/-- Get Log of a part of the Command Effects Log. -/
theorem getLogAnswer_cel {input : List Byte} (cel : input.take 16 = celUuid)
    (inside : bfield input 16 4 + bfield input 20 4 ≤ celBytes.length) (s : State) (p : Port) (b : Bool) :
    getLogAnswer s p b input = cxlAnswer s p b 0 ((celBytes.drop (bfield input 16 4)).take (bfield input 20 4)) :=
  (if_neg (not_not.mpr cel)).trans (if_neg (Nat.not_lt.mpr inside))

/-- Clear Event Records of named records that the log holds. -/
theorem clearRecords_handles {s : State} {p : Port} {input : List Byte} {k : LogKind} {hs : List Nat}
    (handles : (List.range (bfield input 2 1)).map (fun i => bfield input (6 + 2 * i) 2) = hs) (named : bfield input 1 1 = 0)
    (counted : bfield input 2 1 ≠ 0) (known : ∀ h ∈ hs, ∃ r ∈ logRecords (s.port p).logs k, r.handle = h) (b : Bool) :
    clearRecords s p b input k =
      cxlAnswer (s.modPort p (fun x => { x with logs := clearLog x.logs k false hs })) p b 0 [] := by
  have nonempty : hs.isEmpty = false := by simp [← handles, counted]
  have held : hs.all (fun h => (logRecords (s.port p).logs k).any (fun r => r.handle == h)) = true := by simpa using known
  have notAll : bit 0 0 = false := rfl
  simp only [clearRecords, handles, named, notAll, held, nonempty]
  rfl

section
variable {s : State} {p : Port} {b : Bool} (heard : stewardHears s (.mailbox p b) = true)
include heard

theorem execGetLog_cel {input : List Byte} (len : input.length = 24) (cel : input.take 16 = celUuid)
    (inside : bfield input 16 4 + bfield input 20 4 ≤ celBytes.length) :
    execGetLog p b input s = .next (cxlAnswer s p b 0 ((celBytes.drop (bfield input 16 4)).take (bfield input 20 4))) :=
  (next_cxlCommand heard (beq_iff_eq.mpr len) rfl _).trans (congrArg _ (getLogAnswer_cel cel inside s p b))

theorem execGetEventRecords_log {input : List Byte} {k : LogKind} (len : input.length = 1) (log : logOf (bfield input 0 1) = some k) :
    execGetEventRecords p b input s = .next (cxlAnswer s p b 0 (eventBytes (s.port p).logs k)) := by
  rw [execGetEventRecords, log]
  exact next_cxlCommand heard (beq_iff_eq.mpr len) rfl _

theorem execClearEventRecords_log {input : List Byte} {k : LogKind} (len : input.length = 6 + 2 * bfield input 2 1)
    (log : logOf (bfield input 0 1) = some k) (named : bfield input 1 1 = 0) (reserved : bfield input 3 3 = 0) :
    execClearEventRecords p b input s = .next (clearRecords s p b input k) := by
  rw [execClearEventRecords, log]
  exact next_cxlCommand heard (by simp [← len]; omega) (by simp [named, reserved]) _

/-- Set Event Interrupt Policy of four or five modes that are none reserved. -/
theorem execSetEventInterruptPolicy_modes {input : List Byte} (len : input.length = 4 ∨ input.length = 5)
    (modes : ∀ x ∈ input, bits x.toNat 0 2 < 3 ∧ bits x.toNat 2 2 = 0) :
    execSetEventInterruptPolicy p b input s = .next (cxlAnswer (s.modPort p (fun x => { x with
      policy := input.map (fun y => BitVec.ofNat 8 (bits y.toNat 0 2)) ++ x.policy.drop input.length })) p b 0 []) :=
  next_cxlCommand heard (by simpa using len) (by simpa using modes) _

/-- The extents that the mailbox's context has accepted. -/
theorem execGetDcExtentList_ctx {c : Ctx} (hc : (mbox s p b).ctx = some c) {input : List Byte} (len : input.length = 8)
    (start : bfield input 4 4 ≤ (acceptedExtents s c).length) : execGetDcExtentList p b input s = .next
      (cxlAnswer s.tick p b 0 (extentListBytes s (acceptedExtents s c) (min (bfield input 0 4) 1638) (bfield input 4 4))) := by
  rw [execGetDcExtentList, cxlForCtx_heard heard hc]
  exact congrArg _ ((if_neg (not_not.mpr len)).trans (if_neg (Nat.not_lt.mpr start)))

end

/-! ### The firmware transfer (R446) -/

section
variable {s : State} {via : Path} (heard : fwHears s via = true)
include heard

theorem transferFw_abort (slot : BitVec 8) (off : Word) (data : List Byte) :
    transferFw s via 4 slot off data = fwAnswer { s with fwXfer := none } via 0 := by
  rw [transferFw, if_neg (by simp [heard]), if_neg (by decide), if_pos rfl]

theorem execActivateFw_offline : execActivateFw via 1 1 s = .next (fwAnswer s via 0) :=
  congrArg Host.Outcome.next ((if_neg (by simp [heard])).trans rfl)

variable (idle : s.fwWrite = none) (free : pathBusy s via = false)
include idle free

theorem transferFw_initiate (none : s.fwXfer = none) (data : List Byte) :
    transferFw s via 1 1 0 data = fwAnswer { s with fwXfer := some data } via 0 := by
  rw [transferFw, if_neg (by simp [heard]), if_neg (by decide), if_neg (by decide), if_neg (by decide), if_neg (by simp [idle, free]),
    if_neg (by decide), if_pos rfl, if_neg (by simp [none]), if_neg (by decide)]

/-- A part that follows what has come and fits: Continue keeps the whole, End judges it. -/
theorem transferFw_part {got : List Byte} (started : s.fwXfer = some got) {off : Word} (follows : off.toNat * 128 = got.length)
    {data : List Byte} (fits : got.length + data.length ≤ 0x2000000) {action : BitVec 8} (part : action = 2 ∨ action = 3) :
    transferFw s via action 1 off data =
      if action = 2 then fwAnswer { s with fwXfer := some (got ++ data) } via 0 else endTransfer s via (got ++ data) := by
  obtain ⟨known, abort, full, initiate⟩ : ¬ 4 < action.toNat ∧ action ≠ 4 ∧ action ≠ 0 ∧ action ≠ 1 := by
    rcases part with rfl | rfl <;> decide
  rw [transferFw, if_neg (by simp [heard]), if_neg known, if_neg abort, if_neg (by decide), if_neg (by simp [idle, free]), if_neg full,
    if_neg initiate, started]
  exact if_neg (by simp [follows, fits])

end

/-! ### The end of a transfer (R445, R446) -/

theorem endTransfer_refused {s : State} {img : List Byte} {cause : Nat} (h : imageCause s img = some cause) (via : Path) :
    endTransfer s via img = fwAnswer (raise { s with fwXfer := none } evFwRejected []
      (w1 cause ++ w1 (bfield img 8 2) ++ w1 (bfield img 10 2) ++ w1 (bfield img 14 1))) via 2 := by
  have same : imageCause { s with fwXfer := none } img = some cause := h
  unfold endTransfer
  dsimp only
  rw [same]

/-- An accepted image is written in the background, and the store holds what it held until then. -/
theorem endTransfer_accepted {s : State} {img : List Byte} (h : imageCause s img = none) (via : Path) :
    ∃ t, endTransfer s via img = fwAnswer t via 1 ∧ t.fwWrite = some (imageOf img, via) ∧ t.fwXfer = none ∧ t.fwStore = s.fwStore := by
  have same : imageCause { s with fwXfer := none } img = none := h
  unfold endTransfer
  dsimp only
  rw [same]
  cases via <;> exact ⟨_, rfl, rfl, rfl, rfl⟩

/-- What R445 asks of an image that it accepts. -/
theorem imageCause_none {s : State} {img : List Byte} (h : imageCause s img = none) :
    s.svnFloor ≤ bfield img 14 1 ∧ bfield img 14 1 ≤ 63 ∧ bfield img 20 1 = 0xB1 ∧
      Config.slhVerify (BitVec.ofNat 64 (bfield img 24 8)) (img.take (64 + bfield img 16 4)) (img.drop (64 + bfield img 16 4)) = true := by
  simp only [imageCause, ite_eq_iff, reduceCtorEq, and_false, false_or] at h
  obtain ⟨-, family, svn, -, signed, -⟩ := h
  simp only [Bool.or_eq_true, decide_eq_true_eq, not_or, not_lt] at svn
  exact ⟨svn.1, svn.2, not_not.mp family, by simpa using signed⟩

/-- The end of a write whose image came through a sideband port. -/
theorem storeWritten_sideband {s : State} {img : FwImage} {n : Fin 2} (h : s.fwWrite = some (img, .sideband n)) :
    storeWritten s = { s with fwStore := some img, fwBad := false, fwWrite := none }.emit (.mailbox (.sideband n) 0 []) := by
  rw [storeWritten, h]

end Sys2Proof.Machine

namespace Sys2Proof.Proofs
open Machine

/-- Settles O46: the commands by `next_cxlCommand` and what each comes to, the transfer by `transferFw_part` and its kin, its end by
`endTransfer_refused`, `endTransfer_accepted` and `imageCause_none`. -/
theorem mailboxCommands : Obligations.MailboxCommands := by
  intro s p b input
  refine ⟨fun heard => ?cxl, fun via heard => ?transfer, fun via img => ⟨fun cause h => endTransfer_refused h via,
    fun h => endTransfer_accepted h via, imageCause_none⟩, fun img n h => congrArg Host.Outcome.next (storeWritten_sideband h)⟩
  case cxl =>
    intro say
    refine ⟨fun empty => ?empty, fun len => ?_, fun len cel inside => execGetLog_cel heard len cel inside,
      fun k len log => execGetEventRecords_log heard len log, fun k len log named reserved counted => ?clear,
      fun len modes => execSetEventInterruptPolicy_modes heard len modes, fun len reserved => ?_,
      fun c hc len start => execGetDcExtentList_ctx heard hc len start⟩
    case empty =>
      have none : input.isEmpty = true := List.isEmpty_iff.mpr empty
      exact ⟨next_cxlCommand heard none rfl _, next_cxlCommand heard none rfl _, next_cxlCommand heard none rfl _,
        next_cxlCommand heard none rfl _⟩
    case clear =>
      intro hs known
      exact (execClearEventRecords_log heard len log named reserved).trans
        (congrArg _ (clearRecords_handles rfl named counted known b))
    · exact next_cxlCommand heard (beq_iff_eq.mpr len) rfl _
    · exact next_cxlCommand heard (beq_iff_eq.mpr len) (beq_iff_eq.mpr reserved) _
  case transfer =>
    refine ⟨fun off data => congrArg _ (transferFw_abort heard 1 off data), fun idle free =>
      ⟨fun data none => congrArg _ (transferFw_initiate heard idle free none data), fun off got data started follows fits => ?_⟩,
      execActivateFw_offline heard⟩
    have part {action : BitVec 8} := transferFw_part heard idle free started follows fits (action := action)
    exact ⟨congrArg Host.Outcome.next ((part (.inl rfl)).trans (if_pos rfl)),
      congrArg Host.Outcome.next ((part (.inr rfl)).trans (if_neg (by decide)))⟩

end Sys2Proof.Proofs

/-! ## Keys, SPDM requests and IDE key management (R328, R433, R437 to R442, R449 to R452) -/

namespace Sys2Proof.Machine

/-! ### KEY_CLEAR (R441) -/

/-- The numbers of slots (R431). -/
theorem slotNumber_inRange {n : Nat} (low : 1 ≤ n) (high : n ≤ 1023) : ¬ (n = 0 || decide (1023 < n)) = true := by
  simp only [Bool.or_eq_true, decide_eq_true_eq]
  omega

theorem keyClear_range {a : State} {m : MciCall} (h : m.f 0 2 = 0 ∨ 1023 < m.f 0 2) : keyClear a m = (a, .done 0x12 []) :=
  if_pos (by simpa using h)

/-- KEY_CLEAR of a slot that is not EMPTY. -/
theorem keyClear_slot {a : State} {m : MciCall} (low : 1 ≤ m.f 0 2) (high : m.f 0 2 ≤ 1023) {x : KeySlot}
    (hx : mget? a.keys (m.f 0 2) = some x) :
    keyClear a m = if x.ctx ≠ m.ctx then (a, .done 0x11 []) else if slotUsers a (m.f 0 2) ≠ 0 then (a, .done 0x13 [])
      else ({ a with keys := mdel a.keys (m.f 0 2) }, .done 0 []) := by
  simp only [keyClear, hx]
  exact if_neg (slotNumber_inRange low high)

/-! ### KEY_SET (R439, R440) -/

/-- The object that a KEY_SET names: none for a context key. -/
def keyObject (m : MciCall) : Nat := if m.f 2 1 = 0 then 0 else m.f 4 4

/-- The key that the WRAPPED field of a KEY_SET holds under a key-encryption key (R439). -/
def wrappedKey (kek : BitVec 256) (c : Ctx) (m : MciCall) : List Byte :=
  unwrapKey (leBytes 32 kek.toNat) c (m.f 0 2) (m.f 2 1) (keyObject m) ((m.input.drop 8).take 64)

section
variable {a : State} {m : MciCall} {c : Ctx} (hc : m.ctx = some c) (low : 1 ≤ m.f 0 2) (high : m.f 0 2 ≤ 1023)
include hc low high

theorem keySet_noKek (h : mget? a.keks c.val = none) : keySet a m = (a, .done 0x11 []) := by
  unfold keySet
  rw [hc]
  dsimp only
  rw [if_neg (slotNumber_inRange low high), h]
  rfl

/-- KEY_SET with a key-encryption key. An own AWAITING slot with the command's kind and object takes the key with the check value
that the slot keeps; an EMPTY slot takes the key, and its object the slot, where the rows of R440 pass. -/
theorem keySet_kek {kek : BitVec 256} (hk : mget? a.keks c.val = some kek) :
    let key := wrappedKey kek c m
    let k : BitVec 512 := BitVec.ofNat 512 (leNat key)
    (∀ x, mget? a.keys (m.f 0 2) = some x → x.ctx = some c → x.key = none → x.kind = m.f 2 1 → x.object = keyObject m →
      keySet a m = if x.check ≠ keyCheck key then
          (raise a evKeyMismatch [c] (w1 c.val ++ w1 (m.f 0 2) ++ w1 (m.f 2 1) ++ w1 (keyObject m)), .done 0x11 [])
        else (loadAwaiting a (m.f 0 2) x k, .done 0 [])) ∧
    (mget? a.keys (m.f 0 2) = none →
      let st := keyChecks a c (m.f 0 2) (m.f 2 1) (keyObject m) key (keyCheck key)
      let t : State := { a with keys := mput a.keys (m.f 0 2) ⟨m.f 2 1, some c, keyObject m, keyCheck key, some k⟩ }
      keySet a m = if st ≠ 0 then (a, .done st [])
        else (if m.f 2 1 = 1 then t.modObj (keyObject m) (fun o => { o with slot := m.f 0 2 }) else t, .done 0 [])) := by
  unfold keySet
  rw [hc]
  dsimp only
  rw [if_neg (slotNumber_inRange low high), hk]
  dsimp only
  refine ⟨fun x hx own awaiting kind object => ?_, fun hx => ?_⟩
  · have waits : slotAwaiting x = true := by simp [slotAwaiting, awaiting]
    rw [hx]
    dsimp only
    rw [if_neg (by simp [own, kind, object, keyObject]), if_pos waits]
    rfl
  · rw [hx]
    rfl

end

/-! ### The SPDM responder (R438, R450 to R452) -/

/-- The requests that a connection's order rules, with the code and the command of each, and what it does (R450). -/
def spdmRequests (m : SpdmMsg) : List (Nat × Instr × (State → SpdmMsg → State)) :=
  [(0x84, .getVersion m, doVersion), (0xE1, .getCapabilities m, doCapabilities), (0xE3, .negotiateAlgorithms m, doAlgorithms),
   (0x81, .getDigests m, doDigests), (0x82, .getCertificate m, doCertificate), (0x83, .challenge m, doChallenge),
   (0xE0, .getMeasurements m, doMeasurements), (0xE4, .keyExchange m, doKeyExchange), (0xE5, .finish m, doFinish),
   (0xE8, .heartbeat m, doHeartbeat), (0xE9, .keyUpdate m, doKeyUpdate), (0xEC, .endSession m, doEndSession),
   (0x86, .chunkGet m, doChunkGet)]

/-- Each request is the row of its code, which is not CHUNK_SEND's. -/
theorem exec_spdmRequest (s : State) {m : SpdmMsg} : ∀ r ∈ spdmRequests m, exec r.2.1 s = .next (spdmRow s m r.1) ∧ r.1 ≠ 0x85 := by
  intro r hr
  fin_cases hr <;> exact ⟨rfl, by simp⟩

theorem spdmRow_unheard {s : State} {m : SpdmMsg} (h : spdmHears s m.chan = false) (code : Nat) : spdmRow s m code = s :=
  if_neg (by simp [h])

theorem spdmRow_heard {s : State} {m : SpdmMsg} (heard : spdmHears s m.chan = true) {code : Nat} (same : reqCode m.body = code) :
    spdmRow s m code = if code = 0x85 then doChunkSend s m else spdmHandle s m :=
  if_pos (by simp [heard, same])

/-- Only GET_VERSION may name another version than 1.4. -/
theorem spdmVersion_known {m : SpdmMsg} (version : reqCode m.body = 0x84 ∨ bfield m.body 0 1 = 0x14) :
    ¬ (reqCode m.body ≠ 0x84 && bfield m.body 0 1 ≠ 0x14) = true := by
  rcases version with h | h <;> simp [h]

section
variable {s : State} {m : SpdmMsg} (opened : sessionOpen s m = true) (version : reqCode m.body = 0x84 ∨ bfield m.body 0 1 = 0x14)
include opened version

/-- A request out of its order is unexpected (R450). -/
theorem spdmHandle_early (stage : connStage (s.conn m.chan) (reqCode m.body) = false) :
    spdmHandle s m = spdmReply s m.chan m.session (spdmError 4 0) :=
  (if_neg (by simp [opened])).trans ((if_neg (spdmVersion_known version)).trans (if_pos (by simp [stage])))

variable (stage : connStage (s.conn m.chan) (reqCode m.body) = true)
include stage

/-- A request in its order, or a vendor's, has the effect of its code. -/
theorem spdmHandle_ordered : ∀ h ∈ (0xFE, doVendor) :: (spdmRequests m).map (fun r => (r.1, r.2.2)), reqCode m.body = h.1 →
    spdmHandle s m = h.2 s m := by
  intro h listed code
  unfold spdmHandle
  dsimp only
  rw [if_neg (by simp [opened]), if_neg (spdmVersion_known version), if_neg (by simp [stage]), code]
  fin_cases listed <;> rfl

end

/-- The key-encryption keys after a request of R438 with a payload. -/
def keksAfter (s : State) (m : SpdmMsg) (pay : List Byte) : AMap (BitVec 256) :=
  if kekStatus s m pay ≠ 0 then s.keks
  else if bfield pay 0 2 = 1 then mput s.keks (bfield pay 2 2) (BitVec.ofNat 256 (bfield pay 4 32))
  else mdel s.keks (bfield pay 2 2)

/-- A vendor request answers its status, and changes key-encryption keys alone. -/
theorem doVendor_payload {m : SpdmMsg} {pay : List Byte} (h : vendorPayload m.body = some pay) (s : State) :
    doVendor s m = spdmReply { s with keks := keksAfter s m pay } m.chan m.session (spdmHead 0xFE 0 0 ++ leBytes 2 3 ++ leBytes 1 2
      ++ leBytes 2 0x1F3C ++ leBytes 2 2 ++ leBytes 2 (kekStatus s m pay)) := by
  unfold doVendor keksAfter
  rw [h]
  dsimp only
  split_ifs <;> rfl

theorem kekRow_payload {m : SpdmMsg} {pay : List Byte} (h : vendorPayload m.body = some pay) (s : State) :
    kekRow s m (bfield pay 0 2) = spdmRow s m 0xFE := by
  rw [kekRow, h]
  exact if_pos rfl

/-- The two KEK requests are told apart by the payload's command. -/
theorem exec_kekRow (s : State) {m : SpdmMsg} {cmd : Nat} {i : Instr} (h : (cmd, i) ∈ [(1, Instr.kekSet m), (2, .kekClear m)]) :
    exec i s = .next (kekRow s m cmd) := by
  simp only [List.mem_cons, Prod.mk.injEq, List.not_mem_nil, or_false] at h
  rcases h with ⟨rfl, rfl⟩ | ⟨rfl, rfl⟩ <;> rfl

/-- A DOE mailbox carries no KEK request (R438). -/
theorem kekStatus_doe {m : SpdmMsg} {q : Port} (h : m.chan = .doe q) (s : State) (pay : List Byte) : kekStatus s m pay = 2 :=
  if_pos (by simp [h])

/-! ### Signatures (R452) -/

theorem signatureDone_first {s : State} (h : s.aliasReady = false) (up : 3 ≤ s.pw.stage) :
    signatureDone s = { s with aliasReady := true }.bump 0xC0068 1 :=
  (if_pos (by simp [h])).trans (if_pos up)

theorem signatureDone_next {s : State} (ready : s.aliasReady = true) {j : SignJob} {js : List SignJob} (h : s.signQueue = j :: js) :
    signatureDone s = signedReply ({ s with signQueue := js }.bump 0xC0068 1) j := by
  rw [signatureDone, if_neg (by simp [ready]), h]

/-! ### IDE key management (R328, R442) -/

section
variable {s : State} {m : IdeMsg} {cxl : Bool} (heard : ideHeard s m cxl = true)
include heard

theorem ideQuery_heard : ideQuery s m cxl = ideAnswer s m 1 0 := if_pos heard

/-- A key set that is in use is not programmed. -/
theorem ideProg_heard : ideProg s m cxl = if mget? (ideOf s m cxl).active m.sub.val = some m.keySet.val then ideAnswer s m 3 4
    else ideAnswer (s.modIde m cxl (fun x => { x with keys := mput x.keys (ideKeyNo m) m.key })) m 3 0 :=
  (if_neg (by simp [heard])).trans (if_congr beq_iff_eq rfl rfl)

/-- A key set that has been programmed takes over. -/
theorem ideGo_heard : ideGo s m cxl = if mhas (ideOf s m cxl).keys (ideKeyNo m) = false then ideAnswer s m 6 4
    else ideAnswer (s.modIde m cxl (fun x => { x with active := mput x.active m.sub.val m.keySet.val })) m 6 0 :=
  (if_neg (by simp [heard])).trans (if_congr (by simp) rfl rfl)

theorem ideStop_heard : ideStop s m cxl = ideAnswer (s.modIde m cxl (fun x =>
    if mget? x.active m.sub.val == some m.keySet.val then { x with active := mdel x.active m.sub.val } else x)) m 6 0 :=
  if_neg (by simp [heard])

end

/-- A key is generated for the receive direction only (R442). -/
theorem getKey_heard {s : State} {m : IdeMsg} (heard : ideHeard s m true = true) :
    getKey s m = if m.tx then ideAnswer s m 8 4 else
      s.tick.emit (.ideKm m.port (leBytes 1 8 ++ leBytes 1 m.stream.val ++ leBytes 1 0 ++ leBytes 1 (m.keySet.val + 16 * m.sub.val)
        ++ (List.range 32).map (fun i => (Config.random 32 s.free).getD i 0))) :=
  if_neg (by simp [heard])

/-- The messages of both protocols do the same on their streams. -/
theorem exec_ide (s : State) (m : IdeMsg) (cxl : Bool) :
    exec (if cxl then .cxlQuery m else .ideKmQuery m) s = .next (ideQuery s m cxl) ∧
    exec (if cxl then .cxlKeyProg m else .ideKmKeyProg m) s = .next (ideProg s m cxl) ∧
    exec (if cxl then .cxlKSetGo m else .ideKmKSetGo m) s = .next (ideGo s m cxl) ∧
    exec (if cxl then .cxlKSetStop m else .ideKmKSetStop m) s = .next (ideStop s m cxl) := by
  cases cxl <;> exact ⟨rfl, rfl, rfl, rfl⟩

end Sys2Proof.Machine

namespace Sys2Proof.Proofs
open Machine

/-- Settles O47: KEY_CLEAR and KEY_SET by what their handlers do (`keyClear_slot`, `keySet_kek`), the SPDM requests by
`spdmHandle_ordered`, the KEK requests by `doVendor_payload`, IDE keys by what each message that is heard does. -/
theorem keysAndSessions : Obligations.KeysAndSessions := by
  refine fun s => ⟨fun via input a m c hc => ⟨fun h => ?clear, fun h low high => ?set⟩, fun m => ?spdm,
    fun first up => congrArg _ (signatureDone_first first up), fun j js ready queue => congrArg _ (signatureDone_next ready queue),
    fun m cxl heard => ?ide⟩
  case clear =>
    refine ⟨fun range => next_mci_done h (keyClear_range range), fun x low high hx => ?_⟩
    have run := keyClear_slot low high hx
    rw [hc] at run
    exact ⟨fun other => next_mci_done h (run.trans (if_pos other)),
      fun own used => next_mci_done h (run.trans ((if_neg (not_not.mpr own)).trans (if_pos used))),
      fun own unused => next_mci_done h (run.trans ((if_neg (not_not.mpr own)).trans (if_neg (not_not.mpr unused))))⟩
  case set =>
    refine ⟨fun none => next_mci_done h (keySet_noKek hc low high none), fun kek hk => ?_⟩
    obtain ⟨awaiting, empty⟩ := keySet_kek hc low high hk
    refine ⟨fun x hx own waits kind object => ?_, fun hx kind ok => ?_, fun hx refused => ?_⟩
    · have run := awaiting x hx own waits kind object
      exact ⟨fun differs => next_mci_done h (run.trans (if_pos differs)),
        fun same => next_mci_done h (run.trans (if_neg (not_not.mpr same)))⟩
    · have object : keyObject m = 0 := if_pos kind
      have slot (check : Word) (k : Option (BitVec 512)) :
          (⟨m.f 2 1, some c, keyObject m, check, k⟩ : KeySlot) = ⟨0, some c, 0, check, k⟩ := by rw [kind, object]
      refine next_mci_done h ((empty hx).trans ((if_neg (not_not.mpr ok)).trans ?_))
      rw [if_neg (by rw [kind]; decide), slot]
      rfl
    · exact next_mci_done h ((empty hx).trans (if_pos refused))
  case spdm =>
    refine ⟨fun r hr heard code => ⟨fun opened version stage => ?_, fun opened _ version stage => ?_⟩, fun r hr deaf => ?_,
      fun heard code => ?_, fun pay cmd i hi hpay hcmd heard code version opened stage => ?kek, fun q pay doe => kekStatus_doe doe s pay⟩
    · obtain ⟨run, notChunk⟩ := exec_spdmRequest s r hr
      rw [run, spdmRow_heard heard code, if_neg notChunk]
      rw [← code] at version stage
      exact congrArg _ (spdmHandle_ordered opened version stage _ (List.mem_cons_of_mem _ (List.mem_map_of_mem hr)) code)
    · obtain ⟨run, notChunk⟩ := exec_spdmRequest s r hr
      rw [run, spdmRow_heard heard code, if_neg notChunk]
      rw [← code] at stage
      exact congrArg _ (spdmHandle_early opened (.inr version) stage)
    · rw [(exec_spdmRequest s r hr).1, spdmRow_unheard deaf]
    · exact congrArg Host.Outcome.next ((spdmRow_heard heard code).trans (if_pos rfl))
    case kek =>
      have run := exec_kekRow s hi
      subst hcmd
      rw [← code] at stage
      have handled : spdmHandle s m = doVendor s m := spdmHandle_ordered opened (.inr version) stage _ List.mem_cons_self code
      refine ⟨{ s with keks := keksAfter s m pay }, run.trans (congrArg _ ?_), rfl, fun refused => if_pos refused,
        fun ok => if_neg (not_not.mpr ok)⟩
      rw [kekRow_payload hpay, spdmRow_heard heard code, if_neg (by decide), handled, doVendor_payload hpay]
  case ide =>
    intro say x put
    obtain ⟨query, prog, go, stop⟩ := exec_ide s m cxl
    rw [query, prog, go, stop, ideQuery_heard heard, ideProg_heard heard, ideGo_heard heard, ideStop_heard heard]
    refine ⟨rfl, fun active => ?_, fun inactive => ?_, fun absent => ?_, fun present => ?_, fun _ => rfl, fun cxlKey tx => ?_,
      fun cxlKey rx => ?_⟩
    · exact congrArg Host.Outcome.next (if_pos active)
    · exact congrArg Host.Outcome.next (if_neg inactive)
    · exact congrArg Host.Outcome.next (if_pos absent)
    · exact congrArg Host.Outcome.next (if_neg (ne_false_of_eq_true present))
    · subst cxlKey
      exact congrArg Host.Outcome.next ((getKey_heard heard).trans (if_pos tx))
    · subst cxlKey
      exact congrArg Host.Outcome.next ((getKey_heard heard).trans (if_neg (by simp [rx])))

end Sys2Proof.Proofs

/-! ## A step of the queue -/

namespace Sys2Proof.Proofs
open Machine

/-- Settles O57, by what `step` does with a queue. -/
theorem stepTakesTheFront : Obligations.StepTakesTheFront :=
  ⟨fun _ _ _ => rfl, fun s empty => by rw [step, empty]⟩

end Sys2Proof.Proofs

/-! ## The winner of an arbiter decision (R360) -/

namespace Sys2Proof.Machine

/-- The fold by `max` of a number of each element is the largest of them and of where it began. -/
theorem foldl_max_greatest {α : Type} (f : α → Nat) (l : List α) (n : Nat) :
    let top := l.foldl (fun p b => max p (f b)) n
    (n ≤ top ∧ ∀ b ∈ l, f b ≤ top) ∧ (top = n ∨ ∃ b ∈ l, f b = top) := by
  induction l generalizing n with
  | nil => simp
  | cons a l ih =>
    obtain ⟨⟨start, all⟩, reached⟩ := ih (max n (f a))
    refine ⟨⟨by simp only [List.foldl_cons]; omega, fun b hb => ?_⟩, ?_⟩
    · rcases List.mem_cons.mp hb with rfl | hb
      · simp only [List.foldl_cons]; omega
      · exact all b hb
    · rcases reached with h | ⟨b, hb, h⟩
      · rcases Nat.le_total n (f a) with le | le
        · exact .inr ⟨a, List.mem_cons_self, (Nat.max_eq_right le).symm.trans h.symm⟩
        · exact .inl (h.trans (Nat.max_eq_left le))
      · exact .inr ⟨b, List.mem_cons_of_mem a hb, h⟩

/-- The fold by `min` of a number of each element is the least of them and of where it began. -/
theorem foldl_min_least {α : Type} (f : α → Nat) (l : List α) (n : Nat) :
    let low := l.foldl (fun p b => min p (f b)) n
    (low ≤ n ∧ ∀ b ∈ l, low ≤ f b) ∧ (low = n ∨ ∃ b ∈ l, f b = low) := by
  induction l generalizing n with
  | nil => simp
  | cons a l ih =>
    obtain ⟨⟨start, all⟩, reached⟩ := ih (min n (f a))
    refine ⟨⟨by simp only [List.foldl_cons]; omega, fun b hb => ?_⟩, ?_⟩
    · rcases List.mem_cons.mp hb with rfl | hb
      · simp only [List.foldl_cons]; omega
      · exact all b hb
    · rcases reached with h | ⟨b, hb, h⟩
      · rcases Nat.le_total n (f a) with le | le
        · exact .inl (h.trans (Nat.min_eq_left le))
        · exact .inr ⟨a, List.mem_cons_self, (Nat.min_eq_right le).symm.trans h.symm⟩
      · exact .inr ⟨b, List.mem_cons_of_mem a hb, h⟩

/-- The highest priority of some bids. -/
def topPri (bids : List Bid) : Nat := bids.foldl (fun p b => max p b.pri) 0

/-- The lowest-numbered class of some bids; classes are below 4. -/
def lowClass (bids : List Bid) : Nat := bids.foldl (fun c b => min c b.cls) 4

/-- The bids of the highest priority. -/
def topBids (bids : List Bid) : List Bid := bids.filter (fun b => b.pri == topPri bids)

/-- Of the bids of the highest priority those of the lowest-numbered class. -/
def classBids (bids : List Bid) : List Bid := (topBids bids).filter (fun b => b.cls == lowClass (topBids bids))

/-- The first master at or after a class's pointer, wrapping. -/
def firstFrom (p : Nat) (bids : List Bid) : Option Bid := (bids.find? (fun b => decide (p ≤ b.m))).orElse (fun _ => bids.head?)

theorem winner_eq (ptr : AMap Nat) (bids : List Bid) :
    winner ptr bids = firstFrom (mget 0 ptr (lowClass (topBids bids))) (classBids bids) := rfl

theorem mem_topBids {bids : List Bid} {b : Bid} : b ∈ topBids bids ↔ b ∈ bids ∧ b.pri = topPri bids := by
  simp [topBids]

theorem mem_classBids {bids : List Bid} {b : Bid} : b ∈ classBids bids ↔ b ∈ topBids bids ∧ b.cls = lowClass (topBids bids) := by
  simp [classBids]

theorem le_topPri {bids : List Bid} {b : Bid} (h : b ∈ bids) : b.pri ≤ topPri bids := (foldl_max_greatest Bid.pri bids 0).1.2 b h

theorem lowClass_le {bids : List Bid} {b : Bid} (h : b ∈ bids) : lowClass bids ≤ b.cls := (foldl_min_least Bid.cls bids 4).1.2 b h

/-- Some bid has the highest priority. -/
theorem topBids_ne_nil {bids : List Bid} (asked : bids ≠ []) : topBids bids ≠ [] := by
  obtain ⟨a, ha⟩ := List.exists_mem_of_ne_nil bids asked
  rcases (foldl_max_greatest Bid.pri bids 0).2 with zero | ⟨b, hb, h⟩
  · have le := le_topPri ha
    have : topPri bids = 0 := zero
    exact List.ne_nil_of_mem (mem_topBids.mpr ⟨ha, by omega⟩)
  · exact List.ne_nil_of_mem (mem_topBids.mpr ⟨hb, h⟩)

/-- Some bid of the highest priority is of the lowest class. -/
theorem classBids_ne_nil {bids : List Bid} (classes : ∀ b ∈ bids, b.cls ≤ 3) (asked : bids ≠ []) : classBids bids ≠ [] := by
  obtain ⟨a, ha⟩ := List.exists_mem_of_ne_nil _ (topBids_ne_nil asked)
  rcases (foldl_min_least Bid.cls (topBids bids) 4).2 with four | ⟨b, hb, h⟩
  · have le := lowClass_le ha
    have cls := classes a (mem_topBids.mp ha).1
    have : lowClass (topBids bids) = 4 := four
    omega
  · exact List.ne_nil_of_mem (mem_classBids.mpr ⟨hb, h⟩)

/-- Of bids in ascending number the first at or after the pointer is taken; with none there, the first of all. -/
theorem firstFrom_spec (p : Nat) {l : List Bid} (asked : l ≠ []) (rises : l.Pairwise (fun x y => x.m < y.m)) :
    ∃ w ∈ l, firstFrom p l = some w ∧ ∀ b ∈ l, (p ≤ w.m → p ≤ b.m → w.m ≤ b.m) ∧ (w.m < p → b.m < p ∧ w.m ≤ b.m) := by
  have least : ∀ {w t}, (w :: t : List Bid).Pairwise (fun x y => x.m < y.m) → ∀ b ∈ w :: t, w.m ≤ b.m := fun h b hb => by
    rcases List.mem_cons.mp hb with rfl | hb
    · exact Nat.le_refl _
    · exact ((List.pairwise_cons.mp h).1 b hb).le
  cases found : l.find? (fun b => decide (p ≤ b.m)) with
  | some w =>
    obtain ⟨after, before, rest, rfl, earlier⟩ := List.find?_eq_some_iff_append.mp found
    rw [decide_eq_true_eq] at after
    refine ⟨w, by simp, by rw [firstFrom, found]; rfl, fun b hb => ⟨fun _ hp => ?_, fun h => absurd after (Nat.not_le.mpr h)⟩⟩
    rcases List.mem_append.mp hb with hb | hb
    · exact absurd hp (by simpa using earlier b hb)
    · exact least (List.pairwise_append.mp rises).2.1 b hb
  | none =>
    have below : ∀ b ∈ l, b.m < p := fun b hb => by simpa using List.find?_eq_none.mp found b hb
    obtain ⟨w, t, rfl⟩ := List.exists_cons_of_ne_nil asked
    refine ⟨w, List.mem_cons_self, by rw [firstFrom, found]; rfl, fun b hb => ⟨fun h => ?_, fun _ => ⟨below b hb, least rises b hb⟩⟩⟩
    exact absurd (below w List.mem_cons_self) (Nat.not_lt.mpr h)

end Sys2Proof.Machine

namespace Sys2Proof.Proofs
open Machine

/-- Settles O50: the winner is the first at or after the pointer (`firstFrom_spec`) of the bids of the lowest class of those of
the highest priority. -/
theorem decisionGrants : Obligations.DecisionGrants := by
  refine ⟨fun ptr bids classes asked rises => ?winner, fun s a n bids masked w => ⟨rfl, mget?_mput_self .., fun c other => ?pointer⟩⟩
  case winner =>
    have sub : (classBids bids).Sublist bids := List.filter_sublist.trans List.filter_sublist
    obtain ⟨w, hw, won, first⟩ := firstFrom_spec (mget 0 ptr (lowClass (topBids bids))) (classBids_ne_nil classes asked) (rises.sublist sub)
    obtain ⟨top, cls⟩ := mem_classBids.mp hw
    obtain ⟨mem, pri⟩ := mem_topBids.mp top
    refine ⟨w, (winner_eq ptr bids).trans won, mem, fun b hb => ⟨pri ▸ le_topPri hb, fun samePri => ?_⟩⟩
    have hb := mem_topBids.mpr ⟨hb, samePri.trans pri⟩
    refine ⟨cls ▸ lowClass_le hb, fun sameCls => ?_⟩
    rw [cls]
    exact first b (mem_classBids.mpr ⟨hb, sameCls.trans cls⟩)
  case pointer => exact (mget?_mput' ..).trans (if_neg other)

end Sys2Proof.Proofs

/-! ## The arbiters: counters, admissions and masks (R361 to R363, R365, R376) -/

namespace Sys2Proof.Machine

/-! ### The counters that a decision moves (R361, R362) -/

/-- A step of a fold over the masters that leaves a canonical map canonical and every entry but the master's own. -/
structure OwnEntry (f : AMap Nat → Nat → AMap Nat) : Prop where
  rises : ∀ {x : AMap Nat} (m : Nat), risesFrom 0 x = true → risesFrom 0 (f x m) = true
  other : ∀ {x : AMap Nat} {m k : Nat}, risesFrom 0 x = true → k ≠ m → mget? (f x m) k = mget? x k

/-- A step that removes, sets or leaves the master's entry. -/
theorem OwnEntry.of_cases {f : AMap Nat → Nat → AMap Nat}
    (h : ∀ x m, f x m = mdel x m ∨ (∃ v, f x m = mput x m v) ∨ f x m = x) : OwnEntry f where
  rises {x} m hx := by
    rcases h x m with e | ⟨v, e⟩ | e <;> rw [e]
    · exact risesFrom_mdel x 0 m hx
    · exact risesFrom_mput x 0 m v (Nat.zero_le m) hx
    · exact hx
  other {x m k} hx hk := by
    rcases h x m with e | ⟨v, e⟩ | e <;> rw [e]
    · exact (mget?_mdel x 0 m k hx).trans (if_neg hk)
    · exact (mget?_mput' x m k v).trans (if_neg hk)

/-- After such a fold a master's entry is what its own step made of its entry before the fold. -/
theorem OwnEntry.foldl_range {f : AMap Nat → Nat → AMap Nat} (own : OwnEntry f) {a : AMap Nat} (ha : risesFrom 0 a = true)
    {n m : Nat} (hm : m < n) :
    ∃ x, risesFrom 0 x = true ∧ mget? x m = mget? a m ∧ mget? ((List.range n).foldl f a) m = mget? (f x m) m := by
  suffices inv : ∀ n, let x := (List.range n).foldl f a
      risesFrom 0 x = true ∧ (∀ k, n ≤ k → mget? x k = mget? a k) ∧
      ∀ m < n, ∃ x', risesFrom 0 x' = true ∧ mget? x' m = mget? a m ∧ mget? x m = mget? (f x' m) m from (inv n).2.2 m hm
  intro n
  induction n with
  | zero => exact ⟨ha, fun _ _ => rfl, fun m hm => absurd hm (Nat.not_lt_zero m)⟩
  | succ n ih =>
    obtain ⟨rises, later, earlier⟩ := ih
    simp only [List.range_succ, List.foldl_append, List.foldl_cons, List.foldl_nil]
    refine ⟨own.rises n rises, fun k hk => (own.other rises (by omega)).trans (later k (by omega)), fun m hm => ?_⟩
    rcases Nat.lt_succ_iff_lt_or_eq.mp hm with lt | rfl
    · obtain ⟨x, hx, entry, made⟩ := earlier m lt
      exact ⟨x, hx, entry, (own.other rises (by omega)).trans made⟩
    · exact ⟨_, rises, later m le_rfl, rfl⟩

/-- A master's age after a decision that `w` wins (R361). -/
def ageStep (s : State) (bids : List Bid) (masked : Nat → Bool) (w : Bid) (x : AMap Nat) (m : Nat) : AMap Nat :=
  if w.m == m || masked m then mdel x m
  else if decide (1 < bids.length) && bids.any (fun b => b.m == m) then mput x m (min (mget 0 x m + 1) (ageMax s)) else x

/-- A master's wait counter after a decision that `w` wins (R362). -/
def waitStep (bids : List Bid) (w : Bid) (x : AMap Nat) (m : Nat) : AMap Nat :=
  if w.m == m || !bids.any (fun b => b.m == m) then mdel x m else mput x m (mget 0 x m + 1)

theorem decided_age (s : State) (a : Arb) (n : Nat) (bids : List Bid) (masked : Nat → Bool) (w : Bid) :
    (decided s a n bids masked (some w)).age = (List.range n).foldl (ageStep s bids masked w) a.age := rfl

theorem decided_wait (s : State) (a : Arb) (n : Nat) (bids : List Bid) (masked : Nat → Bool) (w : Bid) :
    (decided s a n bids masked (some w)).wait = (List.range n).foldl (waitStep bids w) a.wait := rfl

theorem ageStep_own (s : State) (bids : List Bid) (masked : Nat → Bool) (w : Bid) : OwnEntry (ageStep s bids masked w) :=
  .of_cases fun x m => by
    rw [ageStep]
    split
    · exact .inl rfl
    · split
      · exact .inr (.inl ⟨_, rfl⟩)
      · exact .inr (.inr rfl)

theorem waitStep_own (bids : List Bid) (w : Bid) : OwnEntry (waitStep bids w) :=
  .of_cases fun x m => by
    rw [waitStep]
    split
    · exact .inl rfl
    · exact .inr (.inl ⟨_, rfl⟩)

section
variable {a : Arb} {n : Nat} (s : State) (bids : List Bid) (masked : Nat → Bool) (w : Bid)

/-- The winner's age and wait counter return to 0. -/
theorem decided_winner (hage : risesFrom 0 a.age = true) (hwait : risesFrom 0 a.wait = true) (hw : w.m < n) :
    mget? (decided s a n bids masked (some w)).age w.m = none ∧ mget? (decided s a n bids masked (some w)).wait w.m = none := by
  obtain ⟨x, hx, -, age⟩ := (ageStep_own s bids masked w).foldl_range hage hw
  obtain ⟨y, hy, -, wait⟩ := (waitStep_own bids w).foldl_range hwait hw
  rw [decided_age, decided_wait, age, wait, ageStep, waitStep, if_pos (by simp), if_pos (by simp), mget?_mdel x 0 _ _ hx,
    mget?_mdel y 0 _ _ hy]
  simp

variable {bids masked w} {m : Nat}

/-- A master that asks and does not win waits one decision longer. -/
theorem decided_loser_wait (hwait : risesFrom 0 a.wait = true) (hm : m < n) (lost : m ≠ w.m)
    (asks : (bids.any (fun b => b.m == m)) = true) :
    mget 0 (decided s a n bids masked (some w)).wait m = mget 0 a.wait m + 1 := by
  obtain ⟨x, -, entry, wait⟩ := (waitStep_own bids w).foldl_range hwait hm
  rw [decided_wait, mget, wait, waitStep, if_neg (by simp [asks, lost.symm]), mget?_mput_self, mget, entry]
  rfl

/-- Where more than one master asks, one that asks, does not win and is not masked ages by one, up to AGE_MAX. -/
theorem decided_loser_age (hage : risesFrom 0 a.age = true) (hm : m < n) (lost : m ≠ w.m) (open_ : masked m = false)
    (asks : (bids.any (fun b => b.m == m)) = true) (several : 1 < bids.length) :
    mget 0 (decided s a n bids masked (some w)).age m = min (mget 0 a.age m + 1) (ageMax s) := by
  obtain ⟨x, -, entry, age⟩ := (ageStep_own s bids masked w).foldl_range hage hm
  rw [decided_age, mget, age, ageStep, if_neg (by simp [open_, lost.symm]), if_pos (by simp [several, asks]), mget?_mput_self, mget,
    entry]
  rfl

end

/-! ### Admissions (R363) -/

/-- A channel whose stack is not awake admits nothing; a grant decided before is an empty cycle. -/
theorem admission_asleep {s : State} {st ch : Nat} (h : stackAwake s st = false) :
    admission s st ch = if ((s.chan st ch).arb.grant).isSome then
      (s.modChan st ch (fun c => { c with arb := { c.arb with grant := none } })).bump 0x90048 1 else s := if_pos (by simp [h])

/-- The request of a master that is admitted next. -/
def nextReq (s : State) (st ch m : Nat) : Option OpenReq :=
  if masterMasked s m then none else (s.chan st ch).present.find? (fun x => x.master == m && !x.recallW && reqStands s st x)

/-- A grant with nothing to take is an empty cycle. -/
theorem admitReq_none {s : State} {st ch m : Nat} (h : nextReq s st ch m = none) : admitReq s st ch m = s.bump 0x90048 1 := by
  rw [nextReq] at h
  simp only [admitReq, h]

/-- A request that is admitted moves from those presented to the queue. -/
theorem admitReq_some {s : State} {st ch m : Nat} {x : OpenReq} (h : nextReq s st ch m = some x) (job : x.job ≠ 1) :
    ∃ charged : Arb → Arb, admitReq s st ch m = s.modChan st ch (fun c => { c with
      present := c.present.erase x, queue := c.queue ++ [arrived s x], arb := charged c.arb }) := by
  refine ⟨fun a => if 0 < guarLeft s st ch m then { a with guar := mmod 0 a.guar m (· + 1) }
    else { a with tokens := mput a.tokens m (tokensOf s (s.chan st ch).arb m - 1) }, ?_⟩
  rw [nextReq] at h
  simp only [admitReq, h, if_neg job, decide_eq_true_eq]

/-- A flash arbiter after a cycle that granted `g`: REBUILD pays for its operation (R376). -/
def flashCharged (s : State) (g : Option Nat) (a : Arb) : Arb :=
  if g = some 2 then { a with tokens := mput a.tokens 2 (Config.freeWord s.free).toNat } else a

/-- What an operation costs changes the tokens alone. -/
theorem flashCharged_frame (s : State) (g : Option Nat) (a : Arb) :
    flashCharged s g a = { a with tokens := (flashCharged s g a).tokens } := by
  rw [flashCharged]
  split <;> rfl

/-! ### Masks (R365) -/

theorem maskArb_default (raised : Bool) (m : Nat) : maskArb raised m {} = {} := by cases raised <;> rfl

/-- A change of a mask falls on the arbiter of every channel. -/
theorem chan_map_arb (s : State) (f : Arb → Arb) (hf : f {} = {}) (link : AMap Arb) (st ch : Nat) :
    ((State.chan { s with chans := s.chans.map (fun (c : Nat × ChanState) => (c.1, { c.2 with arb := f c.2.arb })), linkArbs := link } st ch).arb)
      = f (s.chan st ch).arb := by
  simp only [State.chan, mget, mget?_map (fun c : ChanState => { c with arb := f c.arb })]
  cases mget? s.chans (chanKey st ch) with
  | none => exact hf.symm
  | some c => rfl

end Sys2Proof.Machine

namespace Sys2Proof.Proofs
open Machine

/-- Settles O51: the counters by `decided_winner` and `decided_loser_age`, admissions by `admission_asleep` and `admitReq_some`,
masks by `chan_map_arb`. -/
theorem arbiterDecisions : Obligations.ArbiterDecisions := by
  refine fun s => ⟨fun a n bids masked w hage hwait => ?counters, fun t h => ?admissions, fun die toHub asks => rfl, fun b ch asks => ?flash,
    fun m raised => ?masks⟩
  case counters =>
    exact ⟨rfl, rfl, rfl, decided_winner s bids masked w hage hwait, fun m hm lost open_ asks =>
      ⟨decided_loser_wait s hwait hm lost asks, decided_loser_age s hage hm lost open_ asks⟩⟩
  case admissions =>
    refine ⟨fun asleep idle => congrArg Host.Outcome.next ?_, fun m asleep granted => congrArg Host.Outcome.next ?_, fun _ => rfl, fun m nothing => admitReq_none ?_,
      fun m x open_ found job => ?_⟩
    · rw [admission_asleep asleep, idle]; rfl
    · rw [admission_asleep asleep, granted]; rfl
    · rw [nextReq]
      rcases nothing with masked | idle
      · exact if_pos masked
      · rw [List.find?_eq_none.mpr (fun x hx => by simpa [imp_iff_not_or] using List.all_eq_true.mp idle x hx), ite_self]
    · obtain ⟨charged, admitted⟩ := admitReq_some ((if_neg (by simp [open_])).trans found) job
      rw [admitted, State.chan_modChan_self]
      exact ⟨rfl, rfl⟩
  case flash =>
    refine ⟨fun off => ifApplies_not off _ _, fun on => ?_⟩
    intro a ms r
    exact ⟨flashCharged s r.2.2 r.2.1, ifApplies_of on _ _, fun other => if_neg other, flashCharged_frame s r.2.2 r.2.1⟩
  case masks =>
    refine ⟨fun agrees => ⟨_, ifApplies_of (beq_iff_eq.mpr agrees) _ _, rfl, fun st ch => ?_⟩,
      fun differs => ifApplies_not (beq_eq_false_iff_ne.mpr differs) _ _⟩
    exact chan_map_arb s _ (maskArb_default raised m.val) _ st ch

end Sys2Proof.Proofs

/-! ## Completions and the event ring (R392 to R395, R400) -/

namespace Sys2Proof.Machine

section
variable {s : State} {c : Ctx} {tag : Word}

/-- Rings that are off, or on which no command has ended with all its writes done, post no completion. -/
theorem postCompletion_idle (idle : (s.ctx c).ring.enabled = false ∨
    ∀ f ∈ (s.ctx c).ring.flights, f.ended.isSome = true → deviceQueued s c f.tag = true) : postCompletion s c tag = s := by
  unfold postCompletion
  dsimp only
  rcases idle with off | waiting
  · split
    · rfl
    · exact if_pos (by simp [off])
  · rw [List.findIdx?_eq_none_iff.mpr (fun f hf => by
      cases ended : f.ended.isSome
      · rfl
      · simp [waiting f hf ended])]

/-- The next completion to be posted is that of the first command to have ended whose writes are done; no other is posted. -/
theorem postCompletion_first {i : Nat} {f : Flight} {st : BitVec 16} {words : List Word} (on : (s.ctx c).ring.enabled = true)
    (first : (s.ctx c).ring.flights.findIdx? (fun f => f.ended.isSome && !deviceQueued s c f.tag) = some i)
    (at_ : (s.ctx c).ring.flights[i]? = some f) (ended : f.ended = some (st, words)) :
    postCompletion s c tag = if f.tag ≠ tag then s else
      (ringEntry s c 1 f.opcode.toNat st.toNat (tag :: words)).modCtx c (fun x =>
        { x with ring := { x.ring with flights := x.ring.flights.eraseIdx i } }) := by
  unfold postCompletion
  simp only [first, at_, ended, on, Bool.not_true, Bool.false_eq_true, if_false]

/-- A command that ends stands last of those of its ring, with its status and words. -/
theorem flights_endFlight {op : BitVec 16} {i : Nat} {f : Flight}
    (found : (s.ctx c).ring.flights.findIdx? (fun f => f.tag == tag && f.opcode == op && f.ended.isNone) = some i)
    (at_ : (s.ctx c).ring.flights[i]? = some f) (st : Nat) (words : List Word) :
    ((endFlight s c tag op st words).ctx c).ring.flights =
      (s.ctx c).ring.flights.eraseIdx i ++ [{ f with ended := some (BitVec.ofNat 16 st, words) }] := by
  simp only [endFlight, found, State.ctx_modCtx_self, at_, Option.toList_some, List.map_cons, List.map_nil]

end

/-- The ring after an entry has been written at TAIL: PHASE flips at the wrap (R393). -/
def Ring.advanced (r : Ring) (t : Nat) : Ring :=
  { r with erTail := BitVec.ofNat 12 t, phase := if t = 0 then !r.phase else r.phase, written := r.written + 1 }

/-- An entry is written at TAIL, which advances; vector 0 is sent when COUNT entries have been written (R393, R395). -/
theorem ringEntry_eq (s : State) (c : Ctx) (kind code status : Nat) (words : List Word) :
    let r := (s.ctx c).ring
    let b := (putOwnLine s (r.erBase.toNat + r.erTail.toNat * 64) (entryBytes r.phase kind code c.val status s.ft.time words)).modCtx c
      (fun x => { x with ring := x.ring.advanced ((r.erTail.toNat + 1) % ringSize r.erOrder) })
    ringEntry s c kind code status words = if r.intEn = true ∧ r.written + 1 = r.intCount.toNat then sendMsix b (.vf c) 0 else b := by
  simp only [ringEntry, Ring.advanced, Bool.and_eq_true, beq_iff_eq]

end Sys2Proof.Machine

namespace Sys2Proof.Proofs
open Machine

/-- Settles O32: completions by `postCompletion_first`, entries by `ringEntry_eq`, the order of the ended by `flights_endFlight`. -/
theorem eventRing : Obligations.EventRing := by
  refine fun s c => ⟨fun tag i f st words on first at_ ended => ?post, fun tag idle => congrArg _ (postCompletion_idle idle),
    fun tag op st i words f found at_ => flights_endFlight found at_ st words, fun kind code status words => ?entry, fun value => rfl,
    fun on enabled time written =>
      ifApplies_of (by simpa [on, enabled, written] using time) _ _⟩
  case post =>
    have posted := postCompletion_first (tag := tag) on first at_ ended
    exact ⟨fun same => congrArg _ (posted.trans (if_neg (not_not.mpr same))), fun other => congrArg _ (posted.trans (if_pos other))⟩
  case entry =>
    have written := ringEntry_eq s c kind code status words
    exact ⟨fun enabled count => written.trans (if_pos ⟨enabled, count⟩),
      fun few => written.trans (if_neg (by rintro ⟨enabled, count⟩; simp [enabled, count] at few))⟩

end Sys2Proof.Proofs

/-! ## The paths of the MCI commands (R379, R380, R383, R385, R386, R397, R403) -/

namespace Sys2Proof.Machine

/-! ### The input (R383, R386) -/

section
variable {s : State} {via : Path} {op : Nat} {input : List Byte} {h : Handler}

theorem mci_unheard (deaf : stewardHears s via = false) : mci s via op input h = s := if_pos (by simp [deaf])

/-- An opcode of no row is Unsupported. -/
theorem returnCode_unknown (unknown : mciRow op = none) : returnCode op input = 3 := by rw [returnCode, unknown]

/-- A mailbox or the sideband answers an input that it cannot take with its return code. -/
theorem mci_returned (heard : stewardHears s via = true) (notRing : ∀ c, via ≠ .ring c) (bad : returnCode op input ≠ 0) :
    mci s via op input h = s.reply via (BitVec.ofNat 16 (returnCode op input)) [] := by
  rw [mci, if_neg (by simp [heard])]
  cases row : mciRow op with
  | none =>
    rw [returnCode_unknown row]
    cases via with
    | ring c => exact absurd rfl (notRing c)
    | sideband n => rfl
    | mailbox p b => rfl
  | some r =>
    cases via with
    | ring c => exact absurd rfl (notRing c)
    | sideband n => exact if_pos bad
    | mailbox p b => exact if_pos bad

/-- An entry that has not been handed over is no command. -/
theorem mci_unhanded {c : Ctx} (absent : handed s c op input = none) : mci s (.ring c) op input h = s := by
  rw [mci]
  dsimp only
  rw [absent]
  exact ite_self s

/-- An entry whose input cannot be taken ends with LENGTH or RESERVED. -/
theorem mci_ring_ended {c : Ctx} {f : Flight} (heard : stewardHears s (.ring c) = true) (found : handed s c op input = some f)
    (bad : returnCode op input ≠ 0) : mci s (.ring c) op input h =
      endSteward (beginFlight s c f.tag) c f.tag (if returnCode op input = 0x16 then stLength else stReserved) [] := by
  rw [mci, if_neg (by simp [heard])]
  dsimp only
  rw [found]
  cases row : mciRow op with
  | none => rw [returnCode_unknown row]; rfl
  | some r =>
    dsimp only
    split <;> rfl

/-- A second background command is answered Busy. -/
theorem mci_busy {p : Port} {b : Bool} (heard : stewardHears s (.mailbox p b) = true) (good : returnCode op input = 0)
    (background : op ∈ backgroundOps) (busy : (mbox s p b).bg.isSome = true) :
    mci s (.mailbox p b) op input h = s.reply (.mailbox p b) 6 [] := by
  obtain ⟨row, known⟩ := row_of_returnCode good
  rw [mci, if_neg (by simp [heard]), known]
  dsimp only
  rw [if_neg (not_not.mpr good), if_pos (List.contains_iff_mem.mpr background), if_pos busy]

end

/-! ### Authority and the common statuses (R379, R403) -/

section
variable {a : State} {via : Path} {op : Nat} {row : MciRow}

theorem commonStatus_denied (denied : classAccepts a row.cls via = false) : commonStatus a op row via = stDenied :=
  if_pos (by simp [denied])

section
variable (accepts : classAccepts a row.cls via = true) (cls : row.cls = .context)
include accepts cls

/-- A path that names no context has none to give a context's command to. -/
theorem commonStatus_noContext (unnamed : pathCtx a via = none) : commonStatus a op row via = stNoContext :=
  (if_neg (by simp [accepts])).trans (if_pos (by simp [cls, unnamed]))

/-- The statuses that a context's command is judged by, in their order. -/
theorem commonStatus_context {c : Ctx} (ctx : pathCtx a via = some c) : commonStatus a op row via =
    if a.rv.outOfService = true ∧ op ∈ outOfServiceOps then stOutOfService
    else if tenantPath a via = true ∧ (a.ctx c).expired = true then stLeaseExpired
    else if (a.ctx c).quarantined = true ∧ op ∉ quarantineOps then stQuarantined else stOK := by
  rw [commonStatus, if_neg (by simp [accepts]), if_neg (by simp [ctx]), ctx]
  simp [cls]

end

/-- A command that a common status refuses is answered with it. -/
theorem runHandler_refused {st : Nat} (status : commonStatus a op row via = st) (notDenied : st ≠ stDenied) (bad : st ≠ stOK)
    (tag : Word) (input : List Byte) (h : Handler) : runHandler a via tag op row input h = answer a via tag op st [] := by
  rw [runHandler, status]
  exact (if_neg notDenied).trans (if_pos bad)

/-- A command without authority is answered DENIED, and REFUSED is set. -/
theorem runHandler_denied (status : commonStatus a op row via = stDenied) (tag : Word) (input : List Byte) (h : Handler) :
    runHandler a via tag op row input h = answer (setInt a 10 2) via tag op stDenied [] := by
  rw [runHandler, status]
  exact if_pos rfl

end

/-! ### The handing over of an entry, and answers (R383, R385, R397) -/

/-- A command whose pages are resident is carried out, and its pins end. -/
theorem nmRun_resident {a : State} {e : Line}
    (resident : (runPids a (nmRuns e)).any (fun p => pageMissing a p || pageWaits a p) = false) (c : Ctx) :
    nmRun a c e = unpinPages (nmAct a c e) (cmdPin c (BitVec.ofNat 32 (entryField e 4 4))) := if_neg (by simp [resident])

/-- The answer of a command on a ring goes to its buffer, or ends with LENGTH where it does not fit. -/
theorem endSteward_found {s : State} {c : Ctx} {tag : Word} {f : Flight}
    (found : (s.ctx c).ring.flights.find? (fun f => f.steward && f.tag == tag && f.begun && f.ended.isNone) = some f)
    (st : Nat) (out : List Byte) : endSteward s c tag st out =
      if f.outLen < (answerBytes st out).length then endFlight (s.bump 0xA0018 1) c tag 16 stLength [0]
      else endFlight (writeBytes (s.bump 0xA0018 1) (stewardOf c tag) f.outAddr (answerBytes st out)) c tag 16 st
        (w1 (answerBytes st out).length) := by
  rw [endSteward, found]

section
variable {s : State} {p : Port} {b : Bool} {op : Nat}

/-- The result of a background command stands in its mailbox. -/
theorem answer_background (background : op ∈ backgroundOps) (tag : Word) (st : Nat) (out : List Byte) :
    answer s (.mailbox p b) tag op st out = (s.bump 0xA0018 1).modMbox p b (fun m => { m with
      bg := m.bg.map (fun g => { g with output := answerBytes st out, done := true }) }) :=
  if_pos (List.contains_iff_mem.mpr background)

/-- The result of any other command is sent. -/
theorem answer_foreground (foreground : op ∉ backgroundOps) (st : Nat) (out : List Byte) :
    answer s (.mailbox p b) 0 op st out = (s.bump 0xA0018 1).reply (.mailbox p b) 0 (answerBytes st out) :=
  (if_neg (by simpa using foreground)).trans (if_neg (by simp))

/-- Emptying a mailbox leaves its interrupt enable. -/
theorem bgInt_emptied (o : Output) :
    (mbox ((s.modMbox p b (fun m => { m with bg := none, discard := false })).emit o) p b).bgInt = (mbox s p b).bgInt := by
  cases b <;> simp [mbox, State.modMbox]

/-- A background command that has not ended completes nothing; one that has gives its result and its interrupt, unless a
function-level reset took them away. -/
theorem backgroundDone_eq {g : Background} (running : (mbox s p b).bg = some g) : backgroundDone s p b =
    if g.done = false then s else
      let t := s.modMbox p b (fun m => { m with bg := none, discard := false })
      if (mbox s p b).discard then t else
        let u := t.emit (.mailbox (.mailbox p b) 0 g.output)
        if (mbox s p b).bgInt then sendMsix u (.pf p) (b2n b) else u := by
  rw [backgroundDone, running]
  simp only [Bool.not_eq_true', bgInt_emptied]

end

end Sys2Proof.Machine

namespace Sys2Proof.Proofs
open Machine

/-- Settles O35: the input by `mci_returned` and `mci_ring_ended`, the authority and the statuses by `commonStatus_context`, the
handler by `mci_of_accepted`, answers by `endSteward_found`, `answer_background` and `backgroundDone_eq`. -/
theorem commandPaths : Obligations.CommandPaths := by
  refine ⟨fun s via op input h => ⟨mci_unheard, mci_returned, ?ring, ?busy, fun a tag row reaches known => ?statuses,
    fun a m accepted => mci_of_accepted accepted h⟩, fun s c e a tag => ⟨fun taken => ?handOver, fun op st out f found => ?ringAnswer,
    fun n op st out => rfl, fun p b op st out => ?mailboxAnswer⟩⟩
  case ring =>
    rintro c rfl heard
    exact ⟨mci_unhanded, fun f found bad => mci_ring_ended heard found bad⟩
  case busy =>
    rintro p b rfl heard good background busy
    exact mci_busy heard good background busy
  case statuses =>
    rw [mci_of_reaches reaches known]
    refine ⟨fun denied => runHandler_denied (commonStatus_denied denied) .., fun accepts cls unnamed =>
      runHandler_refused (commonStatus_noContext accepts cls unnamed) (by decide) (by decide) .., fun c accepts cls ctx => ?_⟩
    have status := commonStatus_context (op := op) accepts cls ctx
    refine ⟨fun out listed => runHandler_refused (status.trans (if_pos ⟨out, listed⟩)) (by decide) (by decide) ..,
      fun inService => ⟨fun tenant expired => ?_, fun leased quarantined unlisted => ?_⟩⟩
    · exact runHandler_refused (status.trans ((if_neg (by simp [inService])).trans (if_pos ⟨tenant, expired⟩)))
        (by decide) (by decide) ..
    · exact runHandler_refused (status.trans ((if_neg (by simp [inService])).trans
        ((if_neg (by simp [leased])).trans (if_pos ⟨quarantined, unlisted⟩)))) (by decide) (by decide) ..
  case handOver =>
    rw [exec_steward, execSteward, ringCmd_taken taken]
    refine ⟨fun outside => congrArg _ (if_pos (by rw [outside]; rfl)), fun inside resident => congrArg _ ?_⟩
    exact (if_neg (by rw [inside]; decide)).trans (nmRun_resident resident c)
  case ringAnswer =>
    have ended := endSteward_found found st out
    exact ⟨fun long => ended.trans (if_pos long), fun fits => ended.trans (if_neg (Nat.not_lt.mpr fits))⟩
  case mailboxAnswer =>
    refine ⟨fun background => answer_background background tag st out, fun foreground zero => zero ▸ answer_foreground foreground st out,
      fun g running => ⟨fun early => ?_, fun done => ?_⟩⟩
    · exact congrArg Host.Outcome.next ((backgroundDone_eq running).trans (if_pos early))
    · refine congrArg Host.Outcome.next ((backgroundDone_eq running).trans (if_neg (by simp [done])))

end Sys2Proof.Proofs

/-! ## Hangs (R407, R408, R413, R429) -/

namespace Sys2Proof.Machine

/-- A detection that has fired in this frame is merged; the first of a frame fires. -/
theorem fireOnce_fired {s : State} {cls unit sub : Nat} (h : (cls, unit, sub) ∈ s.rv.fired) (f merged : State → State) :
    fireOnce s cls unit sub f merged = merged s := if_pos (List.contains_iff_mem.mpr h)

theorem fireOnce_first {s : State} {cls unit sub : Nat} (h : (cls, unit, sub) ∉ s.rv.fired) (f merged : State → State) :
    fireOnce s cls unit sub f merged = f (s.modRv (fun v => { v with fired := v.fired ++ [(cls, unit, sub)] })) :=
  if_neg (by simpa using h)

/-! ### Cores (detectors 1 to 3) -/

theorem engineUnits_core (k : CoreId) : engineUnits k.val = [.engine k false, .engine k true] := by
  rw [engineUnits, show (Fin.ofNat 2560 k.val : CoreId) = k from Fin.ext (Nat.mod_eq_of_lt k.isLt)]

section
variable {s : State} {k : CoreId}

/-- The hang that a detector of a core with a run makes. -/
def coreFires (s : State) (k : CoreId) (r det kind : Nat) (units : List ResetUnit) : State :=
  coreHang s { det := det, kind := kind, num := k.val / 128, core := k.val % 128 } r [k.val] units

theorem xwaitLimit_run {r : Nat} (run : (s.core k.val).run = some r) : exec (.xwaitLimit k) s = .next (
    if (s.core k.val).st = .xwait ∧ s.fieldEff 0xB0000 4 12 ≠ 0 ∧ s.fieldEff 0xB0000 4 12 ≤ (s.core k.val).xbounds then
      coreFires s k r 1 1 [.engine k false, .engine k true] else s) := by
  rw [exec_xwaitLimit, execXwaitLimit, ← engineUnits_core]
  simp only [run, Bool.and_eq_true, beq_iff_eq, bne_iff_ne, decide_eq_true_eq, and_assoc]
  rfl

theorem unpickStalled_run {r : Nat} (run : (s.core k.val).run = some r) : exec (.unpickStalled k) s = .next (
    if (s.core k.val).st = .unpicking then coreFires s k r 3 1 [.engine k false, .engine k true] else s) := by
  rw [exec_unpickStalled, execUnpickStalled, run, ← engineUnits_core]
  simp only [beq_iff_eq]
  rfl

theorem engineStuck_run {r : Nat} (run : (s.core k.val).run = some r) (se : Bool) :
    exec (.engineStuck k se) s = .next (coreFires s k r 2 0 [.engine k se]) := by
  rw [exec_engineStuck, execEngineStuck, run]
  rfl

/-- No detector fires for a core without a run. -/
theorem coreDetectors_idle (idle : (s.core k.val).run = none) : exec (.xwaitLimit k) s = .next s ∧
    exec (.unpickStalled k) s = .next s ∧ ∀ se, exec (.engineStuck k se) s = .next s := by
  refine ⟨?_, ?_, fun se => ?_⟩
  · simp only [exec_xwaitLimit, execXwaitLimit, idle]
  · rw [exec_unpickStalled, execUnpickStalled, idle]
  · rw [exec_engineStuck, execEngineStuck, idle]

end

/-! ### Clusters, stacks and dies (detectors 4 to 8) -/

theorem clusterHang_off {s : State} {c : Cluster} (off : domOn s (2 * c.val) = false) (det : Nat) : clusterHang s det c = s :=
  if_pos (by simp [off])

/-- A detector of a cluster that is on fires once in a frame. -/
theorem clusterHang_on {s : State} {c : Cluster} (on : domOn s (2 * c.val) = true) (det : Nat) :
    clusterHang s det c = fireOnce s 4 c.val 0
      (fun s => hang s { det := det, kind := 2, num := c.val } (fun k => k / 128 == c.val) [.cluster c]) (fun s => s) :=
  if_neg (by simp [on])

/-! ### Commands (detector 9), and what a hang notes -/

/-- A command that a detector of progress watches: in flight, of NM_, SWAP_ or CODEC_. -/
theorem watched_iff (fs : List Flight) (tag : Word) :
    fs.any (fun f => f.tag == tag && f.ended.isNone && decide (5 ≤ f.opcode.toNat) && decide (f.opcode.toNat ≤ 14)) = true ↔
      ∃ f ∈ fs, f.tag = tag ∧ f.ended = none ∧ 5 ≤ f.opcode.toNat ∧ f.opcode.toNat ≤ 14 := by
  simp only [List.any_eq_true, Bool.and_eq_true, beq_iff_eq, Option.isNone_iff_eq_none, decide_eq_true_eq, and_assoc]

end Sys2Proof.Machine

namespace Sys2Proof.Proofs
open Machine

/-- Settles O55: the detectors of cores by `xwaitLimit_run` and its kin, those of clusters by `clusterHang_on`, all once in a frame
by `fireOnce_first` and `fireOnce_fired`. -/
theorem hangDetectors : Obligations.HangDetectors := by
  refine fun s => ⟨fun k r run => ?cores, fun k idle => coreDetectors_idle idle, fun n i det c row number => ?clusters,
    fun t => ⟨fun quiet => ?stackQuiet, fun awake on first => ?stackFires⟩, fun d first => ?dies, fun det i row => ?hub,
    fun c tag => ⟨fun dead => ?noCommand, fun live first => ?command⟩, rfl, fun h sus aff cs => ⟨_, rfl, rfl, rfl⟩⟩
  case cores =>
    have limit := xwaitLimit_run run
    have stalled := unpickStalled_run run
    exact ⟨fun st on reached => limit.trans (congrArg _ (if_pos ⟨st, on, reached⟩)),
      fun short => limit.trans (congrArg _ (if_neg (by rcases short with h | h | h <;> simp [h]))), engineStuck_run run,
      fun st => stalled.trans (congrArg _ (if_pos st)), fun st => stalled.trans (congrArg _ (if_neg st))⟩
  case clusters =>
    subst number
    have fires : exec i s = .next (clusterHang s det c) := by
      simp only [List.mem_cons, Prod.mk.injEq, List.not_mem_nil, or_false] at row
      rcases row with ⟨rfl, rfl⟩ | ⟨rfl, rfl⟩ <;> rfl
    rw [fires]
    exact ⟨fun off => congrArg _ (clusterHang_off off det),
      fun on fired => congrArg _ ((clusterHang_on on det).trans (fireOnce_fired fired ..)),
      fun on first => congrArg _ ((clusterHang_on on det).trans (fireOnce_first first ..))⟩
  case stackQuiet =>
    rw [exec_stackHeartbeatMiss, execStackHeartbeatMiss]
    split
    · rfl
    · next awake =>
      rcases quiet with h | h | fired
      · simp [h] at awake
      · simp [h] at awake
      · rw [fireOnce_fired fired]
  case stackFires => exact congrArg Host.Outcome.next ((if_neg (by simp [awake, on])).trans (fireOnce_first first ..))
  case dies => exact congrArg Host.Outcome.next ((dif_pos d.isLt).trans (fireOnce_first first ..))
  case hub =>
    have fires : exec i s = .next (hubHang s det) := by
      simp only [List.mem_cons, Prod.mk.injEq, List.not_mem_nil, or_false] at row
      rcases row with ⟨rfl, rfl⟩ | ⟨rfl, rfl⟩ <;> rfl
    rw [fires]
    exact ⟨fun first => congrArg _ (fireOnce_first first ..), fun fired => congrArg _ (fireOnce_fired fired ..)⟩
  case noCommand => exact congrArg Host.Outcome.next (if_neg (mt (watched_iff _ _).mp dead))
  case command => exact congrArg Host.Outcome.next ((if_pos ((watched_iff _ _).mpr live)).trans (fireOnce_first first ..))

end Sys2Proof.Proofs
